-- ==== Sys2Proof/Word.lean ====
section
/-! DEFINITION. The word types of the machine and nothing else (R8, R311). -/

namespace Sys2Proof

/-- A byte of memory. -/
abbrev Byte := BitVec 8
/-- A 16-bit value. -/
abbrev Half := BitVec 16
/-- A 32-bit value, such as an FP32 element. -/
abbrev W32 := BitVec 32
/-- A 64-bit value: an x register, a CSR, an address. -/
abbrev Word := BitVec 64
/-- A 64-byte line, a vector register or a handle: byte 0 in the lowest bits (R8, R284). -/
abbrev Line := BitVec 512

end Sys2Proof
end

