-- ==== Sys2Proof/Machine/Bits.lean ====
section
/-! DEFINITION. Bit fields, sign extension and byte order: the one place where bytes become numbers (R8: little-endian). -/

namespace Sys2Proof

/-- Bits lo + len − 1 down to lo of a number. -/
def natBits (v lo len : Nat) : Nat := v / 2 ^ lo % 2 ^ len

/-- Bit `i` of a number. -/
def natBit (v i : Nat) : Bool := v / 2 ^ i % 2 == 1

/-- `v` with the field of `len` bits at `lo` replaced by `f`. -/
def natSetBits (v lo len f : Nat) : Nat :=
  v / 2 ^ (lo + len) * 2 ^ (lo + len) + f % 2 ^ len * 2 ^ lo + v % 2 ^ lo

/-- Bits lo + len − 1 down to lo of a bit vector. -/
abbrev fld {n : Nat} (w : BitVec n) (lo len : Nat) : BitVec len := w.extractLsb' lo len

/-- Sign extension to 64 bits. -/
def sx {n : Nat} (v : BitVec n) : Word := v.signExtend 64

/-- Zero extension to 64 bits. -/
def zx {n : Nat} (v : BitVec n) : Word := v.setWidth 64

/-- The signed value of a `w`-bit field held in a number. -/
def natToInt (w v : Nat) : Int :=
  let x := v % 2 ^ w
  if x < 2 ^ (w - 1) then (x : Int) else (x : Int) - 2 ^ w

/-- The `w`-bit two's-complement number of an integer. -/
def intToNat (w : Nat) (v : Int) : Nat := (v % (2 ^ w : Int)).toNat

/-- The `n` low bytes of a number, lowest first. -/
def bytesOf : Nat → Nat → List Byte
  | 0, _ => []
  | n + 1, v => BitVec.ofNat 8 v :: bytesOf n (v / 256)

/-- The number whose bytes, lowest first, are given. -/
def ofBytes : List Byte → Nat
  | [] => 0
  | b :: r => b.toNat + 256 * ofBytes r

/-- ceil(a / b). -/
def ceilDiv (a b : Nat) : Nat := (a + b - 1) / b

/-- Bytes `off` to `off + n − 1` of a line, as a number. -/
def lineGet (l : Line) (off n : Nat) : Nat := natBits l.toNat (8 * off) (8 * n)

/-- A line with bytes `off` to `off + n − 1` replaced. -/
def lineSet (l : Line) (off n v : Nat) : Line := BitVec.ofNat 512 (natSetBits l.toNat (8 * off) (8 * n) v)

/-- The mask with bit i set for every byte i from `off` to `off + n − 1`. -/
def byteMask (off n : Nat) : BitVec 64 := BitVec.ofNat 64 ((2 ^ n - 1) * 2 ^ off)

/-- Merge `new` into `old` under a byte mask, bytes below `k`. -/
def mergeBytes (mask : BitVec 64) (old new : Nat) : Nat → Nat
  | 0 => 0
  | k + 1 =>
    mergeBytes mask old new k +
      (if mask.getLsbD k then natBits new (8 * k) 8 else natBits old (8 * k) 8) * 2 ^ (8 * k)

/-- A line with the bytes under `mask` replaced by those of `new`. -/
def lineMerge (mask : BitVec 64) (old new : Line) : Line :=
  BitVec.ofNat 512 (mergeBytes mask old.toNat new.toNat 64)

/-- The number of bits set among the low `n` bits. -/
def popCountTo (v : Nat) : Nat → Nat
  | 0 => 0
  | n + 1 => popCountTo v n + (if natBit v n then 1 else 0)

end Sys2Proof
end

