-- ==== Sys2Proof/Syntax.lean ====
section
/-! DEFINITION. The instructions and events of the Ubiraku: one constructor of `Instr` for every row of the table of
operations (spec/opcode_table.json). The rows that are events of a unit (a home serving a request, the dispatcher
pairing a task with a hart, ...) are constructors like the instructions: 95_what_each_step_holds.md calls every row one
whole, indivisible step of the part. -/

namespace Sys2Proof

/-- A register-number field: five bits in every encoding (R314, R315). -/
abbrev Reg := BitVec 5

/-- Element types of the vector unit, in the order of the custom-2 f3 codes (R320). -/
inductive VTy | i8 | i16 | i32 | i64 | bf16 | f16 | f32 | fp8
  deriving DecidableEq, Repr

/-- Scopes of FENCE.S, in the order of their codes 0 to 5 (R257). -/
inductive Scope | hart | quad | group | die | package | system
  deriving DecidableEq, Repr

/-- Register-register computations of RV64I, M, Zba, Zbb and Zicond (R308). -/
inductive AluRR
  | add | sub | sll | slt | sltu | xor | srl | sra | or | and
  | addw | subw | sllw | srlw | sraw
  | mul | mulh | mulhsu | mulhu | div | divu | rem | remu
  | mulw | divw | divuw | remw | remuw
  | adduw | sh1add | sh2add | sh3add | sh1adduw | sh2adduw | sh3adduw
  | andn | orn | xnor | max | maxu | min | minu | rol | ror | rolw | rorw
  | czeroEqz | czeroNez
  deriving DecidableEq, Repr

/-- Computations with a 12-bit immediate (R308). -/
inductive AluRI | addi | slti | sltiu | xori | ori | andi | addiw
  deriving DecidableEq, Repr

/-- Shifts and rotates by an immediate (R308). The w forms take five bits. -/
inductive AluSh | slli | srli | srai | rori | slliuw | slliw | srliw | sraiw | roriw
  deriving DecidableEq, Repr

/-- One-operand computations of Zbb (R308). -/
inductive AluU | clz | ctz | cpop | clzw | ctzw | cpopw | sextb | sexth | zexth | rev8 | orcb
  deriving DecidableEq, Repr

/-- The computational instructions of the base (R308): the row INTEGER_ALU. -/
inductive Alu
  | rr (op : AluRR) (rd rs1 rs2 : Reg)
  | ri (op : AluRI) (rd rs1 : Reg) (imm : BitVec 12)
  | sh (op : AluSh) (rd rs1 : Reg) (sh : BitVec 6)
  | un (op : AluU) (rd rs1 : Reg)
  | lui (rd : Reg) (imm : BitVec 20)
  | auipc (rd : Reg) (imm : BitVec 20)
  deriving DecidableEq, Repr

/-- Branch conditions. -/
inductive Cond | eq | ne | lt | ge | ltu | geu
  deriving DecidableEq, Repr

/-- Control transfers (the row CONTROL_TRANSFER). Offsets of branches and JAL are kept without their bit 0,
which is always zero. -/
inductive Ct
  | branch (c : Cond) (rs1 rs2 : Reg) (off : BitVec 12)
  | jal (rd : Reg) (off : BitVec 20)
  | jalr (rd rs1 : Reg) (imm : BitVec 12)
  deriving DecidableEq, Repr

inductive LoadWidth | lb | lh | lw | ld | lbu | lhu | lwu
  deriving DecidableEq, Repr

inductive StoreWidth | sb | sh | sw | sd
  deriving DecidableEq, Repr

/-- The read-modify-write operations of A and Zacas. -/
inductive AmoOp | swap | add | xor | and | or | min | max | minu | maxu | cas
  deriving DecidableEq, Repr

/-- The three CSR operations of Zicsr. -/
inductive CsrOp | rw | rs | rc
  deriving DecidableEq, Repr

/-- The source of a CSR instruction: a register, or a five-bit immediate. -/
inductive CsrSrc
  | reg (r : Reg)
  | imm (v : BitVec 5)
  deriving DecidableEq, Repr

/-- What an error completion of a host request carries (R43). -/
inductive HostErr | unsupported | abort | poison
  deriving DecidableEq, Repr

/-- The rows of the table of operations: the instructions of a hart first, then the events. -/
inductive Instr
  /-- ECALL_ENVIRONMENT: ECALL, and EBREAK when `brk` (R93, R160). -/
  | ecallEnvironment (brk : Bool)
  /-- CSR_WRITE: a CSR instruction (R325). -/
  | csrWrite (op : CsrOp) (csr : BitVec 12) (src : CsrSrc) (rd : Reg)
  /-- BUDGET_WRITE: a write of that CSR (R129). -/
  | budgetWrite (op : CsrOp) (src : CsrSrc) (rd : Reg)
  /-- DRIFT_WRITE: a write of that CSR (R232). -/
  | driftWrite (op : CsrOp) (src : CsrSrc) (rd : Reg)
  /-- LEASE_WRITE: a write of that CSR (R233). -/
  | leaseWrite (op : CsrOp) (src : CsrSrc) (rd : Reg)
  /-- RMODE_WRITE: a write of that CSR (R288). -/
  | rmodeWrite (op : CsrOp) (src : CsrSrc) (rd : Reg)
  /-- TRCFG_WRITE: a write of that CSR (R186). -/
  | trcfgWrite (op : CsrOp) (src : CsrSrc) (rd : Reg)
  /-- XFCTL_RESUME: a write of that CSR (R170). -/
  | xfctlResume (op : CsrOp) (src : CsrSrc) (rd : Reg)
  /-- XFCTL_FAIL: a write of that CSR (R170). -/
  | xfctlFail (op : CsrOp) (src : CsrSrc) (rd : Reg)
  /-- LOAD: LB to LWU (R308, R256). -/
  | load (w : LoadWidth) (rd : Reg) (rs1 : Reg) (imm : BitVec 12)
  /-- STORE: SB to SD (R308, R262). -/
  | store (w : StoreWidth) (rs2 : Reg) (rs1 : Reg) (imm : BitVec 12)
  /-- AMO: AMO and amocas, .d when `dw` (R272). -/
  | amo (op : AmoOp) (dw : Bool) (aq : Bool) (rl : Bool) (rd : Reg) (rs1 : Reg) (rs2 : Reg)
  /-- LR: LR (R238, R272). -/
  | lr (dw : Bool) (aq : Bool) (rl : Bool) (rd : Reg) (rs1 : Reg)
  /-- SC: SC (R238, R272). -/
  | sc (dw : Bool) (aq : Bool) (rl : Bool) (rd : Reg) (rs1 : Reg) (rs2 : Reg)
  /-- AMOCAS_Q: amocas.q (R478). -/
  | amocasQ (aq : Bool) (rl : Bool) (rd : Reg) (rs1 : Reg) (rs2 : Reg)
  /-- SFENCE_VMA: SFENCE.VMA (R228). -/
  | sfenceVma (rs1 : Reg) (rs2 : Reg)
  /-- FENCE: FENCE, whatever its fields (R267). -/
  | fence (fm : BitVec 4) (pred : BitVec 4) (succ : BitVec 4) (rd : Reg) (rs1 : Reg)
  /-- FENCE_TSO: FENCE.TSO (R267). -/
  | fenceTso (rd : Reg) (rs1 : Reg)
  /-- FENCE_I: FENCE.I (R267). -/
  | fenceI (rd : Reg) (rs1 : Reg) (imm : BitVec 12)
  /-- TRETIRE: R338. -/
  | tretire (a : Reg)
  /-- TRETIRE_A: R338. -/
  | tretireA (a : Reg)
  /-- TSPAWN: R340. -/
  | tspawn (d : Reg) (a : Reg)
  /-- TSPAWN_N: R340. -/
  | tspawnN (d : Reg) (a : Reg)
  /-- TSPAWN_OFF: R340. -/
  | tspawnOff (d : Reg) (a : Reg) (off : BitVec 24)
  /-- TSPAWN_N_OFF: R340. -/
  | tspawnNOff (d : Reg) (a : Reg) (off : BitVec 24)
  /-- TCANCEL: R341. -/
  | tcancel (d : Reg) (a : Reg)
  /-- TSTAT: R342. -/
  | tstat (d : Reg) (a : Reg)
  /-- TWDCHK: R343. -/
  | twdchk (d : Reg)
  /-- TBUDGET: R343. -/
  | tbudget (d : Reg)
  /-- TSELF: R343. -/
  | tself (d : Reg)
  /-- DRANK: R343. -/
  | drank (d : Reg)
  /-- DSIZE: R343. -/
  | dsize (d : Reg)
  /-- BBIND: R348. -/
  | bbind (n : Reg) (a : Reg) (b : Reg)
  /-- BBIND_I: R348. -/
  | bbindI (n : Reg) (a : Reg) (cfg : BitVec 16)
  /-- BARRIVE: R349. -/
  | barrive (n : Reg) (a : Reg)
  /-- BWAIT: R350. -/
  | bwait (d : Reg) (n : Reg)
  /-- BSYNC: R351. -/
  | bsync (d : Reg) (n : Reg) (a : Reg)
  /-- BEXPECT: R352. -/
  | bexpect (n : Reg) (a : Reg)
  /-- BEXPECT_I: R352. -/
  | bexpectI (n : Reg) (bytes : BitVec 24)
  /-- BTEST: R353. -/
  | btest (d : Reg) (n : Reg)
  /-- BUNBIND: R353. -/
  | bunbind (n : Reg)
  /-- MSEND: R356. -/
  | msend (d : Reg) (a : Reg) (b : Reg)
  /-- MSEND_I: R356. -/
  | msendI (d : Reg) (a : Reg) (b : Reg) (c : Reg) (tag : BitVec 16)
  /-- MRECV: R357. -/
  | mrecv (d : Reg) (a : Reg)
  /-- MPOLL: R358. -/
  | mpoll (d : Reg)
  /-- MWAIT: R358. -/
  | mwait (d : Reg)
  /-- MHDR: R358. -/
  | mhdr (d : Reg)
  /-- CLKRD: R359. -/
  | clkrd (d : Reg)
  /-- CLKADV: R360. -/
  | clkadv (a : Reg)
  /-- CLKADV_OFF: R360. -/
  | clkadvOff (a : Reg) (off : BitVec 24)
  /-- LWAIT: R361. -/
  | lwait (d : Reg) (a : Reg)
  /-- LWAIT_OFF: R361. -/
  | lwaitOff (d : Reg) (a : Reg) (off : BitVec 24)
  /-- FENCES_FULL: R362, R266. -/
  | fencesFull (d : Reg) (scope : Scope)
  /-- FENCES_ACQUIRE: R362, R266. -/
  | fencesAcquire (d : Reg) (scope : Scope)
  /-- FENCES_RELEASE: R362, R266. -/
  | fencesRelease (d : Reg) (scope : Scope)
  /-- REPB: R363; `len` is the block length less 1, `ring` is log2(ring) − 1. -/
  | repb (a : Reg) (len : BitVec 3) (ring : BitVec 2)
  /-- TRMARK: R364. -/
  | trmark (a : Reg)
  /-- TRMARK_I: R364. -/
  | trmarkI (imm : BitVec 24)
  /-- CTXPRE: R365. -/
  | ctxpre (d : Reg) (a : Reg) (b : Reg)
  /-- CTXREL: R366. -/
  | ctxrel (d : Reg) (a : Reg)
  /-- MCSET: R367. -/
  | mcset (d : Reg) (a : Reg) (b : Reg)
  /-- AUDAPP: R368. -/
  | audapp (d : Reg) (a : Reg) (b : Reg)
  /-- RGNIL: R380. -/
  | rgnil (d : Reg) (n : BitVec 5)
  /-- RGFULL: R380. -/
  | rgfull (d : Reg) (a : Reg)
  /-- RGPT: R380. -/
  | rgpt (d : Reg) (a : Reg) (b : Reg)
  /-- RGPT_I: R380; `n` is the dimension count less 1. -/
  | rgptI (d : Reg) (a : Reg) (b : Reg) (n : BitVec 2) (e : BitVec 24)
  /-- RGCLIP: R381. -/
  | rgclip (d : Reg) (a : Reg) (b : Reg)
  /-- RGUNI: R382. -/
  | rguni (d : Reg) (a : Reg) (b : Reg)
  /-- RGINT: R382. -/
  | rgint (d : Reg) (a : Reg) (b : Reg)
  /-- RGSUB: R382. -/
  | rgsub (d : Reg) (a : Reg) (b : Reg)
  /-- RGDIL: R383. -/
  | rgdil (d : Reg) (a : Reg) (b : Reg)
  /-- RGDIL_I: R383. -/
  | rgdilI (d : Reg) (a : Reg) (imm : BitVec 24)
  /-- RGSHF: R384. -/
  | rgshf (d : Reg) (a : Reg) (b : Reg)
  /-- RGSHF_I: R384. -/
  | rgshfI (d : Reg) (a : Reg) (imm : BitVec 24)
  /-- RGPRJ: R385. -/
  | rgprj (d : Reg) (a : Reg) (b : Reg)
  /-- RGPRJ_I: R385. -/
  | rgprjI (d : Reg) (a : Reg) (imm : BitVec 24)
  /-- RGXPD: R386. -/
  | rgxpd (d : Reg) (a : Reg) (b : Reg)
  /-- RGXPD_I: R386. -/
  | rgxpdI (d : Reg) (a : Reg) (imm : BitVec 24)
  /-- RGLAT: R387. -/
  | rglat (d : Reg) (a : Reg) (b : Reg)
  /-- RGLAT_I: R387. -/
  | rglatI (d : Reg) (a : Reg) (imm : BitVec 24)
  /-- RGCUT: R388. -/
  | rgcut (d : Reg) (a : Reg) (b : Reg)
  /-- RGCUT_I: R388. -/
  | rgcutI (d : Reg) (a : Reg) (imm : BitVec 24)
  /-- RGSPL: R389. -/
  | rgspl (d : Reg) (a : Reg) (b : Reg)
  /-- RGSPL_I: R389. -/
  | rgsplI (d : Reg) (a : Reg) (imm : BitVec 24)
  /-- RGBBOX: R390. -/
  | rgbbox (d : Reg) (a : Reg)
  /-- RGMV: R391. -/
  | rgmv (d : Reg) (a : Reg)
  /-- RGCAN: R391. -/
  | rgcan (d : Reg) (a : Reg)
  /-- RGLD: R392. -/
  | rgld (d : Reg) (a : Reg)
  /-- RGLD_IMM: R392. -/
  | rgldImm (d : Reg) (a : Reg) (imm : BitVec 12)
  /-- RGLD_W64: R392. -/
  | rgldW64 (d : Reg) (a : Reg) (off : BitVec 24)
  /-- RGST: R393. -/
  | rgst (d : Reg) (a : Reg)
  /-- RGST_IMM: R393. -/
  | rgstImm (d : Reg) (a : Reg) (imm : BitVec 12)
  /-- RGST_W64: R393. -/
  | rgstW64 (d : Reg) (a : Reg) (off : BitVec 24)
  /-- RGCNT: R394. -/
  | rgcnt (d : Reg) (a : Reg)
  /-- RGNBX: R394. -/
  | rgnbx (d : Reg) (a : Reg)
  /-- RGTST: R395. -/
  | rgtst (d : Reg) (a : Reg) (b : Reg)
  /-- RGEQ: R395. -/
  | rgeq (d : Reg) (a : Reg) (b : Reg)
  /-- RGSUBS: R395. -/
  | rgsubs (d : Reg) (a : Reg) (b : Reg)
  /-- RGGET: R396. -/
  | rgget (d : Reg) (a : Reg) (b : Reg)
  /-- RGGET_I: R396. -/
  | rggetI (d : Reg) (a : Reg) (sel : BitVec 7)
  /-- HLD: R401. -/
  | hld (d : Reg) (a : Reg)
  /-- HLD_IMM: R401. -/
  | hldImm (d : Reg) (a : Reg) (imm : BitVec 12)
  /-- HLD_W64: R401. -/
  | hldW64 (d : Reg) (a : Reg) (off : BitVec 24)
  /-- HST: R401. -/
  | hst (d : Reg) (a : Reg)
  /-- HST_IMM: R401. -/
  | hstImm (d : Reg) (a : Reg) (imm : BitVec 12)
  /-- HST_W64: R401. -/
  | hstW64 (d : Reg) (a : Reg) (off : BitVec 24)
  /-- HGET: R401. -/
  | hget (d : Reg) (a : Reg) (b : Reg)
  /-- HGET_I: R401. -/
  | hgetI (d : Reg) (a : Reg) (sel : BitVec 3)
  /-- HSETX: R401. -/
  | hsetx (d : Reg) (a : Reg) (b : Reg)
  /-- HSETX_I: R401. -/
  | hsetxI (d : Reg) (a : Reg) (sel : BitVec 3)
  /-- COPY: R409; pad mode. -/
  | copy (d : Reg) (a : Reg) (b : Reg)
  /-- COPY_CLIP: R409; clip mode. -/
  | copyClip (d : Reg) (a : Reg) (b : Reg)
  /-- COPY_W64: R409, R404; clip mode when `clip`. -/
  | copyW64 (clip : Bool) (d : Reg) (a : Reg) (b : Reg) (c : Reg) (imm : BitVec 24)
  /-- COPYB: R409; pad mode. -/
  | copyb (n : Reg) (a : Reg) (b : Reg)
  /-- COPYB_CLIP: R409; clip mode. -/
  | copybClip (n : Reg) (a : Reg) (b : Reg)
  /-- COPYB_W64: R409, R404; clip mode when `clip`. -/
  | copybW64 (clip : Bool) (n : Reg) (a : Reg) (b : Reg) (c : Reg) (imm : BitVec 24)
  /-- COPYN: R409; pad mode. -/
  | copyn (d : Reg) (a : Reg) (b : Reg)
  /-- COPYN_CLIP: R409; clip mode. -/
  | copynClip (d : Reg) (a : Reg) (b : Reg)
  /-- COPYN_W64: R409, R404; clip mode when `clip`. -/
  | copynW64 (clip : Bool) (d : Reg) (a : Reg) (b : Reg) (c : Reg) (imm : BitVec 24)
  /-- GETX: R411; pad mode. -/
  | getx (d : Reg) (a : Reg) (b : Reg)
  /-- GETX_CLIP: R411; clip mode. -/
  | getxClip (d : Reg) (a : Reg) (b : Reg)
  /-- GETX_W64: R411, R404; clip mode when `clip`. -/
  | getxW64 (clip : Bool) (d : Reg) (a : Reg) (b : Reg) (c : Reg) (imm : BitVec 24)
  /-- PUTX: R411; pad mode. -/
  | putx (d : Reg) (a : Reg) (b : Reg)
  /-- PUTX_CLIP: R411; clip mode. -/
  | putxClip (d : Reg) (a : Reg) (b : Reg)
  /-- PUTX_W64: R411, R404; clip mode when `clip`. -/
  | putxW64 (clip : Bool) (d : Reg) (a : Reg) (b : Reg) (c : Reg) (imm : BitVec 24)
  /-- GETR: R412; pad mode. -/
  | getr (d : Reg) (a : Reg) (b : Reg)
  /-- GETR_CLIP: R412; clip mode. -/
  | getrClip (d : Reg) (a : Reg) (b : Reg)
  /-- GETR_W64: R412, R404; clip mode when `clip`. -/
  | getrW64 (clip : Bool) (d : Reg) (a : Reg) (b : Reg) (c : Reg) (imm : BitVec 24)
  /-- PUTR: R412; pad mode. -/
  | putr (d : Reg) (a : Reg) (b : Reg)
  /-- PUTR_CLIP: R412; clip mode. -/
  | putrClip (d : Reg) (a : Reg) (b : Reg)
  /-- PUTR_W64: R412, R404; clip mode when `clip`. -/
  | putrW64 (clip : Bool) (d : Reg) (a : Reg) (b : Reg) (c : Reg) (imm : BitVec 24)
  /-- PREF: R413. -/
  | pref (a : Reg) (b : Reg)
  /-- FLUSHR: R414. -/
  | flushr (d : Reg) (a : Reg) (b : Reg)
  /-- WAITG: R415. -/
  | waitg (d : Reg) (a : Reg) (b : Reg)
  /-- TKTEST: R416. -/
  | tktest (d : Reg) (a : Reg)
  /-- QBIND: R418. -/
  | qbind (n : Reg) (a : Reg) (b : Reg)
  /-- QACQ: R419. -/
  | qacq (d : Reg) (n : Reg)
  /-- QPUB: R419. -/
  | qpub (n : Reg) (a : Reg) (b : Reg)
  /-- QTAKE: R419. -/
  | qtake (d : Reg) (n : Reg)
  /-- QFREE: R419. -/
  | qfree (n : Reg) (a : Reg)
  /-- QEOS: R419. -/
  | qeos (n : Reg)
  /-- QSTAT: R419. -/
  | qstat (d : Reg) (n : Reg)
  /-- LDSUB: R420. -/
  | ldsub (d : Reg) (a : Reg) (b : Reg)
  /-- LDDRN: R420. -/
  | lddrn (d : Reg) (a : Reg) (b : Reg)
  /-- LDCAN: R421. -/
  | ldcan (d : Reg) (a : Reg)
  /-- VLD: R430. -/
  | vld (t : VTy) (d : Reg) (a : Reg)
  /-- VLD_OFF: R430. -/
  | vldOff (t : VTy) (d : Reg) (a : Reg) (off : BitVec 21)
  /-- VST: R430. -/
  | vst (t : VTy) (b : Reg) (a : Reg)
  /-- VST_OFF: R430. -/
  | vstOff (t : VTy) (b : Reg) (a : Reg) (off : BitVec 21)
  /-- VLDS: R431. -/
  | vlds (t : VTy) (d : Reg) (a : Reg) (c : Reg) (off : BitVec 21)
  /-- VSTS: R431. -/
  | vsts (t : VTy) (b : Reg) (a : Reg) (c : Reg) (off : BitVec 21)
  /-- VGATH: R432. -/
  | vgath (t : VTy) (d : Reg) (a : Reg) (b : Reg)
  /-- VGATH_OFF: R432. -/
  | vgathOff (t : VTy) (d : Reg) (a : Reg) (b : Reg) (off : BitVec 21)
  /-- VSCAT: R432. -/
  | vscat (t : VTy) (d : Reg) (a : Reg) (b : Reg)
  /-- VSCAT_OFF: R432. -/
  | vscatOff (t : VTy) (d : Reg) (a : Reg) (b : Reg) (off : BitVec 21)
  /-- VBCAST: R434. -/
  | vbcast (t : VTy) (d : Reg) (a : Reg)
  /-- VMVX: R434. -/
  | vmvx (t : VTy) (d : Reg) (a : Reg)
  /-- VMVX_LANE: R434. -/
  | vmvxLane (t : VTy) (d : Reg) (a : Reg) (lane : BitVec 6)
  /-- VMVV: R434. -/
  | vmvv (t : VTy) (d : Reg) (a : Reg)
  /-- VADD: R435. -/
  | vadd (t : VTy) (d : Reg) (a : Reg) (b : Reg)
  /-- VADD_VX: R435. -/
  | vaddVx (t : VTy) (d : Reg) (a : Reg) (b : Reg)
  /-- VSUB: R435. -/
  | vsub (t : VTy) (d : Reg) (a : Reg) (b : Reg)
  /-- VSUB_VX: R435. -/
  | vsubVx (t : VTy) (d : Reg) (a : Reg) (b : Reg)
  /-- VMUL: R435. -/
  | vmul (t : VTy) (d : Reg) (a : Reg) (b : Reg)
  /-- VMUL_VX: R435. -/
  | vmulVx (t : VTy) (d : Reg) (a : Reg) (b : Reg)
  /-- VFMA: R435. -/
  | vfma (t : VTy) (d : Reg) (a : Reg) (b : Reg)
  /-- VFMA_VX: R435. -/
  | vfmaVx (t : VTy) (d : Reg) (a : Reg) (b : Reg)
  /-- VFMS: R435. -/
  | vfms (t : VTy) (d : Reg) (a : Reg) (b : Reg)
  /-- VFMS_VX: R435. -/
  | vfmsVx (t : VTy) (d : Reg) (a : Reg) (b : Reg)
  /-- VMIN: R436. -/
  | vmin (t : VTy) (d : Reg) (a : Reg) (b : Reg)
  /-- VMIN_VX: R436. -/
  | vminVx (t : VTy) (d : Reg) (a : Reg) (b : Reg)
  /-- VMAX: R436. -/
  | vmax (t : VTy) (d : Reg) (a : Reg) (b : Reg)
  /-- VMAX_VX: R436. -/
  | vmaxVx (t : VTy) (d : Reg) (a : Reg) (b : Reg)
  /-- VABS: R435. -/
  | vabs (t : VTy) (d : Reg) (a : Reg)
  /-- VNEG: R435. -/
  | vneg (t : VTy) (d : Reg) (a : Reg)
  /-- VAND: R435. -/
  | vand (t : VTy) (d : Reg) (a : Reg) (b : Reg)
  /-- VAND_VX: R435. -/
  | vandVx (t : VTy) (d : Reg) (a : Reg) (b : Reg)
  /-- VOR: R435. -/
  | vor (t : VTy) (d : Reg) (a : Reg) (b : Reg)
  /-- VOR_VX: R435. -/
  | vorVx (t : VTy) (d : Reg) (a : Reg) (b : Reg)
  /-- VXOR: R435. -/
  | vxor (t : VTy) (d : Reg) (a : Reg) (b : Reg)
  /-- VXOR_VX: R435. -/
  | vxorVx (t : VTy) (d : Reg) (a : Reg) (b : Reg)
  /-- VSLL: R435. -/
  | vsll (t : VTy) (d : Reg) (a : Reg) (b : Reg)
  /-- VSLL_VX: R435. -/
  | vsllVx (t : VTy) (d : Reg) (a : Reg) (b : Reg)
  /-- VSRL: R435. -/
  | vsrl (t : VTy) (d : Reg) (a : Reg) (b : Reg)
  /-- VSRL_VX: R435. -/
  | vsrlVx (t : VTy) (d : Reg) (a : Reg) (b : Reg)
  /-- VSRA: R435. -/
  | vsra (t : VTy) (d : Reg) (a : Reg) (b : Reg)
  /-- VSRA_VX: R435. -/
  | vsraVx (t : VTy) (d : Reg) (a : Reg) (b : Reg)
  /-- VCMP: R437. -/
  | vcmp (t : VTy) (vx : Bool) (d : Reg) (a : Reg) (b : Reg) (cond : BitVec 5)
  /-- VSEL: R438. -/
  | vsel (t : VTy) (d : Reg) (a : Reg) (b : Reg)
  /-- VSEL_VX: R438. -/
  | vselVx (t : VTy) (d : Reg) (a : Reg) (b : Reg)
  /-- VCVT: R439, R440. -/
  | vcvt (t : VTy) (d : Reg) (a : Reg) (b : BitVec 5)
  /-- VCVT_W64: R439, R440. -/
  | vcvtW64 (t : VTy) (sz : BitVec 2) (d : Reg) (a : Reg) (src : BitVec 4) (p : BitVec 3)
  /-- VRSUM: R443. -/
  | vrsum (t : VTy) (d : Reg) (a : Reg)
  /-- VRMAX: R443. -/
  | vrmax (t : VTy) (d : Reg) (a : Reg)
  /-- VRMIN: R443. -/
  | vrmin (t : VTy) (d : Reg) (a : Reg)
  /-- VEXP2: R445. -/
  | vexp2 (t : VTy) (d : Reg) (a : Reg)
  /-- VLOG2: R445. -/
  | vlog2 (t : VTy) (d : Reg) (a : Reg)
  /-- VRCP: R445. -/
  | vrcp (t : VTy) (d : Reg) (a : Reg)
  /-- VRSQRT: R445. -/
  | vrsqrt (t : VTy) (d : Reg) (a : Reg)
  /-- VSQRT: R446. -/
  | vsqrt (t : VTy) (d : Reg) (a : Reg)
  /-- VDOT: R444. -/
  | vdot (t : VTy) (d : Reg) (a : Reg) (b : Reg)
  /-- VPERM: R447. -/
  | vperm (t : VTy) (d : Reg) (a : Reg) (b : Reg)
  /-- VSLIDE_VX: R447. -/
  | vslideVx (t : VTy) (d : Reg) (a : Reg) (b : Reg)
  /-- VSLIDE_I: R447. -/
  | vslideI (t : VTy) (d : Reg) (a : Reg) (amt : BitVec 21)
  /-- VCOMPR: R448. -/
  | vcompr (t : VTy) (d : Reg) (a : Reg)
  /-- VEXPND: R448. -/
  | vexpnd (t : VTy) (d : Reg) (a : Reg)
  /-- VIOTA: R448. -/
  | viota (t : VTy) (d : Reg)
  /-- VZTST: R449. -/
  | vztst (t : VTy) (d : Reg) (a : Reg)
  /-- VSCL: R441. -/
  | vscl (t : VTy) (e5 : Bool) (d : Reg) (a : Reg) (b : Reg)
  /-- VSCL_VX: R441. -/
  | vsclVx (t : VTy) (e5 : Bool) (d : Reg) (a : Reg) (b : Reg)
  /-- VQNT: R442. -/
  | vqnt (fmt : BitVec 2) (amax : Bool) (p : BitVec 2) (d : Reg) (a : Reg) (b : Reg) (c : Reg)
  /-- VMASK: R450. -/
  | vmask (a : Reg)
  /-- KAND: R450. -/
  | kand (d : Reg) (a : Reg) (b : Reg)
  /-- KOR: R450. -/
  | kor (d : Reg) (a : Reg) (b : Reg)
  /-- KNOT: R450. -/
  | knot (d : Reg) (a : Reg)
  /-- KMV_TO_MASK: R450. -/
  | kmvToMask (d : Reg) (a : Reg)
  /-- KMV_FROM_MASK: R450. -/
  | kmvFromMask (d : Reg) (a : Reg)
  /-- MFMT: R457. -/
  | mfmt (a : Reg)
  /-- MUPLD: R459. -/
  | mupld (a : Reg) (b : Reg)
  /-- MMA: R460; k = 8(k8 + 1) bytes, m and n less 1. -/
  | mma (z : Bool) (d : Reg) (a : Reg) (b : Reg) (k8 : Reg) (m : BitVec 9) (n : BitVec 10)
  /-- MMAG: R462; k = 8(k8 + 1) bytes, m and n less 1. -/
  | mmag (z : Bool) (d : Reg) (a : Reg) (b : Reg) (k8 : Reg) (m : BitVec 9) (n : BitVec 10)
  /-- MREC: R464; k = 8(k8 + 1) bytes, m and n less 1. -/
  | mrec (z : Bool) (d : Reg) (a : Reg) (b : Reg) (k8 : Reg) (m : BitVec 9) (n : BitVec 10)
  /-- MZERO: R465. -/
  | mzero (d : Reg) (cnt : BitVec 3)
  /-- MTZERO: R465. -/
  | mtzero (d : Reg) (cnt : BitVec 4)
  /-- MTMOV: R465. -/
  | mtmov (d : Reg) (a : Reg) (cnt : BitVec 4)
  /-- MZTST: R470. -/
  | mztst (d : Reg) (a : Reg) (fmt : BitVec 4)
  /-- MTRN: R466. -/
  | mtrn (e : BitVec 2) (d : Reg) (a : Reg)
  /-- MREL: R467. -/
  | mrel (acc : Bool) (d : Reg)
  /-- MEXT: R469. -/
  | mext (d : Reg) (a : Reg) (row : BitVec 7) (seg : BitVec 3)
  /-- MINS: R469. -/
  | mins (d : Reg) (a : Reg) (row : BitVec 7) (seg : BitVec 3)
  /-- MLDA: R468. -/
  | mlda (f : BitVec 2) (d : Reg) (a : Reg)
  /-- MSTA: R468. -/
  | msta (f : BitVec 2) (d : Reg) (a : Reg)
  /-- MQNT: R474. -/
  | mqnt (fmt : BitVec 2) (d : Reg) (a : Reg) (b : Reg) (c : Reg) (soff : BitVec 3) (eoff : BitVec 2)
  /-- MSCL: R471. -/
  | mscl (f : BitVec 2) (d : Reg) (a : Reg)
  /-- MBIAS: R471. -/
  | mbias (f : BitVec 2) (d : Reg) (a : Reg)
  /-- MAPPLY_RELU: R472. -/
  | mapplyRelu (d : Reg)
  /-- MAPPLY_MICRO: R472. -/
  | mapplyMicro (d : Reg)
  /-- MRED: R473. -/
  | mred (f : BitVec 2) (d : Reg) (a : Reg) (row : BitVec 7)
  /-- INTEGER_ALU: an RV64I, M, Zba, Zbb or Zicond computation, LUI or AUIPC (R308). -/
  | integerAlu (op : Alu)
  /-- CONTROL_TRANSFER: a branch, JAL or JALR (R166). -/
  | controlTransfer (op : Ct)
  /-- WFI: WFI (R309). -/
  | wfi
  /-- SRET: SRET (R309). -/
  | sret
  /-- MRET: MRET (R309). -/
  | mret
  /-- TYIELD: R339. -/
  | tyield
  /-- TRTRIG: R364. -/
  | trtrig
  /-- MSYNC: R475. -/
  | msync
  /-- COLD_RESET: cold reset: the boot ROM runs (R47); `nonce` is what it draws from the random source. -/
  | coldReset (nonce : BitVec 128)
  /-- WARM_RESET: warm reset (R9). -/
  | warmReset
  /-- RECOVERY_GO: the host writes 1 to the go word of the recovery window (R48). -/
  | recoveryGo
  /-- POWER_SAMPLE: the power controller measures `mw` milliwatts (R23). -/
  | powerSample (mw : Nat)
  /-- DUTY_STEP: the 1 ms duty decision (R23). -/
  | dutyStep
  /-- SENSOR_SAMPLE: one junction sensor reading (R24). -/
  | sensorSample (die : Nat) (sensor : Nat) (celsius : Nat)
  /-- MEAS_EXTEND: firmware asks for extend(i, d) (R50). -/
  | measExtend (n : Nat) (d : BitVec 256)
  /-- QUOTE_REQUEST: the host asks for a quote (R52). -/
  | quoteRequest (nonce : BitVec 256)
  /-- QUOTE_SIGNED: the RTU finishes the oldest requested quote (R52). -/
  | quoteSigned
  /-- FUSE_COUNTER_ADVANCE: firmware asks to advance the fuse counter to `v` (R49). -/
  | fuseCounterAdvance (v : Nat)
  /-- FUSE_BLOW: the RTU blows the fuses and the heap is purged (R49). -/
  | fuseBlow
  /-- RETRANSLATION_COMPLETE: purged objects are translated again and dispatch resumes (R49, R109). -/
  | retranslationComplete
  /-- AUDIT_APPEND: a hardware event reaches the RTU (R57). -/
  | auditAppend (kind : Nat) (source : Nat) (asid : Nat) (payload : BitVec 192)
  /-- SEGMENT_SEAL: the RTU finishes signing the oldest full segment (R59). -/
  | segmentSeal
  /-- SPILL_WRITE_COMPLETE: the spill of the oldest sealed segment completes (R60). -/
  | spillWriteComplete
  /-- SPILL_ACK: the host acknowledges the spill of segment `seg` (R60). -/
  | spillAck (seg : Nat)
  /-- OVERFLOW_AREA_SET: firmware names the host overflow area (R60). -/
  | overflowAreaSet (base : Nat) (port : Nat) (k : Nat)
  /-- OWNER_CREATE: supervisor call 0 of the current hart (R93). -/
  | ownerCreate
  /-- OWNER_DESTROY: supervisor call 1 of the current hart (R93). -/
  | ownerDestroy
  /-- FRAME_SET: supervisor call 2 of the current hart (R93). -/
  | frameSet
  /-- TENANT_CREATE: supervisor call 3 of the current hart (R93). -/
  | tenantCreate
  /-- TENANT_SET: supervisor call 4 of the current hart (R93). -/
  | tenantSet
  /-- TENANT_DESTROY: supervisor call 5 of the current hart (R93). -/
  | tenantDestroy
  /-- CTX_CREATE: supervisor call 6 of the current hart (R93). -/
  | ctxCreate
  /-- PORT_OPEN: supervisor call 7 of the current hart (R93). -/
  | portOpen
  /-- PORT_CLOSE: supervisor call 8 of the current hart (R93). -/
  | portClose
  /-- APERTURE_MAP: supervisor call 9 of the current hart (R93). -/
  | apertureMap
  /-- OBJ_TRANSLATE: supervisor call 10 of the current hart (R99). -/
  | objTranslate
  /-- OBJ_UNLOAD: supervisor call 11 of the current hart (R99). -/
  | objUnload
  /-- STAGE_SET: supervisor call 12 of the current hart (R135). -/
  | stageSet
  /-- TASK_FAULT: supervisor call 13 of the current hart (R167). -/
  | taskFault
  /-- VAULT_SET: supervisor call 14 of the current hart (R213). -/
  | vaultSet
  /-- LAUNCH: a 64-byte DMWr at offset 0 of a launch-port page (R72). -/
  | launch (port : Nat) (page : Nat) (rec : BitVec 512)
  /-- LAUNCH_PORT_DMWR_OTHER: any other DMWr to a launch-port page (R68). -/
  | launchPortDmwrOther (port : Nat) (page : Nat) (off : Nat) (len : Nat)
  /-- LAUNCH_PORT_POSTED_WRITE: a posted write to a launch-port page (R68). -/
  | launchPortPostedWrite (port : Nat) (page : Nat) (off : Nat) (data : Word)
  /-- ARGS_READ_COMPLETE: the last argument read of launch `id` completes (R75). -/
  | argsReadComplete (id : Nat)
  /-- LAUNCH_SUBMIT: launch `id` is submitted (R77). -/
  | launchSubmit (id : Nat)
  /-- LAUNCH_DONE: launch `id` makes its DONE write (R82). -/
  | launchDone (id : Nat)
  /-- APERTURE_WRITE: a host write through a BAR4 page (R70, R270). -/
  | apertureWrite (port : Nat) (page : Nat) (off : Nat) (data : List Byte)
  /-- APERTURE_READ: a host read through a BAR4 page (R70, R270). -/
  | apertureRead (port : Nat) (page : Nat) (off : Nat) (len : Nat)
  /-- HOST_LINK_DOWN: the link of a host port goes down (R45). -/
  | hostLinkDown (port : Nat)
  /-- HOST_LINK_UP: a host port retrains, with CXL.cache when `cxl` (R28, R45). -/
  | hostLinkUp (port : Nat) (cxl : Bool)
  /-- HOST_COMPLETION_TIMEOUT: host request `req` times out (R43). -/
  | hostCompletionTimeout (req : Nat)
  /-- HOST_ERROR_COMPLETION: an error completion for host request `req` (R43). -/
  | hostErrorCompletion (req : Nat) (k : HostErr)
  /-- ATOMICOP_COMPLETION: the completion of a PCIe AtomicOp (R31). -/
  | atomicopCompletion (req : Nat)
  /-- ZERO_LENGTH_READ_COMPLETE: a zero-length read completes (R32). -/
  | zeroLengthReadComplete (req : Nat)
  /-- DIE_LINK_REPLAY: a flit replay on a die link, successful when `good` (R35). -/
  | dieLinkReplay (edge : Nat) (good : Bool)
  /-- DIE_LINK_IDLE_TIMEOUT: 1 ms without a good flit on a die link (R35). -/
  | dieLinkIdleTimeout (edge : Nat)
  /-- NET_PORT_DOWN: an Ultra Ethernet port goes down (R42). -/
  | netPortDown (port : Nat)
  /-- RETRANSMISSION_LIMIT: transfer `t` exhausts its retransmissions (R43). -/
  | retransmissionLimit (t : Nat)
  /-- PUT_ARRIVE: a put of another device arrives (R40). -/
  | putArrive (port : Nat) (sq : Nat) (off : Nat) (data : List Byte)
  /-- PUT_ACK: the target acknowledges or refuses put `t` (R40). -/
  | putAck (t : Nat) (refused : Bool)
  /-- GET_REQUEST: a get of another device arrives (R40). -/
  | getRequest (port : Nat) (sq : Nat) (off : Nat) (len : Nat)
  /-- GET_DATA: the data of get `t` arrives, or its refusal (R40). -/
  | getData (t : Nat) (refused : Bool) (data : List Byte)
  /-- HOME_READ: a read, renewal or marked renewal is served (R236); `m` names the message. -/
  | homeRead (m : Nat)
  /-- L2_MISS_FILL: HBM data arrives at a slice (R216); `m` names the message. -/
  | l2MissFill (m : Nat)
  /-- HOME_OWN: an ownership request is served (R238); `m` names the message. -/
  | homeOwn (m : Nat)
  /-- HOME_WRITE: a posted store or home AMO is performed (R241); `m` names the message. -/
  | homeWrite (m : Nat)
  /-- HOME_ENGINE_READ: an LR or failed amocas at a remote home (R240, R241); `m` names the message. -/
  | homeEngineRead (m : Nat)
  /-- RECALL: a recall reaches an owner (R239); `m` names the message. -/
  | recallArrive (m : Nat)
  /-- RECALL_REPLY: the home applies a recall reply or an eviction (R239, R237); `m` names the message. -/
  | recallReply (m : Nat)
  /-- OWNED_EVICTION: hart `h` evicts the L1 line `key` (R237). -/
  | ownedEviction (h : Nat) (key : Nat)
  /-- READ_REPLY: a read reply reaches the hart (R236); `m` names the message. -/
  | readReply (m : Nat)
  /-- OWNERSHIP_REPLY: an ownership grant reaches the hart (R238); `m` names the message. -/
  | ownershipReply (m : Nat)
  /-- POSTED_STORE_ACK: an acknowledgement reaches the hart (R240); `m` names the message. -/
  | postedStoreAck (m : Nat)
  /-- VAULT_ACCESS: a vault serves a queued access (R244); `m` names the message. -/
  | vaultAccess (m : Nat)
  /-- DRIFT_TICK: the end of a drift interval of hart `h` (R232). -/
  | driftTick (h : Nat)
  /-- REBASE_STEP: a die starts a rebase step (R245). -/
  | rebaseStep (die : Nat)
  /-- REBASE_FLOOR_RECEIVE: a slice or proxy receives the new base of `die` (R245). -/
  | rebaseFloorReceive (die : Nat) (home : Nat)
  /-- REBASE_COMPLETE: a die ends its rebase step (R245). -/
  | rebaseComplete (die : Nat)
  /-- RENEWAL_HOLD_EXPIRY: a held renewal is answered after 65,536 cycles (R247). -/
  | renewalHoldExpiry (home : Nat) (k : Nat)
  /-- VAULT_WATCH_EXPIRY: a vault watch is answered after 65,536 cycles (R247). -/
  | vaultWatchExpiry (q : Nat) (k : Nat)
  /-- HOST_LINE_FETCH: a host line arrives at the proxy (R249). -/
  | hostLineFetch (port : Nat) (line : Nat)
  /-- HOST_SNOOP: the host snoops a line, taking it away when `take` (R250). -/
  | hostSnoop (port : Nat) (line : Nat) (take : Bool)
  /-- SNOOP_HOLD_EXPIRY: 8,192 cycles after the last grant the snoop is answered (R250). -/
  | snoopHoldExpiry (port : Nat) (line : Nat)
  /-- HOST_AMO_COMPLETION: an AMO at the host home agent returns (R250, R479). -/
  | hostAmoCompletion (req : Nat)
  /-- REPLY_TIMEOUT: an agent has been awaited 131,072 cycles (R252). -/
  | replyTimeout (agent : Nat)
  /-- DEAD_AGENT_DECLARATION: the RTU declares an agent dead (R252, R255). -/
  | deadAgentDeclaration (agent : Nat)
  /-- DECLARATION_RECEIVE: a home receives a declaration (R253). -/
  | declarationReceive (home : Nat) (agent : Nat)
  /-- PATROL_PASS: a patrol pass over a stack (R230). -/
  | patrolPass (stack : Nat)
  /-- DISPATCH_PAIRING: the pairing of R122 on a die. -/
  | dispatchPairing (die : Nat)
  /-- GANG_START: a placed gang starts (R133). -/
  | gangStart (k : Nat)
  /-- TASK_START: the first instruction of a dispatched task issues (R482). -/
  | taskStart (h : Nat)
  /-- PACKAGE_ARBITER_MOVE: the package arbiter moves a ready task to `die` (R140). -/
  | packageArbiterMove (die : Nat)
  /-- RESERVE_PREEMPTION: reserve pre-emption on a die (R139). -/
  | reservePreemption (die : Nat)
  /-- DECREMENT: a decrement reaches its target (R147). -/
  | decrement (k : Nat)
  /-- WITHDRAW: a withdrawal reaches its target (R151). -/
  | withdraw (k : Nat)
  /-- REBALANCE_EVALUATION: the evaluation of R137. -/
  | rebalanceEvaluation (die : Nat)
  /-- PARK_WAKE: a parked task continues (R138). -/
  | parkWake (h : Nat)
  /-- PARK_RECLAIM: a parked hart is reclaimed (R138). -/
  | parkReclaim (h : Nat)
  /-- BUDGET_EXHAUSTED: the budget trap (R128). -/
  | budgetExhausted (h : Nat)
  /-- INTERRUPT_TAKEN: an enabled pending interrupt is taken (R162). -/
  | interruptTaken (h : Nat)
  /-- STOP_REQUEST: a requested stop acts at an instruction boundary (R177). -/
  | stopRequest (h : Nat)
  /-- SAVE_COMPLETE: SAVED is written and the hart passes to the dispatcher (R177). -/
  | saveComplete (h : Nat)
  /-- CONTEXT_DRAIN: the matrix pipeline has drained a stopped context (R178). -/
  | contextDrain (c : Nat)
  /-- RESUME: a suspended task is loaded on a hart (R180). -/
  | resume (h : Nat)
  /-- IMAGE_LINE_FILL: a register line is filled from its image (R175). -/
  | imageLineFill (c : Nat) (slot : Nat) (reg : Nat)
  /-- PAGE_WALK_COMPLETE: a page-table walk finishes (R227). -/
  | pageWalkComplete (w : Nat)
  /-- TRANSFER_SEGMENT: the copy engine of a quad moves one segment (R204). -/
  | transferSegment (q : Nat)
  /-- TRANSFER_COMPLETE: transfer `t` completes (R403). -/
  | transferComplete (t : Nat)
  /-- PORT_REQUEST: a port request of a quad is checked (R205). -/
  | portRequest (q : Nat)
  /-- STREAM_TRANSFER_START: a queued stream-controller transfer starts (R420). -/
  | streamTransferStart (t : Nat)
  /-- STREAM_SLOT_FILL: a stream controller fills a slot (R420). -/
  | streamSlotFill (t : Nat)
  /-- STREAM_SLOT_DRAIN: a stream controller drains a slot (R420). -/
  | streamSlotDrain (t : Nat)
  /-- MATRIX_ACCEPT: the matrix arbiter accepts a request (R195). -/
  | matrixAccept (q : Nat)
  /-- MATRIX_COMPLETE: the array completes its oldest request (R453). -/
  | matrixComplete (q : Nat)
  /-- REPB_LANE_ISSUE: the repetition lane issues one instruction (R201). -/
  | repbLaneIssue (h : Nat)
  /-- SCRUB_START: the scrub of a release starts (R62, R63). -/
  | scrubStart (c : Nat)
  /-- SCRUB_QUAD_COMPLETE: the scrub of one quad completes (R64). -/
  | scrubQuadComplete (c : Nat) (q : Nat)
  /-- MESSAGE_DELIVER: a message arrives at a mailbox (R355). -/
  | messageDeliver (k : Nat)
  /-- NET_PORT_UP: an Ultra Ethernet port comes up (R45). -/
  | netPortUp (port : Nat)
  /-- HOST_READ_COMPLETION: a read completion of a non-coherent host page arrives (R30). -/
  | hostReadCompletion (req : Nat)
  /-- ATOMICOP_AS_COMPLETER: a host AtomicOp to the device: Unsupported Request (R27). -/
  | atomicopAsCompleter (port : Nat)
  /-- OTHER_DMWR: a DMWr outside the launch-port pages: Unsupported Request (R27). -/
  | otherDmwr (port : Nat) (addr : Word)
  deriving DecidableEq, Repr

end Sys2Proof
end

