-- ==== Sys2Proof/Machine/Fields.lean ====
section
/-! DEFINITION. The field checks that decoding applies to every instruction (R324, check_fields): register numbers inside
their files (R311), element types an operation accepts (R428), ranges of immediates, counts and codes (R316, R404, R451),
and the forms that R325's CSRs and R267's FENCE.TSO give a row of their own. -/

namespace Sys2Proof

/-- The code of an element type (R320). -/
def VTy.code : VTy → BitVec 3
  | .i8 => 0 | .i16 => 1 | .i32 => 2 | .i64 => 3 | .bf16 => 4 | .f16 => 5 | .f32 => 6 | .fp8 => 7

/-- The element type of a code (R320). -/
def VTy.ofCode (c : BitVec 3) : VTy :=
  match c.toNat with
  | 0 => .i8 | 1 => .i16 | 2 => .i32 | 3 => .i64 | 4 => .bf16 | 5 => .f16 | 6 => .f32 | _ => .fp8

/-- The integer types. -/
def VTy.isInt : VTy → Bool
  | .i8 | .i16 | .i32 | .i64 => true
  | _ => false

/-- The float types bf16, f16 and f32. -/
def VTy.isFloat : VTy → Bool
  | .bf16 | .f16 | .f32 => true
  | _ => false

/-- Bits of an element (R423). -/
def VTy.bits : VTy → Nat
  | .i8 | .fp8 => 8
  | .i16 | .bf16 | .f16 => 16
  | .i32 | .f32 => 32
  | .i64 => 64

/-- Bytes of an element. -/
def VTy.bytes (t : VTy) : Nat := t.bits / 8

/-- Lanes of a vector register (R423). -/
def VTy.lanes (t : VTy) : Nat := 512 / t.bits

/-- Types 000 to 110. -/
def VTy.plain (t : VTy) : Bool := t != .fp8

/-- A register number inside a file of `n` registers (R311). -/
def inFile (n : Nat) (r : Reg) : Bool := decide (r.toNat < n)

/-- Both register numbers inside a file of 16. -/
def in16 (r s : Reg) : Bool := inFile 16 r && inFile 16 s

/-- Bits of a VCVT source code b[3:0] (R439); 0 where the code is reserved. -/
def cvtSrcBits (s : Nat) : Nat :=
  match s with
  | 0 => 8 | 1 => 16 | 2 => 32 | 3 => 64 | 4 => 16 | 5 => 16 | 6 => 32
  | 7 => 8 | 8 => 8 | 9 => 4 | 10 => 4 | 11 => 8 | _ => 0

/-- Bits of a VCVT destination: the type, or for code 111 the narrow format `n` (0 e4m3, 1 e5m2, 2 e2m1, 3 int4). -/
def cvtDstBits (t : VTy) (n : Nat) : Nat :=
  if t = .fp8 then (if n < 2 then 8 else 4) else t.bits

/-- The rules of R439 on source, destination and part. -/
def cvtOk (t : VTy) (n s p : Nat) : Bool :=
  let sb := cvtSrcBits s
  let db := cvtDstBits t n
  let ratio := if sb < db then db / sb else sb / db
  decide (sb ≠ 0) && decide (p < ratio) && decide (ratio ≤ 8)
    && !(t = .fp8 && decide (7 ≤ s) && decide (s ≤ 10))
    && !(t ≠ .fp8 && decide (s = t.code.toNat))
    && !(decide (s = 11) && t ≠ .f32)

/-- ROW is nonzero only when a tile end is named, and a tile or handle number is below 16 (R404). -/
def xferFields (useDT useST : Bool) (b c : Reg) (imm : BitVec 24) : Bool :=
  let dt := imm.getLsbD 7
  let st := imm.getLsbD 8
  (useDT || !dt) && (useST || !st) && !(dt && st) && (dt || st || (fld imm 0 7 = 0))
    && inFile 16 b && inFile 16 c && (fld imm 22 2 = 0)

/-- Field MC and GROUP: GROUP is used with MC only (R404). -/
def xferMc (imm : BitVec 24) : Bool := imm.getLsbD 9 || (fld imm 10 12 = 0)

/-- Fields of GETX and PUTX: no MC; the index handle in 13:10 (R404). -/
def xferIdx (imm : BitVec 24) : Bool := !imm.getLsbD 9 && (fld imm 14 8 = 0)

/-- No field beyond ROW, DT and ST. -/
def xferPlain (imm : BitVec 24) : Bool := fld imm 9 13 = 0

/-- CSR numbers whose writes have a row of their own (R325). -/
def csrHasRow (csr : BitVec 12) : Bool :=
  csr = 0x5C1 || csr = 0x5C0 || csr = 0x803 || csr = 0x800 || csr = 0x809

/-- Does a CSR instruction write (RISC-V: csrrs and csrrc with a source of x0 or 0 do not)? -/
def csrWrites (op : CsrOp) (src : CsrSrc) : Bool :=
  match op, src with
  | .rw, _ => true
  | _, .reg r => r != 0
  | _, .imm v => v != 0

/-- What FAIL, bit 0 of xfctl, a CSR instruction writes, where the encoding alone says it (R170): xfctl reads as zero,
so that csrrs writes its operand and csrrc writes 0. -/
def xfctlStatic (op : CsrOp) (src : CsrSrc) : Option Bool :=
  match op, src with
  | .rc, _ => some false
  | _, .imm v => some (v.getLsbD 0)
  | .rw, .reg r => if r = 0 then some false else none
  | .rs, .reg _ => none

/-- Spans of a multiply: tiles of `n` rows from `r` (R460, R462). -/
def spanOk (file : Nat) (r : Reg) (count : Nat) : Bool := decide (r.toNat + count ≤ file)

/-- Fields of MMA and MREC (R451, R460), `m` and `n` less 1. -/
def mmaOk (d a b : Reg) (m : BitVec 9) (n : BitVec 10) : Bool :=
  let mm := m.toNat + 1
  let nn := n.toNat + 1
  decide (mm ≤ 256) && decide (nn ≤ 384) && spanOk 16 a (ceilDiv mm 128) && spanOk 16 b (ceilDiv nn 128)
    && spanOk 8 d (ceilDiv mm 128 * ceilDiv nn 128)

/-- Fields of MMAG (R462), `m` and `n` less 1. -/
def mmagOk (d a b : Reg) (m : BitVec 9) (n : BitVec 10) : Bool :=
  let mm := m.toNat + 1
  let nn := n.toNat + 1
  decide (nn ≤ 768) && spanOk 16 a (ceilDiv mm 128) && spanOk 16 b (ceilDiv nn 128)
    && spanOk 8 d (ceilDiv (min mm 256) 128 * ceilDiv (min nn 384) 128)

/-- The immediate fields of RGPT.I for dimensions at or above n are zero (R379); `n` is the count less 1. -/
def rgptImm (n : BitVec 2) (e : BitVec 24) : Bool := decide (e.toNat < 2 ^ (6 * (n.toNat + 1)))

/-- The formats MZTST takes (R451). -/
def mztstFmt (f : BitVec 4) : Bool :=
  match f.toNat with
  | 0 | 4 | 5 | 6 | 7 | 8 | 9 | 10 => true
  | _ => false

/-- The computations' own ranges: the w shifts take five bits. -/
def Alu.fieldsOk : Alu → Bool
  | .sh op _ _ amt =>
    match op with
    | .slliw | .srliw | .sraiw | .roriw => !amt.getLsbD 5
    | _ => true
  | _ => true

/-- The field checks of an instruction. Events have none. -/
def fieldsOk : Instr → Bool
  | .csrWrite op csr src _ =>
    !(csrWrites op src && csrHasRow csr) && !(csrWrites op src && csr = 0x5C5 && (xfctlStatic op src).isSome)
  | .budgetWrite op src _ | .driftWrite op src _ | .leaseWrite op src _ | .rmodeWrite op src _ | .trcfgWrite op src _ =>
    csrWrites op src
  | .xfctlResume op src _ => csrWrites op src && xfctlStatic op src == some false
  | .xfctlFail op src _ => csrWrites op src && xfctlStatic op src == some true
  | .amocasQ _ _ rd _ rs2 => !rd.getLsbD 0 && !rs2.getLsbD 0
  | .fence fm pred succ _ _ => !(fm = 8 && pred = 3 && succ = 3)
  | .integerAlu op => op.fieldsOk
  | .bbind n _ _ | .bbindI n _ _ | .barrive n _ | .bwait _ n | .bsync _ n _ | .bexpect n _ | .bexpectI n _
  | .btest _ n | .bunbind n => inFile 8 n
  | .rgnil d n => inFile 16 d && decide (1 ≤ n.toNat) && decide (n.toNat ≤ 4)
  | .rgfull d a | .rgbbox d a | .rgmv d a | .rgcan d a => in16 d a
  | .rgpt d _ _ => inFile 16 d
  | .rgptI d _ _ n e => inFile 16 d && rgptImm n e
  | .rgclip d a b | .rguni d a b | .rgint d a b | .rgsub d a b => in16 d a && inFile 16 b
  | .rgdil d a _ | .rgshf d a _ | .rgprj d a _ | .rgxpd d a _ | .rglat d a _ | .rgcut d a _ | .rgspl d a _ => in16 d a
  | .rgdilI d a _ | .rgshfI d a _ | .rgxpdI d a _ | .rglatI d a _ | .rgcutI d a _ => in16 d a
  | .rgprjI d a imm => in16 d a && (fld imm 4 20 = 0)
  | .rgsplI d a imm => in16 d a && (fld imm 8 16 = 0)
  | .rgld d _ | .rgldImm d _ _ | .rgldW64 d _ _ | .rgst d _ | .rgstImm d _ _ | .rgstW64 d _ _ => inFile 16 d
  | .rgcnt _ a | .rgnbx _ a => inFile 16 a
  | .rgtst _ a b | .rgeq _ a b | .rgsubs _ a b => in16 a b
  | .rgget _ a _ => inFile 16 a
  | .rggetI _ a sel => inFile 16 a && decide (sel.toNat ≤ 68)
  | .hld d _ | .hldImm d _ _ | .hldW64 d _ _ | .hst d _ | .hstImm d _ _ | .hstW64 d _ _ => inFile 16 d
  | .hget _ a _ | .hgetI _ a _ => inFile 16 a
  | .hsetx d _ _ | .hsetxI d _ _ => inFile 16 d
  | .copy _ a b | .copyClip _ a b | .getr _ a b | .getrClip _ a b | .putr _ a b | .putrClip _ a b =>
    inFile 16 a && inFile 15 b
  | .copyb n a b | .copybClip n a b => inFile 8 n && inFile 16 a && inFile 15 b
  | .copyn _ a b | .copynClip _ a b => in16 a b
  | .getx _ a b | .getxClip _ a b | .putx _ a b | .putxClip _ a b => inFile 16 a && inFile 14 b
  | .copyW64 _ _ a b c imm => inFile 16 a && xferFields true true b c imm && xferMc imm
  | .copybW64 _ n a b c imm => inFile 8 n && inFile 16 a && xferFields true true b c imm && xferMc imm
  | .copynW64 _ _ a b c imm => inFile 16 a && xferFields false true b c imm && xferPlain imm && (b = 0)
  | .getxW64 _ _ a b c imm => inFile 16 a && xferFields true false b c imm && xferIdx imm
  | .putxW64 _ _ a b c imm => inFile 16 a && xferFields false true b c imm && xferIdx imm
  | .getrW64 _ _ a b c imm => inFile 16 a && xferFields true false b c imm && xferPlain imm
  | .putrW64 _ _ a b c imm => inFile 16 a && xferFields false true b c imm && xferPlain imm
  | .pref a b | .flushr _ a b | .waitg _ a b | .ldsub _ a b | .lddrn _ a b => in16 a b
  | .qbind n _ _ | .qacq _ n | .qpub n _ _ | .qtake _ n | .qfree n _ | .qeos n | .qstat _ n => inFile 8 n
  | .vld t _ _ | .vldOff t _ _ _ | .vst t _ _ | .vstOff t _ _ _ | .vlds t _ _ _ _ | .vsts t _ _ _ _
  | .vgath t _ _ _ | .vgathOff t _ _ _ _ | .vscat t _ _ _ | .vscatOff t _ _ _ _ | .vbcast t _ _ | .vmvx t _ _
  | .vmvv t _ _ | .vadd t _ _ _ | .vaddVx t _ _ _ | .vsub t _ _ _ | .vsubVx t _ _ _ | .vmul t _ _ _ | .vmulVx t _ _ _
  | .vfma t _ _ _ | .vfmaVx t _ _ _ | .vfms t _ _ _ | .vfmsVx t _ _ _ | .vmin t _ _ _ | .vminVx t _ _ _
  | .vmax t _ _ _ | .vmaxVx t _ _ _ | .vabs t _ _ | .vneg t _ _ | .vand t _ _ _ | .vandVx t _ _ _ | .vor t _ _ _
  | .vorVx t _ _ _ | .vxor t _ _ _ | .vxorVx t _ _ _ | .vsel t _ _ _ | .vselVx t _ _ _ | .vrsum t _ _ | .vrmax t _ _
  | .vrmin t _ _ | .vdot t _ _ _ | .vperm t _ _ _ | .vslideVx t _ _ _ | .vslideI t _ _ _ | .vcompr t _ _
  | .vexpnd t _ _ | .vztst t _ _ => t.plain
  | .vmvxLane t _ _ lane => t.plain && decide (lane.toNat < t.lanes)
  | .vsll t _ _ _ | .vsllVx t _ _ _ | .vsrl t _ _ _ | .vsrlVx t _ _ _ | .vsra t _ _ _ | .vsraVx t _ _ _ | .viota t _ =>
    t.isInt
  | .vcmp t _ d _ _ cond => t.plain && inFile 8 d && decide (cond.toNat < 8)
  | .vcvt t _ _ b =>
    if t = .fp8 then cvtOk t (b.toNat / 16) (b.toNat % 16) 0 else cvtOk t 0 (b.toNat % 16) (b.toNat / 16)
  | .vcvtW64 t sz _ _ src p => (t = .fp8 || sz = 0) && cvtOk t sz.toNat src.toNat p.toNat
  | .vexp2 t _ _ | .vlog2 t _ _ | .vrcp t _ _ | .vrsqrt t _ _ | .vsqrt t _ _ => t.isFloat
  | .vscl t e5 _ _ _ | .vsclVx t e5 _ _ _ => !t.isInt && (!e5 || t = .fp8)
  | .vqnt fmt _ p _ _ _ _ => decide (fmt.toNat < 3) && decide (p.toNat < if fmt = 2 then 4 else 2)
  | .vmask a => inFile 8 a
  | .kand d a b | .kor d a b => inFile 8 d && inFile 8 a && inFile 8 b
  | .knot d a => inFile 8 d && inFile 8 a
  | .kmvToMask d _ => inFile 8 d
  | .kmvFromMask _ a => inFile 8 a
  | .mma _ d a b _ m n | .mrec _ d a b _ m n => mmaOk d a b m n
  | .mmag _ d a b _ m n => mmagOk d a b m n
  | .mzero d cnt => spanOk 8 d (cnt.toNat + 1)
  | .mtzero d cnt => spanOk 16 d (cnt.toNat + 1)
  | .mtmov d a cnt => spanOk 16 d (cnt.toNat + 1) && spanOk 16 a (cnt.toNat + 1)
  | .mztst _ a fmt => inFile 16 a && mztstFmt fmt
  | .mtrn e d a => decide (e.toNat < 3) && in16 d a
  | .mrel acc d => inFile (if acc then 8 else 16) d
  | .mext _ a _ _ => inFile 8 a
  | .mins d _ _ _ => inFile 8 d
  | .mlda f d a => decide (f.toNat < 3) && inFile 8 d && inFile (if f = 0 then 15 else 16) a
  | .msta f d a => decide (f.toNat < 3) && inFile (if f = 0 then 15 else 16) d && inFile 8 a
  | .mqnt fmt d a b _ soff eoff =>
    decide (fmt.toNat < 3) && inFile 16 d && inFile 8 a && inFile 16 b && (b != d) && decide (soff.toNat ≤ 4)
      && decide (eoff.toNat ≤ if fmt = 2 then 3 else 1)
  | .mscl f d a => decide (f.toNat < 3) && inFile 8 d && inFile 16 a
  | .mbias f d a => decide (f.toNat < 2) && inFile 8 d && inFile 16 a
  | .mapplyRelu d | .mapplyMicro d => inFile 8 d
  | .mred _ d a row => inFile 16 d && inFile 8 a && decide (row.toNat ≤ 126)
  | .coldReset .. | .warmReset | .recoveryGo | .powerSample .. | .dutyStep | .sensorSample .. | .measExtend ..
  | .quoteRequest .. | .quoteSigned | .fuseCounterAdvance .. | .fuseBlow | .retranslationComplete | .auditAppend ..
  | .segmentSeal | .spillWriteComplete | .spillAck .. | .overflowAreaSet .. | .ownerCreate | .ownerDestroy | .frameSet
  | .tenantCreate | .tenantSet | .tenantDestroy | .ctxCreate | .portOpen | .portClose | .apertureMap | .objTranslate
  | .objUnload | .stageSet | .taskFault | .vaultSet | .ecallEnvironment .. | .launch .. | .launchPortDmwrOther ..
  | .launchPortPostedWrite .. | .argsReadComplete .. | .launchSubmit .. | .launchDone .. | .apertureWrite ..
  | .apertureRead .. | .hostLinkDown .. | .hostLinkUp .. | .hostCompletionTimeout .. | .hostErrorCompletion ..
  | .atomicopCompletion .. | .zeroLengthReadComplete .. | .dieLinkReplay .. | .dieLinkIdleTimeout .. | .netPortDown ..
  | .retransmissionLimit .. | .putArrive .. | .putAck .. | .getRequest .. | .getData .. | .homeRead .. | .l2MissFill ..
  | .homeOwn .. | .homeWrite .. | .homeEngineRead .. | .recallArrive .. | .recallReply .. | .ownedEviction .. | .readReply ..
  | .ownershipReply .. | .postedStoreAck .. | .vaultAccess .. | .driftTick .. | .rebaseStep .. | .rebaseFloorReceive ..
  | .rebaseComplete .. | .renewalHoldExpiry .. | .vaultWatchExpiry .. | .hostLineFetch .. | .hostSnoop ..
  | .snoopHoldExpiry .. | .hostAmoCompletion .. | .replyTimeout .. | .deadAgentDeclaration .. | .declarationReceive ..
  | .patrolPass .. | .dispatchPairing .. | .gangStart .. | .taskStart .. | .packageArbiterMove .. | .reservePreemption ..
  | .decrement .. | .withdraw .. | .rebalanceEvaluation .. | .parkWake .. | .parkReclaim .. | .budgetExhausted ..
  | .interruptTaken .. | .stopRequest .. | .saveComplete .. | .contextDrain .. | .resume .. | .imageLineFill ..
  | .pageWalkComplete .. | .transferSegment .. | .transferComplete .. | .portRequest .. | .streamTransferStart ..
  | .streamSlotFill .. | .streamSlotDrain .. | .matrixAccept .. | .matrixComplete .. | .repbLaneIssue .. | .scrubStart ..
  | .scrubQuadComplete .. | .messageDeliver .. | .netPortUp .. | .hostReadCompletion .. | .atomicopAsCompleter ..
  | .otherDmwr .. => true
  | .load .. | .store .. | .amo .. | .lr .. | .sc .. | .wfi | .sret | .mret | .sfenceVma .. | .fenceTso .. | .fenceI ..
  | .tretire .. | .tretireA .. | .tyield | .tspawn .. | .tspawnN .. | .tspawnOff .. | .tspawnNOff .. | .tcancel ..
  | .tstat .. | .twdchk .. | .tbudget .. | .tself .. | .drank .. | .dsize .. | .msend .. | .msendI .. | .mrecv ..
  | .mpoll .. | .mwait .. | .mhdr .. | .clkrd .. | .clkadv .. | .clkadvOff .. | .lwait .. | .lwaitOff ..
  | .fencesFull .. | .fencesAcquire .. | .fencesRelease .. | .repb .. | .trmark .. | .trmarkI .. | .trtrig | .ctxpre ..
  | .ctxrel .. | .mcset .. | .audapp .. | .tktest .. | .ldcan .. | .mfmt .. | .mupld .. | .msync
  | .controlTransfer .. => true

end Sys2Proof
end

