-- ==== Sys2Proof/Decode.lean ====
section
/-! DEFINITION. Decoding and encoding (14, R313 to R322; the base encodings are the ratified RISC-V ones, R308). The
decoder is total on any bytes: it answers an instruction with its length, or says by name why there is none. -/

namespace Sys2Proof

/-- Why bytes are no instruction (R313, R316, R317). -/
inductive Reject
  /-- Fewer bytes are given than the instruction has. -/
  | short
  /-- A length of 16, 48 or 80 bits and more (R313). -/
  | length
  /-- No operation has this encoding, or an unused field is nonzero (R316, R317). -/
  | unassigned
  /-- A register number, type, shape or count outside its range (R311, R316). -/
  | field
  deriving DecidableEq, Repr

/-- What decoding answers: an instruction and its length in bytes, or a rejection. -/
inductive Decoded
  | ok (i : Instr) (len : Nat)
  | reject (why : Reject)
  deriving DecidableEq, Repr

/-- `some i` when the condition on the unused fields holds (R316). -/
def oif (c : Bool) (i : Instr) : Option Instr := if c then some i else none

/-! ## The base (R308): codes of the ratified encodings -/

/-- Opcode, funct7 and funct3. -/
def AluRR.code : AluRR → Nat × Nat × Nat
  | .add => (0x33, 0, 0) | .sub => (0x33, 0x20, 0) | .sll => (0x33, 0, 1) | .slt => (0x33, 0, 2) | .sltu => (0x33, 0, 3)
  | .xor => (0x33, 0, 4) | .srl => (0x33, 0, 5) | .sra => (0x33, 0x20, 5) | .or => (0x33, 0, 6) | .and => (0x33, 0, 7)
  | .addw => (0x3b, 0, 0) | .subw => (0x3b, 0x20, 0) | .sllw => (0x3b, 0, 1) | .srlw => (0x3b, 0, 5)
  | .sraw => (0x3b, 0x20, 5)
  | .mul => (0x33, 1, 0) | .mulh => (0x33, 1, 1) | .mulhsu => (0x33, 1, 2) | .mulhu => (0x33, 1, 3)
  | .div => (0x33, 1, 4) | .divu => (0x33, 1, 5) | .rem => (0x33, 1, 6) | .remu => (0x33, 1, 7)
  | .mulw => (0x3b, 1, 0) | .divw => (0x3b, 1, 4) | .divuw => (0x3b, 1, 5) | .remw => (0x3b, 1, 6) | .remuw => (0x3b, 1, 7)
  | .adduw => (0x3b, 4, 0) | .sh1add => (0x33, 0x10, 2) | .sh2add => (0x33, 0x10, 4) | .sh3add => (0x33, 0x10, 6)
  | .sh1adduw => (0x3b, 0x10, 2) | .sh2adduw => (0x3b, 0x10, 4) | .sh3adduw => (0x3b, 0x10, 6)
  | .andn => (0x33, 0x20, 7) | .orn => (0x33, 0x20, 6) | .xnor => (0x33, 0x20, 4)
  | .max => (0x33, 5, 6) | .maxu => (0x33, 5, 7) | .min => (0x33, 5, 4) | .minu => (0x33, 5, 5)
  | .rol => (0x33, 0x30, 1) | .ror => (0x33, 0x30, 5) | .rolw => (0x3b, 0x30, 1) | .rorw => (0x3b, 0x30, 5)
  | .czeroEqz => (0x33, 7, 5) | .czeroNez => (0x33, 7, 7)

def AluRR.all : List AluRR :=
  [.add, .sub, .sll, .slt, .sltu, .xor, .srl, .sra, .or, .and, .addw, .subw, .sllw, .srlw, .sraw, .mul, .mulh, .mulhsu,
   .mulhu, .div, .divu, .rem, .remu, .mulw, .divw, .divuw, .remw, .remuw]
  ++ [.adduw, .sh1add, .sh2add, .sh3add, .sh1adduw, .sh2adduw, .sh3adduw, .andn, .orn, .xnor, .max, .maxu, .min, .minu,
   .rol, .ror, .rolw, .rorw, .czeroEqz, .czeroNez]

/-- Opcode and funct3. -/
def AluRI.code : AluRI → Nat × Nat
  | .addi => (0x13, 0) | .slti => (0x13, 2) | .sltiu => (0x13, 3) | .xori => (0x13, 4) | .ori => (0x13, 6)
  | .andi => (0x13, 7) | .addiw => (0x1b, 0)

def AluRI.all : List AluRI := [.addi, .slti, .sltiu, .xori, .ori, .andi, .addiw]

/-- Opcode, the six bits above the shift amount, and funct3. -/
def AluSh.code : AluSh → Nat × Nat × Nat
  | .slli => (0x13, 0, 1) | .srli => (0x13, 0, 5) | .srai => (0x13, 0x10, 5) | .rori => (0x13, 0x18, 5)
  | .slliuw => (0x1b, 2, 1) | .slliw => (0x1b, 0, 1) | .srliw => (0x1b, 0, 5) | .sraiw => (0x1b, 0x10, 5)
  | .roriw => (0x1b, 0x18, 5)

def AluSh.all : List AluSh := [.slli, .srli, .srai, .rori, .slliuw, .slliw, .srliw, .sraiw, .roriw]

/-- Opcode, bits 31:20 and funct3. -/
def AluU.code : AluU → Nat × Nat × Nat
  | .clz => (0x13, 0x600, 1) | .ctz => (0x13, 0x601, 1) | .cpop => (0x13, 0x602, 1)
  | .clzw => (0x1b, 0x600, 1) | .ctzw => (0x1b, 0x601, 1) | .cpopw => (0x1b, 0x602, 1)
  | .sextb => (0x13, 0x604, 1) | .sexth => (0x13, 0x605, 1) | .zexth => (0x3b, 0x080, 4)
  | .rev8 => (0x13, 0x6b8, 5) | .orcb => (0x13, 0x287, 5)

def AluU.all : List AluU := [.clz, .ctz, .cpop, .clzw, .ctzw, .cpopw, .sextb, .sexth, .zexth, .rev8, .orcb]

def Cond.code : Cond → Nat
  | .eq => 0 | .ne => 1 | .lt => 4 | .ge => 5 | .ltu => 6 | .geu => 7

def Cond.all : List Cond := [.eq, .ne, .lt, .ge, .ltu, .geu]

def LoadWidth.code : LoadWidth → Nat
  | .lb => 0 | .lh => 1 | .lw => 2 | .ld => 3 | .lbu => 4 | .lhu => 5 | .lwu => 6

def LoadWidth.all : List LoadWidth := [.lb, .lh, .lw, .ld, .lbu, .lhu, .lwu]

def StoreWidth.code : StoreWidth → Nat
  | .sb => 0 | .sh => 1 | .sw => 2 | .sd => 3

def StoreWidth.all : List StoreWidth := [.sb, .sh, .sw, .sd]

/-- funct5. -/
def AmoOp.code : AmoOp → Nat
  | .swap => 1 | .add => 0 | .xor => 4 | .and => 0xc | .or => 8 | .min => 0x10 | .max => 0x14 | .minu => 0x18 | .maxu => 0x1c
  | .cas => 5

def AmoOp.all : List AmoOp := [.swap, .add, .xor, .and, .or, .min, .max, .minu, .maxu, .cas]

def CsrOp.code : CsrOp → Nat
  | .rw => 1 | .rs => 2 | .rc => 3

def Scope.code : Scope → BitVec 5
  | .hart => 0 | .quad => 1 | .group => 2 | .die => 3 | .package => 4 | .system => 5

def Scope.ofCode (b : BitVec 5) : Option Scope :=
  match b.toNat with
  | 0 => some .hart | 1 => some .quad | 2 => some .group | 3 => some .die | 4 => some .package | 5 => some .system
  | _ => none

/-! ## Formats (R314, R315) -/

/-- C32: f7 | b | a | f3 | d | major. -/
def c32 (f7 : BitVec 7) (b a : Reg) (f3 : BitVec 3) (d : Reg) (major : BitVec 7) : W32 :=
  f7 ++ b ++ a ++ f3 ++ d ++ major

/-- C32I, and the I-type of the base: imm12 | a | f3 | d | major. -/
def c32i (imm : BitVec 12) (a : Reg) (f3 : BitVec 3) (d : Reg) (major : BitVec 7) : W32 :=
  imm ++ a ++ f3 ++ d ++ major

/-- W64: imm24 | f8 | sz | c | b | a | class | d | 0111111. -/
def w64 (imm : BitVec 24) (f8 : BitVec 8) (sz : BitVec 2) (c b a : Reg) (cls : BitVec 3) (d : Reg) : Word :=
  imm ++ f8 ++ sz ++ c ++ b ++ a ++ cls ++ d ++ 0x3f#7

/-! ## Decoding the base -/

/-- The row a CSR instruction belongs to (R325). -/
def csrInstr (op : CsrOp) (csr : BitVec 12) (src : CsrSrc) (rd : Reg) : Instr :=
  if csrWrites op src then
    if csr = 0x5C1 then .budgetWrite op src rd
    else if csr = 0x5C0 then .driftWrite op src rd
    else if csr = 0x803 then .leaseWrite op src rd
    else if csr = 0x800 then .rmodeWrite op src rd
    else if csr = 0x809 then .trcfgWrite op src rd
    else if csr = 0x5C5 then
      match xfctlStatic op src with
      | some false => .xfctlResume op src rd
      | some true => .xfctlFail op src rd
      | none => .csrWrite op csr src rd
    else .csrWrite op csr src rd
  else .csrWrite op csr src rd

/-- SYSTEM. -/
def decSystem (imm : BitVec 12) (rs1 : Reg) (f3 : BitVec 3) (rd : Reg) : Option Instr :=
  match f3.toNat with
  | 0 =>
    if rd ≠ 0 then none
    else if fld imm 5 7 = 9 then some (.sfenceVma rs1 (fld imm 0 5))
    else if rs1 ≠ 0 then none
    else
      match imm.toNat with
      | 0 => some (.ecallEnvironment false)
      | 1 => some (.ecallEnvironment true)
      | 0x102 => some .sret
      | 0x302 => some .mret
      | 0x105 => some .wfi
      | _ => none
  | 1 => some (csrInstr .rw imm (.reg rs1) rd)
  | 2 => some (csrInstr .rs imm (.reg rs1) rd)
  | 3 => some (csrInstr .rc imm (.reg rs1) rd)
  | 5 => some (csrInstr .rw imm (.imm rs1) rd)
  | 6 => some (csrInstr .rs imm (.imm rs1) rd)
  | 7 => some (csrInstr .rc imm (.imm rs1) rd)
  | _ => none

/-- A and Zacas. -/
def decAmo (f5 : BitVec 5) (aq rl : Bool) (rs2 rs1 : Reg) (f3 : BitVec 3) (rd : Reg) : Option Instr :=
  match f3.toNat with
  | 4 => oif (f5 = 5) (.amocasQ aq rl rd rs1 rs2)
  | 2 => go false
  | 3 => go true
  | _ => none
where
  /-- Widths w and d. -/
  go (dw : Bool) : Option Instr :=
    if f5 = 2 then oif (rs2 = 0) (.lr dw aq rl rd rs1)
    else if f5 = 3 then some (.sc dw aq rl rd rs1 rs2)
    else (AmoOp.all.find? fun o => o.code == f5.toNat).map fun o => .amo o dw aq rl rd rs1 rs2

/-- Computations in the I format. -/
def decImm (op : Nat) (imm : BitVec 12) (rs1 : Reg) (f3 : BitVec 3) (rd : Reg) : Option Instr :=
  match AluRI.all.find? fun o => o.code == (op, f3.toNat) with
  | some o => some (.integerAlu (.ri o rd rs1 imm))
  | none =>
    match AluSh.all.find? fun o => o.code == (op, (fld imm 6 6).toNat, f3.toNat) with
    | some o => some (.integerAlu (.sh o rd rs1 (fld imm 0 6)))
    | none =>
      (AluU.all.find? fun o => o.code == (op, imm.toNat, f3.toNat)).map fun o => .integerAlu (.un o rd rs1)

/-- Computations in the R format. -/
def decReg (op : Nat) (f7 : BitVec 7) (rs2 rs1 : Reg) (f3 : BitVec 3) (rd : Reg) : Option Instr :=
  match AluRR.all.find? fun o => o.code == (op, f7.toNat, f3.toNat) with
  | some o => some (.integerAlu (.rr o rd rs1 rs2))
  | none =>
    (AluU.all.find? fun o => o.code == (op, (f7 ++ rs2).toNat, f3.toNat)).map fun o => .integerAlu (.un o rd rs1)

/-- MISC-MEM (R267). -/
def decFence (imm : BitVec 12) (rs1 : Reg) (f3 : BitVec 3) (rd : Reg) : Option Instr :=
  match f3.toNat with
  | 0 =>
    if imm = 0x833 then some (.fenceTso rd rs1)
    else some (.fence (fld imm 8 4) (fld imm 4 4) (fld imm 0 4) rd rs1)
  | 1 => some (.fenceI rd rs1 imm)
  | _ => none

/-! ## Decoding the device's own instructions (R318 to R322) -/

/-- custom-0 (R318). -/
def decCustom0 (f3 f7 : Nat) (b a d : Reg) : Option Instr :=
  match f3, f7 with
  | 0, 0 => if b = 0 then oif (d = 0) (.tretire a) else oif (d = 0 && b = 1) (.tretireA a)
  | 0, 1 => oif (d = 0 && a = 0 && b = 0) .tyield
  | 0, 2 => if b = 0 then some (.tspawn d a) else oif (b = 1) (.tspawnN d a)
  | 0, 3 => oif (b = 0) (.tcancel d a)
  | 0, 4 => oif (b = 0) (.tstat d a)
  | 0, 5 => oif (a = 0 && b = 0) (.twdchk d)
  | 0, 6 => oif (a = 0 && b = 0) (.tbudget d)
  | 0, 7 => oif (a = 0 && b = 0) (.tself d)
  | 0, 8 => oif (a = 0 && b = 0) (.drank d)
  | 0, 9 => oif (a = 0 && b = 0) (.dsize d)
  | 1, 0 => some (.bbind d a b)
  | 1, 1 => oif (b = 0) (.barrive d a)
  | 1, 2 => oif (a = 0) (.bwait d b)
  | 1, 3 => some (.bsync d b a)
  | 1, 4 => oif (b = 0) (.bexpect d a)
  | 1, 5 => oif (a = 0) (.btest d b)
  | 1, 6 => oif (a = 0 && b = 0) (.bunbind d)
  | 2, 0 => some (.msend d a b)
  | 2, 1 => oif (b = 0) (.mrecv d a)
  | 2, 2 => oif (a = 0 && b = 0) (.mpoll d)
  | 2, 3 => oif (a = 0 && b = 0) (.mwait d)
  | 2, 4 => oif (a = 0 && b = 0) (.mhdr d)
  | 3, 0 => oif (a = 0 && b = 0) (.clkrd d)
  | 3, 1 => oif (d = 0 && b = 0) (.clkadv a)
  | 3, 2 => oif (b = 0) (.lwait d a)
  | 3, 3 => if a = 0 then (Scope.ofCode b).map (fun s => .fencesFull d s) else none
  | 3, 4 => if a = 0 then (Scope.ofCode b).map (fun s => .fencesAcquire d s) else none
  | 3, 5 => if a = 0 then (Scope.ofCode b).map (fun s => .fencesRelease d s) else none
  | 4, 0 => oif (d = 0) (.repb a (fld b 0 3) (fld b 3 2))
  | 4, 1 => oif (d = 0 && b = 0) (.trmark a)
  | 4, 2 => oif (d = 0 && a = 0 && b = 0) .trtrig
  | 5, 0 => some (.ctxpre d a b)
  | 5, 1 => oif (b = 0) (.ctxrel d a)
  | 5, 2 => some (.mcset d a b)
  | 5, 3 => some (.audapp d a b)
  | _, _ => none

/-- custom-1 in C32 (R319, R379). -/
def decCustom1 (f7 : Nat) (b a d : Reg) : Option Instr :=
  match f7 with
  | 0 => oif (a = 0) (.rgnil d b)
  | 1 => oif (b = 0) (.rgfull d a)
  | 2 => some (.rgpt d a b)
  | 3 => some (.rgclip d a b)
  | 4 => some (.rguni d a b)
  | 5 => some (.rgint d a b)
  | 6 => some (.rgsub d a b)
  | 7 => some (.rgdil d a b)
  | 8 => some (.rgshf d a b)
  | 9 => some (.rgprj d a b)
  | 10 => some (.rgxpd d a b)
  | 11 => some (.rglat d a b)
  | 12 => some (.rgcut d a b)
  | 13 => some (.rgspl d a b)
  | 14 => oif (b = 0) (.rgbbox d a)
  | 15 => oif (b = 0) (.rgmv d a)
  | 16 => oif (b = 0) (.rgcan d a)
  | 17 => oif (b = 0) (.rgld d a)
  | 18 => oif (b = 0) (.rgst d a)
  | 19 => oif (b = 0) (.rgcnt d a)
  | 20 => oif (b = 0) (.rgnbx d a)
  | 21 => some (.rgtst d a b)
  | 22 => some (.rgeq d a b)
  | 23 => some (.rgsubs d a b)
  | 24 => some (.rgget d a b)
  | _ => none

/-- custom-3 in C32 (R321, R422); `clip` is f3 = 001. -/
def decCustom3 (clip : Bool) (f7 : Nat) (b a d : Reg) : Option Instr :=
  match clip, f7 with
  | false, 0 => oif (b = 0) (.hld d a)
  | false, 1 => oif (b = 0) (.hst d a)
  | false, 2 => some (.hget d a b)
  | false, 3 => some (.hsetx d a b)
  | false, 4 => some (.copy d a b)
  | false, 5 => some (.copyb d a b)
  | false, 6 => some (.copyn d a b)
  | false, 7 => some (.getx d a b)
  | false, 8 => some (.putx d a b)
  | false, 9 => some (.getr d a b)
  | false, 10 => some (.putr d a b)
  | true, 4 => some (.copyClip d a b)
  | true, 5 => some (.copybClip d a b)
  | true, 6 => some (.copynClip d a b)
  | true, 7 => some (.getxClip d a b)
  | true, 8 => some (.putxClip d a b)
  | true, 9 => some (.getrClip d a b)
  | true, 10 => some (.putrClip d a b)
  | false, 11 => oif (d = 0) (.pref a b)
  | false, 12 => some (.flushr d a b)
  | false, 13 => some (.waitg d a b)
  | false, 14 => oif (b = 0) (.tktest d a)
  | false, 15 => some (.qbind d a b)
  | false, 16 => oif (b = 0) (.qacq d a)
  | false, 17 => some (.qpub d a b)
  | false, 18 => oif (b = 0) (.qtake d a)
  | false, 19 => oif (b = 0) (.qfree d a)
  | false, 20 => oif (a = 0 && b = 0) (.qeos d)
  | false, 21 => oif (b = 0) (.qstat d a)
  | false, 22 => some (.ldsub d a b)
  | false, 23 => some (.lddrn d a b)
  | false, 24 => oif (b = 0) (.ldcan d a)
  | _, _ => none

/-- custom-2, and the class 100 long forms that use none of c, sz and the immediate (R320, R322, R428). -/
def decCustom2 (op : Nat) (vx : Bool) (t : VTy) (b a d : Reg) : Option Instr :=
  match op, vx with
  | 0, false => oif (b = 0) (.vld t d a)
  | 1, false => oif (d = 0) (.vst t b a)
  | 4, false => some (.vgath t d a b)
  | 5, false => some (.vscat t d a b)
  | 6, false => oif (b = 0) (.vbcast t d a)
  | 7, false => oif (b = 0) (.vmvx t d a)
  | 8, false => oif (b = 0) (.vmvv t d a)
  | 9, false => some (.vadd t d a b)
  | 9, true => some (.vaddVx t d a b)
  | 10, false => some (.vsub t d a b)
  | 10, true => some (.vsubVx t d a b)
  | 11, false => some (.vmul t d a b)
  | 11, true => some (.vmulVx t d a b)
  | 12, false => some (.vfma t d a b)
  | 12, true => some (.vfmaVx t d a b)
  | 13, false => some (.vfms t d a b)
  | 13, true => some (.vfmsVx t d a b)
  | 14, false => some (.vmin t d a b)
  | 14, true => some (.vminVx t d a b)
  | 15, false => some (.vmax t d a b)
  | 15, true => some (.vmaxVx t d a b)
  | 16, false => oif (b = 0) (.vabs t d a)
  | 17, false => oif (b = 0) (.vneg t d a)
  | 18, false => some (.vand t d a b)
  | 18, true => some (.vandVx t d a b)
  | 19, false => some (.vor t d a b)
  | 19, true => some (.vorVx t d a b)
  | 20, false => some (.vxor t d a b)
  | 20, true => some (.vxorVx t d a b)
  | 21, false => some (.vsll t d a b)
  | 21, true => some (.vsllVx t d a b)
  | 22, false => some (.vsrl t d a b)
  | 22, true => some (.vsrlVx t d a b)
  | 23, false => some (.vsra t d a b)
  | 23, true => some (.vsraVx t d a b)
  | 25, false => some (.vsel t d a b)
  | 25, true => some (.vselVx t d a b)
  | 26, false => some (.vcvt t d a b)
  | 27, false => oif (b = 0) (.vrsum t d a)
  | 28, false => oif (b = 0) (.vrmax t d a)
  | 29, false => oif (b = 0) (.vrmin t d a)
  | 30, false => oif (b = 0) (.vexp2 t d a)
  | 31, false => oif (b = 0) (.vlog2 t d a)
  | 32, false => oif (b = 0) (.vrcp t d a)
  | 33, false => oif (b = 0) (.vrsqrt t d a)
  | 34, false => oif (b = 0) (.vsqrt t d a)
  | 35, false => some (.vdot t d a b)
  | 36, false => some (.vperm t d a b)
  | 37, true => some (.vslideVx t d a b)
  | 38, false => oif (b = 0) (.vcompr t d a)
  | 39, false => oif (b = 0) (.vexpnd t d a)
  | 40, false => oif (a = 0 && b = 0) (.viota t d)
  | 41, false => oif (b = 0) (.vztst t d a)
  | 42, false => some (.vscl t false d a b)
  | 42, true => some (.vsclVx t false d a b)
  | 44, false => oif (t = .i8 && d = 0 && b = 0) (.vmask a)
  | 45, false => oif (t = .i8) (.kand d a b)
  | 46, false => oif (t = .i8) (.kor d a b)
  | 47, false => oif (t = .i8 && b = 0) (.knot d a)
  | 48, false => if b = 0 then oif (t = .i8) (.kmvToMask d a) else oif (t = .i8 && b = 1) (.kmvFromMask d a)
  | _, _ => none

/-- W64 class 100 (R322, R427): the forms of their own first, then those that act as the custom-2 form. -/
def decVector (imm : BitVec 24) (op : Nat) (vx : Bool) (sz : BitVec 2) (c b a d : Reg) : Option Instr :=
  let t := VTy.ofCode (fld imm 21 3)
  let off := fld imm 0 21
  match op, vx with
  | 0, false => oif (b = 0 && c = 0 && sz = 0) (.vldOff t d a off)
  | 1, false => oif (d = 0 && c = 0 && sz = 0) (.vstOff t b a off)
  | 2, false => oif (b = 0 && sz = 0) (.vlds t d a c off)
  | 3, false => oif (d = 0 && sz = 0) (.vsts t b a c off)
  | 4, false => oif (c = 0 && sz = 0) (.vgathOff t d a b off)
  | 5, false => oif (c = 0 && sz = 0) (.vscatOff t d a b off)
  | 7, false => oif (b = 0 && c = 0 && sz = 0 && fld imm 6 15 = 0) (.vmvxLane t d a (fld imm 0 6))
  | 24, _ => oif (sz = 0 && off = 0) (.vcmp t vx d a b c)
  | 26, false =>
    oif (c = 0 && !b.getLsbD 4 && fld imm 3 18 = 0) (.vcvtW64 t sz d a (fld b 0 4) (fld imm 0 3))
  | 37, false => oif (b = 0 && c = 0 && sz = 0) (.vslideI t d a off)
  | 42, false => oif (c = 0 && off = 0 && (sz = 0 || sz = 1)) (.vscl t (sz = 1) d a b)
  | 42, true => oif (c = 0 && off = 0 && (sz = 0 || sz = 1)) (.vsclVx t (sz = 1) d a b)
  | 43, false => oif (t = .fp8 && fld imm 3 18 = 0) (.vqnt sz (imm.getLsbD 2) (fld imm 0 2) d a b c)
  | _, _ => if c = 0 && sz = 0 && off = 0 then decCustom2 op vx t b a d else none

/-- W64 class 000 (R451). -/
def decMatrix (imm : BitVec 24) (f8 : Nat) (sz : BitVec 2) (c b a d : Reg) : Option Instr :=
  match f8 with
  | 0 => oif (d = 0 && b = 0 && c = 0 && sz = 0 && imm = 0) (.mfmt a)
  | 1 => oif (d = 0 && c = 0 && sz = 0 && imm = 0) (.mupld a b)
  | 2 => oif ((sz = 0 || sz = 1) && fld imm 19 5 = 0) (.mma (sz = 1) d a b c (fld imm 10 9) (fld imm 0 10))
  | 3 => oif ((sz = 0 || sz = 1) && fld imm 19 5 = 0) (.mmag (sz = 1) d a b c (fld imm 10 9) (fld imm 0 10))
  | 4 => oif ((sz = 0 || sz = 1) && fld imm 19 5 = 0) (.mrec (sz = 1) d a b c (fld imm 10 9) (fld imm 0 10))
  | 5 => oif (a = 0 && b = 0 && c = 0 && sz = 0 && fld imm 3 21 = 0) (.mzero d (fld imm 0 3))
  | 6 => oif (a = 0 && b = 0 && c = 0 && sz = 0 && fld imm 4 20 = 0) (.mtzero d (fld imm 0 4))
  | 7 => oif (b = 0 && c = 0 && sz = 0 && fld imm 4 20 = 0) (.mtmov d a (fld imm 0 4))
  | 8 => oif (b = 0 && c = 0 && sz = 0 && fld imm 4 20 = 0) (.mztst d a (fld imm 0 4))
  | 9 => oif (b = 0 && c = 0 && imm = 0) (.mtrn sz d a)
  | 10 => oif (a = 0 && b = 0 && c = 0 && imm = 0 && (sz = 0 || sz = 1)) (.mrel (sz = 1) d)
  | 11 => oif (d = 0 && a = 0 && b = 0 && c = 0 && sz = 0 && imm = 0) .msync
  | 12 => oif (b = 0 && c = 0 && sz = 0 && fld imm 10 14 = 0) (.mext d a (fld imm 0 7) (fld imm 7 3))
  | 13 => oif (b = 0 && c = 0 && sz = 0 && fld imm 10 14 = 0) (.mins d a (fld imm 0 7) (fld imm 7 3))
  | 14 => oif (b = 0 && c = 0 && imm = 0) (.mlda sz d a)
  | 15 => oif (b = 0 && c = 0 && imm = 0) (.msta sz d a)
  | 16 => oif (fld imm 5 19 = 0) (.mqnt sz d a b c (fld imm 0 3) (fld imm 3 2))
  | 17 => oif (b = 0 && c = 0 && imm = 0) (.mscl sz d a)
  | 18 => oif (b = 0 && c = 0 && imm = 0) (.mbias sz d a)
  | 19 =>
    if imm = 1 then oif (a = 0 && b = 0 && c = 0 && sz = 0) (.mapplyMicro d)
    else oif (a = 0 && b = 0 && c = 0 && sz = 0 && imm = 0) (.mapplyRelu d)
  | 20 => oif (b = 0 && c = 0 && fld imm 7 17 = 0) (.mred sz d a (fld imm 0 7))
  | _ => none

/-- W64 class 001 (R322, R404, R422). -/
def decTransfer (imm : BitVec 24) (f8 : Nat) (sz : BitVec 2) (c b a d : Reg) : Option Instr :=
  match f8 with
  | 0 => oif (sz = 0 && c = 0 && b = 0) (.hldW64 d a imm)
  | 1 => oif (sz = 0 && c = 0 && b = 0) (.hstW64 d a imm)
  | 2 => oif (sz = 0 && c = 0 && b = 0 && fld imm 3 21 = 0) (.hgetI d a (fld imm 0 3))
  | 3 => oif (sz = 0 && c = 0 && b = 0 && fld imm 3 21 = 0) (.hsetxI d a (fld imm 0 3))
  | 4 => oif (sz = 0 || sz = 1) (.copyW64 (sz = 1) d a b c imm)
  | 5 => oif (sz = 0 || sz = 1) (.copybW64 (sz = 1) d a b c imm)
  | 6 => oif (sz = 0 || sz = 1) (.copynW64 (sz = 1) d a b c imm)
  | 7 => oif (sz = 0 || sz = 1) (.getxW64 (sz = 1) d a b c imm)
  | 8 => oif (sz = 0 || sz = 1) (.putxW64 (sz = 1) d a b c imm)
  | 9 => oif (sz = 0 || sz = 1) (.getrW64 (sz = 1) d a b c imm)
  | 10 => oif (sz = 0 || sz = 1) (.putrW64 (sz = 1) d a b c imm)
  | _ => if sz = 0 && c = 0 && imm = 0 then decCustom3 false f8 b a d else none

/-- W64 class 010 (R322, R379). -/
def decRegion (imm : BitVec 24) (f8 : Nat) (sz : BitVec 2) (c b a d : Reg) : Option Instr :=
  match f8 with
  | 2 => oif (c = 0) (.rgptI d a b sz imm)
  | 7 => oif (sz = 0 && c = 0 && b = 0) (.rgdilI d a imm)
  | 8 => oif (sz = 0 && c = 0 && b = 0) (.rgshfI d a imm)
  | 9 => oif (sz = 0 && c = 0 && b = 0) (.rgprjI d a imm)
  | 10 => oif (sz = 0 && c = 0 && b = 0) (.rgxpdI d a imm)
  | 11 => oif (sz = 0 && c = 0 && b = 0) (.rglatI d a imm)
  | 12 => oif (sz = 0 && c = 0 && b = 0) (.rgcutI d a imm)
  | 13 => oif (sz = 0 && c = 0 && b = 0) (.rgsplI d a imm)
  | 17 => oif (sz = 0 && c = 0 && b = 0) (.rgldW64 d a imm)
  | 18 => oif (sz = 0 && c = 0 && b = 0) (.rgstW64 d a imm)
  | 24 => oif (sz = 0 && c = 0 && b = 0 && fld imm 7 17 = 0) (.rggetI d a (fld imm 0 7))
  | _ => none

/-- W64 class 011 (R322, 15). -/
def decTask (imm : BitVec 24) (f8 : Nat) (sz : BitVec 2) (c b a d : Reg) : Option Instr :=
  match f8 with
  | 0 => if sz = 0 then oif (b = 0 && c = 0) (.tspawnOff d a imm) else oif (sz = 1 && b = 0 && c = 0) (.tspawnNOff d a imm)
  | 1 => oif (sz = 0 && b = 0 && c = 0 && fld imm 16 8 = 0) (.bbindI d a (fld imm 0 16))
  | 2 => oif (sz = 0 && a = 0 && b = 0 && c = 0) (.bexpectI d imm)
  | 3 => oif (sz = 0 && fld imm 16 8 = 0) (.msendI d a b c (fld imm 0 16))
  | 4 => oif (sz = 0 && b = 0 && c = 0) (.lwaitOff d a imm)
  | 5 => oif (sz = 0 && d = 0 && b = 0 && c = 0) (.clkadvOff a imm)
  | 6 => oif (sz = 0 && d = 0 && a = 0 && b = 0 && c = 0) (.trmarkI imm)
  | _ => none

/-! ## The decoder (R313, R324) -/

/-- The instruction a 32-bit encoding names, before the field checks. -/
def decode32Raw (w : W32) : Option Instr :=
  let b := fld w 20 5
  let a := fld w 15 5
  let f3 := fld w 12 3
  let d := fld w 7 5
  let f7 := fld w 25 7
  let imm := fld w 20 12
  match (fld w 0 7).toNat with
  | 0x03 => (LoadWidth.all.find? fun o => o.code == f3.toNat).map fun o => .load o d a imm
  | 0x23 => (StoreWidth.all.find? fun o => o.code == f3.toNat).map fun o => .store o b a (f7 ++ d)
  | 0x13 => decImm 0x13 imm a f3 d
  | 0x1b => decImm 0x1b imm a f3 d
  | 0x33 => decReg 0x33 f7 b a f3 d
  | 0x3b => decReg 0x3b f7 b a f3 d
  | 0x37 => some (.integerAlu (.lui d (fld w 12 20)))
  | 0x17 => some (.integerAlu (.auipc d (fld w 12 20)))
  | 0x63 =>
    (Cond.all.find? fun o => o.code == f3.toNat).map fun o =>
      .controlTransfer (.branch o a b (fld w 31 1 ++ fld w 7 1 ++ fld w 25 6 ++ fld w 8 4))
  | 0x6f => some (.controlTransfer (.jal d (fld w 31 1 ++ fld w 12 8 ++ fld w 20 1 ++ fld w 21 10)))
  | 0x67 => if f3 = 0 then some (.controlTransfer (.jalr d a imm)) else none
  | 0x0f => decFence imm a f3 d
  | 0x2f => decAmo (fld w 27 5) (w.getLsbD 26) (w.getLsbD 25) b a f3 d
  | 0x73 => decSystem imm a f3 d
  | 0x0b => decCustom0 f3.toNat f7.toNat b a d
  | 0x2b =>
    match f3.toNat with
    | 0 => decCustom1 f7.toNat b a d
    | 1 => some (.rgldImm d a imm)
    | 2 => some (.rgstImm d a imm)
    | _ => none
  | 0x5b => decCustom2 (fld w 25 6).toNat (w.getLsbD 31) (VTy.ofCode f3) b a d
  | 0x7b =>
    match f3.toNat with
    | 0 => decCustom3 false f7.toNat b a d
    | 1 => decCustom3 true f7.toNat b a d
    | 2 => some (.hldImm d a imm)
    | 3 => some (.hstImm d a imm)
    | _ => none
  | _ => none

/-- The instruction a 64-bit encoding names, before the field checks. -/
def decode64Raw (e : Word) : Option Instr :=
  let imm := fld e 40 24
  let f8 := fld e 32 8
  let sz := fld e 30 2
  let c := fld e 25 5
  let b := fld e 20 5
  let a := fld e 15 5
  let d := fld e 7 5
  match (fld e 12 3).toNat with
  | 0 => decMatrix imm f8.toNat sz c b a d
  | 1 => decTransfer imm f8.toNat sz c b a d
  | 2 => decRegion imm f8.toNat sz c b a d
  | 3 => decTask imm f8.toNat sz c b a d
  | 4 => if f8.getLsbD 7 then none else decVector imm (fld f8 0 6).toNat (f8.getLsbD 6) sz c b a d
  | _ => none

/-- The length in bytes that the first 32 bits give (R313); none for the illegal lengths. -/
def lengthOf (w : W32) : Option Nat :=
  if fld w 0 2 ≠ 3 then none
  else if fld w 2 3 ≠ 7 then some 4
  else if fld w 5 2 = 1 then some 8
  else none

/-- The field checks applied to what the map names. -/
def checked (len : Nat) : Option Instr → Decoded
  | none => .reject .unassigned
  | some i => if fieldsOk i then .ok i len else .reject .field

/-- Decode an encoding whose low 32 bits lie at the lower address; `avail` bytes of it are given (R324). -/
def decode (avail : Nat) (e : Word) : Decoded :=
  if avail < 4 then .reject .short
  else
    match lengthOf (fld e 0 32) with
    | none => .reject .length
    | some 4 => checked 4 (decode32Raw (fld e 0 32))
    | some _ => if avail < 8 then .reject .short else checked 8 (decode64Raw e)

/-- Decode a string of bytes. -/
def decodeBytes (l : List Byte) : Decoded := decode l.length (BitVec.ofNat 64 (ofBytes (l.take 8)))

/-- The instruction read from an encoding whose bits are `w`, all bits above `nbits` zero. -/
def decodeTableWord (nbits w : Nat) : Option Instr :=
  match decodeBytes (bytesOf 8 (w % 2 ^ nbits)) with
  | .ok i _ => some i
  | .reject _ => none

/-! ## The encoder -/

/-- The high seven bits of a custom-2 operation: .vx and the operation (R427). -/
def vf7 (vx : Bool) (op : BitVec 6) : BitVec 7 := BitVec.ofBool vx ++ op

/-- custom-2 in C32. -/
def v32 (vx : Bool) (op : BitVec 6) (t : VTy) (b a d : Reg) : Nat × Word :=
  (4, zx (c32 (vf7 vx op) b a t.code d 0x5b))

/-- W64 class 100. -/
def v64 (t : VTy) (off : BitVec 21) (vx : Bool) (op : BitVec 6) (sz : BitVec 2) (c b a d : Reg) : Nat × Word :=
  (8, w64 (t.code ++ off) (0#1 ++ vf7 vx op) sz c b a 4 d)

/-- C32 in one of the custom majors. -/
def e32 (major : BitVec 7) (f3 : BitVec 3) (f7 : BitVec 7) (b a d : Reg) : Nat × Word := (4, zx (c32 f7 b a f3 d major))

/-- C32I. -/
def ei32 (major : BitVec 7) (f3 : BitVec 3) (imm : BitVec 12) (a d : Reg) : Nat × Word := (4, zx (c32i imm a f3 d major))

/-- W64. -/
def e64 (cls : BitVec 3) (imm : BitVec 24) (f8 : BitVec 8) (sz : BitVec 2) (c b a d : Reg) : Nat × Word :=
  (8, w64 imm f8 sz c b a cls d)

/-- The sz of a two-way choice. -/
def szOf (z : Bool) : BitVec 2 := if z then 1 else 0

/-- SYSTEM with a CSR number. -/
def ecsr (op : CsrOp) (csr : BitVec 12) (src : CsrSrc) (rd : Reg) : Nat × Word :=
  match src with
  | .reg r => (4, zx (c32i csr r (BitVec.ofNat 3 op.code) rd 0x73))
  | .imm v => (4, zx (c32i csr v (BitVec.ofNat 3 (op.code + 4)) rd 0x73))

/-- AMO. -/
def eamo (f5 : BitVec 5) (aq rl : Bool) (rs2 rs1 : Reg) (f3 : BitVec 3) (rd : Reg) : Nat × Word :=
  (4, zx (c32 (f5 ++ BitVec.ofBool aq ++ BitVec.ofBool rl) rs2 rs1 f3 rd 0x2f))

/-- A computation. -/
def Alu.encode : Alu → Nat × Word
  | .rr op rd rs1 rs2 =>
    let c := op.code
    (4, zx (c32 (BitVec.ofNat 7 c.2.1) rs2 rs1 (BitVec.ofNat 3 c.2.2) rd (BitVec.ofNat 7 c.1)))
  | .ri op rd rs1 imm =>
    let c := op.code
    (4, zx (c32i imm rs1 (BitVec.ofNat 3 c.2) rd (BitVec.ofNat 7 c.1)))
  | .sh op rd rs1 amt =>
    let c := op.code
    (4, zx (c32i (BitVec.ofNat 6 c.2.1 ++ amt) rs1 (BitVec.ofNat 3 c.2.2) rd (BitVec.ofNat 7 c.1)))
  | .un op rd rs1 =>
    let c := op.code
    (4, zx (c32i (BitVec.ofNat 12 c.2.1) rs1 (BitVec.ofNat 3 c.2.2) rd (BitVec.ofNat 7 c.1)))
  | .lui rd imm => (4, zx ((imm ++ rd ++ 0x37#7 : W32)))
  | .auipc rd imm => (4, zx ((imm ++ rd ++ 0x17#7 : W32)))

/-- A control transfer. -/
def Ct.encode : Ct → Nat × Word
  | .branch c rs1 rs2 off =>
    (4, zx (c32 (fld off 11 1 ++ fld off 4 6) rs2 rs1 (BitVec.ofNat 3 c.code) (fld off 0 4 ++ fld off 10 1) 0x63))
  | .jal rd off => (4, zx ((fld off 19 1 ++ fld off 0 10 ++ fld off 10 1 ++ fld off 11 8 ++ rd ++ 0x6f#7 : W32)))
  | .jalr rd rs1 imm => (4, zx (c32i imm rs1 0 rd 0x67))

/-- The encoding of an instruction: its length in bytes and its bits, written from the tables of R318 to R322, R336,
R379, R422, R428 and R451 and from the ratified base encodings. Events have none; neither have the calls of R93, which
are ECALL. -/
def encode : Instr → Option (Nat × Word)
  | .ecallEnvironment brk => some (4, zx (c32i (if brk then 1 else 0) 0 0 0 0x73))
  | .csrWrite op csr src rd => some (ecsr op csr src rd)
  | .budgetWrite op src rd => some (ecsr op 0x5C1 src rd)
  | .driftWrite op src rd => some (ecsr op 0x5C0 src rd)
  | .leaseWrite op src rd => some (ecsr op 0x803 src rd)
  | .rmodeWrite op src rd => some (ecsr op 0x800 src rd)
  | .trcfgWrite op src rd => some (ecsr op 0x809 src rd)
  | .xfctlResume op src rd => some (ecsr op 0x5C5 src rd)
  | .xfctlFail op src rd => some (ecsr op 0x5C5 src rd)
  | .load w rd rs1 imm => some (4, zx (c32i imm rs1 (BitVec.ofNat 3 w.code) rd 0x03))
  | .store w rs2 rs1 imm => some (4, zx (c32 (fld imm 5 7) rs2 rs1 (BitVec.ofNat 3 w.code) (fld imm 0 5) 0x23))
  | .amo op dw aq rl rd rs1 rs2 => some (eamo (BitVec.ofNat 5 op.code) aq rl rs2 rs1 (if dw then 3 else 2) rd)
  | .lr dw aq rl rd rs1 => some (eamo 2 aq rl 0 rs1 (if dw then 3 else 2) rd)
  | .sc dw aq rl rd rs1 rs2 => some (eamo 3 aq rl rs2 rs1 (if dw then 3 else 2) rd)
  | .amocasQ aq rl rd rs1 rs2 => some (eamo 5 aq rl rs2 rs1 4 rd)
  | .wfi => some (4, zx (c32i 0x105 0 0 0 0x73))
  | .sret => some (4, zx (c32i 0x102 0 0 0 0x73))
  | .mret => some (4, zx (c32i 0x302 0 0 0 0x73))
  | .sfenceVma rs1 rs2 => some (4, zx (c32 9 rs2 rs1 0 0 0x73))
  | .fence fm pred succ rd rs1 => some (4, zx (c32i (fm ++ pred ++ succ) rs1 0 rd 0x0f))
  | .fenceTso rd rs1 => some (4, zx (c32i 0x833 rs1 0 rd 0x0f))
  | .fenceI rd rs1 imm => some (4, zx (c32i imm rs1 1 rd 0x0f))
  | .tretire a => some (e32 0x0b 0 0 0 a 0)
  | .tretireA a => some (e32 0x0b 0 0 1 a 0)
  | .tyield => some (e32 0x0b 0 1 0 0 0)
  | .tspawn d a => some (e32 0x0b 0 2 0 a d)
  | .tspawnN d a => some (e32 0x0b 0 2 1 a d)
  | .tcancel d a => some (e32 0x0b 0 3 0 a d)
  | .tstat d a => some (e32 0x0b 0 4 0 a d)
  | .twdchk d => some (e32 0x0b 0 5 0 0 d)
  | .tbudget d => some (e32 0x0b 0 6 0 0 d)
  | .tself d => some (e32 0x0b 0 7 0 0 d)
  | .drank d => some (e32 0x0b 0 8 0 0 d)
  | .dsize d => some (e32 0x0b 0 9 0 0 d)
  | .bbind n a b => some (e32 0x0b 1 0 b a n)
  | .barrive n a => some (e32 0x0b 1 1 0 a n)
  | .bwait d n => some (e32 0x0b 1 2 n 0 d)
  | .bsync d n a => some (e32 0x0b 1 3 n a d)
  | .bexpect n a => some (e32 0x0b 1 4 0 a n)
  | .btest d n => some (e32 0x0b 1 5 n 0 d)
  | .bunbind n => some (e32 0x0b 1 6 0 0 n)
  | .msend d a b => some (e32 0x0b 2 0 b a d)
  | .mrecv d a => some (e32 0x0b 2 1 0 a d)
  | .mpoll d => some (e32 0x0b 2 2 0 0 d)
  | .mwait d => some (e32 0x0b 2 3 0 0 d)
  | .mhdr d => some (e32 0x0b 2 4 0 0 d)
  | .clkrd d => some (e32 0x0b 3 0 0 0 d)
  | .clkadv a => some (e32 0x0b 3 1 0 a 0)
  | .lwait d a => some (e32 0x0b 3 2 0 a d)
  | .fencesFull d scope => some (e32 0x0b 3 3 scope.code 0 d)
  | .fencesAcquire d scope => some (e32 0x0b 3 4 scope.code 0 d)
  | .fencesRelease d scope => some (e32 0x0b 3 5 scope.code 0 d)
  | .repb a len ring => some (e32 0x0b 4 0 (ring ++ len) a 0)
  | .trmark a => some (e32 0x0b 4 1 0 a 0)
  | .trtrig => some (e32 0x0b 4 2 0 0 0)
  | .ctxpre d a b => some (e32 0x0b 5 0 b a d)
  | .ctxrel d a => some (e32 0x0b 5 1 0 a d)
  | .mcset d a b => some (e32 0x0b 5 2 b a d)
  | .audapp d a b => some (e32 0x0b 5 3 b a d)
  | .tspawnOff d a off => some (e64 3 off 0 0 0 0 a d)
  | .tspawnNOff d a off => some (e64 3 off 0 1 0 0 a d)
  | .bbindI n a cfg => some (e64 3 (0#8 ++ cfg) 1 0 0 0 a n)
  | .bexpectI n bytes => some (e64 3 bytes 2 0 0 0 0 n)
  | .msendI d a b c tag => some (e64 3 (0#8 ++ tag) 3 0 c b a d)
  | .lwaitOff d a off => some (e64 3 off 4 0 0 0 a d)
  | .clkadvOff a off => some (e64 3 off 5 0 0 0 a 0)
  | .trmarkI imm => some (e64 3 imm 6 0 0 0 0 0)
  | .rgnil d n => some (e32 0x2b 0 0 n 0 d)
  | .rgfull d a => some (e32 0x2b 0 1 0 a d)
  | .rgpt d a b => some (e32 0x2b 0 2 b a d)
  | .rgclip d a b => some (e32 0x2b 0 3 b a d)
  | .rguni d a b => some (e32 0x2b 0 4 b a d)
  | .rgint d a b => some (e32 0x2b 0 5 b a d)
  | .rgsub d a b => some (e32 0x2b 0 6 b a d)
  | .rgdil d a b => some (e32 0x2b 0 7 b a d)
  | .rgshf d a b => some (e32 0x2b 0 8 b a d)
  | .rgprj d a b => some (e32 0x2b 0 9 b a d)
  | .rgxpd d a b => some (e32 0x2b 0 10 b a d)
  | .rglat d a b => some (e32 0x2b 0 11 b a d)
  | .rgcut d a b => some (e32 0x2b 0 12 b a d)
  | .rgspl d a b => some (e32 0x2b 0 13 b a d)
  | .rgbbox d a => some (e32 0x2b 0 14 0 a d)
  | .rgmv d a => some (e32 0x2b 0 15 0 a d)
  | .rgcan d a => some (e32 0x2b 0 16 0 a d)
  | .rgld d a => some (e32 0x2b 0 17 0 a d)
  | .rgst d a => some (e32 0x2b 0 18 0 a d)
  | .rgcnt d a => some (e32 0x2b 0 19 0 a d)
  | .rgnbx d a => some (e32 0x2b 0 20 0 a d)
  | .rgtst d a b => some (e32 0x2b 0 21 b a d)
  | .rgeq d a b => some (e32 0x2b 0 22 b a d)
  | .rgsubs d a b => some (e32 0x2b 0 23 b a d)
  | .rgget d a b => some (e32 0x2b 0 24 b a d)
  | .rgldImm d a imm => some (ei32 0x2b 1 imm a d)
  | .rgstImm d a imm => some (ei32 0x2b 2 imm a d)
  | .rgptI d a b n e => some (e64 2 e 2 n 0 b a d)
  | .rgdilI d a imm => some (e64 2 imm 7 0 0 0 a d)
  | .rgshfI d a imm => some (e64 2 imm 8 0 0 0 a d)
  | .rgprjI d a imm => some (e64 2 imm 9 0 0 0 a d)
  | .rgxpdI d a imm => some (e64 2 imm 10 0 0 0 a d)
  | .rglatI d a imm => some (e64 2 imm 11 0 0 0 a d)
  | .rgcutI d a imm => some (e64 2 imm 12 0 0 0 a d)
  | .rgsplI d a imm => some (e64 2 imm 13 0 0 0 a d)
  | .rgldW64 d a off => some (e64 2 off 17 0 0 0 a d)
  | .rgstW64 d a off => some (e64 2 off 18 0 0 0 a d)
  | .rggetI d a sel => some (e64 2 (0#17 ++ sel) 24 0 0 0 a d)
  | .hld d a => some (e32 0x7b 0 0 0 a d)
  | .hst d a => some (e32 0x7b 0 1 0 a d)
  | .hget d a b => some (e32 0x7b 0 2 b a d)
  | .hsetx d a b => some (e32 0x7b 0 3 b a d)
  | .hldImm d a imm => some (ei32 0x7b 2 imm a d)
  | .hstImm d a imm => some (ei32 0x7b 3 imm a d)
  | .hldW64 d a off => some (e64 1 off 0 0 0 0 a d)
  | .hstW64 d a off => some (e64 1 off 1 0 0 0 a d)
  | .hgetI d a sel => some (e64 1 (0#21 ++ sel) 2 0 0 0 a d)
  | .hsetxI d a sel => some (e64 1 (0#21 ++ sel) 3 0 0 0 a d)
  | .copy d a b => some (e32 0x7b 0 4 b a d)
  | .copyClip d a b => some (e32 0x7b 1 4 b a d)
  | .copyW64 clip d a b c imm => some (e64 1 imm 4 (szOf clip) c b a d)
  | .copyb n a b => some (e32 0x7b 0 5 b a n)
  | .copybClip n a b => some (e32 0x7b 1 5 b a n)
  | .copybW64 clip n a b c imm => some (e64 1 imm 5 (szOf clip) c b a n)
  | .copyn d a b => some (e32 0x7b 0 6 b a d)
  | .copynClip d a b => some (e32 0x7b 1 6 b a d)
  | .copynW64 clip d a b c imm => some (e64 1 imm 6 (szOf clip) c b a d)
  | .getx d a b => some (e32 0x7b 0 7 b a d)
  | .getxClip d a b => some (e32 0x7b 1 7 b a d)
  | .getxW64 clip d a b c imm => some (e64 1 imm 7 (szOf clip) c b a d)
  | .putx d a b => some (e32 0x7b 0 8 b a d)
  | .putxClip d a b => some (e32 0x7b 1 8 b a d)
  | .putxW64 clip d a b c imm => some (e64 1 imm 8 (szOf clip) c b a d)
  | .getr d a b => some (e32 0x7b 0 9 b a d)
  | .getrClip d a b => some (e32 0x7b 1 9 b a d)
  | .getrW64 clip d a b c imm => some (e64 1 imm 9 (szOf clip) c b a d)
  | .putr d a b => some (e32 0x7b 0 10 b a d)
  | .putrClip d a b => some (e32 0x7b 1 10 b a d)
  | .putrW64 clip d a b c imm => some (e64 1 imm 10 (szOf clip) c b a d)
  | .pref a b => some (e32 0x7b 0 11 b a 0)
  | .flushr d a b => some (e32 0x7b 0 12 b a d)
  | .waitg d a b => some (e32 0x7b 0 13 b a d)
  | .tktest d a => some (e32 0x7b 0 14 0 a d)
  | .qbind n a b => some (e32 0x7b 0 15 b a n)
  | .qacq d n => some (e32 0x7b 0 16 0 n d)
  | .qpub n a b => some (e32 0x7b 0 17 b a n)
  | .qtake d n => some (e32 0x7b 0 18 0 n d)
  | .qfree n a => some (e32 0x7b 0 19 0 a n)
  | .qeos n => some (e32 0x7b 0 20 0 0 n)
  | .qstat d n => some (e32 0x7b 0 21 0 n d)
  | .ldsub d a b => some (e32 0x7b 0 22 b a d)
  | .lddrn d a b => some (e32 0x7b 0 23 b a d)
  | .ldcan d a => some (e32 0x7b 0 24 0 a d)
  | .vld t d a => some (v32 false 0 t 0 a d)
  | .vldOff t d a off => some (v64 t off false 0 0 0 0 a d)
  | .vst t b a => some (v32 false 1 t b a 0)
  | .vstOff t b a off => some (v64 t off false 1 0 0 b a 0)
  | .vlds t d a c off => some (v64 t off false 2 0 c 0 a d)
  | .vsts t b a c off => some (v64 t off false 3 0 c b a 0)
  | .vgath t d a b => some (v32 false 4 t b a d)
  | .vgathOff t d a b off => some (v64 t off false 4 0 0 b a d)
  | .vscat t d a b => some (v32 false 5 t b a d)
  | .vscatOff t d a b off => some (v64 t off false 5 0 0 b a d)
  | .vbcast t d a => some (v32 false 6 t 0 a d)
  | .vmvx t d a => some (v32 false 7 t 0 a d)
  | .vmvxLane t d a lane => some (v64 t (0#15 ++ lane) false 7 0 0 0 a d)
  | .vmvv t d a => some (v32 false 8 t 0 a d)
  | .vadd t d a b => some (v32 false 9 t b a d)
  | .vaddVx t d a b => some (v32 true 9 t b a d)
  | .vsub t d a b => some (v32 false 10 t b a d)
  | .vsubVx t d a b => some (v32 true 10 t b a d)
  | .vmul t d a b => some (v32 false 11 t b a d)
  | .vmulVx t d a b => some (v32 true 11 t b a d)
  | .vfma t d a b => some (v32 false 12 t b a d)
  | .vfmaVx t d a b => some (v32 true 12 t b a d)
  | .vfms t d a b => some (v32 false 13 t b a d)
  | .vfmsVx t d a b => some (v32 true 13 t b a d)
  | .vmin t d a b => some (v32 false 14 t b a d)
  | .vminVx t d a b => some (v32 true 14 t b a d)
  | .vmax t d a b => some (v32 false 15 t b a d)
  | .vmaxVx t d a b => some (v32 true 15 t b a d)
  | .vand t d a b => some (v32 false 18 t b a d)
  | .vandVx t d a b => some (v32 true 18 t b a d)
  | .vor t d a b => some (v32 false 19 t b a d)
  | .vorVx t d a b => some (v32 true 19 t b a d)
  | .vxor t d a b => some (v32 false 20 t b a d)
  | .vxorVx t d a b => some (v32 true 20 t b a d)
  | .vsll t d a b => some (v32 false 21 t b a d)
  | .vsllVx t d a b => some (v32 true 21 t b a d)
  | .vsrl t d a b => some (v32 false 22 t b a d)
  | .vsrlVx t d a b => some (v32 true 22 t b a d)
  | .vsra t d a b => some (v32 false 23 t b a d)
  | .vsraVx t d a b => some (v32 true 23 t b a d)
  | .vsel t d a b => some (v32 false 25 t b a d)
  | .vselVx t d a b => some (v32 true 25 t b a d)
  | .vabs t d a => some (v32 false 16 t 0 a d)
  | .vneg t d a => some (v32 false 17 t 0 a d)
  | .vrsum t d a => some (v32 false 27 t 0 a d)
  | .vrmax t d a => some (v32 false 28 t 0 a d)
  | .vrmin t d a => some (v32 false 29 t 0 a d)
  | .vexp2 t d a => some (v32 false 30 t 0 a d)
  | .vlog2 t d a => some (v32 false 31 t 0 a d)
  | .vrcp t d a => some (v32 false 32 t 0 a d)
  | .vrsqrt t d a => some (v32 false 33 t 0 a d)
  | .vsqrt t d a => some (v32 false 34 t 0 a d)
  | .vcompr t d a => some (v32 false 38 t 0 a d)
  | .vexpnd t d a => some (v32 false 39 t 0 a d)
  | .vztst t d a => some (v32 false 41 t 0 a d)
  | .vcmp t vx d a b cond => some (v64 t 0 vx 24 0 cond b a d)
  | .vcvt t d a b => some (v32 false 26 t b a d)
  | .vcvtW64 t sz d a src p => some (v64 t (0#18 ++ p) false 26 sz 0 (0#1 ++ src) a d)
  | .vdot t d a b => some (v32 false 35 t b a d)
  | .vperm t d a b => some (v32 false 36 t b a d)
  | .vslideVx t d a b => some (v32 true 37 t b a d)
  | .vslideI t d a amt => some (v64 t amt false 37 0 0 0 a d)
  | .viota t d => some (v32 false 40 t 0 0 d)
  | .vscl t e5 d a b => some (if e5 then v64 t 0 false 42 1 0 b a d else v32 false 42 t b a d)
  | .vsclVx t e5 d a b => some (if e5 then v64 t 0 true 42 1 0 b a d else v32 true 42 t b a d)
  | .vqnt fmt amax p d a b c => some (v64 .fp8 (0#18 ++ BitVec.ofBool amax ++ p) false 43 fmt c b a d)
  | .vmask a => some (v32 false 44 .i8 0 a 0)
  | .kand d a b => some (v32 false 45 .i8 b a d)
  | .kor d a b => some (v32 false 46 .i8 b a d)
  | .knot d a => some (v32 false 47 .i8 0 a d)
  | .kmvToMask d a => some (v32 false 48 .i8 0 a d)
  | .kmvFromMask d a => some (v32 false 48 .i8 1 a d)
  | .mfmt a => some (e64 0 0 0 0 0 0 a 0)
  | .mupld a b => some (e64 0 0 1 0 0 b a 0)
  | .mma z d a b k8 m n => some (e64 0 (0#5 ++ m ++ n) 2 (szOf z) k8 b a d)
  | .mmag z d a b k8 m n => some (e64 0 (0#5 ++ m ++ n) 3 (szOf z) k8 b a d)
  | .mrec z d a b k8 m n => some (e64 0 (0#5 ++ m ++ n) 4 (szOf z) k8 b a d)
  | .mzero d cnt => some (e64 0 (0#21 ++ cnt) 5 0 0 0 0 d)
  | .mtzero d cnt => some (e64 0 (0#20 ++ cnt) 6 0 0 0 0 d)
  | .mtmov d a cnt => some (e64 0 (0#20 ++ cnt) 7 0 0 0 a d)
  | .mztst d a fmt => some (e64 0 (0#20 ++ fmt) 8 0 0 0 a d)
  | .mtrn e d a => some (e64 0 0 9 e 0 0 a d)
  | .mrel acc d => some (e64 0 0 10 (szOf acc) 0 0 0 d)
  | .msync => some (e64 0 0 11 0 0 0 0 0)
  | .mext d a row seg => some (e64 0 (0#14 ++ seg ++ row) 12 0 0 0 a d)
  | .mins d a row seg => some (e64 0 (0#14 ++ seg ++ row) 13 0 0 0 a d)
  | .mlda f d a => some (e64 0 0 14 f 0 0 a d)
  | .msta f d a => some (e64 0 0 15 f 0 0 a d)
  | .mqnt fmt d a b c soff eoff => some (e64 0 (0#19 ++ eoff ++ soff) 16 fmt c b a d)
  | .mscl f d a => some (e64 0 0 17 f 0 0 a d)
  | .mbias f d a => some (e64 0 0 18 f 0 0 a d)
  | .mapplyRelu d => some (e64 0 0 19 0 0 0 0 d)
  | .mapplyMicro d => some (e64 0 1 19 0 0 0 0 d)
  | .mred f d a row => some (e64 0 (0#17 ++ row) 20 f 0 0 a d)
  | .integerAlu op => some (op.encode)
  | .controlTransfer op => some (op.encode)
  | .coldReset .. | .warmReset | .recoveryGo | .powerSample .. | .dutyStep | .sensorSample .. | .measExtend ..
  | .quoteRequest .. | .quoteSigned | .fuseCounterAdvance .. | .fuseBlow | .retranslationComplete
  | .auditAppend .. | .segmentSeal | .spillWriteComplete | .spillAck .. | .overflowAreaSet .. | .ownerCreate
  | .ownerDestroy | .frameSet | .tenantCreate | .tenantSet | .tenantDestroy | .ctxCreate | .portOpen
  | .portClose | .apertureMap | .objTranslate | .objUnload | .stageSet | .taskFault | .vaultSet | .launch ..
  | .launchPortDmwrOther .. | .launchPortPostedWrite .. | .argsReadComplete .. | .launchSubmit ..
  | .launchDone .. | .apertureWrite .. | .apertureRead .. | .hostLinkDown .. | .hostLinkUp ..
  | .hostCompletionTimeout .. | .hostErrorCompletion .. | .atomicopCompletion .. | .zeroLengthReadComplete ..
  | .dieLinkReplay .. | .dieLinkIdleTimeout .. | .netPortDown .. | .retransmissionLimit .. | .putArrive ..
  | .putAck .. | .getRequest .. | .getData .. | .homeRead .. | .l2MissFill .. | .homeOwn .. | .homeWrite ..
  | .homeEngineRead .. | .recallArrive .. | .recallReply .. | .ownedEviction .. | .readReply .. | .ownershipReply ..
  | .postedStoreAck .. | .vaultAccess .. | .driftTick .. | .rebaseStep .. | .rebaseFloorReceive ..
  | .rebaseComplete .. | .renewalHoldExpiry .. | .vaultWatchExpiry .. | .hostLineFetch .. | .hostSnoop ..
  | .snoopHoldExpiry .. | .hostAmoCompletion .. | .replyTimeout .. | .deadAgentDeclaration ..
  | .declarationReceive .. | .patrolPass .. | .dispatchPairing .. | .gangStart .. | .taskStart ..
  | .packageArbiterMove .. | .reservePreemption .. | .decrement .. | .withdraw .. | .rebalanceEvaluation ..
  | .parkWake .. | .parkReclaim .. | .budgetExhausted .. | .interruptTaken .. | .stopRequest ..
  | .saveComplete .. | .contextDrain .. | .resume .. | .imageLineFill .. | .pageWalkComplete ..
  | .transferSegment .. | .transferComplete .. | .portRequest .. | .streamTransferStart .. | .streamSlotFill ..
  | .streamSlotDrain .. | .matrixAccept .. | .matrixComplete .. | .repbLaneIssue .. | .scrubStart ..
  | .scrubQuadComplete .. | .messageDeliver .. | .netPortUp .. | .hostReadCompletion ..
  | .atomicopAsCompleter .. | .otherDmwr .. => none

end Sys2Proof
end

