-- ==== Sys2Proof/Machine/Numbers.lean ====
section
/-! DEFINITION. Number formats and rounding (13): exact values, the sums and products of R292, and the one rounding that
ends every operation. Flags are a number whose bits are those of rflags (R289). -/

namespace Sys2Proof

/-- The element formats, in the order of the handle format codes (R281, R397). -/
inductive Fmt | i8 | i16 | i32 | i64 | bf16 | f16 | f32 | e4m3 | e5m2 | e2m1 | int4 | e8m0
  deriving DecidableEq, Repr

def Fmt.code : Fmt → Nat
  | .i8 => 0 | .i16 => 1 | .i32 => 2 | .i64 => 3 | .bf16 => 4 | .f16 => 5 | .f32 => 6 | .e4m3 => 7 | .e5m2 => 8
  | .e2m1 => 9 | .int4 => 10 | .e8m0 => 11

/-- The format of a code; none above 11. -/
def Fmt.ofCode : Nat → Option Fmt
  | 0 => some .i8 | 1 => some .i16 | 2 => some .i32 | 3 => some .i64 | 4 => some .bf16 | 5 => some .f16
  | 6 => some .f32 | 7 => some .e4m3 | 8 => some .e5m2 | 9 => some .e2m1 | 10 => some .int4 | 11 => some .e8m0
  | _ => none

/-- Bits of an element. -/
def Fmt.bits : Fmt → Nat
  | .i8 | .e4m3 | .e5m2 | .e8m0 => 8
  | .i16 | .bf16 | .f16 => 16
  | .i32 | .f32 => 32
  | .i64 => 64
  | .e2m1 | .int4 => 4

/-- Bytes of an element: 1 for a 4-bit one, which shares its byte. -/
def Fmt.bytes (f : Fmt) : Nat := max 1 (f.bits / 8)

/-- The formats of R281 that round as floating point. -/
def Fmt.float : Fmt → Bool
  | .bf16 | .f16 | .f32 | .e4m3 | .e5m2 | .e2m1 => true
  | _ => false

def Fmt.integer : Fmt → Bool
  | .i8 | .i16 | .i32 | .i64 | .int4 => true
  | _ => false

/-- Mantissa bits. -/
def Fmt.man : Fmt → Nat
  | .f32 => 23 | .bf16 => 7 | .f16 => 10 | .e4m3 => 3 | .e5m2 => 2 | .e2m1 => 1 | _ => 0

/-- Exponent bits. -/
def Fmt.exp : Fmt → Nat
  | .f32 | .bf16 | .e8m0 => 8 | .f16 | .e5m2 => 5 | .e4m3 => 4 | .e2m1 => 2 | _ => 0

/-- Bias. -/
def Fmt.bias : Fmt → Int
  | .f32 | .bf16 | .e8m0 => 127 | .f16 | .e5m2 => 15 | .e4m3 => 7 | .e2m1 => 1 | _ => 0

/-- The largest finite value as a code (R281). -/
def Fmt.maxFinite : Fmt → Nat
  | .f32 => 0x7F7FFFFF | .bf16 => 0x7F7F | .f16 => 0x7BFF | .e4m3 => 0x7E | .e5m2 => 0x7B | .e2m1 => 7 | _ => 0

/-- The canonical NaN (R296); +0 for E2M1 and 0 for the integer formats (R297). -/
def Fmt.canonNaN : Fmt → Nat
  | .f32 => 0x7FC00000 | .bf16 => 0x7FC0 | .f16 => 0x7E00 | .e4m3 => 0x7F | .e5m2 => 0x7E | .e8m0 => 0xFF | _ => 0

/-- Where IEEE gives an infinity: the code, without its sign; for E4M3 the canonical NaN (R295). -/
def Fmt.infinity : Fmt → Nat
  | .f32 => 0x7F800000 | .bf16 => 0x7F80 | .f16 => 0x7C00 | .e4m3 => 0x7F | .e5m2 => 0x7C | .e2m1 => 7 | _ => 0

def flNX : Nat := 1
def flUF : Nat := 2
def flOF : Nat := 4
def flDZ : Nat := 8
def flNV : Nat := 16

/-- An exact value: a NaN, signalling or not; an infinity; or ± m × 2^e. -/
inductive Num
  | nan (sig : Bool)
  | inf (neg : Bool)
  | fin (neg : Bool) (m : Nat) (e : Int)
  deriving DecidableEq, Repr

def Num.isNaN : Num → Bool
  | .nan _ => true
  | _ => false

def Num.signalling : Num → Bool
  | .nan s => s
  | _ => false

def Num.isZero : Num → Bool
  | .fin _ m _ => m == 0
  | _ => false

def Num.negative : Num → Bool
  | .nan _ => false
  | .inf n => n
  | .fin n _ _ => n

/-- An exact integer. -/
def Num.ofInt (v : Int) : Num := .fin (decide (v < 0)) v.natAbs 0

/-- The value of a code (R281, R282). An E8M0 code of 0xFF is a NaN that raises NV wherever it is used (R296). -/
def Fmt.unpack (f : Fmt) (code : Nat) : Num :=
  let w := f.bits
  let c := code % 2 ^ w
  if f.integer then .ofInt (natToInt w c)
  else if f = .e8m0 then (if c = 0xFF then .nan true else .fin false 1 ((c : Int) - 127))
  else
    let neg := c / 2 ^ (w - 1) == 1
    let ef := natBits c f.man f.exp
    let mf := natBits c 0 f.man
    if f = .e4m3 && c % 128 = 127 then .nan false
    else if f ≠ .e4m3 && f ≠ .e2m1 && ef = 2 ^ f.exp - 1 then
      if mf = 0 then .inf neg else .nan (mf / 2 ^ (f.man - 1) == 0)
    else if ef = 0 then .fin neg mf (1 - f.bias - f.man)
    else .fin neg (mf + 2 ^ f.man) (ef - f.bias - f.man)

/-! ## Exact operations (R292, R296); an exact zero takes the sign of IEEE 754-2019, 6.3 -/

/-- The rounding in force: RM, SAT and the 32 bits of SRD (R288, R294). -/
structure Rounding where
  rm : Nat
  sat : Bool
  bits : Nat := 0
  deriving DecidableEq, Repr

/-- NV when an operand is a signalling NaN. -/
def nvIf (b : Bool) : Nat := if b then flNV else 0

def Num.neg : Num → Num
  | .nan s => .nan s
  | .inf n => .inf (!n)
  | .fin n m e => .fin (!n) m e

/-- The value as a signed integer multiple of 2^q, for q not above its exponent. -/
def scaled (neg : Bool) (m : Nat) (e q : Int) : Int :=
  let v : Int := m * 2 ^ (e - q).toNat
  if neg then -v else v

/-- The exact sum under a rounding mode, which decides the sign of an exact zero; and NV. -/
def Num.add (rm : Nat) : Num → Num → Num × Nat
  | .nan s, .nan t => (.nan false, nvIf (s || t))
  | .nan s, _ => (.nan false, nvIf s)
  | _, .nan t => (.nan false, nvIf t)
  | .inf a, .inf b => if a = b then (.inf a, 0) else (.nan false, flNV)
  | .inf a, _ => (.inf a, 0)
  | _, .inf b => (.inf b, 0)
  | .fin a m e, .fin b n f =>
    if m = 0 && n = 0 then (.fin (if a = b then a else rm == 2) 0 0, 0)
    else if m = 0 then (.fin b n f, 0)
    else if n = 0 then (.fin a m e, 0)
    else
      let q := min e f
      let t := scaled a m e q + scaled b n f q
      if t = 0 then (.fin (rm == 2) 0 0, 0) else (.fin (decide (t < 0)) t.natAbs q, 0)

/-- The exact product and NV. -/
def Num.mul : Num → Num → Num × Nat
  | .nan s, .nan t => (.nan false, nvIf (s || t))
  | .nan s, _ => (.nan false, nvIf s)
  | _, .nan t => (.nan false, nvIf t)
  | .inf a, .inf b => (.inf (a != b), 0)
  | .inf a, .fin b m _ => if m = 0 then (.nan false, flNV) else (.inf (a != b), 0)
  | .fin a m _, .inf b => if m = 0 then (.nan false, flNV) else (.inf (a != b), 0)
  | .fin a m e, .fin b n f => (.fin (a != b) (m * n) (e + f), 0)

/-- a × b + c, exactly (R292); 0 × ∞ raises NV whatever c is (R436). -/
def Num.fma (rm : Nat) (a b c : Num) : Num × Nat :=
  let (p, f) := a.mul b
  let (r, g) := p.add rm c
  (r, f ||| g)

/-- −1, 0 or 1, or none when unordered; −0 equals +0. -/
def Num.cmp : Num → Num → Option Int
  | .nan _, _ => none
  | _, .nan _ => none
  | .inf a, .inf b => some (if a = b then 0 else if a then -1 else 1)
  | .inf a, _ => some (if a then -1 else 1)
  | _, .inf b => some (if b then 1 else -1)
  | .fin a m e, .fin b n f =>
    let q := min e f
    let x := scaled a m e q
    let y := scaled b n f q
    some (if x < y then -1 else if x = y then 0 else 1)

/-! ## Rounding (R292 to R295) -/

/-- Does the magnitude with remainder `rem` of 2^k round up, away from zero (R293, R294)? -/
def roundsUp (r : Rounding) (neg odd : Bool) (rem k : Nat) : Bool :=
  match r.rm with
  | 0 => decide (2 ^ k < 2 * rem) || (decide (2 * rem = 2 ^ k) && odd)
  | 1 => false
  | 2 => neg
  | 3 => !neg
  | 4 => decide (2 ^ k ≤ 2 * rem)
  | _ => decide (r.bits < min (2 ^ 32) (2 ^ 32 * rem / 2 ^ k))

/-- m × 2^e rounded to a multiple of 2^q: the multiple, and whether it is inexact. -/
def roundTo (r : Rounding) (neg : Bool) (m : Nat) (e q : Int) : Nat × Bool :=
  if q ≤ e then (m * 2 ^ (e - q).toNat, false)
  else
    let k := (q - e).toNat
    let n := m / 2 ^ k
    let rem := m % 2 ^ k
    if rem = 0 then (n, false) else (n + (if roundsUp r neg (n % 2 == 1) rem k then 1 else 0), true)

/-- Round to an integer format: saturation raises NV (R295, R298). -/
def Fmt.packInt (f : Fmt) (r : Rounding) : Num → Nat × Nat
  | .nan _ => (0, flNV)
  | .inf neg => (intToNat f.bits (if neg then -(2 ^ (f.bits - 1)) else 2 ^ (f.bits - 1) - 1), flNV)
  | .fin neg m e =>
    let (n, inx) := roundTo r neg m e 0
    let v : Int := if neg then -(n : Int) else n
    let lo : Int := -(2 ^ (f.bits - 1))
    let hi : Int := 2 ^ (f.bits - 1) - 1
    if v < lo then (intToNat f.bits lo, flNV)
    else if hi < v then (intToNat f.bits hi, flNV)
    else (intToNat f.bits v, if inx then flNX else 0)

/-- Overflow (R295). -/
def Fmt.overflow (f : Fmt) (r : Rounding) (neg : Bool) : Nat × Nat :=
  let top := if neg then 2 ^ (f.bits - 1) else 0
  let big := top + f.maxFinite
  let huge := if f = .e4m3 then f.infinity else top + f.infinity
  let c :=
    if f = .e2m1 || r.sat then big
    else
      match r.rm with
      | 1 => big
      | 2 => if neg then huge else big
      | 3 => if neg then big else huge
      | _ => huge
  (c, flOF ||| flNX)

/-- floor(log2 m) + e of a non-zero magnitude. -/
def topExp (m : Nat) (e : Int) : Int := (Nat.log2 m : Int) + e

/-- Round a finite non-zero value to a floating format. -/
def Fmt.packFin (f : Fmt) (r : Rounding) (neg : Bool) (m : Nat) (e : Int) : Nat × Nat :=
  let emin : Int := 1 - f.bias
  let big := topExp m e
  let q := max big emin - f.man
  let (n, inx) := roundTo r neg m e q
  -- a carry out of the mantissa moves to the next exponent, where the multiple is a power of two
  let (n, q) := if 2 ^ (f.man + 1) ≤ n then (n / 2, q + 1) else (n, q)
  let code := if n < 2 ^ f.man then n else ((q + f.man + f.bias).toNat) * 2 ^ f.man + (n - 2 ^ f.man)
  if f.maxFinite < code then f.overflow r neg
  else
    let tiny :=
      inx && decide (big < emin) &&
        (let (n2, _) := roundTo r neg m e (big - f.man)
         !(decide (2 ^ (f.man + 1) ≤ n2) && decide (emin ≤ big + 1)))
    ((if neg then 2 ^ (f.bits - 1) else 0) + code,
      (if inx then flNX else 0) ||| (if tiny then flUF else 0))

/-- round(x, fmt): the code and the flags (R292 to R298). -/
def Fmt.pack (f : Fmt) (r : Rounding) (v : Num) : Nat × Nat :=
  if f.integer then f.packInt r v
  else
    match v with
    | .nan s => (f.canonNaN, nvIf (s || f = .e2m1))
    | .inf neg =>
      let top := if neg then 2 ^ (f.bits - 1) else 0
      if f = .e4m3 then (if r.sat then (top + 0x7E, 0) else (0x7F, flNV))
      else if f = .e2m1 then (top + 7, flNV)
      else (top + f.infinity, 0)
    | .fin neg m e => if m = 0 then (if neg then 2 ^ (f.bits - 1) else 0, 0) else f.packFin r neg m e

/-- srd_bits (R294). -/
def srdBits (seed tid e : Word) : Nat :=
  let z := seed ^^^ (tid * 0x9E3779B97F4A7C15) ^^^ (e * 0xD1B54A32D192ED03)
  let z := (z ^^^ (z >>> 30)) * 0xBF58476D1CE4E5B9
  let z := (z ^^^ (z >>> 27)) * 0x94D049BB133111EB
  let z := z ^^^ (z >>> 31)
  (z >>> 32).toNat

/-- How a rounding is sampled: rmode, srseed and the task's identity (R193, R294). -/
structure Sampled where
  rmode : Word := 0
  seed : Word := 0
  tid : Word := 0
  deriving DecidableEq, Repr

/-- The rounding of the element with index `e`. -/
def Sampled.at_ (m : Sampled) (e : Nat) : Rounding :=
  { rm := (fld m.rmode 0 3).toNat, sat := m.rmode.getLsbD 3,
    bits := if fld m.rmode 0 3 = 5 then srdBits m.seed m.tid (BitVec.ofNat 64 e) else 0 }

/-- srseed after an instruction or request that rounds (R294, R483). -/
def Sampled.nextSeed (m : Sampled) : Word :=
  if fld m.rmode 0 3 = 5 then m.seed + 0x9E3779B97F4A7C15 else m.seed

/-! ## Scales and pad values (R305, R400) -/

/-- emax of R305. -/
def Fmt.emax : Fmt → Int
  | .e4m3 => 8 | .e5m2 => 15 | _ => 2

/-- The scale code for a block whose maximum magnitude is `amax`, and NV (R305). -/
def scaleCode (f : Fmt) : Num → Nat × Nat
  | .nan _ => (0xFF, flNV)
  | .inf _ => (0xFF, flNV)
  | .fin _ m e =>
    if m = 0 then (0, 0) else ((127 + max (-127) (min (topExp m e - f.emax) 127)).toNat, 0)

/-- An element quantised under a scale code (R305): the code and flags. -/
def quantise (f : Fmt) (r : Rounding) (scale : Nat) (v : Num) : Nat × Nat :=
  if scale = 0xFF then (0, 0)
  else
    match v with
    | .fin n m e => f.pack { r with sat := true } (.fin n m (e - ((scale : Int) - 127)))
    | v => f.pack { r with sat := true } v

/-- The fill value of PAD in a format (R400); no flag is raised. -/
def padCode (pad : Nat) (f : Fmt) : Nat :=
  if f = .e8m0 then
    match pad with
    | 0 => 0x00 | 1 => 0x7F | 2 => 0x00 | 3 => 0xFE | _ => 0xFF
  else
    let v : Num :=
      match pad with
      | 0 => .fin false 0 0 | 1 => .fin false 1 0 | 2 => .inf true | 3 => .inf false | _ => .nan false
    (f.pack { rm := 0, sat := true } v).1

/-- Element `i` of packed elements of `w` bits (R284). -/
def elemAt (v w i : Nat) : Nat := natBits v (w * i) w

end Sys2Proof
end

