-- ==== Sys2Proof/Config.lean ====
section
/-! DEFINITION. What an implementation fixes and the free values: constants with no body, so that nothing can be proved of
what they are (guide, "What the manual leaves undefined"), and the plain constants of the part. -/

namespace Sys2Proof.Config

/-- The free value number `n`: a value the manual leaves open after an instruction that completes (log 7). -/
opaque freeWord : Nat → Word

/-- A byte of a line whose HBM frame was given another owner key after the line was last written: it "decrypts to data
that carries no information about the earlier owner" (R55). The first argument numbers the frame's change of key. -/
opaque cipherByte : Nat → Nat → Byte

/-- The SLH-DSA-SHA2-192s signature, of 16,224 bytes, by the device attestation key of this boot over a message (R52, R59; log 9): the
key never leaves the RTU. -/
opaque slhSign : List Byte → BitVec 129792

/-- The device identity: the SHA-256 hash of the attestation public key (03, opening; log 9). -/
opaque deviceIdentity : BitVec 256

/-- The ROM version, 4 bytes (R47; log 9). -/
opaque romVersion : BitVec 32

/-- The value of a DRBG draw for an owner key (R53): keys never leave the RTU, only their identity matters. -/
opaque keyMaterial : Nat → BitVec 512

/-- The line of HBM at which the send-queue table of an Ultra Ethernet port begins: "in pinned HBM" (R37), the manual does
not say where. -/
opaque sqTable : Nat → Nat

/-- Whether a zeroing write of a scrub fails on a quad, and in which bank (R65): the first argument numbers the scrub's quad. -/
opaque scrubFails : Nat → Nat → Option Nat

/-- The native code of a record that touches a spilled scalar or mask, or a value of a file without a register to give: the manual
shows no spill of such a value (R101, R481; log 96). By object hash, translation SVN and virtual index: the first instruction
and the others, each with its length (true for 8 bytes) and its encoding. -/
opaque spillCode : Nat → Nat → Nat → (Bool × BitVec 64) × List (Bool × BitVec 64)

/-- The stack slot of such a value (R101; log 96): by object hash, translation SVN, register file and number of the value. -/
opaque spillSlot : Nat → Nat → Nat → Nat → Nat

/-- The line that holds a spilled scalar or mask, and the word that such a line holds (R101; log 96). -/
opaque spilledLine : BitVec 64 → BitVec 512
opaque spilledWord : BitVec 512 → BitVec 64

/-- What a patrol pass over a stack finds (R230): the physical addresses of the lines with an uncorrectable error, and the
number of errors it corrects. The first argument numbers the pass. -/
opaque patrolErrors : Nat → Nat → List Nat × Nat

/-- Base of host addresses in the physical map (R208). -/
abbrev hostBase : Nat := 0x0080000000000000
/-- Bytes of HBM on one die (R208). -/
abbrev dieBytes : Nat := 0x001800000000
/-- Bytes of HBM in the package (R208). -/
abbrev hbmBytes : Nat := 0x006000000000
/-- Where firmware places the 1 GiB code heap in HBM (R104): the model's choice (log 110). -/
abbrev heapBase : Nat := 0x005FC0000000
/-- Where the model keeps the vaults in its one memory: vaults have no physical address (R208). -/
abbrev vaultBase : Nat := 0x0100000000000000
/-- Where the model keeps resident tile and accumulator registers in its one memory (R171). -/
abbrev tileBase : Nat := 0x0200000000000000
/-- Bytes of a vault (R206). -/
abbrev vaultBytes : Nat := 0x600000
/-- Bytes of a context image (R90). -/
abbrev imageBytes : Nat := 1101824

end Sys2Proof.Config
end

