-- ==== Sys2Proof/Machine/Sha.lean ====
section
/-! DEFINITION. SHA256 and slh_verify, two helpers that R335 names and gives no text of, as the standards that it names give them:
FIPS 180-4 (SHA-256, and the SHA-512 that the signature scheme uses) and FIPS 205 (SLH-DSA-SHA2-192s, pure, with an empty context;
log 9). Byte strings are lists of bytes. -/

namespace Sys2Proof.Sha

/-! ## Constants: fractional parts of roots of the first primes -/

/-- Is a number below 441 prime? -/
def prime (n : Nat) : Bool := decide (2 ≤ n) && (List.range 19).all (fun d => decide (n < (d + 2) * (d + 2)) || n % (d + 2) != 0)

/-- The first 80 primes. -/
def primes : List Nat := (List.range 410).filter prime

/-- The largest r, of at most `b` bits above the bits of `r`, with r ^ e at most n. -/
def root (e n : Nat) : Nat → Nat → Nat
  | 0, r => r
  | b + 1, r => root e n b (if (r + 2 ^ b) ^ e ≤ n then r + 2 ^ b else r)

/-- The first 64 bits of the fractional part of the e-th root of p. -/
def frac (e p : Nat) : Nat := root e (p * 2 ^ (64 * e)) 69 0 % 2 ^ 64

/-! ## The two hashes -/

/-- What tells SHA-256 and SHA-512 apart: rotations of the two compressing and the two expanding functions (the third of an expanding
one is a shift), the number of rounds. -/
structure Variant where
  sum0 : Nat × Nat × Nat
  sum1 : Nat × Nat × Nat
  mix0 : Nat × Nat × Nat
  mix1 : Nat × Nat × Nat
  rounds : Nat

def v256 : Variant := { sum0 := (2, 13, 22), sum1 := (6, 11, 25), mix0 := (7, 18, 3), mix1 := (17, 19, 10), rounds := 64 }
def v512 : Variant := { sum0 := (28, 34, 39), sum1 := (14, 18, 41), mix0 := (1, 8, 7), mix1 := (19, 61, 6), rounds := 80 }

section
variable {w : Nat}

/-- A constant of the words' width: the high bits of the 64. -/
def const (w e p : Nat) : BitVec w := BitVec.ofNat w (frac e p / 2 ^ (64 - w))

def sumOf (r : Nat × Nat × Nat) (x : BitVec w) : BitVec w :=
  x.rotateRight r.1 ^^^ (x.rotateRight r.2.1 ^^^ x.rotateRight r.2.2)

def mixOf (r : Nat × Nat × Nat) (x : BitVec w) : BitVec w := x.rotateRight r.1 ^^^ (x.rotateRight r.2.1 ^^^ (x >>> r.2.2))

/-- Bitwise choice and majority. -/
def choose (x y z : BitVec w) : BitVec w := z ^^^ (x &&& (y ^^^ z))
def major (x y z : BitVec w) : BitVec w := (x &&& y) ||| (z &&& (x ||| y))

/-- One round on the eight working variables, listed from a to h; `c` is the round's constant plus its schedule word. -/
def turn (v : Variant) (c : BitVec w) (s : List (BitVec w)) : List (BitVec w) :=
  match s with
  | [x0, x1, x2, x3, x4, x5, x6, x7] =>
    let t := x7 + sumOf v.sum1 x4 + choose x4 x5 x6 + c
    [t + sumOf v.sum0 x0 + major x0 x1 x2, x0, x1, x2, x3 + t, x4, x5, x6]
  | _ => s

/-- The rounds, with the sixteen schedule words that the next ones need. -/
def turns (v : Variant) : List (BitVec w) → List (BitVec w) → List (BitVec w) → List (BitVec w)
  | [], _, s => s
  | c :: cs, win, s =>
    let next := mixOf v.mix1 (win.getD 14 0) + win.getD 9 0 + (mixOf v.mix0 (win.getD 1 0) + win.headD 0)
    turns v cs (win.tail ++ [next]) (turn v (c + win.headD 0) s)

/-- The number that bytes, highest first, spell. -/
def beNat (bs : List Byte) : Nat := bs.foldl (fun n b => 256 * n + b.toNat) 0

/-- A string in words of `n` bytes, highest byte first. -/
def wordsOf (n : Nat) : Nat → List Byte → List (BitVec w)
  | 0, _ => []
  | k + 1, bs => BitVec.ofNat w (beNat (bs.take n)) :: wordsOf n k (bs.drop n)

/-- `k` blocks of a padded message. -/
def absorb (v : Variant) (cs : List (BitVec w)) : Nat → List Byte → List (BitVec w) → List (BitVec w)
  | 0, _, s => s
  | k + 1, bs, s => absorb v cs k (bs.drop (2 * w)) (s.zipWith (· + ·) (turns v cs (wordsOf (w / 8) 16 bs) s))

/-- The bytes of a number, highest first. -/
def beBytes (n v : Nat) : List Byte := (bytesOf n v).reverse

/-- The hash of a string: words of `w` bits, blocks of 2w bytes, a length field of w/4 bytes. -/
def hash (w : Nat) (v : Variant) (m : List Byte) : List Byte :=
  let size := 2 * w
  let fill := (2 * size - 1 - w / 4 - m.length % size) % size
  let padded := m ++ 0x80 :: (List.replicate fill 0 ++ beBytes (w / 4) (8 * m.length))
  let cs : List (BitVec w) := (primes.take v.rounds).map (const w 3)
  (absorb v cs (padded.length / size) padded ((primes.take 8).map (const w 2))).flatMap (fun x => beBytes (w / 8) x.toNat)

end

/-- SHA-512 as a string of 64 bytes. -/
def sha512 (m : List Byte) : List Byte := hash 64 v512 m

/-- SHA-256 of a byte string; byte 0 of the digest in the lowest bits. -/
def sha256 (m : List Byte) : BitVec 256 := BitVec.ofNat 256 (ofBytes (hash 32 v256 m))

/-! ## SLH-DSA-SHA2-192s (FIPS 205): n = 24, seven layers of height 9, 17 FORS trees of height 14, Winternitz parameter 16 -/

/-- An address, as far as the compressed form of 22 bytes shows it. -/
structure Adrs where
  layer : Nat := 0
  tree : Nat := 0
  kind : Nat := 0
  pair : Nat := 0
  mid : Nat := 0
  low : Nat := 0

def Adrs.bytes (a : Adrs) : List Byte :=
  beBytes 1 a.layer ++ beBytes 8 a.tree ++ beBytes 1 a.kind ++ beBytes 4 a.pair ++ beBytes 4 a.mid ++ beBytes 4 a.low

/-- The function F, and the functions H and T, under a public seed. -/
def fHash (seed : List Byte) (a : Adrs) (m : List Byte) : List Byte :=
  (hash 32 v256 (seed ++ List.replicate 40 0 ++ a.bytes ++ m)).take 24
def tHash (seed : List Byte) (a : Adrs) (m : List Byte) : List Byte :=
  (sha512 (seed ++ List.replicate 104 0 ++ a.bytes ++ m)).take 24

/-- Piece `i` of `n` bytes. -/
def piece (bs : List Byte) (n i : Nat) : List Byte := (bs.drop (n * i)).take n

/-- Digit `i` of `b` bits of a string, highest first. -/
def digit (bs : List Byte) (b i : Nat) : Nat := natBits (beNat bs) (8 * bs.length - b * (i + 1)) b

/-- Up an authentication path from a node at index `idx` of its tree; `off` is the index of the tree's first leaf. -/
def climb (seed : List Byte) (a : Adrs) (auth : List Byte) (idx off : Nat) : Nat → List Byte → List Byte
  | 0, node => node
  | k + 1, node =>
    let below := climb seed a auth idx off k node
    let sib := piece auth 24 k
    let a := { a with mid := k + 1, low := (off + idx) / 2 ^ (k + 1) }
    tHash seed a (if idx / 2 ^ k % 2 = 0 then below ++ sib else sib ++ below)

/-- The rest of a hash chain, from step `i`. -/
def chain (seed : List Byte) (a : Adrs) : Nat → Nat → List Byte → List Byte
  | _, 0, x => x
  | i, n + 1, x => chain seed a (i + 1) n (fHash seed { a with low := i } x)

/-- The public key of a one-time signature. -/
def wotsKey (seed : List Byte) (a : Adrs) (sig m : List Byte) : List Byte :=
  let ds := (List.range 48).map (digit m 4)
  let sum := (ds.map (15 - ·)).sum
  let ds := ds ++ [sum / 256 % 16, sum / 16 % 16, sum % 16]
  let ends := (List.range 51).flatMap (fun i =>
    chain seed { a with kind := 0, mid := i } (ds.getD i 0) (15 - ds.getD i 0) (piece sig 24 i))
  tHash seed { a with kind := 1, mid := 0, low := 0 } ends

/-- The root of one tree of the hypertree. -/
def xmssRoot (seed : List Byte) (layer tree leaf : Nat) (sig m : List Byte) : List Byte :=
  let a : Adrs := { layer := layer, tree := tree }
  let key := wotsKey seed { a with pair := leaf } (sig.take 1224) m
  climb seed { a with kind := 2 } (sig.drop 1224) leaf 0 9 key

/-- The root of the hypertree, from `layer` up. -/
def hyperRoot (seed : List Byte) : Nat → Nat → Nat → Nat → List Byte → List Byte → List Byte
  | 0, _, _, _, _, m => m
  | k + 1, layer, tree, leaf, sig, m =>
    hyperRoot seed k (layer + 1) (tree / 512) (tree % 512) (sig.drop 1440) (xmssRoot seed layer tree leaf (sig.take 1440) m)

/-- The public key of a FORS signature. -/
def forsKey (seed : List Byte) (a : Adrs) (sig md : List Byte) : List Byte :=
  let roots := (List.range 17).flatMap (fun i =>
    let s := piece sig 360 i
    let idx := digit md 14 i
    let off := 16384 * i
    climb seed a (s.drop 24) idx off 14 (fHash seed { a with low := off + idx } (s.take 24)))
  tHash seed { a with kind := 4 } roots

/-- The message digest of 39 bytes. -/
def msgDigest (r pk m : List Byte) : List Byte :=
  let head := r ++ pk.take 24
  (sha512 (head ++ sha512 (r ++ pk ++ m) ++ beBytes 4 0)).take 39

/-- slh_verify: does the signature of 16,224 bytes sign the message under the public key of 48 bytes? -/
def slhVerify (pk m sig : List Byte) : Bool :=
  let m := 0 :: 0 :: m
  let seed := pk.take 24
  let dg := msgDigest (sig.take 24) pk m
  let tree := beNat (piece (dg.drop 30) 7 0) % 2 ^ 54
  let leaf := beNat (dg.drop 37) % 2 ^ 9
  let a : Adrs := { tree := tree, kind := 3, pair := leaf }
  let fors := forsKey seed a ((sig.drop 24).take 6120) (dg.take 30)
  sig.length == 16224 && pk.length == 48 && hyperRoot seed 7 0 tree leaf (sig.drop 6144) fors == pk.drop 24

end Sys2Proof.Sha
end

