-- ==== Sys2Proof/Machine/State.lean ====
section
/-! DEFINITION. The state of the module as plain data: every piece of state the manual gives the machine, the reasons a
step can stop, and the state after reset (INVENTORY.md, "State", names the rule of each field).

Logical times (pts, wts, rts, vclk, hclk, mts, the base B) are natural numbers: they only ever rise, and are read as 64
bits where software reads them (log 6). Sparse collections are sorted lists of (key, value) pairs (Machine/Store.lean). -/

namespace Sys2Proof.Machine

/-- Privilege modes (R159). -/
inductive Mode | u | s | m
  deriving DecidableEq, Repr

/-- The two grades (R1). -/
inductive Grade | ubk2560 | ubk2304
  deriving DecidableEq, Repr

/-! ## Registers of a hart -/

/-- A region value (R369): dimension count, boxes in order (each a list of (lo, hi), outermost dimension first),
lattice entries (s, p) and the two flags. -/
structure Region where
  d : Nat := 1
  boxes : List (List (Int × Int)) := []
  lat : List (Nat × Nat) := [(0, 0)]
  inexact : Bool := false
  ovf : Bool := false
  deriving DecidableEq, Repr

/-- A barrier binding (R346). -/
structure BBind where
  bound : Bool := false
  arrived : Bool := false
  fseen : Bool := false
  quad : Nat := 0
  unit : Nat := 0
  phase : Nat := 0
  deriving DecidableEq, Repr

/-- A ring binding (R418); `own` says that the ring was bound through the own-vault alias (log 21). -/
structure QBind where
  bound : Bool := false
  role : Nat := 0
  quad : Nat := 0
  unit : Nat := 0
  config : W32 := 0
  own : Bool := false
  deriving DecidableEq, Repr

/-- The privileged CSRs of RISC-V that R159 and R310 name. -/
structure PrivCsrs where
  mstatus : Word := 0x0000000a00000000
  medeleg : Word := 0x00030000ff000000
  mideleg : Word := 0x0000000000070000
  mie : Word := 0
  mip : Word := 0
  mtvec : Word := 0
  mscratch : Word := 0
  mepc : Word := 0
  mcause : Word := 0
  mtval : Word := 0
  stvec : Word := 0
  sscratch : Word := 0
  sepc : Word := 0
  scause : Word := 0
  stval : Word := 0
  satp : Word := 0
  mcounteren : Word := 7
  scounteren : Word := 7
  deriving DecidableEq, Repr

/-- The device's own CSRs that are not derived from other state (R325). -/
structure DevCsrs where
  rmode : Word := 0
  rflags : Word := 0
  lease : Word := 16
  vactm : Word := 0
  repidx : Word := 0
  gstat : Word := 0
  srseed : Word := 0
  trcfg : Word := 0
  trix : Word := 0
  drift : Word := 1024
  remain : W32 := 0
  zero : Bool := false
  dmrSize : Nat := 1
  dmrRank : Nat := 0
  dmrLevel : Nat := 0
  deriving DecidableEq, Repr

/-- An x register in its role as a token (R168, R172, R403): `pending` from issue to completion, `unjoined` from
completion to the join; `status` is what the transfer ended with. -/
structure Token where
  pending : Bool := false
  unjoined : Bool := false
  fpend : Bool := false
  status : Nat := 0
  time : Nat := 0
  transfer : Nat := 0
  deriving DecidableEq, Repr

/-! ## Memory system -/

/-- The kinds of place an access can go to (R256, R272). -/
inductive PlaceKind | hbm | hostC | hostNC | vault
  deriving DecidableEq, Repr

/-- Where an access goes: `addr` is the byte address in the model's one memory; `home` is the agent number of the home
(hart number of the slice, 0x3000 + port for a host-line proxy), the host port, or the global quad of the vault. -/
structure Place where
  kind : PlaceKind
  addr : Nat
  home : Nat
  deriving DecidableEq, Repr

/-- A store-buffer entry: bytes of one 64-byte line under a byte mask (R192, R262, R433). -/
structure SbEntry where
  place : Place
  mask : BitVec 64
  data : Line
  asid : Nat
  deriving DecidableEq, Repr

/-- States of an L1 data line (R234). -/
inductive L1State | shared | owned | pending
  deriving DecidableEq, Repr

/-- An L1 data line (R234); `unacked` counts the hart's unacknowledged stores to it (R240). -/
structure L1Line where
  st : L1State
  kind : PlaceKind
  wts : Nat
  rts : Nat
  data : Line
  dirty : Bool := false
  poison : Bool := false
  asid : Nat := 0
  unacked : Nat := 0
  deriving DecidableEq, Repr

/-- What a hart waits for outside itself: the reply to a load miss or renewal, an ownership grant, an access performed
elsewhere (a remote AMO, a host access), or a page-table walk; and for LWAIT the answer to a watch or to a marked
renewal. -/
inductive WaitKind | line | own | remote | walk | watch | renew
  deriving DecidableEq, Repr

/-- A read-modify-write of `size` bytes at an address of the one memory. -/
structure AmoReq where
  addr : Nat
  size : Nat
  op : AmoOp
  val : Nat
  cmp : Nat
  deriving DecidableEq, Repr

/-- An access of the hart that has left it. When `done`, a remote access holds its result. `amo` is the AMO that waits in the
store buffer for the ownership of its line (R238, R262); `answered` then says that a recall made it perform, with the result
in `val` and `fault` (R239). -/
structure Pend where
  kind : WaitKind
  key : Nat
  done : Bool := false
  val : Nat := 0
  time : Option Nat := none
  fault : Option Nat := none
  answered : Bool := false
  amo : Option AmoReq := none
  deriving DecidableEq, Repr

/-- A reservation set by LR: on an L1 line (by key) or on a vault unit (by address in the one memory). -/
structure Resv where
  vault : Bool
  key : Nat
  deriving DecidableEq, Repr

/-- A translation held by a hart TLB or a quad TLB (R226): the leaf, and for a page of the HBM data window the homing entry that
its HINDEX selects (R88, R214; log 11). -/
structure TlbEntry where
  asid : Nat
  vpn : Nat
  level : Nat
  pte : Word
  homing : Nat := 0
  deriving DecidableEq, Repr

/-- A page-table entry held by the walker cache of a die (R226): `vpn` is the part of the address that its level has consumed. -/
structure WalkEntry where
  asid : Nat
  vpn : Nat
  level : Nat
  pte : Word
  deriving DecidableEq, Repr

/-- A granule of a home (R235): `lg` is log2 of its size. -/
structure Granule where
  base : Nat
  lg : Nat
  wts : Nat
  rts : Nat
  deriving DecidableEq, Repr

/-- A line a home holds (R235, R249): its owner with the owner's incarnation, the ASID that brought it in, and whether it has
been written since (R206). Its data stands in the one memory (log 13). For a host line, `hostOwned` says that the proxy's
copy is an owned one, and `snoop` that the host has asked for the line: `some true` when it takes the copy away. -/
structure HomeLine where
  owner : Option (Nat × Nat) := none
  asid : Nat := 0
  dirty : Bool := false
  hostOwned : Bool := false
  snoop : Option Bool := none
  deriving DecidableEq, Repr

/-- A marked renewal held by a slice (R247). -/
structure Held where
  hart : Nat
  inc : Nat
  line : Nat
  pts : Nat
  w : Nat
  lease : Nat
  asid : Nat
  deriving DecidableEq, Repr

/-- An L2 slice or a host-line proxy (R235, R243, R249). -/
structure Home where
  lines : List (Nat × HomeLine) := []
  granules : List Granule := []
  hclk : Nat := 0
  mts : Nat := 0
  floor : Nat := 0
  held : List Held := []
  deriving DecidableEq, Repr

/-- A message between a hart and a home, or inside a home (R235 to R241). Lines are named by their byte address in the
one memory. `src` is the agent identifier and `inc` its incarnation (R251). A read's `mark` is 1 for LWAIT's marked
renewal and 2 for one that the home has held and now answers (R247). -/
inductive Msg
  | read (src inc home line pts : Nat) (w : Option Nat) (lease : Nat) (mark : Nat) (asid : Nat)
  | own (src inc home line pts : Nat) (w : Option Nat) (asid : Nat)
  | write (src inc home line : Nat) (mask : BitVec 64) (data : Line) (t0 : Nat) (asid : Nat)
  | amo (src inc home addr size : Nat) (op : AmoOp) (val cmp : Nat) (t0 : Nat) (asid : Nat)
  | lrRead (src inc home addr size : Nat) (t0 : Nat) (asid : Nat)
  | fill (src home line : Nat) (asid : Nat)
  | hostFetch (home line : Nat) (owned : Bool)
  | recallMsg (home line owner inc : Nat)
  | recallReply (src inc home line wts rts : Nat) (data : Option Line) (poison : Bool)
  | evict (src inc home line wts rts : Nat) (data : Option Line) (poison : Bool)
  | readReply (dst home line wts rts : Nat) (data : Option Line) (poison : Bool) (kind : PlaceKind) (marked : Bool)
      (asid : Nat)
  | ownReply (dst home line wts rts : Nat) (data : Option Line) (poison : Bool) (kind : PlaceKind) (asid : Nat)
  | ack (dst home line t : Nat) (data : Line) (poison : Bool)
  | vaultWrite (src inc addr : Nat) (mask : BitVec 64) (data : Line) (t0 : Nat)
  | vaultAck (dst addr t : Nat)
  deriving DecidableEq, Repr

/-- A watch on a vault unit (R247). -/
structure Watch where
  unit : Nat
  hart : Nat
  deriving DecidableEq, Repr

/-- What a vault block is granted as (R211). -/
inductive BlockKind
  | free
  | data
  | stack (slot : Nat)
  deriving DecidableEq, Repr

structure Block where
  asid : Nat := 0
  kind : BlockKind := .free
  deriving DecidableEq, Repr

/-- A page-table walk in progress (R227); `acc` is the page-fault code of the access it serves. -/
structure Walk where
  id : Nat
  hart : Nat
  transfer : Option Nat
  asid : Nat
  va : Nat
  acc : Nat
  deriving DecidableEq, Repr

/-! ## Synchronisation, trace, traps -/

/-- A mailbox message (R354). -/
structure Mail where
  hdr : Word
  p0 : Word
  p1 : Word
  time : Word
  deriving DecidableEq, Repr

/-- A transfer-fault record (R170). -/
structure TfRec where
  cause : Nat
  asid : Nat
  hart : Nat
  hslot : Nat
  copy : Nat
  tkind : Nat
  treg : Nat
  va : Nat
  transfer : Nat
  deriving DecidableEq, Repr

/-- A trace entry, four words (R185). -/
structure TraceEntry where
  w0 : Word
  w1 : Word
  w2 : Word
  w3 : Word
  deriving DecidableEq, Repr

structure Trace where
  entries : List TraceEntry := []
  seq : W32 := 0
  lost : Bool := false
  postLeft : Option Nat := none
  asid : Nat := 0
  lastCycle : Option Nat := none
  deriving DecidableEq, Repr

/-- The repetition lane of a hart slot (R200 to R202), with the x, v, k, and tile and accumulator registers that any
iteration of its block writes; `last` is the cycle in which it issued last. -/
structure Lane where
  active : Bool := false
  block : List Instr := []
  words : List Word := []
  rs : Nat := 0
  ring : Nat := 2
  iter : Nat := 0
  idx : Nat := 0
  rmode : Word := 0
  vactm : Word := 0
  wx : List Nat := []
  wv : List Nat := []
  wk : List Nat := []
  wt : List Nat := []
  last : Option Nat := none
  deriving DecidableEq, Repr

/-- The windows and the exclusion list of the running task (R127, R149). An entry of `none` covers no byte. -/
structure Windows where
  rd : Option (List (Option Region)) := none
  wr : Option (List (Option Region)) := none
  excl : List (Nat × Region) := []
  exclPtrs : List (Nat × BitVec 8) := []
  deriving DecidableEq, Repr

/-- What a hart is doing. -/
inductive HartStatus
  | reset      -- held in reset (R47)
  | free       -- the dispatcher's, idle
  | taken      -- taken for a gang that has not started (R133)
  | dispatched -- a task is chosen for it (R115)
  | running    -- executing instructions, of a task or of the supervisor or monitor
  | parked     -- parked on its input ring (R138)
  | waiting    -- in WFI (R309)
  | stopping   -- stopped, SAVED not yet written (R177)
  | ended      -- a gang member that has ended and holds its slot (R338, R157)
  deriving DecidableEq, Repr

/-- A hart. `driftAt` is the core cycle at which its drift interval in progress began (R232); `icache` names the lines of the code
heap that its L1 instruction cache holds (R206). `partials` are the results of the accesses that the instruction in progress
has already made, by address, and `entering` those of its stores that still wait for room in the store buffer (R433); both are
the model's own fields: an instruction that waits runs again from its start. -/
structure Hart where
  status : HartStatus := .reset
  mode : Mode := .m
  pc : Word := 0
  npc : Word := 0
  ir : Word := 0
  x : List (Nat × Word) := []
  k : List (Nat × Word) := []
  b : List (Nat × BBind) := []
  q : List (Nat × QBind) := []
  priv : PrivCsrs := {}
  dev : DevCsrs := {}
  pts : Nat := 0
  task : Option Nat := none
  ctx : Option Nat := none
  slot : Nat := 0
  fstat : Word := 0
  ackTime : Nat := 0
  unacked : Nat := 0
  postedPorts : List (Nat × Nat) := []
  tokens : List (Nat × Token) := []
  sb : List SbEntry := []
  tlb : List TlbEntry := []
  l1 : List (Nat × L1Line) := []
  resv : Option Resv := none
  ld : Option Pend := none
  st : Option Pend := none
  partials : List (Nat × Nat) := []
  entering : List SbEntry := []
  mail : List Mail := []
  mailLost : Bool := false
  tfq : List TfRec := []
  wdPending : Bool := false
  mpoison : Bool := false
  vwait : List (Nat × Nat) := []
  xwait : List (Nat × Nat) := []
  fmt : Word := 0
  ucode : Word := 0
  ust : W32 := 0
  lane : Lane := {}
  win : Windows := {}
  startTraps : List (Nat × Word) := []
  trace : Trace := {}
  stopReq : Bool := false
  cycOff : Word := 0
  instret : Word := 0
  parkedCycles : Nat := 0
  inc : Nat := 0
  deaths : Nat := 0
  driftAt : Nat := 0
  icache : List Nat := []
  deriving DecidableEq, Repr

/-! ## Engines of a quad -/

/-- A matrix request with everything sampled at its issue (R194, R452). `ctx` is the context whose registers it works on, `ictx` that of
the hart that issued it in cycle `at_`; the part of an MMAG that another member of the gang runs is `gang`, and `member` is the member's
number (R462, R463). -/
structure MReq where
  id : Nat
  hart : Nat
  slot : Nat
  ctx : Nat
  task : Option Nat := none
  asid : Nat
  op : Instr
  xa : Word
  xb : Word
  xc : Word
  vs : Line
  rmode : Word
  seed : Word
  tid : Word
  clk : Nat
  fmt : Word := 0
  ucode : Word := 0
  ust : W32 := 0
  gang : Bool := false
  ictx : Nat := 0
  member : Nat := 0
  at_ : Nat := 0
  deriving DecidableEq, Repr

/-- Transfers by operation (17). -/
inductive XKind | copy | copyb | copyn | getx | putx | getr | putr | flushr | ldsub | lddrn
  deriving DecidableEq, Repr

/-- An end of a transfer. -/
inductive XEnd
  | handle (h : Line)
  | tile (reg row : Nat)
  | remote (off : Nat)
  | absent
  deriving DecidableEq, Repr

/-- A ring slot that a stream-controller transfer has acquired or taken and not finished (R420). -/
structure SlotUse where
  slot : Nat
  used : Nat
  deriving DecidableEq, Repr

/-- Where a transfer stands: its issue; its bytes; its end. `done` transfers are kept for WAITG (R415) until their task ends. -/
inductive XPhase | queued | moving | finished | done
  deriving DecidableEq, Repr

/-- A transfer: an agent (R274, R407). `members` are the quads and contexts it writes (R410), `tiles` the tile registers it
writes in each, `stiles` those it reads; `pos` is the canonical position of its next element, `n` the bytes written, `held`
its unfinished access to a line (log 20), `lastByte` the last byte that a 4-bit element was counted in; `host` is 1 while a
request to the host is awaited and 2 once it is answered; `net` holds the bytes of an answered get; `ladles` are the stream
controllers that serve a subscription, 8 × stack + the number in the stack (R251). -/
structure Transfer where
  id : Nat
  hart : Nat
  quad : Nat
  slot : Nat
  ctx : Option Nat
  task : Option Nat
  asid : Nat
  kind : XKind
  reg : Nat
  bar : BBind := {}
  ring : QBind := {}
  region : Region
  src : XEnd
  dst : XEnd
  idx : Line := 0
  clip : Bool := false
  mc : Option Nat := none
  members : List (Nat × Nat) := []
  tiles : List Nat := []
  stiles : List Nat := []
  desc : Word := 0
  rmode : Word := 0
  seed : Word := 0
  tid : Word := 0
  phase : XPhase := .moving
  pos : Nat := 0
  n : Nat := 0
  lastByte : Option Nat := none
  held : List (Place × BitVec 64 × Line) := []
  clk : Nat := 0
  flags : Nat := 0
  status : Nat := 0
  paused : Bool := false
  checked : Bool := true
  target : Nat := 0
  ladles : List Nat := []
  use : Option SlotUse := none
  cancel : Bool := false
  host : Nat := 0
  sent : Bool := false
  net : Option (List Byte) := none
  copyNo : Nat := 0
  deriving DecidableEq, Repr

/-- A format context of the matrix engine (R198, R456, R459). -/
structure FmtCtx where
  fmt : Word := 0
  ucode : Word := 0
  ust : W32 := 0
  deriving DecidableEq, Repr

/-- A quad: its vault's clock and tables, its matrix engine, its copy engine. `accepts` are the cycles of the engine's last 16
acceptances (R23, R195); `fmts` holds the format contexts that are in the engine and not in their context's image (R198). -/
structure Quad where
  vclk : Nat := 0
  blocks : List (Nat × Block) := []
  watches : List Watch := []
  dq : List (Nat × List MReq) := []
  gangSlots : List (Nat × MReq) := []
  arb : Nat := 0
  inq : List MReq := []
  accepts : List Nat := []
  fmts : List (Nat × FmtCtx) := []
  transfers : List Transfer := []
  portq : List Nat := []
  rot : Nat := 0
  outOfService : Bool := false
  tlb : List TlbEntry := []
  copyInc : Nat := 0
  copyDeaths : Nat := 0
  deriving DecidableEq, Repr

/-! ## Registers that live in context images -/

/-- The lazily filled registers of a hart slot that are resident (R172, R175); an absent register is read from the
context image. -/
structure SlotRegs where
  v : List (Nat × Line) := []
  g : List (Nat × Region) := []
  h : List (Nat × Line) := []
  dirty : List Nat := []
  at_ : Option Nat := none
  deriving DecidableEq, Repr

/-- The tile and accumulator registers of a context, 0 to 15 and 16 to 23 (R174, R175); `evictable` is R178's mark, `leaving` are the
registers that a transfer or request still writes and that leave with it. The released map is in the context's image when `released`
is `none`. -/
structure TileRegs where
  resident : List Nat := []
  dirty : List Nat := []
  released : Option (BitVec 24) := none
  evictable : Bool := false
  leaving : List Nat := []
  deriving DecidableEq, Repr

/-! ## Dispatcher -/

/-- A tenant's pipeline stage (R135). -/
structure Stage where
  min : Nat
  max : Nat
  ring : Nat
  move : Option Nat := none
  deriving DecidableEq, Repr

/-- A live tenant (R85). -/
structure Tenant where
  owner : Nat
  floor : Nat
  flags : Nat
  reserve : Nat
  cap : Nat
  pendingCap : Nat
  argSlots : Nat
  slack : Nat
  root : Nat
  homing : Nat
  argPool : Nat
  counters : Nat
  stages : List (Nat × Stage) := []
  argUsed : List Nat := []
  deriving DecidableEq, Repr

/-- The release of a context (R62, R366). -/
structure Release where
  started : Bool := false
  startNs : Nat := 0
  last : Bool := false
  quads : List Nat := []
  pendingQuads : List Nat := []
  deriving DecidableEq, Repr

/-- A context: one tenant's claim on the state of one quad (R90, R91). -/
structure Context where
  asid : Nat
  image : Nat
  quad : Nat
  hold : Bool := false
  release : Option Release := none
  deriving DecidableEq, Repr

/-- The bytes of a TCB that the dispatcher owns from submission to the end (R112, R116). -/
structure Tcb where
  entry : Nat
  absorb : Nat
  arg : Nat
  gangLevel : Nat
  gangLog : Nat
  flags : BitVec 16
  budget : Nat
  stage : Nat
  succ : Nat
  succCount : Nat
  prodCount : Nat
  prod : Nat
  rdWin : Nat
  wrWin : Nat
  deriving DecidableEq, Repr

/-- A hart slot that a task holds; when it is saved, `xlat` is the translation that its position is in (R111) and `codeSlot` the
slot of the code view (R99), and `traps` are the traps that were still due before its next instruction (R127, R177). -/
structure Member where
  hart : Nat
  ctx : Nat
  slot : Nat
  rank : Nat
  ended : Bool := false
  cancelled : Bool := false
  saved : Bool := false
  xlat : Nat := 0
  codeSlot : Option Nat := none
  traps : List (Nat × Word) := []
  deriving DecidableEq, Repr

/-- A task the dispatcher holds, keyed by its submission number (R116, R119). States are those of R115. `gangTaken` is the
domain instance of a gang that is being placed; `gate` the predecessor whose end state is not written yet (R124);
`parkWait` says that the task was suspended on its empty input ring (R138); `ending` is the end state whose decrements are
on their way. -/
structure Task where
  addr : Nat
  asid : Nat
  die : Nat
  tcb : Tcb
  state : Nat
  count : Nat
  demand : Nat
  deadline : Nat
  cls : Nat
  relTime : Nat
  launch : Option Nat
  notify : Option (Nat × Nat) := none
  members : List Member := []
  gangTaken : Option Nat := none
  early : Bool := false
  aprod : Nat := 0
  absorbed : List Nat := []
  finished : List Nat := []
  excl : List (Nat × BitVec 8) := []
  abs : Bool := false
  xdec : Bool := false
  wd : Bool := false
  wdHeld : Option Nat := none
  slost : Bool := false
  gate : Option Nat := none
  parkWait : Bool := false
  ending : Option Nat := none
  endTime : Nat := 0
  endHart : Nat := 0xFFF
  flops : Nat := 0
  bytes : Nat := 0
  deriving DecidableEq, Repr

/-- A decrement in flight (R124, R147). -/
structure Dec where
  target : Nat
  asid : Nat
  producer : Nat
  abs : Bool
  time : Nat
  sub : Nat
  deriving DecidableEq, Repr

/-- A withdrawal in flight (R151). -/
structure Wd where
  target : Nat
  asid : Nat
  by_ : Nat
  deriving DecidableEq, Repr

/-- A mailbox message on its way to a slot (R354, R355). -/
structure Delivery where
  ctx : Nat
  slot : Nat
  mail : Mail
  deriving DecidableEq, Repr

/-- What the first 64 retired tasks of a kernel amount to, and its class once fixed (R132). -/
structure Kernel where
  asid : Nat
  entry : Nat
  retired : Nat := 0
  flops : Nat := 0
  bytes : Nat := 0
  cls : Option Nat := none
  deriving DecidableEq, Repr

/-- Where a launch stands. -/
inductive LaunchPhase | reading | ready | submitted | done
  deriving DecidableEq, Repr

/-- An accepted launch (R71 to R84). -/
structure Launch where
  asid : Nat
  port : Nat
  record : BitVec 512
  phase : LaunchPhase
  deadline : Nat := 0
  argTime : Nat := 0
  slotIdx : Option Nat := none
  live : Nat := 0
  retired : Nat := 0
  faulted : Nat := 0
  cancelled : Nat := 0
  firstFault : Option (Nat × Nat) := none
  ended : Bool := false
  anyCtxCancel : Bool := false
  ports : List Nat := []
  zlrSent : Bool := false
  deriving DecidableEq, Repr

/-! ## RTU, firmware, host, links -/

/-- Where the boot stands (R47, R48). -/
inductive BootPhase | inReset | recovery | released
  deriving DecidableEq, Repr

/-- A segment of the audit log that is full: it is sealed, then spilled, and goes when its spill is acknowledged (R59, R60). -/
structure Segment where
  idx : Nat
  final : BitVec 256
  sealed : Bool := false
  signature : List Byte := []
  spilled : Bool := false
  deriving DecidableEq, Repr

/-- An audit entry (R56). -/
structure AuditEntry where
  seq : Nat
  ns : Nat
  kind : Nat
  source : Nat
  asid : Nat
  payload : BitVec 192
  link : BitVec 128
  deriving DecidableEq, Repr

/-- The RTU (03). `supervisor` is the digest extended into MEAS3, `superAt` where firmware has loaded that image (R51). `signing` is what waits for the signing key: a quote with its nonce, or a segment (R52); `advance` and `purged`
are an advance of the fuse counter in progress and the objects it purged (R49). -/
structure Rtu where
  boot : BootPhase := .inReset
  flashA : List Byte := []
  flashB : List Byte := []
  window : List Host.Cell := []
  mcMem : List Byte := []
  mcEntry : Nat := 0
  nonce : BitVec 128 := 0
  vendorKeyHash : BitVec 256 := 0
  fuses : Nat := 0
  disabled : BitVec 80 := 0
  svn : Nat := 0
  meas : List (Nat × BitVec 256) := []
  supervisor : Option (BitVec 256) := none
  superAt : Option (Nat × Nat) := none
  seq : Nat := 0
  head : BitVec 256 := 0
  entries : List AuditEntry := []
  segments : List Segment := []
  lastFinal : BitVec 256 := 0
  overflow : Option (Nat × Nat × Nat) := none
  signing : List (Option (BitVec 256)) := []
  keys : List (Nat × Nat) := [(0, 1)]
  nextKey : Nat := 2
  reported : List Nat := []
  advance : Option Nat := none
  purged : List Nat := []
  deriving DecidableEq, Repr

/-- A frame-ownership entry (R54): 2 MiB frames by number. `noise` numbers the frame's last change of key (R55). -/
structure Frame where
  slot : Nat := 0
  supw : Bool := false
  image : Bool := false
  noise : Nat := 0
  deriving DecidableEq, Repr

/-- A request waiting for the host (R27). -/
inductive HostReq
  | load (hart port addr size : Nat)
  | amo (hart port addr size : Nat) (op : AmoOp) (val cmp : Nat)
  | amoC (hart inc port addr size : Nat) (op : AmoOp) (val cmp : Nat) (t : Nat)
  | copy (transfer port : Nat)
  | zlr (hart port n : Nat)
  | zlrLaunch (launch port : Nat)
  | args (launch port : Nat)
  deriving DecidableEq, Repr

/-- A host port (02). -/
structure Port where
  up : Bool := true
  cxl : Bool := true
  apTime : Nat := 0
  bar4 : List (Nat × (Nat × Nat × Nat)) := []
  inc : Nat := 0
  deaths : Nat := 0
  deriving DecidableEq, Repr

/-- A launch port of an ASID (R69). -/
structure LaunchPort where
  opened : Bool := false
  dropped : Nat := 0
  deriving DecidableEq, Repr

/-- What the device answered or sent to the host, oldest first: the outcome of each request the host made. -/
inductive HostOut
  | success
  | unsupported
  | abort
  | retry
  | data (v : List Byte)
  | msix (port vector : Nat)
  | snoopReply (port line : Nat) (data : Line)
  | quote (bytes entries : List Byte)
  | counters (dutyChanges : Word) (corrected : List (Nat × Nat))
  | netData (bytes : List Byte)
  | netAck
  | netRefuse
  | netPut (port sq off : Nat) (bytes : List Byte)
  | netGet (port sq off len : Nat)
  | zeroRead (port : Nat)
  deriving DecidableEq, Repr

/-- A translation in the code heap (R104 to R110): `len` bytes of code from offset `base` of the heap; `image` is the object it
was made from. -/
structure Translation where
  owner : Nat
  hash : BitVec 256
  svn : Nat
  base : Nat := 0
  len : Nat
  starts : List Bool
  /-- For each parcel that starts an instruction, its position (R110). -/
  positions : List (Nat × Nat) := []
  /-- For each virtual index, where every live value is: (file, number, register or none, spill slot). -/
  locs : List (Nat × List (Nat × Nat × Option Nat × Nat)) := []
  image : List Byte := []
  purged : Bool := false
  deriving DecidableEq, Repr

/-- Power controller and sensors (R23, R24). -/
structure Power where
  samples : List Nat := []
  step : Nat := 0
  changes : Word := 0
  sensors : List (Nat × Nat) := []
  hot : Bool := false
  deriving DecidableEq, Repr

/-- A die link by edge (R15, R35): 0 is 0-1, 1 is 0-2, 2 is 1-3, 3 is 2-3. -/
structure DieLink where
  fails : Nat := 0
  down : Bool := false
  deriving DecidableEq, Repr

/-- A die: its time base (R245), the homes that have acknowledged a rebase step in progress, and its walker cache (R226). -/
structure Die where
  base : Nat := 0
  rebasing : Bool := false
  acked : List Nat := []
  wcache : List WalkEntry := []
  deriving DecidableEq, Repr

/-- Who moves next (log 1): an event, an instruction of a hart (0x1000 is the management core), the drain of a hart's store buffer, the
passing of core cycles, the host, which writes its own memory and reads a launch-port page (R68), or firmware on the management core,
which writes memory, tags frames, loads and starts the supervisor (R51), rewrites a flash slot (R48), sets the kernel classifier
(R132) and reports its counters to the host (R23, R230; log 8). `flip` is an uncorrectable error in a line of a vault, of a register or of
HBM, or with a hart in its L1, and `fixed` a corrected one on a die (R230). -/
inductive Move
  | event (i : Instr)
  | run (h : Nat)
  | drain (h : Nat)
  | tick (n : Nat)
  | hostWrite (addr : Nat) (bs : List Byte)
  | fwWrite (addr : Nat) (bs : List Byte)
  | fwTag (frame count slot : Nat) (supw : Bool)
  | hostPortRead (port page off len : Nat)
  | fwStart (h : Nat) (pc : Word) (base len : Nat)
  | fwFlash (second : Bool) (bs : List Byte)
  | fwClassifier (on : Bool)
  | fwReport
  | flip (line : Nat) (l1 : Option Nat)
  | fixed (die : Nat)
  deriving DecidableEq, Repr

/-- The dispatcher, tenants and contexts (04, 06). `excess` are the TCBs, by ASID and address, that a decrement found at count 0
before their submission (R124). -/
structure Disp where
  tenants : List (Nat × Tenant) := []
  contexts : List (Nat × Context) := []
  nextCtx : Nat := 0
  burnt : List Nat := []
  tasks : List (Nat × Task) := []
  nextSub : Nat := 1
  decs : List Dec := []
  excess : List (Nat × Nat) := []
  wds : List Wd := []
  mails : List Delivery := []
  kernels : List Kernel := []
  classify : Bool := true
  stopped : Bool := false
  assigned : List (Nat × (Nat × Nat)) := []
  preempt : List (Nat × Nat) := []
  launches : List (Nat × Launch) := []
  nextLaunch : Nat := 0
  eventSeq : Nat := 1
  mcast : List (Nat × (Nat × BitVec 640)) := []
  deriving DecidableEq, Repr

/-- The state of the module. `fills` are the misses on context images that wait for IMAGE_LINE_FILL: context, slot (4 for
the quad image) and register; `corrected` counts the corrected errors of each die (R230). -/
structure State where
  grade : Grade := .ubk2560
  cur : Nat := 0
  agenda : List Move := []
  cycle : Nat := 0
  free : Nat := 0
  nextId : Nat := 1
  halted : Bool := false
  haltCycles : Nat := 0
  mem : List Host.Cell := []
  poison : List Nat := []
  lineKeys : List (Nat × Nat) := []
  frames : List (Nat × Frame) := []
  retags : Nat := 0
  harts : List (Nat × Hart) := []
  quads : List (Nat × Quad) := []
  homes : List (Nat × Home) := []
  slotRegs : List (Nat × SlotRegs) := []
  tileRegs : List (Nat × TileRegs) := []
  fills : List (Nat × (Nat × Nat)) := []
  msgs : List (Nat × Msg) := []
  walks : List Walk := []
  dies : List (Nat × Die) := []
  dieLinks : List (Nat × DieLink) := []
  netDown : List Nat := []
  ladleInc : List (Nat × Nat) := []
  ladleDeaths : List (Nat × Nat) := []
  rtu : Rtu := {}
  disp : Disp := {}
  heap : List (Nat × Translation) := []
  slotMap : List (Nat × Nat) := []
  ports : List (Nat × Port) := []
  launchPorts : List (Nat × LaunchPort) := []
  hostReqs : List (Nat × HostReq) := []
  hostOut : List HostOut := []
  power : Power := {}
  corrected : List (Nat × Nat) := []
  deriving DecidableEq, Repr

/-- Why the machine stops. -/
inductive Fault
  /-- Raised by a step of a hart while the core clock of the compute dies is halted after a thermal trip or an exhausted
  audit reserve (R24, R61): no hart issues until a cold reset. Safe: the hardware takes no step either. -/
  | coreClockHalted
  deriving DecidableEq, Repr

/-- Why an instruction has no meaning. -/
inductive Refusal
  /-- Raised by `exec` alone, for an instruction that has no meaning yet. Safe. -/
  | notModelled (mnemonic : String)
  deriving DecidableEq, Repr

/-- What a meaning answers. -/
abbrev Result := Host.Outcome State Fault Refusal

/-- The module right after cold reset is asserted: the compute dies and the management core are held in reset and the
boot ROM has not run yet (R47); every register at the reset value of its map, or at the value log 4 names. -/
def State.reset : State := {}

end Sys2Proof.Machine
end

