-- ==== Sys2Proof/Machine/Store.lean ====
section
/-! DEFINITION. Sparse maps from numbers: sorted lists of (key, value) pairs, keys strictly rising. `set` removes an
entry that would equal the default, so that equal maps are equal lists; `put` keeps every entry it writes. -/

namespace Sys2Proof

namespace Store

/-- The value at `k`, or the default `d` when no entry lists it. -/
def get {α : Type} (d : α) : List (Nat × α) → Nat → α
  | [], _ => d
  | (k', v) :: r, k => if k = k' then v else get d r k

/-- The entry at `k`, if one is listed. -/
def find? {α : Type} : List (Nat × α) → Nat → Option α
  | [], _ => none
  | (k', v) :: r, k => if k = k' then some v else find? r k

/-- List `v` at `k`, in order, replacing what was listed there. -/
def put {α : Type} : List (Nat × α) → Nat → α → List (Nat × α)
  | [], k, v => [(k, v)]
  | (k', v') :: r, k, v =>
    if k < k' then (k, v) :: (k', v') :: r
    else if k = k' then (k, v) :: r
    else (k', v') :: put r k v

/-- Remove the entry at `k`. -/
def del {α : Type} : List (Nat × α) → Nat → List (Nat × α)
  | [], _ => []
  | (k', v') :: r, k => if k = k' then r else (k', v') :: del r k

/-- Write `v` at `k` keeping the canonical form: no entry equals the default. -/
def set {α : Type} [DecidableEq α] (d : α) (m : List (Nat × α)) (k : Nat) (v : α) : List (Nat × α) :=
  if v = d then del m k else put m k v

/-- The keys of a map rise strictly. -/
def Rising {α : Type} (m : List (Nat × α)) : Prop := m.Pairwise (fun a b => a.1 < b.1)

/-- Keys strictly rising, all above `lo`. -/
def sortedAbove {α : Type} : Option Nat → List (Nat × α) → Bool
  | _, [] => true
  | none, (k, _) :: r => sortedAbove (some k) r
  | some b, (k, _) :: r => decide (b < k) && sortedAbove (some k) r

/-- The canonical form: keys strictly rising and no entry equal to the default. -/
def wf {α : Type} [DecidableEq α] (d : α) (m : List (Nat × α)) : Bool :=
  sortedAbove none m && m.all (fun e => decide (e.2 ≠ d))

end Store

/-- Insert a number into a sorted list without repeats. -/
def insertNat : List Nat → Nat → List Nat
  | [], k => [k]
  | x :: r, k => if k < x then k :: x :: r else if k = x then x :: r else x :: insertNat r k

/-- The first element of a list that a function maps to a value. -/
def firstSome {α β : Type} (f : α → Option β) : List α → Option β
  | [] => none
  | x :: r => match f x with
    | some y => some y
    | none => firstSome f r

/-- Replace the first element for which `p` holds. -/
def modifyFirst {α : Type} (p : α → Bool) (f : α → α) : List α → List α
  | [] => []
  | x :: r => if p x then f x :: r else x :: modifyFirst p f r

/-- Remove the first element for which `p` holds. -/
def removeFirst {α : Type} (p : α → Bool) : List α → List α
  | [] => []
  | x :: r => if p x then r else x :: removeFirst p r

end Sys2Proof
end

