-- ==== Sys2Proof/Machine/Ops.lean ====
section
/-! DEFINITION. The named operations over the state: geometry, registers, the bytes of memory, the trace, the fence
status, the audit log; taking an exception and returning from one; and what an instruction's meaning answers. -/

namespace Sys2Proof.Machine

/-! ## Geometry (R14, R15, R18) -/

/-- Quads present on each die. -/
def Grade.quads : Grade → Nat
  | .ubk2560 => 160
  | .ubk2304 => 144

/-- The die of a hart. -/
def dieOf (h : Nat) : Nat := h / 1024

/-- The global quad of a hart (R18). -/
def quadOf (h : Nat) : Nat := h / 1024 * 160 + h / 4 % 256

/-- The hart numbered `k` of a global quad (R18). -/
def hartOf (q k : Nat) : Nat := q / 160 * 1024 + q % 160 * 4 + k

/-- The die of a global quad. -/
def dieOfQuad (q : Nat) : Nat := q / 160

/-- Is the quad present on the part (R18)? -/
def State.quadPresent (s : State) (q : Nat) : Bool := decide (q < 640) && decide (q % 160 < s.grade.quads)

/-- Is the hart present on the part? -/
def State.hartPresent (s : State) (h : Nat) : Bool := decide (h < 4096) && decide (h / 4 % 256 < s.grade.quads)

/-- The global quads of a die, in order. -/
def State.quadsOfDie (s : State) (d : Nat) : List Nat := (List.range s.grade.quads).map (160 * d + ·)

/-- The edges that a route between two dies crosses, with the die at the far end of each (R15): edge 0 is 0-1, 1 is 0-2,
2 is 1-3, 3 is 2-3. -/
def routeEdges (a b : Nat) : List (Nat × Nat) :=
  match a, b with
  | 0, 1 => [(0, 1)] | 1, 0 => [(0, 0)]
  | 0, 2 => [(1, 2)] | 2, 0 => [(1, 0)]
  | 1, 3 => [(2, 3)] | 3, 1 => [(2, 1)]
  | 2, 3 => [(3, 3)] | 3, 2 => [(3, 2)]
  | 0, 3 => [(0, 1), (2, 3)] | 3, 0 => [(2, 1), (0, 0)]
  | 1, 2 => [(0, 0), (1, 2)] | 2, 1 => [(1, 0), (0, 1)]
  | _, _ => []

/-- Is a die link down? -/
def State.linkDown (s : State) (e : Nat) : Bool := (Store.get {} s.dieLinks e).down

/-- The first die across a down link on the route from `a` to `b`, if there is one (R35, R44). -/
def State.deadRoute (s : State) (a b : Nat) : Option Nat :=
  firstSome (fun e => if s.linkDown e.1 then some e.2 else none) (routeEdges a b)

/-- The die of a host port (R27). -/
def portDie (p : Nat) : Nat := if p = 0 then 0 else 1

/-- The package nanosecond counter, which goes on while the core clock is halted (R17, R20; log 5). -/
def State.ns (s : State) : Nat := 2 * (s.cycle + s.haltCycles) / 3

/-! ## The sparse parts of the state -/

def State.hart (s : State) (h : Nat) : Hart := Store.get {} s.harts h
def State.setHart (s : State) (h : Nat) (v : Hart) : State := { s with harts := Store.put s.harts h v }
def State.modHart (s : State) (h : Nat) (f : Hart → Hart) : State := s.setHart h (f (s.hart h))

/-- The hart that executes. -/
def State.me (s : State) : Hart := s.hart s.cur
def State.modMe (s : State) (f : Hart → Hart) : State := s.modHart s.cur f

def State.quad (s : State) (q : Nat) : Quad := Store.get {} s.quads q
def State.setQuad (s : State) (q : Nat) (v : Quad) : State := { s with quads := Store.put s.quads q v }
def State.modQuad (s : State) (q : Nat) (f : Quad → Quad) : State := s.setQuad q (f (s.quad q))

def State.home (s : State) (h : Nat) : Home := Store.get {} s.homes h
def State.setHome (s : State) (h : Nat) (v : Home) : State := { s with homes := Store.put s.homes h v }
def State.modHome (s : State) (h : Nat) (f : Home → Home) : State := s.setHome h (f (s.home h))

def State.die (s : State) (d : Nat) : Die := Store.get {} s.dies d
def State.port (s : State) (p : Nat) : Port := Store.get {} s.ports p
def State.modPort (s : State) (p : Nat) (f : Port → Port) : State :=
  { s with ports := Store.put s.ports p (f (s.port p)) }

def State.modRtu (s : State) (f : Rtu → Rtu) : State := { s with rtu := f s.rtu }
def State.modDisp (s : State) (f : Disp → Disp) : State := { s with disp := f s.disp }

/-- Change what a task is counted by, when there is one (R132). -/
def State.tally (s : State) (k : Option Nat) (f : Task → Task) : State :=
  match k with
  | some k => s.modDisp (fun d => { d with tasks := d.tasks.map (fun t : Nat × Task => if t.1 = k then (k, f t.2) else t) })
  | none => s

/-- A task has sent a posted write to a host port: its launch notes the port (R82). -/
def State.notePort (s : State) (k : Option Nat) (p : Nat) : State :=
  match (k.bind (Store.find? s.disp.tasks)).bind (fun t : Task => t.launch) with
  | some l => s.modDisp (fun d =>
      { d with launches := d.launches.map (fun x : Nat × Launch =>
          if x.1 = l then (l, { x.2 with ports := insertNat x.2.ports p }) else x) })
  | none => s

/-- A new number for a message, a walk, a transfer or a request. -/
def State.newId (s : State) : Nat × State := (s.nextId, { s with nextId := s.nextId + 1 })

/-- Put a message in flight. -/
def State.send (s : State) (m : Msg) : State := { s with msgs := s.msgs ++ [(s.nextId, m)], nextId := s.nextId + 1 }

/-- Queue a request to the host. -/
def State.askHost (s : State) (r : HostReq) : State :=
  { s with hostReqs := s.hostReqs ++ [(s.nextId, r)], nextId := s.nextId + 1 }

/-- Add to what the host receives. -/
def State.toHost (s : State) (o : HostOut) : State := { s with hostOut := s.hostOut ++ [o] }

/-- A free value (log 7). -/
def State.fresh64 (s : State) : Word × State := (Config.freeWord s.free, { s with free := s.free + 1 })

/-! ## Integer registers, masks -/

/-- Read an x register: x0 reads zero. -/
def Hart.rx (h : Hart) (r : Reg) : Word := if r = 0 then 0 else Store.get 0 h.x r.toNat

/-- Write an x register: a write to x0 is discarded. -/
def Hart.wx (h : Hart) (r : Reg) (v : Word) : Hart := if r = 0 then h else { h with x := Store.set 0 h.x r.toNat v }

/-- Read a mask register: k0 reads as all ones (R424). -/
def Hart.rk (h : Hart) (n : Nat) : Word := if n = 0 then BitVec.allOnes 64 else Store.get 0 h.k n

/-- Write a mask register: a write to k0 is discarded (R424). -/
def Hart.wk (h : Hart) (n : Nat) (v : Word) : Hart := if n = 0 then h else { h with k := Store.set 0 h.k n v }

def State.rx (s : State) (r : Reg) : Word := s.me.rx r
def State.wx (s : State) (r : Reg) (v : Word) : State := s.modMe (·.wx r v)

def Hart.token (h : Hart) (n : Nat) : Token := Store.get {} h.tokens n
def Hart.setToken (h : Hart) (n : Nat) (t : Token) : Hart := { h with tokens := Store.set {} h.tokens n t }

/-- Raise the logical clock (it never decreases, R231). -/
def Hart.raise (h : Hart) (t : Nat) : Hart := { h with pts := max h.pts t }

/-! ## Memory bytes -/

/-- The key under which a poisoned or noisy line is named. -/
def lineNo (a : Nat) : Nat := a / 64

/-- The frame entry of a 2 MiB frame (R54). -/
def State.frame (s : State) (f : Nat) : Frame := Store.get {} s.frames f

/-- The key that an HBM line is read and written with: that of the slot its frame carries (R54); 0 for an empty slot. -/
def State.keyOf (s : State) (a : Nat) : Nat := Store.get 0 s.rtu.keys (s.frame (a / 0x200000)).slot

/-- The noise that an HBM line reads as, when it was last written under another key than its frame's (R54, R55). A line that no
change of key has preceded was written under firmware's, number 1. -/
def State.noiseOf (s : State) (a : Nat) : Option Nat :=
  if s.retags = 0 then none
  else if a < Config.hbmBytes then
    if (Store.find? s.lineKeys (lineNo a)).getD 1 = s.keyOf a then none else some (s.frame (a / 0x200000)).noise
  else none

/-- The byte of memory at an address of the model's one memory. -/
def State.byteAt (s : State) (a : Nat) : Byte :=
  match s.noiseOf a with
  | some n => Config.cipherByte n a
  | none => Store.get 0 s.mem a

/-- The `n` bytes of a sorted cell list from address `a` on; an unlisted byte reads 0 (log 3). -/
def cellBytes : List Host.Cell → Nat → Nat → List Byte
  | [], _, n => List.replicate n 0
  | (k, v) :: r, a, n =>
    if n = 0 then []
    else if k < a then cellBytes r a n
    else if n ≤ k - a then List.replicate n 0
    else List.replicate (k - a) 0 ++ v :: cellBytes r (k + 1) (n - (k - a) - 1)

/-- The cells that a string of bytes at `a` needs: those that are not 0. -/
def cellsOf : Nat → List Byte → List Host.Cell
  | _, [] => []
  | a, b :: r => if b = 0 then cellsOf (a + 1) r else (a, b) :: cellsOf (a + 1) r

/-- Write bytes at `a`, keeping the canonical form. -/
def cellWrite (m : List Host.Cell) (a : Nat) (bs : List Byte) : List Host.Cell :=
  m.filter (fun c => decide (c.1 < a)) ++ cellsOf a bs ++ m.filter (fun c => decide (a + bs.length ≤ c.1))

/-- The canonical form of a memory: addresses strictly rising, no entry that an unlisted address would read as. -/
def Memory.wf (m : List Host.Cell) : Bool := Store.wf 0 m

/-- Read `n` bytes. -/
def State.readBytes (s : State) (a n : Nat) : List Byte :=
  if s.retags = 0 then cellBytes s.mem a n else (List.range n).map (fun i => s.byteAt (a + i))

/-- Give every line of an HBM range its own bytes, under its frame's key, before a part of it is written (R55). -/
def State.settleNoise (s : State) : Nat → Nat → State
  | _, 0 => s
  | l, n + 1 =>
    match s.noiseOf (64 * l) with
    | none => s.settleNoise (l + 1) n
    | some k =>
      let bs := (List.range 64).map (fun i => Config.cipherByte k (64 * l + i))
      { s with mem := cellWrite s.mem (64 * l) bs, lineKeys := Store.put s.lineKeys l (s.keyOf (64 * l)) }.settleNoise (l + 1) n

/-- Write bytes. -/
def State.writeBytes (s : State) (a : Nat) (bs : List Byte) : State :=
  let s := if s.retags = 0 then s else s.settleNoise (lineNo a) (lineNo (a + bs.length + 63) - lineNo a)
  { s with mem := cellWrite s.mem a bs }

/-- The number held little-endian in `n` bytes. -/
def State.readNat (s : State) (a n : Nat) : Nat := ofBytes (s.readBytes a n)
def State.writeNat (s : State) (a n v : Nat) : State := s.writeBytes a (bytesOf n v)

/-- The line at a 64-byte aligned address. -/
def State.readLine (s : State) (a : Nat) : Line := BitVec.ofNat 512 (s.readNat a 64)
def State.writeLine (s : State) (a : Nat) (l : Line) : State := s.writeNat a 64 l.toNat

/-- Is the line poisoned (R230)? -/
def State.poisoned (s : State) (a : Nat) : Bool := s.poison.contains (lineNo a)
def State.setPoison (s : State) (a : Nat) : State := { s with poison := insertNat s.poison (lineNo a) }
def State.clearPoison (s : State) (a : Nat) : State := { s with poison := s.poison.filter (· != lineNo a) }

/-! ## The trace (R184 to R187) -/

/-- Does the trace record an event of the class whose bit is `cls` (0 for the kinds that need only EN)? -/
def Hart.traces (h : Hart) (cls : Nat) : Bool :=
  h.dev.trcfg.getLsbD 0 && (cls = 0 || h.dev.trcfg.getLsbD cls) && !h.dev.trcfg.getLsbD 8

/-- Count an entry recorded after a trigger, and freeze when none is left (R187). -/
def Hart.traceCount (h : Hart) : Hart :=
  match h.trace.postLeft with
  | none => h
  | some n =>
    if n ≤ 1 then
      { h with trace := { h.trace with postLeft := none }, dev := { h.dev with trcfg := h.dev.trcfg ||| 0x100 } }
    else { h with trace := { h.trace with postLeft := some (n - 1) } }

/-- Put an entry into the buffer, newest first. -/
def Hart.tracePush (h : Hart) (cycle kind : Nat) (payload : Word) : Hart :=
  let t := h.trace
  let w0 := BitVec.ofNat 64 (t.seq.toNat + kind * 2 ^ 32 + (if t.lost then 2 ^ 40 else 0))
  let e : TraceEntry :=
    { w0 := w0, w1 := BitVec.ofNat 64 h.pts, w2 := BitVec.ofNat 64 cycle + h.cycOff, w3 := payload }
  { h with trace := { t with entries := (e :: t.entries).take 512, seq := t.seq + 1, lost := false,
                             lastCycle := some cycle } }

/-- Record an event: at most one a cycle; a second is dropped and sets LOST in the next entry (R184). -/
def Hart.record (h : Hart) (cycle cls kind : Nat) (payload : Word) : Hart :=
  if h.traces cls then
    if h.trace.lastCycle = some cycle then { h with trace := { h.trace with lost := true } }
    else (h.tracePush cycle kind payload).traceCount
  else h

/-- A trigger (R187): a kind 10 entry, then POST further entries, then FROZEN. -/
def Hart.trigger (h : Hart) (cycle : Nat) : Hart :=
  if h.traces 0 then
    let h := h.tracePush cycle 10 (zx (fld h.dev.trcfg 10 2))
    let post := (fld h.dev.trcfg 23 9).toNat
    if post = 0 then
      { h with trace := { h.trace with postLeft := none }, dev := { h.dev with trcfg := h.dev.trcfg ||| 0x100 } }
    else { h with trace := { h.trace with postLeft := some post } }
  else h

def State.record (s : State) (cls kind : Nat) (payload : Word) : State := s.modMe (·.record s.cycle cls kind payload)

/-! ## The accumulated fence status (R43, R44, R273) -/

/-- Add a failure: the bit, the target of the first one, and, for stores, the count. -/
def Hart.addFail (h : Hart) (bit target : Nat) (count : Bool) : Hart :=
  let f := h.fstat.toNat
  let first := natBits f 0 4 = 0 && natBits f 32 32 = 0
  let f := if first then natSetBits f 16 16 target else f
  let f := natSetBits f bit 1 1
  let f := if count && natBits f 32 32 < 2 ^ 32 - 1 then f + 2 ^ 32 else f
  { h with fstat := BitVec.ofNat 64 f }

def failDeadlink : Nat := 0
def failRefused : Nat := 1
def failPoison : Nat := 2
def failTimeout : Nat := 3

/-- A load, an AMO or a transfer of a hart that meets a down link or port is reported in its fence status, uncounted (R43; log 19);
`target` names what is down (R44). -/
def State.reportLink (s : State) (h : Nat) (target : Option Nat) : State :=
  match target with
  | some t => s.modHart h (·.addFail failDeadlink t false)
  | none => s

/-- The die across a down link on the way of a hart to another die, as a target. -/
def State.linkTarget (s : State) (a b : Nat) : Option Nat := (s.deadRoute a b).map (0x1000 + ·)

/-! ## The audit log (R56 to R61) -/

/-- Is the SRAM segment that segment `i` would occupy free (R59, R60)? -/
def Rtu.segmentFree (r : Rtu) (i : Nat) : Bool := !r.segments.any (fun g => g.idx % 8 == i % 8)

/-- Is the reserve of R61 in force? -/
def Rtu.auditFull (r : Rtu) : Bool := !r.segmentFree (r.seq / 4096 + 1) && decide (4096 - 256 ≤ r.seq % 4096)

/-- The 64 bytes of an entry (R56), as a number. -/
def AuditEntry.bits (e : AuditEntry) : Nat :=
  e.seq + e.ns * 2 ^ 64 + (e.kind + e.source * 2 ^ 16 + e.asid * 2 ^ 32) * 2 ^ 128 + e.payload.toNat * 2 ^ 192
    + e.link.toNat * 2 ^ 384

/-- head(n) := SHA256(cat(head(n − 1), entry n)) (R57). -/
def chain (head : BitVec 256) (e : AuditEntry) : BitVec 256 :=
  Sha.sha256 (bytesOf 32 head.toNat ++ bytesOf 64 e.bits)

/-- Append one entry. -/
def Rtu.push (r : Rtu) (ns kind source asid : Nat) (payload : BitVec 192) : Rtu :=
  let e : AuditEntry :=
    { seq := r.seq, ns := ns, kind := kind, source := source, asid := asid, payload := payload,
      link := r.head.setWidth 128 }
  { r with entries := r.entries ++ [e], head := chain r.head e, seq := r.seq + 1 }

/-- Append an entry and, after the entry before the last of a segment, the CHECKPOINT that closes it (R59); the final
head before segment 0 is the genesis head (log 14). The core clock halts when the segment just filled was the last one free (R61). -/
def State.audit (s : State) (kind source asid : Nat) (payload : Nat) : State :=
  let r := s.rtu.push s.ns kind source asid (BitVec.ofNat 192 payload)
  if r.seq % 4096 = 4095 then
    let i := r.seq / 4096
    let p := i + r.lastFinal.toNat % 2 ^ 128 * 2 ^ 64
    let r := r.push s.ns 0x0010 0xF000 0 (BitVec.ofNat 192 p)
    let r := { r with segments := r.segments ++ [{ idx := i, final := r.head }], lastFinal := r.head,
                        signing := r.signing ++ [none] }
    { s with rtu := r, halted := s.halted || !r.segmentFree (i + 1) }
  else { s with rtu := r }

/-- Fields of an audit payload, eight bytes each (log 14). -/
def payload3 (a b c : Nat) : Nat := a % 2 ^ 64 + b % 2 ^ 64 * 2 ^ 64 + c % 2 ^ 64 * 2 ^ 128

/-! ## Taking an exception (R159, R163) and returning from one (R309) -/

/-- Replace a field of a CSR. -/
def setFld (w : Word) (lo len v : Nat) : Word := BitVec.ofNat 64 (natSetBits w.toNat lo len v)

def Mode.code : Mode → Nat
  | .u => 0 | .s => 1 | .m => 3

def Mode.ofCode : Nat → Mode
  | 0 => .u | 1 => .s | _ => .m

/-- The address a trap goes to: the base, or for an interrupt in vectored mode base + 4 × code. -/
def trapTarget (tvec : Word) (intr : Bool) (code : Nat) : Word :=
  let base := tvec &&& ~~~(3 : Word)
  if intr && tvec.getLsbD 0 then base + BitVec.ofNat 64 (4 * code) else base

/-- Does a trap of this cause go to S-mode: it is delegated and the hart is not in M-mode (R159)? -/
def Hart.delegated (h : Hart) (intr : Bool) (code : Nat) : Bool :=
  h.mode != .m && (if intr then h.priv.mideleg else h.priv.medeleg).getLsbD code

/-- Enter a trap: the pc and the status are saved, the mode and the interrupt enable change, the pc goes to the vector.
`epc` is the pc to save. -/
def Hart.enterTrap (h : Hart) (intr : Bool) (code : Nat) (tval epc : Word) : Hart :=
  let p := h.priv
  let cause : Word := BitVec.ofNat 64 code ||| (if intr then 0x8000000000000000 else 0)
  if h.delegated intr code then
    let st := setFld p.mstatus 8 1 (if h.mode = .s then 1 else 0)
    let st := setFld st 5 1 (if p.mstatus.getLsbD 1 then 1 else 0)
    let st := setFld st 1 1 0
    { h with mode := .s, pc := trapTarget p.stvec intr code,
             priv := { p with mstatus := st, sepc := epc, scause := cause, stval := tval } }
  else
    let st := setFld p.mstatus 11 2 h.mode.code
    let st := setFld st 7 1 (if p.mstatus.getLsbD 3 then 1 else 0)
    let st := setFld st 3 1 0
    { h with mode := .m, pc := trapTarget p.mtvec intr code,
             priv := { p with mstatus := st, mepc := epc, mcause := cause, mtval := tval } }

/-- Take a trap: enter it and, when it comes from U-mode, record it in the trace and trigger under TMODE 2. -/
def Hart.takeTrap (h : Hart) (cycle : Nat) (intr : Bool) (code : Nat) (tval epc : Word) : Hart :=
  let h' := { h.enterTrap intr code tval epc with partials := [], entering := [], st := h.st.filter (fun p => p.amo.isNone) }
  if h.mode = .u then
    let h' := h'.record cycle 0 8 (epc <<< 8 ||| BitVec.ofNat 64 (code % 256))
    if fld h'.dev.trcfg 10 2 = 2 then h'.trigger cycle else h'
  else h'

/-- The current hart takes an exception at its current instruction. -/
def State.trap (s : State) (code : Nat) (tval : Word) : State :=
  s.modMe (fun h => h.takeTrap s.cycle false code tval h.pc)

/-- SRET: the mode of SPP, the enable of SPIE, the pc of sepc. MPRV is cleared when the mode left for is not M-mode. -/
def Hart.doSret (h : Hart) : Hart :=
  let p := h.priv
  let md := if p.mstatus.getLsbD 8 then Mode.s else Mode.u
  let st := setFld p.mstatus 1 1 (if p.mstatus.getLsbD 5 then 1 else 0)
  let st := setFld (setFld (setFld st 5 1 1) 8 1 0) 17 1 0
  { h with mode := md, npc := p.sepc, priv := { p with mstatus := st } }

/-- MRET. -/
def Hart.doMret (h : Hart) : Hart :=
  let p := h.priv
  let md := Mode.ofCode (fld p.mstatus 11 2).toNat
  let st := setFld p.mstatus 3 1 (if p.mstatus.getLsbD 7 then 1 else 0)
  let st := setFld (setFld st 7 1 1) 11 2 0
  let st := if md = .m then st else setFld st 17 1 0
  { h with mode := md, npc := p.mepc, priv := { p with mstatus := st } }

/-! ## What a meaning answers -/

/-- The outcome of an instruction, or of a part of one: done with a value; not yet, in which case the instruction stays
at its place and runs again (what changed is only requests it sent); or an exception. -/
inductive Act (α : Type) where
  | ok (a : α) (s : State)
  | stall (s : State)
  | trap (cause : Nat) (tval : Word) (s : State)
  deriving Repr

/-- Go on with the value. -/
def Act.andThen {α β : Type} (a : Act α) (f : α → State → Act β) : Act β :=
  match a with
  | .ok v s => f v s
  | .stall s => .stall s
  | .trap c v s => .trap c v s

/-- The order of R165 in which conditions are raised. -/
def causeRank (c : Nat) : Nat :=
  match c with
  | 12 => 0 | 1 => 1 | 0 => 2 | 26 => 3 | 2 => 4 | 3 => 5 | 8 => 5 | 9 => 5 | 10 => 5 | 11 => 5
  | 31 => 6 | 30 => 7 | 48 => 8 | 49 => 9 | 24 => 10 | 25 => 11 | 28 => 12 | 4 => 13 | 6 => 13
  | 13 => 14 | 15 => 14 | 5 => 15 | 7 => 15 | 29 => 16 | _ => 17

/-- Illegal instruction, with the encoding in stval (R160). -/
def illegal {α : Type} (s : State) : Act α := .trap 2 s.me.ir s

/-- The instruction completes: the pc moves on and it counts as retired. -/
def Hart.retire (h : Hart) : Hart := { h with pc := h.npc, instret := h.instret + 1, partials := [], entering := [] }

/-- The instruction joins the tokens among the registers it names (R168, R276). -/
def Hart.join (h : Hart) (xs : List Nat) : Hart :=
  xs.foldl (fun h n => let t := h.token n; if t.unjoined then h.raise t.time else h) h

/-- After a join the register is a plain register again, unless the instruction has made it a token anew; the trace records
the join (R185, kind 7). `old` is the hart before the instruction. -/
def Hart.joined1 (old : Hart) (cycle : Nat) (h : Hart) (n : Nat) : Hart :=
  let t := old.token n
  if t.unjoined then
    (if h.token n = t then h.setToken n { t with unjoined := false } else h).record cycle 5 7
      (BitVec.ofNat 64 (t.status * 256 + n))
  else h

def Hart.joined (h old : Hart) (cycle : Nat) (xs : List Nat) : Hart := xs.foldl (Hart.joined1 old cycle) h

/-- A register that is not ready: a transfer's token, a destination of a matrix request (R190, R454), or a register that a
repetition block still writes (R202). -/
def Hart.xBusy (h : Hart) (n : Nat) : Bool :=
  (h.token n).pending || h.xwait.any (fun w => w.1 == n) || (h.lane.active && h.lane.wx.contains n)
def Hart.vBusy (h : Hart) (n : Nat) : Bool :=
  h.vwait.any (fun w => w.1 == n) || (h.lane.active && h.lane.wv.contains n)

/-- Some of the x and v registers that an instruction names are not ready (R189). -/
def Hart.notReady (h : Hart) (xs vs : List Reg) : Bool :=
  ((xs.map (·.toNat)).filter (· != 0)).any h.xBusy || (vs.map (·.toNat)).any h.vBusy

/-- The transfer report of R161. -/
def report (status kind reg : Nat) : Word := BitVec.ofNat 64 (status * 256 + kind * 32 + reg)

/-- A trap: the instruction has no effect on the clock either, unless it has joined what failed (R163, R168). -/
def State.trapFrom (s : State) (pts code : Nat) (tval : Word) : State :=
  (if code = 28 then s else s.modMe (fun h => { h with pts := pts })).trap code tval

/-- Execute an instruction that names the x registers `xs` and the vector registers `vs`. It waits until they are ready
(R189, R190), joins the tokens among them (R168), and traps with cause 28 on a token whose transfer failed, unless a
condition that R165 ranks before it is met. -/
def ins (xs : List Reg) (vs : List Reg) (body : State → Act Unit) (s : State) : Result :=
  let ns := (xs.map (·.toNat)).filter (· != 0)
  let h := s.me
  if h.notReady xs vs then .next s
  else
    match ns.find? (fun n => (h.token n).fpend) with
    | some n =>
      let early :=
        match body (s.modMe (·.join ns)) with
        | .trap c v s' => if causeRank c < causeRank 28 then some (c, v, s') else none
        | _ => none
      match early with
      | some (c, v, s') => .next (s'.trapFrom s.me.pts c v)
      | none =>
        let s := s.modMe (fun h => (h.join [n]).setToken n { h.token n with fpend := false })
        .next (s.trap 28 (report (h.token n).status 0 n))
    | none =>
      match body (s.modMe (·.join ns)) with
      | .ok _ s' => .next (s'.modMe (fun h => (h.joined s.me s.cycle ns).retire))
      | .stall s' => .next s'
      | .trap c v s' => .next (s'.trapFrom s.me.pts c v)

/-- An instruction below its lowest mode is illegal (R318, R325). -/
def atLeast (lowest : Mode) (body : State → Act Unit) (s : State) : Act Unit :=
  if s.me.mode.code < lowest.code then illegal s else body s

end Sys2Proof.Machine
end

