-- ==== Sys2Proof/Machine/Coherence.lean ====
section
/-! DEFINITION. Coherence in logical time (11): what a home does with a request, what a hart does with a reply, the store
buffer's head, and the accesses of engines and of the device itself. -/

namespace Sys2Proof.Machine

/-- The key of an L1 line: line number and home. -/
def l1Key (line home : Nat) : Nat := line * 65536 + home

/-- Is the home a host-line proxy (R249)? -/
def isProxy (home : Nat) : Bool := decide (0x3000 ≤ home)

/-- The die a home is on. -/
def dieOfHome (home : Nat) : Nat := if isProxy home then portDie (home - 0x3000) else dieOf home

/-- A line of a home. -/
def Home.line (hm : Home) (n : Nat) : HomeLine := Store.get ({} : HomeLine) hm.lines n

/-! ## Granules (R235, R242, R243, R249) -/

/-- The granule that holds address `a`, if one is listed. -/
def Home.findGranule (hm : Home) (a : Nat) : Option Granule :=
  hm.granules.find? (fun g => decide (g.base ≤ a) && decide (a < g.base + 2 ^ g.lg))

/-- A granule with its rts raised to the floor (R245). -/
def Home.floored (hm : Home) (g : Granule) : Granule := { g with rts := max g.rts hm.floor }

/-- The size, as a power of two, of a granule created for `a`: 64 KiB, or the largest aligned range in which no line is resident
yet (R235: a granule is created when the first line of its range enters the slice). -/
def Home.freshLg (hm : Home) (a : Nat) : Nat :=
  ([16, 15, 14, 13, 12, 11, 10, 9, 8, 7].find? (fun lg =>
    !hm.granules.any (fun x => x.base / 2 ^ lg == a / 2 ^ lg))).getD 6

/-- The granule of `a`, created if there is none: 64 KiB at mts for a slice (R235), 64 bytes at max(H, F) + 1 for a
proxy (R249). -/
def Home.granule (hm : Home) (proxy : Bool) (a : Nat) : Granule :=
  match hm.findGranule a with
  | some g => hm.floored g
  | none =>
    if proxy then
      let t := max hm.hclk hm.floor + 1
      { base := a / 64 * 64, lg := 6, wts := t, rts := t }
    else
      let lg := hm.freshLg a
      hm.floored { base := a / 2 ^ lg * 2 ^ lg, lg := lg, wts := hm.mts, rts := hm.mts }

/-- Put a granule in place of whatever lies in its range. -/
def Home.putGranule (hm : Home) (g : Granule) : Home :=
  { hm with granules := g :: hm.granules.filter (fun x => !(decide (g.base ≤ x.base) && decide (x.base < g.base + 2 ^ g.lg))) }

/-- Does an owned line lie in the range? -/
def Home.ownedIn (hm : Home) (base size : Nat) : Bool :=
  hm.lines.any (fun l => l.2.owner.isSome && decide (base ≤ 64 * l.1) && decide (64 * l.1 < base + size))

/-- The merge of two sibling halves, made at a request for a line of either (R242). -/
def Home.merge (hm : Home) (proxy : Bool) (a : Nat) : Home :=
  if proxy then hm
  else
    match hm.findGranule a with
    | none => hm
    | some g =>
      if 16 ≤ g.lg then hm
      else
        let size := 2 ^ g.lg
        let parent := g.base / (2 * size) * (2 * size)
        let sib := if g.base = parent then parent + size else parent
        match hm.granules.find? (fun x => x.base == sib && x.lg == g.lg) with
        | none => hm
        | some x =>
          if hm.ownedIn parent (2 * size) || decide (hm.hclk < max g.wts x.wts + 4096) then hm
          else hm.putGranule { base := parent, lg := g.lg + 1, wts := max g.wts x.wts, rts := max g.rts x.rts }

/-- Is a line of the range resident? -/
def Home.residentIn (hm : Home) (base size : Nat) : Bool :=
  hm.lines.any (fun l => decide (base ≤ 64 * l.1) && decide (64 * l.1 < base + size))

/-- split_if_conflicting (R242) at a resident line: each half has an entry while a line of it is resident (R235). -/
def Home.split (hm : Home) (proxy : Bool) (a : Nat) : Home :=
  let g := hm.granule proxy a
  if 6 < g.lg && g.wts < g.rts then
    let half := 2 ^ (g.lg - 1)
    let lo : Granule := { g with lg := g.lg - 1 }
    let hi : Granule := { g with lg := g.lg - 1, base := g.base + half }
    let own := if a < hi.base then lo else hi
    let other := if a < hi.base then hi else lo
    let hm := (hm.putGranule g).putGranule own
    let hm := { hm with granules := hm.granules.filter (fun x => x = own || x.base != g.base) }
    if hm.residentIn other.base half then hm.putGranule other else hm
  else hm.putGranule g

/-- home_read without an owner (R236): the home, wts and the grant. -/
def Home.read (hm : Home) (proxy : Bool) (a p lease : Nat) : Home × Nat × Nat :=
  let hm := hm.merge proxy a
  let g := hm.granule proxy a
  let grant := max p g.wts + (if proxy then 1 else lease)
  (({ hm with hclk := max hm.hclk grant }).putGranule { g with rts := max g.rts grant }, g.wts, grant)

/-- home_own without another owner (R238): the home, wts and rts. -/
def Home.own (hm : Home) (proxy : Bool) (a h inc asid : Nat) : Home × Nat × Nat :=
  let hm := (hm.merge proxy a).split proxy a
  let g := hm.granule proxy a
  let l := hm.line (lineNo a)
  ({ hm with lines := Store.put hm.lines (lineNo a) { l with owner := some (h, inc), asid := asid } }, g.wts, g.rts)

/-- A line that has been written differs from HBM (R206). -/
def Home.markDirty (hm : Home) (n : Nat) : Home :=
  match Store.find? hm.lines n with
  | some l => { hm with lines := Store.put hm.lines n { l with dirty := true } }
  | none => hm

/-- home_write without an owner (R241): the home and the time. -/
def Home.write (hm : Home) (proxy : Bool) (a t0 : Nat) : Home × Nat :=
  let hm := (hm.merge proxy a).split proxy a
  let g := hm.granule proxy a
  let t := max t0 (g.rts + 1)
  ((({ hm with hclk := max hm.hclk t }).putGranule { g with wts := t, rts := t }).markDirty (lineNo a), t)

/-- home_engine_read without an owner (R241): the home and the time. -/
def Home.engineRead (hm : Home) (proxy : Bool) (a clk : Nat) : Home × Nat :=
  let hm := hm.merge proxy a
  let g := hm.granule proxy a
  let t := max clk g.wts
  (({ hm with hclk := max hm.hclk t }).putGranule { g with rts := max g.rts t }, t)

/-- The home's part of a recall reply or an eviction (R239, R237). -/
def Home.applyReply (hm : Home) (proxy : Bool) (a wts rts : Nat) (hasData : Bool) : Home :=
  let hm := if hasData then hm.split proxy a else hm
  let g := hm.granule proxy a
  let g := if hasData then { g with wts := max g.wts wts } else g
  let g := { g with rts := max g.rts rts }
  let hm := { hm with hclk := max hm.hclk g.rts }
  let l := hm.line (lineNo a)
  ({ hm with lines := Store.put hm.lines (lineNo a) { l with owner := none, dirty := l.dirty || hasData } }).putGranule g

/-- A line enters the home. A proxy has assigned the line's times, so its high-water mark covers them (R249). -/
def Home.addLine (hm : Home) (proxy : Bool) (a asid : Nat) (hostOwned : Bool) : Home :=
  let l := hm.line (lineNo a)
  let g := hm.granule proxy a
  let hm := hm.putGranule g
  let hm := if proxy then { hm with hclk := max hm.hclk g.wts } else hm
  { hm with lines := Store.put hm.lines (lineNo a) { l with asid := asid, hostOwned := l.hostOwned || hostOwned } }

/-- A line leaves the home: mts rises to its granule's times (R243), and the granule goes with its last line (R235). -/
def Home.dropLine (hm : Home) (proxy : Bool) (line : Nat) : Home :=
  let g := hm.granule proxy (64 * line)
  let hm := { hm with mts := max hm.mts (max g.wts g.rts), lines := Store.del hm.lines line }
  if hm.residentIn g.base (2 ^ g.lg) then hm
  else { hm with granules := hm.granules.filter (fun x => x.base != g.base) }

/-- A slice writes a line back to HBM and keeps it (R243, R414): mts rises to its granule's times. -/
def Home.cleanLine (hm : Home) (line : Nat) : Home :=
  let l := hm.line line
  if l.dirty then
    let g := hm.granule false (64 * line)
    { hm with mts := max hm.mts (max g.wts g.rts), lines := Store.put hm.lines line { l with dirty := false } }
  else hm

/-- The lines, one of which must leave before another line can enter: a slice has 128 sets of 16 ways (R206; the set is the low
bits of the line number, log 103), a proxy holds 16,384 lines (R249). -/
def Home.rivals (hm : Home) (proxy : Bool) (line : Nat) : List Nat :=
  if proxy then (if 16384 ≤ hm.lines.length then hm.lines.map (·.1) else [])
  else
    let set := (hm.lines.map (·.1)).filter (fun n => n % 128 == line % 128)
    if 16 ≤ set.length then set else []

/-- The owner of a line at a home. -/
def Home.owner (hm : Home) (line : Nat) : Option (Nat × Nat) := (hm.line line).owner

/-- Does the home hold the line? -/
def Home.holds (hm : Home) (line : Nat) : Bool := (Store.find? hm.lines line).isSome

/-! ## The hart's side -/

/-- A hart's L1 line. -/
def Hart.l1At (h : Hart) (key : Nat) : Option L1Line := Store.find? h.l1 key
def Hart.putL1 (h : Hart) (key : Nat) (l : L1Line) : Hart := { h with l1 := Store.put h.l1 key l }
def Hart.dropL1 (h : Hart) (key : Nat) : Hart := { h with l1 := Store.del h.l1 key }

/-- Forget the reservation on an L1 line. -/
def Hart.unreserve (h : Hart) (key : Nat) : Hart :=
  if h.resv = some { vault := false, key := key } then { h with resv := none } else h

/-- hart_store on an owned line (R238): the hart after it. -/
def Hart.storeOwned (h : Hart) (key : Nat) (l : L1Line) (mask : BitVec 64) (d : Line) : Hart :=
  let t := max h.pts (l.rts + 1)
  let whole := mask = BitVec.allOnes 64
  ({ h with pts := t }).putL1 key
    { l with data := lineMerge mask l.data d, wts := t, rts := t, dirty := true, poison := l.poison && !whole }

/-- The lines of the set of a line in a hart's L1: 128 sets, physically indexed (R206). -/
def Hart.l1Set (h : Hart) (key : Nat) : List (Nat × L1Line) :=
  h.l1.filter (fun l => l.1 / 65536 % 128 == key / 65536 % 128)

/-- The result of a read-modify-write of `size` bytes: the new value, and whether it writes (R272, R308). -/
def amoResult (op : AmoOp) (size old v cmp : Nat) : Nat × Bool :=
  let w := 8 * size
  let a := natToInt w old
  let b := natToInt w v
  match op with
  | .swap => (v % 2 ^ w, true)
  | .add => ((old + v) % 2 ^ w, true)
  | .xor => (old ^^^ v % 2 ^ w, true)
  | .and => (old &&& v % 2 ^ w, true)
  | .or => (old ||| v % 2 ^ w, true)
  | .min => (if a ≤ b then old else v % 2 ^ w, true)
  | .max => (if a ≤ b then v % 2 ^ w else old, true)
  | .minu => (min old (v % 2 ^ w), true)
  | .maxu => (max old (v % 2 ^ w), true)
  | .cas => if old = cmp % 2 ^ w then (v % 2 ^ w, true) else (old, false)

/-- An AMO in an owned copy (R238): the old value, or none where the copy is poisoned (R230), and the hart after it. An amocas
whose comparison fails is a load of the copy. -/
def Hart.amoIn (h : Hart) (key : Nat) (l : L1Line) (a : AmoReq) : Option Nat × Hart :=
  if l.poison then (none, h)
  else
    let off := a.addr % 64
    let old := lineGet l.data off a.size
    let (new, wr) := amoResult a.op a.size old a.val a.cmp
    if wr then (some old, h.storeOwned key l (byteMask off a.size) (BitVec.ofNat 512 (new * 2 ^ (8 * off))))
    else
      let h := h.raise l.wts
      (some old, h.putL1 key { l with rts := max l.rts h.pts })

/-- The head of a store buffer is the store that waits for ownership of this line. -/
def Hart.headWants (h : Hart) (key : Nat) : Bool :=
  match h.sb, h.st with
  | e :: _, some p => p.kind == .own && p.key == key && l1Key (lineNo e.place.addr) e.place.home == key
  | _, _ => false

/-- The AMO that waits in the store buffer for ownership of this line. -/
def Hart.amoWants (h : Hart) (key : Nat) : Option (Pend × AmoReq) :=
  match h.st with
  | some p => if p.key = key && !p.answered then p.amo.map (fun a => (p, a)) else none
  | none => none

/-- A recalled owner performs the store or the AMO it asked ownership for, if that still waits (R239). -/
def Hart.storeFirst (h : Hart) (key : Nat) : Hart :=
  match h.l1At key with
  | none => h
  | some l =>
    if l.st ≠ .owned then h
    else if h.headWants key then
      match h.sb with
      | e :: r => { h.storeOwned key l e.mask e.data with sb := r, st := none }
      | [] => h
    else
      match h.amoWants key with
      | some (p, a) =>
        let (old, h) := h.amoIn key l a
        { h with st := some { p with done := true, answered := true, val := old.getD 0,
                                     fault := if old.isNone then some 29 else none } }
      | none => h

/-- The time that a store to an owned line would take (R238). -/
def Hart.storeTime (h : Hart) (key : Nat) : Nat :=
  match h.l1At key with
  | some l => max h.pts (l.rts + 1)
  | none => h.pts

/-- The owner's answer to a recall: it keeps a shared copy (R239). -/
def Hart.surrender (h : Hart) (key : Nat) : Hart × Option L1Line :=
  let h := (h.storeFirst key)
  match h.l1At key with
  | some l =>
    if l.st = .owned then ((h.unreserve key).putL1 key { l with st := .shared, dirty := false }, some l) else (h, none)
  | none => (h, none)

/-- An ownership grant reaches the hart (R238). A grant without data keeps the data of the copy the hart holds. -/
def Hart.takeOwned (h : Hart) (key wts rts : Nat) (data : Option Line) (poison : Bool) (kind : PlaceKind) (asid : Nat) :
    Hart :=
  match data, h.l1At key with
  | some d, _ =>
    let h := h.putL1 key { st := .owned, kind := kind, wts := wts, rts := rts, data := d, poison := poison, asid := asid }
    { h with st := h.st.map (fun p => if p.key = key then { p with done := true } else p) }
  | none, some l =>
    let h := h.putL1 key { l with st := .owned, wts := wts, rts := rts }
    { h with st := h.st.map (fun p => if p.key = key then { p with done := true } else p) }
  | none, none => { h with st := none }

/-- The current incarnation of an agent (R251). -/
def State.incOf (s : State) (agent : Nat) : Nat :=
  if agent < 0x1000 then (s.hart agent).inc
  else if agent < 0x2000 then (s.quad (agent - 0x1000)).copyInc
  else if agent < 0x3000 then Store.get 0 s.ladleInc (agent - 0x2000)
  else (s.port (agent - 0x3000)).inc

/-! ## Messages in flight -/

def State.msg (s : State) (id : Nat) : Option Msg := Store.find? s.msgs id
def State.dropMsg (s : State) (id : Nat) : State := { s with msgs := Store.del s.msgs id }
def State.dropMsgs (s : State) (p : Msg → Bool) : State := { s with msgs := s.msgs.filter (fun m => !p m.2) }

/-- The receiver, the home and the line of a home's answer to a hart. -/
def Msg.answers : Msg → Option (Nat × Nat × Nat)
  | .readReply dst home line .. => some (dst, home, line)
  | .ownReply dst home line .. => some (dst, home, line)
  | .ack dst home line .. => some (dst, home, line)
  | _ => none

/-- An answer would overtake an earlier one from the same home about the same line (log 104). -/
def State.overtakes (s : State) (id dst home line : Nat) : Bool :=
  s.msgs.any (fun m => decide (m.1 < id) && m.2.answers == some (dst, home, line))

/-- Sender, home and line of a request to a home. -/
def Msg.request : Msg → Option (Nat × Nat × Nat)
  | .read src _ home line _ _ _ _ _ => some (src, home, line)
  | .own src _ home line _ _ _ => some (src, home, line)
  | .write src _ home line _ _ _ _ => some (src, home, line)
  | .amo src _ home addr _ _ _ _ _ _ => some (src, home, addr / 64 * 64)
  | .lrRead src _ home addr _ _ _ => some (src, home, addr / 64 * 64)
  | _ => none

/-- Sender and home of the message that returns an owned line. -/
def Msg.returner : Msg → Option (Nat × Nat)
  | .recallReply src _ home .. => some (src, home)
  | .evict src _ home .. => some (src, home)
  | _ => none

/-- A request waits while an earlier message of the same sender to the same home, or an earlier request for the same line, is
unserved (11, "Requests at the home"). What returns a line waits for nothing (log 104). -/
def State.blocked (s : State) (id : Nat) (src home line : Nat) : Bool :=
  s.msgs.any (fun m => decide (m.1 < id) &&
    (m.2.returner == some (src, home) ||
     (match m.2.request with
      | some (s', h', l') => h' == home && (s' == src || l' == line)
      | none => false)))

def Msg.isRecallOf (home line : Nat) : Msg → Bool
  | .recallMsg hm l _ _ => hm == home && l == line
  | .recallReply _ _ hm l _ _ _ _ => hm == home && l == line
  | _ => false

/-- The message that returns an owned line of this home. -/
def Msg.returns (home line : Nat) : Msg → Bool
  | .recallReply _ _ hm l _ _ _ _ => hm == home && l == line
  | .evict _ _ hm l _ _ _ _ => hm == home && l == line
  | _ => false

def Msg.isFillOf (home line : Nat) : Msg → Bool
  | .fill _ hm l _ => hm == home && l == line
  | .hostFetch hm l _ => hm == home && l == line
  | _ => false

/-- Write an owner's data through to memory and apply its times. -/
def State.applyReturn (s : State) (home line wts rts : Nat) (data : Option Line) (poison : Bool) : State :=
  let s := match data with
    | some d => if poison then (s.writeLine line d).setPoison line else (s.writeLine line d).clearPoison line
    | none => s
  s.modHome home (·.applyReply (isProxy home) line wts rts data.isSome)

/-! ## The time base of a die (R245) -/

def rebaseStride : Nat := 2 ^ 22
/-- The offset at which a rebase step is due. -/
def rebaseLimit : Nat := 0xC00000

/-- Does a timestamp fit below B + 0xC0_0000 on a die? -/
def State.fits (s : State) (d t : Nat) : Bool := decide (t < (s.die d).base + rebaseLimit)

def State.modDie (s : State) (d : Nat) (f : Die → Die) : State := { s with dies := Store.put s.dies d (f (s.die d)) }

/-- The harts present on a die. -/
def State.hartsOfDie (s : State) (d : Nat) : List Nat := (s.quadsOfDie d).flatMap (fun q => (List.range 4).map (hartOf q))

/-- The slices and proxies of the package. -/
def State.allHomes (s : State) : List Nat := (List.range 4).flatMap s.hartsOfDie ++ [0x3000, 0x3001]

/-- The timestamps of an L1 line after the rewriting of step 3. -/
def L1Line.rebase (l : L1Line) (b : Nat) : L1Line := { l with wts := max l.wts b, rts := max l.rts b }

/-- Steps 2 to 4: the harts, the L1s and the base of a die take up the new base. -/
def State.setBase (s : State) (d b : Nat) : State :=
  ((s.hartsOfDie d).foldl (fun s h =>
    s.modHart h (fun x => { x.raise b with l1 := x.l1.map (fun l => (l.1, l.2.rebase b)) })) s).modDie d
      (fun x => { x with base := b, rebasing := false, acked := [] })

/-- As many steps as a timestamp needs to fit, taken at once for an access that an engine or the device itself makes. -/
def State.rebaseTo (s : State) (d t : Nat) : State :=
  if s.fits d t then s
  else
    let b0 := (s.die d).base
    let b := b0 + ((t - (b0 + rebaseLimit)) / rebaseStride + 1) * rebaseStride
    (s.allHomes.foldl (fun s h => s.modHome h (fun m => { m with floor := max m.floor b })) s).setBase d b

/-! ## Recalls -/

/-- A line of a dead owner at its home: the ownership is dropped, the home's copy poisoned, its times raised (R253). -/
def State.declareLine (s : State) (home n : Nat) : State :=
  let m := s.home home
  let g := m.granule (isProxy home) (64 * n)
  let t := max m.hclk m.floor + 1
  let m := { m with hclk := t, lines := Store.put m.lines n { m.line n with owner := none } }
  (s.setHome home (m.putGranule { g with wts := t, rts := t })).setPoison (64 * n)

/-- A message of an agent declared dead since it was sent is discarded (R254). -/
def State.staleMsg (s : State) (id src inc line : Nat) : Option State :=
  if s.incOf src = inc then none
  else some ((s.dropMsg id).audit 0x0031 0xF000 0 (payload3 src inc line))

/-- A return of a line that is on its way reaches the home (R237, R239). -/
def State.takeReturn (s : State) (id : Nat) (m : Msg) : State :=
  match m with
  | .recallReply o oi home line w r d p | .evict o oi home line w r d p =>
    match s.staleMsg id o oi line with
    | some s' => s'
    | none => (s.dropMsg id).applyReturn home line w r d p
  | _ => s

/-- Is a line's grant to its owner on its way? -/
def Msg.grants (o home line : Nat) : Msg → Bool
  | .ownReply d' h' l' .. => d' == o && h' == home && l' == line
  | _ => false

/-- A hart's L1 keeps to its eight ways: a line that came in for a recall alone is dropped again (R206, R237). -/
def Hart.trimL1 (h : Hart) (key : Nat) : Hart := if 8 < (h.l1Set key).length then h.dropL1 key else h

/-- Settle the ownership of a line at once, for an access that an engine or the device itself makes: a return in flight is
applied, a grant in flight is delivered, and the owner surrenders the line as for a recall (R239). A dead owner's line is
declared (R253). `line` is the byte address of the line. -/
def State.recallNow (s : State) (home line : Nat) : State :=
  match (s.home home).owner (lineNo line) with
  | none => s
  | some (o, oi) =>
    let key := l1Key (lineNo line) home
    let s := s.dropMsgs (fun m => match m with | .recallMsg h' l' _ _ => h' == home && l' == line | _ => false)
    if s.incOf o != oi then s.declareLine home (lineNo line)
    else
      match s.msgs.find? (fun m => m.2.returns home line && m.2.returner == some (o, home)) with
      | some (id, m) => s.takeReturn id m
      | none =>
        let s :=
          match s.msgs.find? (fun m => m.2.grants o home line) with
          | some (id, .ownReply _ _ _ w r d p k a) => (s.dropMsg id).modHart o (·.takeOwned key w r d p k a)
          | _ => s
        let s := s.rebaseTo (dieOf o) ((s.hart o).storeTime key)
        let (h, l) := (s.hart o).surrender key
        let s := s.setHart o (h.trimL1 key)
        match l with
        | some l => s.applyReturn home line l.wts l.rts (if l.dirty then some l.data else none) l.poison
        | none => s.modHome home (·.applyReply (isProxy home) line 0 0 false)

/-- The line's value in the coherent order: the owner's copy, or memory. -/
def State.peekLine (s : State) (line : Nat) : Line :=
  let n := lineNo line
  let owned := firstSome (fun hm : Nat × Home => (hm.2.owner n).map (fun o => (hm.1, o.1))) s.homes
  match owned with
  | some (home, o) =>
    match s.msgs.find? (fun m => m.2.returns home line) with
    | some (_, .recallReply _ _ _ _ _ _ (some d) _) => d
    | some (_, .evict _ _ _ _ _ _ (some d) _) => d
    | some _ => s.readLine line
    | none =>
      match (s.hart o).l1At (l1Key n home) with
      | some l => if l.st = .owned && l.dirty then l.data else s.readLine line
      | none => s.readLine line
  | none => s.readLine line

/-- Bytes in the coherent order. -/
def State.peekBytes (s : State) (a n : Nat) : List Byte :=
  if s.homes.all (fun hm => hm.2.lines.all (fun l => l.2.owner.isNone)) then s.readBytes a n
  else (List.range n).map (fun i => BitVec.ofNat 8 (lineGet (s.peekLine ((a + i) / 64 * 64)) ((a + i) % 64) 1))

def State.peekNat (s : State) (a n : Nat) : Nat := ofBytes (s.peekBytes a n)

/-! ## Homes of physical addresses (R217) -/

/-- s := (L[19:0] ^ L[39:20]) mod n. -/
def lineHash (a n : Nat) : Nat :=
  let l := a / 64
  (natBits l 0 20 ^^^ natBits l 20 20) % n

/-- The default physical home of an HBM address (R217): the quads of a die are present from 0 on (R2). -/
def State.physHome (s : State) (a : Nat) : Nat :=
  let d := a / Config.dieBytes
  let x := lineHash a (4 * s.grade.quads)
  d * 1024 + x / 4 * 4 + x % 4

/-! ## Accesses of engines and of the device at a home (R241) -/

/-- Make room for a line at its home: a line of its set leaves, recalled from its owner and written back if it is dirty (R206,
R216, R243); which one is a free choice (log 103). Also says whether it was written back. -/
def State.makeRoom (s : State) (home line : Nat) : Bool × State :=
  if (s.home home).holds (lineNo line) then (false, s)
  else
    match (s.home home).rivals (isProxy home) (lineNo line) with
    | [] => (false, s)
    | n :: ns =>
      let (f, s) := s.fresh64
      let v := (n :: ns).getD (f.toNat % (ns.length + 1)) n
      let s := s.recallNow home (64 * v)
      (((s.home home).line v).dirty, s.modHome home (·.dropLine (isProxy home) v))

/-- Make a line resident at its home (R216, R249). -/
def State.ensureLine (s : State) (home line asid : Nat) (write : Bool) : State :=
  let hm := s.home home
  let l := hm.line (lineNo line)
  if hm.holds (lineNo line) && (!isProxy home || !write || l.hostOwned) then s
  else
    let s := (s.dropMsgs (·.isFillOf home line)).makeRoom home line
    s.2.modHome home (·.addLine (isProxy home) line asid write)

/-- Held renewals of a granule are answered when its wts changes (R247): the answers. -/
def State.answerHeld (s : State) (home : Nat) (pick : Held → Bool) : State :=
  let hm := s.home home
  let ready := hm.held.filter pick
  let s := s.modHome home (fun hm => { hm with held := hm.held.filter (fun x => !pick x) })
  ready.foldl (fun s x => s.send (.read x.hart x.inc home x.line x.pts (some x.w) x.lease 2 x.asid)) s

/-- The held renewals whose granule has changed its wts. -/
def State.wakeHeld (s : State) (home : Nat) : State :=
  let hm := s.home home
  if hm.held.isEmpty then s
  else s.answerHeld home (fun x => (hm.granule (isProxy home) x.line).wts != x.w)

/-- home_engine_read, with the recall it needs made at once: the line, its time and whether it is poisoned. -/
def State.engineRead (s : State) (home line clk asid : Nat) : Line × Nat × Bool × State :=
  let s := s.ensureLine home line asid false
  let s := s.recallNow home line
  let (hm, t) := (s.home home).engineRead (isProxy home) line clk
  let s := s.setHome home hm
  let s := s.wakeHeld home
  (s.readLine line, t, s.poisoned line, s)

/-- Write bytes of a line at memory, whole-line writes clearing its poison (R230). -/
def State.putLine (s : State) (line : Nat) (mask : BitVec 64) (d : Line) : State :=
  let s := s.writeLine line (lineMerge mask (s.readLine line) d)
  if mask = BitVec.allOnes 64 then s.clearPoison line else s

/-- home_write, with the recall it needs made at once: the time. -/
def State.engineWrite (s : State) (home line : Nat) (mask : BitVec 64) (d : Line) (t0 asid : Nat) : Nat × State :=
  let s := s.ensureLine home line asid true
  let s := s.recallNow home line
  let (hm, t) := (s.home home).write (isProxy home) line t0
  let s := (s.setHome home hm).putLine line mask d
  (t, s.wakeHeld home)

/-- The lines that a range of bytes touches, as byte addresses. -/
def linesOf (a n : Nat) : List Nat :=
  if n = 0 then [] else (List.range ((a + n - 1) / 64 - a / 64 + 1)).map (fun i => 64 * (a / 64 + i))

/-- The device writes bytes at physical addresses of HBM, at their default physical homes (R217), from clock `t0`: the
largest time. -/
def State.devWrite (s : State) (a : Nat) (bs : List Byte) (t0 : Nat) : Nat × State :=
  (linesOf a bs.length).foldl
    (fun (acc : Nat × State) line =>
      let lo := max a line
      let hi := min (a + bs.length) (line + 64)
      let part := (bs.drop (lo - a)).take (hi - lo)
      let d := BitVec.ofNat 512 (ofBytes part * 2 ^ (8 * (lo - line)))
      let (t, s) := acc.2.engineWrite (acc.2.physHome line) line (byteMask (lo - line) (hi - lo)) d t0 0
      (max acc.1 t, s))
    (t0, s)

/-- The device reads bytes at physical addresses of HBM, with the largest time; none when a line is poisoned. -/
def State.devRead (s : State) (a n clk : Nat) : Option (List Byte) × Nat × State :=
  let r := (linesOf a n).foldl
    (fun (acc : Bool × Nat × State) line =>
      let (_, t, p, s) := acc.2.2.engineRead (acc.2.2.physHome line) line acc.2.1 0
      (acc.1 || p, max acc.2.1 t, s))
    (false, clk, s)
  (if r.1 then none else some (r.2.2.readBytes a n), r.2.1, r.2.2)

/-- The device has read bytes at physical addresses: the reads are performed at the lines' default physical homes (R217), as
engine reads of clock 0. -/
def State.devTouch (s : State) (a n : Nat) : State := (s.devRead a n 0).2.2

/-- The device writes a number. -/
def State.devPut (s : State) (a n v t0 : Nat) : Nat × State := s.devWrite a (bytesOf n v) t0

/-- Is a posted store of a hart on its way to these bytes of another die's vault? The hart's later accesses to them wait until the vault has
performed it (R256, R259, R262). -/
def State.vaultPosted (s : State) (h addr n : Nat) : Bool :=
  s.msgs.any (fun m => match m.2 with
    | .vaultWrite src _ a mask _ _ => src == h && a == addr / 64 * 64 && (mask &&& byteMask (addr % 64) n) != 0
    | _ => false)

/-! ## Vault accesses (R211, R244) -/

/-- The unit of a vault address in the one memory. -/
def vaultAddr (q off : Nat) : Nat := Config.vaultBase + q * 0x800000 + off

/-- The block entry of a vault offset. -/
def Quad.block (q : Quad) (off : Nat) : Block := Store.get {} q.blocks (off / 65536)

/-- May a context of the ASID reach the offset (R211)? -/
def State.blockOk (s : State) (q off asid : Nat) : Bool :=
  let b := (s.quad q).block off
  b.kind != .free && b.asid == asid

/-- A store to a unit clears every reservation on it (R244). -/
def State.clearResv (s : State) (unit : Nat) : State :=
  { s with harts := s.harts.map (fun e =>
      if e.2.resv = some { vault := true, key := unit } then (e.1, { e.2 with resv := none }) else e) }

/-- Watches on a unit are answered with the time of the store (R247): the hart's wait ends. -/
def State.answerWatches (s : State) (q unit t : Nat) : State :=
  let hit := (s.quad q).watches.filter (fun w => w.unit == unit)
  if hit.isEmpty then s
  else
    let s := s.modQuad q (fun x => { x with watches := x.watches.filter (fun w => w.unit != unit) })
    hit.foldl (fun s w => s.modHart w.hart (fun h =>
      { h with ld := h.ld.map (fun p => if p.kind = .watch then { p with done := true, time := some t } else p) })) s

/-- A store, an AMO that writes, an update or a successful SC at a vault: bytes, vclk, reservations, watches. -/
def State.vaultStore (s : State) (q addr : Nat) (mask : BitVec 64) (d : Line) (clk : Nat) : Nat × State :=
  let t := max (s.quad q).vclk clk + 1
  let line := addr / 64 * 64
  let s := (s.putLine line mask d).modQuad q (fun x => { x with vclk := t })
  (t, (s.clearResv line).answerWatches q line t)

/-- Write `n` bytes inside one unit. -/
def State.vaultPut (s : State) (q addr n v clk : Nat) : Nat × State :=
  s.vaultStore q addr (byteMask (addr % 64) n) (BitVec.ofNat 512 (v * 2 ^ (8 * (addr % 64)))) clk

/-! ## The store buffer (R262) -/

/-- Fail a store (R43). -/
def State.failStore (s : State) (h bit target : Nat) : State := s.modHart h (·.addFail bit target true)

/-- Perform a store to a vault of the hart's die, or send it (R256, R262). -/
def State.drainVault (s : State) (h : Nat) (e : SbEntry) (rest : List SbEntry) : State :=
  let hh := s.hart h
  let q := e.place.home
  if dieOfQuad q = dieOf h then
    let (t, s) := s.vaultStore q e.place.addr e.mask e.data hh.pts
    s.modHart h (fun x => { x.raise t with sb := rest })
  else
    let s := s.modHart h (fun x => { x with sb := rest })
    match s.deadRoute (dieOf h) (dieOfQuad q) with
    | some d => s.failStore h failDeadlink (0x1000 + d)
    | none =>
      let s := s.modHart h (fun x => { x with unacked := x.unacked + 1 })
      s.send (.vaultWrite h hh.inc (e.place.addr / 64 * 64) e.mask e.data hh.pts)

/-- Is the line a host line whose port is down (R45)? -/
def State.portDown (s : State) (p : Place) : Bool := p.kind == .hostC && !(s.port (p.home - 0x3000)).up

/-- Perform a store to a cached line in an owned copy, ask for ownership, or post it (R238, R240). -/
def State.drainLine (s : State) (h : Nat) (e : SbEntry) (rest : List SbEntry) : State :=
  let hh := s.hart h
  let line := e.place.addr / 64 * 64
  let home := e.place.home
  let key := l1Key (lineNo line) home
  if dieOfHome home = dieOf h then
    match hh.l1At key with
    | some l =>
      if l.st = .owned then
        if s.fits (dieOf h) (hh.storeTime key) then s.setHart h { hh.storeOwned key l e.mask e.data with sb := rest, st := none }
        else s
      else if s.portDown e.place then
        (s.modHart h (fun x => { x with sb := rest, st := none })).failStore h failDeadlink (home - 0x1000)
      else if hh.st.any (fun p => p.key == key && !p.done) then s
      else
        let s := s.send (.own h hh.inc home line hh.pts (some l.wts) e.asid)
        s.modHart h (fun x => { x with st := some { kind := .own, key := key } })
    | none =>
      if s.portDown e.place then
        (s.modHart h (fun x => { x with sb := rest, st := none })).failStore h failDeadlink (home - 0x1000)
      else if hh.st.any (fun p => p.key == key && !p.done) then s
      else
        let s := s.send (.own h hh.inc home line hh.pts none e.asid)
        s.modHart h (fun x => { x with st := some { kind := .own, key := key } })
  else
    let s := s.modHart h (fun x => { x with sb := rest })
    match s.deadRoute (dieOf h) (dieOfHome home) with
    | some d => s.failStore h failDeadlink (0x1000 + d)
    | none =>
      if s.portDown e.place then s.failStore h failDeadlink (home - 0x1000)
      else
      let s := s.modHart h (fun x =>
        let x := { x with unacked := x.unacked + 1 }
        match x.l1At key with
        | some l => x.putL1 key { l with st := .pending, data := lineMerge e.mask l.data e.data, unacked := l.unacked + 1 }
        | none => x)
      s.send (.write h hh.inc home line e.mask e.data hh.pts e.asid)

/-- Send a store to a non-coherent host page (R256, R262): a port that is down fails it at once (R45). -/
def State.drainHost (s : State) (h : Nat) (e : SbEntry) (rest : List SbEntry) : State :=
  let s := s.modHart h (fun x => { x with sb := rest })
  let p := e.place.home
  match s.deadRoute (dieOf h) (portDie p) with
  | some d => s.failStore h failDeadlink (0x1000 + d)
  | none =>
    if (s.port p).up then
      let s := s.putLine (e.place.addr / 64 * 64) e.mask e.data
      s.modHart h (fun x => { x with postedPorts := Store.put x.postedPorts p (Store.get 0 x.postedPorts p + 1) })
    else s.failStore h failDeadlink (0x2000 + p)

/-- The head of a hart's store buffer goes on (R262). -/
def State.drainHead (s : State) (h : Nat) : State :=
  match (s.hart h).sb with
  | [] => s
  | e :: rest =>
    match e.place.kind with
    | .vault => s.drainVault h e rest
    | .hbm | .hostC => s.drainLine h e rest
    | .hostNC => s.drainHost h e rest

/-- Can the head go on now? -/
def State.canDrain (s : State) (h : Nat) : Bool :=
  let hh := s.hart h
  match hh.sb with
  | [] => false
  | e :: _ =>
    match e.place.kind with
    | .hbm | .hostC =>
      let key := l1Key (lineNo e.place.addr) e.place.home
      if dieOfHome e.place.home = dieOf h then
        (hh.l1At key).any (fun l => l.st == .owned && s.fits (dieOf h) (hh.storeTime key))
          || !(hh.l1At key).any (fun l => l.st == .owned) && !hh.st.any (fun p => p.key == key && !p.done)
      else true
    | _ => true

/-- A load's bytes in the store buffer (R262): none where no entry touches them; `some (some v)` forwarded from the
youngest entry that touches them; `some none` where it holds only a part. -/
def Hart.forward (h : Hart) (addr n : Nat) : Option (Option Nat) :=
  let line := lineNo addr
  let m := byteMask (addr % 64) n
  match h.sb.reverse.find? (fun e => lineNo e.place.addr == line && (e.mask &&& m) != 0) with
  | none => none
  | some e => if e.mask &&& m = m then some (some (lineGet e.data (addr % 64) n)) else some none

/-- Put a store into the buffer. -/
def Hart.pushStore (h : Hart) (p : Place) (mask : BitVec 64) (d : Line) (asid : Nat) : Hart :=
  { h with sb := h.sb ++ [{ place := p, mask := mask, data := d, asid := asid }] }

/-! ## Home events -/

/-- An L2 fill on behalf of the task of a hart: the line's bytes, and those of the line written back for it, if there is one (R132). -/
def State.countFill (s : State) (src : Nat) (wroteBack : Bool) : State :=
  if src < 0x1000 then
    s.tally (s.hart src).task (fun t => { t with bytes := t.bytes + 64 + (if wroteBack then 64 else 0) })
  else s

/-- The result of an access performed elsewhere reaches the hart. -/
def Hart.remoteDone (h : Hart) (val : Nat) (t : Option Nat) (fault : Option Nat) : Hart :=
  { h with ld := h.ld.map (fun p =>
      if p.kind = .remote then { p with done := true, val := val, time := t, fault := fault } else p) }

/-- A posted store of a hart to a line will not be acknowledged: the copy that waits for it loses one, and goes with the last. -/
def Hart.lostStore (h : Hart) (home line bit target : Nat) : Hart :=
  let key := l1Key (lineNo line) home
  let h := { h with unacked := h.unacked - 1 }.addFail bit target true
  match h.l1At key with
  | some l =>
    if l.st = .pending then (if l.unacked ≤ 1 then h.dropL1 key else h.putL1 key { l with unacked := l.unacked - 1 }) else h
  | none => h

/-- The line that a load asked for does not come: the load traps with this cause; an LWAIT loads again. -/
def Hart.lineFailed (h : Hart) (key cause : Nat) : Hart :=
  match h.ld with
  | some p =>
    if p.kind = .line && p.key = key then { h with ld := some { p with done := true, fault := some cause } }
    else if p.kind = .renew && p.key = key then { h with ld := none }
    else h
  | none => h

/-- The ownership that the head of the store buffer asked for does not come: a store is lost and counted, an AMO or LR traps. -/
def Hart.ownFailed (h : Hart) (key bit target cause : Nat) : Hart :=
  if h.headWants key then { h with sb := h.sb.drop 1, st := none }.addFail bit target true
  else
    { h with st := h.st.map (fun p : Pend => if p.key = key && !p.answered then { p with done := true, answered := true, fault := some cause } else p) }.addFail
      bit target false

/-- A request that a home cannot serve fails (R35, R43): `bit` and the target of the failure are noted for the hart; its load or AMO
traps, with cause 29 where the data is in error, its store is counted. -/
def State.failRequest (s : State) (id : Nat) (m : Msg) (bit target : Nat) (bad : Bool) : State :=
  let cause (c : Nat) : Nat := if bad then 29 else c
  let s := s.dropMsg id
  match m with
  | .read h _ home line .. => s.modHart h (fun x => (x.addFail bit target false).lineFailed (l1Key (lineNo line) home) (cause 5))
  | .own h _ home line .. => s.modHart h (·.ownFailed (l1Key (lineNo line) home) bit target (cause 7))
  | .write h _ home line .. => s.modHart h (·.lostStore home line bit target)
  | .amo h .. => s.modHart h (fun x => (x.addFail bit target false).remoteDone 0 none (some (cause 7)))
  | .lrRead h .. => s.modHart h (fun x => (x.addFail bit target false).remoteDone 0 none (some (cause 5)))
  | _ => s

/-- The die across a down link between a slice and the frame of a line that is not resident, as a target (R35). -/
def State.fillDead (s : State) (home line : Nat) : Option Nat :=
  if isProxy home || (s.home home).holds (lineNo line) then none
  else (s.deadRoute (dieOf home) (line / Config.dieBytes)).map (0x1000 + ·)

/-- Serve a request when its line is here and unowned; otherwise ask for what is missing (R216, R239). `write` says that
a proxy needs an owned copy. -/
def State.atHome (s : State) (id src inc home line asid : Nat) (write : Bool) (except : Option Nat)
    (serve : State → State) : State :=
  match s.staleMsg id src inc line with
  | some s' => s'
  | none =>
    if s.blocked id src home line then s
    else
      let hm := s.home home
      let l := hm.line (lineNo line)
      if !hm.holds (lineNo line) || (isProxy home && write && !l.hostOwned) then
        match s.fillDead home line, s.msg id with
        | some target, some m => s.failRequest id m failDeadlink target false
        | _, _ =>
          if s.msgs.any (fun m => m.2.isFillOf home line) then s
          else if isProxy home then s.send (.hostFetch home line write) else s.send (.fill src home line asid)
      else
        match l.owner with
        | some (o, oi) =>
          if some o = except then serve s
          else if s.msgs.any (fun m => m.2.isRecallOf home line || m.2.returns home line) then s
          else s.send (.recallMsg home line o oi)
        | none => serve s

/-- The answer to a read (R236). -/
def State.answerRead (s : State) (src home line p : Nat) (w : Option Nat) (lease : Nat) (marked : Bool) (asid : Nat) : State :=
  let (hm, wts, grant) := (s.home home).read (isProxy home) line p lease
  let s := s.setHome home hm
  let data := if w = some wts then none else some (s.readLine line)
  s.send (.readReply src home line wts grant data (data.isSome && s.poisoned line)
    (if isProxy home then .hostC else .hbm) marked asid)

/-- HOME_READ (R236, R247). -/
def State.homeRead (s : State) (id : Nat) : State :=
  match s.msg id with
  | some (.read src inc home line p w lease mark asid) =>
    s.atHome id src inc home line asid false none (fun s =>
      let s := s.dropMsg id
      let hm := s.home home
      let g := hm.granule (isProxy home) line
      match w with
      | some w' =>
        if mark = 1 && !isProxy home && g.wts = w' && decide (hm.held.length < 32) then
          s.modHome home (fun x =>
            { x with held := x.held ++
                [{ hart := src, inc := inc, line := line, pts := p, w := w', lease := lease, asid := asid }] })
        else s.answerRead src home line p w lease (mark != 0) asid
      | none => s.answerRead src home line p w lease (mark != 0) asid)
  | _ => s

/-- L2_MISS_FILL (R216, R235): a slice fetches the line from HBM, across the die links between them (R207), into the place that
a line of the set gives up. A fill whose way has gone down is not made: the requests that wait for it fail (R35). -/
def State.l2Fill (s : State) (id : Nat) : State :=
  match s.msg id with
  | some (.fill src home line asid) =>
    if (s.fillDead home line).isSome then s.dropMsg id
    else
      let (back, s) := (s.dropMsg id).makeRoom home line
      ((s.modHome home (·.addLine false line asid false)).wakeHeld home).countFill src back
  | _ => s

/-- HOME_OWN (R238): the grant, and the renewals of the line that are held are answered after it (R247). -/
def State.homeOwn (s : State) (id : Nat) : State :=
  match s.msg id with
  | some (.own src inc home line _ w asid) =>
    s.atHome id src inc home line asid true (some src) (fun s =>
      let s := s.dropMsg id
      let (hm, wts, rts) := (s.home home).own (isProxy home) line src inc asid
      let s := s.setHome home hm
      let data := if w = some wts then none else some (s.readLine line)
      let s := s.send (.ownReply src home line wts rts data (s.poisoned line)
        (if isProxy home then .hostC else .hbm) asid)
      s.answerHeld home (fun x => x.line == line))
  | _ => s

/-- HOME_WRITE (R241): a posted store, or an AMO at the home. An amocas that fails its comparison writes nothing and is
performed as a read (R240). -/
def State.homeWrite (s : State) (id : Nat) : State :=
  match s.msg id with
  | some (.write src inc home line mask d t0 asid) =>
    s.atHome id src inc home line asid true none (fun s =>
      let s := s.dropMsg id
      let (hm, t) := (s.home home).write (isProxy home) line t0
      let s := (s.setHome home hm).putLine line mask d
      let s := s.wakeHeld home
      s.send (.ack src home line t (s.readLine line) (s.poisoned line)))
  | some (.amo src inc home addr size op v cmp t0 asid) =>
    let line := addr / 64 * 64
    s.atHome id src inc home line asid true none (fun s =>
      let s := s.dropMsg id
      if s.poisoned line then
        let (hm, t) := (s.home home).engineRead (isProxy home) line t0
        (s.setHome home hm).modHart src (·.remoteDone 0 (some t) (some 29))
      else
        let old := s.readNat addr size
        let (new, wr) := amoResult op size old v cmp
        if wr then
          let (hm, t) := (s.home home).write (isProxy home) line t0
          let s := (s.setHome home hm).writeNat addr size new
          (s.wakeHeld home).modHart src (·.remoteDone old (some t) none)
        else
          let (hm, t) := (s.home home).engineRead (isProxy home) line t0
          (s.setHome home hm).modHart src (·.remoteDone old (some t) none))
  | _ => s

/-- HOME_ENGINE_READ (R240, R241): an LR at a remote home. -/
def State.homeEngineRead (s : State) (id : Nat) : State :=
  match s.msg id with
  | some (.lrRead src inc home addr size t0 asid) =>
    let line := addr / 64 * 64
    s.atHome id src inc home line asid false none (fun s =>
      let s := s.dropMsg id
      let (hm, t) := (s.home home).engineRead (isProxy home) line t0
      let s := s.setHome home hm
      let f := if s.poisoned line then some 29 else none
      s.modHart src (·.remoteDone (s.readNat addr size) (some t) f))
  | _ => s

/-- RECALL (R239): the owner answers. A grant on its way to the owner is received first, and a store that it makes first waits
until its time fits (R245). -/
def State.recallEvent (s : State) (id : Nat) : State :=
  match s.msg id with
  | some (.recallMsg home line o oi) =>
    let key := l1Key (lineNo line) home
    let h := s.hart o
    if s.msgs.any (fun m => m.2.grants o home line) then s
    else if (h.headWants key || (h.amoWants key).isSome) && !s.fits (dieOf o) (h.storeTime key) then s
    else
      let s := s.dropMsg id
      let (h, l) := h.surrender key
      match l with
      | some l =>
        (s.setHart o h).send
          (.recallReply o oi home line l.wts l.rts (if l.dirty then some l.data else none) l.poison)
      | none => s
  | _ => s

/-- RECALL_REPLY (R239, R237): the home applies a recall reply or an eviction. -/
def State.recallReplyEvent (s : State) (id : Nat) : State :=
  match s.msg id with
  | some (.recallReply o oi home line w r d p) => (s.takeReturn id (.recallReply o oi home line w r d p)).wakeHeld home
  | some (.evict o oi home line w r d p) => (s.takeReturn id (.evict o oi home line w r d p)).wakeHeld home
  | _ => s

/-- OWNED_EVICTION (R237): an owned line is sent home; a shared one is dropped; a pending one stays. -/
def State.evictEvent (s : State) (h key : Nat) : State :=
  let hh := s.hart h
  match hh.l1At key with
  | none => s
  | some l =>
    match l.st with
    | .shared => s.setHart h (hh.dropL1 key)
    | .pending => s
    | .owned =>
      let line := key / 65536 * 64
      let home := key % 65536
      (s.setHart h ((hh.unreserve key).dropL1 key)).send
        (.evict h hh.inc home line l.wts l.rts (if l.dirty then some l.data else none) l.poison)

/-- Room for a line in a hart's L1: one of the eight lines of its set is evicted (R206, R237), which one is a free choice (log 103).
None when all of them are pending: the answer waits. -/
def State.l1Room (s : State) (h key : Nat) : Option State :=
  let hh := s.hart h
  if (hh.l1At key).isSome || decide ((hh.l1Set key).length < 8) then some s
  else
    match (hh.l1Set key).filter (fun l => l.2.st != .pending) with
    | [] => none
    | c :: cs =>
      let (f, s) := s.fresh64
      some (s.evictEvent h ((c :: cs).getD (f.toNat % (cs.length + 1)) c).1)

/-- What the hart's own posted stores to a line make of a copy that arrives before they are acknowledged: the data of the latest
acknowledgement on its way, then the stores on their way, oldest first; and how many they are (R240, R259). -/
def State.withOwnStores (s : State) (dst home line : Nat) (d : Line) : Line × Nat :=
  let acks := s.msgs.filterMap (fun m => match m.2 with
    | .ack x h l _ d _ => if x = dst && h = home && l = line then some d else none
    | _ => none)
  let writes := s.msgs.filterMap (fun m => match m.2 with
    | .write x _ h l k d _ _ => if x = dst && h = home && l = line then some (k, d) else none
    | _ => none)
  (writes.foldl (fun d w => lineMerge w.1 d w.2) (acks.getLast?.getD d), acks.length + writes.length)

/-- A read's answer at the hart (R236): a copy with data, pending while stores of the hart to it are not acknowledged (R240); or
new times for the copy it holds. -/
def Hart.takeRead (h : Hart) (key wts rts : Nat) (data : Option (Line × Nat)) (poison : Bool) (kind : PlaceKind) (asid : Nat) : Hart :=
  match data, h.l1At key with
  | some (d, n), old =>
    if old.any (fun l => l.st != .shared) then h
    else (h.raise wts).putL1 key
      { st := if n = 0 then .shared else .pending, kind := kind, wts := wts, rts := rts, data := d, poison := poison, asid := asid,
        unacked := n }
  | none, some l => if l.st = .shared then (h.raise wts).putL1 key { l with wts := wts, rts := rts } else h
  | none, none => h

/-- READ_REPLY (R236, R247): the copy is taken, once its times fit (R245) and there is room; a marked renewal's answer is noted
for LWAIT. -/
def State.readReplyEvent (s : State) (id : Nat) : State :=
  match s.msg id with
  | some (.readReply dst home line wts rts data poison kind marked asid) =>
    let key := l1Key (lineNo line) home
    let kind' : WaitKind := if marked then .renew else .line
    if s.overtakes id dst home line then s
    else if !(s.hart dst).ld.any (fun p => p.kind == kind' && p.key == key) then s.dropMsg id
    else if !s.fits (dieOf dst) (max wts rts) then s
    else
      match (if data.isSome then s.l1Room dst key else some s) with
      | none => s
      | some s =>
        let data' := data.map (s.withOwnStores dst home line)
        (s.dropMsg id).modHart dst (fun h =>
          let ld : Option Pend :=
            if marked then h.ld.map (fun p => { p with done := true, answered := data.isSome }) else none
          { h with ld := ld }.takeRead key wts rts data' poison kind asid)
  | _ => s

/-- OWNERSHIP_REPLY (R238): the line is taken, once its times fit (R245) and there is room. -/
def State.ownReplyEvent (s : State) (id : Nat) : State :=
  match s.msg id with
  | some (.ownReply dst home line wts rts data poison kind asid) =>
    let key := l1Key (lineNo line) home
    if s.overtakes id dst home line then s
    else if !s.fits (dieOf dst) (max wts rts) then s
    else
      match (if data.isSome then s.l1Room dst key else some s) with
      | none => s
      | some s => (s.dropMsg id).modHart dst (·.takeOwned key wts rts data poison kind asid)
  | _ => s

/-- An acknowledgement at the hart (R240, R266): the time is kept for the next release; a pending copy becomes shared, with the
acknowledgement's data, at the last one. -/
def Hart.takeAck (h : Hart) (key t : Nat) (d : Line) (poison : Bool) : Hart :=
  let h := { h with unacked := h.unacked - 1, ackTime := max h.ackTime t }
  match h.l1At key with
  | some l =>
    if l.st = .pending then
      if l.unacked ≤ 1 then
        h.putL1 key { l with st := .shared, wts := t, rts := t, data := d, unacked := 0, poison := poison }
      else h.putL1 key { l with unacked := l.unacked - 1 }
    else h
  | none => h

/-- Would an acknowledgement cache its time? -/
def Hart.cachesAck (h : Hart) (key : Nat) : Bool :=
  (h.l1At key).any (fun l => l.st == .pending && decide (l.unacked ≤ 1))

/-- POSTED_STORE_ACK (R240, R256): the home's or the far vault's reply reaches the hart. -/
def State.ackEvent (s : State) (id : Nat) : State :=
  match s.msg id with
  | some (.ack dst home line t d poison) =>
    let key := l1Key (lineNo line) home
    if s.overtakes id dst home line then s
    else if (s.hart dst).cachesAck key && !s.fits (dieOf dst) t then s
    else (s.dropMsg id).modHart dst (·.takeAck key t d poison)
  | some (.vaultAck dst _ t) =>
    (s.dropMsg id).modHart dst (fun h => { h with unacked := h.unacked - 1, ackTime := max h.ackTime t })
  | _ => s

/-- VAULT_ACCESS (R244): a posted store reaches another die's vault, which performs one port's stores in the order it receives
them (R262) and sends its acknowledgement (R256). -/
def State.vaultAccessEvent (s : State) (id : Nat) : State :=
  match s.msg id with
  | some (.vaultWrite src inc addr mask d t0) =>
    match s.staleMsg id src inc addr with
    | some s' => s'
    | none =>
      let earlier := s.msgs.any (fun m => decide (m.1 < id) &&
        (match m.2 with
         | .vaultWrite s' _ a' _ _ _ => s' == src && (a' - Config.vaultBase) / 0x800000 == (addr - Config.vaultBase) / 0x800000
         | _ => false))
      if earlier then s
      else
        let q := (addr - Config.vaultBase) / 0x800000
        let (t, s) := (s.dropMsg id).vaultStore q addr mask d t0
        s.send (.vaultAck src addr t)
  | _ => s

/-- The fetch of a host line that a proxy waits for. -/
def State.fetchOf (s : State) (home line : Nat) : Option (Nat × Bool) :=
  firstSome (fun m : Nat × Msg => match m.2 with
    | .hostFetch h l o => if h = home && l = line then some (m.1, o) else none
    | _ => none) s.msgs

/-- HOST_LINE_FETCH (R249): a host line, or ownership of it, arrives at its proxy; another line leaves it when it is full. -/
def State.hostLineFetch (s : State) (port line : Nat) : State :=
  let home := 0x3000 + port
  match s.fetchOf home line with
  | some (id, owned) => (((s.dropMsg id).makeRoom home line).2).modHome home (·.addLine true line 0 owned)
  | none => s

/-- A fetch of a host line fails (R43): so does the first request that waits for it. -/
def State.failFetch (s : State) (id home line bit : Nat) (bad : Bool) : State :=
  let s := s.dropMsg id
  match s.msgs.find? (fun m => m.2.request.any (fun r => r.2 == (home, line))) with
  | some (k, m) => s.failRequest k m bit (home - 0x1000) bad
  | none => s

/-- RENEWAL_HOLD_EXPIRY (R247): the `k`-th held renewal is answered. -/
def State.renewalExpiry (s : State) (home k : Nat) : State :=
  match (s.home home).held[k]? with
  | some x => s.answerHeld home (fun y => y == x)
  | none => s

/-- VAULT_WATCH_EXPIRY (R247): the `k`-th watch of a vault is answered with vclk. -/
def State.watchExpiry (s : State) (q k : Nat) : State :=
  match (s.quad q).watches[k]? with
  | some w =>
    let t := (s.quad q).vclk
    let s := s.modQuad q (fun x => { x with watches := removeFirst (fun y => y == w) x.watches })
    s.modHart w.hart (fun h =>
      { h with ld := h.ld.map (fun p => if p.kind = .watch then { p with done := true, time := some t } else p) })
  | none => s

/-- DRIFT_TICK (R232): a drift interval of the hart has ended. -/
def State.driftTick (s : State) (h : Nat) : State :=
  let x := s.hart h
  if s.hartPresent h && decide (x.driftAt + x.dev.drift.toNat ≤ s.cycle) then
    s.modHart h (fun x => { x with pts := x.pts + 1, driftAt := x.driftAt + x.dev.drift.toNat })
  else s

/-- Every drift interval that has ended by a cycle (R232). -/
def Hart.drifted (h : Hart) (cycle : Nat) : Hart :=
  let n := (cycle - h.driftAt) / h.dev.drift.toNat
  if n = 0 then h else { h with pts := h.pts + n, driftAt := h.driftAt + n * h.dev.drift.toNat }

/-- `n` core cycles pass (R11): the drift intervals that they end (R232). -/
def State.passCycles (s : State) (n : Nat) : State :=
  { s with cycle := s.cycle + n, harts := s.harts.map (fun h : Nat × Hart => (h.1, h.2.drifted (s.cycle + n))) }

end Sys2Proof.Machine
end

