-- ==== Sys2Proof/Machine/Regions.lean ====
section
/-! DEFINITION. The region algebra (16): canonical form, fit, lattices, the memory image, and the elements of a region in
canonical order. -/

namespace Sys2Proof.Machine

/-- A box: its bounds, lower inclusive and upper exclusive, outermost dimension first. -/
abbrev Box := List (Int × Int)

/-- A lattice: step exponent and phase of each dimension. -/
abbrev Lattice := List (Nat × Nat)

/-- Bounds are clamped to −2^31 to 2^31 − 1 (R369). -/
def clampBound (x : Int) : Int := max (-(2 ^ 31)) (min x (2 ^ 31 - 1))

/-! ## Canonical form (R372) -/

/-- snap: the part of [lo, hi) on a lattice, or none. -/
def snap (lo hi : Int) (e : Nat × Nat) : Option (Int × Int) :=
  let q : Int := 2 ^ e.1
  let a := lo + (e.2 - lo) % q
  let z := (hi - 1) - (hi - 1 - e.2) % q
  if z < a then none else some (a, z + 1)

/-- A box clamped and snapped in every dimension; none when a dimension is empty. -/
def snapBox : Lattice → Box → Option Box
  | [], _ => some []
  | _ :: _, [] => none
  | e :: l, (lo, hi) :: b =>
    match snap (clampBound lo) (clampBound hi) e, snapBox l b with
    | some x, some r => some (x :: r)
    | _, _ => none

/-- Insert an integer into a sorted list without repeats. -/
def insertInt : List Int → Int → List Int
  | [], k => [k]
  | x :: r, k => if k < x then k :: x :: r else if k = x then x :: r else x :: insertInt r k

/-- Consecutive pairs of a list. -/
def pairs : List Int → List (Int × Int)
  | [] => []
  | [_] => []
  | a :: b :: r => (a, b) :: pairs (b :: r)

/-- A slab under construction: an interval of the dimension and its cross-section. -/
abbrev Slab := (Int × Int) × List Box

/-- Append a slab, or merge it into the last one when the cross-sections agree and the intervals follow on the lattice.
Slabs are kept newest first. -/
def addSlab (s : Nat) (out : List Slab) (iv : Int × Int) (x : List Box) : List Slab :=
  match out with
  | ((lo, hi), x') :: r =>
    if x = x' ∧ iv.1 = hi + 2 ^ s - 1 then ((lo, iv.2), x') :: r else (iv, x) :: out
  | [] => [(iv, x)]

/-- The first bounds of a box. -/
def headBound (b : Box) : Int × Int := b.headD (0, 0)

/-- slabs: maximal slabs along one dimension after the other. -/
def slabs : Lattice → List Box → List Box
  | [], bs => if bs.isEmpty then [] else [[]]
  | e :: l, bs =>
    let cuts := bs.foldl (fun c b => insertInt (insertInt c (headBound b).1) (headBound b).2) []
    let out := (pairs cuts).foldl (fun out (c : Int × Int) =>
      match snap c.1 c.2 e with
      | none => out
      | some iv =>
        let sub := slabs l ((bs.filter (fun b =>
          decide ((headBound b).1 ≤ c.1) && decide (c.2 ≤ (headBound b).2))).map List.tail)
        if sub.isEmpty then out else addSlab e.1 out iv sub) []
    out.reverse.flatMap (fun s => s.2.map (fun x => s.1 :: x))

/-- canon (R372). -/
def canon (bs : List Box) (l : Lattice) : List Box := slabs l (bs.filterMap (snapBox l))

/-! ## Boxes -/

/-- The intersection of two boxes, or none. -/
def boxInter : Box → Box → Option Box
  | x :: a, y :: b =>
    let lo := max x.1 y.1
    let hi := min x.2 y.2
    if hi ≤ lo then none else (boxInter a b).map ((lo, hi) :: ·)
  | _, _ => some []

/-- Pairwise intersections. -/
def boxesInter (a b : List Box) : List Box := a.flatMap (fun x => b.filterMap (boxInter x))

/-- The parts of a box outside another, for a pair that meets. -/
def boxMinus1 : Box → Box → List Box
  | (lo, hi) :: a, (l, h) :: b =>
    (if lo < l then [(lo, l) :: a] else []) ++ (if h < hi then [(h, hi) :: a] else [])
      ++ (boxMinus1 a b).map ((max lo l, min hi h) :: ·)
  | _, _ => []

def boxMinus (a b : Box) : List Box := if (boxInter a b).isSome then boxMinus1 a b else [a]

/-- The boxes of `a` without those of `b`. -/
def boxesMinus (a b : List Box) : List Box := b.foldl (fun cur y => cur.flatMap (boxMinus · y)) a

/-! ## fit (R373) -/

/-- Lattice points of one dimension in [lo, hi). -/
def dimPts (b : Int × Int) (e : Nat × Nat) : Nat :=
  let q : Int := 2 ^ e.1
  if b.2 ≤ b.1 then 0 else ((b.2 - 1 - e.2) / q - (b.1 - 1 - e.2) / q).toNat

/-- pts: the lattice points of a box. -/
def boxPts (l : Lattice) (b : Box) : Nat := (b.zip l).foldl (fun n x => n * dimPts x.1 x.2) 1

/-- bbox of two boxes. -/
def bbox2 (a b : Box) : Box := List.zipWith (fun x y => (min x.1 y.1, max x.2 y.2)) a b

/-- bbox of a list of boxes; empty for none. -/
def bboxAll : List Box → Box
  | [] => []
  | b :: r => r.foldl bbox2 b

/-- Does a box add a lattice point to a set of boxes? -/
def enlarges (l : Lattice) (bs : List Box) (b : Box) : Bool := !((boxesMinus [b] bs).filterMap (snapBox l)).isEmpty

/-- The cost of merging each box with the next one, for the merges that enlarge the set; none for the others. -/
def mergeCosts (l : Lattice) (all : List Box) : List Box → List (Option Int)
  | [] => []
  | [_] => []
  | a :: b :: r =>
    let m := bbox2 a b
    (if enlarges l all m then some ((boxPts l m : Int) - boxPts l a - boxPts l b) else none) :: mergeCosts l all (b :: r)

/-- The lowest index of the least entry of a list, with the entry. -/
def argMin : Nat → List (Option Int) → Option (Nat × Int)
  | _, [] => none
  | i, x :: r =>
    match x, argMin (i + 1) r with
    | none, y => y
    | some x, none => some (i, x)
    | some x, some (j, m) => if x ≤ m then some (i, x) else some (j, m)

/-- One merge step. A merge that adds no element gives the same list again under canon; since every step is to enlarge the
set or shorten the list (R373), the merge of least cost among those that enlarge the set is taken (log 18). -/
def fitStep (l : Lattice) (bs : List Box) : List Box :=
  match argMin 0 (mergeCosts l bs bs) with
  | none => bs
  | some (i, _) =>
    match bs.drop i with
    | a :: b :: r => canon (bs.take i ++ bbox2 a b :: r) l
    | _ => bs

/-- fit, with the steps it may take: every step enlarges the set on a grid of cuts that never grows, or shortens the list. -/
def fitLoop (l : Lattice) : Nat → List Box → List Box
  | 0, bs => [bboxAll bs]
  | n + 1, bs => if bs.length ≤ 8 then bs else fitLoop l n (fitStep l bs)

/-- fit: at most eight boxes, and whether it merged. -/
def fit (bs : List Box) (l : Lattice) : List Box × Bool :=
  if bs.length ≤ 8 then (bs, false) else (fitLoop l (2 ^ 64) bs, true)

/-- The region that `result` writes (R374). -/
def Region.result (d : Nat) (bs : List Box) (l : Lattice) (inx : Bool) : Region :=
  let (b, m) := fit (canon bs l) l
  { d := d, boxes := b, lat := l, inexact := inx || m, ovf := m }

/-- The dense lattice of `d` dimensions. -/
def denseLat (d : Nat) : Lattice := List.replicate d (0, 0)

def Region.dense (r : Region) : Bool := r.lat.all (fun e => e.1 == 0)

/-- The empty region of `d` dimensions over a lattice. -/
def emptyBoxes : List Box := []

/-! ## Lattices (R375) -/

/-- combine. -/
def combine1 (a b : Nat × Nat) : Option (Nat × Nat) :=
  let (x, y) := if b.1 < a.1 then (b, a) else (a, b)
  if y.2 % 2 ^ x.1 = x.2 then some y else none

/-- combine in every dimension. -/
def combineAll : Lattice → Lattice → Option Lattice
  | a :: l, b :: m =>
    match combine1 a b, combineAll l m with
    | some x, some r => some (x :: r)
    | _, _ => none
  | _, _ => some []

/-! ## Counts and elements -/

/-- The number of elements. -/
def Region.count (r : Region) : Nat := r.boxes.foldl (fun n b => n + boxPts r.lat b) 0

/-- Elements in both regions, whatever their lattices (R395). -/
def Region.common (a b : Region) : Nat :=
  match combineAll a.lat b.lat with
  | none => 0
  | some l => (boxesInter a.boxes b.boxes).foldl (fun n x => n + boxPts l x) 0

/-- The coordinates of point `k` of a box in canonical order, innermost dimension fastest. -/
def boxPoint : Box → Lattice → Nat → List Int
  | b :: bs, e :: l, k =>
    let inner := boxPts l bs
    (b.1 + (k / inner : Nat) * 2 ^ e.1) :: boxPoint bs l (k % inner)
  | _, _, _ => []

/-- Element `k` of a list of canonical boxes. -/
def nthPoint (l : Lattice) : List Box → Nat → List Int
  | [], _ => []
  | b :: r, k => if k < boxPts l b then boxPoint b l k else nthPoint l r (k - boxPts l b)

/-- Element `k` of a region in canonical order. -/
def Region.nth (r : Region) (k : Nat) : List Int := nthPoint r.lat r.boxes k

/-- The lower corner of the bounding box. -/
def Region.lower (r : Region) : List Int := (bboxAll r.boxes).map (·.1)

/-! ## The memory image (R370, R371) -/

/-- A signed 32-bit field. -/
def i32 (v : Int) : List Byte := bytesOf 4 (intToNat 32 v)

/-- Four fields of a box, absent dimensions zero. -/
def fourOf (l : List Int) : List Byte := ((l ++ [0, 0, 0, 0]).take 4).flatMap i32

/-- The image of a region. -/
def Region.image (r : Region) : List Byte :=
  let flags := (if r.inexact then 1 else 0) + (if r.ovf then 2 else 0)
  let four (l : List Nat) : List Byte := ((l ++ [0, 0, 0, 0]).take 4).map (BitVec.ofNat 8)
  let boxes := r.boxes.flatMap (fun b => fourOf (b.map (·.1)) ++ fourOf (b.map (·.2)))
  [BitVec.ofNat 8 (r.d - 1), BitVec.ofNat 8 r.boxes.length, BitVec.ofNat 8 flags, 0]
    ++ four (r.lat.map (·.1)) ++ four (r.lat.map (·.2)) ++ List.replicate 20 0
    ++ boxes ++ List.replicate (256 - boxes.length) 0

/-- Bytes `off` to `off + n − 1` of a byte string, as a number. -/
def bytesAt (bs : List Byte) (off n : Nat) : Nat := ofBytes ((bs.drop off).take n)

/-- Box `j` of an image, all four dimensions. -/
def imageBox (bs : List Byte) (j : Nat) : Box :=
  (List.range 4).map (fun i =>
    (natToInt 32 (bytesAt bs (32 + 32 * j + 4 * i) 4), natToInt 32 (bytesAt bs (48 + 32 * j + 4 * i) 4)))

/-- An image read as a region; none when it is not well formed (R371). -/
def Region.ofImage (bs : List Byte) : Option Region :=
  let b0 := bytesAt bs 0 1
  let d := b0 % 4 + 1
  let n := bytesAt bs 1 1
  let fl := bytesAt bs 2 1
  let lat := (List.range 4).map (fun i => (bytesAt bs (4 + i) 1, bytesAt bs (8 + i) 1))
  let boxOk (j : Nat) : Bool :=
    let b := imageBox bs j
    if j < n then
      (b.take d).all (fun x => decide (x.1 < x.2)) && (b.drop d).all (fun x => x.1 == 0 && x.2 == 0)
    else b.all (fun x => x.1 == 0 && x.2 == 0)
  if decide (b0 < 4) && decide (n ≤ 8) && decide (fl < 4) && bytesAt bs 3 1 == 0 && bytesAt bs 12 20 == 0
      && (lat.take d).all (fun e => decide (e.1 ≤ 7) && decide (e.2 < 2 ^ e.1))
      && (lat.drop d).all (fun e => e.1 == 0 && e.2 == 0)
      && (List.range 8).all boxOk then
    some { d := d, boxes := (List.range n).map (fun j => (imageBox bs j).take d), lat := lat.take d,
           inexact := fl % 2 == 1, ovf := fl / 2 == 1 }
  else none

end Sys2Proof.Machine
end

