-- ==== Sys2Proof/Machine/Slots.lean ====
section
/-! DEFINITION. The vector, region and handle registers of a hart slot: lines of the context image that are filled on a
miss (R172, R175). A hart that runs in no context has registers of its own, always resident. -/

namespace Sys2Proof.Machine

/-- The key of the registers that a hart uses: its context and slot, or the hart itself. -/
def slotKey (h : Nat) (hh : Hart) : Nat :=
  match hh.ctx with
  | some c => 2 * (c * 4 + hh.slot)
  | none => 2 * h + 1

def State.slot (s : State) : SlotRegs := Store.get {} s.slotRegs (slotKey s.cur s.me)

def State.setSlot (s : State) (r : SlotRegs) : State :=
  { s with slotRegs := Store.put s.slotRegs (slotKey s.cur s.me) r }

/-- The context image of a context. -/
def State.imageOf (s : State) (c : Nat) : Option Nat := (Store.find? s.disp.contexts c).map (·.image)

/-- Register codes: 0 to 31 vector, 32 to 47 region, 48 to 63 handle. -/
def codeV (n : Reg) : Nat := n.toNat
def codeG (n : Reg) : Nat := 32 + n.toNat
def codeH (n : Reg) : Nat := 48 + n.toNat

/-- Offset and size of a lazily filled register in a hart image (R172). -/
def codePlace (c : Nat) : Nat × Nat :=
  if c < 32 then (0xB00 + 64 * c, 64)
  else if c < 48 then (0x1300 + 288 * (c - 32), 288)
  else (0x700 + 64 * (c - 48), 64)

/-- Is a register resident? -/
def SlotRegs.has (r : SlotRegs) (c : Nat) : Bool :=
  if c < 32 then (Store.find? r.v c).isSome
  else if c < 48 then (Store.find? r.g (c - 32)).isSome
  else (Store.find? r.h (c - 48)).isSome

/-- Is a register of the current hart ready without a fill? -/
def State.resident (s : State) (c : Nat) : Bool := s.me.ctx.isNone || s.slot.has c

/-- The image bytes of a register of the current hart's slot. -/
def State.imageBytesOf (s : State) (c : Nat) : List Byte :=
  match s.me.ctx with
  | some x =>
    match s.imageOf x with
    | some a => s.peekBytes (a + s.me.slot * 0x3000 + (codePlace c).1) (codePlace c).2
    | none => []
  | none => []

/-- V[n]. -/
def State.vget (s : State) (n : Reg) : Line :=
  match Store.find? s.slot.v n.toNat with
  | some l => l
  | none => if s.me.ctx.isNone then 0 else BitVec.ofNat 512 (ofBytes (s.imageBytesOf n.toNat))

/-- G[n] by number. -/
def State.ggetN (s : State) (n : Nat) : Region :=
  match Store.find? s.slot.g n with
  | some r => r
  | none => if s.me.ctx.isNone then {} else (Region.ofImage (s.imageBytesOf (32 + n))).getD {}

def State.gget (s : State) (n : Reg) : Region := s.ggetN n.toNat

/-- H[n] by number. -/
def State.hgetN (s : State) (n : Nat) : Line :=
  match Store.find? s.slot.h n with
  | some l => l
  | none => if s.me.ctx.isNone then 0 else BitVec.ofNat 512 (ofBytes (s.imageBytesOf (48 + n)))

def State.hget (s : State) (n : Reg) : Line := s.hgetN n.toNat

/-- A write makes the line resident and dirty (R175). -/
def State.vset (s : State) (n : Reg) (l : Line) : State :=
  let r := s.slot
  s.setSlot { r with v := Store.put r.v n.toNat l, dirty := insertNat r.dirty (codeV n) }

def State.gset (s : State) (n : Reg) (g : Region) : State :=
  let r := s.slot
  s.setSlot { r with g := Store.put r.g n.toNat g, dirty := insertNat r.dirty (codeG n) }

def State.hset (s : State) (n : Reg) (l : Line) : State :=
  let r := s.slot
  s.setSlot { r with h := Store.put r.h n.toNat l, dirty := insertNat r.dirty (codeH n) }

/-- The registers that an instruction names are resident, or their fills are asked for and the instruction waits. -/
def State.filled (s : State) (codes : List Nat) : Act Unit :=
  let miss := codes.filter (fun c => !s.resident c)
  match s.me.ctx with
  | none => .ok () s
  | some x =>
    if miss.isEmpty then .ok () s
    else
      let asks := (miss.map (fun c => (x, (s.me.slot, c)))).filter (fun f => !s.fills.contains f)
      .stall { s with fills := s.fills ++ asks }

/-- `ins` for an instruction that also names lazily filled registers: once the others are ready it waits for the fills, and only then
are its exceptions judged, in R165's order. -/
def insL (xs vs : List Reg) (codes : List Nat) (body : State → Act Unit) (s : State) : Result :=
  if s.me.notReady xs vs then .next s
  else
    match s.filled (vs.map codeV ++ codes) with
    | .ok _ s => ins xs vs body s
    | .stall s => .next s
    | .trap c v s => .next (s.trap c v)

end Sys2Proof.Machine
end

