-- ==== Sys2Proof/Machine/Issue.lean ====
section
/-! DEFINITION. What an instruction that a repetition lane can issue too (R200, R363) needs at its issue, and the state that
vector, matrix and copy instructions sample there (R193, R425). -/

namespace Sys2Proof.Machine

/-- An instruction at issue: the x, v, region and handle (by code), k, and tile and accumulator registers it names; those
among them that it writes; and what it does. Tiles are 0 to 15, accumulators 16 to 23. -/
structure Issue where
  xs : List Reg := []
  vs : List Reg := []
  codes : List Nat := []
  ks : List Reg := []
  ts : List Nat := []
  masked : Bool := false
  wx : List Reg := []
  wv : List Reg := []
  wk : List Reg := []
  wt : List Nat := []
  body : State → Act Unit

/-- The number of the active mask register. -/
def Hart.maskNo (h : Hart) : Nat := (fld h.dev.vactm 0 3).toNat

/-- The active mask (R424). -/
def State.mask (s : State) : Word := s.me.rk s.me.maskNo

/-- A mask or tile register that a repetition block still writes (R202). -/
def Hart.laneHolds (h : Hart) (ks : List Nat) (ts : List Nat) : Bool :=
  h.lane.active && (ks.any h.lane.wk.contains || ts.any h.lane.wt.contains)

/-- Issue by the hart: mask, tile and accumulator registers that its lane still writes hold it back too (R202). -/
def Issue.run (i : Issue) (s : State) : Result :=
  if s.me.laneHolds (i.ks.map (·.toNat) ++ (if i.masked then [s.me.maskNo] else [])) i.ts then .next s
  else insL i.xs i.vs i.codes i.body s

/-- The task's identity in SRD rounding: the TCB address of the running task plus RANK × 2^48 (R294). -/
def State.tid (s : State) : Word :=
  let h := s.me
  let a := match h.task with
    | some t => ((Store.find? s.disp.tasks t).map (·.addr)).getD 0
    | none => 0
  BitVec.ofNat 64 (a + h.dev.dmrRank * 2 ^ 48)

/-- The rounding state sampled at issue (R193, R294). -/
def State.sampled (s : State) : Sampled := { rmode := s.me.dev.rmode, seed := s.me.dev.srseed, tid := s.tid }

/-- srseed advances after an instruction that rounds (R294, R483). -/
def State.advanceSeed (s : State) : State :=
  let sd := s.sampled.nextSeed
  s.modMe (fun h => { h with dev := { h.dev with srseed := sd } })

/-- OR flags into rflags (R289). -/
def State.orFlags (s : State) (fl : Nat) : State :=
  s.modMe (fun h => { h with dev := { h.dev with rflags := h.dev.rflags ||| BitVec.ofNat 64 (fl % 32) } })

end Sys2Proof.Machine
end

