-- ==== Sys2Proof/Machine/Operands.lean ====
section
/-! DEFINITION. The operand forms of the scalar instructions: effective addresses (R335, ea), sizes and extensions of
loads and stores, the sources of CSR instructions, branch and jump offsets. The operands of the vector, region and matrix
instructions are read in their own files. -/

namespace Sys2Proof

/-- ea(a, off) = X[a] + sext(off) modulo 2^64 (R335). -/
def Machine.State.ea {n : Nat} (s : Machine.State) (a : Reg) (off : BitVec n) : Word := s.rx a + sx off

/-- Bytes of a scalar load. -/
def LoadWidth.bytes : LoadWidth → Nat
  | .lb | .lbu => 1 | .lh | .lhu => 2 | .lw | .lwu => 4 | .ld => 8

/-- The value a scalar load writes, sign-extended or zero-extended. -/
def LoadWidth.extend (w : LoadWidth) (v : Nat) : Word :=
  match w with
  | .lb => sx (BitVec.ofNat 8 v) | .lh => sx (BitVec.ofNat 16 v) | .lw => sx (BitVec.ofNat 32 v)
  | .ld | .lbu | .lhu | .lwu => BitVec.ofNat 64 v

/-- Bytes of a scalar store. -/
def StoreWidth.bytes : StoreWidth → Nat
  | .sb => 1 | .sh => 2 | .sw => 4 | .sd => 8

/-- The value of a CSR instruction's source. -/
def Machine.State.csrSrc (s : Machine.State) : CsrSrc → Word
  | .reg r => s.rx r
  | .imm v => zx v

/-- The x register a CSR instruction reads. -/
def CsrSrc.regs : CsrSrc → List Reg
  | .reg r => [r]
  | .imm _ => []

/-- The value a CSR instruction writes. -/
def CsrOp.apply (op : CsrOp) (old v : Word) : Word :=
  match op with
  | .rw => v
  | .rs => old ||| v
  | .rc => old &&& ~~~v

/-- The displacement of a branch or JAL: its bit 0 is always 0. -/
def offset {n : Nat} (off : BitVec n) : Word := sx (off ++ 0#1)

/-! ## Computations of the base (R308) -/

/-- The signed value of a word. -/
def sgn (v : Word) : Int := v.toInt

/-- A result of the w forms: the low 32 bits, sign-extended. -/
def w32 (v : Word) : Word := sx (v.setWidth 32)

/-- Signed division as RISC-V gives it: by zero −1, overflow the dividend. -/
def sdivR {n : Nat} (a b : BitVec n) : BitVec n := if b = 0 then BitVec.allOnes n else a.sdiv b

/-- Signed remainder: by zero the dividend. -/
def sremR {n : Nat} (a b : BitVec n) : BitVec n := if b = 0 then a else a.srem b

/-- Unsigned division: by zero all ones. -/
def udivR {n : Nat} (a b : BitVec n) : BitVec n := if b = 0 then BitVec.allOnes n else a / b

/-- Unsigned remainder: by zero the dividend. -/
def uremR {n : Nat} (a b : BitVec n) : BitVec n := if b = 0 then a else a % b

/-- The upper 64 bits of an exact product. -/
def mulHigh (p : Int) : Word := BitVec.ofInt 64 (p / 2 ^ 64)

/-- Register-register computations. -/
def AluRR.eval (op : AluRR) (a b : Word) : Word :=
  let sh := b.toNat % 64
  let sh5 := b.toNat % 32
  let a32 : W32 := a.setWidth 32
  let b32 : W32 := b.setWidth 32
  match op with
  | .add => a + b
  | .sub => a - b
  | .sll => a <<< sh
  | .slt => if sgn a < sgn b then 1 else 0
  | .sltu => if a < b then 1 else 0
  | .xor => a ^^^ b
  | .srl => a >>> sh
  | .sra => a.sshiftRight sh
  | .or => a ||| b
  | .and => a &&& b
  | .addw => w32 (a + b)
  | .subw => w32 (a - b)
  | .sllw => sx (a32 <<< sh5)
  | .srlw => sx (a32 >>> sh5)
  | .sraw => sx (a32.sshiftRight sh5)
  | .mul => a * b
  | .mulh => mulHigh (sgn a * sgn b)
  | .mulhsu => mulHigh (sgn a * b.toNat)
  | .mulhu => mulHigh (a.toNat * b.toNat)
  | .div => sdivR a b
  | .divu => udivR a b
  | .rem => sremR a b
  | .remu => uremR a b
  | .mulw => w32 (a * b)
  | .divw => sx (sdivR a32 b32)
  | .divuw => sx (udivR a32 b32)
  | .remw => sx (sremR a32 b32)
  | .remuw => sx (uremR a32 b32)
  | .adduw => b + zx a32
  | .sh1add => b + (a <<< 1)
  | .sh2add => b + (a <<< 2)
  | .sh3add => b + (a <<< 3)
  | .sh1adduw => b + (zx a32 <<< 1)
  | .sh2adduw => b + (zx a32 <<< 2)
  | .sh3adduw => b + (zx a32 <<< 3)
  | .andn => a &&& ~~~b
  | .orn => a ||| ~~~b
  | .xnor => ~~~(a ^^^ b)
  | .max => if sgn a < sgn b then b else a
  | .maxu => if a < b then b else a
  | .min => if sgn a < sgn b then a else b
  | .minu => if a < b then a else b
  | .rol => a.rotateLeft sh
  | .ror => a.rotateRight sh
  | .rolw => sx (a32.rotateLeft sh5)
  | .rorw => sx (a32.rotateRight sh5)
  | .czeroEqz => if b = 0 then 0 else a
  | .czeroNez => if b = 0 then a else 0

/-- Computations with an immediate. -/
def AluRI.eval (op : AluRI) (a : Word) (imm : BitVec 12) : Word :=
  let b := sx imm
  match op with
  | .addi => a + b
  | .slti => if sgn a < sgn b then 1 else 0
  | .sltiu => if a < b then 1 else 0
  | .xori => a ^^^ b
  | .ori => a ||| b
  | .andi => a &&& b
  | .addiw => w32 (a + b)

/-- Shifts and rotates by an immediate. -/
def AluSh.eval (op : AluSh) (a : Word) (amt : BitVec 6) : Word :=
  let n := amt.toNat
  let a32 : W32 := a.setWidth 32
  match op with
  | .slli => a <<< n
  | .srli => a >>> n
  | .srai => a.sshiftRight n
  | .rori => a.rotateRight n
  | .slliuw => zx a32 <<< n
  | .slliw => sx (a32 <<< n)
  | .srliw => sx (a32 >>> n)
  | .sraiw => sx (a32.sshiftRight n)
  | .roriw => sx (a32.rotateRight n)

/-- Leading zeros of the low `n` bits. -/
def clzTo (v : Nat) : Nat → Nat
  | 0 => 0
  | n + 1 => if natBit v n then 0 else clzTo v n + 1

/-- Trailing zeros among the `n` bits from bit `i` on. -/
def ctzFrom (v i : Nat) : Nat → Nat
  | 0 => 0
  | n + 1 => if natBit v i then 0 else ctzFrom v (i + 1) n + 1

/-- One-operand computations. -/
def AluU.eval (op : AluU) (a : Word) : Word :=
  let v := a.toNat
  match op with
  | .clz => BitVec.ofNat 64 (clzTo v 64)
  | .ctz => BitVec.ofNat 64 (ctzFrom v 0 64)
  | .cpop => BitVec.ofNat 64 (popCountTo v 64)
  | .clzw => BitVec.ofNat 64 (clzTo v 32)
  | .ctzw => BitVec.ofNat 64 (ctzFrom v 0 32)
  | .cpopw => BitVec.ofNat 64 (popCountTo v 32)
  | .sextb => sx (fld a 0 8)
  | .sexth => sx (fld a 0 16)
  | .zexth => zx (fld a 0 16)
  | .rev8 => BitVec.ofNat 64 (ofBytes (bytesOf 8 v).reverse)
  | .orcb => BitVec.ofNat 64 (ofBytes ((bytesOf 8 v).map (fun b => if b = 0 then 0 else 0xff)))

/-- A branch condition. -/
def Cond.holds (c : Cond) (a b : Word) : Bool :=
  match c with
  | .eq => a == b
  | .ne => a != b
  | .lt => decide (sgn a < sgn b)
  | .ge => decide (sgn b ≤ sgn a)
  | .ltu => decide (a < b)
  | .geu => decide (b ≤ a)

end Sys2Proof
end

