-- ==== Sys2Proof/Machine/Vm.lean ====
section
/-! DEFINITION. The address spaces (10): the windows of a tenant, Sv48, homing, vault blocks, owner slots, and where an
access of a hart or an engine goes. -/

namespace Sys2Proof.Machine

/-- The kinds of access that faults distinguish. -/
inductive Access | fetch | load | store
  deriving DecidableEq, Repr

/-- Page fault of the access type. -/
def Access.pageFault : Access → Nat
  | .fetch => 12 | .load => 13 | .store => 15

/-- Access fault of the access type. -/
def Access.accessFault : Access → Nat
  | .fetch => 1 | .load => 5 | .store => 7

/-- Where an access goes, or why not: a fault, or a translation that is not held yet. -/
inductive Tr
  | ok (p : Place)
  | fault (cause : Nat)
  | miss
  deriving DecidableEq, Repr

/-- Whose access it is: the mode it is made in, the address-space identifier, the root of its tables, and the bits of
sstatus that matter. -/
structure View where
  mode : Mode
  asid : Nat
  bare : Bool
  root : Nat
  sum : Bool := false
  mxr : Bool := false
  deriving DecidableEq, Repr

def State.tenant (s : State) (asid : Nat) : Option Tenant := Store.find? s.disp.tenants asid

def State.context (s : State) (c : Nat) : Option Context := Store.find? s.disp.contexts c

/-- The ASID of the context whose task a hart runs; 0 without one. -/
def State.asidOf (s : State) (h : Nat) : Nat :=
  match (s.hart h).ctx with
  | some c => match s.context c with
    | some x => x.asid
    | none => 0
  | none => 0

/-- The view of a tenant's own accesses. -/
def State.tenantView (s : State) (asid : Nat) : View :=
  { mode := .u, asid := asid, bare := false, root := match s.tenant asid with | some t => t.root | none => 0 }

/-- The view in which a hart makes an access: its mode, or for data in M-mode under MPRV the mode of MPP. -/
def State.view (s : State) (h : Nat) (fetch : Bool) : View :=
  let hh := s.hart h
  let st := hh.priv.mstatus
  let md := if !fetch && hh.mode = .m && st.getLsbD 17 then Mode.ofCode (fld st 11 2).toNat else hh.mode
  match md with
  | .m => { mode := .m, asid := 0, bare := true, root := 0 }
  | .s =>
    let satp := hh.priv.satp
    { mode := .s, asid := (fld satp 44 16).toNat, bare := fld satp 60 4 = 0, root := (fld satp 0 44).toNat * 4096,
      sum := st.getLsbD 18, mxr := st.getLsbD 19 }
  | .u => { s.tenantView (s.asidOf h) with mxr := st.getLsbD 19 }

/-! ## Sv48 (R223) -/

/-- The rules on a leaf entry at `level` (3 is the root's): page faults of R223 and of RISC-V. -/
def leafOk (pte : Nat) (level : Nat) (acc : Access) (v : View) : Bool :=
  let b := natBit pte
  decide (level < 3)
    && decide (natBits pte 10 (9 * level) = 0)
    && !b 61 && !b 62 && !b 63
    && (match v.mode with
        | .u => b 4
        | _ => !b 4 || (v.sum && acc != .fetch))
    && (match acc with
        | .fetch => b 3
        | .load => b 1 || (v.mxr && b 3)
        | .store => b 2)
    && b 6 && (acc != .store || b 7)

/-- Is an owner key slot in use (R53)? -/
def State.slotUsed (s : State) (slot : Nat) : Bool := (Store.find? s.rtu.keys slot).isSome

/-- Can the device read a line of HBM by its physical address: its frame's slot is in use (R54), and it holds no poison? -/
def State.readable (s : State) (a : Nat) : Bool :=
  decide (a < Config.hbmBytes) && s.slotUsed (s.frame (a / 0x200000)).slot && !s.poisoned a

/-- One level of a walk: the entry's address of its table. -/
def pteAddr (table va level : Nat) : Nat := table + natBits va (12 + 9 * level) 9 * 8

/-- A page-table entry in the walker cache of a die (R226). -/
def State.cachedPte (s : State) (d asid va level : Nat) : Option Nat :=
  ((s.die d).wcache.find? (fun e => e.asid == asid && e.level == level && e.vpn == va / 2 ^ (12 + 9 * level))).map (·.pte.toNat)

/-- The entry that a walk uses at a level: the walker cache's, or that of memory; none where it cannot be loaded. -/
def State.pteOf (s : State) (d : Nat) (v : View) (va level table : Nat) : Option Nat :=
  match s.cachedPte d v.asid va level with
  | some p => some p
  | none => if s.readable (pteAddr table va level) then some (s.peekNat (pteAddr table va level) 8) else none

/-- The walk (R223, R226): the leaf and its level, or the cause of a fault. An entry that cannot be loaded is an access
fault of the access type (R227). `d` is the die whose walker cache serves it. -/
def State.walk (s : State) (d : Nat) (v : View) (acc : Access) (va : Nat) : Nat → Nat → Except Nat (Nat × Nat)
  | 0, _ => .error acc.pageFault
  | level + 1, table =>
    match s.pteOf d v va level table with
    | none => .error acc.accessFault
    | some pte =>
      let b := natBit pte
      if !b 0 || (b 2 && !b 1) then .error acc.pageFault
      else if b 1 || b 3 then
        if leafOk pte level acc v then .ok (pte, level) else .error acc.pageFault
      else if natBits pte 54 10 ≠ 0 || b 4 || b 6 || b 7 then .error acc.pageFault
      else s.walk d v acc va level (natBits pte 10 44 * 4096)

/-- The entries that a walk reads, root first: level, address and value. -/
def State.walkPath (s : State) (d : Nat) (v : View) (va : Nat) : Nat → Nat → List (Nat × (Nat × Nat))
  | 0, _ => []
  | level + 1, table =>
    match s.pteOf d v va level table with
    | none => []
    | some pte =>
      (level, (pteAddr table va level, pte)) ::
        (if natBit pte 0 && !natBit pte 1 && !natBit pte 3 then s.walkPath d v va level (natBits pte 10 44 * 4096) else [])

/-- The physical address that a leaf gives. -/
def leafAddr (pte level va : Nat) : Nat :=
  let off := 12 + 9 * level
  natBits pte (10 + 9 * level) (44 - 9 * level) * 2 ^ off + va % 2 ^ off

/-! ## Homing (R88, R214, R215) -/

/-- The number of the `i`-th set bit of a mask, from bit 0. -/
def nthBit (m : Nat) : Nat → Nat → Nat → Nat
  | 0, b, _ => b
  | fuel + 1, b, i => if natBit m b then (if i = 0 then b else nthBit m fuel (b + 1) (i - 1)) else nthBit m fuel (b + 1) i

/-- The home that a homing entry gives a line, or none where R88 and R214 refuse the entry. -/
def State.entryHome (s : State) (entry : Nat) (homeMode : Bool) (a : Nat) : Option Nat :=
  let kind := natBits entry 0 8
  let die := natBits entry 8 8
  let hart := natBits entry 16 16
  let mask := natBits entry 64 160
  match kind with
  | 1 =>
    if homeMode || 4 ≤ die || !s.hartPresent hart || hart / 1024 ≠ die then none else some hart
  | 2 =>
    if !homeMode || 4 ≤ die || mask = 0 || mask ≥ 2 ^ s.grade.quads then none
    else
      let x := lineHash a (4 * popCountTo mask 160)
      some (die * 1024 + nthBit mask 160 0 (x / 4) * 4 + x % 4)
  | 3 => if !homeMode || die ≠ 0 || hart ≠ 0 || mask ≠ 0 then none else some (s.physHome a)
  | _ => none

/-! ## Frames and places -/

/-- May an access of the view reach the frame of an HBM address (R54, R224, R225)? -/
def State.frameOk (s : State) (v : View) (a : Nat) : Bool :=
  let f := s.frame (a / 0x200000)
  s.slotUsed f.slot &&
  (match v.mode with
   | .m => true
   | _ =>
     if v.asid = 0 && v.mode = .s then !f.image && (f.slot != 0 || f.supw)
     else !f.image && f.slot != 0 && (s.tenant v.asid).any (fun t => t.owner == f.slot))

/-- A host page's place (R29): COH and PORT. -/
def State.hostPlace (s : State) (acc : Access) (pa : Nat) (coh : Bool) (port : Nat) : Tr :=
  if coh then
    if (s.port port).cxl then .ok { kind := .hostC, addr := pa, home := 0x3000 + port } else .fault acc.accessFault
  else .ok { kind := .hostNC, addr := pa, home := port }

/-- The place of a physical address under a tenant's leaf and the homing entry it selects (R210, R214, R224). -/
def State.tenantPlace (s : State) (v : View) (acc : Access) (hostWindow : Bool) (pte homing pa : Nat) : Tr :=
  if hostWindow then
    if pa < Config.hostBase then .fault acc.accessFault
    else if natBits pte 56 5 ≠ 0 then .fault acc.pageFault
    else s.hostPlace acc pa (natBit pte 55) (natBits pte 54 1)
  else if Config.hbmBytes ≤ pa then .fault acc.accessFault
  else
    match s.entryHome homing (natBit pte 60) pa with
    | none => .fault acc.accessFault
    | some home => if s.frameOk v pa then .ok { kind := .hbm, addr := pa, home := home } else .fault acc.accessFault

/-- The place of a physical address of ASID 0, of M-mode or of Bare mode (R208, R217, R225). -/
def State.physPlace (s : State) (v : View) (acc : Access) (pa : Nat) : Tr :=
  if pa < Config.hbmBytes then
    if s.frameOk v pa then .ok { kind := .hbm, addr := pa, home := s.physHome pa } else .fault acc.accessFault
  else if Config.hostBase ≤ pa && pa < 2 * Config.hostBase then .ok { kind := .hostNC, addr := pa, home := 0 }
  else .fault acc.accessFault

/-- The place of a physical address under a leaf of ASID 0 (R225). -/
def State.superPlace (s : State) (v : View) (acc : Access) (pte pa : Nat) : Tr :=
  if Config.hostBase ≤ pa then
    if natBits pte 56 5 ≠ 0 then .fault acc.pageFault
    else s.hostPlace acc pa (natBit pte 55) (natBits pte 54 1)
  else if natBits pte 54 7 ≠ 0 then .fault acc.pageFault
  else s.physPlace v acc pa

/-! ## The tenant virtual map (R210 to R212) -/

/-- The windows of the tenant virtual map. -/
inductive Window
  | code
  | hbm
  | host
  | vault (q off : Nat)
  | own (off : Nat)
  | none
  deriving DecidableEq, Repr

def windowOf (va : Nat) : Window :=
  if 0x10000000 ≤ va && va < 0x110000000 then .code
  else if 0x1000000000 ≤ va && va < 0x400000000000 then .hbm
  else if 0x400000000000 ≤ va && va < 0x7e0000000000 then .host
  else if 0x7e0000000000 ≤ va && va < 0x7e0000000000 + 640 * 0x800000 then
    .vault ((va - 0x7e0000000000) / 0x800000) ((va - 0x7e0000000000) % 0x800000)
  else if 0x7f0000000000 ≤ va && va < 0x7f0000000000 + 0x600000 then .own (va - 0x7f0000000000)
  else .none

/-- The block granted to an ASID as the stack of a slot on a quad (R212, R213). -/
def Quad.stackBlock (q : Quad) (asid slot : Nat) : Option Nat :=
  firstSome (fun b : Nat × Block => if b.2.asid = asid && b.2.kind = .stack slot then some b.1 else none) q.blocks

/-- A place in the vault of a quad, under the block check of R211. -/
def State.vaultPlace (s : State) (asid : Nat) (acc : Access) (q off : Nat) : Tr :=
  if !s.quadPresent q || Config.vaultBytes ≤ off then .fault acc.pageFault
  else if s.blockOk q off asid then .ok { kind := .vault, addr := vaultAddr q off, home := q }
  else .fault acc.accessFault

/-- A place through the own-vault alias (R212). -/
def State.aliasPlace (s : State) (asid : Nat) (acc : Access) (q off : Nat) : Tr :=
  if off < 0x5c0000 then s.vaultPlace asid acc q off
  else
    match (s.quad q).stackBlock asid ((off - 0x5c0000) / 65536) with
    | some b => .ok { kind := .vault, addr := vaultAddr q (b * 65536 + off % 65536), home := q }
    | none => .fault acc.accessFault

/-- The address of the homing entry that a leaf of the HBM data window selects (R214). -/
def State.homingAddr (s : State) (v : View) (pte va : Nat) : Option Nat :=
  if windowOf va = .hbm && !(v.asid = 0 && v.mode = .s) then (s.tenant v.asid).map (fun t => t.homing + 32 * natBits pte 54 6)
  else none

/-- The homing entry that a leaf selects; one that cannot be loaded counts as invalid (R88). -/
def State.homingOf (s : State) (v : View) (pte va : Nat) : Nat :=
  match s.homingAddr v pte va with
  | some e => if s.readable e then s.peekNat e 32 else 0
  | none => 0

/-- Where the leaf of a window's page leads. -/
def State.leafPlace (s : State) (v : View) (acc : Access) (pte level homing va : Nat) : Tr :=
  let pa := leafAddr pte level va
  if v.asid = 0 && v.mode = .s then s.superPlace v acc pte pa
  else s.tenantPlace v acc (windowOf va == .host) pte homing pa

/-- Does a held translation serve the address? -/
def TlbEntry.hits (e : TlbEntry) (asid va : Nat) : Bool :=
  e.asid == asid && e.vpn == va / 2 ^ (12 + 9 * e.level)

/-- The translation that a TLB holds for an address, when it permits the access. -/
def tlbFind (tlb : List TlbEntry) (v : View) (acc : Access) (va : Nat) : Option TlbEntry :=
  tlb.find? (fun e => e.hits v.asid va && leafOk e.pte.toNat e.level acc v)

/-- Sv48 through the translations that the TLBs of a hart and of its quad hold: a translation that does not permit the access is
walked again, because faults are never cached (R226). -/
def State.pagePlace (s : State) (h : Nat) (v : View) (acc : Access) (va : Nat) : Tr :=
  match tlbFind ((s.hart h).tlb ++ (s.quad (quadOf h)).tlb) v acc va with
  | some e => s.leafPlace v acc e.pte.toNat e.level e.homing va
  | none => .miss

/-! ### Filling the translation caches (R226) -/

/-- The walk's loads are performed at their lines' homes, those that the walker cache does not serve (R217, R226). -/
def State.walkTouch (s : State) (d : Nat) (v : View) (va : Nat) : State :=
  (s.walkPath d v va 4 v.root).foldl (fun s e =>
    if (s.cachedPte d v.asid va e.1).isSome then s else s.devTouch e.2.1 8) s

/-- The entries of a walk that succeeded enter the walker cache of the die, the oldest leave it beyond 65,536. -/
def State.walkKeep (s : State) (d : Nat) (v : View) (va : Nat) : State :=
  let new := (s.walkPath d v va 4 v.root).filter (fun e => (s.cachedPte d v.asid va e.1).isNone)
  if 4 ≤ d then s
  else s.modDie d (fun x => { x with wcache :=
    (new.map (fun e : Nat × (Nat × Nat) =>
      ({ asid := v.asid, vpn := va / 2 ^ (12 + 9 * e.1), level := e.1, pte := BitVec.ofNat 64 e.2.2 } : WalkEntry)) ++ x.wcache).take 65536 })

/-- A translation enters a fully associative hart TLB of 48 entries: one of them, a free choice `f`, leaves it when it is full. -/
def hartTlbPut (tlb : List TlbEntry) (e : TlbEntry) (va f : Nat) : List TlbEntry :=
  let rest := tlb.filter (fun x => !x.hits e.asid va)
  e :: (if rest.length < 48 then rest else rest.eraseIdx (f % rest.length))

/-- A translation enters a quad TLB of 256 sets of 8 entries; the set is the low bits of the page number (log 11). -/
def quadTlbPut (tlb : List TlbEntry) (e : TlbEntry) (va f : Nat) : List TlbEntry :=
  let rest := tlb.filter (fun x => !x.hits e.asid va)
  let set := rest.filter (fun x => x.vpn % 256 == e.vpn % 256)
  match (if set.length < 8 then none else set[f % set.length]?) with
  | none => e :: rest
  | some x => e :: rest.erase x

/-- A walk that has succeeded: the translation, with the homing entry it selects, read at that entry's home. -/
def State.walkEntry (s : State) (v : View) (pte level va : Nat) : TlbEntry × State :=
  let hom := s.homingOf v pte va
  let s := match s.homingAddr v pte va with
    | some e => if s.readable e then s.devTouch e 32 else s
    | none => s
  ({ asid := v.asid, vpn := va / 2 ^ (12 + 9 * level), level := level, pte := BitVec.ofNat 64 pte, homing := hom }, s)

/-- A quad's TLB takes a translation up. -/
def State.quadKeep (s : State) (q : Nat) (e : TlbEntry) (va : Nat) : State :=
  if q < 640 then
    let (f, s) := s.fresh64
    s.modQuad q (fun x => { x with tlb := quadTlbPut x.tlb e va f.toNat })
  else s

/-- The address of a U-mode access, or of an S-mode access under a tenant's ASID, by window (R210). -/
def State.tenantTranslate (s : State) (h : Nat) (v : View) (acc : Access) (va : Nat) : Tr :=
  match windowOf va with
  | .code => .fault acc.accessFault
  | .hbm | .host => if acc = .fetch && v.mode = .u then .fault 1 else s.pagePlace h v acc va
  | .vault q off =>
    if acc = .fetch then .fault (if s.quadPresent q && decide (off < Config.vaultBytes) then 1 else 12)
    else s.vaultPlace v.asid acc q off
  | .own off => if acc = .fetch then .fault 1 else s.aliasPlace v.asid acc (quadOf h) off
  | .none => .fault acc.pageFault

/-- Sign-extended from bit 47 (RISC-V, Sv48). -/
def canonical (va : Nat) : Bool := natBits va 47 17 = 0 || natBits va 47 17 = 2 ^ 17 - 1

/-- Where an access of a hart goes (R210, R223 to R225). -/
def State.translate (s : State) (h : Nat) (acc : Access) (va : Nat) : Tr :=
  let v := s.view h (acc == .fetch)
  match v.mode with
  | .m => s.physPlace v acc va
  | .s =>
    if v.bare then s.physPlace v acc va
    else if v.asid = 0 then
      if canonical va then s.pagePlace h v acc (va % 2 ^ 48) else .fault acc.pageFault
    else s.tenantTranslate h v acc va
  | .u => s.tenantTranslate h v acc va

/-- The die whose walker cache serves the engines of a quad; 4, which has none, for the device itself. -/
def walkDie (q : Nat) : Nat := if q < 640 then dieOfQuad q else 4

/-- Where an access of an engine of a quad goes, through the quad's TLB or the tables (R226, R229). -/
def State.enginePage (s : State) (q : Nat) (v : View) (acc : Access) (va : Nat) : Tr :=
  match tlbFind (if q < 640 then (s.quad q).tlb else []) v acc va with
  | some e => s.leafPlace v acc e.pte.toNat e.level e.homing va
  | none =>
    match s.walk (walkDie q) v acc va 4 v.root with
    | .error c => .fault c
    | .ok (pte, level) => s.leafPlace v acc pte level (s.homingOf v pte va) va

/-- The same for an engine that acts for an ASID on a quad (R229); quad 640 is the device itself. -/
def State.engineTranslate (s : State) (q asid : Nat) (acc : Access) (va : Nat) : Tr :=
  let v := s.tenantView asid
  match windowOf va with
  | .code => .fault acc.accessFault
  | .hbm | .host => s.enginePage q v acc va
  | .vault vq off => s.vaultPlace asid acc vq off
  | .own off => s.aliasPlace asid acc q off
  | .none => .fault acc.pageFault

/-- The walk that an engine's access needs is made: its loads are performed, and what it finds is held (R217, R226, R229). -/
def State.engineWalk (s : State) (q asid : Nat) (acc : Access) (va : Nat) : State :=
  let v := s.tenantView asid
  let d := walkDie q
  if windowOf va ≠ .hbm && windowOf va ≠ .host then s
  else if (tlbFind (if q < 640 then (s.quad q).tlb else []) v acc va).isSome then s
  else
    let s := s.walkTouch d v va
    match s.walk d v acc va 4 v.root with
    | .error _ => s
    | .ok (pte, level) =>
      let (e, s) := (s.walkKeep d v va).walkEntry v pte level va
      s.quadKeep q e va

/-! ## Walks (R226, R227) -/

/-- Where the hart's access goes; on a miss a walk is started and the instruction waits. A walk's fault is raised when the
instruction runs again. -/
def State.resolve (s : State) (acc : Access) (va : Nat) : Act Place :=
  match s.translate s.cur acc va with
  | .ok p => .ok p s
  | .fault c => .trap c (BitVec.ofNat 64 va) s
  | .miss =>
    match s.me.ld with
    | some p =>
      if p.kind = .walk && p.key = va && p.done then
        match p.fault with
        | some c => .trap c (BitVec.ofNat 64 va) (s.modMe (fun h => { h with ld := none }))
        | none => .stall (s.modMe (fun h => { h with ld := none }))
      else if p.kind = .walk then .stall s
      else .stall s
    | none =>
      let v := s.view s.cur (acc == .fetch)
      let (id, s) := s.newId
      let w : Walk := { id := id, hart := s.cur, transfer := none, asid := v.asid, va := va, acc := acc.pageFault }
      .stall ({ s with walks := s.walks ++ [w] }.modMe (fun h => { h with ld := some { kind := .walk, key := va } }))

/-- The access whose page fault has this code. -/
def accessOf (c : Nat) : Access := if c = 12 then .fetch else if c = 13 then .load else .store

/-- Is the walk one of the 128 that its die runs at once, in arrival order (R227)? -/
def State.walkRuns (s : State) (w : Walk) : Bool :=
  ((s.walks.filter (fun x => dieOf x.hart == dieOf w.hart)).take 128).any (fun x => x.id == w.id)

/-- PAGE_WALK_COMPLETE for a hart: its loads are performed; the translation is held, or the fault is noted. -/
def State.walkDone (s : State) (w : Walk) : State :=
  let s := { s with walks := s.walks.filter (fun x => x.id != w.id) }
  let acc := accessOf w.acc
  let v := s.view w.hart (acc == .fetch)
  let va := if v.asid = 0 then w.va % 2 ^ 48 else w.va
  let d := dieOf w.hart
  let s := s.walkTouch d v va
  let failed (c : Nat) (s : State) : State :=
    s.modHart w.hart (fun h => { h with ld := some { kind := .walk, key := w.va, done := true, fault := some c } })
  match s.walk d v acc va 4 v.root with
  | .error c => failed c s
  | .ok (pte, level) =>
    let (e, s) := (s.walkKeep d v va).walkEntry v pte level va
    match s.leafPlace v acc pte level e.homing va with
    | .fault c => failed c s
    | _ =>
      let (f, s) := s.fresh64
      (s.quadKeep (quadOf w.hart) e va).modHart w.hart (fun h =>
        { h with ld := none, tlb := hartTlbPut h.tlb e va f.toNat })

/-! ## Fetch (R107, R166, R313) -/

/-- The translation mapped in slot `j` of a tenant's code view. -/
def State.codeSlot (s : State) (asid j : Nat) : Option Translation :=
  match Store.find? s.slotMap (asid * 256 + j) with
  | some t => Store.find? s.heap t
  | none => none

/-- Where offset `off` of a translation stands in memory (R104). -/
def Translation.at_ (t : Translation) (off : Nat) : Nat := Config.heapBase + t.base + off

/-- The bytes of an instruction at the pc of U-mode in the code view, four or eight of them, or the cause of a fault: the start bit
is tested before the code is read (R107), and the code may be poisoned (R230). -/
def State.fetchHeap (s : State) (asid pc : Nat) : Except Nat (List Byte) :=
  let j := (pc - 0x10000000) / 0x1000000
  let off := (pc - 0x10000000) % 0x1000000
  match s.codeSlot asid j with
  | none => .error 1
  | some t =>
    if t.purged || t.len < off + 4 then .error 1
    else if !t.starts.getD (off / 2) false then .error 26
    else if s.poisoned (t.at_ off) then .error 29
    else
      let lo := s.peekBytes (t.at_ off) 4
      if natBits (ofBytes lo) 0 7 ≠ 0x3f || t.len < off + 8 then .ok lo
      else if s.poisoned (t.at_ (off + 4)) then .error 1
      else .ok (lo ++ s.peekBytes (t.at_ (off + 4)) 4)

/-- The bytes at the pc elsewhere: four, and four more when they can be fetched too (R230, R313). -/
def State.fetchPlain (s : State) (pc : Nat) : Act (List Byte) :=
  let short (s : State) : Act (List Byte) := .trap 1 (BitVec.ofNat 64 pc) s
  (s.resolve .fetch pc).andThen fun p s =>
    if s.poisoned p.addr then .trap 29 (BitVec.ofNat 64 pc) s
    else
      let lo := s.peekBytes p.addr 4
      let both (a : Nat) (s : State) : Act (List Byte) := if s.poisoned a then short s else .ok (lo ++ s.peekBytes a 4) s
      if natBits (ofBytes lo) 0 7 ≠ 0x3f then .ok lo s
      else if (pc + 4) % 4096 ≠ 0 then both (p.addr + 4) s
      else
        match s.translate s.cur .fetch (pc + 4) with
        | .ok p2 => both p2.addr s
        | .fault _ => short s
        | .miss =>
          match s.resolve .fetch (pc + 4) with
          | .ok _ s => .ok lo s
          | .stall s => .stall s
          | .trap _ _ s => short s

/-- The line of the code heap enters the hart's L1 instruction cache of 128 sets of 4 ways, from which the oldest line of the set
leaves (R206; which one leaves cannot be observed, R109). -/
def Hart.fetchLine (h : Hart) (n : Nat) : Hart :=
  if h.icache.contains n then h
  else
    let set := h.icache.filter (fun x => x % 128 == n % 128)
    let rest := match (if set.length < 4 then none else set.getLast?) with
      | some x => h.icache.erase x
      | none => h.icache
    { h with icache := n :: rest }

/-- The view in which the current hart fetches is a tenant's: in U-mode, or in S-mode under a satp with its ASID (R225). -/
def State.fetchTenant (s : State) : Option Nat :=
  let v := s.view s.cur true
  match v.mode with
  | .u => some v.asid
  | .s => if !v.bare && v.asid != 0 then some v.asid else none
  | .m => none

/-- The hart number of the management core (R310). -/
def mcHart : Nat := 0x1000

/-- The bytes at the pc of the current hart. The management core fetches from its own memory, into which the boot ROM has copied the
firmware's payload (R17, R47). -/
def State.fetch (s : State) : Act (List Byte) :=
  let h := s.me
  let pc := h.pc.toNat
  if pc % 4 ≠ 0 then .trap 0 h.pc s
  else if s.cur = mcHart && pc + 4 ≤ s.rtu.mcMem.length then .ok ((s.rtu.mcMem.drop pc).take 8) s
  else
    match (if windowOf pc = .code then s.fetchTenant else none) with
    | some asid =>
      match s.fetchHeap asid pc with
      | .ok bs =>
        let at_ := ((s.codeSlot asid ((pc - 0x10000000) / 0x1000000)).map (·.at_ ((pc - 0x10000000) % 0x1000000))).getD 0
        .ok bs (s.modMe (·.fetchLine (lineNo at_)))
      | .error c => .trap c h.pc s
    | none => s.fetchPlain pc

end Sys2Proof.Machine
end

