-- ==== Sys2Proof/Machine/Csr.lean ====
section
/-! DEFINITION. The CSRs: those of RISC-V that R159, R308 and R310 name, and the device's own (R325); what reading and writing
each does; and the CSR instructions. -/

namespace Sys2Proof.Machine

/-! ## Privileged state of RISC-V -/

/-- Writable bits of mstatus (R309: TW and TSR are read-only zero; no F or V state, so FS, VS and XS are zero). -/
def mstatusMask : Word := 0x1e19aa
/-- The bits of mstatus that sstatus shows. -/
def sstatusMask : Word := 0x3000c0122
/-- The bits of mstatus that a write of sstatus changes. -/
def sstatusWrite : Word := 0xc0122
/-- Standard exceptions that medeleg can delegate. -/
def medelegMask : Word := 0xb3ff
/-- Interrupts of the standard and of the device. -/
def sIntMask : Word := 0x70222
def mIntMask : Word := 0x70aaa
/-- The delegations that are read-only ones (R159). -/
def medelegOnes : Word := 0x00030000ff000000
def midelegOnes : Word := 0x70000

/-- Replace the bits of a mask. -/
def mergeBits (mask old new : Word) : Word := (old &&& ~~~mask) ||| (new &&& mask)

/-- A write of mstatus: an MPP of 2 is no mode and leaves the field unchanged. -/
def writeMstatus (old v : Word) : Word :=
  let w := mergeBits mstatusMask old v
  if fld v 11 2 = 2 then setFld w 11 2 (fld old 11 2).toNat else w

/-- A write of satp: Bare or Sv48; another mode leaves the register unchanged (R223). -/
def writeSatp (old v : Word) : Word := if fld v 60 4 = 0 || fld v 60 4 = 9 then v else old

/-- A trap vector: bit 1 of its mode is always 0. -/
def writeTvec (v : Word) : Word := v &&& ~~~(2 : Word)

/-- A saved pc: instructions are 4-byte aligned. -/
def writeEpc (v : Word) : Word := v &&& ~~~(3 : Word)

/-- Pending interrupts: those held, a mailbox that is not empty, a transfer-fault queue that is not empty (R162). -/
def Hart.pending (h : Hart) : Word :=
  h.priv.mip ||| (if h.mail.isEmpty then 0 else 0x10000) ||| (if h.tfq.isEmpty then 0 else 0x20000)

/-! ## Device CSRs -/

/-- dmr (R134). -/
def Hart.dmr (h : Hart) : Word :=
  BitVec.ofNat 64 (h.dev.dmrSize % 2 ^ 12 * 2 ^ 32 + h.dev.dmrRank % 2 ^ 12 * 2 ^ 16 + h.dev.dmrLevel % 8)

/-- budget (R129). -/
def Hart.budget (h : Hart) : Word := zx h.dev.remain ||| (if h.dev.zero then 0x100000000 else 0)

/-- The report word of the head transfer fault (R170). -/
def TfRec.word (r : TfRec) : Word :=
  BitVec.ofNat 64 (2 ^ 63 + r.cause * 2 ^ 48 + r.asid * 2 ^ 32 + r.hart % 2 ^ 12 * 2 ^ 20 + r.hslot % 4 * 2 ^ 16
    + r.copy % 32 * 2 ^ 8 + r.tkind % 8 * 2 ^ 5 + r.treg % 32)

def Hart.xfrec (h : Hart) : Word :=
  match h.tfq with
  | [] => 0
  | r :: _ => r.word

def Hart.xfaddr (h : Hart) : Word :=
  match h.tfq with
  | [] => 0
  | r :: _ => BitVec.ofNat 64 r.va

/-- trdat: the word that trix selects, 0 for an entry never written (R188). -/
def Hart.trdat (h : Hart) : Word :=
  match h.trace.entries[(fld h.dev.trix 2 9).toNat]? with
  | none => 0
  | some e =>
    match (fld h.dev.trix 0 2).toNat with
    | 0 => e.w0 | 1 => e.w1 | 2 => e.w2 | _ => e.w3

/-- geom (R329). -/
def State.geom (s : State) : Word :=
  BitVec.ofNat 64 ((if s.grade = .ubk2304 then 2 ^ 16 else 0) + 4 * s.grade.quads)

/-- homtab (R330). -/
def State.homtab (s : State) (h : Nat) : Word :=
  match s.tenant (s.asidOf h) with
  | some t => BitVec.ofNat 64 (t.homing % 2 ^ 56 / 2048 * 2048)
  | none => 0

/-- A write of rmode (R288). -/
def writeRmode (old v : Word) : Word :=
  let w := v &&& 0xf
  if fld v 0 3 = 6 || fld v 0 3 = 7 then (w &&& 8) ||| (old &&& 7) else w

/-- A write of lease (R233). -/
def writeLease (v : Word) : Word := if v &&& 0xff = 0 then 1 else v &&& 0xff

/-- A write of drift (R232). The field is 13 bits wide. -/
def writeDrift (v : Word) : Word :=
  let w := v &&& 0x1fff
  if w < 256 then 256 else if 4096 < w then 4096 else w

/-- The writable fields of trcfg (R186). -/
def trcfgFields : Word := 0xffffffffff800c2f

/-- The fields of trcfg, FROZEN too: its other bits are 0. -/
def trcfgBits : Word := trcfgFields ||| 0x100

/-- A write of trcfg (R186): FROZEN is cleared by a 1. -/
def writeTrcfg (old v : Word) : Word :=
  let w := mergeBits trcfgFields old v
  if v.getLsbD 8 then w &&& ~~~(0x100 : Word) else w

/-! ## Access -/

/-- Numbers of hardware performance counters 3 to 31 and their events (R310). -/
def isHpm (n : Nat) : Bool :=
  (decide (0xC03 ≤ n) && decide (n ≤ 0xC1F)) || (decide (0xB03 ≤ n) && decide (n ≤ 0xB1F))
    || (decide (0x323 ≤ n) && decide (n ≤ 0x33F))

/-- Is there a CSR of this number (R308, R310, R325; log 10)? -/
def csrExists (n : Nat) : Bool :=
  isHpm n ||
  [0x100, 0x104, 0x105, 0x106, 0x140, 0x141, 0x142, 0x143, 0x144, 0x180, 0x300, 0x301, 0x302, 0x303, 0x304, 0x305, 0x306,
   0x340, 0x341, 0x342, 0x343, 0x344, 0xB00, 0xB02, 0xC00, 0xC01, 0xC02, 0xF11, 0xF12, 0xF13, 0xF14,
   0x5C0, 0x5C1, 0x5C2, 0x5C3, 0x5C4, 0x5C5, 0x800, 0x801, 0x802, 0x803, 0x804, 0x805, 0x806, 0x807, 0x808, 0x809, 0x80A,
   0x80B, 0x80C].contains n

/-- Does counter `i` (0 cycle, 1 time, 2 instret, above: none) answer in this mode (R310)? -/
def Hart.counterOpen (h : Hart) (i : Nat) : Bool :=
  match h.mode with
  | .m => true
  | .s => h.priv.mcounteren.getLsbD i
  | .u => h.priv.mcounteren.getLsbD i && h.priv.scounteren.getLsbD i

/-- May the hart in its mode read the CSR? -/
def Hart.csrReadable (h : Hart) (n : Nat) : Bool :=
  csrExists n && decide (n / 256 % 4 ≤ h.mode.code)
    && (if 0xC00 ≤ n ∧ n ≤ 0xC1F then h.counterOpen (n - 0xC00) else true)
    && !(decide (n = 0x180) && h.mode = .s && h.priv.mstatus.getLsbD 20)

/-- CSRs whose every field is read-only: a write is an illegal instruction (R325, R134, R188, R231; RISC-V for the others).
Writes of the counters 3 to 31 and of misa are ignored (R310). -/
def csrReadOnly (n : Nat) : Bool :=
  [0xC00, 0xC01, 0xC02, 0xF11, 0xF12, 0xF13, 0xF14, 0x5C2, 0x5C3, 0x5C4, 0x802, 0x805, 0x807, 0x80B, 0x80C].contains n

/-- The value a CSR reads as. -/
def State.csrRead (s : State) (n : Nat) : Word :=
  let h := s.me
  let p := h.priv
  let d := h.dev
  match n with
  | 0x100 => p.mstatus &&& sstatusMask
  | 0x104 => p.mie &&& p.mideleg
  | 0x105 => p.stvec
  | 0x106 => p.scounteren
  | 0x140 => p.sscratch
  | 0x141 => p.sepc
  | 0x142 => p.scause
  | 0x143 => p.stval
  | 0x144 => h.pending &&& p.mideleg
  | 0x180 => p.satp
  | 0x300 => p.mstatus
  | 0x301 => 0x8000000000941101
  | 0x302 => p.medeleg
  | 0x303 => p.mideleg
  | 0x304 => p.mie
  | 0x305 => p.mtvec
  | 0x306 => p.mcounteren
  | 0x340 => p.mscratch
  | 0x341 => p.mepc
  | 0x342 => p.mcause
  | 0x343 => p.mtval
  | 0x344 => h.pending
  | 0xF12 => 0x8000000000000A01
  | 0xF13 => 1
  | 0xF14 => BitVec.ofNat 64 s.cur
  | 0xC00 | 0xB00 => BitVec.ofNat 64 s.cycle + h.cycOff
  | 0xC01 => BitVec.ofNat 64 s.ns
  | 0xC02 | 0xB02 => h.instret
  | 0x5C0 => d.drift
  | 0x5C1 => h.budget
  | 0x5C2 => s.homtab s.cur
  | 0x5C3 => h.xfrec
  | 0x5C4 => h.xfaddr
  | 0x800 => d.rmode
  | 0x801 => d.rflags
  | 0x802 => BitVec.ofNat 64 h.pts
  | 0x803 => d.lease
  | 0x804 => d.vactm
  | 0x805 => d.repidx
  | 0x806 => d.gstat
  | 0x807 => h.dmr
  | 0x808 => d.srseed
  | 0x809 => d.trcfg
  | 0x80A => d.trix
  | 0x80B => h.trdat
  | 0x80C => s.geom
  | _ => 0

/-- The withdrawal interrupt is cleared by writing its bit with zero; a one leaves it (R152, R162). -/
def withdrawn (v mip : Word) : Word := if v.getLsbD 18 then mip else mip &&& ~~~(0x40000 : Word)

/-- A write of a privileged register. -/
def PrivCsrs.write (p : PrivCsrs) (n : Nat) (v : Word) : PrivCsrs :=
  match n with
  | 0x100 => { p with mstatus := mergeBits sstatusWrite p.mstatus v }
  | 0x104 => { p with mie := mergeBits (p.mideleg &&& mIntMask) p.mie v }
  | 0x105 => { p with stvec := writeTvec v }
  | 0x106 => { p with scounteren := v &&& 7 }
  | 0x140 => { p with sscratch := v }
  | 0x141 => { p with sepc := writeEpc v }
  | 0x142 => { p with scause := v }
  | 0x143 => { p with stval := v }
  | 0x144 => { p with mip := withdrawn v (mergeBits (p.mideleg &&& 2) p.mip v) }
  | 0x180 => { p with satp := writeSatp p.satp v }
  | 0x300 => { p with mstatus := writeMstatus p.mstatus v }
  | 0x302 => { p with medeleg := (v &&& medelegMask) ||| medelegOnes }
  | 0x303 => { p with mideleg := (v &&& 0x222) ||| midelegOnes }
  | 0x304 => { p with mie := v &&& mIntMask }
  | 0x305 => { p with mtvec := writeTvec v }
  | 0x306 => { p with mcounteren := v &&& 7 }
  | 0x340 => { p with mscratch := v }
  | 0x341 => { p with mepc := writeEpc v }
  | 0x342 => { p with mcause := v }
  | 0x343 => { p with mtval := v }
  | 0x344 => { p with mip := withdrawn v (mergeBits 0x222 p.mip v) }
  | _ => p

/-- A write of a device register that has a writable field. -/
def DevCsrs.write (d : DevCsrs) (n : Nat) (v : Word) : DevCsrs :=
  match n with
  | 0x5C0 => { d with drift := writeDrift v }
  | 0x5C1 => { d with remain := v.setWidth 32, zero := false }
  | 0x800 => { d with rmode := writeRmode d.rmode v }
  | 0x801 => { d with rflags := v &&& 0x1f }
  | 0x803 => { d with lease := writeLease v }
  | 0x804 => { d with vactm := v &&& 7 }
  | 0x806 => { d with gstat := mergeBits 1 d.gstat v }
  | 0x808 => { d with srseed := v }
  | 0x809 => { d with trcfg := writeTrcfg d.trcfg v }
  | 0x80A => { d with trix := v &&& 0x7ff }
  | _ => d

/-- Change a transfer, wherever it is. -/
def State.modTransfer (s : State) (id : Nat) (f : Transfer → Transfer) : State :=
  { s with quads := s.quads.map (fun q =>
      if q.2.transfers.any (fun t => t.id == id) then
        (q.1, { q.2 with transfers := q.2.transfers.map (fun t => if t.id = id then f t else t) })
      else q) }

/-- A write of xfctl (R170): the head copy is resumed, or ends with its page-fault status; the record goes. -/
def State.xfctl (s : State) (fail : Bool) : State :=
  match s.me.tfq with
  | [] => s
  | r :: rest =>
    let s := s.modMe (fun h => { h with tfq := rest })
    s.modTransfer r.transfer (fun t =>
      if fail then { t with paused := false, status := (if r.cause = 13 then 1 else 2), phase := .finished }
      else { t with paused := false })

/-- A write of a CSR that is not read-only. -/
def State.csrPut (s : State) (n : Nat) (v : Word) : State :=
  match n with
  | 0x5C5 => s.xfctl (v.getLsbD 0)
  | 0xB00 => s.modMe (fun h => { h with cycOff := v - BitVec.ofNat 64 s.cycle })
  | 0xB02 => s.modMe (fun h => { h with instret := v - 1 })
  | _ => s.modMe (fun h => { h with priv := h.priv.write n v, dev := h.dev.write n v })

/-- A CSR instruction (RISC-V, Zicsr; R325). -/
def csrBody (op : CsrOp) (n : Nat) (src : CsrSrc) (rd : Reg) (s : State) : Act Unit :=
  if !s.me.csrReadable n then illegal s
  else if csrWrites op src && csrReadOnly n then illegal s
  else
    let old := s.csrRead n
    let s := if csrWrites op src then s.csrPut n (op.apply old (s.csrSrc src)) else s
    .ok () (s.wx rd old)

def csrInstr (op : CsrOp) (n : Nat) (src : CsrSrc) (rd : Reg) (s : State) : Result :=
  ins (rd :: src.regs) [] (csrBody op n src rd) s

/-- CSR_WRITE. -/
def execCsrWrite (op : CsrOp) (csr : BitVec 12) (src : CsrSrc) (rd : Reg) (s : State) : Result :=
  csrInstr op csr.toNat src rd s

/-- BUDGET_WRITE (R129): a write sets REMAIN and clears ZERO. -/
def execBudgetWrite (op : CsrOp) (src : CsrSrc) (rd : Reg) (s : State) : Result := csrInstr op 0x5C1 src rd s

/-- DRIFT_WRITE (R232). -/
def execDriftWrite (op : CsrOp) (src : CsrSrc) (rd : Reg) (s : State) : Result := csrInstr op 0x5C0 src rd s

/-- LEASE_WRITE (R233). -/
def execLeaseWrite (op : CsrOp) (src : CsrSrc) (rd : Reg) (s : State) : Result := csrInstr op 0x803 src rd s

/-- RMODE_WRITE (R288). -/
def execRmodeWrite (op : CsrOp) (src : CsrSrc) (rd : Reg) (s : State) : Result := csrInstr op 0x800 src rd s

/-- TRCFG_WRITE (R186). -/
def execTrcfgWrite (op : CsrOp) (src : CsrSrc) (rd : Reg) (s : State) : Result := csrInstr op 0x809 src rd s

/-- XFCTL_RESUME (R170). -/
def execXfctlResume (op : CsrOp) (src : CsrSrc) (rd : Reg) (s : State) : Result := csrInstr op 0x5C5 src rd s

/-- XFCTL_FAIL (R170). -/
def execXfctlFail (op : CsrOp) (src : CsrSrc) (rd : Reg) (s : State) : Result := csrInstr op 0x5C5 src rd s

end Sys2Proof.Machine
end

