-- ==== Sys2Proof/Machine/Handles.lean ====
section
/-! DEFINITION. Handles (R397 to R399): their fields, well-formedness, the place of an element; and the bytes that regions
over handle registers cover: windows (R127, R477) and the exclusion list (R149). -/

namespace Sys2Proof.Machine

/-- The fields of a handle (R397). -/
structure Handle where
  base : Nat
  kind : Nat
  fmt : Nat
  dims : Nat
  space : Nat
  flags : Nat
  spare : Nat
  ext : List Nat
  stride : List Int
  deriving DecidableEq, Repr

def Handle.ofLine (l : Line) : Handle :=
  { base := lineGet l 0 8, kind := lineGet l 8 1, fmt := lineGet l 9 1, dims := lineGet l 10 1, space := lineGet l 11 1,
    flags := lineGet l 12 2, spare := lineGet l 14 2,
    ext := (List.range 4).map (fun i => lineGet l (16 + 4 * i) 4),
    stride := (List.range 4).map (fun i => natToInt 64 (lineGet l (32 + 8 * i) 8)) }

/-- The dimension count of a handle; none when the dims field is 0 or above 4 (R375). -/
def Handle.count (h : Handle) : Option Nat := if 1 ≤ h.dims ∧ h.dims ≤ 4 then some h.dims else none

/-- The element format. -/
def Handle.format (h : Handle) : Fmt := (Fmt.ofCode h.fmt).getD .i8

def Handle.pad (h : Handle) : Nat := h.flags % 8

def Handle.strideAt (h : Handle) (i : Nat) : Int := h.stride.getD i 0
def Handle.extAt (h : Handle) (i : Nat) : Nat := h.ext.getD i 0

/-- Well-formedness (R399). -/
def Handle.wf (h : Handle) : Bool :=
  let d := h.dims
  let bits := h.format.bits
  let size := bits / 8
  let inner := h.strideAt (d - 1)
  decide (h.kind ≤ 2) && decide (h.fmt ≤ 11) && decide (h.space ≤ 3) && decide (1 ≤ d) && decide (d ≤ 4)
    && decide (h.flags ≤ 4) && decide (h.spare = 0)
    && (h.ext.drop d).all (· == 0) && (h.stride.drop d).all (· == 0)
    && (match h.kind with
        | 0 => if bits = 4 then inner == 0 else (h.stride.take d).all (fun s => s % size == 0)
        | 1 => decide (8 ≤ bits) && decide ((8 + 64 * size : Int) ≤ inner)
        | _ => decide (8 ≤ bits) && decide (2 ≤ d) && inner == 0)

/-- Does element x lie inside the tensor (R398)? -/
def Handle.inside (h : Handle) (x : List Int) : Bool :=
  (x.zip h.ext).all (fun c => decide (0 ≤ c.1) && decide (c.1 < (c.2 : Int)))

/-- Σ x_i × stride_i over the first `n` dimensions. -/
def Handle.dot (h : Handle) (x : List Int) (n : Nat) : Int :=
  ((x.zip h.stride).take n).foldl (fun a c => a + c.1 * c.2) 0

/-- An address modulo 2^64. -/
def addr64 (v : Int) : Nat := intToNat 64 v

/-- Where an element is: its first byte and, for 4-bit formats, the nibble; for a bitmap-sparse tensor, the place of its
group's mask and its index in the group. -/
inductive ElemPlace
  | at_ (addr : Nat) (nibble : Option Nat)
  | group (mask : Nat) (j : Nat)
  deriving DecidableEq, Repr

/-- The place of element x (R398). -/
def Handle.place (h : Handle) (x : List Int) : ElemPlace :=
  let d := h.dims
  let last := x.getD (d - 1) 0
  let size : Int := h.format.bytes
  match h.kind with
  | 0 =>
    if h.format.bits = 4 then
      .at_ (addr64 (h.base + h.dot x (d - 1) + last / 2)) (some (last % 2).toNat)
    else .at_ (addr64 (h.base + h.dot x d)) none
  | 1 => .group (addr64 (h.base + h.dot x (d - 1) + last / 64 * h.strideAt (d - 1))) (last % 64).toNat
  | _ =>
    let e : Int := 64 / size
    let row := x.getD (d - 2) 0
    .at_ (addr64 (h.base + h.dot x (d - 2) + row / 8 * h.strideAt (d - 2) + last / e * 512 + row % 8 * 64
      + last % e * size)) none

/-- The packed element's address in a bitmap-sparse group with mask M; none when the bit is clear. -/
def packedAt (mask m j size : Nat) : Option Nat :=
  if natBit m j then some ((mask + 8 + popCountTo m j * size) % 2 ^ 64) else none

/-- A number in memory as the device sees it for an ASID on a quad, by virtual address: 0 where it does not translate. -/
def State.peekVirtual (s : State) (q asid va n : Nat) : Nat :=
  match s.engineTranslate q asid .load va with
  | .ok p => s.peekNat p.addr n
  | _ => 0

/-- The code of an element, as the device sees it. -/
def State.peekElement (s : State) (q asid : Nat) (h : Handle) (x : List Int) : Nat :=
  let n := h.format.bytes
  match h.place x with
  | .at_ a nib =>
    let v := s.peekVirtual q asid a n
    match nib with
    | some i => natBits v (4 * i) 4
    | none => v
  | .group m j =>
    match packedAt m (s.peekVirtual q asid m 8) j n with
    | some a => s.peekVirtual q asid a n
    | none => 0

/-- The bytes that an element occupies, as ranges (start, length). For a bitmap-sparse tensor these are the group's mask
and the packed element, if its mask bit is set (log 15). -/
def State.occupied (s : State) (q asid : Nat) (h : Handle) (x : List Int) : List (Nat × Nat) :=
  match h.place x with
  | .at_ a _ => [(a, h.format.bytes)]
  | .group m j =>
    let mk := s.peekVirtual q asid m 8
    (m, 8) :: (match packedAt m mk j h.format.bytes with
      | some a => [(a, h.format.bytes)]
      | none => [])

/-- Do two byte ranges meet, modulo 2^64? -/
def rangesMeet (a n b m : Nat) : Bool :=
  decide ((b + 2 ^ 64 - a) % 2 ^ 64 < n) || decide ((a + 2 ^ 64 - b) % 2 ^ 64 < m)

/-- Does a range lie in another, modulo 2^64? -/
def rangeIn (a n b m : Nat) : Bool := decide ((a + 2 ^ 64 - b) % 2 ^ 64 + n ≤ m)

/-- May a region be taken over a handle: equal dimension counts and a well-formed handle (R127)? -/
def overHandle (r : Region) (h : Handle) : Bool := h.wf && decide (h.dims = r.d)

/-- Elements of a region inside a handle, tested one after the other in canonical order. -/
def anyElem (r : Region) (h : Handle) (p : List Int → Bool) : Nat → Bool
  | 0 => false
  | n + 1 => anyElem r h p n || (let x := r.nth n; h.inside x && p x)

/-- Does a byte range touch the bytes that a region over a handle covers? `remote` ranges lie in a send queue's window, which the handles
of the remote space name (R412). -/
def State.touches (s : State) (q asid : Nat) (r : Region) (h : Handle) (a n : Nat) (remote : Bool) : Bool :=
  overHandle r h && (h.space == 3) == remote &&
    anyElem r h (fun x => (s.occupied q asid h x).any (fun o => rangesMeet a n o.1 o.2)) r.count

/-- Is a byte covered by a region over a handle? -/
def State.coversByte (s : State) (q asid : Nat) (r : Region) (h : Handle) (a : Nat) (remote : Bool) : Bool :=
  s.touches q asid r h a 1 remote

/-- Does a read of the task on the current hart touch its exclusion list (R149)? Entry i is taken over h i. The supervisor's own
accesses are not the task's. -/
def State.excluded (s : State) (va n : Nat) (remote : Bool := false) : Bool :=
  let h := s.me
  h.mode == .u && !h.win.excl.isEmpty &&
    h.win.excl.any (fun e => s.touches (quadOf s.cur) (s.asidOf s.cur) e.2 (Handle.ofLine (s.hgetN e.1)) va n remote)

/-- Does a byte range lie in a window (R477)? No table: not checked. -/
def State.inWindow (s : State) (w : Option (List (Option Region))) (a n : Nat) (remote : Bool) : Bool :=
  match w with
  | none => true
  | some es =>
    let q := quadOf s.cur
    let asid := s.asidOf s.cur
    (List.range n).all (fun k =>
      es.zipIdx.any (fun e =>
        match e.1 with
        | some r => s.coversByte q asid r (Handle.ofLine (s.hgetN e.2)) ((a + k) % 2 ^ 64) remote
        | none => false))

end Sys2Proof.Machine
end

