-- ==== Sys2Proof/Machine/Scalar.lean ====
section
/-! DEFINITION. The scalar instructions: computations, control transfers, loads, stores, AMOs, LR, SC, the standard fences,
WFI, the returns and SFENCE.VMA (12, 14). -/

namespace Sys2Proof.Machine

/-! ## Accesses of the hart -/

/-- A loaded value or a poison trap (R230). -/
def State.loaded (s : State) (va : Word) (poison : Bool) (v : Nat) : Act Nat :=
  if poison then .trap 29 va s else .ok v s

/-- What is down on the way of the current hart to a cached line: a die link or the port of a host line (R35, R45). -/
def State.lineDown (s : State) (p : Place) : Option Nat :=
  match s.linkTarget (dieOf s.cur) (dieOfHome p.home) with
  | some t => some t
  | none => if s.portDown p then some (p.home - 0x1000) else none

/-- An access fault for a way that is down, which is reported. -/
def State.deadTrap {α : Type} (s : State) (cause : Nat) (va : Word) (target : Nat) : Act α :=
  .trap cause va (s.reportLink s.cur (some target))

/-- Bytes of a copy; a poisoned one of a host line is an error of the host's data, which is reported (R43). -/
def State.copied (s : State) (p : Place) (va : Word) (l : L1Line) (off n : Nat) : Act Nat :=
  if l.poison && p.kind == .hostC then
    .trap 29 va (s.modMe (·.addFail failPoison (p.home - 0x1000) false))
  else s.loaded va l.poison (lineGet l.data off n)

/-- hart_load (R236): the bytes of a cached line, or the request that brings it. -/
def State.loadCached (s : State) (p : Place) (va : Word) (n : Nat) (asid : Nat) : Act Nat :=
  let h := s.me
  let line := p.addr / 64 * 64
  let key := l1Key (lineNo p.addr) p.home
  let off := p.addr % 64
  let ask (w : Option Nat) : Act Nat :=
    match h.ld with
    | some q =>
      match (if q.kind = .line && q.key = key then q.fault else none) with
      | some c => .trap c va (s.modMe (fun h => { h with ld := none }))
      | none => .stall s
    | none =>
      match s.lineDown p with
      | some t => s.deadTrap 5 va t
      | none =>
        let s := s.send (.read s.cur h.inc p.home line h.pts w h.dev.lease.toNat 0 asid)
        .stall (s.modMe (fun h => { h with ld := some { kind := .line, key := key } }))
  match h.l1At key with
  | some l =>
    match l.st with
    | .pending => s.copied p va l off n
    | .owned =>
      let h := h.raise l.wts
      if s.fits (dieOf s.cur) (max l.rts h.pts) then
        (s.setHart s.cur (h.putL1 key { l with rts := max l.rts h.pts })).copied p va l off n
      else .stall s
    | .shared =>
      if h.pts ≤ l.rts then (s.setHart s.cur (h.raise l.wts)).copied p va l off n
      else ask (some l.wts)
  | none => ask none

/-- A load from a vault (R244), after the hart's own stores to the bytes (R259). -/
def State.loadVault (s : State) (p : Place) (va : Word) (n : Nat) : Act Nat :=
  match s.linkTarget (dieOf s.cur) (dieOfQuad p.home) with
  | some t => s.deadTrap 5 va t
  | none =>
    if s.vaultPosted s.cur p.addr n then .stall s
    else
    let t := (s.quad p.home).vclk
    (s.modMe (·.raise t)).loaded va (s.poisoned p.addr) (s.readNat p.addr n)

/-- An access that is performed outside the hart's die: sent once, then awaited; the answer is a value or a fault (R45). `bad` names
what is down on its way, and `cause` the access fault that this raises. -/
def State.remote (s : State) (va : Word) (addr cause : Nat) (bad : Option Nat) (send : State → State) : Act Nat :=
  match s.me.ld with
  | some p =>
    if p.kind = .remote && p.key = addr && p.done then
      let s := s.modMe (fun h => { h with ld := none })
      match p.fault with
      | some c => .trap c va (s.modMe (fun h => match p.time with | some t => h.raise t | none => h))
      | none => .ok p.val (s.modMe (fun h => match p.time with | some t => h.raise t | none => h))
    else .stall s
  | none =>
    match bad with
    | some t => s.deadTrap cause va t
    | none => .stall ((send s).modMe (fun h => { h with ld := some { kind := .remote, key := addr } }))

/-- Why a port cannot carry a load or an AMO: the way to it or the port is down (R35, R45). -/
def State.portBad (s : State) (port : Nat) : Option Nat :=
  match s.linkTarget (dieOf s.cur) (portDie port) with
  | some t => some t
  | none => if (s.port port).up then none else some (0x2000 + port)

/-- A load at a place. -/
def State.loadPlace (s : State) (p : Place) (va : Word) (n : Nat) : Act Nat :=
  match s.me.forward p.addr n with
  | some (some v) => .ok v s
  | some none => .stall s
  | none =>
    match p.kind with
    | .vault => s.loadVault p va n
    | .hbm | .hostC => s.loadCached p va n (s.view s.cur false).asid
    | .hostNC => s.remote va p.addr 5 (s.portBad p.home) (·.askHost (.load s.cur p.home p.addr n))

/-- load(addr, n) of a hart: exclusion, alignment, translation, then the access (R149, R165, R260). -/
def State.load (s : State) (va : Word) (n : Nat) : Act Nat :=
  if s.excluded va.toNat n then .trap 25 va s
  else if va.toNat % n ≠ 0 then .trap 4 va s
  else (s.resolve .load va.toNat).andThen fun p s => s.loadPlace p va n

/-- Put a store into the buffer of the hart that executes. -/
def State.buffer (s : State) (p : Place) (mask : BitVec 64) (d : Line) (asid : Nat) : State :=
  let s := if p.kind = .hostNC then s.notePort s.me.task p.home else s
  s.modMe (·.pushStore p mask d asid)

/-- A store at a place: it enters the store buffer when there is room (R192, R262). -/
def State.storePlace (s : State) (p : Place) (mask : BitVec 64) (d : Line) : Act Unit :=
  if 16 ≤ s.me.sb.length then .stall s
  else .ok () (s.buffer p mask d (s.view s.cur false).asid)

/-- store(addr, n, v) of a hart. -/
def State.store (s : State) (va : Word) (n v : Nat) : Act Unit :=
  if va.toNat % n ≠ 0 then .trap 6 va s
  else
    (s.resolve .store va.toNat).andThen fun p s =>
      let off := p.addr % 64
      s.storePlace p (byteMask off n) (BitVec.ofNat 512 (v % 2 ^ (8 * n) * 2 ^ (8 * off)))

/-! ## Instructions of several accesses -/

/-- An access that an instruction makes once, however often it runs again while it waits. -/
def State.once (s : State) (key : Nat) (act : State → Act Nat) : Act Nat :=
  match Store.find? s.me.partials key with
  | some v => .ok v s
  | none =>
    (act s).andThen fun v s => .ok v (s.modMe (fun h => { h with partials := Store.put h.partials key v }))

/-- The parts of a byte range by 64-byte line, as (address, length). -/
def linePieces (va n : Nat) : Nat → List (Nat × Nat)
  | 0 => []
  | fuel + 1 =>
    if n = 0 then []
    else
      let k := min n (64 - va % 64)
      (va, k) :: linePieces ((va + k) % 2 ^ 64) (n - k) fuel

/-- A byte range in aligned words of 8 bytes. -/
def wordPieces (va n : Nat) : List (Nat × Nat) := (List.range (n / 8)).map (fun i => ((va + 8 * i) % 2 ^ 64, 8))

/-- Translate the start of each part, before any of them is accessed. -/
def State.resolveAll (s : State) (acc : Access) : List (Nat × Nat) → Act (List Place)
  | [] => .ok [] s
  | (va, _) :: r =>
    (s.resolve acc va).andThen fun p s => (s.resolveAll acc r).andThen fun ps s => .ok (p :: ps) s

/-- Translate the start of each part of one element (R429): where parts fail, the cause that R165 ranks first is raised, the
first part's among equals. A cause found is kept while a later part is still being translated. -/
def State.resolveRanked (s : State) (acc : Access) : List (Nat × Nat) → Act (List Place)
  | [] => .ok [] s
  | (va, _) :: r =>
    let one : Act Place := match Store.find? s.me.partials (2 ^ 100 + va) with
      | some c => .trap c (BitVec.ofNat 64 va) s
      | none => s.resolve acc va
    match one with
    | .ok p s => (s.resolveRanked acc r).andThen fun ps s => .ok (p :: ps) s
    | .stall s => .stall s
    | .trap c v s =>
      match (s.modMe (fun h => { h with partials := Store.put h.partials (2 ^ 100 + va) c })).resolveRanked acc r with
      | .ok _ s => .trap c v s
      | .stall s => .stall s
      | .trap c' v' s => if causeRank c' < causeRank c then .trap c' v' s else .trap c v s

/-- Perform loads in order at places already checked; each part is (stval of a poison trap, length). `key` tells one element's
accesses from another's to the same bytes. -/
def State.loadPlacesAt (s : State) (key : Nat) : List (Nat × Nat) → List Place → Act (List Nat)
  | (va, n) :: r, p :: ps =>
    (s.once (key + p.addr * 128 + n) (fun s => s.loadPlace p (BitVec.ofNat 64 va) n)).andThen fun v s =>
      (s.loadPlacesAt key r ps).andThen fun vs s => .ok (v :: vs) s
  | _, _ => .ok [] s

/-- The same, for parts of different places. -/
def State.loadPlaces (s : State) (parts : List (Nat × Nat)) (ps : List Place) : Act (List Nat) := s.loadPlacesAt 0 parts ps

/-- Loads of several parts: every part is translated and checked before the first is performed. No part crosses a line. -/
def State.loadList (s : State) (parts : List (Nat × Nat)) : Act (List Nat) :=
  (s.resolveAll .load parts).andThen fun ps s => s.loadPlaces parts ps

/-- The bytes of values loaded in parts. -/
def partBytes (parts : List (Nat × Nat)) (vs : List Nat) : List Byte :=
  (parts.zip vs).flatMap (fun x => bytesOf x.1.2 x.2)

/-- Enter the instruction's waiting stores into the buffer as far as there is room; it waits for the rest (R192, R433). -/
def State.enterMore (s : State) : Act Unit :=
  let room := 16 - s.me.sb.length
  let rest := s.me.entering.drop room
  let s := ((s.me.entering.take room).foldl (fun s e => s.buffer e.place e.mask e.data e.asid) s).modMe (fun h =>
    { h with entering := rest })
  if rest.isEmpty then .ok () s else .stall s

/-- The stores of an instruction: all are checked once, at issue, before the first enters the buffer (R433). -/
def State.enterStores (s : State) (check : State → Act (List SbEntry)) : Act Unit :=
  (s.once (2 ^ 80) (fun s =>
    (check s).andThen fun es s => .ok 0 (s.modMe (fun h => { h with entering := es })))).andThen fun _ s => s.enterMore

/-- The store-buffer entries of a byte string, one for each part. -/
def byteEntries (asid : Nat) : List (Nat × Nat) → List Place → List Byte → List SbEntry
  | (_, n) :: r, p :: ps, bs =>
    let off := p.addr % 64
    { place := p, mask := byteMask off n, data := BitVec.ofNat 512 (ofBytes (bs.take n) * 2 ^ (8 * off)), asid := asid } ::
      byteEntries asid r ps (bs.drop n)
  | _, _, _ => []

/-- Stores of a byte string in parts: every part is translated and checked before the first enters the buffer. -/
def State.storeParts (s : State) (parts : List (Nat × Nat)) (bs : List Byte) : Act Unit :=
  s.enterStores (fun s => (s.resolveAll .store parts).andThen fun ps s =>
    .ok (byteEntries (s.view s.cur false).asid parts ps bs) s)

/-- Stores of a byte string, one for each 64-byte line. -/
def State.storeBytes (s : State) (va : Nat) (bs : List Byte) : Act Unit := s.storeParts (linePieces va bs.length (bs.length + 1)) bs

/-- Stores of a byte string in aligned words of 8 bytes, in ascending order. -/
def State.storeWords (s : State) (va : Nat) (bs : List Byte) : Act Unit := s.storeParts (wordPieces va bs.length) bs

/-! ## Read-modify-writes (R240, R241, R244, R272) -/

/-- At a vault. -/
def State.amoVault (s : State) (p : Place) (va : Word) (n : Nat) (op : AmoOp) (v cmp : Nat) : Act Nat :=
  match s.linkTarget (dieOf s.cur) (dieOfQuad p.home) with
  | some t => s.deadTrap 7 va t
  | none =>
  if s.vaultPosted s.cur p.addr n then .stall s
  else if s.poisoned p.addr then .trap 29 va s
  else
    let old := s.readNat p.addr n
    let (new, wr) := amoResult op n old v cmp
    if wr then
      let (t, s) := s.vaultPut p.home p.addr n new s.me.pts
      .ok old (s.modMe (·.raise t))
    else
      let t := (s.quad p.home).vclk
      .ok old (s.modMe (·.raise t))

/-- Get the line owned: the copy, or a wait for the grant (R238). `amo` is the AMO that asks for it. -/
def State.getOwned (s : State) (p : Place) (va : Word) (asid : Nat) (amo : Option AmoReq) : Act L1Line :=
  let h := s.me
  let line := p.addr / 64 * 64
  let key := l1Key (lineNo p.addr) p.home
  let ask (w : Option Nat) : Act L1Line :=
    if h.st.any (fun q => !q.done) then .stall s
    else
      let s := s.send (.own s.cur h.inc p.home line h.pts w asid)
      .stall (s.modMe (fun h => { h with st := some { kind := .own, key := key, amo := amo } }))
  match (h.st.bind (fun q => if q.key = key && q.answered then q.fault else none)) with
  | some c => .trap c va (s.modMe (fun h => { h with st := none }))
  | none =>
    match h.l1At key with
    | some l =>
      if l.st = .owned then
        if !s.fits (dieOf s.cur) (h.storeTime key) then .stall s
        else
          let s := s.modMe (fun h => { h with st := none })
          if l.poison then .trap 29 va s else .ok l s
      else ask (some l.wts)
    | none => ask none

/-- In an owned copy; a recall may have made the AMO perform already (R239). -/
def State.amoOwned (s : State) (p : Place) (va : Word) (n : Nat) (op : AmoOp) (v cmp asid : Nat) : Act Nat :=
  let key := l1Key (lineNo p.addr) p.home
  let a : AmoReq := { addr := p.addr, size := n, op := op, val := v, cmp := cmp }
  match s.me.st.bind (fun q => if q.key = key && q.answered && q.fault.isNone then some q.val else none) with
  | some old => .ok old (s.modMe (fun h => { h with st := none }))
  | none =>
    (s.getOwned p va asid (some a)).andThen fun l s =>
      match (s.me.amoIn key l a).1 with
      | some old => .ok old (s.modMe (fun h => (h.amoIn key l a).2))
      | none => .trap 29 va s

/-- Does PCIe have an AtomicOp for it (R31)? -/
def pcieAmo : AmoOp → Bool
  | .swap | .add | .cas => true
  | _ => false

/-- An AMO at a place. -/
def State.amoPlace (s : State) (p : Place) (va : Word) (n : Nat) (op : AmoOp) (v cmp : Nat) : Act Nat :=
  let asid := (s.view s.cur false).asid
  match p.kind with
  | .vault => s.amoVault p va n op v cmp
  | .hbm =>
    if dieOfHome p.home = dieOf s.cur then s.amoOwned p va n op v cmp asid
    else
      s.remote va p.addr 7 (s.linkTarget (dieOf s.cur) (dieOfHome p.home)) (fun s =>
        s.send (.amo s.cur s.me.inc p.home p.addr n op v cmp s.me.pts asid))
  | .hostC => s.remote va p.addr 7 (s.portBad (p.home - 0x3000))
      (fun s => s.askHost (.amoC s.cur s.me.inc (p.home - 0x3000) p.addr n op v cmp s.me.pts))
  | .hostNC =>
    if pcieAmo op then s.remote va p.addr 7 (s.portBad p.home) (·.askHost (.amo s.cur p.home p.addr n op v cmp))
    else .trap 7 va s

/-- Everything before an AMO, LR or SC: it starts only as the sole entry of the store buffer, and the rl bit acts as a
release at package scope (R262, R272). -/
def State.soleEntry (s : State) (rl : Bool) : Act Unit :=
  let h := s.me
  if !h.sb.isEmpty then .stall s
  else if rl then
    if h.unacked = 0 then .ok () (s.modMe (fun h => h.raise h.ackTime)) else .stall s
  else .ok () s

/-- The address checks of an AMO: exclusion (R149), alignment (R260), translation. -/
def State.amoAddr (s : State) (va : Word) (n misaligned : Nat) (acc : Access) : Act Place :=
  if s.excluded va.toNat n then .trap 25 va s
  else if va.toNat % n ≠ 0 then .trap misaligned va s
  else s.resolve acc va.toNat

/-! ## Meanings -/

/-- INTEGER_ALU. -/
def aluRegs : Alu → List Reg
  | .rr _ rd a b => [rd, a, b]
  | .ri _ rd a _ | .sh _ rd a _ | .un _ rd a => [rd, a]
  | .lui rd _ | .auipc rd _ => [rd]

def aluEval (s : State) : Alu → Reg × Word
  | .rr op rd a b => (rd, op.eval (s.rx a) (s.rx b))
  | .ri op rd a imm => (rd, op.eval (s.rx a) imm)
  | .sh op rd a amt => (rd, op.eval (s.rx a) amt)
  | .un op rd a => (rd, op.eval (s.rx a))
  | .lui rd imm => (rd, sx (imm ++ 0#12))
  | .auipc rd imm => (rd, s.me.pc + sx (imm ++ 0#12))

def execIntegerAlu (op : Alu) (s : State) : Result :=
  ins (aluRegs op) [] (fun s => let r := aluEval s op; .ok () (s.wx r.1 r.2)) s

/-- Go to a target: cause 0 when it is not 4-byte aligned (R166); a taken transfer is a trace event of kind 1. -/
def State.goto (s : State) (target : Word) : Act Unit :=
  if target.toNat % 4 ≠ 0 then .trap 0 target s
  else .ok () ((s.modMe (fun h => { h with npc := target })).record 1 1 target)

/-- CONTROL_TRANSFER. -/
def ctRegs : Ct → List Reg
  | .branch _ a b _ => [a, b]
  | .jal rd _ => [rd]
  | .jalr rd a _ => [rd, a]

def ctBody (op : Ct) (s : State) : Act Unit :=
  match op with
  | .branch c a b off =>
    if c.holds (s.rx a) (s.rx b) then s.goto (s.me.pc + offset off) else .ok () s
  | .jal rd off =>
    let link := s.me.npc
    (s.goto (s.me.pc + offset off)).andThen fun _ s => .ok () (s.wx rd link)
  | .jalr rd a imm =>
    let link := s.me.npc
    (s.goto ((s.ea a imm) &&& ~~~(1 : Word))).andThen fun _ s => .ok () (s.wx rd link)

def execControlTransfer (op : Ct) (s : State) : Result := ins (ctRegs op) [] (ctBody op) s

/-- LOAD. -/
def execLoad (w : LoadWidth) (rd rs1 : Reg) (imm : BitVec 12) (s : State) : Result :=
  ins [rd, rs1] [] (fun s =>
    let va := s.ea rs1 imm
    (s.load va w.bytes).andThen fun v s => .ok () ((s.wx rd (w.extend v)).record 3 3 va)) s

/-- STORE. -/
def execStore (w : StoreWidth) (rs2 rs1 : Reg) (imm : BitVec 12) (s : State) : Result :=
  ins [rs2, rs1] [] (fun s =>
    let va := s.ea rs1 imm
    (s.store va w.bytes (s.rx rs2).toNat).andThen fun _ s => .ok () (s.record 3 4 va)) s

/-- The value an AMO of `n` bytes writes to rd: sign-extended for w. -/
def amoExtend (dw : Bool) (v : Nat) : Word := if dw then BitVec.ofNat 64 v else sx (BitVec.ofNat 32 v)

/-- AMO. -/
def execAmo (op : AmoOp) (dw _aq rl : Bool) (rd rs1 rs2 : Reg) (s : State) : Result :=
  ins [rd, rs1, rs2] [] (fun s =>
    let va := s.rx rs1
    let n := if dw then 8 else 4
    (s.amoAddr va n 6 .store).andThen fun p s =>
    (s.soleEntry rl).andThen fun _ s =>
    (s.amoPlace p va n op (s.rx rs2).toNat (s.rx rd).toNat).andThen fun old s =>
      .ok () ((s.wx rd (amoExtend dw old)).record 3 5 va)) s

/-- AMOCAS_Q: the pair at rd is compared, the pair at rs2 written; x0 stands for a zero pair (R478). -/
def pairOf (s : State) (r : Reg) : Nat :=
  if r = 0 then 0 else (s.rx r).toNat + (s.rx (r + 1)).toNat * 2 ^ 64

def execAmocasQ (_aq rl : Bool) (rd rs1 rs2 : Reg) (s : State) : Result :=
  let odd (r : Reg) : List Reg := if r = 0 then [] else [r, r + 1]
  ins (rs1 :: odd rd ++ odd rs2) [] (fun s =>
    if rd.getLsbD 0 || rs2.getLsbD 0 then illegal s
    else
      let va := s.rx rs1
      (s.amoAddr va 16 6 .store).andThen fun p s =>
      (s.soleEntry rl).andThen fun _ s =>
      (s.amoPlace p va 16 .cas (pairOf s rs2) (pairOf s rd)).andThen fun old s =>
        let s := if rd = 0 then s
          else (s.wx rd (BitVec.ofNat 64 old)).wx (rd + 1) (BitVec.ofNat 64 (old / 2 ^ 64))
        .ok () (s.record 3 5 va)) s

/-- LR at a place (R238, R240, R244, R272). -/
def State.lrPlace (s : State) (p : Place) (va : Word) (n : Nat) : Act Nat :=
  let asid := (s.view s.cur false).asid
  match p.kind with
  | .vault =>
    (s.loadVault p va n).andThen fun v s =>
      .ok v (s.modMe (fun h => { h with resv := some { vault := true, key := p.addr / 64 * 64 } }))
  | .hbm =>
    if dieOfHome p.home = dieOf s.cur then
      (s.getOwned p va asid none).andThen fun l s =>
        let key := l1Key (lineNo p.addr) p.home
        .ok (lineGet l.data (p.addr % 64) n)
          (s.modMe (fun h =>
            let h := h.raise l.wts
            { h.putL1 key { l with rts := max l.rts h.pts } with resv := some { vault := false, key := key } }))
    else
      (s.remote va p.addr 5 (s.linkTarget (dieOf s.cur) (dieOfHome p.home)) (fun s => s.send (.lrRead s.cur s.me.inc p.home p.addr n s.me.pts asid))).andThen
        fun v s => .ok v (s.modMe (fun h => { h with resv := none }))
  | .hostC | .hostNC => .trap 7 va s

/-- LR. -/
def execLr (dw _aq rl : Bool) (rd rs1 : Reg) (s : State) : Result :=
  ins [rd, rs1] [] (fun s =>
    let va := s.rx rs1
    let n := if dw then 8 else 4
    (s.amoAddr va n 4 .load).andThen fun p s =>
    (s.soleEntry rl).andThen fun _ s =>
    (s.lrPlace p va n).andThen fun old s => .ok () ((s.wx rd (amoExtend dw old)).record 3 5 va)) s

/-- SC at a place: 0 when it succeeds, 1 when it fails (R238, R240, R244). -/
def State.scPlace (s : State) (p : Place) (va : Word) (n v : Nat) : Act Nat :=
  let clear (s : State) : State := s.modMe (fun h => { h with resv := none })
  let h := s.me
  match p.kind with
  | .vault =>
    match s.linkTarget (dieOf s.cur) (dieOfQuad p.home) with
    | some t => s.deadTrap 7 va t
    | none =>
    if s.vaultPosted s.cur p.addr n then .stall s
    else if h.resv = some { vault := true, key := p.addr / 64 * 64 } then
      let (t, s) := s.vaultPut p.home p.addr n (v % 2 ^ (8 * n)) h.pts
      .ok 0 (clear (s.modMe (·.raise t)))
    else .ok 1 (clear (s.modMe (·.raise (s.quad p.home).vclk)))
  | .hbm =>
    let key := l1Key (lineNo p.addr) p.home
    match h.l1At key with
    | some l =>
      if l.st = .owned && h.resv = some { vault := false, key := key } then
        if !s.fits (dieOf s.cur) (h.storeTime key) then .stall s
        else
        let off := p.addr % 64
        .ok 0 (clear (s.modMe (fun h =>
          h.storeOwned key l (byteMask off n) (BitVec.ofNat 512 (v % 2 ^ (8 * n) * 2 ^ (8 * off))))))
      else .ok 1 (clear s)
    | none => .ok 1 (clear s)
  | .hostC | .hostNC => .trap 7 va s

/-- SC. -/
def execSc (dw _aq rl : Bool) (rd rs1 rs2 : Reg) (s : State) : Result :=
  ins [rd, rs1, rs2] [] (fun s =>
    let va := s.rx rs1
    let n := if dw then 8 else 4
    (s.amoAddr va n 6 .store).andThen fun p s =>
    (s.soleEntry rl).andThen fun _ s =>
    (s.scPlace p va n (s.rx rs2).toNat).andThen fun r s =>
      .ok () ((s.wx rd (BitVec.ofNat 64 r)).record 3 5 va)) s

/-- Is a posted store of the hart still on its way to where it is performed (R256)? -/
def State.unperformed (s : State) : Bool :=
  s.msgs.any (fun m =>
    match m.2 with
    | .write src .. | .vaultWrite src .. => src == s.cur
    | _ => false)

/-- FENCE.S full at scopes 0 to 3: the store buffer is empty and every earlier access is performed (R266, R267). -/
def State.fenceFullDie (s : State) : Act Unit :=
  if s.me.sb.isEmpty && !s.unperformed then .ok () s else .stall s

/-- FENCE.S release at package scope: the buffer is empty and every posted store is acknowledged or has failed (R266). -/
def State.releasePackage (s : State) : Act Unit :=
  let h := s.me
  if h.sb.isEmpty && h.unacked = 0 then .ok () (s.modMe (fun h => h.raise h.ackTime)) else .stall s

/-- FENCE.S release at system scope: also the zero-length reads of R32, one to each port that has carried posted writes. -/
def State.releaseSystem (s : State) : Act Unit :=
  (s.releasePackage).andThen fun _ s =>
    let ports := s.me.postedPorts.filter (fun p => (s.port p.1).up)
    let s := ports.foldl (fun s p => s.askHost (.zlr s.cur p.1 p.2)) (s.modMe (fun h => { h with postedPorts := [] }))
    if s.hostReqs.any (fun r => match r.2 with | .zlr h _ _ => h == s.cur | _ => false) then .stall s else .ok () s

/-- FENCE (R267). -/
def execFence (_fm _pred _succ : BitVec 4) (_rd _rs1 : Reg) (s : State) : Result :=
  ins [] [] (fun s => s.fenceFullDie) s

/-- FENCE_TSO (R267). -/
def execFenceTso (_rd _rs1 : Reg) (s : State) : Result := ins [] [] (fun s => s.fenceFullDie) s

/-- FENCE_I completes with no effect (R267). -/
def execFenceI (_rd _rs1 : Reg) (_imm : BitVec 12) (s : State) : Result := ins [] [] (fun s => .ok () s) s

/-- WFI (R309): the hart waits until any interrupt is pending, enabled or not; one that is taken then saves the pc of the next
instruction. -/
def execWfi (s : State) : Result :=
  ins [] [] (fun s =>
    atLeast .s (fun s => if s.me.pending = 0 then .ok () (s.modMe (fun h => { h with status := .waiting })) else .ok () s) s) s

/-- SRET (R309). -/
def execSret (s : State) : Result :=
  ins [] [] (fun s => atLeast .s (fun s => .ok () (s.modMe (·.doSret))) s) s

/-- MRET (R309). -/
def execMret (s : State) : Result :=
  ins [] [] (fun s => atLeast .m (fun s => .ok () (s.modMe (·.doMret))) s) s

/-- Does SFENCE.VMA with these operands name a translation (RISC-V)? -/
def TlbEntry.named (e : TlbEntry) (va : Option Nat) (asid : Option Nat) : Bool :=
  (match va with
   | some a => e.vpn == a % 2 ^ 48 / 2 ^ (12 + 9 * e.level)
   | none => true) &&
  (match asid with
   | some i => e.asid == i
   | none => true)

/-- Does it name an entry of a walker cache? With an address it names leaf entries (RISC-V). -/
def WalkEntry.named (e : WalkEntry) (va : Option Nat) (asid : Option Nat) : Bool :=
  (match va with
   | some a => e.vpn == a % 2 ^ 48 / 2 ^ (12 + 9 * e.level) && (e.pte.getLsbD 1 || e.pte.getLsbD 3)
   | none => true) &&
  (match asid with
   | some i => e.asid == i
   | none => true)

/-- Drop the named translations of every hart TLB, quad TLB and walker cache of the package (R228). -/
def State.dropTlbs (s : State) (va asid : Option Nat) : State :=
  { s with
    harts := s.harts.map (fun h : Nat × Hart => (h.1, { h.2 with tlb := h.2.tlb.filter (fun e => !e.named va asid) })),
    quads := s.quads.map (fun q : Nat × Quad => (q.1, { q.2 with tlb := q.2.tlb.filter (fun e => !e.named va asid) })),
    dies := s.dies.map (fun d : Nat × Die => (d.1, { d.2 with wcache := d.2.wcache.filter (fun e => !e.named va asid) })) }

/-- May a homing entry of the ASID have homed the line: the line is tagged with it, or lies in a frame of its owner (R54, R89,
R224)? -/
def State.homedBy (s : State) (asid n : Nat) (l : HomeLine) : Bool :=
  l.asid == asid || (s.tenant asid).any (fun t => t.owner == (s.frame (64 * n / 0x200000)).slot)

/-- The write-backs of R89: the lines that the homing entries of the named ASID, or of every tenant, have homed leave the slices. -/
def State.writeBack (s : State) (asid : Option Nat) : State :=
  s.homes.foldl (fun s hm =>
    if isProxy hm.1 then s
    else
      hm.2.lines.foldl (fun s l =>
        if (match asid with
            | some i => i != 0 && s.homedBy i l.1 l.2
            | none => l.2.asid != 0 || (s.frame (64 * l.1 / 0x200000)).slot != 0) then
          (s.recallNow hm.1 (64 * l.1)).modHome hm.1 (·.dropLine false l.1)
        else s) s) s

end Sys2Proof.Machine
end

