-- ==== Sys2Proof/Machine/Tiles.lean ====
section
/-! DEFINITION. The tile and accumulator registers of a context (R171, R174, R175), the registers that requests and transfers
hold, context images, and where the result of an agent goes when it completes (R179, R289). -/

namespace Sys2Proof.Machine

/-! ## The quad image -/

/-- Where the model keeps a register of a context: tiles 0 to 15, accumulators 16 to 23. -/
def tileAddr (c r : Nat) : Nat := Config.tileBase + (c * 24 + r) * 65536

/-- Bytes of a register. -/
def tileBytes (r : Nat) : Nat := if r < 16 then 0x8000 else 0x10000

/-- Its offset in the context image (R171). -/
def tileOffset (r : Nat) : Nat := if r < 16 then 0xC000 + r * 0x8000 else 0x8C000 + (r - 16) * 0x10000

/-- Offset of the engine state in the context image (R171). -/
def engineOffset : Nat := 0x10C000

/-- Offset of the format context of a hart slot, 512 bytes (R174, R198). -/
def fmtOffset (slot : Nat) : Nat := engineOffset + 512 * slot

/-- Offset of the released map: after the format contexts, as R174 lists them (log 109). -/
def releasedOffset : Nat := engineOffset + 0x800

/-- The 512 bytes of a format context: the format word at 0x000, the microprogram at 0x040 and its state value after it, and zeros
(R198, R456, R459; log 109). -/
def FmtCtx.image (f : FmtCtx) : List Byte :=
  bytesOf 8 f.fmt.toNat ++ List.replicate 0x38 0 ++ bytesOf 8 f.ucode.toNat ++ bytesOf 4 f.ust.toNat ++ List.replicate 0x1B4 0

/-- A format context read back. -/
def FmtCtx.ofImage (bs : List Byte) : FmtCtx :=
  { fmt := BitVec.ofNat 64 (bytesAt bs 0 8), ucode := BitVec.ofNat 64 (bytesAt bs 0x40 8), ust := BitVec.ofNat 32 (bytesAt bs 0x48 4) }

def State.tiles (s : State) (c : Nat) : TileRegs := Store.get {} s.tileRegs c
def State.setTiles (s : State) (c : Nat) (t : TileRegs) : State := { s with tileRegs := Store.put s.tileRegs c t }

/-- The released map of a context: the engine's, or its image's (R174). -/
def State.releasedMap (s : State) (c : Nat) : BitVec 24 :=
  match (s.tiles c).released, s.imageOf c with
  | some m, _ => m
  | none, some a => BitVec.ofNat 24 (s.peekNat (a + releasedOffset) 3)
  | none, none => BitVec.allOnes 24

/-- The format context of a hart slot of a context: the engine's, or its image's (R174, R198). -/
def State.fmtCtx (s : State) (q c slot : Nat) : FmtCtx :=
  match Store.find? (s.quad q).fmts (c * 4 + slot), s.imageOf c with
  | some f, _ => f
  | none, some a => FmtCtx.ofImage (s.peekBytes (a + fmtOffset slot) 512)
  | none, none => {}

/-- Poison or clear every line of a range. -/
def State.poisonRange (s : State) (a n : Nat) : State := (linesOf a n).foldl (fun s l => s.setPoison l) s
def State.cleanRange (s : State) (a n : Nat) : State :=
  { s with poison := s.poison.filter (fun l => !(decide (a / 64 ≤ l) && decide (64 * l < a + n))) }

/-- Is a line of the range poisoned? -/
def State.rangePoisoned (s : State) (a n : Nat) : Bool := s.poison.any (fun l => decide (a / 64 ≤ l) && decide (64 * l < a + n))

/-! ## Registers that a matrix request names -/

/-- ceil(m / 128) of a field that holds m less 1. -/
def blocksOf (m1 : Nat) : Nat := m1 / 128 + 1

def spanOf (r n : Nat) : List Nat := (List.range n).map (r + ·)
def accsOf (r n : Nat) : List Nat := (List.range n).map (16 + r + ·)

/-- STILE, when the format word gives an operand scales or records (R456, R286, R287). -/
def scaleTile (fmt : Word) : List Nat :=
  let mx (c : BitVec 4) : Bool := c == 7 || c == 8 || c == 9
  if mx (fld fmt 0 4) || mx (fld fmt 4 4) || fmt.getLsbD 8 || fmt.getLsbD 9 then [(fld fmt 12 4).toNat] else []

/-! ### The part of a multiply that an engine computes (R460, R462) -/

/-- Rows from `i0` and columns from `j0`, `m` by `n`, with cb accumulators across. -/
structure Part where
  i0 : Nat := 0
  j0 : Nat := 0
  m : Nat
  n : Nat
  cb : Nat

/-- The whole of an MMA or MREC. -/
def wholePart (m n : Nat) : Part := { m := m, n := n, cb := ceilDiv n 128 }

/-- The part of member e of an MMAG. -/
def memberPart (e m n : Nat) : Part :=
  let i0 := 256 * (e / 2)
  let j0 := 384 * (e % 2)
  { i0 := i0, j0 := j0, m := min 256 (m - i0), n := min 384 (n - j0), cb := ceilDiv (min n 384) 128 }

/-- The accumulators of a part, from `d` on; a member beyond the rows or the columns has none. -/
def Part.accs (p : Part) (d : Nat) : List Nat :=
  (List.range (ceilDiv p.m 128)).flatMap (fun bi => (List.range (ceilDiv p.n 128)).map (fun bj => 16 + (d + bi * p.cb + bj)))

/-- The part that the engine runs of a request. -/
def MReq.part (r : MReq) : Part :=
  match r.op with
  | .mma _ _ _ _ _ m n | .mrec _ _ _ _ _ m n => wholePart (m.toNat + 1) (n.toNat + 1)
  | .mmag _ _ _ _ _ m n => memberPart r.member (m.toNat + 1) (n.toNat + 1)
  | _ => wholePart 0 0

/-- The registers a request reads, and those it writes. A multiply reads its accumulators unless .z. -/
def MReq.reads (r : MReq) : List Nat :=
  match r.op with
  | .mma z d a b _ m n =>
    spanOf a.toNat (blocksOf m.toNat) ++ spanOf b.toNat (blocksOf n.toNat) ++ scaleTile r.fmt
      ++ (if z then [] else accsOf d.toNat (blocksOf m.toNat * blocksOf n.toNat))
  | .mmag z d a b _ m n =>
    spanOf a.toNat (blocksOf m.toNat) ++ spanOf b.toNat (blocksOf n.toNat) ++ scaleTile r.fmt
      ++ (if z then [] else r.part.accs d.toNat)
  | .mrec z d a b _ m n =>
    spanOf a.toNat (blocksOf m.toNat) ++ spanOf b.toNat (blocksOf n.toNat)
      ++ (if z then [] else accsOf d.toNat (blocksOf m.toNat * blocksOf n.toNat))
  | .mtmov _ a cnt => spanOf a.toNat (cnt.toNat + 1)
  | .mztst _ a _ => [a.toNat]
  | .mtrn _ _ a => [a.toNat]
  | .mext _ a _ _ => [16 + a.toNat]
  | .mlda f _ a => spanOf a.toNat (if f = 0 then 2 else 1)
  | .msta _ _ a => [16 + a.toNat]
  | .mqnt _ _ a _ _ _ _ => [16 + a.toNat]
  | .mscl _ d a => [16 + d.toNat, a.toNat]
  | .mbias _ d a => [16 + d.toNat, a.toNat]
  | .mapplyRelu d => [16 + d.toNat]
  | .mapplyMicro d => [16 + d.toNat]
  | .mred _ _ a _ => [16 + a.toNat]
  | _ => []

def MReq.writes (r : MReq) : List Nat :=
  match r.op with
  | .mma _ d _ _ _ m n => accsOf d.toNat (blocksOf m.toNat * blocksOf n.toNat)
  | .mmag _ d _ _ _ _ _ => r.part.accs d.toNat
  | .mrec _ d _ _ _ m n => accsOf d.toNat (blocksOf m.toNat * blocksOf n.toNat)
  | .mzero d cnt => accsOf d.toNat (cnt.toNat + 1)
  | .mtzero d cnt => spanOf d.toNat (cnt.toNat + 1)
  | .mtmov d _ cnt => spanOf d.toNat (cnt.toNat + 1)
  | .mtrn _ d _ => [d.toNat]
  | .mrel acc d => [if acc then 16 + d.toNat else d.toNat]
  | .mins d _ _ _ => [16 + d.toNat]
  | .mlda _ d _ => [16 + d.toNat]
  | .msta f d _ => spanOf d.toNat (if f = 0 then 2 else 1)
  | .mqnt _ d _ b _ _ _ => [d.toNat, b.toNat]
  | .mscl _ d _ => [16 + d.toNat]
  | .mbias _ d _ => [16 + d.toNat]
  | .mapplyRelu d => [16 + d.toNat]
  | .mapplyMicro d => [16 + d.toNat]
  | .mred _ d _ _ => [d.toNat]
  | _ => []

def MReq.names (r : MReq) : List Nat := r.reads ++ r.writes

/-- The requests of a quad that have not completed. -/
def Quad.requests (q : Quad) : List MReq := q.dq.flatMap (·.2) ++ q.gangSlots.map (·.2) ++ q.inq

/-- The other three members of the gang of a quad (R462). -/
def gangOthers (q : Nat) : List Nat := (spanOf (q / 4 * 4) 4).filter (· != q)

/-- Is the context live: no release of it has started? -/
def Context.live (c : Context) : Bool := c.release.isNone

/-- The context of an ASID on a member's quad: the lowest-numbered live one, or the lowest that is being released. -/
def State.memberCtx (s : State) (asid q : Nat) : Option Nat :=
  let on := s.disp.contexts.filter (fun c => c.2.asid == asid && c.2.quad == q)
  ((on.find? (fun c => c.2.live)).orElse (fun _ => on.head?)).map (·.1)

/-- The parts of an MMAG of a quad that the other members run, each with its quad (R462, R463). -/
def State.gangParts (s : State) (q : Nat) (r : MReq) : List (Nat × MReq) :=
  match r.op with
  | .mmag .. => (gangOthers q).filterMap (fun o =>
      (s.memberCtx r.asid o).map (fun c => (o, { r with ctx := c, gang := true, member := o % 4 })))
  | _ => []

/-- Every request that has not completed, with the parts that an MMAG still in its dispatch queue will have at the other members. -/
def State.pendingRequests (s : State) : List MReq :=
  s.quads.flatMap (fun q => q.2.requests ++ q.2.dq.flatMap (fun d => d.2.flatMap (fun r => (s.gangParts q.1 r).map (·.2))))

/-- A request of a context issued before `id` holds one of the tile registers (R221, R279): it writes one that the transfer
reads or writes, or reads one that the transfer writes. -/
def State.requestHolds (s : State) (c id : Nat) (reads writes : List Nat) : Bool :=
  s.pendingRequests.any (fun r =>
    decide (r.id < id) && r.ctx == c &&
      (r.writes.any (fun t => reads.contains t || writes.contains t) || r.reads.any writes.contains))

/-- A transfer issued before `id` and still moving has one of the registers INUSE (R175, R195, R454). -/
def State.copyHolds (s : State) (c id : Nat) (regs : List Nat) : Bool :=
  s.quads.any (fun q => q.2.transfers.any (fun t =>
    decide (t.id < id) && t.phase != .done && t.members.any (fun m => m.2 == c) && t.tiles.any regs.contains))

/-! ## Eviction and fills of the quad image (R175, R182) -/

/-- INUSE: a transfer or a request that is not yet complete names the register as its destination (R175). -/
def State.inUse (s : State) (c r : Nat) : Bool :=
  s.quads.any (fun q => q.2.transfers.any (fun x =>
      x.phase != .done && x.members.any (fun m => m.2 == c) && x.tiles.contains r))
    || s.pendingRequests.any (fun x => x.ctx == c && x.writes.contains r)

/-- A register of an evictable context leaves its place: it is written to its image if it is dirty, with its poison. One that is INUSE
leaves when its writer has completed (R175, R178). -/
def State.evictTile (s : State) (c r : Nat) : State :=
  let t := s.tiles c
  if !t.evictable || !t.resident.contains r then s
  else if s.inUse c r then s.setTiles c { t with leaving := insertNat t.leaving r }
  else
    let s := s.setTiles c { t with
      resident := t.resident.filter (· != r), dirty := t.dirty.filter (· != r), leaving := t.leaving.filter (· != r) }
    match s.imageOf c, t.dirty.contains r with
    | some a, true =>
      let bad := (linesOf (tileAddr c r) (tileBytes r)).filter s.poisoned
      let (_, s) := s.devWrite (a + tileOffset r) (s.readBytes (tileAddr c r) (tileBytes r)) 0
      bad.foldl (fun s l => s.setPoison (l - tileAddr c r + (a + tileOffset r))) s
    | _, _ => s

/-- A writer of a register has completed: the register leaves if it was to (R175). -/
def State.settleTile (s : State) (c r : Nat) : State := if (s.tiles c).leaving.contains r then s.evictTile c r else s

/-- The same-numbered registers of the quad's other contexts give their place up to a fill. -/
def State.evictOthers (s : State) (c r : Nat) : State :=
  match Store.find? s.disp.contexts c with
  | none => s
  | some x => s.disp.contexts.foldl (fun s o => if o.1 != c && o.2.quad == x.quad then s.evictTile o.1 r else s) s

/-- Make a register resident: zeros when it is released, otherwise its image; a poisoned line of the image is left to
IMAGE_LINE_FILL (R175, R182). -/
def State.ensureTile (s : State) (c r : Nat) : State :=
  let t := s.tiles c
  if t.resident.contains r then s
  else
    let n := tileBytes r
    let s := s.evictOthers c r
    let s := (s.setTiles c { t with resident := insertNat t.resident r }).cleanRange (tileAddr c r) n
    if (s.releasedMap c).getLsbD r then s.writeBytes (tileAddr c r) (List.replicate n 0)
    else
      match s.imageOf c with
      | none => s
      | some a =>
        let a := a + tileOffset r
        let s := s.writeBytes (tileAddr c r) (s.peekBytes a n)
        if s.rangePoisoned a n then { s with fills := s.fills ++ [(c, (4, r))] } else s

/-- A write to a register: it is resident and dirty, and no longer released (R467). -/
def State.touchTile (s : State) (c r : Nat) : State :=
  let s := s.ensureTile c r
  let t := s.tiles c
  s.setTiles c { t with dirty := insertNat t.dirty r, released := some (s.releasedMap c &&& ~~~(BitVec.ofNat 24 (2 ^ r))) }

/-- Release a register (R467): it reads as zero, and its image line is never written. -/
def State.releaseTile (s : State) (c r : Nat) : State :=
  let t := s.tiles c
  let s := s.setTiles c
    { t with resident := insertNat t.resident r, dirty := t.dirty.filter (· != r),
             released := some (s.releasedMap c ||| BitVec.ofNat 24 (2 ^ r)) }
  (s.writeBytes (tileAddr c r) (List.replicate (tileBytes r) 0)).cleanRange (tileAddr c r) (tileBytes r)

/-- A row of a tile, 256 bytes, as a number. -/
def State.tileRow (s : State) (c t row : Nat) : Nat := s.readNat (tileAddr c t + 256 * row) 256

/-- A row of an accumulator, 128 FP32 elements, as a number. -/
def State.accRow (s : State) (c a row : Nat) : Nat := s.readNat (tileAddr c (16 + a) + 512 * row) 512

/-- Element (i, j) of an accumulator. -/
def State.accElem (s : State) (c a i j : Nat) : Nat := s.readNat (tileAddr c (16 + a) + 512 * i + 4 * j) 4

/-- The format contexts and the released map of a context go to its image (R174, R178). -/
def State.saveEngine (s : State) (c : Nat) : State :=
  match Store.find? s.disp.contexts c, s.imageOf c with
  | some x, some a =>
    let fs := (s.quad x.quad).fmts.filter (fun f => f.1 / 4 == c)
    let s := fs.foldl (fun s f => (s.devWrite (a + fmtOffset (f.1 % 4)) f.2.image 0).2) s
    let s := s.modQuad x.quad (fun q => { q with fmts := q.fmts.filter (fun f => f.1 / 4 != c) })
    match (s.tiles c).released with
    | some m => ((s.devWrite (a + releasedOffset) (bytesOf 3 m.toNat) 0).2).setTiles c { s.tiles c with released := none }
    | none => s
  | _, _ => s

/-! ## Images -/

/-- Write a number into a hart image, at the home of its line (R179): the time. -/
def State.imagePut (s : State) (c slot off n v clk : Nat) : Nat × State :=
  match s.imageOf c with
  | some a => s.devPut (a + slot * 0x3000 + off) n v clk
  | none => (clk, s)

/-- Read a number from a hart image. -/
def State.imageNat (s : State) (c slot off n : Nat) : Nat :=
  match s.imageOf c with
  | some a => s.peekNat (a + slot * 0x3000 + off) n
  | none => 0

/-- Where an agent's results go: its hart, its slot's image while the slot is suspended, or nowhere once its task has
ended. -/
inductive Owner
  | hart (h : Nat)
  | image (c slot : Nat)
  | gone
  deriving DecidableEq, Repr

def HartStatus.executes : HartStatus → Bool
  | .running | .parked | .waiting => true
  | _ => false

def State.ownerOf (s : State) (h slot : Nat) (ctx task : Option Nat) : Owner :=
  match task, ctx with
  | some t, some c =>
    match s.harts.find? (fun x => x.2.task == some t && x.2.ctx == some c && x.2.slot == slot && x.2.status.executes) with
    | some x => .hart x.1
    | none =>
      match Store.find? s.disp.tasks t with
      | some k => if k.ending.isNone then .image c slot else .gone
      | none => .gone
  | _, _ => if (s.hart h).task.isNone then .hart h else .gone

/-- OR flags into the rflags of the owner (R289). -/
def State.ownFlags (s : State) (o : Owner) (fl : Nat) : State :=
  if fl = 0 then s
  else
    match o with
    | .hart h => s.modHart h (fun x => { x with dev := { x.dev with rflags := x.dev.rflags ||| BitVec.ofNat 64 (fl % 32) } })
    | .image c slot => (s.imagePut c slot 0x138 8 (s.imageNat c slot 0x138 8 ||| fl % 32) 0).2
    | .gone => s

/-- Write an x register of the owner. -/
def State.ownX (s : State) (o : Owner) (r : Reg) (v : Nat) : State :=
  match o with
  | .hart h => s.modHart h (·.wx r (BitVec.ofNat 64 v))
  | .image c slot => if r = 0 then s else (s.imagePut c slot (8 * r.toNat) 8 v 0).2
  | .gone => s

/-- Write a vector register of a context's slot: its resident line, or its image. -/
def State.ownV (s : State) (o : Owner) (c slot : Nat) (r : Reg) (l : Line) : State :=
  match o with
  | .gone => s
  | _ =>
    let key := 2 * (c * 4 + slot)
    let k : SlotRegs := Store.get {} s.slotRegs key
    let k := { k with v := Store.put k.v r.toNat l, dirty := insertNat k.dirty (codeV r) }
    { s with slotRegs := Store.put s.slotRegs key k }

/-- Set the matrix-poison flag of the owner (R455). -/
def State.ownPoison (s : State) (o : Owner) : State :=
  match o with
  | .hart h => s.modHart h (fun x => { x with mpoison := true })
  | .image c slot => (s.imagePut c slot 0x254A 1 1 0).2
  | .gone => s

/-- The status and the time of a transfer reach its token (R179, R403). -/
def State.ownToken (s : State) (o : Owner) (r status clk : Nat) : State :=
  match o with
  | .hart h =>
    s.modHart h (fun x =>
      let t := x.token r
      let y := x.setToken r
        { t with pending := false, unjoined := true, fpend := status != 0, status := status, time := clk }
      { y with x := Store.set 0 y.x r (BitVec.ofNat 64 status) })
  | .image c slot =>
    let (_, s) := s.imagePut c slot (8 * r) 8 status clk
    let (_, s) := s.imagePut c slot (0x1A0 + 8 * r) 8 clk clk
    let (_, s) := s.imagePut c slot 0x190 4 (s.imageNat c slot 0x190 4 &&& (2 ^ 32 - 1 - 2 ^ r)) clk
    if status = 0 then s else (s.imagePut c slot 0x194 4 (s.imageNat c slot 0x194 4 ||| 2 ^ r) clk).2
  | .gone => s

/-! ## Issue of an agent (R274) -/

/-- Does an entry of the store buffer go to a location of the hart's die? -/
def SbEntry.onDie (h : Nat) (e : SbEntry) : Bool :=
  match e.place.kind with
  | .vault => dieOfQuad e.place.home == dieOf h
  | .hbm | .hostC => dieOfHome e.place.home == dieOf h
  | .hostNC => false

/-- An agent issues only when the store buffer holds no store to a location of the hart's die. -/
def State.localQuiet (s : State) : Act Unit :=
  if s.me.sb.any (SbEntry.onDie s.cur) then .stall s else .ok () s

end Sys2Proof.Machine
end

