-- ==== Sys2Proof/Machine/Sync.lean ====
section
/-! DEFINITION. Barriers, the mailbox, the clock instructions, LWAIT and FENCE.S (15, R344 to R362). -/

namespace Sys2Proof.Machine

/-! ## Barrier objects (R344, R345, R347) -/

/-- The fields of a barrier object. -/
structure Barrier where
  config : Nat
  arrived : Nat
  phase : Nat
  pending : Nat
  expected : Nat
  combine : Nat
  released : Nat
  time : Nat
  done : Nat
  fail : Nat
  deriving DecidableEq, Repr

def Barrier.ofLine (l : Line) : Barrier :=
  { config := lineGet l 0 4, arrived := lineGet l 4 2, phase := lineGet l 8 8, pending := lineGet l 0x10 4,
    expected := lineGet l 0x14 4, combine := lineGet l 0x18 8, released := lineGet l 0x20 8, time := lineGet l 0x28 8,
    done := lineGet l 0x30 8, fail := lineGet l 0x38 4 }

/-- The object with its fields replaced; its reserved bytes stay. -/
def Barrier.toLine (o : Barrier) (l : Line) : Line :=
  let l := lineSet (lineSet (lineSet l 0 4 o.config) 4 2 o.arrived) 8 8 o.phase
  let l := lineSet (lineSet (lineSet l 0x10 4 o.pending) 0x14 4 o.expected) 0x18 8 o.combine
  lineSet (lineSet (lineSet (lineSet l 0x20 8 o.released) 0x28 8 o.time) 0x30 8 o.done) 0x38 4 o.fail

def Barrier.exp (o : Barrier) : Nat := natBits o.config 0 12
def Barrier.op (o : Barrier) : Nat := natBits o.config 12 3
def Barrier.fp (o : Barrier) : Bool := natBit o.config 15
def Barrier.init (o : Barrier) : Bool := natBit o.config 31
/-- FAIL of the open phase, FAIL and LSTATUS of the last completed one. -/
def Barrier.failing (o : Barrier) : Bool := natBit o.fail 0
def Barrier.failed (o : Barrier) : Bool := natBit o.fail 1
def Barrier.lstatus (o : Barrier) : Nat := natBits o.fail 16 8

/-- identity(OP, FP) (R345). -/
def combineIdentity (op : Nat) (fp : Bool) : Nat :=
  match op, fp with
  | 1, false => 0x8000000000000000
  | 1, true => 0xFF800000
  | 2, false => 0x7FFFFFFFFFFFFFFF
  | 2, true => 0x7F800000
  | 3, true => 0x80000000
  | 5, _ => 2 ^ 64 - 1
  | _, _ => 0

def Barrier.identity (o : Barrier) : Nat := combineIdentity o.op o.fp

/-- MAX and MIN of FP32 values: −0 below +0; with a NaN, the canonical NaN (R345). -/
def fpPick (max : Bool) (a b : Nat) : Nat :=
  let x := Fmt.f32.unpack a
  let y := Fmt.f32.unpack b
  match x.cmp y with
  | none => Fmt.f32.canonNaN
  | some c =>
    let aBelow := decide (c < 0) || (decide (c = 0) && x.negative)
    if aBelow = max then b else a

/-- op(v, x) (R345). -/
def Barrier.combined (o : Barrier) (x : Nat) : Nat :=
  let v := o.combine
  if o.fp then
    let a := v % 2 ^ 32
    let b := x % 2 ^ 32
    match o.op with
    | 1 => fpPick true a b
    | 2 => fpPick false a b
    | 3 => (Fmt.f32.pack { rm := 0, sat := false } ((Fmt.f32.unpack a).add 0 (Fmt.f32.unpack b)).1).1
    | _ => v
  else
    let a := natToInt 64 v
    let b := natToInt 64 x
    match o.op with
    | 1 => intToNat 64 (max a b)
    | 2 => intToNat 64 (min a b)
    | 3 => intToNat 64 (a + b)
    | 4 => v ||| x
    | 5 => v &&& x
    | _ => v

/-- evaluate (R347) at time t. -/
def Barrier.evaluate (o : Barrier) (t : Nat) : Barrier :=
  let o := { o with time := max o.time t }
  if (o.exp != 0 || o.expected != 0) && o.arrived = o.exp && (decide (o.expected ≤ o.pending) || o.failing) then
    { o with
      released := o.combine, combine := o.identity, done := o.time, phase := (o.phase + 1) % 2 ^ 64, arrived := 0,
      pending := if o.failing then 0 else o.pending - o.expected,
      fail := (if o.failing then 2 else 0) + natBits o.fail 8 8 * 2 ^ 16 }
  else o

/-- Record a failed copy: fail[0], and STATUS if it is the phase's first failure. -/
def Barrier.addFailure (o : Barrier) (status : Nat) : Barrier :=
  if o.failing then o else { o with fail := natSetBits (natSetBits o.fail 8 8 status) 0 1 1 }

/-- The status of a byte count that passes 0xFFFF_FFFF (R402). -/
def xsByteOverflow : Nat := 12

/-- A COPYB's addition (R347). -/
def Barrier.addBytes (o : Barrier) (n status : Nat) : Barrier :=
  let o := if status = 0 then o else o.addFailure status
  if 2 ^ 32 ≤ o.pending + n then { o with pending := 2 ^ 32 - 1 }.addFailure xsByteOverflow
  else { o with pending := o.pending + n }

/-! ## Bound objects -/

/-- The address of a vault unit in the one memory, and in the global window. -/
def unitAddr (q unit : Nat) : Nat := vaultAddr q (64 * unit)
def unitVa (q unit : Nat) : Word := BitVec.ofNat 64 (0x7E0000000000 + q * 0x800000 + 64 * unit)

/-- Why an agent of an ASID on a die cannot reach a unit of a vault: a down link, a place outside the vault (R210), a block
that is not the context's (R211), poison. -/
def State.unitBad (s : State) (die asid q unit : Nat) (acc : Access) : Option Nat :=
  if (s.deadRoute die (dieOfQuad q)).isSome then some acc.accessFault
  else if Config.vaultBytes ≤ 64 * unit then some acc.pageFault
  else if !s.blockOk q (64 * unit) asid then some acc.accessFault
  else if s.poisoned (unitAddr q unit) then some 29
  else none

/-- The same for the current hart. -/
def State.unitFault (s : State) (q unit : Nat) (acc : Access) : Option Nat :=
  s.unitBad (dieOf s.cur) (s.view s.cur false).asid q unit acc

/-- Such a trap, with a down link reported (R43). -/
def State.unitTrap {α : Type} (s : State) (cause : Nat) (va : Word) (q : Nat) : Act α :=
  .trap cause va (s.reportLink s.cur (s.linkTarget (dieOf s.cur) (dieOfQuad q)))

/-- The object at a unit. -/
def State.unitLine (s : State) (q unit : Nat) : Line := s.readLine (unitAddr q unit)

/-- Replace a unit as one update from clock `clk`: its time. -/
def State.unitPut (s : State) (q unit : Nat) (l : Line) (clk : Nat) : Nat × State :=
  s.vaultStore q (unitAddr q unit) (BitVec.allOnes 64) l clk

/-- The time an update made now would take (R244, R277). -/
def State.updateTime (s : State) (q clk : Nat) : Nat := max (s.quad q).vclk clk + 1

/-- A barrier update, evaluated (R347). -/
def State.barrierPut (s : State) (q unit : Nat) (o : Barrier) (clk : Nat) : Nat × State :=
  s.unitPut q unit ((o.evaluate (s.updateTime q clk)).toLine (s.unitLine q unit)) clk

/-- A COPYB's addition when it completes; discarded when the object is not initialised (R344) or no longer reachable. -/
def State.copybAdd (s : State) (q unit asid n status clk : Nat) : State :=
  let o := Barrier.ofLine (s.unitLine q unit)
  if o.init && s.blockOk q (64 * unit) asid && !s.poisoned (unitAddr q unit) then
    (s.barrierPut q unit (o.addBytes n status) clk).2
  else s

/-! ## Barrier instructions -/

def Hart.bind (h : Hart) (n : Reg) : BBind := Store.get {} h.b n.toNat
def State.setBind (s : State) (n : Reg) (b : BBind) : State := s.modMe (fun h => { h with b := Store.set {} h.b n.toNat b })

/-- Barrier misuse. -/
def misuse {α : Type} (n : Reg) (s : State) : Act α := .trap 48 (BitVec.ofNat 64 n.toNat) s

/-- A config word that R348 accepts. -/
def configOk (c : Nat) : Bool :=
  let op := natBits c 12 3
  decide (c < 2 ^ 16) && decide (op ≤ 5) && (!natBit c 15 || (decide (1 ≤ op) && decide (op ≤ 3)))

/-- The vault unit at an address, for BBIND and QBIND: `own` for the own-vault alias. -/
def State.unitAt (s : State) (va : Nat) : Option (Nat × Nat × Bool) :=
  let v := s.view s.cur false
  if v.bare || v.asid = 0 then none
  else
    let found (own : Bool) : Tr → Option (Nat × Nat × Bool)
      | .ok p => some (p.home, (p.addr - vaultAddr p.home 0) / 64, own)
      | _ => none
    match windowOf va with
    | .vault q off => found false (s.vaultPlace v.asid .store q off)
    | .own off => found true (s.aliasPlace v.asid .store (quadOf s.cur) off)
    | _ => none

/-- BBIND (R348). Cause 48 is raised before 6 and 7 (R165). -/
def bindBarrier (n : Reg) (addr : Word) (c : Nat) (s : State) : Act Unit :=
  if (s.me.bind n).arrived || !configOk c then misuse n s
  else if addr.toNat % 64 ≠ 0 then .trap 6 addr s
  else
    match s.unitAt addr.toNat with
    | none => .trap 7 addr s
    | some (q, u, _) =>
      match s.unitFault q u .store with
      | some cause => s.unitTrap cause addr q
      | none =>
        (s.localQuiet).andThen fun _ s =>
        let o := Barrier.ofLine (s.unitLine q u)
        let b : BBind := { bound := true, quad := q, unit := u, phase := o.phase }
        if o.init then
          if natBits o.config 0 16 = c then .ok () ((s.modMe (·.raise (s.quad q).vclk)).setBind n b) else misuse n s
        else
          let o := { o with config := c + 2 ^ 31, combine := combineIdentity (natBits c 12 3) (natBit c 15) }
          let (t, s) := s.unitPut q u (o.toLine (s.unitLine q u)) s.me.pts
          .ok () ((s.modMe (·.raise t)).setBind n b)

/-- BBIND. -/
def execBbind (n a b : Reg) (s : State) : Result :=
  ins [a, b] [] (fun s => bindBarrier n (s.rx a) (s.rx b).toNat s) s

/-- BBIND_I. -/
def execBbindI (n a : Reg) (cfg : BitVec 16) (s : State) : Result :=
  ins [a] [] (fun s => bindBarrier n (s.rx a) cfg.toNat s) s

/-- BARRIVE (R349): a release, then the arrival. -/
def arrive (n : Reg) (x : Word) (s : State) : Act Unit :=
  let b := s.me.bind n
  if !b.bound || b.arrived then misuse n s
  else
    (s.releasePackage).andThen fun _ s =>
    match s.unitFault b.quad b.unit .store with
    | some cause => s.unitTrap cause (unitVa b.quad b.unit) b.quad
    | none =>
      let o := Barrier.ofLine (s.unitLine b.quad b.unit)
      if !o.init || decide (o.exp ≤ o.arrived) then misuse n s
      else
        let o' := { o with arrived := o.arrived + 1, combine := o.combined x.toNat }
        let (t, s) := s.barrierPut b.quad b.unit o' s.me.pts
        .ok () ((s.modMe (·.raise t)).setBind n { b with phase := o.phase, arrived := true, fseen := false })

/-- BARRIVE. -/
def execBarrive (n a : Reg) (s : State) : Result := ins [a] [] (fun s => arrive n (s.rx a) s) s

/-- BWAIT (R350). It waits at the vault and reads the object when the phase has passed. -/
def await (d n : Reg) (s : State) : Act Unit :=
  let b := s.me.bind n
  if !b.bound then misuse n s
  else
    match s.unitFault b.quad b.unit .load with
    | some cause => s.unitTrap cause (unitVa b.quad b.unit) b.quad
    | none =>
      (s.localQuiet).andThen fun _ s =>
      let o := Barrier.ofLine (s.unitLine b.quad b.unit)
      if o.phase ≤ b.phase then .stall s
      else if b.phase + 1 < o.phase then misuse n s
      else if o.failed && !b.fseen then .trap 28 (report o.lstatus 1 n.toNat) (s.setBind n { b with fseen := true })
      else
        let s := s.modMe (·.raise (max (s.quad b.quad).vclk o.done))
        let s := s.wx d (BitVec.ofNat 64 (if o.op = 0 then o.phase else o.released))
        let s := s.setBind n { b with phase := b.phase + 1, arrived := false, fseen := false }
        .ok () (if o.expected = 0 then s else s.record 5 7 (BitVec.ofNat 64 (o.lstatus * 256 + n.toNat)))

/-- BWAIT. -/
def execBwait (d n : Reg) (s : State) : Result := ins [d] [] (await d n) s

/-- BSYNC (R351): the arrival is not repeated once it is made. -/
def execBsync (d n a : Reg) (s : State) : Result :=
  ins [d, a] [] (fun s =>
    let b := s.me.bind n
    (if b.bound && b.arrived then .ok () s else arrive n (s.rx a) s).andThen fun _ s => await d n s) s

/-- BEXPECT (R352). -/
def expectBytes (n : Reg) (bytes : Nat) (s : State) : Act Unit :=
  let b := s.me.bind n
  if !b.bound || decide (2 ^ 32 ≤ bytes) then misuse n s
  else
    match s.unitFault b.quad b.unit .store with
    | some cause => s.unitTrap cause (unitVa b.quad b.unit) b.quad
    | none =>
      (s.localQuiet).andThen fun _ s =>
      let o := Barrier.ofLine (s.unitLine b.quad b.unit)
      if !o.init then misuse n s
      else
        let (t, s) := s.barrierPut b.quad b.unit { o with expected := bytes } s.me.pts
        .ok () (s.modMe (·.raise t))

/-- BEXPECT. -/
def execBexpect (n a : Reg) (s : State) : Result := ins [a] [] (fun s => expectBytes n (s.rx a).toNat s) s

/-- BEXPECT_I. -/
def execBexpectI (n : Reg) (bytes : BitVec 24) (s : State) : Result := ins [] [] (expectBytes n bytes.toNat) s

/-- BTEST (R353): a vault load, no join. -/
def execBtest (d n : Reg) (s : State) : Result :=
  ins [d] [] (fun s =>
    let b := s.me.bind n
    if !b.bound then misuse n s
    else
      match s.unitFault b.quad b.unit .load with
      | some cause => s.unitTrap cause (unitVa b.quad b.unit) b.quad
      | none =>
        (s.localQuiet).andThen fun _ s =>
        let o := Barrier.ofLine (s.unitLine b.quad b.unit)
        let s := s.modMe (·.raise (s.quad b.quad).vclk)
        .ok () (s.wx d (if b.phase < o.phase then 1 else 0))) s

/-- BUNBIND (R353). -/
def execBunbind (n : Reg) (s : State) : Result :=
  ins [] [] (fun s =>
    let b := s.me.bind n
    if !b.bound || b.arrived then misuse n s else .ok () (s.setBind n { b with bound := false })) s

/-! ## Mailbox (R354 to R358) -/

/-- The slot address of a hart slot of a context's quad. -/
def slotAddr (q slot : Nat) : Nat := hartOf q slot

/-- The context of an ASID on a quad: the hart's own, or the lowest-numbered live one. -/
def State.contextOn (s : State) (asid q : Nat) : Option Nat :=
  let ok (c : Nat) : Bool :=
    match s.context c with
    | some x => x.live && x.asid == asid && x.quad == q
    | none => false
  match s.me.ctx.filter ok with
  | some c => some c
  | none => (s.disp.contexts.find? (fun c => ok c.1)).map (·.1)

/-- The hart that runs a slot of a context. -/
def State.slotHart (s : State) (c slot : Nat) : Option Nat :=
  (s.harts.find? (fun x => x.2.ctx == some c && x.2.slot == slot && x.2.status.executes)).map (·.1)

def Mail.number (m : Mail) : Nat :=
  m.hdr.toNat + m.p0.toNat * 2 ^ 64 + m.p1.toNat * 2 ^ 128 + m.time.toNat * 2 ^ 192

def Mail.ofNumber (v : Nat) : Mail :=
  { hdr := BitVec.ofNat 64 v, p0 := BitVec.ofNat 64 (v / 2 ^ 64), p1 := BitVec.ofNat 64 (v / 2 ^ 128),
    time := BitVec.ofNat 64 (v / 2 ^ 192) }

/-- A header (R354). -/
def mailHeader (kind len tag sender : Nat) : Word :=
  BitVec.ofNat 64 (kind + len * 2 ^ 8 + tag % 2 ^ 16 * 2 ^ 16 + sender % 2 ^ 12 * 2 ^ 32)

/-- The mailbox count word (R355). -/
def Hart.mailWord (h : Hart) : Word := BitVec.ofNat 64 (h.mail.length + (if h.mailLost then 256 else 0))

/-- How many messages a slot's mailbox holds, on its hart or in its image. -/
def State.mailCount (s : State) (c slot : Nat) : Nat :=
  match s.slotHart c slot with
  | some h => (s.hart h).mail.length
  | none => natBits (s.imageNat c slot 0x500 8) 0 4

/-- The hart that holds the mailbox of a slot: the one that runs there, has ended there as a member of its gang, or was halted there. -/
def State.mailHart (s : State) (c slot : Nat) : Option Nat :=
  (s.harts.find? (fun x => x.2.ctx == some c && x.2.slot == slot &&
    (x.2.status.executes || x.2.status == .ended || (x.2.status == .stopping && x.2.task.isNone)))).map (·.1)

/-- Put a message at the end of a mailbox; one that finds 15 is dropped and sets LOST (R355, R180). -/
def State.mailPut (s : State) (c slot : Nat) (m : Mail) : State :=
  match s.mailHart c slot with
  | some h =>
    s.modHart h (fun x => if x.mail.length < 15 then { x with mail := x.mail ++ [m] } else { x with mailLost := true })
  | none =>
    let w := s.imageNat c slot 0x500 8
    let n := natBits w 0 4
    if n < 15 then
      let (_, s) := s.imagePut c slot (0x520 + 32 * n) 32 m.number m.time.toNat
      (s.imagePut c slot 0x500 8 (w + 1) m.time.toNat).2
    else (s.imagePut c slot 0x500 8 (natSetBits w 8 1 1) m.time.toNat).2

/-- MSEND (R356). -/
def sendMail (d : Reg) (dest : Word) (len tag : Nat) (p0 p1 : Word) (s : State) : Act Unit :=
  (s.releasePackage).andThen fun _ s =>
  let h := s.me
  let q := quadOf dest.toNat
  let target :=
    if h.task.isNone || decide (2 ^ 12 ≤ dest.toNat) || !s.quadPresent q || decide (160 ≤ dest.toNat / 4 % 256) then none
    else s.contextOn (s.asidOf s.cur) q
  match target with
  | none => .ok () (s.wx d 2)
  | some c =>
    let slot := dest.toNat % 4
    if 12 ≤ s.mailCount c slot then .ok () (s.wx d 1)
    else
      let m : Mail :=
        { hdr := mailHeader 3 len tag (slotAddr (quadOf s.cur) h.slot), p0 := p0, p1 := p1, time := BitVec.ofNat 64 h.pts }
      .ok () ((s.mailPut c slot m).wx d 0)

/-- MSEND. -/
def execMsend (d a b : Reg) (s : State) : Result :=
  ins [d, a, b] [] (fun s => sendMail d (s.rx a) 8 0 (s.rx b) 0 s) s

/-- MSEND_I. -/
def execMsendI (d a b c : Reg) (tag : BitVec 16) (s : State) : Result :=
  ins [d, a, b, c] [] (fun s => sendMail d (s.rx a) 16 tag.toNat (s.rx b) (s.rx c) s) s

/-- MRECV (R357). -/
def execMrecv (d a : Reg) (s : State) : Result :=
  ins [d, a] [] (fun s =>
    let va := s.rx a
    if va.toNat % 32 ≠ 0 then .trap 6 va s
    else
      match s.me.mail with
      | [] => .ok () (s.wx d 0)
      | m :: rest =>
        (s.storeWords va.toNat (bytesOf 32 m.number)).andThen fun _ s =>
          .ok () ((s.modMe (fun h => { h.raise m.time.toNat with mail := rest })).wx d m.hdr)) s

/-- MPOLL (R358). -/
def execMpoll (d : Reg) (s : State) : Result :=
  ins [d] [] (fun s => .ok () ((s.wx d s.me.mailWord).modMe (fun h => { h with mailLost := false }))) s

/-- MWAIT (R358). -/
def execMwait (d : Reg) (s : State) : Result :=
  ins [d] [] (fun s => if s.me.mail.isEmpty then .stall s else .ok () (s.wx d s.me.mailWord)) s

/-- MHDR (R358). -/
def execMhdr (d : Reg) (s : State) : Result :=
  ins [d] [] (fun s => .ok () (s.wx d (match s.me.mail with | [] => 0 | m :: _ => m.hdr))) s

/-! ## Clock (R359 to R361) -/

/-- CLKRD: the earlier loads and AMOs of a hart are performed when it executes. -/
def execClkrd (d : Reg) (s : State) : Result := ins [d] [] (fun s => .ok () (s.wx d (BitVec.ofNat 64 s.me.pts))) s

/-- CLKADV at an address (R248, R360): no access and no fault. -/
def clockAdvance (va : Word) (s : State) : Act Unit :=
  match s.resolve .load va.toNat with
  | .ok p s =>
    if p.kind = .hbm || p.kind = .hostC then
      match s.me.l1At (l1Key (lineNo p.addr) p.home) with
      | some l => .ok () (if l.st = .shared then s.modMe (·.raise (l.rts + 1)) else s)
      | none => .ok () s
    else .ok () s
  | .stall s => .stall s
  | .trap _ _ s => .ok () s

/-- CLKADV. -/
def execClkadv (a : Reg) (s : State) : Result := ins [a] [] (fun s => clockAdvance (s.rx a) s) s

/-- CLKADV_OFF. -/
def execClkadvOff (a : Reg) (off : BitVec 24) (s : State) : Result := ins [a] [] (fun s => clockAdvance (s.ea a off) s) s

/-- LWAIT in a vault: a watch, then the load (R247). -/
def State.watchVault (s : State) (p : Place) (va : Word) : Act Nat :=
  let go (s : State) (t : Nat) : Act Nat := ((s.modMe (fun h => { h.raise t with ld := none }))).loadVault p va 8
  match s.me.ld with
  | some x => if x.kind = .watch && x.done then go s (x.time.getD 0) else .stall s
  | none =>
    match s.linkTarget (dieOf s.cur) (dieOfQuad p.home) with
    | some t => s.deadTrap 5 va t
    | none =>
    if 16 ≤ (s.quad p.home).watches.length then go s (s.quad p.home).vclk
    else
      let s := s.modQuad p.home (fun q => { q with watches := q.watches ++ [{ unit := p.addr / 64 * 64, hart := s.cur }] })
      .stall (s.modMe (fun h => { h with ld := some { kind := .watch, key := p.addr / 64 * 64 } }))

/-- LWAIT on a line held shared: marked renewals until one is answered with data (R247). -/
def State.watchShared (s : State) (p : Place) (va : Word) (l : L1Line) : Act Nat :=
  let key := l1Key (lineNo p.addr) p.home
  let ask (s : State) : Act Nat :=
    match s.lineDown p with
    | some t => s.deadTrap 5 va t
    | none =>
      let h := s.me
      let s := s.send (.read s.cur h.inc p.home (p.addr / 64 * 64) h.pts (some l.wts) h.dev.lease.toNat 1
        (s.view s.cur false).asid)
      .stall (s.modMe (fun h => { h with ld := some { kind := .renew, key := key } }))
  match s.me.ld with
  | some x =>
    if x.kind = .renew && x.done then
      let s := s.modMe (fun h => { h with ld := none })
      if x.answered then s.loaded va l.poison (lineGet l.data (p.addr % 64) 8) else ask s
    else .stall s
  | none => ask s

/-- A marked renewal whose answer LWAIT no longer needs is not waited for. -/
def State.giveUpRenewal (s : State) : State := s.modMe (fun h => { h with ld := h.ld.filter (fun x => x.kind != .renew) })

/-- LWAIT at an address (R361). -/
def waitLoad (d : Reg) (va : Word) (s : State) : Act Unit :=
  let fin (v : Nat) (s : State) : Act Unit := .ok () ((s.wx d (BitVec.ofNat 64 v)).record 3 3 va)
  if s.excluded va.toNat 8 then .trap 25 va s
  else if va.toNat % 8 ≠ 0 then .trap 4 va s
  else
    (s.resolve .load va.toNat).andThen fun p s =>
    match s.me.forward p.addr 8 with
    | some (some v) => fin v s
    | some none => .stall s
    | none =>
      match p.kind with
      | .vault => (s.watchVault p va).andThen fin
      | .hostNC => (s.loadPlace p va 8).andThen fin
      | .hbm | .hostC =>
        match s.me.l1At (l1Key (lineNo p.addr) p.home) with
        | some l =>
          if l.st = .shared then (s.watchShared p va l).andThen fin else (s.giveUpRenewal.loadPlace p va 8).andThen fin
        | none => (s.giveUpRenewal.loadPlace p va 8).andThen fin

/-- LWAIT. -/
def execLwait (d a : Reg) (s : State) : Result := ins [d, a] [] (fun s => waitLoad d (s.rx a) s) s

/-- LWAIT_OFF. -/
def execLwaitOff (d a : Reg) (off : BitVec 24) (s : State) : Result := ins [d, a] [] (fun s => waitLoad d (s.ea a off) s) s

/-! ## FENCE.S (R266, R273, R362) -/

def scopeCode : Scope → Nat
  | .hart => 0 | .quad => 1 | .group => 2 | .die => 3 | .package => 4 | .system => 5

/-- A release of a scope. -/
def State.release (s : State) (scope : Scope) : Act Unit :=
  match scope with
  | .package => s.releasePackage
  | .system => s.releaseSystem
  | _ => .ok () s

/-- The accumulated status is returned and cleared. -/
def fenceStatus (d : Reg) (s : State) : Act Unit :=
  .ok () ((s.wx d s.me.fstat).modMe (fun h => { h with fstat := 0 }))

/-- FENCES_FULL. -/
def execFencesFull (d : Reg) (scope : Scope) (s : State) : Result :=
  ins [d] [] (fun s =>
    (if scopeCode scope < 4 then s.fenceFullDie else s.release scope).andThen fun _ s => fenceStatus d s) s

/-- FENCES_ACQUIRE: earlier loads and AMOs are performed when it executes. -/
def execFencesAcquire (d : Reg) (_scope : Scope) (s : State) : Result := ins [d] [] (fenceStatus d) s

/-- FENCES_RELEASE. -/
def execFencesRelease (d : Reg) (scope : Scope) (s : State) : Result :=
  ins [d] [] (fun s => (s.release scope).andThen fun _ s => fenceStatus d s) s

end Sys2Proof.Machine
end

