-- ==== Sys2Proof/Machine/Rings.lean ====
section
/-! DEFINITION. Rings (17, R417 to R419): the header and the slots of a ring object, its updates, and the ring
instructions. -/

namespace Sys2Proof.Machine

/-- The fields of a ring header (R417). -/
structure Ring where
  config : Nat
  flags : Nat
  acq : Nat
  take : Nat
  free : Nat
  eosseq : Nat
  pubmap : Nat
  freemap : Nat
  time : Nat
  deriving DecidableEq, Repr

def Ring.ofLine (l : Line) : Ring :=
  { config := lineGet l 0 4, flags := lineGet l 4 1, acq := lineGet l 8 4, take := lineGet l 0xC 4, free := lineGet l 0x10 4,
    eosseq := lineGet l 0x14 4, pubmap := lineGet l 0x18 8, freemap := lineGet l 0x20 8, time := lineGet l 0x28 8 }

def Ring.toLine (r : Ring) (l : Line) : Line :=
  let l := lineSet (lineSet (lineSet l 0 4 r.config) 4 1 r.flags) 8 4 r.acq
  let l := lineSet (lineSet (lineSet l 0xC 4 r.take) 0x10 4 r.free) 0x14 4 r.eosseq
  lineSet (lineSet (lineSet l 0x18 8 r.pubmap) 0x20 8 r.freemap) 0x28 8 r.time

/-- COUNT and S of a config word. -/
def ringCount (c : Nat) : Nat := natBits c 0 7
def ringSize (c : Nat) : Nat := (natBits c 8 10 + 1) * 64

def Ring.init (r : Ring) : Bool := natBit r.config 31
def Ring.eos (r : Ring) : Bool := natBit r.flags 0

/-- Differences of 32-bit sequences. -/
def seqSub (a b : Nat) : Nat := (a + 2 ^ 32 - b) % 2 ^ 32

/-- published (R135). -/
def Ring.published (r : Ring) : Nat := popCountTo r.pubmap 64

/-- END: end of stream, and everything taken. -/
def Ring.ended (r : Ring) : Bool := r.eos && r.take = r.eosseq

/-- A config that R418 accepts: COUNT 1 to 64, and bits 7 and 30 clear. -/
def ringConfigOk (c : Nat) : Bool :=
  decide (1 ≤ ringCount c) && decide (ringCount c ≤ 64) && !natBit c 7 && !natBit c 30

/-- Where a ring stands, the quad and the unit of its header, and its config as a binding holds it: bindings keep their view
of the ring (17, "Mistakes most often made"). -/
structure RingAt where
  quad : Nat
  unit : Nat
  config : Nat
  deriving DecidableEq, Repr

def RingAt.count (p : RingAt) : Nat := ringCount p.config
def RingAt.size (p : RingAt) : Nat := ringSize p.config

def QBind.at_ (b : QBind) : RingAt := { quad := b.quad, unit := b.unit, config := b.config.toNat }

def State.ring (s : State) (p : RingAt) : Ring := Ring.ofLine (s.unitLine p.quad p.unit)

/-- The unit of the header of slot i. -/
def slotUnit (p : RingAt) (i : Nat) : Nat := p.unit + 1 + i * (1 + p.size / 64)

/-- The sequence in a slot header. -/
def State.slotSeq (s : State) (p : RingAt) (i : Nat) : Nat := lineGet (s.unitLine p.quad (slotUnit p i)) 0xC 4

/-- Publish time and length of a slot. -/
def State.slotTime (s : State) (p : RingAt) (i : Nat) : Nat := lineGet (s.unitLine p.quad (slotUnit p i)) 0 8
def State.slotLength (s : State) (p : RingAt) (i : Nat) : Nat := lineGet (s.unitLine p.quad (slotUnit p i)) 8 4

/-- Write a header as one update (R244): the ring time becomes the update's time. -/
def State.ringPut (s : State) (p : RingAt) (r : Ring) (clk : Nat) : Nat × State :=
  s.unitPut p.quad p.unit ({ r with time := s.updateTime p.quad clk }.toLine (s.unitLine p.quad p.unit)) clk

/-- Change a slot header as part of an update made at time t. -/
def State.slotPut (s : State) (p : RingAt) (i : Nat) (f : Line → Line) (t : Nat) : State :=
  let a := unitAddr p.quad (slotUnit p i)
  ((s.writeLine a (f (s.readLine a))).clearResv a).answerWatches p.quad a t

/-! ## The updates of R419, for a hart or a stream controller -/

/-- Acquire: the slot and the time, when there is room. -/
def State.ringAcquire (s : State) (p : RingAt) (clk : Nat) : Option (Nat × Nat × State) :=
  let r := s.ring p
  if seqSub r.acq r.free < p.count then
    let i := r.acq % p.count
    let (t, s') := s.ringPut p { r with acq := (r.acq + 1) % 2 ^ 32 } clk
    some (i, t, s'.slotPut p i (fun l => lineSet l 0xC 4 r.acq) t)
  else none

/-- May slot i be published with n bytes? -/
def State.canPublish (s : State) (p : RingAt) (i n : Nat) : Bool :=
  let r := s.ring p
  decide (n ≤ p.size) && !natBit r.pubmap i
    && decide (seqSub (s.slotSeq p i) r.take < seqSub r.acq r.take)

/-- Publish slot i: its time. -/
def State.ringPublish (s : State) (p : RingAt) (i n who clk : Nat) : Nat × State :=
  let r := s.ring p
  let (t, s) := s.ringPut p { r with pubmap := natSetBits r.pubmap i 1 1 } clk
  (t, s.slotPut p i (fun l => lineSet (lineSet (lineSet l 0 8 t) 8 4 n) 0x10 2 who) t)

/-- Take the next slot, when it is published: the slot, its publish time, and the time. -/
def State.ringTake (s : State) (p : RingAt) (clk : Nat) : Option (Nat × Nat × Nat × State) :=
  let r := s.ring p
  let i := r.take % p.count
  if natBit r.pubmap i && s.slotSeq p i = r.take then
    let (t, s') := s.ringPut p { r with pubmap := natSetBits r.pubmap i 1 0, take := (r.take + 1) % 2 ^ 32 } clk
    some (i, s.slotTime p i, t, s')
  else none

/-- May slot i be freed? -/
def State.canFree (s : State) (p : RingAt) (i : Nat) : Bool :=
  let r := s.ring p
  !natBit r.freemap i && decide (seqSub (s.slotSeq p i) r.free < seqSub r.take r.free)

/-- While the bit of FREE mod COUNT is set: clear it, FREE := FREE + 1. -/
def Ring.advance (count : Nat) : Nat → Ring → Ring
  | 0, r => r
  | n + 1, r =>
    let i := r.free % count
    if natBit r.freemap i then
      Ring.advance count n { r with freemap := natSetBits r.freemap i 1 0, free := (r.free + 1) % 2 ^ 32 }
    else r

/-- Free slot i: the time. -/
def State.ringFree (s : State) (p : RingAt) (i clk : Nat) : Nat × State :=
  let r := s.ring p
  s.ringPut p (Ring.advance p.count 64 { r with freemap := natSetBits r.freemap i 1 1 }) clk

/-- Set end of stream: the time. -/
def State.ringEos (s : State) (p : RingAt) (clk : Nat) : Nat × State :=
  let r := s.ring p
  s.ringPut p { r with flags := natSetBits r.flags 0 1 1, eosseq := r.acq } clk

/-! ## Ring instructions -/

def Hart.ringBind (h : Hart) (n : Reg) : QBind := Store.get {} h.q n.toNat

/-- Ring misuse. -/
def ringMisuse {α : Type} (n : Reg) (s : State) : Act α := .trap 49 (BitVec.ofNat 64 n.toNat) s

/-- The address of a vault offset in the window through which the ring was bound (log 21). -/
def State.ringVa (s : State) (b : QBind) (off : Nat) : Nat :=
  let q := s.quad b.quad
  if b.own then
    match (q.block off).kind with
    | .stack slot => 0x7F00005C0000 + slot * 65536 + off % 65536
    | _ => 0x7F0000000000 + off
  else 0x7E0000000000 + b.quad * 0x800000 + off

/-- The payload address of slot i. -/
def State.payloadVa (s : State) (b : QBind) (i : Nat) : Nat := s.ringVa b (64 * slotUnit b.at_ i + 64)

/-- The slot whose payload is at an address. -/
def State.payloadSlot (s : State) (b : QBind) (va : Nat) : Option Nat :=
  match s.unitAt va with
  | some (q, u, _) =>
    let c := b.config.toNat
    let step := 1 + ringSize c / 64
    if va % 64 = 0 && q = b.quad && decide (b.unit + 2 ≤ u) && (u - b.unit - 2) % step = 0
        && decide ((u - b.unit - 2) / step < ringCount c) then some ((u - b.unit - 2) / step)
    else none
  | none => none

/-- The binding an instruction uses, in one of the roles it may have; then the header must be reachable. -/
def withRing (n : Reg) (role : Nat) (acc : Access) (s : State) (f : QBind → Act Unit) : Act Unit :=
  let b := s.me.ringBind n
  if !b.bound || (role ≠ 2 && b.role ≠ role && b.role ≠ 2) then ringMisuse n s
  else
    match s.unitFault b.quad b.unit acc with
    | some cause => s.unitTrap cause (unitVa b.quad b.unit) b.quad
    | none => f b

/-- A slot header must be reachable too. -/
def withSlot (b : QBind) (i : Nat) (acc : Access) (s : State) (k : Act Unit) : Act Unit :=
  let u := slotUnit b.at_ i
  match s.unitFault b.quad u acc with
  | some cause => s.unitTrap cause (unitVa b.quad u) b.quad
  | none => k

/-- QBIND (R418). -/
def execQbind (n a b : Reg) (s : State) : Result :=
  ins [a, b] [] (fun s =>
    let w := (s.rx b).toNat
    let c := w % 2 ^ 32
    let role := natBits w 32 2
    let va := s.rx a
    if natBits w 34 30 ≠ 0 || role = 3 || !ringConfigOk c then ringMisuse n s
    else if va.toNat % 64 ≠ 0 then .trap 6 va s
    else
      match s.unitAt va.toNat with
      | none => .trap 7 va s
      | some (q, u, own) =>
        match s.unitFault q u .store with
        | some cause => s.unitTrap cause va q
        | none =>
          (s.localQuiet).andThen fun _ s =>
          let r := s.ring { quad := q, unit := u, config := c }
          let bind : QBind :=
            { bound := true, role := role, quad := q, unit := u, config := BitVec.ofNat 32 c, own := own }
          let put (s : State) (t : Nat) : Act Unit :=
            .ok () (s.modMe (fun h => { h.raise t with q := Store.set {} h.q n.toNat bind }))
          if r.init then
            if natBits r.config 0 30 = natBits c 0 30 then put s (s.quad q).vclk else ringMisuse n s
          else
            let fresh : Line := lineSet (lineSet 0 0 4 (c % 2 ^ 31 + 2 ^ 31)) 0x28 8 (s.updateTime q s.me.pts)
            let (t, s) := s.unitPut q u fresh s.me.pts
            put s t) s

/-- QACQ (R419). -/
def execQacq (d n : Reg) (s : State) : Result :=
  ins [d] [] (fun s =>
    withRing n 0 .store s fun b =>
      let r := s.ring b.at_
      if r.eos then ringMisuse n s
      else
        (if seqSub r.acq r.free < b.at_.count then withSlot b (r.acq % b.at_.count) .store s else id)
          ((s.localQuiet).andThen fun _ s =>
            match s.ringAcquire b.at_ s.me.pts with
            | some (i, t, s) => .ok () ((s.modMe (·.raise t)).wx d (BitVec.ofNat 64 (s.payloadVa b i)))
            | none => .ok () ((s.modMe (·.raise (s.quad b.quad).vclk)).wx d 0))) s

/-- QPUB (R419, R278). -/
def execQpub (n a b : Reg) (s : State) : Result :=
  ins [a, b] [] (fun s =>
    withRing n 0 .store s fun q =>
      match s.payloadSlot q (s.rx a).toNat with
      | none => ringMisuse n s
      | some i =>
        withSlot q i .store s
          (if !s.canPublish q.at_ i (s.rx b).toNat then ringMisuse n s
           else
            (s.releasePackage).andThen fun _ s =>
              let (t, s) := s.ringPublish q.at_ i (s.rx b).toNat s.cur s.me.pts
              .ok () (s.modMe (·.raise t)))) s

/-- QTAKE (R419, R278). -/
def execQtake (d n : Reg) (s : State) : Result :=
  ins [d] [] (fun s =>
    withRing n 1 .store s fun b =>
      let r := s.ring b.at_
      (if natBit r.pubmap (r.take % b.at_.count) then withSlot b (r.take % b.at_.count) .store s else id)
        ((s.localQuiet).andThen fun _ s =>
          match s.ringTake b.at_ s.me.pts with
          | some (i, pub, t, s) => .ok () ((s.modMe (·.raise (max t pub))).wx d (BitVec.ofNat 64 (s.payloadVa b i)))
          | none => .ok () ((s.modMe (·.raise (s.quad b.quad).vclk)).wx d (if r.ended then 1 else 0)))) s

/-- QFREE (R419). -/
def execQfree (n a : Reg) (s : State) : Result :=
  ins [a] [] (fun s =>
    withRing n 1 .store s fun b =>
      match s.payloadSlot b (s.rx a).toNat with
      | none => ringMisuse n s
      | some i =>
        withSlot b i .store s
          (if !s.canFree b.at_ i then ringMisuse n s
           else
            (s.localQuiet).andThen fun _ s =>
              let (t, s) := s.ringFree b.at_ i s.me.pts
              .ok () (s.modMe (·.raise t)))) s

/-- QEOS (R419). -/
def execQeos (n : Reg) (s : State) : Result :=
  ins [] [] (fun s =>
    withRing n 0 .store s fun b =>
      if (s.ring b.at_).eos then ringMisuse n s
      else
        (s.releasePackage).andThen fun _ s =>
          let (t, s) := s.ringEos b.at_ s.me.pts
          .ok () (s.modMe (·.raise t))) s

/-- The word of QSTAT. -/
def Ring.statWord (r : Ring) (count : Nat) : Nat :=
  r.published + (count + 2 ^ 32 - seqSub r.acq r.free) % 128 * 2 ^ 8 + seqSub r.take r.free % 128 * 2 ^ 16
    + (if r.eos then 2 ^ 24 else 0) + (if r.ended then 2 ^ 25 else 0) + r.take * 2 ^ 32

/-- QSTAT (R419). -/
def execQstat (d n : Reg) (s : State) : Result :=
  ins [d] [] (fun s =>
    withRing n 2 .load s fun b =>
      let r := s.ring b.at_
      .ok () ((s.modMe (·.raise (s.quad b.quad).vclk)).wx d (BitVec.ofNat 64 (r.statWord b.at_.count)))) s

end Sys2Proof.Machine
end

