-- ==== Sys2Proof/Machine/Transfers.lean ====
section
/-! DEFINITION. Transfers: the checks at issue, the transfer rule, the copy engine's segments, completion (09, R203 to R205;
12, R274 to R276; 17, R402 to R412; 22, R477). Every address is resolved when an element is moved. -/

namespace Sys2Proof.Machine

/-! ## Statuses (R402) -/

def xsOk : Nat := 0
def xsSrcPage : Nat := 1
def xsDstPage : Nat := 2
def xsSrcAccess : Nat := 3
def xsDstAccess : Nat := 4
def xsPoison : Nat := 5
def xsBadHandle : Nat := 6
def xsTooBig : Nat := 7
def xsRefused : Nat := 8
def xsDeadlink : Nat := 9
def xsTimeout : Nat := 10
def xsHostErr : Nat := 11
def xsMcast : Nat := 13
def xsCancelled : Nat := 14

/-! ## Ends, formats, elements -/

def XEnd.handleOf : XEnd → Option Handle
  | .handle l => some (Handle.ofLine l)
  | _ => none

/-- The formats of the two ends: a tile, a packed remote end or a ring takes the format of the other (R405, R409). -/
def Transfer.srcFmt (t : Transfer) : Fmt :=
  match t.src.handleOf, t.dst.handleOf with
  | some h, _ => h.format
  | none, some h => h.format
  | none, none => .i8

def Transfer.dstFmt (t : Transfer) : Fmt :=
  match t.dst.handleOf, t.src.handleOf with
  | some h, _ => h.format
  | none, some h => h.format
  | none, none => .i8

def XKind.indexed : XKind → Bool
  | .getx | .putx => true
  | _ => false

def XKind.stream : XKind → Bool
  | .ldsub | .lddrn => true
  | _ => false

/-- The pairings that convert accepts (R407). -/
def convOk (s d : Fmt) : Bool :=
  s == d || (s.float && d.float) || (s == .i8 && d == .int4) || (s == .int4 && d == .i8)

/-- Lattice points of a box inside the extents. -/
def clipBox (h : Handle) (b : Box) : Box :=
  b.zipIdx.map (fun (x, i) => (max x.1 0, max (max x.1 0) (min x.2 (h.extAt i))))

/-- Elements of a region inside a handle's extents. -/
def clipCount (r : Region) (h : Handle) : Nat := r.boxes.foldl (fun n b => n + boxPts r.lat (clipBox h b)) 0

/-- Row and bit of element x at a tile end: ROW + x_(d−2) − lo_(d−2), (x_(d−1) − lo_(d−1)) × bits (R405). -/
def tilePos (r : Region) (row bits : Nat) (x : List Int) : Nat × Nat :=
  let lo := r.lower
  let d := r.d
  (row + (if 2 ≤ d then (x.getD (d - 2) 0 - lo.getD (d - 2) 0).toNat else 0),
    (x.getD (d - 1) 0 - lo.getD (d - 1) 0).toNat * bits)

/-- The tile registers of a tile end; none where it does not fit (R405). -/
def tileFit (r : Region) (reg row bits : Nat) : Option (List Nat) :=
  if r.boxes.isEmpty then some []
  else
    let hi := (bboxAll r.boxes).map (fun b => b.2 - 1)
    let flat := (List.range (r.d - 2)).all (fun i => hi.getD i 0 == r.lower.getD i 0)
    let (last, bit) := tilePos r row bits hi
    if flat && decide (reg + last / 128 ≤ 15) && decide (bit + bits ≤ 2048) then some (spanOf reg (last / 128 + 1)) else none

/-- The first byte of an element and its nibble at a dense or blocked handle. -/
def Handle.at_ (h : Handle) (x : List Int) : Nat × Option Nat :=
  match h.place x with
  | .at_ a n => (a, n)
  | .group m _ => (m, none)

/-! ## Where an element is -/

/-- The status of a fault at an end. -/
def faultStatus (acc : Access) (c : Nat) : Nat :=
  let page := c = 12 || c = 13 || c = 15
  match acc with
  | .store => if page then xsDstPage else xsDstAccess
  | _ => if page then xsSrcPage else xsSrcAccess

/-- Does an address lie in the window of a handle's space (R397, R399)? -/
def spaceOk (space va : Nat) : Bool :=
  match space, windowOf va with
  | 0, .hbm | 1, .vault _ _ | 1, .own _ | 2, .host => true
  | _, _ => false

/-- What is down on the way of an access from a die to a place, as a target (R35, R44, R45): the way to the home or the port, the port
itself, or for a line that its home does not hold the way on to its frame. -/
def State.placeTarget (s : State) (d : Nat) (p : Place) : Option Nat :=
  let port (n : Nat) : Option Nat := if (s.port n).up then none else some (0x2000 + n)
  match p.kind with
  | .vault => s.linkTarget d (dieOfQuad p.home)
  | .hbm => (s.linkTarget d (dieOfHome p.home)).orElse (fun _ => s.fillDead p.home (p.addr / 64 * 64))
  | .hostC => (s.linkTarget d (dieOfHome p.home)).orElse (fun _ => port (p.home - 0x3000))
  | .hostNC => (s.linkTarget d (portDie p.home)).orElse (fun _ => port p.home)

/-- Does something on the way of an access from a die to a place lie down? -/
def State.placeDead (s : State) (d : Nat) (p : Place) : Bool := (s.placeTarget d p).isSome

/-- The die from which an access of a transfer to a place is made: the stack that the line sits in for a stream controller (R16, R420),
and the die of the quad for a copy engine. -/
def Transfer.accessDie (t : Transfer) (q : Nat) (p : Place) : Nat :=
  if t.kind.stream && p.kind = .hbm then p.addr / Config.dieBytes else dieOfQuad q

/-- The place of an address of a transfer on a quad, or a status. -/
def State.xferPlace (s : State) (t : Transfer) (q : Nat) (acc : Access) (space va : Nat) : Except Nat Place :=
  if !spaceOk space va then .error (faultStatus acc 5)
  else
    match s.engineTranslate q t.asid acc va with
    | .ok p => if s.placeDead (t.accessDie q p) p then .error xsDeadlink else .ok p
    | .fault c => .error (faultStatus acc c)
    | .miss => .error (faultStatus acc 5)

/-- The same of every piece of a byte range: the places, or a status with the address that failed. -/
def State.xferPlaces (s : State) (t : Transfer) (q : Nat) (acc : Access) (space : Nat) :
    List (Nat × Nat) → Except (Nat × Nat) (List (Nat × Place))
  | [] => .ok []
  | (va, n) :: r =>
    match s.xferPlace t q acc space va with
    | .error st => .error (st, va)
    | .ok p =>
      match s.xferPlaces t q acc space r with
      | .error e => .error e
      | .ok ps => .ok ((n, p) :: ps)

/-- The walks that the pieces of a byte range need are made (R226, R229). -/
def State.walkPieces (s : State) (q asid : Nat) (acc : Access) (ps : List (Nat × Nat)) : State :=
  ps.foldl (fun s p => s.engineWalk q asid acc p.1) s

/-! ## Runs: bytes of one line that are written in one access (log 20) -/

abbrev Run := Place × BitVec 64 × Line

/-- The address after a run. -/
def runEnd (r : Run) : Nat := r.1.addr + popCountTo r.2.1.toNat 64

/-- Do a run and a place share a line? -/
def runOf (r : Run) (p : Place) : Bool := r.1.kind == p.kind && r.1.home == p.home && lineNo r.1.addr == lineNo p.addr

/-- Append bytes: to the last run when they follow it in its line. Runs are kept newest first. -/
def addBytes (p : Place) (n v : Nat) (rs : List Run) : List Run :=
  let off := p.addr % 64
  let m := byteMask off n
  let d : Line := BitVec.ofNat 512 (v % 2 ^ (8 * n) * 2 ^ (8 * off))
  match rs with
  | r :: rest => if runOf r p && runEnd r = p.addr then (r.1, r.2.1 ||| m, lineMerge m r.2.2 d) :: rest else (p, m, d) :: rs
  | [] => [(p, m, d)]

/-- Write a nibble: into the last byte of the last run when it is that byte, else into the byte that memory holds. -/
def addNibble (p : Place) (nib v old : Nat) (rs : List Run) : List Run :=
  let off := p.addr % 64
  match rs with
  | r :: rest =>
    if runOf r p && runEnd r = p.addr + 1 then
      (r.1, r.2.1, lineSet r.2.2 off 1 (natSetBits (lineGet r.2.2 off 1) (4 * nib) 4 v)) :: rest
    else addBytes p 1 (natSetBits old (4 * nib) 4 v) rs
  | [] => addBytes p 1 (natSetBits old (4 * nib) 4 v) rs

/-- One access that writes (R241, R244, R32): the clock after it. A number above the harts' stands for the device itself. -/
def State.writeRun (s : State) (hart asid clk : Nat) (r : Run) : Nat × State :=
  let (p, m, d) := r
  let line := p.addr / 64 * 64
  match p.kind with
  | .hbm | .hostC =>
    let (t, s) := s.engineWrite p.home line m d clk asid
    (max clk t, s)
  | .vault =>
    let (t, s) := s.vaultStore p.home p.addr m d clk
    (max clk t, s)
  | .hostNC =>
    let s := s.putLine line m d
    if hart < 4096 then
      (clk, s.modHart hart (fun h => { h with postedPorts := Store.put h.postedPorts p.home (Store.get 0 h.postedPorts p.home) }))
    else (clk, s)

def State.writeRuns (s : State) (hart asid clk : Nat) (rs : List Run) : Nat × State :=
  rs.foldl (fun (a : Nat × State) r => a.2.writeRun hart asid a.1 r) (clk, s)

/-- One access that reads: the value, the clock after it, and whether it met poison (R230, R241, R244). -/
def State.readPiece (s : State) (asid clk : Nat) (n : Nat) (p : Place) : Nat × Nat × Bool × State :=
  match p.kind with
  | .hbm | .hostC =>
    let (l, t, bad, s) := s.engineRead p.home (p.addr / 64 * 64) clk asid
    (lineGet l (p.addr % 64) n, max clk t, bad, s)
  | .vault => (s.readNat p.addr n, max clk (s.quad p.home).vclk, s.poisoned p.addr, s)
  | .hostNC => (s.readNat p.addr n, clk, s.poisoned p.addr, s)

/-! ## One element -/

/-- What is known while a segment is moved. -/
structure Moving where
  s : State
  t : Transfer

/-- Write runs: the bytes that go to HBM are counted, and the host ports that posted writes go to are noted (R132, R82). -/
def Moving.write (m : Moving) (rs : List Run) : Moving :=
  let (clk, s) := m.s.writeRuns m.t.hart m.t.asid m.t.clk rs
  let n := rs.foldl (fun n r => if r.1.kind = .hbm then n + popCountTo r.2.1.toNat 64 else n) 0
  let s := s.tally m.t.task (fun t => { t with bytes := t.bytes + n })
  let s := rs.foldl (fun s r => if r.1.kind = .hostNC then s.notePort m.t.task r.1.home else s) s
  { s := s, t := { m.t with clk := clk } }

/-- Write out the runs held back, oldest first. -/
def Moving.flush (m : Moving) : Moving :=
  let m := m.write (m.t.held.filter (fun r => r.2.1 != 0))
  { m with t := { m.t with held := [] } }

/-- Read the pieces of a byte range. -/
def Moving.pieces (m : Moving) : List (Nat × Place) → Except (Nat × Nat) (List Byte × Moving)
  | [] => .ok ([], m)
  | (n, p) :: r =>
    let m := if m.t.held.any (fun x => runOf x p) then m.flush else m
    let (v, clk, bad, s) := m.s.readPiece m.t.asid m.t.clk n p
    if bad then .error (xsPoison, 0)
    else
      let s := if p.kind = .hbm then s.tally m.t.task (fun t => { t with bytes := t.bytes + n }) else s
      match Moving.pieces { s := s, t := { m.t with clk := clk } } r with
      | .error e => .error e
      | .ok (bs, m) => .ok (bytesOf n v ++ bs, m)

/-- Read `n` bytes at an address of a space. -/
def Moving.bytes (m : Moving) (space va n : Nat) : Except (Nat × Nat) (Nat × Moving) :=
  let at_ := linePieces va n (n + 1)
  let m := { m with s := m.s.walkPieces m.t.quad m.t.asid .load at_ }
  match m.s.xferPlaces m.t m.t.quad .load space at_ with
  | .error e => .error e
  | .ok ps =>
    match m.pieces ps with
    | .error e => .error e
    | .ok (bs, m) => .ok (ofBytes bs, m)

/-- read of an element inside a handle (R398, R407). -/
def Moving.element (m : Moving) (h : Handle) (x : List Int) : Except (Nat × Nat) (Nat × Moving) :=
  let n := h.format.bytes
  match h.place x with
  | .at_ a nib =>
    match m.bytes h.space a n with
    | .error e => .error e
    | .ok (v, m) => .ok (match nib with | some i => natBits v (4 * i) 4 | none => v, m)
  | .group g j =>
    match m.bytes h.space g 8 with
    | .error e => .error e
    | .ok (mask, m) =>
      match packedAt g mask j n with
      | none => .ok (0, m)
      | some a => m.bytes h.space a n

/-- Add a byte range to ranges that rise and do not touch one another. -/
def addRange (lo hi : Nat) : List (Nat × Nat) → List (Nat × Nat)
  | [] => [(lo, hi)]
  | (a, b) :: r =>
    if hi < a then (lo, hi) :: (a, b) :: r
    else if b < lo then (a, b) :: addRange lo hi r
    else addRange (min a lo) (max b hi) r

/-- The bytes of the remote window that a get reads, as ranges that rise: those of the elements inside the handle, whole groups of a
bitmap-sparse tensor (log 107). -/
def Transfer.netRuns (t : Transfer) : List (Nat × Nat) :=
  match t.src.handleOf with
  | none => []
  | some h =>
    let len := if h.kind = 1 then 8 + 64 * h.format.bytes else h.format.bytes
    (((List.range t.region.count).map t.region.nth).filter h.inside).foldl (fun rs x => addRange (h.at_ x).1 ((h.at_ x).1 + len) rs) []

/-- How many bytes a get reads: the N of R40. -/
def Transfer.gotBytes (t : Transfer) : Nat := (t.netRuns.map (fun r => r.2 - r.1)).sum

/-- The place of a byte of the remote window among the bytes of an answered get. -/
def netPlace (a : Nat) : List (Nat × Nat) → Nat
  | [] => 0
  | (lo, hi) :: r => if a < hi then a - lo else hi - lo + netPlace a r

/-- Bits of an answered get, from a byte of the remote window on. -/
def Transfer.netBits (t : Transfer) (a shift bits : Nat) : Nat :=
  natBits (ofBytes (((t.net.getD []).drop (netPlace a t.netRuns)).take (shift / 8 + bits / 8 + 1))) shift bits

/-- The value of one coordinate before conversion and whether it is a fill, or `none` where the element is skipped; and the
coordinate at which the destination takes it. -/
def Moving.source (m : Moving) (x : List Int) : Except (Nat × Nat) (Option (Nat × Bool) × List Int × Moving) :=
  let t := m.t
  let fill (p : Nat) : Option (Nat × Bool) := if t.clip then none else some (padCode p t.dstFmt, true)
  let index (k : Option Int → Moving → Except (Nat × Nat) (Option (Nat × Bool) × List Int × Moving)) :
      Except (Nat × Nat) (Option (Nat × Bool) × List Int × Moving) :=
    let ih := Handle.ofLine t.idx
    if ih.inside [x.getD 0 0] then
      match m.element ih [x.getD 0 0] with
      | .error e => .error e
      | .ok (v, m) => k (some (natToInt 32 v)) m
    else k none m
  match t.src, t.src.handleOf with
  | .tile reg row, _ =>
    let (tr, bit) := tilePos t.region row t.srcFmt.bits x
    match t.ctx with
    | none => .error (xsSrcAccess, 0)
    | some c =>
      let a := tileAddr c (reg + tr / 128) + tr % 128 * 256
      if m.s.rangePoisoned a 256 then .error (xsPoison, 0)
      else
        let v := natBits (m.s.readNat (a + bit / 8) 8) (bit % 8) t.srcFmt.bits
        match t.kind with
        | .putx =>
          index (fun i m =>
            match i, t.dst.handleOf with
            | some i, some d => let y := i :: x.tail; .ok (if d.inside y then some (v, false) else none, y, m)
            | _, _ => .ok (none, x, m))
        | _ => .ok (some (v, false), x, m)
  | _, some h =>
    match t.kind with
    | .getx =>
      index (fun i m =>
        match i with
        | some i =>
          let y := i :: x.tail
          if h.inside y then
            match m.element h y with
            | .error e => .error e
            | .ok (v, m) => .ok (some (v, false), x, m)
          else .ok (fill h.pad, x, m)
        | none => .ok (fill h.pad, x, m))
    | .putx =>
      if h.inside x then
        index (fun i m =>
          match i, t.dst.handleOf with
          | some i, some d =>
            let y := i :: x.tail
            if d.inside y then
              match m.element h x with
              | .error e => .error e
              | .ok (v, m) => .ok (some (v, false), y, m)
            else .ok (none, y, m)
          | _, _ => .ok (none, x, m))
      else .ok (none, x, m)
    | .getr =>
      if h.inside x then
        let v :=
          match h.place x with
          | .at_ a nib => t.netBits a (4 * nib.getD 0) h.format.bits
          | .group g j =>
            match packedAt g (t.netBits g 0 64) j h.format.bytes with
            | some a => t.netBits a 0 h.format.bits
            | none => 0
        .ok (some (v, false), x, m)
      else .ok (fill h.pad, x, m)
    | _ =>
      if h.inside x then
        match m.element h x with
        | .error e => .error e
        | .ok (v, m) => .ok (some (v, false), x, m)
      else .ok (fill h.pad, x, m)
  | _, none => .ok (none, x, m)

/-- convert of element number `k` (R407): a filled element is already in the destination's format. -/
def Transfer.convert (t : Transfer) (k v : Nat) : Nat × Nat :=
  if t.srcFmt = t.dstFmt then (v, 0)
  else t.dstFmt.pack ({ rmode := t.rmode, seed := t.seed, tid := t.tid : Sampled }.at_ k) (t.srcFmt.unpack v)

/-- The places that an element is written at, one list for each member (R410); none for a tile or a remote end. -/
def Moving.targets (m : Moving) (x : List Int) : Except (Nat × Nat) (List (List (Nat × Place))) :=
  match m.t.dst.handleOf with
  | none => .ok []
  | some h =>
    if h.space = 3 then .ok []
    else
      let (a, _) := h.at_ x
      let n := h.format.bytes
      m.t.members.foldr (fun q acc =>
        match acc, m.s.xferPlaces m.t q.1 .store h.space (linePieces a n (n + 1)) with
        | .ok ts, .ok ps => .ok (ps :: ts)
        | .error e, .ok _ => .error e
        | _, .error e => .error e) (.ok [])

/-- The walks that the places of an element need are made. -/
def Moving.walkTargets (m : Moving) (x : List Int) : Moving :=
  match m.t.dst.handleOf with
  | some h =>
    if h.space = 3 then m
    else
      let n := h.format.bytes
      { m with s := m.t.members.foldl (fun s q => s.walkPieces q.1 m.t.asid .store (linePieces (h.at_ x).1 n (n + 1))) m.s }
  | none => m

/-- An element ready to be written: the coordinate, the code, and its places. -/
structure Ready where
  x : List Int
  code : Nat
  places : List (List (Nat × Place))

/-- Read the elements of a segment in order, up to the first that fails: what is ready, how many were handled, and the
failure. -/
def Moving.readSegment (m : Moving) : List (Nat × List Int) → Moving × List Ready × Nat × Option (Nat × Nat)
  | [] => (m, [], 0, none)
  | (k, x) :: rest =>
    match m.source x with
    | .error e => (m, [], 0, some e)
    | .ok (none, _, m) =>
      let (m, rs, n, e) := m.readSegment rest
      (m, rs, n + 1, e)
    | .ok (some (v, filled), y, m) =>
      let m := m.walkTargets y
      match m.targets y with
      | .error e => (m, [], 0, some e)
      | .ok ps =>
        let (c, fl) := if filled then (v, 0) else m.t.convert k v
        let m := { m with t := { m.t with flags := m.t.flags ||| fl } }
        let (m, rs, n, e) := m.readSegment rest
        (m, { x := y, code := c, places := ps } :: rs, n + 1, e)

/-- Count the bytes that an element touches (R407): two 4-bit elements share one byte. -/
def Transfer.counted (t : Transfer) (key : Nat) : Transfer :=
  let f := t.dstFmt
  if 8 ≤ f.bits then { t with n := t.n + f.bytes }
  else if t.lastByte = some key then t
  else { t with n := t.n + 1, lastByte := some key }

/-- Write an element at a tile end, in every member. -/
def Moving.toTile (m : Moving) (reg row : Nat) (e : Ready) : Moving :=
  let bits := m.t.dstFmt.bits
  let (tr, bit) := tilePos m.t.region row bits e.x
  let r := reg + tr / 128
  let off := tr % 128 * 256 + bit / 8
  let s := m.t.members.foldl (fun s q =>
    let a := tileAddr q.2 r + off
    let n := max 1 (bits / 8)
    s.writeNat a n (natSetBits (s.readNat a n) (bit % 8) bits e.code)) m.s
  { s := s, t := m.t.counted (r * 32768 + off) }

/-- Append an element to the packed bytes of a put. -/
def Transfer.packed (t : Transfer) (code : Nat) : Transfer :=
  let f := t.dstFmt
  let bs := t.net.getD []
  if 8 ≤ f.bits then { t with net := some (bs ++ bytesOf f.bytes code), n := t.n + f.bytes }
  else
    match t.lastByte with
    | some _ =>
      { t with net := some (bs.dropLast ++ [BitVec.ofNat 8 ((bs.getLastD 0).toNat + code * 16)]), lastByte := none }
    | none => { t with net := some (bs ++ [BitVec.ofNat 8 code]), n := t.n + 1, lastByte := some 0 }

/-- Append an element to the runs of one member. -/
def addElement (s : State) (bits : Nat) (nib : Option Nat) (code : Nat) (ps : List (Nat × Place)) (rs : List Run) :
    List Run :=
  match nib, ps with
  | some i, (_, p) :: _ => addNibble p i code (s.peekNat p.addr 1) rs
  | _, _ => (ps.foldl (fun (a : Nat × List Run) x => (a.1 / 2 ^ (8 * x.1), addBytes x.2 x.1 a.1 a.2)) (code % 2 ^ bits, rs)).2

/-- Write a segment's elements at a handle: runs line by line; one that ends inside its line is held for the next segment
(log 20). -/
def Moving.toMemory (m : Moving) (h : Handle) (es : List Ready) : Moving :=
  let one (m : Moving) (i : Nat) (q : Nat × Nat) : Run × Moving :=
    let _ := q
    let start := (m.t.held[i]?.filter (fun r => r.2.1 != 0)).toList
    let rs := es.foldl (fun rs e => addElement m.s h.format.bits (h.at_ e.x).2 e.code (e.places.getD i []) rs) start
    match rs with
    | r :: older =>
      let (keep, out) := if runEnd r % 64 = 0 then (none, rs.reverse) else (some r, older.reverse)
      (keep.getD ({ kind := .vault, addr := 0, home := 0 }, 0, 0), m.write out)
    | [] => (({ kind := .vault, addr := 0, home := 0 }, 0, 0), m)
  let (hs, m) := m.t.members.zipIdx.foldl (fun (a : List Run × Moving) q =>
    let (r, m) := one a.2 q.2 q.1
    (a.1 ++ [r], m)) ([], m)
  let t := es.foldl (fun t e => t.counted (h.at_ e.x).1) m.t
  { m with t := { t with held := hs } }

/-- The port and the send queue that a descriptor names. -/
def descPort (d : Word) : Nat := (fld d 10 4).toNat
def descQueue (d : Word) : Nat := (fld d 0 10).toNat

/-- Put a segment's elements at their places in the remote window; the other nibble of a lone 4-bit element is not known
here, a free value (log 7). -/
def Moving.toRemote (m : Moving) (h : Handle) (es : List Ready) : Moving :=
  let step (a : State × List Run) (e : Ready) : State × List Run :=
    let (off, nib) := h.at_ e.x
    let p (o : Nat) : Place := { kind := .hostNC, addr := o, home := 0 }
    match nib with
    | some i => let (v, s) := a.1.fresh64; (s, addNibble (p off) i e.code (v.toNat % 256) a.2)
    | none =>
      let ps := (linePieces off h.format.bytes 9).map (fun x => (x.2, p x.1))
      (a.1, addElement a.1 h.format.bits none e.code ps a.2)
  let (s, rs) := es.foldl step (m.s, [])
  let s := rs.reverse.foldl (fun s r =>
    let n := runEnd r - r.1.addr
    s.toHost (.netPut (descPort m.t.desc) (descQueue m.t.desc) r.1.addr (bytesOf n (lineGet r.2.2 (r.1.addr % 64) n)))) s
  { s := s, t := es.foldl (fun t e => t.counted (h.at_ e.x).1) m.t }

def Moving.writeSegment (m : Moving) (es : List Ready) : Moving :=
  match m.t.dst, m.t.dst.handleOf with
  | .tile reg row, _ => es.foldl (fun m e => m.toTile reg row e) m
  | _, some h => if h.space = 3 then m.toRemote h es else m.toMemory h es
  | .remote _, none => { m with t := es.foldl (fun t e => t.packed e.code) m.t }
  | _, none => m

/-! ## Segments (R204) -/

/-- The next segment: elements of one row, at most 512 bytes of the destination. -/
def Transfer.segment (t : Transfer) : List (Nat × List Int) :=
  let most := min (t.region.count - t.pos) (4096 / t.dstFmt.bits)
  let all := (List.range most).map (fun i => (t.pos + i, t.region.nth (t.pos + i)))
  match all with
  | [] => []
  | e :: _ => all.takeWhile (fun x => x.2.dropLast == e.2.dropLast)

/-- Does the hart want to serve page faults of its copies (R169)? -/
def State.wantsFaults (s : State) (h : Nat) : Bool := (s.hart h).priv.mie.getLsbD 17

/-- End a transfer with a status; what it had moved is written. -/
def Moving.finish (m : Moving) (status : Nat) : Moving :=
  let m := m.flush
  { m with t := { m.t with phase := .finished, status := status, paused := false, host := 0 } }

/-- A transfer that meets a down link at an address reports it (R43). -/
def State.reportDead (s : State) (t : Transfer) (status va : Nat) : State :=
  if status = xsDeadlink then
    match s.engineTranslate t.quad t.asid .load va, s.engineTranslate t.quad t.asid .store va with
    | .ok p, _ => s.reportLink t.hart (s.placeTarget (t.accessDie t.quad p) p)
    | _, .ok p => s.reportLink t.hart (s.placeTarget (t.accessDie t.quad p) p)
    | _, _ => s
  else s

/-- A page fault pauses the copy and queues a record, or ends it (R169). -/
def Moving.fault (m : Moving) (status va : Nat) : Moving :=
  if (status = xsSrcPage || status = xsDstPage) && m.s.wantsFaults m.t.hart then
    let m := m.flush
    let r : TfRec :=
      { cause := if status = xsSrcPage then 13 else 15, asid := m.t.asid, hart := m.t.hart, hslot := m.t.slot,
        copy := m.t.copyNo, tkind := if m.t.kind = .copyb then 1 else 0, treg := m.t.reg, va := va, transfer := m.t.id }
    { s := m.s.modHart m.t.hart (fun h => { h with tfq := h.tfq ++ [r] }), t := { m.t with paused := true, host := 0 } }
  else
    let m := m.finish status
    { m with s := m.s.reportDead m.t status va }

/-- The bytes of a send-queue entry (R37). -/
def sqAddr (port idx : Nat) : Nat := 64 * (Config.sqTable port + idx)

/-- A tenant's counter word, as a virtual address (R39). -/
def State.counterVa (s : State) (asid i : Nat) : Nat :=
  match Store.find? s.disp.tenants asid with
  | some t => t.counters + 8 * i
  | none => 0

/-- Add n to a tenant's counter by one store at its home, from clock `clk` (R40, R241): the clock after it. `d` is the die of the port.
A word that does not translate, or that a down link cuts off, takes no add; one in a poisoned line takes it and stays poisoned
(log 106). -/
def State.counterAdd (s : State) (d asid i n clk : Nat) : Nat × State :=
  let va := s.counterVa asid i
  let s := s.engineWalk 640 asid .store va
  match s.engineTranslate 640 asid .store va with
  | .ok p =>
    if s.placeDead d p then (clk, s)
    else
      let v := (s.peekNat p.addr 8 + n) % 2 ^ 64
      s.writeRun 4096 asid clk (p, byteMask (p.addr % 64) 8, BitVec.ofNat 512 (v * 2 ^ (8 * (p.addr % 64))))
  | _ => (clk, s)

/-- The die of an Ultra Ethernet port (R14). -/
def netDie (port : Nat) : Nat := port / 3

/-- The send-queue entry of a transfer is read at its home (R37, R217): the state after it. -/
def State.touchQueue (s : State) (desc : Word) : State := s.devTouch (sqAddr (descPort desc) (descQueue desc)) 64

/-- The initiator adds the bytes of a put or a get to its local counter (R40). -/
def Moving.countLocal (m : Moving) (n : Nat) : Moving :=
  let i := m.s.peekNat (sqAddr (descPort m.t.desc) (descQueue m.t.desc) + 0x24) 4
  let (clk, s) := (m.s.touchQueue m.t.desc).counterAdd (netDie (descPort m.t.desc)) m.t.asid i n m.t.clk
  { s := s, t := { m.t with clk := clk } }

/-- Is the transfer a put or a get? -/
def Transfer.onNet (t : Transfer) : Bool := t.kind == .copyn || t.kind == .getr || t.kind == .putr

/-- The die across a down link between a transfer's quad and its Ultra Ethernet port (R14, R35), as a target. -/
def State.netDead (s : State) (t : Transfer) : Option Nat :=
  if t.onNet then s.linkTarget (dieOfQuad t.quad) (netDie (descPort t.desc)) else none

/-- After the last element: a put leaves for its target and awaits the acknowledgement; a get adds to the local counter; the
others are finished. -/
def Moving.last (m : Moving) : Moving :=
  let m := m.flush
  match m.t.kind with
  | .getr => (m.countLocal m.t.gotBytes).finish xsOk
  | .copyn =>
    let off := match m.t.dst with | .remote o => o | _ => 0
    { s := m.s.toHost (.netPut (descPort m.t.desc) (descQueue m.t.desc) off (m.t.net.getD [])), t := { m.t with sent := true } }
  | .putr => { m with t := { m.t with sent := true } }
  | _ => m.finish xsOk

/-- A source page of non-coherent host memory that the segment reads: its port. -/
def Transfer.hostPort (t : Transfer) (s : State) (seg : List (Nat × List Int)) : Option Nat :=
  let port (h : Handle) (x : List Int) : Option Nat :=
    if h.space = 2 && h.inside x then
      match s.engineTranslate t.quad t.asid .load (h.at_ x).1 with
      | .ok p => if p.kind = .hostNC && !s.placeDead (dieOfQuad t.quad) p then some p.home else none
      | _ => none
    else none
  let idx (x : List Int) : Option Nat := if t.kind.indexed then port (Handle.ofLine t.idx) [x.getD 0 0] else none
  firstSome (fun e : Nat × List Int =>
    match idx e.2 with
    | some p => some p
    | none => match t.src.handleOf with
      | some h => port h e.2
      | none => none) seg

/-- A line of FLUSHR (R414): the hart's copy goes home, the home recalls any other owner, and a slice writes the line back. -/
def State.flushLine (s : State) (hart : Nat) (p : Place) : State :=
  if p.kind = .hbm || p.kind = .hostC then
    let line := p.addr / 64 * 64
    let key := l1Key (lineNo line) p.home
    let s := (s.recallNow p.home line).wakeHeld p.home
    let s := if isProxy p.home then s else s.modHome p.home (·.cleanLine (lineNo line))
    match (s.hart hart).l1At key with
    | some l => if l.st = .shared then s.modHart hart (fun h => (h.unreserve key).dropL1 key) else s
    | none => s
  else s

def Moving.flushElements (m : Moving) (h : Handle) : List (Nat × List Int) → Moving × Nat × Option (Nat × Nat)
  | [] => (m, 0, none)
  | (_, x) :: r =>
    if !h.inside x then
      let (m, n, e) := m.flushElements h r
      (m, n + 1, e)
    else
      let ranges := (m.s.occupied m.t.quad m.t.asid h x).flatMap (fun a => linePieces a.1 a.2 (a.2 + 1))
      let m := { m with s := m.s.walkPieces m.t.quad m.t.asid .load ranges }
      match m.s.xferPlaces m.t m.t.quad .load h.space ranges with
      | .error e => (m, 0, some e)
      | .ok ps =>
        let s := ps.foldl (fun s p => s.flushLine m.t.hart p.2) m.s
        let (m, n, e) := Moving.flushElements { m with s := s } h r
        (m, n + 1, e)

/-- Move one segment of a transfer. A put or a get moves nothing across a down link to its port (R35). -/
def Moving.step (m : Moving) : Moving :=
  let t := m.t
  let seg := t.segment
  match t.kind, m.s.netDead t with
  | _, some d => let m := m.finish xsDeadlink; { m with s := m.s.reportLink t.hart (some d) }
  | .flushr, _ =>
    match t.src.handleOf with
    | none => m.finish xsOk
    | some h =>
      let (m, n, e) := m.flushElements h seg
      let m := { m with t := { m.t with pos := m.t.pos + n } }
      match e with
      | some (st, va) => m.fault st va
      | none => if m.t.region.count ≤ m.t.pos then m.finish xsOk else m
  | _, _ =>
    if t.kind = .getr && t.net.isNone then
      if t.netRuns.isEmpty then { m with t := { t with net := some [] } }
      else
        { s := t.netRuns.foldl (fun s r => s.toHost (.netGet (descPort t.desc) (descQueue t.desc) r.1 (r.2 - r.1))) m.s,
          t := { t with sent := true } }
    else
      match (if t.host = 2 then none else t.hostPort m.s seg) with
      | some port => { s := m.s.askHost (.copy t.id port), t := { t with host := 1 } }
      | none =>
        let (m, es, n, e) := m.readSegment seg
        let m := m.writeSegment es
        let m := { m with t := { m.t with pos := m.t.pos + n, host := 0 } }
        match e with
        | some (st, va) => m.fault st va
        | none => if m.t.region.count ≤ m.t.pos then m.last else m

/-! ## Which transfer may move -/

/-- y := (I[x_0], x_1, …), where x_0 lies in the index's extent (R411). -/
def State.indexedAt (s : State) (t : Transfer) (x : List Int) : Option (List Int) :=
  let ih := Handle.ofLine t.idx
  if ih.inside [x.getD 0 0] then some (natToInt 32 (s.peekElement t.quad t.asid ih [x.getD 0 0]) :: x.tail) else none

/-- Does a coordinate lie inside the source? Every coordinate lies inside a tile. -/
def Transfer.inSource (t : Transfer) (x : List Int) : Bool :=
  match t.src.handleOf with
  | some h => h.inside x
  | none => true

def Transfer.inDest (t : Transfer) (x : List Int) : Bool :=
  match t.dst.handleOf with
  | some h => h.inside x
  | none => true

/-- The coordinate that the source gives for x, if it lies inside the source (R407, R411). -/
def State.readsAt (s : State) (t : Transfer) (x : List Int) : Option (List Int) :=
  match t.kind with
  | .getx => (s.indexedAt t x).filter t.inSource
  | .putx => if t.inSource x && (s.indexedAt t x).any t.inDest then some x else none
  | _ => if t.inSource x then some x else none

/-- The coordinate at which the destination takes x, if it takes it (R407, R411, R420). -/
def State.takesAt (s : State) (t : Transfer) (x : List Int) : Option (List Int) :=
  match t.kind with
  | .putx => if t.inSource x then (s.indexedAt t x).filter t.inDest else none
  | .lddrn => if t.inDest x then some x else none
  | _ => if t.clip && (s.readsAt t x).isNone then none else some x

/-- The elements of a region in canonical order. -/
def Region.elems (r : Region) : List (List Int) := (List.range r.count).map r.nth

/-- The 64-byte unit of an address: a physical line, or the virtual one where the page does not translate. -/
def State.lineKey (s : State) (q asid va : Nat) : Nat :=
  match s.engineTranslate q asid .store va with
  | .ok p => lineNo p.addr
  | _ =>
    match s.engineTranslate q asid .load va with
    | .ok p => lineNo p.addr
    | _ => 2 ^ 64 + va / 64

/-- The bytes that a transfer writes, as (unit, first byte, end). -/
def State.destRanges (s : State) (t : Transfer) : List (Nat × Nat × Nat) :=
  let add (acc : List (Nat × Nat × Nat)) (k lo hi : Nat) : List (Nat × Nat × Nat) :=
    match acc with
    | (k', lo', hi') :: r => if k = k' && hi' = lo then (k', lo', hi) :: r else (k, lo, hi) :: acc
    | [] => [(k, lo, hi)]
  match t.dst, t.dst.handleOf with
  | .tile reg row, _ =>
    (t.region.elems.filterMap (s.takesAt t)).foldl (fun acc x =>
      let (tr, bit) := tilePos t.region row t.dstFmt.bits x
      t.members.foldl (fun acc q =>
        let a := tileAddr q.2 (reg + tr / 128) + tr % 128 * 256 + bit / 8
        add acc (lineNo a) (a % 64) (a % 64 + max 1 (t.dstFmt.bits / 8))) acc) []
  | _, some h =>
    if h.space = 3 then []
    else
      (t.region.elems.filterMap (s.takesAt t)).foldl (fun acc y =>
        t.members.foldl (fun acc q =>
          (linePieces (h.at_ y).1 h.format.bytes 9).foldl (fun acc x =>
            add acc (s.lineKey q.1 t.asid x.1) (x.1 % 64) (x.1 % 64 + x.2)) acc) acc) []
  | _, none =>
    if t.kind = .ldsub then
      let c := t.ring.config.toNat
      let a := unitAddr t.ring.quad (t.ring.unit + 1)
      (List.range (ringCount c * (1 + ringSize c / 64))).map (fun i => (lineNo a + i, 0, 64))
    else []

/-- Do two transfers write a common byte (R203)? -/
def State.destMeet (s : State) (a b : Transfer) : Bool :=
  let ra := s.destRanges a
  let rb := s.destRanges b
  ra.any (fun x => rb.any (fun y => x.1 == y.1 && decide (x.2.1 < y.2.2) && decide (y.2.1 < x.2.2)))

/-- Every transfer of the package. -/
def State.allTransfers (s : State) : List Transfer := s.quads.flatMap (fun q => q.2.transfers)

def State.transfer (s : State) (id : Nat) : Option Transfer := s.allTransfers.find? (fun t => t.id == id)

/-- Level of the leaf that translates an address for an ASID, 0 where none does. -/
def State.leafLevel (s : State) (asid va : Nat) : Nat :=
  let v := s.tenantView asid
  match s.walk 4 v .load va 4 v.root with
  | .ok (_, l) => l
  | .error _ => 0

/-- Does a transfer that moves hold a translation that a fence names: one of its ASID, for a page that it has still to pass, or whose
bytes it has not written out (R228, R229)? -/
def State.holdsPage (s : State) (t : Transfer) (va : Option Nat) (asid : Option Nat) : Bool :=
  t.phase == .moving && !t.paused && asid.all (· == t.asid) &&
    (match va with
     | none => true
     | some va =>
       let size := 2 ^ (12 + 9 * s.leafLevel t.asid (va % 2 ^ 48))
       let ends := [t.src.handleOf, t.dst.handleOf].filterMap id
       let rest := (List.range (t.region.count - (t.pos - 1))).map (fun i => t.region.nth (t.pos - 1 + i))
       let ends := if t.kind.indexed then Handle.ofLine t.idx :: ends else ends
       ends.any (fun h => h.space != 3 && rest.any (fun x =>
         (s.occupied t.quad t.asid h x).any (fun o =>
           o.1 / size == va % 2 ^ 48 / size || (o.1 + o.2 - 1) / size == va % 2 ^ 48 / size))))

/-- Transfers of a hart that are not complete. -/
def State.inFlight (s : State) (h : Nat) : List Transfer := s.allTransfers.filter (fun t => t.hart == h && t.phase != .done)

/-- An earlier transfer of the same hart still writes where this one will (R203). The destination of a subscription is the ring's slots,
which its updates keep apart (R419). -/
def State.heldBack (s : State) (t : Transfer) : Bool :=
  (s.inFlight t.hart).any (fun o => decide (o.id < t.id) && o.phase != .finished && o.kind != .ldsub && s.destMeet o t)

/-- May the transfer move its next segment now (R204)? -/
def State.xferActive (s : State) (t : Transfer) : Bool :=
  t.phase == .moving && !t.kind.stream && !t.paused && t.host != 1 && t.checked && !t.sent
    && t.members.all (fun q => !s.requestHolds q.2 t.id [] t.tiles)
    && !t.ctx.any (fun c => s.requestHolds c t.id t.stiles [])
    && !(t.pos = 0 && s.heldBack t)
    && !s.fills.any (fun f => (t.ctx == some f.1 || t.members.any (fun q => q.2 == f.1)) && f.2.1 == 4)

/-- The transfer that a source of a quad's engine moves next: sources 0 to 3 are the harts' queues, 4 the port queue. -/
def State.nextOf (s : State) (q src : Nat) : Option Transfer :=
  if src < 4 then
    (s.quad q).transfers.find? (fun t => t.hart % 4 == src && !t.kind.indexed && s.xferActive t)
  else
    firstSome (fun id => (s.transfer id).filter s.xferActive) ((s.quad q).portq.take 64)

/-- The source whose turn it is, with its transfer. -/
def State.nextSegment (s : State) (q : Nat) : Option (Nat × Transfer) :=
  let r := (s.quad q).rot
  firstSome (fun i => (s.nextOf q ((r + i) % 5)).map (fun t => ((r + i) % 5, t))) (List.range 5)

/-- The tile registers of a transfer are in the register file. -/
def State.ensureTiles (s : State) (t : Transfer) : State :=
  let s := match t.ctx with
    | some c => t.stiles.foldl (fun s r => s.ensureTile c r) s
    | none => s
  t.members.foldl (fun s q => t.tiles.foldl (fun s r => s.touchTile q.2 r) s) s

/-- TRANSFER_SEGMENT (R204, R229). -/
def execTransferSegment (q : Nat) (s : State) : Result :=
  match s.nextSegment q with
  | none => .next s
  | some (src, t) =>
    let s := (s.ensureTiles t).modQuad q (fun x => { x with rot := (src + 1) % 5 })
    if !s.xferActive t then .next s
    else
      let m := Moving.step { s := s, t := t }
      .next (m.s.modTransfer t.id (fun _ => m.t))

/-! ## The port queue (R205, R411) -/

/-- The remote end of GETX and PUTX, and the remote coordinates it is used at (R411). -/
def Transfer.remoteHandle (t : Transfer) : Option Handle := if t.kind = .getx then t.src.handleOf else t.dst.handleOf
def State.remoteElems (s : State) (t : Transfer) : List (List Int) :=
  t.region.elems.filterMap (if t.kind = .getx then s.readsAt t else s.takesAt t)

/-- Every remote element lies in a block of the target's vault that is the context's (R205, R211). -/
def State.portOk (s : State) (t : Transfer) : Bool :=
  match t.remoteHandle with
  | none => false
  | some h =>
    (s.remoteElems t).all (fun y =>
      (linePieces (h.at_ y).1 h.format.bytes 9).all (fun p =>
        match windowOf p.1 with
        | .vault q _ =>
          q == t.target &&
            (match s.engineTranslate t.quad t.asid (if t.kind = .getx then .load else .store) p.1 with
             | .ok _ => true
             | _ => false)
        | _ => false))

/-- PORT_REQUEST (R205): the oldest request of the port queue that is not checked yet. -/
def execPortRequest (q : Nat) (s : State) : Result :=
  match firstSome (fun id => (s.transfer id).filter (fun t => !t.checked && t.phase == .moving)) ((s.quad q).portq.take 64) with
  | none => .next s
  | some t =>
    .next (s.modTransfer t.id (fun t =>
      if s.portOk t then { t with checked := true }
      else { t with checked := true, phase := .finished, status := xsRefused }))

/-! ## Completion (R403, R347, R289, R455) -/

/-- Rows of a tile register that the elements below `pos` wrote. -/
def Transfer.rowsOf (t : Transfer) (reg : Nat) : List Nat :=
  match t.dst with
  | .tile r0 row =>
    (List.range t.pos).foldl (fun acc k =>
      let x := t.region.nth k
      let (tr, _) := tilePos t.region row t.dstFmt.bits x
      let wrote := !t.clip || (match t.src.handleOf with | some h => h.inside x | none => true)
      if wrote && r0 + tr / 128 = reg then insertNat acc (tr % 128) else acc) []
  | _ => []

/-- A copy that writes all 128 rows of a poisoned tile cleans it (R455). -/
def State.cleanTiles (s : State) (t : Transfer) : State :=
  t.members.foldl (fun s q =>
    t.tiles.foldl (fun s r =>
      if s.rangePoisoned (tileAddr q.2 r) 0x8000 && (t.rowsOf r).length = 128 then s.cleanRange (tileAddr q.2 r) 0x8000
      else s) s) s

/-- The COPYB additions, at every member (R410). -/
def State.addBarriers (s : State) (t : Transfer) : State :=
  let quads := if t.mc.isSome then t.members.map (·.1) else [t.bar.quad]
  quads.foldl (fun s q => s.copybAdd q t.bar.unit t.asid t.n t.status t.clk) s

/-- A finished transfer completes: its flags, its token or its barrier (R403, R347). -/
def State.completeTransfer (s : State) (id : Nat) : State :=
  match s.transfer id with
  | none => s
  | some t =>
    if t.phase != .finished then s
    else
      let o := s.ownerOf t.hart t.slot t.ctx t.task
      let s := (s.ownFlags o t.flags).cleanTiles t
      let s := if t.kind = .copyb then s.addBarriers t else s.ownToken o t.reg t.status t.clk
      let s := s.modQuad t.target (fun q => { q with portq := q.portq.filter (· != id) })
      let s := s.modTransfer id (fun t => { t with phase := .done, held := [], net := none, paused := false })
      t.members.foldl (fun s m => t.tiles.foldl (fun s r => s.settleTile m.2 r) s) s

/-- TRANSFER_COMPLETE. -/
def execTransferComplete (id : Nat) (s : State) : Result := .next (s.completeTransfer id)

/-- End a transfer from outside: what it had moved is written (R43, R62, R255). -/
def State.endTransfer (s : State) (id status : Nat) : State :=
  match s.transfer id with
  | none => s
  | some t =>
    if t.phase = .finished || t.phase = .done then s
    else
      let m := Moving.finish { s := s, t := t } status
      let s := m.s.modTransfer id (fun _ => m.t)
      { s.modHart t.hart (fun h => { h with tfq := h.tfq.filter (fun r => r.transfer != id) }) with
        hostReqs := s.hostReqs.filter (fun r => match r.2 with | .copy x _ => x != id | _ => true) }

end Sys2Proof.Machine
end

