-- ==== Sys2Proof/Machine/Copies.lean ====
section
/-! DEFINITION. Transfer instructions: the checks at issue (R406), copies, gathers, scatters, sends, gets and puts (R404 to
R412), PREF, FLUSHR, WAITG, TKTEST (R413 to R416), and the instructions of the stream controllers (R420, R421). -/

namespace Sys2Proof.Machine

/-! ## Operands (R404) -/

/-- An end as the instruction names it. -/
inductive XArg
  | h (n : Nat)
  | t (n : Nat)
  | net
  | none
  deriving DecidableEq, Repr

/-- A transfer instruction with its operands: `d` is the token, or the barrier binding of a COPYB. -/
structure XSpec where
  kind : XKind
  d : Reg
  g : Reg
  dst : XArg
  src : XArg
  idx : Option Nat := none
  clip : Bool := false
  row : Nat := 0
  mc : Option Nat := none

/-- An operand of the W64 forms: a tile when the bit is set. -/
def XArg.of (tile : Bool) (r : Reg) : XArg := if tile then .t r.toNat else .h r.toNat

def XArg.handles : XArg → List Nat
  | .h n => [n]
  | _ => []
def XArg.tiles : XArg → List Nat
  | .t n => [n]
  | _ => []

/-- Number of a handle operand, for stval. -/
def XArg.number : XArg → Nat
  | .h n => n
  | .t n => n
  | _ => 0

/-- The C32 forms: b the destination, h(b + 1) the source, h(b + 2) the index. -/
def XSpec.c32 (kind : XKind) (clip : Bool) (d g b : Reg) : XSpec :=
  { kind := kind, d := d, g := g, dst := .h b.toNat, src := .h (b.toNat + 1), clip := clip,
    idx := if kind.indexed then some (b.toNat + 2) else none }

/-- The W64 forms. -/
def XSpec.w64 (kind : XKind) (clip : Bool) (d g b c : Reg) (imm : BitVec 24) : XSpec :=
  { kind := kind, d := d, g := g, dst := .of (imm.getLsbD 7) b, src := .of (imm.getLsbD 8) c, clip := clip,
    row := (fld imm 0 7).toNat,
    idx := if kind.indexed then some (fld imm 10 4).toNat else none,
    mc := if imm.getLsbD 9 then some (fld imm 10 12).toNat else none }

/-! ## Building the transfer -/

/-- The members of a multicast group of an ASID, with the context of each; none when the group is not valid (R402, R410). -/
def State.groupMembers (s : State) (g asid : Nat) : Option (List (Nat × Nat)) :=
  match Store.find? s.disp.mcast g with
  | none => none
  | some (a, m) =>
    let qs := (List.range 640).filter m.getLsbD
    if a ≠ asid || qs.isEmpty then none else qs.mapM (fun q => (s.contextOn asid q).map (fun c => (q, c)))

/-- The stack of a physical HBM address, 0 to 7 in the package (R209). -/
def stackOf (pa : Nat) : Nat :=
  let o := pa % Config.dieBytes
  let c := natBits o 8 6 ^^^ natBits o 14 6 ^^^ natBits o 20 6
  2 * (pa / Config.dieBytes) + c / 32

/-- Is a stream controller in service (R255)? -/
def State.ladleServes (s : State) (k : Nat) : Bool := decide (Store.get 0 s.ladleDeaths k < 2)

/-- A controller of a stack for a transfer: any one of the eight that is in service, a free choice (R16, R420; log 108). -/
def State.chooseLadle (s : State) (stack : Nat) : Nat × State :=
  let ks := ((List.range 8).map (8 * stack + ·)).filter s.ladleServes
  let (f, s) := s.fresh64
  (ks.getD (f.toNat % max 1 ks.length) (8 * stack), s)

def State.chooseLadles (s : State) (ks : List Nat) : List Nat × State :=
  ks.foldl (fun (a : List Nat × State) k => let (l, s) := a.2.chooseLadle k; (a.1 ++ [l], s)) ([], s)

/-- The stacks that hold the lines of a subscription; with none, the first of the hart's die (R420). -/
def State.stacksOf (s : State) (t : Transfer) (h : Handle) : List Nat :=
  let acc : Access := if t.kind = .ldsub then .load else .store
  let l := (t.region.elems.filter h.inside).foldl (fun l x =>
    (s.occupied t.quad t.asid h x).foldl (fun l r =>
      (linePieces r.1 r.2 9).foldl (fun l p =>
        match s.engineTranslate t.quad t.asid acc p.1 with
        | .ok pl => if pl.kind = .hbm then insertNat l (stackOf pl.addr) else l
        | _ => l) l) l) []
  if l.isEmpty then [2 * dieOfQuad t.quad] else l

def State.xend (s : State) (desc : Word) (row : Nat) : XArg → XEnd
  | .h n => .handle (s.hgetN n)
  | .t n => .tile n row
  | .net => .remote (fld desc 16 48).toNat
  | .none => .absent

/-- The transfer that the instruction would issue, with what it samples (R407). -/
def XSpec.build (p : XSpec) (s : State) : Transfer :=
  let h := s.me
  let desc := if p.kind = .copyb then 0 else h.rx p.d
  let t : Transfer :=
    { id := 0, hart := s.cur, quad := quadOf s.cur, slot := h.slot, ctx := h.ctx, task := h.task,
      asid := (s.view s.cur false).asid, kind := p.kind, reg := p.d.toNat,
      bar := if p.kind = .copyb then h.bind p.d else {},
      ring := if p.kind.stream then h.ringBind ((fld desc 0 3).setWidth 5) else {},
      region := s.gget p.g, src := s.xend desc p.row p.src, dst := s.xend desc p.row p.dst,
      idx := match p.idx with | some n => s.hgetN n | none => 0,
      clip := p.clip, mc := p.mc, desc := desc, rmode := h.dev.rmode, seed := h.dev.srseed, tid := s.tid,
      clk := h.pts, target := quadOf s.cur }
  let fit (a : XArg) (f : Fmt) : List Nat :=
    match a with
    | .t n => (tileFit t.region n p.row f.bits).getD []
    | _ => []
  { t with
    tiles := fit p.dst t.dstFmt, stiles := fit p.src t.srcFmt,
    members := match p.mc with
      | some g => (s.groupMembers g t.asid).getD []
      | none => [(t.quad, t.ctx.getD 0)] }

/-! ## The checks of R406 -/

/-- stval of cause 30 for a region and a handle (R375). -/
def handleMismatch (g n : Nat) : Word := BitVec.ofNat 64 (g + n * 2 ^ 8)

/-- Step 2: the region's dimension count differs from a handle's. -/
def XSpec.dimsTrap (p : XSpec) (t : Transfer) : Option (Nat × Word) :=
  let one (e : XEnd) (a : XArg) : Option (Nat × Word) :=
    match e.handleOf with
    | some h => if h.dims ≠ t.region.d then some (30, handleMismatch p.g.toNat a.number) else none
    | none => none
  (one t.dst p.dst).orElse (fun _ => one t.src p.src)

/-- Step 3: an unbound binding, or one of the wrong role. -/
def XSpec.bindTrap (p : XSpec) (t : Transfer) : Option (Nat × Word) :=
  match p.kind with
  | .copyb => if t.bar.bound then none else some (48, BitVec.ofNat 64 p.d.toNat)
  | .ldsub | .lddrn =>
    let role := if p.kind = .ldsub then 0 else 1
    if t.ring.bound && (t.ring.role = role || t.ring.role = 2) then none else some (49, zx (fld t.desc 0 3))
  | _ => none

def XEnd.wf (e : XEnd) : Bool :=
  match e.handleOf with
  | some h => h.wf
  | none => true

/-- Is an end placed by steps 5 and 6: a well-formed handle? -/
def XEnd.placed (e : XEnd) : Option Handle := e.handleOf.filter (·.wf)

/-- What steps 5 and 6 place: an end that is not well formed takes no part, and with such an index nor does the end that it
leads to. -/
def Transfer.placeable (t : Transfer) : Transfer :=
  let bad := t.kind.indexed && !(Handle.ofLine t.idx).wf
  { t with
    src := if t.src.wf && !(bad && t.kind == .getx) then t.src else .absent,
    dst := if t.dst.wf && !(bad && t.kind == .putx) then t.dst else .absent,
    kind := if bad then .copy else t.kind }

/-- Steps 5 and 6: the exclusion list, the read window and the write window (R149, R477). -/
def State.outside (s : State) (t : Transfer) : Bool :=
  let t := t.placeable
  let w := s.me.win
  (match t.src.placed with
   | some h =>
     (!w.excl.isEmpty || w.rd.isSome) && (t.region.elems.filterMap (s.readsAt t)).any (fun y =>
       (s.occupied t.quad t.asid h y).any (fun r =>
         s.excluded r.1 r.2 (h.space == 3) || !s.inWindow w.rd r.1 r.2 (h.space == 3)))
   | none => false)
  || (match t.dst.placed with
   | some h =>
     w.wr.isSome && (t.region.elems.filterMap (s.takesAt t)).any (fun y =>
       (s.occupied t.quad t.asid h y).any (fun r => !s.inWindow w.wr r.1 r.2 (h.space == 3)))
   | none => false)

/-- Steps 2 to 6. -/
def XSpec.trap (p : XSpec) (t : Transfer) (s : State) : Option (Nat × Word) :=
  let g : Word := BitVec.ofNat 64 p.g.toNat
  (p.dimsTrap t).orElse fun _ => (p.bindTrap t).orElse fun _ =>
    if p.kind = .flushr then none
    else if t.region.inexact then some (24, g)
    else if s.outside t then some (25, g)
    else none

/-- The spaces that an operation takes at its ends (R409 to R412, R420). -/
def Transfer.spacesOk (t : Transfer) : Bool :=
  let sp (e : XEnd) : Option Nat := e.handleOf.map (·.space)
  let loc (e : XEnd) : Bool := sp e != some 3
  match t.kind with
  | .copy | .copyb | .copyn | .flushr => loc t.src && loc t.dst
  | .getx => sp t.src == some 1 && loc t.dst
  | .putx => loc t.src && sp t.dst == some 1
  | .getr => sp t.src == some 3 && loc t.dst
  | .putr => loc t.src && sp t.dst == some 3
  | .ldsub => sp t.src == some 0
  | .lddrn => sp t.dst == some 0

/-- A multicast destination: a tile, or places in the own-vault alias alone (R410). -/
def State.multicastOk (s : State) (t : Transfer) : Bool :=
  t.mc.isNone ||
    (match t.dst.handleOf with
     | none => true
     | some h =>
       h.space == 1 && (t.region.elems.filterMap (s.takesAt t)).all (fun y =>
         match windowOf (h.at_ y).1 with
         | .own _ => true
         | _ => false))

/-- A tile end fits, and the other handle is dense (R405). -/
def XSpec.tileOk (p : XSpec) (t : Transfer) : Bool :=
  let one (a : XArg) (f : Fmt) (other : XEnd) : Bool :=
    match a with
    | .t n =>
      (tileFit t.region n p.row f.bits).isSome && (match other.handleOf with | some h => h.kind == 0 | none => true)
    | _ => true
  one p.dst t.dstFmt t.src && one p.src t.srcFmt t.dst

/-- Step 7. -/
def XSpec.badHandle (p : XSpec) (t : Transfer) (s : State) : Bool :=
  let ih := Handle.ofLine t.idx
  !t.src.wf || !t.dst.wf || (match t.dst.handleOf with | some h => h.kind == 1 | none => false)
    || (p.kind.indexed && !(ih.wf && ih.dims == 1 && ih.fmt == 2))
    || !convOk t.srcFmt t.dstFmt || !p.tileOk t || !t.spacesOk || !s.multicastOk t

/-- Step 8: more bytes than 2^31 − 1. -/
def State.tooBig (s : State) (t : Transfer) : Bool :=
  if t.kind = .flushr then false
  else if t.region.count * t.dstFmt.bytes ≤ 2 ^ 31 - 1 then false
  else if (t.kind = .copyn || t.kind = .ldsub) && t.dstFmt.bits = 4 then
    decide (2 ^ 31 - 1 < ceilDiv (t.region.elems.filterMap (s.takesAt t)).length 2)
  else if !t.clip && t.kind != .putx && t.kind != .lddrn && decide (8 ≤ t.dstFmt.bits) then true
  else
    let f := t.dstFmt
    let h := (t.dst.handleOf.orElse (fun _ => t.src.handleOf)).getD (Handle.ofLine 0)
    let t := (t.region.elems.filterMap (s.takesAt t)).foldl (fun (t : Transfer) y =>
      if 8 ≤ f.bits then { t with n := t.n + f.bytes } else t.counted (h.at_ y).1) { t with n := 0, lastByte := none }
    decide (2 ^ 31 - 1 < t.n)

/-- Step 9, send queues: the entry must be READY and of the issuing context's ASID. -/
def State.queueReady (s : State) (desc : Word) (asid : Nat) : Bool :=
  let a := sqAddr (descPort desc) (descQueue desc)
  decide (descPort desc ≤ 11) && s.peekNat a 1 == 1 && s.peekNat (a + 4) 2 == asid

/-- Step 9. -/
def XSpec.refused (p : XSpec) (t : Transfer) (s : State) : Option Nat :=
  match p.kind with
  | .copyn => if fld t.desc 14 2 = 0 && s.queueReady t.desc t.asid then none else some xsRefused
  | .getr | .putr => if fld t.desc 14 50 = 0 && s.queueReady t.desc t.asid then none else some xsRefused
  | .ldsub | .lddrn => if t.desc &&& ~~~(0x107 : Word) = 0 then none else some xsRefused
  | _ =>
    match p.mc with
    | some g => if (s.groupMembers g t.asid).isSome then none else some xsMcast
    | none => none

/-- Steps 7 to 10: the status with which the transfer ends at issue. -/
def XSpec.status (p : XSpec) (t : Transfer) (s : State) : Option Nat :=
  if p.badHandle t s then some xsBadHandle
  else if t.ctx.isNone && !p.dst.tiles.isEmpty && p.mc.isNone then some xsDstAccess
  else if t.ctx.isNone && !p.src.tiles.isEmpty then some xsSrcAccess
  else if s.tooBig t then some xsTooBig
  else
    match p.refused t s with
    | some st => some st
    | none =>
      if p.clip && (if p.kind = .getx then (t.region.elems.filterMap (s.readsAt t)).isEmpty
                    else t.region.elems.all (fun x => !t.inSource x)) then some xsOk
      else none

/-! ## Issue -/

/-- A copy slot that none of the hart's transfers holds (R170). -/
def State.freeCopyNo (s : State) : Nat :=
  let used := (s.inFlight s.cur).map (·.copyNo)
  ((List.range 32).find? (fun n => !used.contains n)).getD 0

/-- The quad of the first remote element. -/
def State.targetOf (s : State) (t : Transfer) : Nat :=
  match t.remoteHandle, (s.remoteElems t).head? with
  | some h, some y =>
    match windowOf (h.at_ y).1 with
    | .vault q _ => q
    | _ => t.quad
  | _, _ => t.quad

/-- Put a transfer on its quad. -/
def State.addTransfer (s : State) (t : Transfer) : State :=
  s.modQuad t.quad (fun q => { q with transfers := q.transfers ++ [t] })

/-- A token register from issue on (R190, R403). -/
def State.openToken (s : State) (n id : Nat) : State := s.modMe (·.setToken n { pending := true, transfer := id })

/-- The transfer starts. -/
def State.startTransfer (s : State) (t : Transfer) : State :=
  let (id, s) := s.newId
  let t := { t with id := id, copyNo := s.freeCopyNo }
  let s := if t.kind = .copyb then s else s.openToken t.reg id
  if t.kind.indexed then
    let t := { t with target := s.targetOf t, checked := false }
    (s.addTransfer t).modQuad t.target (fun q => { q with portq := q.portq ++ [id] })
  else if t.kind.stream then
    match (if t.kind = .ldsub then t.src.handleOf else t.dst.handleOf) with
    | some h =>
      let (ls, s) := s.chooseLadles (s.stacksOf t h)
      s.addTransfer { t with phase := .queued, ladles := ls }
    | none => s
  else s.addTransfer t

/-- The transfer ends at issue: its token completes, or its bytes and status are added to the barrier (R403, R406). -/
def State.endAtIssue (s : State) (t : Transfer) (status : Nat) : State :=
  let (id, s) := s.newId
  let t := { t with id := id, status := status, phase := .done }
  let s :=
    if t.kind = .copyb then
      if t.members.isEmpty then s.copybAdd t.bar.quad t.bar.unit t.asid 0 status t.clk else s.addBarriers t
    else (s.openToken t.reg id).ownToken (.hart s.cur) t.reg status t.clk
  s.addTransfer t

/-- What the instruction does when it issues. -/
def XSpec.body (p : XSpec) (s : State) : Act Unit :=
  if p.kind != .copyb && p.d = 0 then illegal s
  else
    let t := p.build s
    match p.trap t s with
    | some (c, v) => .trap c v s
    | none =>
      let st := p.status t s
      if st.isNone && decide (32 ≤ (s.inFlight s.cur).length) then .stall s
      else
        (s.localQuiet).andThen fun _ s =>
        let s := if t.srcFmt ≠ t.dstFmt && st ≠ some xsBadHandle then s.advanceSeed else s
        let s := s.record 5 6 (BitVec.ofNat 64 p.d.toNat)
        let s := if t.onNet then s.touchQueue t.desc else s
        match st with
        | some st => .ok () (s.endAtIssue t st)
        | none => .ok () (s.startTransfer t)

/-- A transfer instruction at issue. -/
def XSpec.issue (p : XSpec) (s : State) : Issue :=
  let xs := if p.kind = .copyb then [] else [p.d]
  let t := p.build s
  let span (named fit : List Nat) : List Nat := if fit.isEmpty then named else fit
  { xs := xs, codes := [codeG p.g] ++ (p.dst.handles ++ p.src.handles ++ p.idx.toList).map (48 + ·),
    ts := span p.dst.tiles t.tiles ++ span p.src.tiles t.stiles, wx := xs, wt := span p.dst.tiles t.tiles,
    body := p.body }

def XSpec.exec (p : XSpec) (s : State) : Result := (p.issue s).run s

/-! ## Copies and sends (R409, R410) -/

/-- COPY. -/
def execCopy (d a b : Reg) (s : State) : Result := (XSpec.c32 .copy false d a b).exec s
/-- COPY_CLIP. -/
def execCopyClip (d a b : Reg) (s : State) : Result := (XSpec.c32 .copy true d a b).exec s
/-- COPY_W64. -/
def execCopyW64 (clip : Bool) (d a b c : Reg) (imm : BitVec 24) (s : State) : Result :=
  (XSpec.w64 .copy clip d a b c imm).exec s
/-- COPYB. -/
def execCopyb (n a b : Reg) (s : State) : Result := (XSpec.c32 .copyb false n a b).exec s
/-- COPYB_CLIP. -/
def execCopybClip (n a b : Reg) (s : State) : Result := (XSpec.c32 .copyb true n a b).exec s
/-- COPYB_W64. -/
def execCopybW64 (clip : Bool) (n a b c : Reg) (imm : BitVec 24) (s : State) : Result :=
  (XSpec.w64 .copyb clip n a b c imm).exec s

/-- The operands of COPYN: b names the source (R409, R422). -/
def XSpec.send (clip : Bool) (d a b : Reg) : XSpec :=
  { kind := .copyn, d := d, g := a, dst := .net, src := .h b.toNat, clip := clip }

/-- COPYN. -/
def execCopyn (d a b : Reg) (s : State) : Result := (XSpec.send false d a b).exec s
/-- COPYN_CLIP. -/
def execCopynClip (d a b : Reg) (s : State) : Result := (XSpec.send true d a b).exec s
/-- COPYN_W64: the source in c. -/
def execCopynW64 (clip : Bool) (d a b c : Reg) (imm : BitVec 24) (s : State) : Result :=
  ({ XSpec.w64 .copyn clip d a b c imm with dst := .net }).exec s

/-! ## Gathers, scatters, gets, puts (R411, R412) -/

/-- GETX. -/
def execGetx (d a b : Reg) (s : State) : Result := (XSpec.c32 .getx false d a b).exec s
/-- GETX_CLIP. -/
def execGetxClip (d a b : Reg) (s : State) : Result := (XSpec.c32 .getx true d a b).exec s
/-- GETX_W64. -/
def execGetxW64 (clip : Bool) (d a b c : Reg) (imm : BitVec 24) (s : State) : Result :=
  (XSpec.w64 .getx clip d a b c imm).exec s
/-- PUTX. -/
def execPutx (d a b : Reg) (s : State) : Result := (XSpec.c32 .putx false d a b).exec s
/-- PUTX_CLIP. -/
def execPutxClip (d a b : Reg) (s : State) : Result := (XSpec.c32 .putx true d a b).exec s
/-- PUTX_W64. -/
def execPutxW64 (clip : Bool) (d a b c : Reg) (imm : BitVec 24) (s : State) : Result :=
  (XSpec.w64 .putx clip d a b c imm).exec s
/-- GETR. -/
def execGetr (d a b : Reg) (s : State) : Result := (XSpec.c32 .getr false d a b).exec s
/-- GETR_CLIP. -/
def execGetrClip (d a b : Reg) (s : State) : Result := (XSpec.c32 .getr true d a b).exec s
/-- GETR_W64. -/
def execGetrW64 (clip : Bool) (d a b c : Reg) (imm : BitVec 24) (s : State) : Result :=
  (XSpec.w64 .getr clip d a b c imm).exec s
/-- PUTR. -/
def execPutr (d a b : Reg) (s : State) : Result := (XSpec.c32 .putr false d a b).exec s
/-- PUTR_CLIP. -/
def execPutrClip (d a b : Reg) (s : State) : Result := (XSpec.c32 .putr true d a b).exec s
/-- PUTR_W64. -/
def execPutrW64 (clip : Bool) (d a b c : Reg) (imm : BitVec 24) (s : State) : Result :=
  (XSpec.w64 .putr clip d a b c imm).exec s

/-! ## Prefetch, flush and waits -/

/-- PREF of one line: skipped when its page does not translate, it is not HBM, or it is excluded (R413). -/
def State.prefetchLine (s : State) (va : Nat) : State :=
  if s.excluded (va / 64 * 64) 64 then s
  else
    let asid := (s.view s.cur false).asid
    match s.engineTranslate (quadOf s.cur) asid .load va with
    | .ok p => if p.kind = .hbm then s.ensureLine p.home (p.addr / 64 * 64) asid false else s
    | _ => s

/-- PREF. -/
def execPref (a b : Reg) (s : State) : Result :=
  ins [] [] (fun s =>
    let r := s.gget a
    let h := Handle.ofLine (s.hgetN b.toNat)
    if overHandle r h then
      let asid := (s.view s.cur false).asid
      .ok () ((r.elems.filter h.inside).foldl (fun s x =>
        (s.occupied (quadOf s.cur) asid h x).foldl (fun s o =>
          (linePieces o.1 o.2 9).foldl (fun s p => s.prefetchLine p.1) s) s) s)
    else .ok () s) s

/-- FLUSHR (R414). -/
def execFlushr (d a b : Reg) (s : State) : Result :=
  ({ kind := .flushr, d := d, g := a, dst := .none, src := .h b.toNat } : XSpec).exec s

/-- Did the current hart issue the transfer: for the task it runs, in its slot, on whatever hart that was (R178, R280), or for no task? -/
def State.issuedHere (s : State) (t : Transfer) : Bool :=
  t.task == s.me.task && (if t.task.isSome then t.ctx == s.me.ctx && t.slot == s.me.slot else t.hart == s.cur)

/-- The transfers that WAITG covers (R415). -/
def State.covered (s : State) (r : Region) (h : Handle) : List Transfer :=
  let q := quadOf s.cur
  let asid := (s.view s.cur false).asid
  let units :=
    if overHandle r h then
      (r.elems.filter h.inside).flatMap (fun x =>
        (s.occupied q asid h x).flatMap (fun o => (linePieces o.1 o.2 9).map (fun p => s.lineKey q asid p.1)))
    else []
  s.allTransfers.filter (fun t => s.issuedHere t && t.dst.wf && (s.destRanges t).any (fun x => units.contains x.1))

/-- WAITG (R415). -/
def execWaitg (d a b : Reg) (s : State) : Result :=
  insL [d] [] [codeG a, codeH b] (fun s =>
    let r := s.gget a
    let h := Handle.ofLine (s.hgetN b.toNat)
    if h.dims ≠ r.d then .trap 30 (handleMismatch a.toNat b.toNat) s
    else
      let ts := s.covered r h
      if ts.any (fun t => t.phase != .done) then .stall s
      else
        let old := s.me
        let regs := (List.range 32).filter (fun n => ts.any (fun t => t.kind != .copyb && t.reg == n && (old.token n).transfer == t.id))
        let s := s.modMe (fun x => ts.foldl (fun x t => x.raise t.clk) x)
        match regs.find? (fun n => (old.token n).fpend) with
        | some n =>
          .trap 28 (report (old.token n).status 0 n) (s.modMe (fun x => x.setToken n { x.token n with fpend := false }))
        | none =>
          let bad := regs.find? (fun n => (old.token n).status != 0)
          let s := s.modMe (fun x => x.joined old s.cycle regs)
          .ok () (s.wx d (BitVec.ofNat 64 ((bad.map (fun n => (old.token n).status)).getD 0)))) s

/-- TKTEST (R416): it names no register that it could stall on or join but the token that it tests, and leaves FPEND as it is
(log 80). -/
def execTktest (d a : Reg) (s : State) : Result :=
  ins [] [] (fun s =>
    let n := a.toNat
    let h := s.me
    let t := h.token n
    if h.xBusy n then .ok () (s.wx d 0)
    else if t.unjoined then
      let s := s.modMe (fun x => (x.raise t.time).joined h s.cycle [n])
      .ok () (s.wx d (BitVec.ofNat 64 (0x100 + t.status % 256)))
    else .ok () (s.wx d (0x100 ||| (h.rx a &&& 0xff)))) s

/-! ## Stream controllers: the hart's side (R420, R421) -/

/-- LDSUB. -/
def execLdsub (d a b : Reg) (s : State) : Result :=
  ({ kind := .ldsub, d := d, g := a, dst := .none, src := .h b.toNat } : XSpec).exec s

/-- LDDRN. -/
def execLddrn (d a b : Reg) (s : State) : Result :=
  ({ kind := .lddrn, d := d, g := a, dst := .h b.toNat, src := .none } : XSpec).exec s

/-- LDCAN (R421). -/
def execLdcan (d a : Reg) (s : State) : Result :=
  ins (if d = a then [] else [d]) [] (fun s =>
    match s.transfer (s.me.token a.toNat).transfer with
    | some t =>
      if !t.kind.stream || !s.issuedHere t then .ok () (s.wx d 2)
      else if t.phase = .done then .ok () (s.wx d 1)
      else
        let s := s.modTransfer t.id (fun t =>
          if t.use.isNone && t.phase != .finished then { t with phase := .finished, cancel := true }
          else { t with cancel := true })
        .ok () (s.wx d 0)
    | none => .ok () (s.wx d 2)) s

end Sys2Proof.Machine
end

