-- ==== Sys2Proof/Machine/Approx.lean ====
section
/-! DEFINITION. The functions of R445 and R446: values computed with far more bits than the result holds, then rounded. -/

namespace Sys2Proof

/-- The approximated functions. -/
inductive ApproxOp | exp2 | log2 | rcp | rsqrt | sqrt
  deriving DecidableEq, Repr

/-- Fraction bits of the fixed-point numbers below. -/
def fixBits : Nat := 260

/-- floor(ln 2 × 2^260). -/
def fixLn2 : Nat :=
  1284175362975860941795742467300961128543850681785439145697965880086719311618750

/-- Σ y^k / k! for k from n − i on, in fixed point, given the running term. -/
def expSeries (y : Nat) : Nat → Nat → Nat → Nat
  | 0, _, _ => 0
  | i + 1, k, term => term + expSeries y i (k + 1) (term * y / 2 ^ fixBits / (k + 1))

/-- 2^f for a fixed-point f in [0, 1). -/
def fixExp2 (f : Nat) : Nat := expSeries (f * fixLn2 / 2 ^ fixBits) 90 0 (2 ^ fixBits)

/-- Σ z^(2k+1) / (2k+1), in fixed point. -/
def atanhSeries (z2 : Nat) : Nat → Nat → Nat → Nat
  | 0, _, _ => 0
  | i + 1, k, term => term / (2 * k + 1) + atanhSeries z2 i (k + 1) (term * z2 / 2 ^ fixBits)

/-- log2 of m ÷ 2^(log2 m), in fixed point. -/
def fixLog2 (m : Nat) : Nat :=
  let one := 2 ^ Nat.log2 m
  let z := (m - one) * 2 ^ fixBits / (m + one)
  2 * atanhSeries (z * z / 2 ^ fixBits) 100 0 z * 2 ^ fixBits / fixLn2

/-- The integer square root by bisection on bits, from bit n − 1 down. -/
def isqrtFrom (v : Nat) : Nat → Nat → Nat
  | 0, r => r
  | n + 1, r => let c := r + 2 ^ n; if c * c ≤ v then isqrtFrom v n c else isqrtFrom v n r

def isqrt (v : Nat) : Nat := isqrtFrom v (Nat.log2 v / 2 + 1) 0

/-- A magnitude with a sticky bit below it: m × 2^e, and a tail when not exact. -/
def sticky (m : Nat) (e : Int) (exact : Bool) : Nat × Int := (2 * m + (if exact then 0 else 1), e - 1)

/-- The exact value of a function at ± m × 2^e, m ≠ 0, as sign, magnitude with sticky bit, and exactness. -/
def approxValue (op : ApproxOp) (neg : Bool) (m : Nat) (e : Int) : Bool × (Nat × Int) × Bool :=
  match op with
  | .rcp =>
    let k := Nat.log2 m + 70
    let q := 2 ^ k / m
    let ex := 2 ^ k % m == 0
    (neg, sticky q (-e - k) ex, ex)
  | .sqrt =>
    let (m, e) := if e % 2 = 0 then (m, e) else (2 * m, e - 1)
    let k := Nat.log2 m + 70
    let v := m * 2 ^ (2 * k)
    let y := isqrt v
    let ex := y * y == v
    (false, sticky y (e / 2 - k) ex, ex)
  | .rsqrt =>
    let (m, e) := if e % 2 = 0 then (m, e) else (2 * m, e - 1)
    let k := Nat.log2 m + 70
    let q := 2 ^ (2 * k) / m
    let y := isqrt q
    let ex := 2 ^ (2 * k) % m == 0 && y * y == q
    (false, sticky y (-(e / 2) - k) ex, ex)
  | .exp2 =>
    if 9 < topExp m e then (false, (3, if neg then -800 else 300), false)
    else if 0 ≤ e ∨ m % 2 ^ (-e).toNat = 0 then
      let v : Int := if 0 ≤ e then m * 2 ^ e.toNat else m / 2 ^ (-e).toNat
      (false, (1, if neg then -v else v), true)
    else
      let x : Int := if neg then -(m : Int) else m
      let q : Int := 2 ^ (-e).toNat
      let n := x / q
      let f := (x % q).toNat * 2 ^ fixBits / 2 ^ (-e).toNat
      (false, sticky (fixExp2 f) (n - fixBits) false, false)
  | .log2 =>
    let t := topExp m e
    if m = 2 ^ Nat.log2 m then (decide (t < 0), (t.natAbs, 0), true)
    else
      let v : Int := t * 2 ^ fixBits + fixLog2 m
      (decide (v < 0), sticky v.natAbs (-(fixBits : Int)) false, false)

/-- The value nearest to m × 2^e with 24 bits, the exponent range unbounded, and whether it differs. -/
def nearest24 (m : Nat) (e : Int) : Nat × Int × Bool :=
  let (n, inx) := roundTo { rm := 0, sat := false } false m e (topExp m e - 23)
  (n, topExp m e - 23, inx)

/-- The FP32 result of R445 for an exact value. -/
def near32 (r : Rounding) (neg : Bool) (v : Nat × Int) (exact : Bool) : Nat × Nat :=
  if v.1 = 0 then (if neg then 0x80000000 else 0, 0)
  else
    let (n, q, inx) :=
      if topExp v.1 v.2 - 23 ≤ v.2 then (v.1, v.2, false) else nearest24 v.1 v.2
    let t := topExp n q
    if 128 ≤ t then Fmt.f32.packFin r neg n q
    else if t < -126 then Fmt.f32.packFin r neg v.1 v.2
    else ((Fmt.f32.packFin { rm := 0, sat := false } neg n q).1, if inx || !exact then flNX else 0)

/-- An FP32 code rounded once more to the type. -/
def narrowTo (f : Fmt) (r : Rounding) (x : Nat × Nat) : Nat × Nat :=
  if f = .f32 then x
  else let (c, g) := f.pack r (Fmt.f32.unpack x.1); (c, x.2 ||| g)

/-- Special inputs (R445, R446): zero, infinity, negative. -/
def approxSpecial (op : ApproxOp) : Num → Option (Num × Nat)
  | .nan s => some (.nan false, nvIf s)
  | .inf neg =>
    match op with
    | .exp2 => some (if neg then .fin false 0 0 else .inf false, 0)
    | .rcp => some (.fin neg 0 0, 0)
    | .log2 | .sqrt => some (if neg then (.nan false, flNV) else (.inf false, 0))
    | .rsqrt => some (if neg then (.nan false, flNV) else (.fin false 0 0, 0))
  | .fin neg m _ =>
    if m = 0 then
      match op with
      | .exp2 => some (.fin false 1 0, 0)
      | .log2 => some (.inf true, flDZ)
      | .rcp | .rsqrt => some (.inf neg, flDZ)
      | .sqrt => some (.fin neg 0 0, 0)
    else
      match op with
      | .log2 | .rsqrt | .sqrt => if neg then some (.nan false, flNV) else none
      | _ => none

/-- VEXP2, VLOG2, VRCP, VRSQRT and VSQRT of one element: the code and the flags. -/
def approx (op : ApproxOp) (f : Fmt) (r : Rounding) (code : Nat) : Nat × Nat :=
  let v := f.unpack code
  match approxSpecial op v, v with
  | some (x, fl), _ => let (c, g) := f.pack r x; (c, fl ||| g)
  | none, .fin neg m e =>
    let (sg, hp, ex) := approxValue op neg m e
    match op with
    | .sqrt => f.packFin r sg hp.1 hp.2
    | _ => narrowTo f r (near32 r sg hp ex)
  | none, _ => (f.canonNaN, 0)

end Sys2Proof
end

