-- ==== Sys2Proof/Machine/Vector.lean ====
section
/-! DEFINITION. The vector unit (18): lanes and the active mask, memory instructions, moves, arithmetic, compares, conversions,
reductions, approximations, permutations and mask instructions. Each instruction is an `Issue`, which the hart runs at once
and a repetition lane runs for each iteration. -/

namespace Sys2Proof.Machine

/-! ## Lanes -/

/-- The number format of an element type; fp8 stands for E4M3 (R441). -/
def fmtOf : VTy → Fmt
  | .i8 => .i8 | .i16 => .i16 | .i32 => .i32 | .i64 => .i64 | .bf16 => .bf16 | .f16 => .f16 | .f32 => .f32 | .fp8 => .e4m3

/-- The `n` elements of `w` bits of a vector. -/
def lanesOf (w n : Nat) (l : Line) : List Nat := (List.range n).map (elemAt l.toNat w)

/-- A vector of elements of `w` bits, the rest zero. -/
def ofLanes (w : Nat) (xs : List Nat) : Line := BitVec.ofNat 512 (xs.foldr (fun x a => x % 2 ^ w + 2 ^ w * a) 0)

/-- The elements of V[r]. -/
def State.elems (s : State) (t : VTy) (r : Reg) : List Nat := lanesOf t.bits t.lanes (s.vget r)

/-- Element i of V[r]. -/
def State.elem (s : State) (t : VTy) (r : Reg) (i : Nat) : Nat := elemAt (s.vget r).toNat t.bits i

/-- bcast of an x register (R423). -/
def State.bcast (s : State) (t : VTy) (r : Reg) : Nat := (s.rx r).toNat % 2 ^ t.bits

/-- The second operand of lane i. -/
def State.operand (s : State) (t : VTy) (vx : Bool) (b : Reg) (i : Nat) : Nat :=
  if vx then s.bcast t b else s.elem t b i

/-- Active lanes take f's value; the others keep the old one. The flags of the active lanes are joined. -/
def mapLanes (mask : Word) (f : Nat → Nat × Nat) : Nat → List Nat → List Nat × Nat
  | _, [] => ([], 0)
  | i, x :: r =>
    let (ys, fl) := mapLanes mask f (i + 1) r
    if mask.getLsbD i then let (y, g) := f i; (y :: ys, g ||| fl) else (x :: ys, fl)

/-- Write a vector register, the flags, and srseed when the instruction rounds. -/
def State.vput (s : State) (d : Reg) (l : Line) (fl : Nat) (rounds : Bool) : Act Unit :=
  let s := (s.vset d l).orFlags fl
  .ok () (if rounds then s.advanceSeed else s)

/-- Write the active lanes of V[d]. -/
def State.vmap (s : State) (t : VTy) (d : Reg) (rounds : Bool) (f : Nat → Nat × Nat) : Act Unit :=
  let (xs, fl) := mapLanes s.mask f 0 (s.elems t d)
  s.vput d (ofLanes t.bits xs) fl rounds

/-- Active lanes in order. -/
def State.activeLanes (s : State) (t : VTy) : List Nat := (List.range t.lanes).filter (fun i => s.mask.getLsbD i)

/-! ## Memory (R429 to R433) -/

/-- Name the address in a trap. -/
def Act.naming {α : Type} (va : Nat) : Act α → Act α
  | .ok a s => .ok a s
  | .stall s => .stall s
  | .trap c _ s => .trap c (BitVec.ofNat 64 va) s

/-- Would a read of the place meet poison (R230)? -/
def State.seesPoison (s : State) (p : Place) : Bool :=
  match s.me.l1At (l1Key (lineNo p.addr) p.home) with
  | some l => l.poison
  | none => s.poisoned p.addr

/-- Check elements of `n` bytes in ascending order before any is accessed: the lowest failing element is named, with its
first cause. `seen` are the elements already checked. -/
def State.checkElems (s : State) (acc : Access) (n : Nat) (seen : List (Nat × List Place)) :
    List Nat → Act (List (Nat × List Place))
  | [] => .ok seen.reverse s
  | a :: r =>
    let one := if acc = .load && s.excluded a n then .trap 25 (BitVec.ofNat 64 a) s
      else (s.resolveRanked acc (linePieces a n (n + 1))).naming a
    match one with
    | .ok ps s => s.checkElems acc n ((a, ps) :: seen) r
    | .stall s => .stall s
    | .trap c v s =>
      match (if acc = .load then seen.reverse.find? (fun e => e.2.any s.seesPoison) else none) with
      | some e => .trap 29 (BitVec.ofNat 64 e.1) s
      | none => .trap c v s

/-- The pieces of an element with their places. -/
def elemPieces (n : Nat) (e : Nat × List Place) : List ((Nat × Nat) × Place) := (linePieces e.1 n (n + 1)).zip e.2

/-- The span that the elements need of each line, in the order of first touch: (stval, address of its first byte, length,
place). -/
structure Span where
  tval : Nat
  va : Nat
  len : Nat
  place : Place

def addSpan (tval : Nat) (x : (Nat × Nat) × Place) : List Span → List Span
  | [] => [{ tval := tval, va := x.1.1, len := x.1.2, place := x.2 }]
  | sp :: r =>
    if sp.va / 64 = x.1.1 / 64 then
      let lo := min sp.va x.1.1
      let hi := max (sp.va + sp.len) (x.1.1 + x.1.2)
      { sp with va := lo, len := hi - lo, place := { sp.place with addr := sp.place.addr / 64 * 64 + lo % 64 } } :: r
    else sp :: addSpan tval x r

def spansOf (n : Nat) (es : List (Nat × List Place)) : List Span :=
  es.foldl (fun acc e => (elemPieces n e).foldl (fun acc x => addSpan e.1 x acc) acc) []

/-- A byte of the spans read. -/
def spanByte (r : List (Span × Nat)) (va : Nat) : Byte :=
  match r.find? (fun x => decide (x.1.va ≤ va) && decide (va < x.1.va + x.1.len)) with
  | some x => BitVec.ofNat 8 (natBits x.2 (8 * (va - x.1.va)) 8)
  | none => 0

/-- Elements of `n` bytes at addresses, each line read once (VLD, VLDS). -/
def State.loadLines (s : State) (n : Nat) (addrs : List Nat) : Act (List Nat) :=
  (s.checkElems .load n [] addrs).andThen fun es s =>
    let sp := spansOf n es
    (s.loadPlaces (sp.map (fun x => (x.tval, x.len))) (sp.map (·.place))).andThen fun vs s =>
      let r := sp.zip vs
      .ok (addrs.map (fun a => ofBytes ((List.range n).map (fun k => spanByte r ((a + k) % 2 ^ 64))))) s

/-- One access for each element, `k` the first one's number (VGATH). -/
def State.loadEach (s : State) (n k : Nat) : List (Nat × List Place) → Act (List Nat)
  | [] => .ok [] s
  | e :: r =>
    let ps := linePieces e.1 n (n + 1)
    (s.loadPlacesAt (2 ^ 84 * (k + 1)) (ps.map (fun x => (e.1, x.2))) e.2).andThen fun vs s =>
      (s.loadEach n (k + 1) r).andThen fun rest s => .ok (ofBytes (partBytes ps vs) :: rest) s

def State.gatherElems (s : State) (n : Nat) (addrs : List Nat) : Act (List Nat) :=
  (s.checkElems .load n [] addrs).andThen fun es s => s.loadEach n 0 es

/-- Put loaded values into the active lanes of V[d]. -/
def State.putLoaded (s : State) (t : VTy) (d : Reg) (act : List Nat) (vs : List Nat) (e : Word) : Act Unit :=
  let f (i : Nat) : Nat × Nat := (((act.zip vs).find? (fun x => x.1 == i)).elim 0 (·.2), 0)
  ((s.record 3 3 e).vmap t d false f)

/-- Store entries of the pieces of one element. -/
def pieceEntries (asid n : Nat) (e : Nat × List Place) (v : Nat) : List SbEntry :=
  byteEntries asid (linePieces e.1 n (n + 1)) e.2 (bytesOf n v)

/-- Merge an entry into the entry of its line, the later element standing. -/
def mergeEntry (x : SbEntry) : List SbEntry → List SbEntry
  | [] => [x]
  | y :: r =>
    if lineNo y.place.addr = lineNo x.place.addr then
      { y with mask := y.mask ||| x.mask, data := lineMerge x.mask y.data x.data } :: r
    else y :: mergeEntry x r

/-- Stores of elements: one entry a line (VST, VSTS), or one an access (VSCAT). -/
def State.storeElems (s : State) (n : Nat) (perLine : Bool) (items : List (Nat × Nat)) (e : Word) : Act Unit :=
  (s.enterStores (fun s => (s.checkElems .store n [] (items.map (·.1))).andThen fun es s =>
    let all := (es.zip items).flatMap (fun x => pieceEntries (s.view s.cur false).asid n x.1 x.2.2)
    .ok (if perLine then all.foldl (fun acc x => mergeEntry x acc) [] else all) s)).andThen fun _ s => .ok () (s.record 3 4 e)

/-- An address modulo 2^64. -/
def wrapAddr (v : Int) : Nat := intToNat 64 v

/-- Addresses of lanes at a stride. -/
def strided (e : Word) (stride : Int) (lanes : List Nat) : List Nat :=
  lanes.map (fun (i : Nat) => wrapAddr (e.toNat + (i : Int) * stride))

/-- Addresses of indexed lanes (R432). -/
def State.indexed (s : State) (t : VTy) (e : Word) (b : Reg) (lanes : List Nat) : List Nat :=
  lanes.map (fun i => wrapAddr (e.toNat + natToInt t.bits (s.elem t b i) * t.bytes))

/-- A load of lanes at a stride. -/
def loadStrided (t : VTy) (d : Reg) (e : Word) (stride : Int) (s : State) : Act Unit :=
  let act := s.activeLanes t
  (s.loadLines t.bytes (strided e stride act)).andThen fun vs s => s.putLoaded t d act vs e

/-- A store of lanes at a stride. -/
def storeStrided (t : VTy) (b : Reg) (e : Word) (stride : Int) (s : State) : Act Unit :=
  let act := s.activeLanes t
  s.storeElems t.bytes true ((strided e stride act).zip (act.map (s.elem t b))) e

def loadIndexed (t : VTy) (d b : Reg) (e : Word) (s : State) : Act Unit :=
  let act := s.activeLanes t
  (s.gatherElems t.bytes (s.indexed t e b act)).andThen fun vs s => s.putLoaded t d act vs e

def storeIndexed (t : VTy) (d b : Reg) (e : Word) (s : State) : Act Unit :=
  let act := s.activeLanes t
  s.storeElems t.bytes false ((s.indexed t e b act).zip (act.map (s.elem t d))) e

def execVld (t : VTy) (d a : Reg) (s : State) : Result :=
  Issue.run { xs := [a], vs := [d], masked := true, body := fun s => loadStrided t d (s.rx a) t.bytes s } s

def execVldOff (t : VTy) (d a : Reg) (off : BitVec 21) (s : State) : Result :=
  Issue.run { xs := [a], vs := [d], masked := true, body := fun s => loadStrided t d (s.ea a off) t.bytes s } s

def execVst (t : VTy) (b a : Reg) (s : State) : Result :=
  Issue.run { xs := [a], vs := [b], masked := true, body := fun s => storeStrided t b (s.rx a) t.bytes s } s

def execVstOff (t : VTy) (b a : Reg) (off : BitVec 21) (s : State) : Result :=
  Issue.run { xs := [a], vs := [b], masked := true, body := fun s => storeStrided t b (s.ea a off) t.bytes s } s

def execVlds (t : VTy) (d a c : Reg) (off : BitVec 21) (s : State) : Result :=
  Issue.run { xs := [a, c], vs := [d], masked := true,
              body := fun s => loadStrided t d (s.ea a off) (s.rx c).toInt s } s

def execVsts (t : VTy) (b a c : Reg) (off : BitVec 21) (s : State) : Result :=
  Issue.run { xs := [a, c], vs := [b], masked := true,
              body := fun s => storeStrided t b (s.ea a off) (s.rx c).toInt s } s

def execVgath (t : VTy) (d a b : Reg) (s : State) : Result :=
  Issue.run { xs := [a], vs := [d, b], masked := true, body := fun s => loadIndexed t d b (s.rx a) s } s

def execVgathOff (t : VTy) (d a b : Reg) (off : BitVec 21) (s : State) : Result :=
  Issue.run { xs := [a], vs := [d, b], masked := true, body := fun s => loadIndexed t d b (s.ea a off) s } s

def execVscat (t : VTy) (d a b : Reg) (s : State) : Result :=
  Issue.run { xs := [a], vs := [d, b], masked := true, body := fun s => storeIndexed t d b (s.rx a) s } s

def execVscatOff (t : VTy) (d a b : Reg) (off : BitVec 21) (s : State) : Result :=
  Issue.run { xs := [a], vs := [d, b], masked := true, body := fun s => storeIndexed t d b (s.ea a off) s } s

/-! ## Moves (R434) -/

def vbcastI (t : VTy) (d a : Reg) : Issue :=
  { xs := [a], vs := [d], masked := true, wv := [d], body := fun s => s.vmap t d false (fun _ => (s.bcast t a, 0)) }
def execVbcast (t : VTy) (d a : Reg) (s : State) : Result := (vbcastI t d a).run s

/-- An element as an x register's value: integers sign-extended, floats zero-extended. -/
def elemWord (t : VTy) (v : Nat) : Word :=
  if t.isInt then BitVec.ofInt 64 (natToInt t.bits v) else BitVec.ofNat 64 v

def vmvxI (t : VTy) (d a : Reg) (lane : Nat) : Issue :=
  { xs := [d], vs := [a], wx := [d], body := fun s => .ok () (s.wx d (elemWord t (s.elem t a lane))) }
def execVmvx (t : VTy) (d a : Reg) (s : State) : Result := (vmvxI t d a 0).run s
def execVmvxLane (t : VTy) (d a : Reg) (lane : BitVec 6) (s : State) : Result := (vmvxI t d a lane.toNat).run s

def vmvvI (t : VTy) (d a : Reg) : Issue :=
  { vs := [d, a], masked := true, wv := [d], body := fun s => s.vmap t d false (fun i => (s.elem t a i, 0)) }
def execVmvv (t : VTy) (d a : Reg) (s : State) : Result := (vmvvI t d a).run s

/-! ## Arithmetic and logic (R435, R436) -/

/-- An operation on one lane: rounding, x, y and the old destination to the new element and its flags. -/
abbrev LaneOp := Rounding → Nat → Nat → Nat → Nat × Nat

/-- lanewise (R435) with two operands. -/
def lanewise (op : LaneOp) (rounds : Bool) (t : VTy) (d a b : Reg) (vx : Bool) : Issue :=
  { xs := if vx then [b] else [], vs := [d, a] ++ (if vx then [] else [b]), masked := true, wv := [d],
    body := fun s =>
      s.vmap t d rounds (fun i => op (s.sampled.at_ i) (s.elem t a i) (s.operand t vx b i) (s.elem t d i)) }

/-- lanewise with one operand. -/
def lanewise1 (op : Rounding → Nat → Nat × Nat) (rounds : Bool) (t : VTy) (d a : Reg) : Issue :=
  { vs := [d, a], masked := true, wv := [d],
    body := fun s => s.vmap t d rounds (fun i => op (s.sampled.at_ i) (s.elem t a i)) }

/-- Round an exact value to the type. -/
def roundElem (t : VTy) (r : Rounding) (x : Num × Nat) : Nat × Nat :=
  let (c, g) := (fmtOf t).pack r x.1
  (c, x.2 ||| g)

/-- An integer result, wrapped. -/
def wrapInt (t : VTy) (v : Int) : Nat × Nat := (intToNat t.bits v, 0)

def sI (t : VTy) (v : Nat) : Int := natToInt t.bits v

def opAdd (t : VTy) : LaneOp := fun r x y _ =>
  if t.isInt then wrapInt t (sI t x + sI t y)
  else roundElem t r (((fmtOf t).unpack x).add r.rm ((fmtOf t).unpack y))

def opSub (t : VTy) : LaneOp := fun r x y _ =>
  if t.isInt then wrapInt t (sI t x - sI t y)
  else roundElem t r (((fmtOf t).unpack x).add r.rm ((fmtOf t).unpack y).neg)

def opMul (t : VTy) : LaneOp := fun r x y _ =>
  if t.isInt then wrapInt t (sI t x * sI t y)
  else roundElem t r (((fmtOf t).unpack x).mul ((fmtOf t).unpack y))

def opFma (t : VTy) : LaneOp := fun r x y o =>
  if t.isInt then wrapInt t (sI t x * sI t y + sI t o)
  else roundElem t r (Num.fma r.rm ((fmtOf t).unpack x) ((fmtOf t).unpack y) ((fmtOf t).unpack o))

def opFms (t : VTy) : LaneOp := fun r x y o =>
  if t.isInt then wrapInt t (sI t x * sI t y - sI t o)
  else roundElem t r (Num.fma r.rm ((fmtOf t).unpack x) ((fmtOf t).unpack y) ((fmtOf t).unpack o).neg)

/-- Is x before y in the order of R436: −0 below +0? Neither is a NaN. -/
def numLess (x y : Num) : Bool :=
  match x.cmp y with
  | some c => if c = 0 then x.negative && !y.negative else decide (c < 0)
  | none => false

/-- The lesser or greater of two float elements (R436). -/
def pickFloat (f : Fmt) (greater : Bool) (x y : Nat) : Nat × Nat :=
  let a := f.unpack x
  let b := f.unpack y
  if a.isNaN || b.isNaN then (f.canonNaN, nvIf (a.signalling || b.signalling))
  else (if numLess a b != greater then x else y, 0)

/-- The lesser or greater of two elements. -/
def pickElem (t : VTy) (greater : Bool) (x y : Nat) : Nat × Nat :=
  if t.isInt then (if decide (sI t x < sI t y) != greater then x else y, 0) else pickFloat (fmtOf t) greater x y

def opMin (t : VTy) : LaneOp := fun _ x y _ => pickElem t false x y
def opMax (t : VTy) : LaneOp := fun _ x y _ => pickElem t true x y

/-- The sign of a float element cleared or inverted; a NaN gives the canonical NaN (R436). -/
def signElem (t : VTy) (x : Nat) (f : Nat → Nat) : Nat × Nat :=
  let v := (fmtOf t).unpack x
  if v.isNaN then ((fmtOf t).canonNaN, nvIf v.signalling) else (f x, 0)

def opAbs (t : VTy) : Rounding → Nat → Nat × Nat := fun _ x =>
  if t.isInt then wrapInt t (sI t x).natAbs else signElem t x (fun x => x % 2 ^ (t.bits - 1))

def opNeg (t : VTy) : Rounding → Nat → Nat × Nat := fun _ x =>
  if t.isInt then wrapInt t (-(sI t x)) else signElem t x (fun x => x ^^^ 2 ^ (t.bits - 1))

def opAnd : LaneOp := fun _ x y _ => (x &&& y, 0)
def opOr : LaneOp := fun _ x y _ => (x ||| y, 0)
def opXor : LaneOp := fun _ x y _ => (x ^^^ y, 0)
def opSll (t : VTy) : LaneOp := fun _ x y _ => (x * 2 ^ (y % t.bits) % 2 ^ t.bits, 0)
def opSrl (t : VTy) : LaneOp := fun _ x y _ => (x / 2 ^ (y % t.bits), 0)
def opSra (t : VTy) : LaneOp := fun _ x y _ => wrapInt t (sI t x / 2 ^ (y % t.bits))

/-- Arithmetic counts one for each active lane (R132). -/
def arithmetic (t : VTy) (i : Issue) : Issue :=
  let count (s : State) : State :=
    let n := (s.activeLanes t).length
    s.tally s.me.task (fun k => { k with flops := k.flops + n })
  { i with body := fun s => (i.body s).andThen fun _ s => .ok () (count s) }

def vaddI (t : VTy) (d a b : Reg) (vx : Bool) : Issue := arithmetic t (lanewise (opAdd t) (!t.isInt) t d a b vx)
def vsubI (t : VTy) (d a b : Reg) (vx : Bool) : Issue := arithmetic t (lanewise (opSub t) (!t.isInt) t d a b vx)
def vmulI (t : VTy) (d a b : Reg) (vx : Bool) : Issue := arithmetic t (lanewise (opMul t) (!t.isInt) t d a b vx)
def vfmaI (t : VTy) (d a b : Reg) (vx : Bool) : Issue := arithmetic t (lanewise (opFma t) (!t.isInt) t d a b vx)
def vfmsI (t : VTy) (d a b : Reg) (vx : Bool) : Issue := arithmetic t (lanewise (opFms t) (!t.isInt) t d a b vx)
def vminI (t : VTy) (d a b : Reg) (vx : Bool) : Issue := arithmetic t (lanewise (opMin t) false t d a b vx)
def vmaxI (t : VTy) (d a b : Reg) (vx : Bool) : Issue := arithmetic t (lanewise (opMax t) false t d a b vx)
def vandI (t : VTy) (d a b : Reg) (vx : Bool) : Issue := lanewise opAnd false t d a b vx
def vorI (t : VTy) (d a b : Reg) (vx : Bool) : Issue := lanewise opOr false t d a b vx
def vxorI (t : VTy) (d a b : Reg) (vx : Bool) : Issue := lanewise opXor false t d a b vx
def vsllI (t : VTy) (d a b : Reg) (vx : Bool) : Issue := lanewise (opSll t) false t d a b vx
def vsrlI (t : VTy) (d a b : Reg) (vx : Bool) : Issue := lanewise (opSrl t) false t d a b vx
def vsraI (t : VTy) (d a b : Reg) (vx : Bool) : Issue := lanewise (opSra t) false t d a b vx
def vabsI (t : VTy) (d a : Reg) : Issue := arithmetic t (lanewise1 (opAbs t) false t d a)
def vnegI (t : VTy) (d a : Reg) : Issue := arithmetic t (lanewise1 (opNeg t) false t d a)

def execVadd (t : VTy) (d a b : Reg) (s : State) : Result := (vaddI t d a b false).run s
def execVaddVx (t : VTy) (d a b : Reg) (s : State) : Result := (vaddI t d a b true).run s
def execVsub (t : VTy) (d a b : Reg) (s : State) : Result := (vsubI t d a b false).run s
def execVsubVx (t : VTy) (d a b : Reg) (s : State) : Result := (vsubI t d a b true).run s
def execVmul (t : VTy) (d a b : Reg) (s : State) : Result := (vmulI t d a b false).run s
def execVmulVx (t : VTy) (d a b : Reg) (s : State) : Result := (vmulI t d a b true).run s
def execVfma (t : VTy) (d a b : Reg) (s : State) : Result := (vfmaI t d a b false).run s
def execVfmaVx (t : VTy) (d a b : Reg) (s : State) : Result := (vfmaI t d a b true).run s
def execVfms (t : VTy) (d a b : Reg) (s : State) : Result := (vfmsI t d a b false).run s
def execVfmsVx (t : VTy) (d a b : Reg) (s : State) : Result := (vfmsI t d a b true).run s
def execVmin (t : VTy) (d a b : Reg) (s : State) : Result := (vminI t d a b false).run s
def execVminVx (t : VTy) (d a b : Reg) (s : State) : Result := (vminI t d a b true).run s
def execVmax (t : VTy) (d a b : Reg) (s : State) : Result := (vmaxI t d a b false).run s
def execVmaxVx (t : VTy) (d a b : Reg) (s : State) : Result := (vmaxI t d a b true).run s
def execVabs (t : VTy) (d a : Reg) (s : State) : Result := (vabsI t d a).run s
def execVneg (t : VTy) (d a : Reg) (s : State) : Result := (vnegI t d a).run s
def execVand (t : VTy) (d a b : Reg) (s : State) : Result := (vandI t d a b false).run s
def execVandVx (t : VTy) (d a b : Reg) (s : State) : Result := (vandI t d a b true).run s
def execVor (t : VTy) (d a b : Reg) (s : State) : Result := (vorI t d a b false).run s
def execVorVx (t : VTy) (d a b : Reg) (s : State) : Result := (vorI t d a b true).run s
def execVxor (t : VTy) (d a b : Reg) (s : State) : Result := (vxorI t d a b false).run s
def execVxorVx (t : VTy) (d a b : Reg) (s : State) : Result := (vxorI t d a b true).run s
def execVsll (t : VTy) (d a b : Reg) (s : State) : Result := (vsllI t d a b false).run s
def execVsllVx (t : VTy) (d a b : Reg) (s : State) : Result := (vsllI t d a b true).run s
def execVsrl (t : VTy) (d a b : Reg) (s : State) : Result := (vsrlI t d a b false).run s
def execVsrlVx (t : VTy) (d a b : Reg) (s : State) : Result := (vsrlI t d a b true).run s
def execVsra (t : VTy) (d a b : Reg) (s : State) : Result := (vsraI t d a b false).run s
def execVsraVx (t : VTy) (d a b : Reg) (s : State) : Result := (vsraI t d a b true).run s

/-! ## Masks, compare and select (R437, R438, R450) -/

/-- Write K[d]; a write of the active mask register is a trace event (R185, kind 2). A write to k0 is discarded. -/
def State.kput (s : State) (d : Reg) (v : Word) : State :=
  if d = 0 then s
  else
    let s := s.modMe (·.wk d.toNat v)
    if d.toNat = s.me.maskNo then s.record 2 2 v else s

/-- A compare of two elements: the truth, and the flags. -/
def compareElems (t : VTy) (cond : Nat) (x y : Nat) : Bool × Nat :=
  if t.isInt then
    let a := sI t x
    let b := sI t y
    (match cond with
     | 0 => x == y
     | 1 => x != y
     | 2 => decide (a < b)
     | 3 => decide (a ≤ b)
     | 4 => decide (b < a)
     | 5 => decide (b ≤ a)
     | 6 => decide (x < y)
     | _ => decide (y ≤ x), 0)
  else
    let a := (fmtOf t).unpack x
    let b := (fmtOf t).unpack y
    let sig := a.signalling || b.signalling
    match a.cmp b with
    | none => (cond == 1 || cond == 6, nvIf (sig || (decide (2 ≤ cond) && decide (cond ≤ 5))))
    | some c =>
      (match cond with
       | 0 => c == 0
       | 1 => c != 0
       | 2 => decide (c < 0)
       | 3 => decide (c ≤ 0)
       | 4 => decide (0 < c)
       | 5 => decide (0 ≤ c)
       | 6 => false
       | _ => true, 0)

def vcmpI (t : VTy) (vx : Bool) (d a b : Reg) (cond : BitVec 5) : Issue :=
  { xs := if vx then [b] else [], vs := a :: (if vx then [] else [b]), ks := [d], masked := true, wk := [d],
    body := fun s =>
      let r := (s.activeLanes t).map (fun i => (i, compareElems t cond.toNat (s.elem t a i) (s.operand t vx b i)))
      let m := r.foldl (fun m x => if x.2.1 then m + 2 ^ x.1 else m) 0
      let fl := r.foldl (fun f x => f ||| x.2.2) 0
      .ok () ((s.kput d (BitVec.ofNat 64 m)).orFlags fl) }
def execVcmp (t : VTy) (vx : Bool) (d a b : Reg) (cond : BitVec 5) (s : State) : Result := (vcmpI t vx d a b cond).run s

def vselI (t : VTy) (d a b : Reg) (vx : Bool) : Issue :=
  { xs := if vx then [b] else [], vs := [d, a] ++ (if vx then [] else [b]), masked := true, wv := [d],
    body := fun s =>
      s.vput d (ofLanes t.bits ((List.range t.lanes).map (fun i =>
        if s.mask.getLsbD i then s.elem t a i else s.operand t vx b i))) 0 false }
def execVsel (t : VTy) (d a b : Reg) (s : State) : Result := (vselI t d a b false).run s
def execVselVx (t : VTy) (d a b : Reg) (s : State) : Result := (vselI t d a b true).run s

def vmaskI (a : Reg) : Issue :=
  { ks := [a],
    body := fun s =>
      let s := s.modMe (fun h => { h with dev := { h.dev with vactm := BitVec.ofNat 64 (a.toNat % 8) } })
      .ok () (s.record 2 2 s.mask) }
def execVmask (a : Reg) (s : State) : Result := (vmaskI a).run s

/-- A mask instruction. -/
def maskI (d : Reg) (srcs : List Reg) (f : State → Word) : Issue :=
  { ks := d :: srcs, wk := [d], body := fun s => .ok () (s.kput d (f s)) }

def State.rk (s : State) (r : Reg) : Word := s.me.rk r.toNat

def kandI (d a b : Reg) : Issue := maskI d [a, b] (fun s => s.rk a &&& s.rk b)
def korI (d a b : Reg) : Issue := maskI d [a, b] (fun s => s.rk a ||| s.rk b)
def knotI (d a : Reg) : Issue := maskI d [a] (fun s => ~~~(s.rk a))
def kmvToI (d a : Reg) : Issue := { maskI d [] (fun s => s.rx a) with xs := [a] }
def kmvFromI (d a : Reg) : Issue := { xs := [d], ks := [a], wx := [d], body := fun s => .ok () (s.wx d (s.rk a)) }

def execKand (d a b : Reg) (s : State) : Result := (kandI d a b).run s
def execKor (d a b : Reg) (s : State) : Result := (korI d a b).run s
def execKnot (d a : Reg) (s : State) : Result := (knotI d a).run s
def execKmvToMask (d a : Reg) (s : State) : Result := (kmvToI d a).run s
def execKmvFromMask (d a : Reg) (s : State) : Result := (kmvFromI d a).run s

/-! ## Conversions, scaling, quantisation (R439 to R442) -/

/-- The destination format: the type, or for code 111 the narrow format `n`. -/
def cvtDst (t : VTy) (n : Nat) : Fmt :=
  if t = .fp8 then (match n with | 0 => .e4m3 | 1 => .e5m2 | 2 => .e2m1 | _ => .int4) else fmtOf t

/-- cvt of one element (R298, R440). -/
def cvtElem (r : Rounding) (src dst : Fmt) (code : Nat) : Nat × Nat := dst.pack r (src.unpack code)

/-- VCVT (R440): the elements of the destination register, active ones of the part replaced. -/
def cvtLanes (m : Sampled) (mask : Word) (src dst : Fmt) (p : Nat) (a old : Line) : List Nat × Nat :=
  let nd := 512 / dst.bits
  let ns := 512 / src.bits
  let olds := lanesOf dst.bits nd old
  if src.bits ≤ dst.bits then
    mapLanes mask (fun i => cvtElem (m.at_ i) src dst (elemAt a.toNat src.bits (p * nd + i))) 0 olds
  else
    let part := (olds.drop (p * ns)).take ns
    let (ys, fl) :=
      mapLanes mask (fun i => cvtElem (m.at_ (p * ns + i)) src dst (elemAt a.toNat src.bits i)) 0 part
    (olds.take (p * ns) ++ ys ++ olds.drop (p * ns + ns), fl)

def vcvtI (src dst : Fmt) (p : Nat) (d a : Reg) : Issue :=
  { vs := [d, a], masked := true, wv := [d],
    body := fun s =>
      let (xs, fl) := cvtLanes s.sampled s.mask src dst p (s.vget a) (s.vget d)
      s.vput d (ofLanes dst.bits xs) fl true }

/-- The issue of a C32 VCVT, `b` holding the source and the part or the narrow format. -/
def vcvtC32 (t : VTy) (d a : Reg) (b : BitVec 5) : Issue :=
  let n := b.toNat / 16
  vcvtI ((Fmt.ofCode (b.toNat % 16)).getD .i8) (cvtDst t n) (if t = .fp8 then 0 else n) d a

def vcvtW64I (t : VTy) (sz : BitVec 2) (d a : Reg) (src : BitVec 4) (p : BitVec 3) : Issue :=
  vcvtI ((Fmt.ofCode src.toNat).getD .i8) (cvtDst t sz.toNat) p.toNat d a

def execVcvt (t : VTy) (d a : Reg) (b : BitVec 5) (s : State) : Result := (vcvtC32 t d a b).run s
def execVcvtW64 (t : VTy) (sz : BitVec 2) (d a : Reg) (src : BitVec 4) (p : BitVec 3) (s : State) : Result :=
  (vcvtW64I t sz d a src p).run s

/-- x × 2^(s − 127), rounded (R441). -/
def scaleElem (f : Fmt) (r : Rounding) (code s : Nat) : Nat × Nat :=
  if s = 0xFF then (f.canonNaN, flNV)
  else
    f.pack r (match f.unpack code with
      | .fin n m e => .fin n m (e + ((s : Int) - 127))
      | v => v)

def vsclI (t : VTy) (e5 : Bool) (d a b : Reg) (vx : Bool) : Issue :=
  lanewise (fun r x y _ => scaleElem (if e5 then .e5m2 else fmtOf t) r x (y % 256)) true t d a b vx
def execVscl (t : VTy) (e5 : Bool) (d a b : Reg) (s : State) : Result := (vsclI t e5 d a b false).run s
def execVsclVx (t : VTy) (e5 : Bool) (d a b : Reg) (s : State) : Result := (vsclI t e5 d a b true).run s

/-- The greatest magnitude of values; a NaN among them wins. -/
def maxMagnitude (vs : List Num) : Num :=
  vs.foldl (fun m v =>
    let a := match v with
      | .nan s => Num.nan s
      | .inf _ => .inf false
      | .fin _ k e => .fin false k e
    if m.isNaN then m else if a.isNaN then a else if numLess m a then a else m) (.fin false 0 0)

/-- An element of a block under its scale code (R305): where the maximum is 0 every element is a zero of its own sign. -/
def blockElem (f : Fmt) (r : Rounding) (amax : Num) (code x : Nat) : Nat × Nat :=
  if amax.isZero then (if natBit x 31 then 2 ^ (f.bits - 1) else 0, 0) else quantise f r code (Fmt.f32.unpack x)

def vqntI (fmt : BitVec 2) (amx : Bool) (p : BitVec 2) (d a b c : Reg) : Issue :=
  { xs := [c], vs := [d, a, b], masked := true, wx := [c], wv := [d],
    body := fun s =>
      let f := cvtDst .fp8 fmt.toNat
      let xs := lanesOf 32 16 (s.vget a) ++ lanesOf 32 16 (s.vget b)
      let act := (xs.zipIdx.filter (fun x => s.mask.getLsbD x.2)).map (fun x => Fmt.f32.unpack x.1)
      let amax := if amx then maxMagnitude [Fmt.f32.unpack ((s.rx c).toNat % 2 ^ 32)] else maxMagnitude act
      let (code, nv) := scaleCode f amax
      let nd := 512 / f.bits
      let olds := lanesOf f.bits nd (s.vget d)
      let lo := 32 * p.toNat
      let (ys, fl) :=
        mapLanes s.mask (fun j => blockElem f (s.sampled.at_ (lo + j)) amax code (xs.getD j 0)) 0 ((olds.drop lo).take 32)
      let s := s.wx c (BitVec.ofNat 64 code)
      s.vput d (ofLanes f.bits (olds.take lo ++ ys ++ olds.drop (lo + 32))) (fl ||| nv) true }
def execVqnt (fmt : BitVec 2) (amax : Bool) (p : BitVec 2) (d a b c : Reg) (s : State) : Result :=
  (vqntI fmt amax p d a b c).run s

/-! ## Reductions (R304, R443, R444) -/

/-- A node of the tree: an absent input passes the other one on unrounded. -/
def sumNode (r : Rounding) (x y : Option Nat) : Option Nat × Nat :=
  match x, y with
  | some a, some b =>
    let (v, f) := (Fmt.f32.unpack a).add r.rm (Fmt.f32.unpack b)
    let (c, g) := Fmt.f32.pack r v
    (some c, f ||| g)
  | some a, none => (some a, 0)
  | none, y => (y, 0)

/-- One level of the tree; node n of the level rounds with e = base + n. -/
def sumLevel (m : Sampled) (base : Nat) : Nat → List (Option Nat) → List (Option Nat) × Nat
  | n, x :: y :: r =>
    let (z, f) := sumNode (m.at_ (base + n)) x y
    let (zs, g) := sumLevel m base (n + 1) r
    (z :: zs, f ||| g)
  | _, _ => ([], 0)

/-- A NaN passed on is the canonical NaN, with NV when it was signalling (R304). -/
def canonPass (x : Option Nat) : Option Nat × Nat :=
  match x with
  | some c =>
    let v := Fmt.f32.unpack c
    if v.isNaN then (some Fmt.f32.canonNaN, nvIf v.signalling) else (some c, 0)
  | none => (none, 0)

/-- The tree of R304 over sixteen lanes: the sum, +0 when every lane is absent, and the flags. -/
def treeSum (m : Sampled) (l : List (Option Nat)) : Nat × Nat :=
  let (a, f1) := sumLevel m 64 0 l
  let (b, f2) := sumLevel m 128 0 a
  let (c, f3) := sumLevel m 192 0 b
  let (d, f4) := sumLevel m 256 0 c
  let (x, f5) := canonPass (d.headD none)
  (x.getD 0, f1 ||| f2 ||| f3 ||| f4 ||| f5)

/-- Active lanes as present values. -/
def State.present (s : State) (t : VTy) (r : Reg) : List (Option Nat) :=
  (List.range t.lanes).map (fun i => if s.mask.getLsbD i then some (s.elem t r i) else none)

/-- Widen a present lane exactly to FP32. -/
def widen32 (f : Fmt) (x : Option Nat) : Option Nat × Nat :=
  match x with
  | some c => let (v, g) := Fmt.f32.pack { rm := 0, sat := false } (f.unpack c); (some v, g)
  | none => (none, 0)

/-- Join the flags of a list. -/
def joinFlags {α : Type} (l : List (α × Nat)) : List α × Nat := (l.map (·.1), l.foldl (fun f x => f ||| x.2) 0)

/-- VRSUM of float lanes. -/
def floatSum (m : Sampled) (f : Fmt) (l : List (Option Nat)) : Nat × Nat :=
  if f = .f32 then treeSum m l
  else
    let (w, g0) := joinFlags (l.map (widen32 f))
    let (p, g1) := sumLevel m 0 0 w
    let (x, g2) := treeSum m p
    let (c, g3) := f.pack (m.at_ 320) (Fmt.f32.unpack x)
    (c, g0 ||| g1 ||| g2 ||| g3)

/-- The signed sum of integer lanes. -/
def intSum (t : VTy) (l : List (Option Nat)) : Int := l.foldl (fun a x => a + (x.elim 0 (sI t))) 0

/-- Write lane 0 and clear the others. -/
def reduceI (t : VTy) (d a : Reg) (rounds : Bool) (f : State → Nat × Nat) : Issue :=
  { vs := [d, a], masked := true, wv := [d],
    body := fun s => let (x, fl) := f s; s.vput d (ofLanes t.bits [x]) fl rounds }

def vrsumI (t : VTy) (d a : Reg) : Issue :=
  reduceI t d a (!t.isInt) (fun s =>
    if t.isInt then (intToNat t.bits (intSum t (s.present t a)), 0) else floatSum s.sampled (fmtOf t) (s.present t a))

/-- The element that VRMAX or VRMIN gives with no active lane. -/
def emptyExtreme (t : VTy) (greater : Bool) : Nat :=
  if t.isInt then (if greater then 2 ^ (t.bits - 1) else 2 ^ (t.bits - 1) - 1)
  else (if greater then 2 ^ (t.bits - 1) else 0) + (fmtOf t).infinity

/-- VRMAX and VRMIN: a NaN anywhere gives the canonical NaN. -/
def extreme (t : VTy) (greater : Bool) (l : List (Option Nat)) : Nat × Nat :=
  match l.filterMap id with
  | [] => (emptyExtreme t greater, 0)
  | x :: r =>
    let f := fmtOf t
    let sig := (x :: r).any (fun c => (f.unpack c).signalling)
    if !t.isInt && (x :: r).any (fun c => (f.unpack c).isNaN) then (f.canonNaN, nvIf sig)
    else (r.foldl (fun m c => (pickElem t greater m c).1) x, 0)

def vrmaxI (t : VTy) (d a : Reg) : Issue := reduceI t d a false (fun s => extreme t true (s.present t a))
def vrminI (t : VTy) (d a : Reg) : Issue := reduceI t d a false (fun s => extreme t false (s.present t a))

def execVrsum (t : VTy) (d a : Reg) (s : State) : Result := (vrsumI t d a).run s
def execVrmax (t : VTy) (d a : Reg) (s : State) : Result := (vrmaxI t d a).run s
def execVrmin (t : VTy) (d a : Reg) (s : State) : Result := (vrminI t d a).run s

/-- The exact product of lane i of two registers, absent when the lane is inactive. -/
def State.product (s : State) (t : VTy) (a b : Reg) (i : Nat) : Option (Num × Nat) :=
  if s.mask.getLsbD i then some (((fmtOf t).unpack (s.elem t a i)).mul ((fmtOf t).unpack (s.elem t b i))) else none

/-- A pair of exact products rounded once to FP32 (R444). -/
def pairProducts (r : Rounding) (x y : Option (Num × Nat)) : Option Nat × Nat :=
  match x, y with
  | some (p, f), some (q, g) =>
    let (v, h) := p.add r.rm q
    let (c, k) := Fmt.f32.pack r v
    (some c, f ||| g ||| h ||| k)
  | some (p, f), none => let (c, k) := Fmt.f32.pack r p; (some c, f ||| k)
  | none, some (q, g) => let (c, k) := Fmt.f32.pack r q; (some c, g ||| k)
  | none, none => (none, 0)

/-- VDOT: the low bits of vd. -/
def dot (t : VTy) (a b : Reg) (s : State) : Nat × Nat :=
  let m := s.sampled
  if t.isInt then
    (intToNat 64 ((s.activeLanes t).foldl (fun acc i => acc + sI t (s.elem t a i) * sI t (s.elem t b i)) 0), 0)
  else
    let leaf (n : Nat) : Option Nat × Nat :=
      if t = .f32 then pairProducts (m.at_ n) (s.product t a b n) none
      else pairProducts (m.at_ n) (s.product t a b (2 * n)) (s.product t a b (2 * n + 1))
    let (l, f) := joinFlags ((List.range 16).map leaf)
    let (x, g) := treeSum m l
    (x, f ||| g)

def vdotI (t : VTy) (d a b : Reg) : Issue :=
  { vs := [d, a, b], masked := true, wv := [d],
    body := fun s => let (x, fl) := dot t a b s; s.vput d (BitVec.ofNat 512 x) fl (!t.isInt) }
def execVdot (t : VTy) (d a b : Reg) (s : State) : Result := (vdotI t d a b).run s

/-! ## Approximations and square root (R445, R446) -/

def approxI (op : ApproxOp) (t : VTy) (d a : Reg) : Issue :=
  lanewise1 (fun r x => approx op (fmtOf t) r x) (t != .f32 || op == .sqrt) t d a

def execVexp2 (t : VTy) (d a : Reg) (s : State) : Result := (approxI .exp2 t d a).run s
def execVlog2 (t : VTy) (d a : Reg) (s : State) : Result := (approxI .log2 t d a).run s
def execVrcp (t : VTy) (d a : Reg) (s : State) : Result := (approxI .rcp t d a).run s
def execVrsqrt (t : VTy) (d a : Reg) (s : State) : Result := (approxI .rsqrt t d a).run s
def execVsqrt (t : VTy) (d a : Reg) (s : State) : Result := (approxI .sqrt t d a).run s

/-! ## Permutations and tests (R447 to R449) -/

def vpermI (t : VTy) (d a b : Reg) : Issue :=
  { vs := [d, a, b], masked := true, wv := [d],
    body := fun s => s.vmap t d false (fun i => (s.elem t a (s.elem t b i % t.lanes), 0)) }
def execVperm (t : VTy) (d a b : Reg) (s : State) : Result := (vpermI t d a b).run s

/-- VSLIDE by a signed amount. -/
def slide (t : VTy) (d a : Reg) (amt : Int) (s : State) : Act Unit :=
  s.vmap t d false (fun i =>
    let j : Int := i - amt
    (if 0 ≤ j ∧ j < t.lanes then s.elem t a j.toNat else 0, 0))

def vslideVxI (t : VTy) (d a b : Reg) : Issue :=
  { xs := [b], vs := [d, a], masked := true, wv := [d], body := fun s => slide t d a (s.rx b).toInt s }
def vslideImmI (t : VTy) (d a : Reg) (amt : BitVec 21) : Issue :=
  { vs := [d, a], masked := true, wv := [d], body := slide t d a amt.toInt }
def execVslideVx (t : VTy) (d a b : Reg) (s : State) : Result := (vslideVxI t d a b).run s
def execVslideI (t : VTy) (d a : Reg) (amt : BitVec 21) (s : State) : Result := (vslideImmI t d a amt).run s

def vcomprI (t : VTy) (d a : Reg) : Issue :=
  { vs := [d, a], masked := true, wv := [d],
    body := fun s => s.vput d (ofLanes t.bits ((s.activeLanes t).map (s.elem t a))) 0 false }
def execVcompr (t : VTy) (d a : Reg) (s : State) : Result := (vcomprI t d a).run s

/-- The number of active lanes below i. -/
def State.rank (s : State) (i : Nat) : Nat := popCountTo s.mask.toNat i

def vexpndI (t : VTy) (d a : Reg) : Issue :=
  { vs := [d, a], masked := true, wv := [d], body := fun s => s.vmap t d false (fun i => (s.elem t a (s.rank i), 0)) }
def execVexpnd (t : VTy) (d a : Reg) (s : State) : Result := (vexpndI t d a).run s

def viotaI (t : VTy) (d : Reg) : Issue :=
  { vs := [d], masked := true, wv := [d], body := fun s => s.vmap t d false (fun i => (s.rank i, 0)) }
def execViota (t : VTy) (d : Reg) (s : State) : Result := (viotaI t d).run s

/-- Is an element zero (R449): for a float type +0 or −0? -/
def zeroElem (t : VTy) (x : Nat) : Bool := if t.isInt then x == 0 else x % 2 ^ (t.bits - 1) == 0

def vztstI (t : VTy) (d a : Reg) : Issue :=
  { xs := [d], vs := [a], masked := true, wx := [d],
    body := fun s => .ok () (s.wx d (if (s.activeLanes t).all (fun i => zeroElem t (s.elem t a i)) then 1 else 0)) }
def execVztst (t : VTy) (d a : Reg) (s : State) : Result := (vztstI t d a).run s

end Sys2Proof.Machine
end

