-- ==== Sys2Proof/Machine/Matrix.lean ====
section
/-! DEFINITION. The matrix engine (19; 09, R194 to R199; 13, R285 to R305): the checks at issue, the arbiter, and what each
request does to the tiles and accumulators of a context when it completes. -/

namespace Sys2Proof.Machine

/-! ## The format word and the microprogram -/

def isMx (f : Fmt) : Bool := f == .e4m3 || f == .e5m2 || f == .e2m1
def isAsymInt (f : Fmt) : Bool := f == .i8 || f == .int4

/-- Formats of operands A and B (R456). -/
def opFmt (w : Word) (b : Bool) : Fmt := (Fmt.ofCode (if b then fld w 4 4 else fld w 0 4).toNat).getD .i8
def opAsym (w : Word) (b : Bool) : Bool := w.getLsbD (if b then 9 else 8)
def groupSize (w : Word) : Nat := 32 * 2 ^ (fld w 10 2).toNat

/-- Assigned codes of AFMT and BFMT. -/
def matFmtOk (c : BitVec 4) : Bool := mztstFmt c

/-- The format words that MFMT accepts (R457). -/
def fmtWordOk (w : Word) : Bool :=
  fld w 16 48 = 0 && fld w 10 2 != 3 && matFmtOk (fld w 0 4) && matFmtOk (fld w 4 4)
    && !(opAsym w false && !isAsymInt (opFmt w false)) && !(opAsym w true && !isAsymInt (opFmt w true))
    && !(opAsym w false && opAsym w true)

/-- Fields of an operation of the microprogram (R459). -/
def uValid (o : BitVec 16) : Bool := o.getLsbD 15
def uOps (w : Word) : List (BitVec 16) := [fld w 0 16, fld w 16 16, fld w 32 16, fld w 48 16]

/-- Does a valid operation hold no reserved value and no unused field that is nonzero? -/
def uOpOk (o : BitVec 16) : Bool :=
  let op := (fld o 0 3).toNat
  fld o 13 2 = 0 && fld o 3 3 != 7 && fld o 6 3 != 7 && fld o 9 3 != 7
    && (op = 7 || fld o 9 3 = 0) && (!(op = 5 || op = 6) || fld o 6 3 = 0)

/-- The microprograms that MUPLD accepts: the operations after the first with V = 0 are zero, and reserved bits and codes of
that one are clear too. -/
def ucodeOk : List (BitVec 16) → Bool
  | [] => true
  | o :: r =>
    if uValid o then uOpOk o && ucodeOk r
    else fld o 13 2 = 0 && fld o 3 3 != 7 && fld o 6 3 != 7 && fld o 9 3 != 7 && r.all (· == 0)

/-! ## Checks of the multiply forms (R458, R461) -/

/-- Bits of the wider operand. -/
def wideBits (w : Word) : Nat := max (opFmt w false).bits (opFmt w true).bits

/-- K of a k in bytes (R460). -/
def elemsOf (w : Word) (k8 : Reg) : Nat := 8 * (k8.toNat + 1) * 8 / wideBits w

/-- Does the request carry scales or records? -/
def scaledWord (w : Word) : Bool := isMx (opFmt w false) || isMx (opFmt w true) || opAsym w false || opAsym w true

/-- The unit of exact summation (R299). -/
def chunkOf (w : Word) : Nat := if opAsym w false || opAsym w true then groupSize w else 32

/-- The pairings of R458. -/
def pairOk (w : Word) : Bool :=
  let a := opFmt w false
  let b := opFmt w true
  let one (x y : Fmt) : Bool := y == .bf16 || y == .f16 || x == y
  if opAsym w false then one a b
  else if opAsym w true then one b a
  else (a.float && b.float) || (isAsymInt a && isAsymInt b)

/-- Does STILE lie in a span? -/
def stileIn (w : Word) (r n : Nat) : Bool :=
  let t := (fld w 12 4).toNat
  decide (r ≤ t) && decide (t < r + n)

/-- The checks of a multiply, `m` and `n` less 1. -/
def mulOk (w : Word) (a b k8 : Reg) (m n : Nat) : Bool :=
  pairOk w
    && (!scaledWord w
      || (elemsOf w k8 % chunkOf w == 0 && !stileIn w a.toNat (blocksOf m) && !stileIn w b.toNat (blocksOf n)))

/-- The checks of MREC (R464). -/
def recOk (w : Word) : Bool :=
  let one (f : Fmt) : Bool := f == .f32 || f == .bf16 || f == .f16
  one (opFmt w false) && one (opFmt w true) && !opAsym w false && !opAsym w true

/-! ## Elements, scales, chunks (R285 to R287, R300) -/

/-- The scale of an operand for one chunk. -/
inductive OpScale
  | one
  | mx (code : Nat)
  | fp16 (n : Num)

/-- One operand row: element values and the scale of each chunk. -/
structure OpRow where
  elems : List Num
  scales : List OpScale

/-- Row `i` of operand A or B of a multiply over K elements; its scales or records are those of row `k`. -/
def State.opRow (s : State) (c : Nat) (w : Word) (isB : Bool) (base K i k : Nat) : OpRow :=
  let f := opFmt w isB
  let row := s.tileRow c (base + i / 128) (i % 128)
  let st := s.tileRow c (fld w 12 4).toNat (k % 128)
  let h := k / 128
  let g := groupSize w
  let record (k : Nat) : Nat := natBits st (8 * (64 * h + 4 * k)) 32
  if opAsym w isB then
    { elems := (List.range K).map (fun k =>
        .ofInt (natToInt f.bits (elemAt row f.bits k) - natToInt f.bits (natBits (record (k / g)) 16 8))),
      scales := (List.range (ceilDiv K g)).map (fun k => .fp16 (Fmt.f16.unpack (natBits (record k) 0 16))) }
  else
    { elems := (List.range K).map (fun k => f.unpack (elemAt row f.bits k)),
      scales :=
        if isMx f then (List.range (ceilDiv K 32)).map (fun j => .mx (natBits st (8 * ((if isB then 32 else 0) + 16 * h + j)) 8))
        else [] }

/-- The exact sum of products, and NV. -/
def dotExact (rm : Nat) (xs ys : List Num) : Num × Nat :=
  (xs.zip ys).foldl (fun (a : Num × Nat) p =>
    let (q, f) := p.1.mul p.2
    let (t, g) := a.1.add rm q
    (t, a.2 ||| f ||| g)) (.fin false 0 0, 0)

def OpScale.bad : OpScale → Bool
  | .mx c => c == 0xFF
  | _ => false

/-- A chunk sum scaled, exactly. -/
def OpScale.apply (x : Num × Nat) : OpScale → Num × Nat
  | .one => x
  | .mx c =>
    match x.1 with
    | .fin n m e => (.fin n m (e + ((c : Int) - 127)), x.2)
    | v => (v, x.2)
  | .fp16 v => let (y, f) := x.1.mul v; (y, x.2 ||| f)

/-- mma_element (R300): the accumulator code and flags. `e0` is row × 2^24 + column × 2^12. -/
def mmaElement (m : Sampled) (chunk e0 : Nat) (a b : OpRow) (acc n : Nat) : Nat × Nat :=
  (List.range n).foldl (fun (x : Nat × Nat) c =>
    let sa := a.scales.getD c .one
    let sb := b.scales.getD c .one
    if sa.bad || sb.bad then (Fmt.f32.canonNaN, x.2 ||| flNV)
    else
      let r := m.at_ (e0 + c)
      let d := dotExact r.rm ((a.elems.drop (chunk * c)).take chunk) ((b.elems.drop (chunk * c)).take chunk)
      let (s, f) := OpScale.apply (OpScale.apply d sa) sb
      let (v, g) := (Fmt.f32.unpack x.1).add r.rm s
      let (z, h) := Fmt.f32.pack r v
      (z, x.2 ||| f ||| g ||| h)) (acc, 0)

/-! ## The microprogram (R459, R464, R472) -/

/-- The operands of a cell step, FP32 codes. -/
structure Cell where
  acc : Nat
  p : Nat := 0
  st : Nat := 0
  t : Nat := 0
  a : Nat := 0
  b : Nat := 0

def Cell.get (c : Cell) (code : BitVec 3) : Nat :=
  match code.toNat with
  | 0 => c.acc | 1 => c.p | 2 => c.st | 3 => c.t | 4 => c.a | 5 => c.b | _ => 0

/-- One operation: its result and flags. -/
def uResult (r : Rounding) (o : BitVec 16) (c : Cell) : Nat × Nat :=
  let x := c.get (fld o 3 3)
  let y := c.get (fld o 6 3)
  let z := c.get (fld o 9 3)
  match (fld o 0 3).toNat with
  | 0 => opAdd .f32 r x y 0
  | 1 => opSub .f32 r x y 0
  | 2 => opMul .f32 r x y 0
  | 3 => opMax .f32 r x y 0
  | 4 => opMin .f32 r x y 0
  | 5 => opNeg .f32 r x
  | 6 => opAbs .f32 r x
  | _ => (if natBit x 31 then z else y, 0)

/-- The valid operations in order; operation u rounds with e = base + u. -/
def runMicro (m : Sampled) (base : Nat) : Nat → List (BitVec 16) → Cell → Nat → Cell × Nat
  | _, [], c, fl => (c, fl)
  | u, o :: os, c, fl =>
    if uValid o then
      let (v, f) := uResult (m.at_ (base + u)) o c
      let c := if o.getLsbD 12 then { c with acc := v } else { c with t := v }
      runMicro m base (u + 1) os c (fl ||| f)
    else (c, fl)

/-- An operand of MREC widened to FP32: the code and NV. -/
def widenCode (f : Fmt) (code : Nat) : Nat × Nat :=
  if f = .f32 then (code, 0) else Fmt.f32.pack { rm := 0, sat := false } (f.unpack code)

/-- The cell steps of one element of MREC. -/
def recElement (m : Sampled) (ops : List (BitVec 16)) (st e0 : Nat) (xs ys : List (Nat × Nat)) (acc : Nat) : Nat × Nat :=
  (xs.zip ys).zipIdx.foldl (fun (x : Nat × Nat) k =>
    let (a, f) := k.1.1
    let (b, g) := k.1.2
    let e := e0 + 5 * k.2
    let (p, h) := opMul .f32 (m.at_ e) a b 0
    let (c, fl) := runMicro m (e + 1) 0 ops { acc := x.1, p := p, st := st, a := a, b := b } (x.2 ||| f ||| g ||| h)
    (c.acc, fl)) (acc, 0)

/-! ## Accumulators and tiles as wholes -/

/-- Replace the elements of the first `m` rows and `n` columns of an accumulator: its flags. -/
def State.mapAcc (s : State) (c a m n : Nat) (f : Nat → Nat → Nat → Nat × Nat) : Nat × State :=
  (List.range m).foldl (fun (x : Nat × State) i =>
    let old := x.2.accRow c a i
    let keep := old / 2 ^ (32 * n) * 2 ^ (32 * n)
    let (v, fl) := (List.range n).foldl (fun (y : Nat × Nat) j =>
      let (z, g) := f i j (elemAt old 32 j)
      (y.1 + z % 2 ^ 32 * 2 ^ (32 * j), y.2 ||| g)) (keep, x.1)
    (fl, x.2.writeNat (tileAddr c (16 + a) + 512 * i) 512 v)) (0, s)

/-- Replace rows of a tile. -/
def State.mapTile (s : State) (c t rows : Nat) (f : Nat → Nat → Nat × Nat) : Nat × State :=
  (List.range rows).foldl (fun (x : Nat × State) i =>
    let (v, g) := f i (x.2.tileRow c t i)
    (x.1 ||| g, x.2.writeNat (tileAddr c t + 256 * i) 256 v)) (0, s)

/-- The codes of an accumulator row. -/
def State.accCodes (s : State) (c a i : Nat) : List Nat := let r := s.accRow c a i; (List.range 128).map (elemAt r 32)

/-- Codes of `w` bits, packed. -/
def joinCodes (w : Nat) (xs : List Nat) : Nat := xs.zipIdx.foldl (fun v x => v + x.1 % 2 ^ w * 2 ^ (w * x.2)) 0

/-! ## The part of a multiply that an engine computes (R460, R462) -/

/-- Apply an element function over a part: the accumulator blocks one by one. -/
def State.mapPart (s : State) (c d : Nat) (p : Part) (f : Nat → Nat → Nat → Nat × Nat) : Nat × State :=
  (List.range (ceilDiv p.m 128)).foldl (fun (x : Nat × State) bi =>
    (List.range (ceilDiv p.n 128)).foldl (fun (x : Nat × State) bj =>
      let (g, s) := x.2.mapAcc c (d + bi * p.cb + bj) (min 128 (p.m - 128 * bi)) (min 128 (p.n - 128 * bj))
        (fun i j old => f (128 * bi + i) (128 * bj + j) old)
      (x.1 ||| g, s)) x) (0, s)

def MReq.sampled (r : MReq) : Sampled := { rmode := r.rmode, seed := r.seed, tid := r.tid }

/-- MMA over a part. Scales are taken by the element's place within the part. -/
def State.runMma (s : State) (c : Nat) (r : MReq) (z : Bool) (d a b k8 : Reg) (p : Part) : Nat × State :=
  let w := r.fmt
  let K := elemsOf w k8
  let chunk := chunkOf w
  let as_ := (List.range p.m).map (fun i => s.opRow c w false a.toNat K (p.i0 + i) i)
  let bs_ := (List.range p.n).map (fun j => s.opRow c w true b.toNat K (p.j0 + j) j)
  s.mapPart c d.toNat p (fun i j old =>
    mmaElement r.sampled chunk (i * 2 ^ 24 + j * 2 ^ 12) (as_.getD i ⟨[], []⟩) (bs_.getD j ⟨[], []⟩)
      (if z then 0 else old) (ceilDiv K chunk))

/-- MREC. -/
def State.runRec (s : State) (c : Nat) (r : MReq) (z : Bool) (d a b k8 : Reg) (p : Part) : Nat × State :=
  let w := r.fmt
  let K := elemsOf w k8
  let codes (isB : Bool) (base i : Nat) : List (Nat × Nat) :=
    let f := opFmt w isB
    let row := s.tileRow c (base + i / 128) (i % 128)
    (List.range K).map (fun k => widenCode f (elemAt row f.bits k))
  let as_ := (List.range p.m).map (codes false a.toNat)
  let bs_ := (List.range p.n).map (codes true b.toNat)
  s.mapPart c d.toNat p (fun i j old =>
    recElement r.sampled (uOps r.ucode) r.ust.toNat (i * 2 ^ 24 + j * 2 ^ 12) (as_.getD i []) (bs_.getD j [])
      (if z then 0 else old))

/-! ## The other requests -/

/-- MTRN: element (row, column) of a block moves to (column, row) (R466). -/
def transposeRow (e : Nat) (rows : List Nat) (r : Nat) : Nat :=
  match e with
  | 0 =>
    joinCodes 8 ((List.range 256).map (fun x => elemAt (rows.getD (x % 128) 0) 8 (x / 128 * 128 + r)))
  | 1 => joinCodes 16 ((List.range 128).map (fun x => elemAt (rows.getD x 0) 16 r))
  | _ => joinCodes 32 ((List.range 64).map (fun x => elemAt (rows.getD (r / 64 * 64 + x) 0) 32 (r % 64)))

/-- Format of MLDA and MSTA by code. -/
def accFmt (f : BitVec 2) : Fmt :=
  match f.toNat with
  | 0 => .f32 | 1 => .bf16 | _ => .f16

/-- The column and row factors of MSCL and MBIAS (R471). -/
def State.colFactor (s : State) (c t j : Nat) : Nat := elemAt (s.tileRow c t (j / 64)) 32 (j % 64)
def State.rowFactor (s : State) (c t i : Nat) : Nat := elemAt (s.tileRow c t (2 + i / 64)) 32 (i % 64)

/-- An element scaled (R471). -/
def scaledElem (r : Rounding) (acc : Nat) (fs : List Nat) : Nat × Nat :=
  let (v, f) := fs.foldl (fun (x : Num × Nat) y =>
    let (p, g) := x.1.mul (Fmt.f32.unpack y)
    (p, x.2 ||| g)) (Fmt.f32.unpack acc, 0)
  let (c, g) := Fmt.f32.pack r v
  (c, f ||| g)

/-- relu (R472). -/
def reluElem (x : Nat) : Nat × Nat :=
  match Fmt.f32.unpack x with
  | .nan s => (Fmt.f32.canonNaN, nvIf s)
  | .inf n => (if n then 0 else x, 0)
  | .fin n m _ => (if n || m = 0 then 0 else x, 0)

/-- Seven levels of the pairwise tree (R473): index x, its inputs. -/
def sevenSum (m : Sampled) (x : Nat) (l : List Nat) : Nat × Nat :=
  let (r, f) := (List.range 7).foldl (fun (a : List (Option Nat) × Nat) k =>
    let (y, g) := sumLevel m (x * 2 ^ 12 + 128 * (k + 1)) 0 a.1
    (y, a.2 ||| g)) (l.map some, 0)
  ((r.headD none).getD 0, f)

/-- One result of MRED. -/
def reduced (m : Sampled) (max : Bool) (x : Nat) (l : List Nat) : Nat × Nat :=
  if max then extreme .f32 true (l.map some) else sevenSum m x l

/-- The formats of MQNT. -/
def quantFmt (f : BitVec 2) : Fmt :=
  match f.toNat with
  | 0 => .e4m3 | 1 => .e5m2 | _ => .e2m1

/-- MQNT (R474): row r of the element tile and of the scale tile. -/
def State.quantRow (s : State) (c : Nat) (q : MReq) (f : Fmt) (a soff eoff : Nat) (given : Bool) (r elemRow scaleRow : Nat) :
    Nat × Nat × Nat :=
  let xs := s.accCodes c a r
  (List.range 4).foldl (fun (x : Nat × Nat × Nat) jl =>
    let blk := (xs.drop (32 * jl)).take 32
    let amax :=
      if given then maxMagnitude [Fmt.f32.unpack (q.xc.toNat % 2 ^ 32)] else maxMagnitude (blk.map Fmt.f32.unpack)
    let (code, nv) := scaleCode f amax
    let ys := blk.zipIdx.map (fun y => blockElem f (q.sampled.at_ (r * 2 ^ 24 + (32 * jl + y.2) * 2 ^ 12)) amax code y.1)
    let fl := ys.foldl (fun g y => g ||| y.2) (x.2.2 ||| nv)
    let place := (128 * eoff + 32 * jl) * f.bits
    (natSetBits x.1 place (32 * f.bits) (joinCodes f.bits (ys.map (·.1))),
      natSetBits x.2.1 (8 * (16 * soff + 4 * eoff + jl)) 8 code, fl)) (elemRow, scaleRow, 0)

/-- What a request reads meets poison (R455): rows of tiles, elements of accumulators. -/
def State.rowsPoisoned (s : State) (c t r n : Nat) : Bool := s.rangePoisoned (tileAddr c t + 256 * r) (256 * n)
def State.accPoisoned (s : State) (c a m n : Nat) : Bool :=
  (List.range m).any (fun i => s.rangePoisoned (tileAddr c (16 + a) + 512 * i) (4 * n))

/-- Rows `lo` to `lo + m − 1` of an operand that spans tiles from `base`. -/
def State.spanPoisoned (s : State) (c base lo m : Nat) : Bool :=
  (List.range m).any (fun i => s.rowsPoisoned c (base + (lo + i) / 128) ((lo + i) % 128) 1)

/-- The accumulator elements of a part. -/
def State.partPoisoned (s : State) (c d : Nat) (p : Part) : Bool :=
  (List.range (ceilDiv p.m 128)).any (fun bi => (List.range (ceilDiv p.n 128)).any (fun bj =>
    s.accPoisoned c (d + bi * p.cb + bj) (min 128 (p.m - 128 * bi)) (min 128 (p.n - 128 * bj))))

/-- Rows of the scale tile that a multiply reads: one for each row of a scaled operand within the part (R286, R287). -/
def scaleRows (w : Word) (p : Part) : Nat :=
  let rows (b : Bool) (n : Nat) : Nat := if isMx (opFmt w b) || opAsym w b then n else 0
  min 128 (max (rows false p.m) (rows true p.n))

/-- Does the request read poison? -/
def State.readsPoison (s : State) (r : MReq) : Bool :=
  let c := r.ctx
  let p := r.part
  let mul (z : Bool) (d a b : Reg) (scales : Bool) : Bool :=
    decide (0 < p.m) && decide (0 < p.n) &&
      (s.spanPoisoned c a.toNat p.i0 p.m || s.spanPoisoned c b.toNat p.j0 p.n
        || (scales && (scaleTile r.fmt).any (fun t => s.rowsPoisoned c t 0 (scaleRows r.fmt p)))
        || (!z && s.partPoisoned c d.toNat p))
  match r.op with
  | .mma z d a b _ _ _ | .mmag z d a b _ _ _ => mul z d a b true
  | .mrec z d a b _ _ _ => mul z d a b false
  | .mext _ a row seg => s.rangePoisoned (tileAddr c (16 + a.toNat) + 512 * row.toNat + 64 * seg.toNat) 64
  | .mscl f _ a | .mbias f _ a =>
    s.rowsPoisoned c a.toNat (if f = 1 then 2 else 0) (if f.toNat < 2 then 2 else 4) || r.reads.any (fun t => 16 ≤ t && s.rangePoisoned (tileAddr c t) 0x10000)
  | _ => r.reads.any (fun t => s.rangePoisoned (tileAddr c t) (tileBytes t))

/-- The registers that a request writes whole (R455). -/
def MReq.whole (r : MReq) : List Nat :=
  match r.op with
  | .mzero .. | .mtzero .. | .mtmov .. | .mtrn .. | .mlda .. | .msta .. => r.writes
  | _ => []

/-- Multiply-accumulates of a request (R132). -/
def MReq.macs (r : MReq) : Nat :=
  match r.op with
  | .mma _ _ _ _ k8 .. | .mmag _ _ _ _ k8 .. | .mrec _ _ _ _ k8 .. => r.part.m * r.part.n * elemsOf r.fmt k8
  | _ => 0

/-- Overwrite a register with zeros. -/
def State.zeroReg (s : State) (c r : Nat) : State := s.writeBytes (tileAddr c r) (List.replicate (tileBytes r) 0)

/-- The effect of a request on the registers of its context: flags, and the value for a vector or x destination. -/
def State.applyReq (s : State) (r : MReq) : Nat × Nat × State :=
  let c := r.ctx
  let m := r.sampled
  let p := r.part
  let ij (i j : Nat) : Nat := i * 2 ^ 24 + j * 2 ^ 12
  match r.op with
  | .mma z d a b k8 _ _ | .mmag z d a b k8 _ _ => let (f, s) := s.runMma c r z d a b k8 p; (f, 0, s)
  | .mrec z d a b k8 _ _ => let (f, s) := s.runRec c r z d a b k8 p; (f, 0, s)
  | .mzero .. | .mtzero .. => (0, 0, r.writes.foldl (fun s t => s.zeroReg c t) s)
  | .mtmov d a cnt =>
    let src := (List.range (cnt.toNat + 1)).map (fun u => s.readNat (tileAddr c (a.toNat + u)) 0x8000)
    (0, 0, src.zipIdx.foldl (fun s x => s.writeNat (tileAddr c (d.toNat + x.2)) 0x8000 x.1) s)
  | .mztst _ a f =>
    let fm := (Fmt.ofCode f.toNat).getD .i8
    let zero := (List.range 128).all (fun i =>
      let row := s.tileRow c a.toNat i
      (List.range (2048 / fm.bits)).all (fun k => (fm.unpack (elemAt row fm.bits k)).isZero))
    (0, if zero then 1 else 0, s)
  | .mtrn e d a =>
    let rows := (List.range 128).map (s.tileRow c a.toNat)
    let (_, s) := s.mapTile c d.toNat 128 (fun i _ => (transposeRow e.toNat rows i, 0))
    (0, 0, s)
  | .mext _ a row seg => (0, natBits (s.accRow c a.toNat row.toNat) (512 * seg.toNat) 512, s)
  | .mins d _ row seg =>
    (0, 0, s.writeNat (tileAddr c (16 + d.toNat) + 512 * row.toNat + 64 * seg.toNat) 64 r.vs.toNat)
  | .mlda f d a =>
    let fm := accFmt f
    let (fl, s) := s.mapAcc c d.toNat 128 128 (fun i j _ =>
      if f = 0 then (elemAt (s.tileRow c (a.toNat + j / 64) i) 32 (j % 64), 0)
      else Fmt.f32.pack { rm := 0, sat := false } (fm.unpack (elemAt (s.tileRow c a.toNat i) fm.bits j)))
    (fl, 0, s)
  | .msta f d a =>
    if f = 0 then
      let s := (List.range 2).foldl (fun s h =>
        (s.mapTile c (d.toNat + h) 128 (fun i _ => (natBits (s.accRow c a.toNat i) (2048 * h) 2048, 0))).2) s
      (0, 0, s)
    else
      let fm := accFmt f
      let (fl, s) := s.mapTile c d.toNat 128 (fun i _ =>
        let ys := (s.accCodes c a.toNat i).zipIdx.map (fun x => fm.pack (m.at_ (ij i x.2)) (Fmt.f32.unpack x.1))
        (joinCodes fm.bits (ys.map (·.1)), ys.foldl (fun g y => g ||| y.2) 0))
      (fl, 0, s)
  | .mqnt f d a b xc soff eoff =>
    let (fl, s) := (List.range 128).foldl (fun (x : Nat × State) i =>
      let s := x.2
      let (e, k, g) := s.quantRow c r (quantFmt f) a.toNat soff.toNat eoff.toNat (xc != 0) i (s.tileRow c d.toNat i)
        (s.tileRow c b.toNat i)
      let s := s.writeNat (tileAddr c d.toNat + 256 * i) 256 e
      (x.1 ||| g, s.writeNat (tileAddr c b.toNat + 256 * i) 256 k)) (0, s)
    (fl, 0, s)
  | .mscl f d a =>
    let (fl, s) := s.mapAcc c d.toNat 128 128 (fun i j old =>
      let col := s.colFactor c a.toNat j
      let row := s.rowFactor c a.toNat i
      scaledElem (m.at_ (ij i j)) old (match f.toNat with | 0 => [col] | 1 => [row] | _ => [row, col]))
    (fl, 0, s)
  | .mbias f d a =>
    let (fl, s) := s.mapAcc c d.toNat 128 128 (fun i j old =>
      opAdd .f32 (m.at_ (ij i j)) old (if f = 0 then s.colFactor c a.toNat j else s.rowFactor c a.toNat i) 0)
    (fl, 0, s)
  | .mapplyRelu d => let (fl, s) := s.mapAcc c d.toNat 128 128 (fun _ _ old => reluElem old); (fl, 0, s)
  | .mapplyMicro d =>
    let (fl, s) := s.mapAcc c d.toNat 128 128 (fun i j old =>
      let (x, g) := runMicro m (ij i j) 0 (uOps r.ucode) { acc := old, st := r.ust.toNat } 0
      (x.acc, g))
    (fl, 0, s)
  | .mred f d a row =>
    let rows := (List.range 128).map (s.accCodes c a.toNat)
    let (fl, s) := (List.range 128).foldl (fun (y : Nat × State) x =>
      let l := if f.toNat < 2 then rows.getD x [] else rows.map (fun z => z.getD x 0)
      let (v, g) := reduced m (f.toNat % 2 == 1) x l
      (y.1 ||| g, y.2.writeNat (tileAddr c d.toNat + 256 * (row.toNat + x / 64) + 4 * (x % 64)) 4 v)) (0, s)
    (fl, 0, s)
  | _ => (0, 0, s)

/-! ## Arbitration and completion (R195, R196, R198, R463) -/

def Quad.queueOf (q : Quad) (h : Nat) : List MReq := Store.get [] q.dq h
/-- The head request of a hart position: a gang slot goes first. -/
def Quad.headOf (q : Quad) (h : Nat) : Option MReq := (Store.find? q.gangSlots h).orElse (fun _ => (q.queueOf h).head?)

/-- May a head request be accepted now: from the cycle after its issue on, when no copy holds a register it names (R195, R463)? -/
def State.eligible (s : State) (q h : Nat) (r : MReq) : Bool :=
  decide (r.at_ < s.cycle) && !s.copyHolds r.ctx r.id r.names &&
    (match r.op with
     | .mmag .. => r.gang || (gangOthers q).all (fun o => (Store.find? (s.quad o).gangSlots h).isNone)
     | _ => true)

/-- May an arbiter accept in this cycle: one request a cycle, and at duty step n fewer than 16 − n in the last 16 cycles (R23, R195)? -/
def State.acceptTurn (s : State) (q : Nat) : Bool :=
  let l := (s.quad q).accepts
  !l.contains s.cycle && decide ((l.filter (fun t => decide (s.cycle < t + 16))).length < 16 - s.power.step)

/-- The request that the arbiter of a quad would accept, with its hart position. -/
def State.nextAccept (s : State) (q : Nat) : Option (Nat × MReq) :=
  let qd := s.quad q
  if 8 ≤ qd.inq.length || !s.acceptTurn q then none
  else firstSome (fun i =>
    let h := (qd.arb + i) % 4
    (qd.headOf h).filter (s.eligible q h) |>.map (fun r => (h, r))) (List.range 4)

/-- An accepted request samples the format context of its slot; MFMT and MUPLD change the engine's copy (R198). -/
def Quad.accept (q : Quad) (h : Nat) (f : FmtCtx) (r : MReq) (cycle : Nat) : Quad :=
  let key := r.ctx * 4 + r.slot
  let r := if r.gang then r else { r with fmt := f.fmt, ucode := f.ucode, ust := f.ust }
  let q := match r.op with
    | .mfmt _ => { q with fmts := Store.put q.fmts key { f with fmt := r.xa } }
    | .mupld _ _ => { q with fmts := Store.put q.fmts key { f with ucode := r.xa, ust := r.xb.setWidth 32 } }
    | _ => q
  let q := if r.gang then { q with gangSlots := Store.del q.gangSlots h }
    else { q with dq := Store.set [] q.dq h (q.queueOf h).tail }
  { q with inq := q.inq ++ [r], arb := (h + 1) % 4, accepts := (cycle :: q.accepts).take 16 }

/-- MATRIX_ACCEPT. An MMAG that its issuing engine accepts enters the gang slots of the other members in the same cycle (R463). -/
def execMatrixAccept (q : Nat) (s : State) : Result :=
  match s.nextAccept q with
  | none => .next s
  | some (h, r) =>
    let f := s.fmtCtx q r.ctx r.slot
    let parts := if r.gang then [] else s.gangParts q { r with fmt := f.fmt }
    .next (parts.foldl (fun s p => s.modQuad p.1 (fun x => { x with gangSlots := Store.put x.gangSlots h p.2 }))
      (s.modQuad q (·.accept h f r s.cycle)))

/-- A result reaches its destination register, which becomes ready (R190, R454). -/
def State.deliver (s : State) (r : MReq) (v : Nat) : State :=
  let o := s.ownerOf r.hart r.slot (some r.ictx) r.task
  let s := match r.op with
    | .mext d .. => s.ownV o r.ictx r.slot d (BitVec.ofNat 512 v)
    | .mztst d .. => s.ownX o d v
    | _ => s
  match o with
  | .hart h => s.modHart h (fun x =>
    { x with vwait := x.vwait.filter (fun w => w.2 != r.id), xwait := x.xwait.filter (fun w => w.2 != r.id) })
  | _ => s

/-- A register fill of the request's that waits for its image (R182). -/
def State.tilesReady (s : State) (r : MReq) : Bool :=
  !s.fills.any (fun f => f.1 == r.ctx && f.2.1 == 4 && r.names.contains f.2.2)

/-- MATRIX_COMPLETE: the oldest accepted request takes effect, whole. -/
def execMatrixComplete (q : Nat) (s : State) : Result :=
  match (s.quad q).inq with
  | [] => .next s
  | r :: rest =>
    let released := match r.op with | .mrel .. => true | _ => false
    let s := if released then s else r.reads.foldl (fun s t => s.ensureTile r.ctx t) s
    let s := if released then s else r.writes.foldl (fun s t => s.touchTile r.ctx t) s
    if !s.tilesReady r then .next s
    else
      let s := s.modQuad q (fun x => { x with inq := rest })
      let o := s.ownerOf r.hart r.slot (some r.ictx) r.task
      if released then .next ((r.writes.foldl (fun s t => s.releaseTile r.ctx t) s).deliver r 0)
      else if s.readsPoison r then
        let s := r.writes.foldl (fun s t => (s.poisonRange (tileAddr r.ctx t) (tileBytes t)).settleTile r.ctx t) s
        .next ((s.deliver r 0).ownPoison o)
      else
        let (fl, v, s) := s.applyReq r
        let s := s.tally r.task (fun t => { t with flops := t.flops + 2 * r.macs })
        let s := r.whole.foldl (fun s t => s.cleanRange (tileAddr r.ctx t) (tileBytes t)) s
        let s := r.writes.foldl (fun s t => s.settleTile r.ctx t) s
        .next ((s.deliver r v).ownFlags o fl)

/-! ## Issue (R194, R452) -/

/-- The request that an instruction would issue. -/
def State.request (s : State) (op : Instr) (xa xb xc : Word) (vs : Line) : MReq :=
  let h := s.me
  { id := 0, hart := s.cur, slot := h.slot, ctx := h.ctx.getD 0, task := h.task, asid := s.asidOf s.cur, op := op,
    xa := xa, xb := xb, xc := xc, vs := vs, rmode := h.dev.rmode, seed := h.dev.srseed, tid := s.tid, clk := h.pts,
    fmt := h.fmt, ucode := h.ucode, ust := h.ust, ictx := h.ctx.getD 0, member := quadOf s.cur % 4, at_ := s.cycle }

/-- A matrix instruction: the x and vector registers it reads, those that are its destinations, whether its format checks
pass, whether it rounds (R483), and its request. -/
structure MSpec where
  xs : List Reg := []
  vs : List Reg := []
  wx : List Reg := []
  wv : List Reg := []
  ok : State → Bool := fun _ => true
  rounds : Bool := false
  req : State → MReq
  after : State → State := id

/-- Was a request issued by the task of the current hart's slot? A member's part of an MMAG counts as the issuer's. -/
def State.mine (s : State) (r : MReq) : Bool := r.task == s.me.task && r.slot == s.me.slot && some r.ictx == s.me.ctx

/-- The hart's own dispatch queue. -/
def State.myQueue (s : State) : List MReq := (s.quad (quadOf s.cur)).queueOf (s.cur % 4)

/-- The request enters the dispatch queue. -/
def MSpec.enter (p : MSpec) (s : State) : Act Unit :=
  if 4 ≤ s.myQueue.length then .stall s
  else
    (s.localQuiet).andThen fun _ s =>
    let r := p.req s
    let (id, s) := s.newId
    let s := s.modQuad (quadOf s.cur) (fun q =>
      { q with dq := Store.set [] q.dq (s.cur % 4) (q.queueOf (s.cur % 4) ++ [{ r with id := id }]) })
    let s := s.modMe (fun h =>
      { h with vwait := h.vwait ++ p.wv.map (fun v => (v.toNat, id)),
               xwait := h.xwait ++ (p.wx.filter (· != 0)).map (fun x => (x.toNat, id)) })
    let s := if p.rounds then s.advanceSeed else s
    .ok () (p.after s)

/-- What the instruction does when it issues: its checks, then the request (R452). -/
def MSpec.body (p : MSpec) (s : State) : Act Unit :=
  if s.me.task.isNone then illegal s
  else if !p.ok s then .trap 31 s.me.ir s
  else p.enter s

/-- The instruction at issue. -/
def MSpec.issue (p : MSpec) (s : State) : Issue :=
  let r := p.req s
  { xs := p.xs ++ p.wx, vs := p.vs ++ p.wv, ts := r.names, wx := p.wx, wv := p.wv, wt := r.writes, body := p.body }

/-- The instruction at a lane's issue: its checks were made at the REPB (R452, R363). -/
def MSpec.laneIssue (p : MSpec) (s : State) : Issue := { p.issue s with body := p.enter }

/-- A request without register operands other than tiles and accumulators. -/
def plainReq (op : Instr) (s : State) : MReq := s.request op 0 0 0 0

def mfmtI (a : Reg) : MSpec :=
  { xs := [a], ok := fun s => fmtWordOk (s.rx a), req := fun s => s.request (.mfmt a) (s.rx a) 0 0 0,
    after := fun s => s.modMe (fun h => { h with fmt := h.rx a }) }

def mupldI (a b : Reg) : MSpec :=
  { xs := [a, b], ok := fun s => ucodeOk (uOps (s.rx a)) && fld (s.rx b) 32 32 = 0,
    req := fun s => s.request (.mupld a b) (s.rx a) (s.rx b) 0 0,
    after := fun s => s.modMe (fun h => { h with ucode := h.rx a, ust := fld (h.rx b) 0 32 }) }

def mmaI (z : Bool) (d a b k8 : Reg) (m : BitVec 9) (n : BitVec 10) : MSpec :=
  { ok := fun s => mulOk s.me.fmt a b k8 m.toNat n.toNat, rounds := true, req := plainReq (.mma z d a b k8 m n) }

/-- Does every member of the gang carry a context of the issuing ASID (R462)? -/
def State.gangOk (s : State) : Bool :=
  let q := quadOf s.cur
  (gangOthers q).all (fun o => s.quadPresent o && (s.contextOn (s.asidOf s.cur) o).isSome)

def mmagI (z : Bool) (d a b k8 : Reg) (m : BitVec 9) (n : BitVec 10) : MSpec :=
  { ok := fun s => mulOk s.me.fmt a b k8 m.toNat n.toNat && s.gangOk, rounds := true, req := plainReq (.mmag z d a b k8 m n) }

def mrecI (z : Bool) (d a b k8 : Reg) (m : BitVec 9) (n : BitVec 10) : MSpec :=
  { ok := fun s => recOk s.me.fmt, rounds := true, req := plainReq (.mrec z d a b k8 m n) }

def mzeroI (d : Reg) (cnt : BitVec 3) : MSpec := { req := plainReq (.mzero d cnt) }
def mtzeroI (d : Reg) (cnt : BitVec 4) : MSpec := { req := plainReq (.mtzero d cnt) }
def mtmovI (d a : Reg) (cnt : BitVec 4) : MSpec := { req := plainReq (.mtmov d a cnt) }
def mztstI (d a : Reg) (f : BitVec 4) : MSpec := { wx := [d], req := plainReq (.mztst d a f) }
def mtrnI (e : BitVec 2) (d a : Reg) : MSpec := { req := plainReq (.mtrn e d a) }
def mrelI (acc : Bool) (d : Reg) : MSpec := { req := plainReq (.mrel acc d) }
def mextI (d a : Reg) (row : BitVec 7) (seg : BitVec 3) : MSpec := { wv := [d], req := plainReq (.mext d a row seg) }
def minsI (d a : Reg) (row : BitVec 7) (seg : BitVec 3) : MSpec :=
  { vs := [a], req := fun s => s.request (.mins d a row seg) 0 0 0 (s.vget a) }
def mldaI (f : BitVec 2) (d a : Reg) : MSpec := { req := plainReq (.mlda f d a) }
def mstaI (f : BitVec 2) (d a : Reg) : MSpec := { rounds := f != 0, req := plainReq (.msta f d a) }
def mqntI (f : BitVec 2) (d a b c : Reg) (soff : BitVec 3) (eoff : BitVec 2) : MSpec :=
  { xs := [c], rounds := true, req := fun s => s.request (.mqnt f d a b c soff eoff) 0 0 (s.rx c) 0 }
def msclI (f : BitVec 2) (d a : Reg) : MSpec := { rounds := true, req := plainReq (.mscl f d a) }
def mbiasI (f : BitVec 2) (d a : Reg) : MSpec := { rounds := true, req := plainReq (.mbias f d a) }
def mapplyReluI (d : Reg) : MSpec := { req := plainReq (.mapplyRelu d) }
def mapplyMicroI (d : Reg) : MSpec := { rounds := true, req := plainReq (.mapplyMicro d) }
def mredI (f : BitVec 2) (d a : Reg) (row : BitVec 7) : MSpec :=
  { rounds := f.toNat % 2 == 0, req := plainReq (.mred f d a row) }

def MSpec.exec (p : MSpec) (s : State) : Result := (p.issue s).run s

def execMfmt (a : Reg) (s : State) : Result := (mfmtI a).exec s
def execMupld (a b : Reg) (s : State) : Result := (mupldI a b).exec s
def execMma (z : Bool) (d a b k8 : Reg) (m : BitVec 9) (n : BitVec 10) (s : State) : Result := (mmaI z d a b k8 m n).exec s
def execMmag (z : Bool) (d a b k8 : Reg) (m : BitVec 9) (n : BitVec 10) (s : State) : Result := (mmagI z d a b k8 m n).exec s
def execMrec (z : Bool) (d a b k8 : Reg) (m : BitVec 9) (n : BitVec 10) (s : State) : Result := (mrecI z d a b k8 m n).exec s
def execMzero (d : Reg) (cnt : BitVec 3) (s : State) : Result := (mzeroI d cnt).exec s
def execMtzero (d : Reg) (cnt : BitVec 4) (s : State) : Result := (mtzeroI d cnt).exec s
def execMtmov (d a : Reg) (cnt : BitVec 4) (s : State) : Result := (mtmovI d a cnt).exec s
def execMztst (d a : Reg) (f : BitVec 4) (s : State) : Result := (mztstI d a f).exec s
def execMtrn (e : BitVec 2) (d a : Reg) (s : State) : Result := (mtrnI e d a).exec s
def execMrel (acc : Bool) (d : Reg) (s : State) : Result := (mrelI acc d).exec s
def execMext (d a : Reg) (row : BitVec 7) (seg : BitVec 3) (s : State) : Result := (mextI d a row seg).exec s
def execMins (d a : Reg) (row : BitVec 7) (seg : BitVec 3) (s : State) : Result := (minsI d a row seg).exec s
def execMlda (f : BitVec 2) (d a : Reg) (s : State) : Result := (mldaI f d a).exec s
def execMsta (f : BitVec 2) (d a : Reg) (s : State) : Result := (mstaI f d a).exec s
def execMqnt (f : BitVec 2) (d a b c : Reg) (soff : BitVec 3) (eoff : BitVec 2) (s : State) : Result :=
  (mqntI f d a b c soff eoff).exec s
def execMscl (f : BitVec 2) (d a : Reg) (s : State) : Result := (msclI f d a).exec s
def execMbias (f : BitVec 2) (d a : Reg) (s : State) : Result := (mbiasI f d a).exec s
def execMapplyRelu (d : Reg) (s : State) : Result := (mapplyReluI d).exec s
def execMapplyMicro (d : Reg) (s : State) : Result := (mapplyMicroI d).exec s
def execMred (f : BitVec 2) (d a : Reg) (row : BitVec 7) (s : State) : Result := (mredI f d a row).exec s

/-- MSYNC (R475): it waits for every request of the hart, at every member, and joins them. -/
def execMsync (s : State) : Result :=
  ins [] [] (fun s =>
    if s.me.task.isNone then illegal s
    else if s.quads.any (fun q => q.2.requests.any s.mine) then .stall s
    else if s.me.mpoison then .trap 29 0 (s.modMe (fun h => { h with mpoison := false }))
    else .ok () s) s

end Sys2Proof.Machine
end

