-- ==== Sys2Proof/Machine/Repb.lean ====
section
/-! DEFINITION. The repetition sequencer (09, R200 to R202; 15, R363) and the trace instructions (R364). -/

namespace Sys2Proof.Machine

/-! ## What a block may hold -/

/-- The vector instructions that a block may hold: all but those that reach memory (R363). -/
def vectorIssue : Instr → Option Issue
  | .vbcast t d a => some (vbcastI t d a)
  | .vmvx t d a => some (vmvxI t d a 0)
  | .vmvxLane t d a lane => some (vmvxI t d a lane.toNat)
  | .vmvv t d a => some (vmvvI t d a)
  | .vadd t d a b => some (vaddI t d a b false)
  | .vaddVx t d a b => some (vaddI t d a b true)
  | .vsub t d a b => some (vsubI t d a b false)
  | .vsubVx t d a b => some (vsubI t d a b true)
  | .vmul t d a b => some (vmulI t d a b false)
  | .vmulVx t d a b => some (vmulI t d a b true)
  | .vfma t d a b => some (vfmaI t d a b false)
  | .vfmaVx t d a b => some (vfmaI t d a b true)
  | .vfms t d a b => some (vfmsI t d a b false)
  | .vfmsVx t d a b => some (vfmsI t d a b true)
  | .vmin t d a b => some (vminI t d a b false)
  | .vminVx t d a b => some (vminI t d a b true)
  | .vmax t d a b => some (vmaxI t d a b false)
  | .vmaxVx t d a b => some (vmaxI t d a b true)
  | .vand t d a b => some (vandI t d a b false)
  | .vandVx t d a b => some (vandI t d a b true)
  | .vor t d a b => some (vorI t d a b false)
  | .vorVx t d a b => some (vorI t d a b true)
  | .vxor t d a b => some (vxorI t d a b false)
  | .vxorVx t d a b => some (vxorI t d a b true)
  | .vsll t d a b => some (vsllI t d a b false)
  | .vsllVx t d a b => some (vsllI t d a b true)
  | .vsrl t d a b => some (vsrlI t d a b false)
  | .vsrlVx t d a b => some (vsrlI t d a b true)
  | .vsra t d a b => some (vsraI t d a b false)
  | .vsraVx t d a b => some (vsraI t d a b true)
  | .vsel t d a b => some (vselI t d a b false)
  | .vselVx t d a b => some (vselI t d a b true)
  | .vabs t d a => some (vabsI t d a)
  | .vneg t d a => some (vnegI t d a)
  | .vcmp t vx d a b cond => some (vcmpI t vx d a b cond)
  | .vcvt t d a b => some (vcvtC32 t d a b)
  | .vcvtW64 t sz d a src p => some (vcvtW64I t sz d a src p)
  | .vrsum t d a => some (vrsumI t d a)
  | .vrmax t d a => some (vrmaxI t d a)
  | .vrmin t d a => some (vrminI t d a)
  | .vexp2 t d a => some (approxI .exp2 t d a)
  | .vlog2 t d a => some (approxI .log2 t d a)
  | .vrcp t d a => some (approxI .rcp t d a)
  | .vrsqrt t d a => some (approxI .rsqrt t d a)
  | .vsqrt t d a => some (approxI .sqrt t d a)
  | .vdot t d a b => some (vdotI t d a b)
  | .vperm t d a b => some (vpermI t d a b)
  | .vslideVx t d a b => some (vslideVxI t d a b)
  | .vslideI t d a amt => some (vslideImmI t d a amt)
  | .vcompr t d a => some (vcomprI t d a)
  | .vexpnd t d a => some (vexpndI t d a)
  | .viota t d => some (viotaI t d)
  | .vztst t d a => some (vztstI t d a)
  | .vscl t e5 d a b => some (vsclI t e5 d a b false)
  | .vsclVx t e5 d a b => some (vsclI t e5 d a b true)
  | .vqnt f x p d a b c => some (vqntI f x p d a b c)
  | .vmask a => some (vmaskI a)
  | .kand d a b => some (kandI d a b)
  | .kor d a b => some (korI d a b)
  | .knot d a => some (knotI d a)
  | .kmvToMask d a => some (kmvToI d a)
  | .kmvFromMask d a => some (kmvFromI d a)
  | _ => none

/-- The matrix requests. -/
def matrixSpec : Instr → Option MSpec
  | .mfmt a => some (mfmtI a)
  | .mupld a b => some (mupldI a b)
  | .mma z d a b k8 m n => some (mmaI z d a b k8 m n)
  | .mmag z d a b k8 m n => some (mmagI z d a b k8 m n)
  | .mrec z d a b k8 m n => some (mrecI z d a b k8 m n)
  | .mzero d n => some (mzeroI d n)
  | .mtzero d n => some (mtzeroI d n)
  | .mtmov d a n => some (mtmovI d a n)
  | .mztst d a f => some (mztstI d a f)
  | .mtrn e d a => some (mtrnI e d a)
  | .mrel acc d => some (mrelI acc d)
  | .mext d a row seg => some (mextI d a row seg)
  | .mins d a row seg => some (minsI d a row seg)
  | .mlda f d a => some (mldaI f d a)
  | .msta f d a => some (mstaI f d a)
  | .mqnt f d a b c so eo => some (mqntI f d a b c so eo)
  | .mscl f d a => some (msclI f d a)
  | .mbias f d a => some (mbiasI f d a)
  | .mapplyRelu d => some (mapplyReluI d)
  | .mapplyMicro d => some (mapplyMicroI d)
  | .mred f d a row => some (mredI f d a row)
  | _ => none

/-- The transfers that go through the copy queue (R201, R203). -/
def copySpec : Instr → Option XSpec
  | .copy d a b => some (XSpec.c32 .copy false d a b)
  | .copyClip d a b => some (XSpec.c32 .copy true d a b)
  | .copyW64 clip d a b c imm => some (XSpec.w64 .copy clip d a b c imm)
  | .copyb d a b => some (XSpec.c32 .copyb false d a b)
  | .copybClip d a b => some (XSpec.c32 .copyb true d a b)
  | .copybW64 clip d a b c imm => some (XSpec.w64 .copyb clip d a b c imm)
  | .getx d a b => some (XSpec.c32 .getx false d a b)
  | .getxClip d a b => some (XSpec.c32 .getx true d a b)
  | .getxW64 clip d a b c imm => some (XSpec.w64 .getx clip d a b c imm)
  | .putx d a b => some (XSpec.c32 .putx false d a b)
  | .putxClip d a b => some (XSpec.c32 .putx true d a b)
  | .putxW64 clip d a b c imm => some (XSpec.w64 .putx clip d a b c imm)
  | .getr d a b => some (XSpec.c32 .getr false d a b)
  | .getrClip d a b => some (XSpec.c32 .getr true d a b)
  | .getrW64 clip d a b c imm => some (XSpec.w64 .getr clip d a b c imm)
  | .putr d a b => some (XSpec.c32 .putr false d a b)
  | .putrClip d a b => some (XSpec.c32 .putr true d a b)
  | .putrW64 clip d a b c imm => some (XSpec.w64 .putr clip d a b c imm)
  | .copyn d a b => some (XSpec.send false d a b)
  | .copynClip d a b => some (XSpec.send true d a b)
  | .copynW64 clip d a b c imm => some ({ XSpec.w64 .copyn clip d a b c imm with dst := .net })
  | _ => none
/-- R200: every tile and accumulator register number of an instruction plus k. -/
def renameTiles (k : Reg) : Instr → Instr
  | .mma z d a b k8 m n => .mma z (d + k) (a + k) (b + k) k8 m n
  | .mmag z d a b k8 m n => .mmag z (d + k) (a + k) (b + k) k8 m n
  | .mrec z d a b k8 m n => .mrec z (d + k) (a + k) (b + k) k8 m n
  | .mzero d n => .mzero (d + k) n
  | .mtzero d n => .mtzero (d + k) n
  | .mtmov d a n => .mtmov (d + k) (a + k) n
  | .mztst d a f => .mztst d (a + k) f
  | .mtrn e d a => .mtrn e (d + k) (a + k)
  | .mrel acc d => .mrel acc (d + k)
  | .mext d a row seg => .mext d (a + k) row seg
  | .mins d a row seg => .mins (d + k) a row seg
  | .mlda f d a => .mlda f (d + k) (a + k)
  | .msta f d a => .msta f (d + k) (a + k)
  | .mqnt f d a b c so eo => .mqnt f (d + k) (a + k) (b + k) c so eo
  | .mscl f d a => .mscl f (d + k) (a + k)
  | .mbias f d a => .mbias f (d + k) (a + k)
  | .mapplyRelu d => .mapplyRelu (d + k)
  | .mapplyMicro d => .mapplyMicro (d + k)
  | .mred f d a row => .mred f (d + k) (a + k) row
  | .copyW64 clip d a b c imm =>
    .copyW64 clip d a (if imm.getLsbD 7 then b + k else b) (if imm.getLsbD 8 then c + k else c) imm
  | .copybW64 clip d a b c imm =>
    .copybW64 clip d a (if imm.getLsbD 7 then b + k else b) (if imm.getLsbD 8 then c + k else c) imm
  | .copynW64 clip d a b c imm =>
    .copynW64 clip d a (if imm.getLsbD 7 then b + k else b) (if imm.getLsbD 8 then c + k else c) imm
  | .getxW64 clip d a b c imm =>
    .getxW64 clip d a (if imm.getLsbD 7 then b + k else b) (if imm.getLsbD 8 then c + k else c) imm
  | .putxW64 clip d a b c imm =>
    .putxW64 clip d a (if imm.getLsbD 7 then b + k else b) (if imm.getLsbD 8 then c + k else c) imm
  | .getrW64 clip d a b c imm =>
    .getrW64 clip d a (if imm.getLsbD 7 then b + k else b) (if imm.getLsbD 8 then c + k else c) imm
  | .putrW64 clip d a b c imm =>
    .putrW64 clip d a (if imm.getLsbD 7 then b + k else b) (if imm.getLsbD 8 then c + k else c) imm
  | i => i
/-- The instruction that iteration i issues for a block instruction, ring as a count. -/
def iterInstr (ring i : Nat) (op : Instr) : Instr := renameTiles (BitVec.ofNat 5 (i % ring)) op

/-- MSYNC from a block: the lane waits as the hart would. -/
def syncIssue : Issue :=
  { body := fun s =>
      if s.quads.any (fun q => q.2.requests.any s.mine) then .stall s
      else if s.me.mpoison then .trap 29 0 (s.modMe (fun h => { h with mpoison := false }))
      else .ok () s }

/-- The issue of an instruction that a block may hold. -/
def blockIssue (s : State) (op : Instr) : Option Issue :=
  match op with
  | .msync => some syncIssue
  | _ =>
    (vectorIssue op).orElse fun _ => ((matrixSpec op).map (·.laneIssue s)).orElse fun _ => (copySpec op).map (·.issue s)

/-- Does a tile end of a copy pass mt15 (R200)? -/
def copyPasses (s : State) (op : Instr) : Bool :=
  match copySpec op with
  | none => false
  | some p =>
    let t := p.build s
    let hi := (bboxAll t.region.boxes).map (fun b => b.2 - 1)
    let past (a : XArg) : Bool :=
      match a with
      | .t n => !t.region.boxes.isEmpty && decide (15 < n + (tilePos t.region p.row 8 hi).1 / 128)
      | _ => false
    past p.dst || past p.src

/-- The registers that an instruction names lie in their files and it may stand in a block. -/
def blockOk (s : State) (op : Instr) : Bool := fieldsOk op && (blockIssue s op).isSome && !copyPasses s op

/-! ## REPB -/

/-- Fetch and decode `n` instructions from a pc: the instructions with their encodings and the pc after them; none where one
does not decode. -/
def fetchBlock : Nat → Word → State → Act (Option (List (Instr × Word) × Word))
  | 0, pc, s => .ok (some ([], pc)) s
  | n + 1, pc, s =>
    let here := s.me.pc
    let back (s : State) : State := s.modMe (fun h => { h with pc := here })
    match (s.modMe (fun h => { h with pc := pc })).fetch with
    | .stall s => .stall (back s)
    | .trap c v s => .trap c v (back s)
    | .ok bs s =>
      let s := back s
      match decodeBytes bs with
      | .reject .short => .trap 1 pc s
      | .reject _ => .ok none s
      | .ok i len =>
        match fetchBlock n (pc + BitVec.ofNat 64 len) s with
        | .ok (some (l, e)) s => .ok (some ((i, BitVec.ofNat 64 (ofBytes (bs.take len))) :: l, e)) s
        | r => r

/-- The conditions that the issue of the block's instructions would raise, in order: a matrix instruction without a task, the format
conditions against the format context as the block's own MFMTs leave it, and the traps of its transfers. -/
def blockTrap (s : State) : List (Instr × Word) → Option (Nat × Word) × State
  | [] => (none, s)
  | (op, w) :: r =>
    let s := s.modMe (fun h => { h with ir := w })
    let next : Option (Nat × Word) × State :=
      match matrixSpec op with
      | some p => if s.me.task.isNone then (some (2, w), s) else if p.ok s then (none, match op with | .mfmt _ => p.after s | _ => s) else (some (31, w), s)
      | none =>
        match copySpec op with
        | some p =>
          if p.kind != .copyb && p.d = 0 then (some (2, w), s) else (p.trap (p.build s) s, s)
        | none => (match op with | .msync => if s.me.task.isNone then some (2, w) else none | _ => none, s)
    match next.1 with
    | some t => (some t, s)
    | none => blockTrap next.2 r

/-- The block as iterations 0 to n − 1 issue it. -/
def unrolled (ring n : Nat) (blk : List (Instr × Word)) : List (Instr × Word) :=
  (List.range n).flatMap (fun i => blk.map (fun x => (iterInstr ring i x.1, x.2)))

/-- The lane of a block (R200, R202). -/
def laneOf (s : State) (rs ring : Nat) (blk : List (Instr × Word)) : Lane :=
  let is := (unrolled ring (min rs ring) blk).filterMap (fun x => blockIssue s x.1)
  let nums (f : Issue → List Nat) : List Nat := is.foldl (fun l i => (f i).foldl insertNat l) []
  { active := true, block := blk.map (·.1), words := blk.map (·.2), rs := rs, ring := ring, iter := 0, idx := 0,
    rmode := s.me.dev.rmode, vactm := s.me.dev.vactm,
    wx := (nums (fun i => i.wx.map (·.toNat))).filter (· != 0), wv := nums (fun i => i.wv.map (·.toNat)),
    wk := nums (fun i => i.wk.map (·.toNat)), wt := nums (·.wt) }

/-- REPB. -/
def execRepb (a : Reg) (len : BitVec 3) (ring : BitVec 2) (s : State) : Result :=
  ins [a] [] (fun s =>
    let rs := (s.rx a).toNat
    let rg := 2 ^ (ring.toNat + 1)
    if s.me.lane.active then .stall s
    else
      (fetchBlock (len.toNat + 1) (s.me.pc + 4) s).andThen fun blk s =>
      match blk with
      | none => illegal s
      | some (blk, e) =>
        if rs = 0 || 2 ^ 32 ≤ rs then illegal s
        else if (unrolled rg (min rs rg) blk).any (fun x => !blockOk s x.1) then illegal s
        else
          match (blockTrap s (unrolled rg (min rs (rg + 1)) blk)).1 with
          | some (c, v) => if c = 2 then illegal s else .trap c v s
          | none =>
            .ok () (s.modMe (fun h =>
              { h with lane := laneOf s rs rg blk, npc := e, dev := { h.dev with repidx := 0 } }))) s

/-! ## The lane (R201, R202) -/

/-- Registers that are not ready for the lane: its own writes do not hold it back. -/
def Hart.laneBusy (h : Hart) (xs vs : List Nat) : Bool :=
  xs.any (fun n => (h.token n).pending || h.xwait.any (fun w => w.1 == n)) || vs.any (fun n => h.vwait.any (fun w => w.1 == n))

/-- Step to the next instruction, the next iteration, or the end. -/
def Hart.laneNext (h : Hart) (cycle : Nat) : Hart :=
  let l := { h.lane with last := some cycle }
  let h := { h with instret := h.instret + 1 }
  if l.idx + 1 < l.block.length then { h with lane := { l with idx := l.idx + 1 } }
  else
    let i := l.iter + 1
    { h with lane := { l with idx := 0, iter := i, active := decide (i < l.rs) },
             dev := { h.dev with repidx := BitVec.ofNat 64 i } }

/-- An exception of a lane's issue is taken by the hart at its boundary (log 24). -/
def State.laneTrap (s : State) (code : Nat) (tval : Word) : State := if s.me.mode = .u then s.trap code tval else s

/-- The lane's instruction joins a failed token (R168). -/
def State.laneFail (s : State) (n : Nat) : State :=
  let t := s.me.token n
  if s.me.mode = .u then
    (s.modMe (fun x => (x.join [n]).setToken n { t with fpend := false })).trap 28 (report t.status 0 n)
  else s

/-- One issue of the current hart's lane, at most one a cycle (R201). -/
def State.laneIssue (s : State) : State :=
  let h := s.me
  let l := h.lane
  match l.block[l.idx]? with
  | none => s
  | some op =>
    let op := iterInstr l.ring l.iter op
    match blockIssue s op with
    | none => s.modMe (·.laneNext s.cycle)
    | some i =>
      let ns := (i.xs.map (·.toNat)).filter (· != 0)
      if h.laneBusy ns (i.vs.map (·.toNat)) then s
      else
        let set := s.modMe (fun x => { x with dev := { x.dev with rmode := l.rmode, vactm := l.vactm } })
        let keep := match op with | .vmask _ => true | _ => false
        let undo (t : State) : State :=
          t.modMe (fun x =>
            { x with dev := { x.dev with rmode := h.dev.rmode, vactm := if keep then x.dev.vactm else h.dev.vactm } })
        match set.filled (i.vs.map codeV ++ i.codes) with
        | .ok _ t =>
          match i.body (t.modMe (·.join ns)), ns.find? (fun n => (h.token n).fpend) with
          | .trap c v _, none => s.laneTrap c v
          | .trap c v _, some n => if causeRank c < causeRank 28 then s.laneTrap c v else s.laneFail n
          | _, some n => s.laneFail n
          | .ok _ t, none => (undo t).modMe (fun x => (x.joined h s.cycle ns).laneNext s.cycle)
          | .stall t, none => (undo t).modMe (fun x => { x with pts := h.pts, dev := { x.dev with vactm := h.dev.vactm } })
        | .stall t => undo t
        | .trap _ _ _ => s

/-- REPB_LANE_ISSUE. -/
def execRepbLaneIssue (h : Nat) (s : State) : Result :=
  let l := (s.hart h).lane
  if l.active && (s.hart h).status.executes && l.last != some s.cycle then .next { { s with cur := h }.laneIssue with cur := s.cur }
  else .next s

/-- The vector unit, the dispatch queue or the copy queue, which a hart shares with its lane (R201). -/
inductive IssueUnit | vector | dispatch | copies
  deriving DecidableEq, Repr

/-- The one that an instruction enters. -/
def unitOf (i : Instr) : Option IssueUnit :=
  match i with
  | .vld .. | .vldOff .. | .vst .. | .vstOff .. | .vlds .. | .vsts .. | .vgath .. | .vgathOff .. | .vscat .. | .vscatOff .. => some .vector
  | .msync => some .dispatch
  | .flushr .. | .ldsub .. | .lddrn .. => some .copies
  | _ =>
    if (vectorIssue i).isSome then some .vector
    else if (matrixSpec i).isSome then some .dispatch
    else if (copySpec i).isSome then some .copies
    else none

/-- The lane issues first in this cycle (R201): does its next instruction enter the unit that the hart's own needs? -/
def State.laneFirst (s : State) (i : Instr) : Bool :=
  let l := s.me.lane
  l.active && (match l.block[l.idx]? with
    | some op =>
      (unitOf i).isSome && unitOf i == unitOf op
        && (l.last == some s.cycle || (s.laneIssue.me.lane.iter != l.iter || s.laneIssue.me.lane.idx != l.idx))
    | none => false)

/-! ## Trace instructions (R364, R186, R187) -/

/-- TRMARK with a value. -/
def traceMark (v : Word) (s : State) : Act Unit :=
  let s := s.record 0 9 v
  let c := s.me.dev.trcfg
  if fld c 10 2 = 3 && fld v 0 32 = fld c 32 32 then .ok () (s.modMe (·.trigger s.cycle)) else .ok () s

/-- TRMARK. -/
def execTrmark (a : Reg) (s : State) : Result := ins [a] [] (fun s => traceMark (s.rx a) s) s

/-- TRMARK_I. -/
def execTrmarkI (imm : BitVec 24) (s : State) : Result := ins [] [] (traceMark (sx imm)) s

/-- TRTRIG. -/
def execTrtrig (s : State) : Result :=
  ins [] [] (fun s => if fld s.me.dev.trcfg 10 2 = 1 then .ok () (s.modMe (·.trigger s.cycle)) else .ok () s) s

end Sys2Proof.Machine
end

