-- ==== Sys2Proof/Machine/Images.lean ====
section
/-! DEFINITION. The eager part of a hart image (R172): what a stop writes, what a start and a resume load, positions and
rebinding (R110, R111), and the windows and the exclusion list that are read again from their tables (R127, R149, R173). -/

namespace Sys2Proof.Machine

/-- `n` bytes of a list of numbers of `w` bytes each, padded with zeros. -/
def packNats (w n : Nat) (l : List Nat) : List Byte := ((l.flatMap (bytesOf w)) ++ List.replicate n 0).take n

/-- A barrier binding in its image form (R346). -/
def BBind.words (b : BBind) : List Nat :=
  [(if b.bound then 1 else 0) + (if b.arrived then 2 else 0) + (if b.fseen then 4 else 0) + b.unit % 2 ^ 17 * 2 ^ 9
    + b.quad % 2 ^ 10 * 2 ^ 26, b.phase]

def BBind.ofWords (w0 w1 : Nat) : BBind :=
  { bound := natBit w0 0, arrived := natBit w0 1, fseen := natBit w0 2, quad := natBits w0 26 10, unit := natBits w0 9 17,
    phase := w1 }

/-- A ring binding in its image form (R418). -/
def QBind.words (b : QBind) : List Nat :=
  [(if b.bound then 1 else 0) + b.role % 4 * 4 + b.unit % 2 ^ 17 * 2 ^ 9 + b.quad % 2 ^ 10 * 2 ^ 26, b.config.toNat]

/-- A binding read back: the ring counts as bound through the own-vault alias when it lies in the quad's vault (log 21). -/
def QBind.ofWords (quad w0 w1 : Nat) : QBind :=
  { bound := natBit w0 0, role := natBits w0 2 2, quad := natBits w0 26 10, unit := natBits w0 9 17,
    config := BitVec.ofNat 32 w1, own := natBit w0 0 && natBits w0 26 10 == quad }

/-! ## Positions (R110) -/

/-- The slot of a tenant's code view that an address lies in. -/
def codeSlotOf (va : Nat) : Nat := (va - 0x10000000) / 0x1000000

/-- The first address of a slot. -/
def slotBase (j : Nat) : Nat := 0x10000000 + j * 0x1000000

/-- The translation a tenant's slot maps, by its number in the heap. -/
def State.slotTranslation (s : State) (asid j : Nat) : Option (Nat × Translation) :=
  match Store.find? s.slotMap (asid * 256 + j) with
  | some id => (Store.find? s.heap id).map (fun t => (id, t))
  | none => none

/-- The object hash and the position of a pc, and the translation it is in; zeros outside the code view (log 115 for a pc that has no
position). -/
def State.savedPc (s : State) (asid pc : Nat) : BitVec 256 × Nat × Nat :=
  if windowOf pc = .code then
    match s.slotTranslation asid (codeSlotOf pc) with
    | some (id, t) => (t.hash, Store.get 0 t.positions ((pc - 0x10000000) % 0x1000000), id)
    | none => (0, 0, 0)
  else (0, 0, 0)

/-- The offset of a position in a translation. -/
def Translation.offsetOf (t : Translation) (pos : Nat) : Option Nat :=
  firstSome (fun e : Nat × Nat => if e.2 = pos && 0x10000 ≤ e.1 then some e.1 else none) t.positions

/-- The slot in which a saved object is restored: the one of the task's entry, or the lowest that maps the object. -/
def State.restoreSlot (s : State) (asid entry : Nat) (hash : BitVec 256) : Option (Nat × Nat × Translation) :=
  firstSome (fun j =>
    match s.slotTranslation asid j with
    | some (id, t) => if t.hash = hash then some (j, id, t) else none
    | none => none) (codeSlotOf entry :: List.range 256)

/-! ## Saving (R172, R177) -/

/-- Bits of a list of token numbers. -/
def tokenMask (h : Hart) (p : Token → Bool) : Nat := (List.range 32).foldl (fun m n => if p (h.token n) then m + 2 ^ n else m) 0

/-- Image bytes 0x0300 to 0x043F: mask registers and bindings. -/
def Hart.bindingBytes (h : Hart) : List Byte :=
  packNats 8 64 ((List.range 8).map (fun n => (Store.get 0 h.k n).toNat))
    ++ packNats 8 128 ((List.range 8).flatMap (fun n => (Store.get ({} : BBind) h.b n).words))
    ++ packNats 8 128 ((List.range 8).flatMap (fun n => (Store.get ({} : QBind) h.q n).words))

/-- Image bytes 0x0500 to 0x06FF: the mailbox. -/
def Hart.mailBytes (h : Hart) : List Byte :=
  packNats 8 32 [h.mailWord.toNat] ++ packNats 32 480 (h.mail.map Mail.number)

/-- The saved CSRs, in order. -/
def Hart.csrBytes (h : Hart) : List Byte :=
  packNats 8 64 ([h.dev.rmode, h.dev.rflags, h.dev.lease, h.dev.vactm, h.dev.repidx, h.dev.gstat, h.dev.srseed, h.dev.trcfg].map
    (·.toNat))

/-- Image bytes 0x2500 to 0x254F: the repetition state. -/
def Hart.laneBytes (h : Hart) : List Byte :=
  let l := h.lane
  let on := l.active
  packNats 8 64 (if on then l.words.map (·.toNat) else [])
    ++ bytesOf 4 (if on then l.rs - l.iter else 0) ++ bytesOf 4 (if on then l.iter else 0)
    ++ bytesOf 1 (if on then l.ring else 0) ++ bytesOf 1 (if on then l.block.length else 0)
    ++ bytesOf 1 (if h.mpoison then 1 else 0) ++ List.replicate 5 0

/-- Image bytes 0x0000 to 0x04FF of a hart that stops, SAVED clear. -/
def State.eagerBytes (s : State) (h : Hart) (asid tcb : Nat) : List Byte :=
  let (hash, pos, _) := s.savedPc asid h.pc.toNat
  packNats 8 256 ((List.range 32).map (fun n => (Store.get 0 h.x n).toNat))
    ++ bytesOf 32 hash.toNat ++ bytesOf 4 pos ++ bytesOf 4 0 ++ bytesOf 8 h.pts ++ h.csrBytes
    ++ bytesOf 8 h.budget.toNat ++ bytesOf 8 h.fstat.toNat
    ++ bytesOf 8 tcb ++ bytesOf 8 ((if h.wdPending then 1 else 0) + (if h.priv.mip.getLsbD 18 then 2 else 0))
    ++ bytesOf 4 (tokenMask h (·.pending)) ++ bytesOf 4 (tokenMask h (·.fpend)) ++ List.replicate 8 0
    ++ packNats 8 256 ((List.range 32).map (fun n => if (h.token n).unjoined then (h.token n).time else 0)) ++ List.replicate 96 0
    ++ h.bindingBytes
    ++ packNats 8 128 (h.win.exclPtrs.map (·.1)) ++ packNats 1 64 (h.win.exclPtrs.map (·.2.toNat))

/-- Write bytes of a hart image at the homes of its lines. -/
def State.imageWrite (s : State) (c slot off : Nat) (bs : List Byte) (clk : Nat) : State :=
  match s.imageOf c with
  | some a => (s.devWrite (a + slot * 0x3000 + off) bs clk).2
  | none => s

/-- What stays with the slot when a task ends: mask registers, bindings, trcfg and the mailbox (R312, R291, R180). -/
def State.saveSlot (s : State) (h : Hart) (c slot : Nat) : State :=
  let s := s.imageWrite c slot 0x168 (bytesOf 8 h.dev.trcfg.toNat) h.pts
  let s := s.imageWrite c slot 0x300 h.bindingBytes h.pts
  s.imageWrite c slot 0x500 h.mailBytes h.pts

/-- The whole eager part (R177). -/
def State.saveEager (s : State) (h : Hart) (c slot asid tcb : Nat) : State :=
  let s := s.imageWrite c slot 0 (s.eagerBytes h asid tcb) h.pts
  let s := s.imageWrite c slot 0x500 h.mailBytes h.pts
  s.imageWrite c slot 0x2500 h.laneBytes h.pts

/-! ## Loading -/

/-- Bytes of a hart image. -/
def State.imageRead (s : State) (c slot off n : Nat) : List Byte :=
  match s.imageOf c with
  | some a => s.peekBytes (a + slot * 0x3000 + off) n
  | none => List.replicate n 0

/-- Does a line of the eager part of a hart image hold poison (R182)? -/
def State.eagerPoisoned (s : State) (c slot : Nat) : Bool :=
  match s.imageOf c with
  | some a => s.rangePoisoned (a + slot * 0x3000) 0x700 || s.rangePoisoned (a + slot * 0x3000 + 0x2500) 0x50
  | none => false

/-- A list of numbers of `w` bytes as a sparse register file. -/
def fileOf (w : Nat) : Nat → Nat → List Byte → List (Nat × Word)
  | _, 0, _ => []
  | i, n + 1, bs =>
    let v := BitVec.ofNat 64 (ofBytes (bs.take w))
    let r := fileOf w (i + 1) n (bs.drop w)
    if v = 0 then r else (i, v) :: r

/-- Mask registers, bindings, mailbox and trcfg of a slot reach the hart. -/
def State.loadSlot (s : State) (quad c slot : Nat) (h : Hart) : Hart :=
  let kb := s.imageRead c slot 0x300 320
  let w (i : Nat) : Nat := bytesAt kb (64 + 8 * i) 8
  let mb := s.imageRead c slot 0x500 512
  { h with
    k := fileOf 8 0 8 kb,
    b := (List.range 8).foldl (fun l n => Store.set {} l n (BBind.ofWords (w (2 * n)) (w (2 * n + 1)))) [],
    q := (List.range 8).foldl (fun l n => Store.set {} l n (QBind.ofWords quad (w (16 + 2 * n)) (w (17 + 2 * n)))) [],
    mail := (List.range (bytesAt mb 0 8 % 16)).map (fun i => Mail.ofNumber (bytesAt mb (32 + 32 * i) 32)),
    mailLost := natBit (bytesAt mb 0 8) 8,
    dev := { h.dev with trcfg := BitVec.ofNat 64 (s.imageNat c slot 0x168 8) &&& trcfgBits } }

/-- The format context a slot's next request is judged against: the engine's copy as the waiting requests will leave it. -/
def State.issueFmt (s : State) (quad c slot : Nat) : FmtCtx :=
  let q := s.quad quad
  q.dq.flatMap (·.2) |>.foldl (fun (f : FmtCtx) r =>
    if r.ctx = c && r.slot = slot then
      match r.op with
      | .mfmt _ => { f with fmt := r.xa }
      | .mupld _ _ => { f with ucode := r.xa, ust := r.xb.setWidth 32 }
      | _ => f
    else f) (s.fmtCtx quad c slot)

/-! ## Windows and exclusion (R127, R149, R173) -/

/-- Bytes of a tenant, as the device reads them by virtual address; none where they cannot be read. -/
def State.tenantBytes (s : State) (asid va n : Nat) : Option (List Byte) :=
  (linePieces va n (n + 1)).foldr (fun p rest =>
    match rest, s.engineTranslate 640 asid .load p.1 with
    | some bs, .ok q => if s.poisoned q.addr then none else some (s.peekBytes q.addr p.2 ++ bs)
    | _, _ => none) (some [])

/-- Entry i of a table of regions. -/
def State.tableEntry (s : State) (asid ptr i : Nat) : Option Region :=
  match s.tenantBytes asid (ptr + 288 * i) 288 with
  | some bs => Region.ofImage bs
  | none => none

/-- The entries of a window table, and the traps that its bad entries make: cause 5 for one that is not well formed, 24 for an
INEXACT one, with `tag` + i. -/
def State.windowTable (s : State) (asid ptr tag : Nat) : Option (List (Option Region)) × List (Nat × Word) :=
  if ptr = 0 then (none, [])
  else
    let es := (List.range 8).map (fun i =>
      match s.tableEntry asid ptr i with
      | none => (none, some (5, BitVec.ofNat 64 (ptr + 288 * i)))
      | some r => if r.inexact then (none, some (24, BitVec.ofNat 64 (tag + i))) else (some r, none))
    (some (es.map (·.1)), es.filterMap (·.2))

/-- The excluded regions under the entry masks, the masks without the entries that are not well formed, and their traps. -/
def State.exclusionOf (s : State) (asid : Nat) (l : List (Nat × BitVec 8)) :
    List (Nat × Region) × List (Nat × BitVec 8) × List (Nat × Word) :=
  l.foldl (fun acc e =>
    let es := (List.range 8).filter (fun i => e.2.getLsbD i) |>.map (fun i => (i, s.tableEntry asid e.1 i))
    let good := es.filterMap (fun x => x.2.map (fun r => (x.1, r)))
    let mask := good.foldl (fun m x => m + 2 ^ x.1) 0
    let bad := es.filterMap (fun x => if x.2.isNone then some (5, BitVec.ofNat 64 (e.1 + 288 * x.1)) else none)
    (acc.1 ++ good, acc.2.1 ++ [(e.1, BitVec.ofNat 8 mask)], acc.2.2 ++ bad)) ([], [], [])

end Sys2Proof.Machine
end

