-- ==== Sys2Proof/Machine/Tasks.lean ====
section
/-! DEFINITION. Task control blocks, submission, decrements, withdrawals and the ends of tasks (06, 07), and the task
instructions (15, R338 to R343). The rules on where tasks run stand in Machine/Placement.lean. -/

namespace Sys2Proof.Machine

/-! ## Task control blocks (R112 to R114) -/

/-- The part of a TCB that the dispatcher copies (R116). -/
def Tcb.ofBytes (bs : List Byte) : Tcb :=
  { entry := bytesAt bs 0 8, absorb := bytesAt bs 8 8, arg := bytesAt bs 0x10 8, gangLevel := bytesAt bs 0x1C 1,
    gangLog := bytesAt bs 0x1D 1, flags := BitVec.ofNat 16 (bytesAt bs 0x1E 2), budget := bytesAt bs 0x28 4,
    stage := bytesAt bs 0x2C 1, succ := bytesAt bs 0x30 8, succCount := bytesAt bs 0x38 2, prodCount := bytesAt bs 0x3A 2,
    prod := bytesAt bs 0x40 8, rdWin := bytesAt bs 0x48 8, wrWin := bytesAt bs 0x50 8 }

def Tcb.nonstrict (t : Tcb) : Bool := t.flags.getLsbD 0
def Tcb.gang (t : Tcb) : Bool := t.flags.getLsbD 1
def Tcb.staged (t : Tcb) : Bool := t.flags.getLsbD 2
def Tcb.any (t : Tcb) : Bool := t.flags.getLsbD 4
def Tcb.all (t : Tcb) : Bool := t.flags.getLsbD 5

/-- End states have bit 3 set (R115). -/
def endState (st : Nat) : Bool := natBit st 3

def State.task (s : State) (k : Nat) : Option Task := Store.find? s.disp.tasks k
def State.setTask (s : State) (k : Nat) (t : Task) : State :=
  s.modDisp (fun d => { d with tasks := Store.put d.tasks k t })
def State.modTask (s : State) (k : Nat) (f : Task → Task) : State :=
  match s.task k with
  | some t => s.setTask k (f t)
  | none => s

/-- The task the dispatcher holds at an address. -/
def State.heldTask (s : State) (asid addr : Nat) : Option (Nat × Task) :=
  s.disp.tasks.find? (fun t => t.2.asid == asid && t.2.addr == addr)

/-- Has the task's image been saved: is it suspended, or ready to resume? -/
def Task.saved (t : Task) : Bool := t.members.any (·.saved)

/-- RANK 0's hart, or the only hart; 0xFFF where no hart ran the task. -/
def Task.hartNo (t : Task) : Nat :=
  match t.members.find? (fun m => m.rank == 0) with
  | some m => m.hart
  | none => 0xFFF

/-- The hart that has run the task; 0xFFF before its first start (R158). -/
def Task.ranOn (t : Task) : Nat := if decide (t.state ≤ 3) && !t.saved then 0xFFF else t.hartNo

/-- Bits 31:0 of the status word while the dispatcher holds the task, or at its end (R114, R158). ABS says that the task retired with the
attribute. -/
def Task.statusLow (t : Task) (st cause hart : Nat) : Nat :=
  st + (if st = 9 then t.aprod % 16 * 16 else 0) + cause % 256 * 256 + hart % 4096 * 2 ^ 16
    + (if t.abs && (st == 8 || st == 9) then 2 ^ 28 else 0) + (if t.wd then 2 ^ 29 else 0) + (if t.xdec then 2 ^ 30 else 0)
    + (if t.slost then 2 ^ 31 else 0)

/-! ## The dispatcher's accesses to tenant memory -/

/-- The place of a TCB byte: in HBM and reachable by the tenant. -/
def State.tcbPlace (s : State) (asid : Nat) (acc : Access) (va : Nat) : Option Place :=
  match s.engineTranslate 640 asid acc va with
  | .ok p => if p.kind = .hbm then some p else none
  | _ => none

/-- Read a line at its home: the line and the time. -/
def State.homeLine (s : State) (asid va clk : Nat) : Option (Line × Nat × State) :=
  match s.tcbPlace asid .load va with
  | none => none
  | some p =>
    match s.engineRead p.home (p.addr / 64 * 64) clk asid with
    | (l, t, bad, s) => if bad then none else some (l, t, s)

/-- The 128 bytes of a TCB and the latest time of its lines. -/
def State.readTcb (s : State) (asid addr clk : Nat) : Option (List Byte × Nat × State) :=
  match s.homeLine asid addr clk with
  | none => none
  | some (l0, t0, s) =>
    match s.homeLine asid (addr + 64) clk with
    | none => none
    | some (l1, t1, s) => some (bytesOf 64 l0.toNat ++ bytesOf 64 l1.toNat, max t0 t1, s)

/-- Write `n` bytes inside a line at its home: the time. -/
def State.putTcb (s : State) (asid va n v clk : Nat) : Nat × State :=
  match s.tcbPlace asid .store va with
  | none => (clk, s)
  | some p =>
    let off := p.addr % 64
    s.engineWrite p.home (p.addr / 64 * 64) (byteMask off n) (BitVec.ofNat 512 (v % 2 ^ (8 * n) * 2 ^ (8 * off))) clk asid

/-- A list of 8-byte addresses. -/
def State.tenantList (s : State) (asid ptr n : Nat) : Option (List Nat) :=
  if n = 0 then some []
  else (s.tenantBytes asid ptr (8 * n)).map (fun bs => (List.range n).map (fun i => bytesAt bs (8 * i) 8))

/-- The producer list of a task. -/
def State.producers (s : State) (t : Task) : List Nat := (s.tenantList t.asid t.tcb.prod t.tcb.prodCount).getD []

/-! ## Submission (R117 to R119, R148) -/

/-- Members of a gang of a level (R133). -/
def State.gangSize (s : State) (level : Nat) : Nat :=
  match level with
  | 1 => 4 | 2 => 32 | 3 => 4 * s.grade.quads | 4 => 16 * s.grade.quads | _ => 1

/-- Is the address a stub of an object mapped for the tenant (R105)? -/
def State.stubOk (s : State) (asid va : Nat) : Bool :=
  windowOf va == .code &&
    (match s.slotTranslation asid (codeSlotOf va) with
     | some (_, t) =>
       let off := (va - 0x10000000) % 0x1000000
       !t.purged && off % 8 = 0 && off < 0x10000 && t.starts.getD (off / 2) false
     | none => false)

/-- The entries of a list are 64-byte aligned addresses in the HBM window. -/
def State.listOk (s : State) (asid ptr n : Nat) : Bool :=
  match s.tenantList asid ptr n with
  | some l => l.all (fun a => a % 64 = 0 && windowOf a == .hbm)
  | none => false

/-- A window table pointer is 0, or aligned and readable. -/
def State.tableOk (s : State) (asid ptr : Nat) : Bool :=
  ptr = 0 || (ptr % 32 = 0 && (s.tenantBytes asid ptr 2304).isSome)

/-- The number of the first check of R118, from check 2 on, that a TCB fails; 0 if it passes. -/
def State.tcbCheck (s : State) (asid addr : Nat) (bs : List Byte) : Nat :=
  let t := Tcb.ofBytes bs
  let u := s.tenant asid
  let none0 := t.absorb = 0
  if bytesAt bs 0x58 8 % 16 ≠ 0 || (s.heldTask asid addr).isSome then 2
  else if t.flags.toNat / 64 ≠ 0 || bytesAt bs 0x2E 2 ≠ 0 || bytesAt bs 0x3C 4 ≠ 0 then 3
  else if !s.stubOk asid t.entry || (!none0 && !s.stubOk asid t.absorb) then 4
  else if none0 == t.nonstrict || (t.nonstrict && t.prodCount = 0) || (t.any && t.all)
      || (!t.nonstrict && (t.any || t.all || t.prodCount ≠ 0)) then 5
  else if t.gang != (t.gangLevel != 0) || 4 < t.gangLevel
      || t.gangLog ≠ (match t.gangLevel with | 0 => 0 | 1 => 2 | 2 => 5 | _ => 0xFF)
      || (t.gangLevel = 4 && !u.any (fun u => natBit u.flags 1)) then 6
  else if t.budget = 0 || 7 < bytesAt bs 0x2D 1 || 1024 < t.succCount || 16 < t.prodCount
      || (t.gang && !u.any (fun u => s.gangSize t.gangLevel ≤ u.cap)) then 7
  else if t.staged != (t.stage != 0) || (t.staged && !u.any (fun u => (Store.find? u.stages t.stage).isSome)) then 8
  else if !s.listOk asid t.succ t.succCount || !s.listOk asid t.prod t.prodCount then 9
  else if !s.tableOk asid t.rdWin || !s.tableOk asid t.wrWin then 10
  else 0

/-- The absorbing condition (R146) of a task with `n` producers. -/
def Task.condition (t : Task) : Bool :=
  if t.tcb.any then !t.absorbed.isEmpty
  else if t.tcb.all then (List.range t.tcb.prodCount).all t.absorbed.contains
  else t.absorbed.contains 0

/-- fire_early (R147): the exclusion is fixed and the withdrawals are sent. -/
def State.fireEarly (s : State) (k aprod : Nat) : State :=
  match s.task k with
  | none => s
  | some t =>
    let ps := s.producers t
    let un := (List.range t.tcb.prodCount).filter (fun i => !t.finished.contains i)
    let table (p : Nat) : Nat :=
      match s.heldTask t.asid p with
      | some (_, x) => x.tcb.wrWin
      | none => ((s.tenantBytes t.asid (p + 0x50) 8).map ofBytes).getD 0
    let ex := (un.map (fun i => table (ps.getD i 0))).filter (· != 0)
    let s := s.setTask k
      { t with state := 2, early := true, aprod := aprod, excl := ex.map (fun p => (p, 0xFF)) }
    s.modDisp (fun d => { d with wds := d.wds ++ un.map (fun i => { target := ps.getD i 0, asid := t.asid, by_ := t.addr }) })

/-- The examination of a NONSTRICT task at submission (R148). -/
def State.examine (s : State) (k : Nat) : State :=
  match s.task k with
  | none => s
  | some t =>
    let ps := s.producers t
    let (s, t) := (List.range t.tcb.prodCount).foldl (fun (a : State × Task) i =>
      match a.1.homeLine t.asid (ps.getD i 0 + 0x40) 0 with
      | none => a
      | some (l, tm, s) =>
        let w := lineGet l 0x18 8
        let st := w % 16
        if (a.1.heldTask t.asid (ps.getD i 0)).isSome || (st ≠ 8 && st ≠ 9) then (s, a.2)
        else
          let u := { a.2 with finished := insertNat a.2.finished i, relTime := max a.2.relTime tm }
          (s, if natBit w 28 then { u with absorbed := insertNat u.absorbed i } else u)) (s, t)
    let s := s.setTask k t
    if t.condition then s.fireEarly k (t.absorbed.headD 0) else s

/-- Most tasks a die may hold (R119). -/
def dieTaskLimit : Nat := 65536

/-- Submit the TCB at an address (R117 to R120): the result of TSPAWN. `t0` is the time of the submitter's release. -/
def State.submit (s : State) (asid addr die : Nat) (launch : Option Nat) (notify : Option (Nat × Nat)) (t0 : Nat) :
    Nat × State :=
  if addr % 64 ≠ 0 || (s.tcbPlace asid .store addr).isNone || (s.tcbPlace asid .store (addr + 64)).isNone then (1, s)
  else
    match s.readTcb asid addr t0 with
    | none => (1, s)
    | some (bs, tm, s) =>
      let c := s.tcbCheck asid addr bs
      if c ≠ 0 then (c, s)
      else if dieTaskLimit ≤ (s.disp.tasks.filter (fun t => t.2.die == die)).length then (11, s)
      else
        let (_, s) := s.putTcb asid (addr + 0x58) 1 (natSetBits (bytesAt bs 0x58 1) 0 4 1) tm
        let k := s.disp.nextSub
        let b := Tcb.ofBytes bs
        let u := s.tenant asid
        let dl := bytesAt bs 0x20 8
        let n := bytesAt bs 0x18 2
        let t : Task :=
          { addr := addr, asid := asid, die := die, tcb := b, state := (if n = 0 then 2 else 1), count := n,
            demand := bytesAt bs 0x1A 2,
            deadline := (if dl = 0 then s.ns + (u.map (·.slack)).getD 0 else dl),
            cls := max (bytesAt bs 0x2D 1) ((u.map (·.floor)).getD 0), relTime := max t0 tm, launch := launch,
            notify := notify, xdec := s.disp.excess.contains (asid, addr) }
        let s := s.modDisp (fun d =>
          { d with nextSub := k + 1, tasks := Store.put d.tasks k t, excess := d.excess.filter (· != (asid, addr)) })
        let s := match launch with
          | some l => s.modDisp (fun d =>
              { d with launches := d.launches.map (fun x => if x.1 = l then (l, { x.2 with live := x.2.live + 1 }) else x) })
          | none => s
        (0, if b.nonstrict && n ≠ 0 then s.examine k else s)

/-! ## Harts of the dispatcher -/

/-- Is a hart the dispatcher's and idle? -/
def State.isFree (s : State) (h : Nat) : Bool :=
  s.hartPresent h && decide ((s.hart h).deaths < 2) && (match (s.hart h).status with
    | .free => true
    | .reset => s.rtu.boot == .released
    | _ => false)

/-- Does a tenant hold a hart (R123)? -/
def State.holdsHart (s : State) (asid h : Nat) : Bool :=
  ((s.hart h).ctx.isSome && s.asidOf h == asid) || (Store.find? s.disp.assigned h).any (fun a => a.1 == asid)

/-- The harts a tenant holds. -/
def State.heldHarts (s : State) (asid : Nat) : List Nat :=
  (((s.harts.map (·.1)) ++ s.disp.assigned.map (·.1)).foldl insertNat []).filter (s.holdsHart asid)

/-- Harts assigned to a stage. -/
def State.stageHeld (s : State) (asid stage : Nat) : Nat := (s.disp.assigned.filter (fun a => a.2 == (asid, stage))).length

/-- Has a stage a submitted task (R136)? -/
def State.stageBusy (s : State) (asid stage : Nat) : Bool :=
  s.disp.tasks.any (fun t => t.2.asid == asid && t.2.tcb.staged && t.2.tcb.stage == stage && t.2.ending.isNone)

/-- The neediest stage below its minimum that has a submitted task (R136). -/
def State.needyStage (s : State) (asid : Nat) : Option Nat :=
  match s.tenant asid with
  | none => none
  | some t => firstSome (fun e => if s.stageHeld asid e.1 < e.2.min && s.stageBusy asid e.1 then some e.1 else none) t.stages

def State.assign (s : State) (h asid stage : Nat) : State :=
  s.modDisp (fun d => { d with assigned := Store.put d.assigned h (asid, stage) })
def State.unassign (s : State) (h : Nat) : State := s.modDisp (fun d => { d with assigned := Store.del d.assigned h })

def State.modTenant (s : State) (asid : Nat) (f : Tenant → Tenant) : State :=
  match s.tenant asid with
  | some t => s.modDisp (fun d => { d with tenants := Store.put d.tenants asid (f t) })
  | none => s

def State.modStage (s : State) (asid stage : Nat) (f : Stage → Stage) : State :=
  s.modTenant asid (fun t =>
    match Store.find? t.stages stage with
    | some g => { t with stages := Store.put t.stages stage (f g) }
    | none => t)

/-- The gaining stage of a move that is pending for a hart (R137). -/
def State.pendingMove (s : State) (h : Nat) : Option (Nat × Nat × Nat) :=
  match Store.find? s.disp.assigned h with
  | none => none
  | some (asid, g) =>
    match s.tenant asid with
    | none => none
    | some t => ((Store.find? t.stages g).bind (·.move)).map (fun gain => (asid, g, gain))

/-- Carry a pending move of a hart out (R137). -/
def State.moveStage (s : State) (h : Nat) : State :=
  match s.pendingMove h with
  | some (asid, g, gain) => (s.modStage asid g (fun x => { x with move := none })).assign h asid gain
  | none => s

/-- A hart that its tenant has let go of: the end of a task is a move point for a stage hart; one without a stage goes to a needy one
(R136, R137). -/
def State.settleStage (s : State) (h asid : Nat) (ends : Bool) : State :=
  if (Store.find? s.disp.assigned h).isSome then (if ends then s.moveStage h else s)
  else
    match s.needyStage asid with
    | some g => s.assign h asid g
    | none => s

/-- What of a hart belongs to the task on it is cleared. -/
def Hart.clearTask (h : Hart) : Hart :=
  { h with
    task := none, ctx := none, slot := 0, stopReq := false, wdPending := false, tokens := [], win := {}, startTraps := [],
    lane := {}, resv := none, vwait := [], xwait := [], partials := [], entering := [], fstat := 0, mail := [], mailLost := false,
    mpoison := false, x := [], k := [], b := [], q := [], fmt := 0, ucode := 0, ust := 0, parkedCycles := 0,
    priv := { h.priv with mip := setFld h.priv.mip 18 1 0 },
    dev := { h.dev with dmrSize := 1, dmrRank := 0, dmrLevel := 0, zero := false } }

/-- A hart passes to the dispatcher, at the end of its task or before: to the task it was pre-empted for (R139), or as its tenant's stages
want it. -/
def State.freeHart (s : State) (h asid : Nat) (ends : Bool) : State :=
  let s := s.modHart h (fun x => { x.clearTask with status := .free })
  match (Store.find? s.disp.preempt h).bind s.task with
  | some t =>
    let s := s.unassign h
    if t.tcb.staged then s.assign h t.asid t.tcb.stage else s
  | none => s.settleStage h asid ends

/-- The transfers of a task that have completed are forgotten with it. -/
def State.dropDone (s : State) (k : Nat) : State :=
  { s with quads := s.quads.map (fun q =>
      (q.1, { q.2 with transfers := q.2.transfers.filter (fun t => !(t.task == some k && t.phase == .done)) })) }

/-! ## The end of a task (R116, R124, R132, R158) -/

/-- The class of a kernel by its intensity: 0 compute, 1 neutral, 2 memory (R132). -/
def kernelClass (flops bytes : Nat) : Nat :=
  if bytes = 0 || 384 * bytes ≤ flops then 0 else if 96 * bytes ≤ flops then 1 else 2

/-- A task of a kernel has ended RETIRED. -/
def Kernel.count (x : Kernel) (flops bytes : Nat) : Kernel :=
  if x.cls.isSome then x
  else
    let x := { x with retired := x.retired + 1, flops := x.flops + flops, bytes := x.bytes + bytes }
    if x.retired = 64 then { x with cls := some (kernelClass x.flops x.bytes) } else x

def State.countKernel (s : State) (t : Task) : State :=
  if !s.disp.classify then s
  else
    s.modDisp (fun d =>
      if d.kernels.any (fun x => x.asid == t.asid && x.entry == t.tcb.entry) then
        { d with kernels := d.kernels.map (fun x =>
            if x.asid = t.asid && x.entry = t.tcb.entry then x.count t.flops t.bytes else x) }
      else
        let x : Kernel := { asid := t.asid, entry := t.tcb.entry }
        { d with kernels := d.kernels ++ [x.count t.flops t.bytes] })

/-- What a task's end adds to its launch (R79, R80). -/
def Launch.count (l : Launch) (st cause hart : Nat) (byCtx : Bool) : Launch :=
  let l := { l with live := l.live - 1 }
  if st = 10 then { l with cancelled := l.cancelled + 1, anyCtxCancel := l.anyCtxCancel || byCtx }
  else if st = 11 then
    { l with faulted := l.faulted + 1, firstFault := l.firstFault.orElse (fun _ => some (hart, cause)) }
  else { l with retired := l.retired + 1 }

/-- The dispatcher's header of a device message (R354). -/
def deviceMail (kind : Nat) (p0 p1 time : Nat) : Mail :=
  { hdr := mailHeader kind 16 0 0xFFF, p0 := BitVec.ofNat 64 p0, p1 := BitVec.ofNat 64 p1, time := BitVec.ofNat 64 time }

def State.postMail (s : State) (c slot : Nat) (m : Mail) : State :=
  s.modDisp (fun d => { d with mails := d.mails ++ [{ ctx := c, slot := slot, mail := m }] })

/-- The end state is written and the dispatcher lets the task go (R116): `hart` is where it ended, which the launch's fault summary
names (R79); the status word names rank 0's hart of a gang (R114). -/
def State.finishEnd (s : State) (k st cause hart : Nat) (byCtx : Bool) : State :=
  match s.task k with
  | none => s
  | some t =>
    let (t1, s) := s.putTcb t.asid (t.addr + 0x18) 4 (t.count + t.demand * 2 ^ 16) (t.endTime + 1)
    let word := t.statusLow st cause (if hart = 0xFFF then hart else t.hartNo) + s.ns % 2 ^ 32 * 2 ^ 32
    let (t2, s) := s.putTcb t.asid (t.addr + 0x58) 8 word t1
    let s := match t.notify with
      | some (c, slot) => s.postMail c slot (deviceMail 1 t.addr word t2)
      | none => s
    let s := match t.launch with
      | some l => s.modDisp (fun d =>
          { d with launches := d.launches.map (fun x : Nat × Launch => if x.1 = l then (l, x.2.count st cause hart byCtx) else x) })
      | none => s
    let s := if st = 8 then s.countKernel t else s
    (s.modDisp (fun d => { d with tasks := Store.del d.tasks k })).dropDone k

/-- A task that retires sends its decrements; its end state is written when they have been applied (R124, R482). -/
def State.retireTask (s : State) (k : Nat) : State :=
  match s.task k with
  | none => s
  | some t =>
    let st := if t.early then 9 else 8
    let t := { t with ending := some st, endHart := t.hartNo }
    match s.tenantList t.asid t.tcb.succ t.tcb.succCount with
    | none => (s.setTask k { t with slost := true }).finishEnd k st 0 t.endHart false
    | some l =>
      let s := s.setTask k t
      if l.isEmpty then s.finishEnd k st 0 t.endHart false
      else
        s.modDisp (fun d => { d with decs := d.decs ++ l.map (fun a =>
          { target := a, asid := t.asid, producer := t.addr, abs := t.abs, time := t.endTime, sub := k }) })

/-- A hart of a task is released, at the task's end or with a gang that is suspended: what its slot keeps goes to the image. -/
def State.releaseHart (s : State) (h asid : Nat) (ends : Bool) : State :=
  let hh := s.hart h
  let s := match hh.ctx with
    | some c => s.saveSlot hh c hh.slot
    | none => s
  s.freeHart h asid ends

/-- No instruction of the hart is in progress: one that waits under R337 has had no effect yet, and an AMO that has asked for its
line will be performed. -/
def Hart.atBoundary (h : Hart) : Bool :=
  h.partials.isEmpty && !h.st.any (fun p => p.amo.isSome) && (match h.ld with
    | none => true
    | some p => p.kind == .watch || p.kind == .renew)

/-- A hart whose task has been ended from outside passes to the dispatcher once its stores are performed or have failed. -/
def State.stopHart (s : State) (h : Nat) : State := s.modHart h (fun x => { x with status := .stopping, task := none, stopReq := false })

/-- A member's hart is let go of when the whole task has ended: those that ran on are stopped at an instruction boundary,
one in S-mode or M-mode on its return to U-mode (R133, R177). -/
def State.letGo (s : State) (asid : Nat) (m : Member) : State :=
  let hh := s.hart m.hart
  if m.saved && !(hh.ctx == some m.ctx && hh.slot == m.slot && (hh.status == .taken || hh.status == .dispatched)) then s
  else
    match hh.status with
    | .ended => s.releaseHart m.hart asid true
    | .taken | .dispatched => s.freeHart m.hart asid true
    | .running | .waiting =>
      if hh.mode = .u && hh.atBoundary && (!hh.lane.active || hh.lane.idx == 0) then s.stopHart m.hart
      else s.modHart m.hart (fun x => { x with stopReq := true })
    | .parked => s.stopHart m.hart
    | _ => s.modHart m.hart (fun x => { x with task := none })

/-- End a task without decrements: CANCELLED or FAULTED. -/
def State.endTask (s : State) (k st cause hart : Nat) (byCtx : Bool) : State :=
  match s.task k with
  | none => s
  | some t =>
    let s := s.finishEnd k st cause hart byCtx
    t.members.foldl (fun s m => s.letGo t.asid m) s

/-! ## Withdrawals (R151 to R153) -/

/-- Withdraw from producer-list entries of a task. -/
def State.withdrawFrom (s : State) (t : Task) (idx : List Nat) : State :=
  let ps := s.producers t
  s.modDisp (fun d => { d with wds := d.wds ++ idx.map (fun i => { target := ps.getD i 0, asid := t.asid, by_ := t.addr }) })

/-- The entries of a task whose producers have not finished. -/
def Task.pendingEntries (t : Task) : List Nat := (List.range t.tcb.prodCount).filter (fun i => !t.finished.contains i)

/-- A member receives a withdrawal (R152): one whose state is already in its image finds it there when it resumes. -/
def State.withdrawAt (s : State) (t : Task) (by_ : Nat) (m : Member) : State :=
  let s :=
    if m.saved || (s.hart m.hart).status = .stopping then (s.imagePut m.ctx m.slot 0x188 8 (s.imageNat m.ctx m.slot 0x188 8 ||| 3) 0).2
    else s.modHart m.hart (fun x => { x with wdPending := true, priv := { x.priv with mip := setFld x.priv.mip 18 1 1 } })
  s.postMail m.ctx m.slot (deviceMail 2 t.addr by_ 0)

/-- deliver_withdrawal (R152): held for a task that is dispatched or suspended. -/
def State.deliverWithdrawal (s : State) (k by_ : Nat) : State :=
  match s.task k with
  | none => s
  | some t =>
    if t.state = 4 then t.members.foldl (fun s m => s.withdrawAt t by_ m) (s.setTask k { t with wd := true })
    else s.setTask k { t with wd := true, wdHeld := some by_ }

/-- A held withdrawal reaches the task when it runs. -/
def State.releaseWithdrawal (s : State) (k : Nat) : State :=
  match s.task k with
  | none => s
  | some t =>
    match t.wdHeld with
    | none => s
    | some b => t.members.foldl (fun s m => s.withdrawAt t b m) (s.setTask k { t with wdHeld := none })

/-- withdraw(q, c) at the producer's owning die (R151). -/
def State.applyWithdrawal (s : State) (w : Wd) : State :=
  match s.heldTask w.asid w.target with
  | none => s
  | some (k, t) =>
    if t.ending.isSome || t.demand = 0 then s
    else
      let t := { t with demand := t.demand - 1 }
      let s := s.setTask k t
      if t.demand ≠ 0 then s
      else if t.state = 1 || t.state = 2 then
        (s.withdrawFrom t (List.range t.tcb.prodCount)).endTask k 10 0 0xFFF false
      else s.deliverWithdrawal k w.by_

/-- WITHDRAW. -/
def execWithdraw (k : Nat) (s : State) : Result :=
  match s.disp.wds[k]? with
  | none => .next s
  | some w => .next ((s.modDisp (fun d => { d with wds := d.wds.eraseIdx k })).applyWithdrawal w)

/-! ## Decrements (R124, R147) -/

/-- The decrement of a task that the dispatcher holds. -/
def State.decTask (s : State) (k : Nat) (d : Dec) : State :=
  match s.task k with
  | none => s
  | some t =>
    if t.ending.isSome then s
    else if t.count = 0 then s.setTask k { t with xdec := true }
    else
      let mine := (List.range t.tcb.prodCount).filter (fun i => (s.producers t).getD i 0 == d.producer)
      let t := { t with count := t.count - 1, relTime := max t.relTime d.time, finished := mine.foldl insertNat t.finished }
      if t.state ≠ 1 then s.setTask k t
      else if t.count = 0 then s.setTask k { t with state := 2, gate := some d.sub }
      else if t.tcb.nonstrict && d.abs && !mine.isEmpty then
        let t := { t with absorbed := mine.foldl insertNat t.absorbed }
        if t.condition then (s.setTask k { t with gate := some d.sub }).fireEarly k (if t.tcb.any || t.tcb.all then mine.headD 0 else 0)
        else s.setTask k t
      else s.setTask k t

/-- The decrement of a TCB that is not submitted, in memory at its home; one that finds the count 0 is kept for its submission; an
address that no longer translates sets SLOST. -/
def State.decMemory (s : State) (d : Dec) : State :=
  match s.homeLine d.asid d.target d.time, s.tcbPlace d.asid .store d.target, s.homeLine d.asid (d.target + 64) d.time with
  | some (l, _, s1), some _, some (l1, _, _) =>
    let n := lineGet l 0x18 2
    if endState (lineGet l1 0x18 1 % 16) then s1
    else if n = 0 then
      s1.modDisp (fun x =>
        { x with excess := if x.excess.contains (d.asid, d.target) then x.excess else x.excess ++ [(d.asid, d.target)] })
    else (s1.putTcb d.asid (d.target + 0x18) 2 (n - 1) d.time).2
  | _, _, _ => s.modTask d.sub (fun t => { t with slost := true })

/-- The producer's end is written once all its decrements are applied. -/
def State.closeEnd (s : State) (sub : Nat) : State :=
  if s.disp.decs.any (fun d => d.sub == sub) then s
  else
    match s.task sub with
    | some t =>
      match t.ending with
      | some st => s.finishEnd sub st 0 t.endHart false
      | none => s
    | none => s

/-- DECREMENT: one to an address that no longer translates is dropped, and sets SLOST (R124). -/
def execDecrement (k : Nat) (s : State) : Result :=
  match s.disp.decs[k]? with
  | none => .next s
  | some d =>
    let s := s.modDisp (fun x => { x with decs := x.decs.eraseIdx k })
    let s := match s.tcbPlace d.asid .store d.target, s.heldTask d.asid d.target with
      | none, _ => s.modTask d.sub (fun t => { t with slost := true })
      | some _, some (t, _) => s.decTask t d
      | some _, none => s.decMemory d
    .next (s.closeEnd d.sub)

/-! ## The end of a task on its hart (R338, R341, R157) -/

/-- The agents of the current hart's task have completed (R338). -/
def State.agentsDone (s : State) (k : Nat) : Bool :=
  !s.me.lane.active
    && s.quads.all (fun q => q.2.transfers.all (fun t => t.task != some k || t.slot != s.me.slot || t.ctx != s.me.ctx || t.phase == .done)
      && q.2.requests.all (fun r => !s.mine r))

/-- The time of the latest of them. -/
def State.agentsTime (s : State) (k : Nat) : Nat :=
  s.quads.foldl (fun m q => q.2.transfers.foldl (fun m t =>
    if t.task = some k && t.slot = s.me.slot && t.ctx = s.me.ctx then max m t.clk else m) m) 0

/-- Wait for the task's agents and join them; a token with FPEND set traps (R168). -/
def State.joinAgents (s : State) (k : Nat) : Act Unit :=
  if !s.agentsDone k then .stall s
  else
    let h := s.me
    match (List.range 32).find? (fun n => (h.token n).fpend) with
    | some n =>
      .trap 28 (report (h.token n).status 0 n)
        (s.modMe (fun x => (x.raise (s.agentsTime k)).setToken n { h.token n with fpend := false, unjoined := false }))
    | none =>
      .ok () (s.modMe (fun x =>
        { x.raise (s.agentsTime k) with tokens := x.tokens.map (fun t => (t.1, { t.2 with unjoined := false })) }))

/-- The current hart's part of its task has ended: a gang member waits for the others (R338, R157). Where the task has been ended meanwhile
the hart is let go. -/
def State.memberEnds (s : State) (k : Nat) (abs cancel : Bool) : State :=
  match s.task k with
  | none => s.stopHart s.cur
  | some t =>
    let h := s.me
    let ms := t.members.map (fun m => if m.hart = s.cur then { m with ended := true, cancelled := cancel } else m)
    let rank0 := t.members.any (fun m => m.hart == s.cur && m.rank == 0)
    let t := { t with members := ms, endTime := max t.endTime h.pts, abs := if rank0 then abs else t.abs }
    let s := s.setTask k t
    let s := s.modMe (fun x => { x with status := .ended, pc := x.npc, instret := x.instret + 1, partials := [], entering := [] })
    if ms.all (·.ended) then
      if ms.any (·.cancelled) then
        (s.withdrawFrom t t.pendingEntries).endTask k 10 0 t.hartNo false
      else ms.foldl (fun s m => s.releaseHart m.hart t.asid true) (s.retireTask k)
    else s

/-- TRETIRE and TRETIRE.A (R338). The result word is stored once, then the release follows it. -/
def retire (a : Reg) (abs : Bool) (s : State) : Result :=
  let h := s.me
  match h.task with
  | none => ins [] [] (fun s => illegal s) s
  | some k =>
    if h.mode != .u then ins [] [] (fun s => illegal s) s
    else
      let addr := ((s.task k).map (·.addr)).getD 0
      let act := (s.joinAgents k).andThen fun _ s =>
        let put := a != 0 && (s.me.dev.dmrLevel = 0 || s.me.dev.dmrRank = 0)
        (if put then
          s.once (2 ^ 81) (fun s => (s.store (BitVec.ofNat 64 (addr + 0x60)) 8 (s.rx a).toNat).andThen fun _ s => .ok 0 s)
         else .ok 0 s).andThen fun _ s => s.releaseSystem
      match act with
      | .ok _ s => .next (s.memberEnds k abs false)
      | .stall s => .next s
      | .trap c v s => .next (s.trapFrom h.pts c v)

/-- TRETIRE. -/
def execTretire (a : Reg) (s : State) : Result := retire a false s

/-- TRETIRE_A. -/
def execTretireA (a : Reg) (s : State) : Result := retire a true s

/-! ## Submission by a hart (R340) -/

/-- TSPAWN at an address. -/
def spawn (d : Reg) (addr : Word) (note : Bool) (s : State) : Act Unit :=
  (s.releasePackage).andThen fun _ s =>
    let h := s.me
    match h.task, h.ctx with
    | some k, some c =>
      let l := (s.task k).bind (·.launch)
      let (r, s) := s.submit (s.asidOf s.cur) addr.toNat (dieOf s.cur) l (if note then some (c, h.slot) else none) h.pts
      .ok () (s.wx d (BitVec.ofNat 64 r))
    | _, _ => .ok () (s.wx d 1)

/-- TSPAWN. -/
def execTspawn (d a : Reg) (s : State) : Result := ins [d, a] [] (fun s => spawn d (s.rx a) false s) s

/-- TSPAWN_N. -/
def execTspawnN (d a : Reg) (s : State) : Result := ins [d, a] [] (fun s => spawn d (s.rx a) true s) s

/-- TSPAWN_OFF. -/
def execTspawnOff (d a : Reg) (off : BitVec 24) (s : State) : Result := ins [d, a] [] (fun s => spawn d (s.ea a off) false s) s

/-- TSPAWN_N_OFF. -/
def execTspawnNOff (d a : Reg) (off : BitVec 24) (s : State) : Result := ins [d, a] [] (fun s => spawn d (s.ea a off) true s) s

/-! ## TCANCEL, TSTAT and the small ones (R341 to R343) -/

/-- The faults that an 8-byte load would raise; nothing is loaded (R341). -/
def State.loadFaults (s : State) (va : Word) : Act Unit :=
  if s.excluded va.toNat 8 then .trap 25 va s
  else if va.toNat % 8 ≠ 0 then .trap 4 va s
  else
    (s.resolve .load va.toNat).andThen fun p s =>
      let die := match p.kind with
        | .vault => dieOfQuad p.home
        | .hbm | .hostC => dieOfHome p.home
        | .hostNC => portDie p.home
      match (match p.kind with
        | .hostNC => s.portBad p.home
        | .hostC => (s.portBad (p.home - 0x3000)).orElse (fun _ => s.linkTarget (dieOf s.cur) die)
        | _ => s.linkTarget (dieOf s.cur) die) with
      | some t => s.deadTrap 5 va t
      | none =>
      if s.poisoned p.addr then .trap 29 va s
      else .ok () s

/-- TCANCEL of a task other than the hart's own. -/
def cancelOther (d : Reg) (addr : Nat) (s : State) : State :=
  match s.heldTask (s.asidOf s.cur) addr with
  | some (k, t) =>
    if t.ending.isSome then s.wx d 3
    else if t.state = 1 || t.state = 2 then
      ((s.withdrawFrom t t.pendingEntries).endTask k 10 0 0xFFF false).wx d 0
    else s.wx d 2
  | none =>
    let st := match s.tcbPlace (s.asidOf s.cur) .load (addr + 0x58) with
      | some p => s.peekNat p.addr 1 % 16
      | none => 0
    s.wx d (if addr % 64 = 0 && decide (8 ≤ st) && decide (st ≤ 11) then 3 else 4)

/-- TCANCEL. -/
def execTcancel (d a : Reg) (s : State) : Result :=
  let h := s.me
  let own := match h.task with
    | some k => if ((s.task k).map (·.addr)) = some (s.rx a).toNat then some k else none
    | none => none
  match own with
  | none => ins [d, a] [] (fun s => (s.loadFaults (s.rx a)).andThen fun _ s => .ok () (cancelOther d (s.rx a).toNat s)) s
  | some k =>
    if [a, d].any (fun r => h.xBusy r.toNat) then .next s
    else
      match (s.loadFaults (s.rx a)).andThen (fun _ s =>
        if !s.agentsDone k then .stall s else s.releaseSystem) with
      | .ok _ s => .next (s.memberEnds k false true)
      | .stall s => .next s
      | .trap c v s => .next (s.trapFrom h.pts c v)

/-- A load that misses in L1 whatever the L1 holds (R482): a shared copy is dropped first, once. -/
def State.missLoad (s : State) (key : Nat) (va : Word) (n : Nat) : Act Nat :=
  s.once key (fun s =>
    if s.excluded va.toNat n then .trap 25 va s
    else if va.toNat % n ≠ 0 then .trap 4 va s
    else
      (s.resolve .load va.toNat).andThen fun p s =>
        let k := l1Key (lineNo p.addr) p.home
        (s.once (key + 1) (fun s =>
          .ok 0 (s.modMe (fun h => match h.l1At k with
            | some l => if l.st = .shared then h.dropL1 k else h
            | none => h)))).andThen fun _ s => s.load va n)

/-- TSTAT (R342, R482). -/
def execTstat (d a : Reg) (s : State) : Result :=
  ins [d, a] [] (fun s =>
    let va := s.rx a
    match s.heldTask (s.asidOf s.cur) va.toNat with
    | some (_, t) =>
      .ok () (s.wx d (BitVec.ofNat 64 (t.demand * 2 ^ 48 + t.count * 2 ^ 32 + t.statusLow t.state 0
        (if t.members.isEmpty then 0 else t.hartNo))))
    | none =>
      (s.missLoad (2 ^ 82) (va + 0x18) 4).andThen fun cd s =>
      (s.missLoad (2 ^ 82 + 2) (va + 0x58) 8).andThen fun w s =>
        .ok () (s.wx d (BitVec.ofNat 64 (natBits cd 16 16 * 2 ^ 48 + natBits cd 0 16 * 2 ^ 32 + w % 2 ^ 32)))) s

/-- A value of the running task, 0 with no task on the hart. -/
def taskValue (d : Reg) (f : Hart → Word) (s : State) : Result :=
  ins [d] [] (fun s => .ok () (s.wx d (if s.me.task.isSome then f s.me else 0))) s

/-- TWDCHK. -/
def execTwdchk (d : Reg) (s : State) : Result := taskValue d (fun h => if h.wdPending then 1 else 0) s

/-- TBUDGET. -/
def execTbudget (d : Reg) (s : State) : Result := taskValue d (fun h => zx h.dev.remain) s

/-- TSELF. -/
def execTself (d : Reg) (s : State) : Result :=
  ins [d] [] (fun s => .ok () (s.wx d (match s.me.task with
    | some k => BitVec.ofNat 64 (((s.task k).map (·.addr)).getD 0)
    | none => 0))) s

/-- DRANK. -/
def execDrank (d : Reg) (s : State) : Result := taskValue d (fun h => BitVec.ofNat 64 h.dev.dmrRank) s

/-- DSIZE: 1 with no task on the hart. -/
def execDsize (d : Reg) (s : State) : Result :=
  ins [d] [] (fun s => .ok () (s.wx d (if s.me.task.isSome then BitVec.ofNat 64 s.me.dev.dmrSize else 1))) s

end Sys2Proof.Machine
end

