-- ==== Sys2Proof/Machine/Contexts.lean ====
section
/-! DEFINITION. Stopping and saving harts (R177 to R183), eviction and fills of context images (R175, R182), the release of a
context and its scrub (R62 to R66, R92), and the instructions CTXPRE, CTXREL, MCSET and AUDAPP (R365 to R368). -/

namespace Sys2Proof.Machine

/-! ## Stops at instruction boundaries -/

/-- An LWAIT is given up: its watch or its held renewal goes (R337). -/
def State.cancelWait (s : State) (h : Nat) : State :=
  match (s.hart h).ld with
  | none => s
  | some p =>
    if p.kind = .watch then
      { s with quads := s.quads.map (fun q : Nat × Quad => (q.1, { q.2 with watches := q.2.watches.filter (fun w => w.hart != h) })) }.modHart h
        (fun x => { x with ld := none })
    else if p.kind = .renew then
      { s with
        homes := s.homes.map (fun m : Nat × Home => (m.1, { m.2 with held := m.2.held.filter (fun r => r.hart != h) })),
        msgs := s.msgs.filter (fun m => match m.2 with
          | .read src _ _ _ _ _ _ mark _ => !(src == h && mark != 0)
          | .readReply dst _ _ _ _ _ _ _ marked _ => !(dst == h && marked)
          | _ => true) }.modHart h (fun x => { x with ld := none })
    else s

/-! ## Requesting stops -/

/-- The harts of a task's members that run, trapped or not. -/
def State.runningMembers (s : State) (t : Task) : List Member :=
  t.members.filter (fun m => !m.ended && !m.saved && (s.hart m.hart).status.executes)

/-- Every running member of a task is asked to stop (R177, R181). -/
def State.stopTask (s : State) (k : Nat) : State :=
  match s.task k with
  | none => s
  | some t => (s.runningMembers t).foldl (fun s m => s.modHart m.hart (fun x => { x with stopReq := true })) s

/-- The tasks that hold a slot of a context. -/
def State.tasksOn (s : State) (c : Nat) : List (Nat × Task) :=
  s.disp.tasks.filter (fun t => t.2.ending.isNone && t.2.members.any (fun m => m.ctx == c))

/-- Is a stop of a member of the task still to be completed? -/
def State.stopsPending (s : State) (t : Task) : Bool :=
  t.members.any (fun m => (s.hart m.hart).task.isSome && ((s.hart m.hart).stopReq || (s.hart m.hart).status == .stopping))

/-! ## The release of a context (R62, R92) -/

def State.modContext (s : State) (c : Nat) (f : Context → Context) : State :=
  match s.context c with
  | some x => s.modDisp (fun d => { d with contexts := Store.put d.contexts c (f x) })
  | none => s

/-- The live contexts of an ASID. -/
def State.liveContexts (s : State) (asid : Nat) : List (Nat × Context) :=
  s.disp.contexts.filter (fun c => c.2.asid == asid && c.2.live)

/-- A gang that is being placed gives the harts it has taken back (R133). -/
def State.untake (s : State) (k : Nat) (t : Task) : State :=
  let s := t.members.foldl (fun s m => if (s.hart m.hart).status = .taken then s.freeHart m.hart t.asid false else s) s
  s.modTask k (fun t => { t with gangTaken := none, members := if t.saved then t.members else [] })

/-- A task that holds a slot of a released context: a running one is stopped, the others end CANCELLED. -/
def State.releaseTask (s : State) (k : Nat) (t : Task) : State :=
  if t.state = 4 && !(s.runningMembers t).isEmpty then s.stopTask k
  else if s.stopsPending t then s
  else if t.state = 2 && !t.saved then s.untake k t
  else s.endTask k 10 0 t.ranOn true

/-- Argument slots that a launch has taken are free again. -/
def State.freeArgs (s : State) (l : Nat) : State :=
  match Store.find? s.disp.launches l with
  | none => s
  | some x =>
    let s := match x.slotIdx with
      | some i => s.modTenant x.asid (fun t => { t with argUsed := t.argUsed.filter (· != i) })
      | none => s
    s.modDisp (fun d => { d with launches := Store.put d.launches l { x with slotIdx := none } })

/-- The launches of an ASID whose last context is released (R92): those not submitted read no more arguments, and the tasks
that do not run are CANCELLED. -/
def State.endLaunches (s : State) (asid : Nat) : State :=
  let ls := s.disp.launches.filter (fun l => l.2.asid == asid && l.2.phase != .done)
  let s := ls.foldl (fun s l =>
    if l.2.phase = .submitted then
      s.modDisp (fun d => { d with launches := Store.put d.launches l.1 { l.2 with ended := true } })
    else
      let s := s.freeArgs l.1
      let s := { s with hostReqs := s.hostReqs.filter (fun r => match r.2 with | .args x _ => x != l.1 | _ => true) }
      s.modDisp (fun d => { d with launches := d.launches.map (fun x : Nat × Launch =>
        if x.1 = l.1 then (x.1, { x.2 with ended := true, phase := .submitted }) else x) })) s
  let idle := s.disp.tasks.filter (fun t => t.2.asid == asid && t.2.ending.isNone && decide (t.2.state ≤ 2) && !t.2.saved)
  idle.foldl (fun s t => (s.untake t.1 t.2).endTask t.1 10 0 0xFFF true) s

/-- Transfers that a release ends at once: paused copies with their page-fault status (R169), and those that work on a ring
(R421). -/
def State.releaseTransfers (s : State) (c : Nat) : State :=
  (s.allTransfers.filter (fun t => t.ctx == some c && t.phase != .done && t.phase != .finished)).foldl (fun s t =>
    if t.paused then
      let cause := firstSome (fun r : TfRec => if r.transfer = t.id then some r.cause else none) (s.hart t.hart).tfq
      s.endTransfer t.id (if cause = some 13 then xsSrcPage else xsDstPage)
    else if t.kind.stream then s.endTransfer t.id xsCancelled
    else s) s

/-- The start of a release. -/
def State.startRelease (s : State) (c : Nat) : State :=
  match s.context c with
  | none => s
  | some x =>
    let last := (s.liveContexts x.asid).length == 1
    let s := s.modContext c (fun x => { x with release := some { last := last } })
    let s := (s.tasksOn c).foldl (fun s t => s.releaseTask t.1 t.2) s
    let s := s.releaseTransfers c
    if last then s.endLaunches x.asid else s

/-! ## Poisoned images (R66, R182) -/

/-- A save or a fill met an uncorrectable error: POISON is set, the tasks of the context end FAULTED, the context is
released. -/
def State.imagePoison (s : State) (c h : Nat) (slots : List Nat) (addr : Nat) : State :=
  match s.context c with
  | none => s
  | some x =>
    let s := slots.foldl (fun s i => (s.imagePut c i 0x124 4 (natSetBits (s.imageNat c i 0x124 4) 1 1 1) 0).2) s
    let s := s.audit 0x0032 h x.asid (payload3 x.asid h addr)
    let s := (s.tasksOn c).foldl (fun s t => s.endTask t.1 11 29 t.2.ranOn false) s
    if x.live then s.startRelease c else s

/-! ## Stopping a hart (R177) -/

/-- A stop is pending at an instruction boundary in U-mode: the hart issues nothing more (R165, R177). -/
def Hart.stopDue (h : Hart) : Bool := h.stopReq && h.mode == .u && h.status.executes && h.atBoundary

/-- May the stop act now: has the lane finished the iteration it was issuing (R177)? -/
def Hart.stopReady (h : Hart) : Bool := h.stopDue && (!h.lane.active || h.lane.idx == 0)

/-- The stop: the eager part of the image is written. -/
def State.stopNow (s : State) (h : Nat) : State :=
  let s := s.cancelWait h
  let hh := s.hart h
  match hh.task, hh.ctx with
  | some k, some c =>
    match s.task k with
    | some t =>
      let s := s.saveEager hh c hh.slot t.asid t.addr
      let pc := hh.pc.toNat
      let x := (s.savedPc t.asid pc).2.2
      let j := if windowOf pc = .code then some (codeSlotOf pc) else none
      let s := s.setTask k { t with members := t.members.map (fun m =>
        if m.hart = h then { m with xlat := x, codeSlot := j, traps := hh.startTraps } else m) }
      s.modHart h (fun y => { y with status := .stopping, stopReq := false, resv := none, lane := {}, parkedCycles := 0 })
    | none => s.stopHart h
  | _, _ => s.stopHart h

/-- STOP_REQUEST. -/
def execStopRequest (h : Nat) (s : State) : Result :=
  if (s.hart h).stopReady then .next (s.stopNow h) else .next s

/-- Members that had ended before their gang was stopped give their harts up with it (R157, R181). -/
def State.saveEnded (s : State) (k : Nat) : State :=
  match s.task k with
  | none => s
  | some t =>
    let old := t.members.filter (fun m => m.ended && !m.saved)
    let s := s.setTask k { t with members := t.members.map (fun m => { m with saved := true }) }
    old.foldl (fun s m => s.releaseHart m.hart t.asid false) s

/-- A member has written SAVED: with the last one the task is suspended, or ends if its context is being released. -/
def State.memberSaved (s : State) (k h : Nat) : State :=
  match s.task k with
  | none => s
  | some t =>
    let ms := t.members.map (fun m => if m.hart = h then { m with saved := true } else m)
    let s := s.setTask k { t with members := ms }
    if !ms.all (fun m => m.saved || m.ended) then s
    else
      let s := (s.saveEnded k).modTask k (fun t => { t with state := 5 })
      let released := ms.any (fun m => match s.context m.ctx with
        | some x => !x.live
        | none => true)
      if released then s.endTask k 10 0 t.hartNo true else s

/-- May SAVED be written: has every posted store been acknowledged, or failed? -/
def Hart.settled (h : Hart) : Bool := h.sb.isEmpty && h.unacked == 0 && h.st.isNone

/-- SAVE_COMPLETE. -/
def execSaveComplete (h : Nat) (s : State) : Result :=
  let hh := s.hart h
  if hh.status != .stopping || !hh.settled then .next s
  else
    match hh.task.filter (fun k => (s.task k).isSome), hh.ctx with
    | some k, some c =>
      let asid := s.asidOf h
      let t := max hh.pts hh.ackTime
      let (_, s) := s.imagePut c hh.slot 0x128 8 t t
      let (_, s) := s.imagePut c hh.slot 0x178 8 hh.fstat.toNat t
      let bad := s.eagerPoisoned c hh.slot
      let (_, s) := s.imagePut c hh.slot 0x124 4 1 (t + 1)
      let s := (s.freeHart h asid false).memberSaved k h
      .next (if bad then s.imagePoison c h [hh.slot] ((s.imageOf c).getD 0 + hh.slot * 0x3000) else s)
    | _, _ => .next (s.releaseHart h (s.asidOf h) true)

/-! ## Eviction and fills (R175, R176, R178) -/

/-- The bytes of a resident register in its image form. -/
def SlotRegs.bytesOfCode (r : SlotRegs) (c : Nat) : List Byte :=
  if c < 32 then bytesOf 64 (Store.get 0 r.v c).toNat
  else if c < 48 then (Store.get {} r.g (c - 32)).image
  else bytesOf 64 (Store.get 0 r.h (c - 48)).toNat

/-- A register of a slot leaves its place: written if dirty. -/
def State.evictSlotReg (s : State) (c slot code : Nat) : State :=
  let key := 2 * (c * 4 + slot)
  let r : SlotRegs := Store.get {} s.slotRegs key
  if !r.has code then s
  else
    let s := if r.dirty.contains code then s.imageWrite c slot (codePlace code).1 (r.bytesOfCode code) 0 else s
    let r' : SlotRegs :=
      { r with
        v := if code < 32 then Store.del r.v code else r.v,
        g := if 32 ≤ code && code < 48 then Store.del r.g (code - 32) else r.g,
        h := if 48 ≤ code then Store.del r.h (code - 48) else r.h,
        dirty := r.dirty.filter (· != code) }
    { s with slotRegs := Store.put s.slotRegs key r' }

/-- The lines of a slot are written back and dropped (R176). -/
def State.flushSlot (s : State) (c slot : Nat) : State :=
  let key := 2 * (c * 4 + slot)
  let s := (List.range 64).foldl (fun s code => s.evictSlotReg c slot code) s
  { s with slotRegs := Store.del s.slotRegs key }

/-- The hart that holds the resident lines of a slot. -/
def State.linesAt (s : State) (c slot : Nat) : Option Nat := (Store.get ({} : SlotRegs) s.slotRegs (2 * (c * 4 + slot))).at_

/-- A task comes to a hart: lines of its slot that another hart holds are written back first (R176), and the context is no
longer evictable. -/
def State.claimSlot (s : State) (c slot h : Nat) : State :=
  let s := if (s.linesAt c slot).any (· != h) then s.flushSlot c slot else s
  let key := 2 * (c * 4 + slot)
  let r : SlotRegs := Store.get {} s.slotRegs key
  let s := { s with slotRegs := Store.put s.slotRegs key { r with at_ := some h } }
  s.setTiles c { s.tiles c with evictable := false, leaving := [] }

/-- Does a hart execute a task on this slot? -/
def State.slotLive (s : State) (c slot : Nat) : Bool :=
  s.harts.any (fun x => x.2.ctx == some c && x.2.slot == slot && x.2.status != .stopping)

/-- The same register of the stopped slots of other contexts whose lines the hart also holds gives its place up to a fill (R175). -/
def State.evictRivals (s : State) (c slot code : Nat) : State :=
  match s.linesAt c slot with
  | none => s
  | some h =>
    s.slotRegs.foldl (fun s r =>
      let c' := r.1 / 8
      let i := r.1 / 2 % 4
      if r.1 % 2 = 0 && r.2.at_ == some h && c' != c && !s.slotLive c' i then s.evictSlotReg c' i code else s) s

/-- A register is filled from its image bytes. -/
def SlotRegs.fill (r : SlotRegs) (code : Nat) (bs : List Byte) : SlotRegs :=
  if r.has code then r
  else if code < 32 then { r with v := Store.put r.v code (BitVec.ofNat 512 (ofBytes bs)) }
  else if code < 48 then { r with g := Store.put r.g (code - 32) ((Region.ofImage bs).getD {}) }
  else { r with h := Store.put r.h (code - 48) (BitVec.ofNat 512 (ofBytes bs)) }

/-- IMAGE_LINE_FILL: a register of slot 0 to 3, or with `slot` 4 a tile or accumulator register. -/
def execImageLineFill (c slot reg : Nat) (s : State) : Result :=
  if !s.fills.contains (c, (slot, reg)) then .next s
  else
    let s := { s with fills := s.fills.filter (· != (c, (slot, reg))) }
    match s.imageOf c with
    | none => .next s
    | some a =>
      if slot = 4 then
        let h := ((s.harts.find? (fun x => x.2.ctx == some c)).map (·.1)).getD 0xFFF
        if s.rangePoisoned (a + tileOffset reg) (tileBytes reg) then .next (s.imagePoison c h [0, 1, 2, 3] (a + tileOffset reg))
        else .next s
      else
        let off := a + slot * 0x3000 + (codePlace reg).1
        if s.rangePoisoned off (codePlace reg).2 then
          .next (s.imagePoison c ((s.slotHart c slot).getD 0xFFF) [slot] off)
        else
          let s := s.evictRivals c slot reg
          let key := 2 * (c * 4 + slot)
          let r : SlotRegs := Store.get {} s.slotRegs key
          .next { s with slotRegs := Store.put s.slotRegs key (r.fill reg (s.imageRead c slot (codePlace reg).1 (codePlace reg).2)) }

/-- Does the matrix pipeline hold a request of a context's harts, or one that works on its registers? -/
def State.matrixHolds (s : State) (c : Nat) : Bool := s.pendingRequests.any (fun r => r.ctx == c || r.ictx == c)

/-- CONTEXT_DRAIN: with no hart of the context running and the pipeline drained, its engine state is in its image and its tile
registers are evictable (R174, R178). -/
def execContextDrain (c : Nat) (s : State) : Result :=
  if s.matrixHolds c || [0, 1, 2, 3].any (s.slotLive c) || (s.context c).isNone then .next s
  else
    let s := s.saveEngine c
    .next (s.setTiles c { s.tiles c with evictable := true })

/-! ## The scrub (R62 to R66) -/

/-- May the scrub begin: does no task hold a slot, and are the transfers and requests of the context finished? -/
def State.scrubReady (s : State) (c : Nat) : Bool :=
  (s.tasksOn c).isEmpty && !s.harts.any (fun x => x.2.ctx == some c) && !s.matrixHolds c
    && s.allTransfers.all (fun t => t.ctx != some c || t.phase == .done)

/-- The ASID number that a block under scrub carries: no context has it. -/
def scrubAsid (asid : Nat) : Nat := 65536 + asid

/-- The blocks that the scrub of a release covers on the context's quad: every block of the ASID, or with another live context
there only the stacks of the released context's slots. -/
def State.scrubBlocks (s : State) (c : Nat) (x : Context) : List Nat :=
  let others := s.disp.contexts.any (fun o => o.1 != c && o.2.asid == x.asid && o.2.quad == x.quad && o.2.live)
  ((s.quad x.quad).blocks.filter (fun b =>
    b.2.asid == x.asid && (match b.2.kind with
      | .free => false
      | .data => !others
      | .stack _ => true))).map (·.1)

/-- A zeroing write of a quad's sequencer that fails is recorded, burns the ASID and takes the quad out of service (R65). -/
def State.scrubCheck (s : State) (asid q : Nat) : State :=
  let r := Config.scrubFails s.free q
  let s := { s with free := s.free + 1 }
  match r with
  | none => s
  | some bank =>
    ((s.audit 0x0043 0xF000 asid (payload3 asid q bank)).modDisp (fun d => { d with burnt := insertNat d.burnt asid })).modQuad q
      (fun q => { q with outOfService := true })

/-- SCRUB_START: the sequencers of the quads that the release involves start. -/
def execScrubStart (c : Nat) (s : State) : Result :=
  match s.context c with
  | none => .next s
  | some x =>
    match x.release with
    | none => .next s
    | some r =>
      if r.started || !s.scrubReady c then .next s
      else
        let qs := if r.last then (List.range 640).filter s.quadPresent else [x.quad]
        let s := s.modContext c (fun x =>
          { x with release := some { r with started := true, startNs := s.ns, quads := qs, pendingQuads := qs } })
        let bl := s.scrubBlocks c x
        let s := s.modQuad x.quad (fun q => { q with blocks := q.blocks.map (fun b =>
          if bl.contains b.1 then (b.1, { b.2 with asid := scrubAsid x.asid }) else b) })
        .next (qs.foldl (fun s q => s.scrubCheck x.asid q) s)

/-- An L1 line of a scrubbed ASID leaves: an owned one is returned to its home. -/
def State.scrubL1 (s : State) (asid h : Nat) : State :=
  (s.hart h).l1.foldl (fun s l => if l.2.asid = asid then s.evictEvent h l.1 else s) s

/-- What the sequencer of the context's quad clears besides the vault: resident lines of the image, L1 lines, traces, TLBs. -/
def State.scrubHarts (s : State) (c : Nat) (x : Context) : State :=
  let hs := (List.range 4).map (hartOf x.quad)
  let s := hs.foldl (fun s h => s.scrubL1 x.asid h) s
  let s := hs.foldl (fun s h => s.modHart h (fun y =>
    { y with
      tlb := y.tlb.filter (fun e => e.asid != x.asid), tfq := y.tfq.filter (fun r => r.asid != x.asid),
      trace := if y.trace.asid = x.asid then { seq := y.trace.seq } else y.trace })) s
  let s := s.modQuad x.quad (fun y =>
    { y with tlb := y.tlb.filter (fun e => e.asid != x.asid), fmts := y.fmts.filter (fun f => f.1 / 4 != c) })
  let s := (s.tiles c).resident.foldl (fun s r =>
    (s.writeBytes (tileAddr c r) (List.replicate (tileBytes r) 0)).cleanRange (tileAddr c r) (tileBytes r)) s
  { s with
    tileRegs := Store.del s.tileRegs c,
    slotRegs := s.slotRegs.filter (fun r => !(r.1 % 2 == 0 && r.1 / 8 == c)),
    fills := s.fills.filter (fun f => f.1 != c) }

/-- Zero the blocks under scrub; no context reaches them until SCRUB_DONE frees them (R63, R64). -/
def State.scrubVault (s : State) (x : Context) : State :=
  let bl := ((s.quad x.quad).blocks.filter (fun b => b.2.asid == scrubAsid x.asid)).map (·.1)
  bl.foldl (fun s b =>
    let a := vaultAddr x.quad (65536 * b)
    (s.writeBytes a (List.replicate 65536 0)).cleanRange a 65536) s

/-- Free the blocks that a finished scrub has zeroed. -/
def State.freeScrubbed (s : State) (x : Context) : State :=
  s.modQuad x.quad (fun q => { q with blocks := q.blocks.filter (fun b => b.2.asid != scrubAsid x.asid) })

/-- The lines of a slice that carry the ASID leave it with the last context, recalled and written back before, and so do its
translations, the walker cache's too (R63). -/
def State.scrubSlices (s : State) (asid q : Nat) : State :=
  let s := ((List.range 4).map (hartOf q)).foldl (fun s h =>
    let s := ((s.home h).lines.filter (fun l => l.2.asid == asid)).foldl (fun s l =>
      (s.recallNow h (64 * l.1)).modHome h (·.dropLine false l.1)) s
    s.modHart h (fun y => { y with tlb := y.tlb.filter (fun e => e.asid != asid) })) s
  (s.modQuad q (fun y => { y with tlb := y.tlb.filter (fun e => e.asid != asid) })).modDie (dieOfQuad q) (fun d =>
    { d with wcache := d.wcache.filter (fun e => e.asid != asid) })

/-- The frames that an image touches. -/
def imageFrames (a : Nat) : List Nat := (List.range ((a + Config.imageBytes - 1) / 0x200000 - a / 0x200000 + 1)).map (a / 0x200000 + ·)

/-- IMAGE is cleared on the frames that hold no part of another image (R54, R91). -/
def State.unpinImage (s : State) (c : Nat) (x : Context) : State :=
  let held := (s.disp.contexts.filter (fun o => o.1 != c)).flatMap (fun o => imageFrames o.2.image)
  (imageFrames x.image).foldl (fun s f =>
    if held.contains f then s else { s with frames := Store.set {} s.frames f { s.frame f with image := false } }) s

/-- SCRUB_QUAD_COMPLETE; with the last quad the release completes (R64). -/
def execScrubQuadComplete (c q : Nat) (s : State) : Result :=
  match s.context c with
  | none => .next s
  | some x =>
    match x.release with
    | none => .next s
    | some r =>
      let busy := q = x.quad && ((List.range 4).map (hartOf q)).any (fun h =>
        (s.hart h).l1.any (fun l => l.2.asid == x.asid && l.2.st == .pending))
      if !r.started || !r.pendingQuads.contains q || busy then .next s
      else
        let s := if q = x.quad then (s.scrubHarts c x).scrubVault x else s
        let s := if r.last then s.scrubSlices x.asid q else s
        let left := r.pendingQuads.filter (· != q)
        if !left.isEmpty then .next (s.modContext c (fun x => { x with release := some { r with pendingQuads := left } }))
        else
          let s := s.audit 0x0042 0xF000 x.asid (payload3 x.asid r.quads.length (s.ns - r.startNs))
          let s := (s.unpinImage c x).freeScrubbed x
          .next (s.modDisp (fun d => { d with contexts := Store.del d.contexts c }))

/-! ## CTXPRE, CTXREL, MCSET, AUDAPP -/

/-- The tasks of a context that run. -/
def State.runningOn (s : State) (c : Nat) : List (Nat × Task) :=
  (s.tasksOn c).filter (fun t => t.2.state == 4 && !(s.runningMembers t.2).isEmpty)

/-- CTXPRE: it waits for the stops of tasks other than the hart's own. -/
def preempt (d : Reg) (c action : Nat) (s : State) : Act Unit :=
  let done (v : Word) (s : State) : Act Unit := .ok () (s.wx d v)
  match (s.context c).filter (·.live) with
  | none => done (-1) s
  | some _ =>
    if 2 < action then done (-2) s
    else if action = 2 then done 0 (s.modContext c (fun x => { x with hold := false }))
    else
      (s.once (2 ^ 83) (fun s =>
        let ts := s.runningOn c
        let s := if action = 1 then s.modContext c (fun x => { x with hold := true }) else s
        .ok ts.length (ts.foldl (fun s t => s.stopTask t.1) s))).andThen fun n s =>
      let waits := (s.tasksOn c).any (fun t => some t.1 != s.me.task && s.stopsPending t.2)
      if waits then .stall s else done (BitVec.ofNat 64 n) s

/-- CTXPRE. -/
def execCtxpre (d a b : Reg) (s : State) : Result :=
  ins [d, a, b] [] (atLeast .s (fun s => preempt d (s.rx a).toNat (s.rx b).toNat s)) s

/-- CTXREL. -/
def execCtxrel (d a : Reg) (s : State) : Result :=
  ins [d, a] [] (atLeast .s (fun s =>
    let c := (s.rx a).toNat
    match s.context c with
    | none => .ok () (s.wx d (-1))
    | some x =>
      if x.live then .ok () ((s.startRelease c).wx d 0) else .ok () (s.wx d 1))) s

/-- The bytes at a physical address of HBM that a supervisor instruction names, in `n` bytes; none where they cannot be
read. -/
def State.superBytes (s : State) (pa n : Nat) : Option (List Byte) :=
  match s.physPlace { mode := .s, asid := 0, bare := true, root := 0 } .load pa,
        s.physPlace { mode := .s, asid := 0, bare := true, root := 0 } .load (pa + n - 1) with
  | .ok p, .ok _ => if p.kind = .hbm && !s.rangePoisoned pa n then some (s.peekBytes pa n) else none
  | _, _ => none

/-- Does a transfer in flight name a multicast group? -/
def State.groupBusy (s : State) (g : Nat) : Bool := s.allTransfers.any (fun t => t.mc == some g && t.phase != .done)

/-- MCSET. -/
def execMcset (d a b : Reg) (s : State) : Result :=
  ins [d, a, b] [] (atLeast .s (fun s =>
    let w := (s.rx a).toNat
    let pa := (s.rx b).toNat
    let g := natBits w 0 12
    let asid := natBits w 16 16
    if pa % 8 ≠ 0 then .trap 4 (s.rx b) s
    else
      match s.superBytes pa 80 with
      | none => .trap 5 (s.rx b) s
      | some bs =>
        let mask : BitVec 640 := BitVec.ofNat 640 (ofBytes bs)
        let old := Store.find? s.disp.mcast g
        let other := natBits w 12 4 ≠ 0 || w / 2 ^ 32 ≠ 0
        let foreign := old.any (fun e => e.1 != asid)
        let bad := (List.range 640).any (fun q =>
          mask.getLsbD q && (!s.quadPresent q || !(s.liveContexts asid).any (fun c => c.2.quad == q)))
        if other || foreign || bad then .ok () (s.wx d 2)
        else if s.groupBusy g then .ok () (s.wx d 1)
        else
          let s := s.modDisp (fun x =>
            { x with mcast := if mask = 0 then Store.del x.mcast g else Store.put x.mcast g (asid, mask) })
          .ok () (s.wx d 0))) s

/-- AUDAPP. -/
def execAudapp (d a b : Reg) (s : State) : Result :=
  ins [d, a, b] [] (atLeast .m (fun s =>
    let pa := (s.rx b).toNat
    if pa % 8 ≠ 0 then .trap 4 (s.rx b) s
    else
      match s.physPlace { mode := .m, asid := 0, bare := true, root := 0 } .load pa with
      | .ok p =>
        if p.kind != .hbm || s.rangePoisoned pa 24 then .trap 5 (s.rx b) s
        else if s.rtu.auditFull then .ok () (s.wx d (BitVec.allOnes 64))
        else
          let seq := s.rtu.seq
          let kind := 0x8000 + natBits (s.rx a).toNat 0 15
          .ok () (((s.audit kind s.cur (s.asidOf s.cur) (ofBytes (s.peekBytes pa 24))).passCycles 1).wx d (BitVec.ofNat 64 seq))
      | _ => .trap 5 (s.rx b) s)) s

/-- PAGE_WALK_COMPLETE. -/
def execPageWalkComplete (w : Nat) (s : State) : Result :=
  match s.walks.find? (fun x => x.id == w) with
  | some x => if s.walkRuns x then .next (s.walkDone x) else .next s
  | none => .next s

/-! ## Fences of translations (R228) -/

/-- SFENCE_VMA (R228). -/
def execSfenceVma (rs1 rs2 : Reg) (s : State) : Result :=
  ins [rs1, rs2] [] (fun s =>
    atLeast (if s.me.priv.mstatus.getLsbD 20 then .m else .s) (fun s =>
      let va := if rs1 = 0 then none else some (s.rx rs1).toNat
      let asid := if rs2 = 0 then none else some (natBits (s.rx rs2).toNat 0 16)
      let s := s.dropTlbs va asid
      if s.allTransfers.any (s.holdsPage · va asid) then .stall s else .ok () (s.writeBack asid)) s) s

end Sys2Proof.Machine
end

