-- ==== Sys2Proof/Machine/Roles.lean ====
section
/-! DEFINITION. The register fields of an instruction by register file and role, as its entry gives them. The translator
needs them (R97, R100, check 6), and the rebinder (R180). -/

namespace Sys2Proof.Machine

/-- The register files a field can name: those that Bluja virtualises, and the rest (R97). -/
inductive RFile | x | v | k | other
  deriving DecidableEq, Repr

/-- A register field of an encoding: 0 d, 1 a, 2 b, 3 c; its file; whether the instruction reads and writes it. -/
structure Role where
  field : Nat
  file : RFile
  reads : Bool
  writes : Bool
  deriving DecidableEq, Repr

/-- The lowest bit of a register field (R314, R315). -/
def fieldBit (f : Nat) : Nat :=
  match f with
  | 0 => 7 | 1 => 15 | 2 => 20 | _ => 25

def rd (f : Nat) (file : RFile) : Role := { field := f, file := file, reads := true, writes := false }
def wr (f : Nat) (file : RFile) : Role := { field := f, file := file, reads := false, writes := true }
def rw (f : Nat) (file : RFile) : Role := { field := f, file := file, reads := true, writes := true }
/-- A field that names a register which is never virtual. -/
def nat (f : Nat) : Role := rd f .other

/-- d := f(a, b) in one file, or with b a scalar. -/
def vvv : List Role := [wr 0 .v, rd 1 .v, rd 2 .v]
def vvx : List Role := [wr 0 .v, rd 1 .v, rd 2 .x]
def vv : List Role := [wr 0 .v, rd 1 .v]

/-- The register of a CSR instruction's source. -/
def srcRoles : CsrSrc → List Role
  | .reg _ => [rd 1 .x]
  | .imm _ => []

/-- The fields of a transfer: d a token, the others regions, handles and tiles. -/
def xferRoles (w64 : Bool) : List Role := wr 0 .x :: nat 1 :: nat 2 :: (if w64 then [nat 3] else [])

/-- The register fields of an instruction; `none` for an event, which has no encoding. -/
def roles (i : Instr) : Option (List Role) :=
  match i with
  | .integerAlu op => some (match op with
    | .rr .. => [wr 0 .x, rd 1 .x, rd 2 .x]
    | .ri .. | .sh .. | .un .. => [wr 0 .x, rd 1 .x]
    | .lui .. | .auipc .. => [wr 0 .x])
  | .controlTransfer op => some (match op with
    | .branch .. => [rd 1 .x, rd 2 .x]
    | .jal .. => [wr 0 .x]
    | .jalr .. => [wr 0 .x, rd 1 .x])
  | .csrWrite _ _ src _ | .budgetWrite _ src _ | .driftWrite _ src _ | .leaseWrite _ src _ | .rmodeWrite _ src _
  | .trcfgWrite _ src _ | .xfctlResume _ src _ | .xfctlFail _ src _ => some (wr 0 .x :: srcRoles src)
  | .load .. | .lr .. => some [wr 0 .x, rd 1 .x]
  | .store .. => some [rd 1 .x, rd 2 .x]
  | .amo op .. => some (match op with
    | .cas => [rw 0 .x, rd 1 .x, rd 2 .x]
    | _ => [wr 0 .x, rd 1 .x, rd 2 .x])
  | .sc .. => some [wr 0 .x, rd 1 .x, rd 2 .x]
  | .amocasQ .. => some [rw 0 .x, rd 1 .x, rd 2 .x]
  | .sfenceVma .. => some [rd 1 .x, rd 2 .x]
  | .ecallEnvironment .. | .wfi | .sret | .mret | .fence .. | .fenceTso .. | .fenceI .. | .tyield | .trtrig | .msync
  | .trmarkI .. => some []
  | .tretire .. | .tretireA .. | .clkadv .. | .clkadvOff .. | .repb .. | .trmark .. | .mfmt .. => some [rd 1 .x]
  | .tspawn .. | .tspawnN .. | .tspawnOff .. | .tspawnNOff .. | .tcancel .. | .tstat .. | .mrecv .. | .lwait ..
  | .lwaitOff .. | .ctxrel .. => some [wr 0 .x, rd 1 .x]
  | .twdchk .. | .tbudget .. | .tself .. | .drank .. | .dsize .. | .mpoll .. | .mwait .. | .mhdr .. | .clkrd ..
  | .fencesFull .. | .fencesAcquire .. | .fencesRelease .. => some [wr 0 .x]
  | .bbind .. | .qbind .. | .qpub .. => some [nat 0, rd 1 .x, rd 2 .x]
  | .bbindI .. | .barrive .. | .bexpect .. | .qfree .. => some [nat 0, rd 1 .x]
  | .bwait .. | .btest .. => some [wr 0 .x, nat 2]
  | .qacq .. | .qtake .. | .qstat .. => some [wr 0 .x, nat 1]
  | .bsync .. => some [wr 0 .x, rd 1 .x, nat 2]
  | .bexpectI .. | .bunbind .. | .qeos .. => some [nat 0]
  | .msend .. | .ctxpre .. | .mcset .. | .audapp .. => some [wr 0 .x, rd 1 .x, rd 2 .x]
  | .msendI .. => some [wr 0 .x, rd 1 .x, rd 2 .x, rd 3 .x]
  | .rgnil .. => some [nat 0]
  | .rgfull .. | .rgbbox .. | .rgmv .. | .rgcan .. | .rgdilI .. | .rgshfI .. | .rgprjI .. | .rgxpdI .. | .rglatI ..
  | .rgcutI .. | .rgsplI .. => some [nat 0, nat 1]
  | .rgpt .. | .rgptI .. => some [nat 0, rd 1 .x, rd 2 .x]
  | .rgclip .. | .rguni .. | .rgint .. | .rgsub .. => some [nat 0, nat 1, nat 2]
  | .rgdil .. | .rgshf .. | .rgprj .. | .rgxpd .. | .rglat .. | .rgcut .. | .rgspl .. => some [nat 0, nat 1, rd 2 .x]
  | .rgld .. | .rgldImm .. | .rgldW64 .. | .rgst .. | .rgstImm .. | .rgstW64 .. | .hld .. | .hldImm .. | .hldW64 ..
  | .hst .. | .hstImm .. | .hstW64 .. | .hsetxI .. => some [nat 0, rd 1 .x]
  | .rgcnt .. | .rgnbx .. | .rggetI .. | .hgetI .. => some [wr 0 .x, nat 1]
  | .rgtst .. | .rgeq .. | .rgsubs .. => some [wr 0 .x, nat 1, nat 2]
  | .rgget .. | .hget .. => some [wr 0 .x, nat 1, rd 2 .x]
  | .hsetx .. => some [nat 0, rd 1 .x, rd 2 .x]
  | .copy .. | .copyClip .. | .copyn .. | .copynClip .. | .getx .. | .getxClip .. | .putx .. | .putxClip .. | .getr ..
  | .getrClip .. | .putr .. | .putrClip .. | .flushr .. | .waitg .. | .ldsub .. | .lddrn .. => some (xferRoles false)
  | .copyW64 .. | .copynW64 .. | .getxW64 .. | .putxW64 .. | .getrW64 .. | .putrW64 .. => some (xferRoles true)
  | .copyb .. | .copybClip .. => some [nat 0, nat 1, nat 2]
  | .copybW64 .. => some [nat 0, nat 1, nat 2, nat 3]
  | .pref .. => some [nat 1, nat 2]
  | .tktest .. | .ldcan .. => some [wr 0 .x, rd 1 .x]
  | .vld .. | .vldOff .. => some [wr 0 .v, rd 1 .x]
  | .vst .. | .vstOff .. => some [rd 1 .x, rd 2 .v]
  | .vlds .. => some [wr 0 .v, rd 1 .x, rd 3 .x]
  | .vsts .. => some [rd 1 .x, rd 2 .v, rd 3 .x]
  | .vgath .. | .vgathOff .. => some [wr 0 .v, rd 1 .x, rd 2 .v]
  | .vscat .. | .vscatOff .. => some [rd 0 .v, rd 1 .x, rd 2 .v]
  | .vbcast .. => some [wr 0 .v, rd 1 .x]
  | .vmvx .. | .vmvxLane .. | .vztst .. => some [wr 0 .x, rd 1 .v]
  | .vmvv .. | .vabs .. | .vneg .. | .vcvt .. | .vcvtW64 .. | .vrsum .. | .vrmax .. | .vrmin .. | .vexp2 .. | .vlog2 ..
  | .vrcp .. | .vrsqrt .. | .vsqrt .. | .vslideI .. | .vcompr .. | .vexpnd .. => some vv
  | .vadd .. | .vsub .. | .vmul .. | .vmin .. | .vmax .. | .vand .. | .vor .. | .vxor .. | .vsll .. | .vsrl .. | .vsra ..
  | .vsel .. | .vdot .. | .vperm .. | .vscl .. => some vvv
  | .vaddVx .. | .vsubVx .. | .vmulVx .. | .vminVx .. | .vmaxVx .. | .vandVx .. | .vorVx .. | .vxorVx .. | .vsllVx ..
  | .vsrlVx .. | .vsraVx .. | .vselVx .. | .vslideVx .. | .vsclVx .. => some vvx
  | .vfma .. | .vfms .. => some [rw 0 .v, rd 1 .v, rd 2 .v]
  | .vfmaVx .. | .vfmsVx .. => some [rw 0 .v, rd 1 .v, rd 2 .x]
  | .vcmp _ vx .. => some [wr 0 .k, rd 1 .v, if vx then rd 2 .x else rd 2 .v]
  | .viota .. => some [wr 0 .v]
  | .vqnt .. => some [wr 0 .v, rd 1 .v, rd 2 .v, rw 3 .x]
  | .vmask .. => some [rd 1 .k]
  | .kand .. | .kor .. => some [wr 0 .k, rd 1 .k, rd 2 .k]
  | .knot .. => some [wr 0 .k, rd 1 .k]
  | .kmvToMask .. => some [wr 0 .k, rd 1 .x]
  | .kmvFromMask .. => some [wr 0 .x, rd 1 .k]
  | .mupld .. => some [rd 1 .x, rd 2 .x]
  | .mma .. | .mmag .. | .mrec .. | .mscl .. | .mbias .. | .mtmov .. | .mtrn .. | .mlda .. | .msta .. | .mred .. =>
    some (match i with
      | .mma .. | .mmag .. | .mrec .. => [nat 0, nat 1, nat 2]
      | _ => [nat 0, nat 1])
  | .mzero .. | .mtzero .. | .mrel .. | .mapplyRelu .. | .mapplyMicro .. => some [nat 0]
  | .mztst .. => some [wr 0 .x, nat 1]
  | .mext .. => some [wr 0 .v, nat 1]
  | .mins .. => some [nat 0, rd 1 .v]
  | .mqnt .. => some [nat 0, nat 1, nat 2, rd 3 .x]
  | .coldReset .. | .warmReset | .recoveryGo | .powerSample .. | .dutyStep | .sensorSample .. | .measExtend ..
  | .quoteRequest .. | .quoteSigned | .fuseCounterAdvance .. | .fuseBlow | .retranslationComplete | .auditAppend ..
  | .segmentSeal | .spillWriteComplete | .spillAck .. | .overflowAreaSet .. | .ownerCreate | .ownerDestroy | .frameSet
  | .tenantCreate | .tenantSet | .tenantDestroy | .ctxCreate | .portOpen | .portClose | .apertureMap | .objTranslate
  | .objUnload | .stageSet | .taskFault | .vaultSet | .launch .. | .launchPortDmwrOther ..
  | .launchPortPostedWrite .. | .argsReadComplete .. | .launchSubmit .. | .launchDone .. | .apertureWrite ..
  | .apertureRead .. | .hostLinkDown .. | .hostLinkUp .. | .hostCompletionTimeout .. | .hostErrorCompletion ..
  | .atomicopCompletion .. | .zeroLengthReadComplete .. | .dieLinkReplay .. | .dieLinkIdleTimeout .. | .netPortDown ..
  | .retransmissionLimit .. | .putArrive .. | .putAck .. | .getRequest .. | .getData .. | .homeRead .. | .l2MissFill ..
  | .homeOwn .. | .homeWrite .. | .homeEngineRead .. | .recallArrive .. | .recallReply .. | .ownedEviction .. | .readReply ..
  | .ownershipReply .. | .postedStoreAck .. | .vaultAccess .. | .driftTick .. | .rebaseStep .. | .rebaseFloorReceive ..
  | .rebaseComplete .. | .renewalHoldExpiry .. | .vaultWatchExpiry .. | .hostLineFetch .. | .hostSnoop ..
  | .snoopHoldExpiry .. | .hostAmoCompletion .. | .replyTimeout .. | .deadAgentDeclaration .. | .declarationReceive ..
  | .patrolPass .. | .dispatchPairing .. | .gangStart .. | .taskStart .. | .packageArbiterMove .. | .reservePreemption ..
  | .decrement .. | .withdraw .. | .rebalanceEvaluation .. | .parkWake .. | .parkReclaim .. | .budgetExhausted ..
  | .interruptTaken .. | .stopRequest .. | .saveComplete .. | .contextDrain .. | .resume .. | .imageLineFill ..
  | .pageWalkComplete .. | .transferSegment .. | .transferComplete .. | .portRequest .. | .streamTransferStart ..
  | .streamSlotFill .. | .streamSlotDrain .. | .matrixAccept .. | .matrixComplete .. | .repbLaneIssue .. | .scrubStart ..
  | .scrubQuadComplete .. | .messageDeliver .. | .netPortUp .. | .hostReadCompletion .. | .atomicopAsCompleter ..
  | .otherDmwr .. => none

/-- A register field of an encoding. -/
def fieldGet (w : Word) (f : Nat) : Nat := natBits w.toNat (fieldBit f) 5

/-- Fill a register field. -/
def fieldSet (w : Word) (f r : Nat) : Word := BitVec.ofNat 64 (natSetBits w.toNat (fieldBit f) 5 r)

/-- The instruction of a C32 or a W64 given as one number, with its length. -/
def decodeNumber (w : Word) : Option (Instr × Nat) :=
  match decodeBytes (bytesOf 8 w.toNat) with
  | .ok i len => if len = 4 && w.toNat / 2 ^ 32 ≠ 0 then none else some (i, len)
  | .reject _ => none

end Sys2Proof.Machine
end

