-- ==== Sys2Proof/Machine/Placement.lean ====
section
/-! DEFINITION. Where and when tasks run: the ready order and pairing (R121 to R123, R130 to R133), stages (R135 to R138),
reserve pre-emption and the package arbiter (R139, R140), the start of a task and its resumption (R120, R127, R180, R312),
with rebinding (R111). -/

namespace Sys2Proof.Machine

/-! ## Domains of gangs (R133) -/

/-- The domain instance of a level that a hart lies in. -/
def gangInstance (level h : Nat) : Nat :=
  match level with
  | 1 => quadOf h
  | 2 => dieOf h * 20 + h / 4 % 256 / 8
  | 3 => dieOf h
  | _ => 0

/-- The quads of a domain instance. -/
def State.domainQuads (s : State) (level i : Nat) : List Nat :=
  match level with
  | 1 => [i]
  | 2 => (List.range 8).map (fun j => i / 20 * 160 + i % 20 * 8 + j)
  | 3 => s.quadsOfDie i
  | _ => (List.range 4).flatMap s.quadsOfDie

/-- The harts of a domain instance. -/
def State.domainHarts (s : State) (level i : Nat) : List Nat :=
  (s.domainQuads level i).flatMap (fun q => (List.range 4).map (hartOf q))

/-- The rank of a member. -/
def State.rankOf (s : State) (level h : Nat) : Nat :=
  match level with
  | 1 => h % 4
  | 2 => h / 4 % 8 * 4 + h % 4
  | 3 => h % 1024
  | 4 => dieOf h * (4 * s.grade.quads) + h % 1024
  | _ => 0

/-! ## Slots and contexts (R123, R130) -/

/-- Is a slot held by a task, or by a hart that still stops? -/
def State.slotHeld (s : State) (c slot : Nat) : Bool :=
  s.disp.tasks.any (fun t => t.2.ending.isNone && t.2.members.any (fun m => m.ctx == c && m.slot == slot))
    || s.harts.any (fun h => h.2.ctx == some c && h.2.slot == slot)

/-- May the dispatcher place tasks on the context? -/
def Context.open_ (c : Context) : Bool := c.live && !c.hold

/-- A context of the tenant on a quad with a free slot: the lowest-numbered, and its lowest free slot. -/
def State.openSlot (s : State) (asid q : Nat) : Option (Nat × Nat) :=
  firstSome (fun c : Nat × Context =>
    if c.2.asid = asid && c.2.quad = q && c.2.open_ then
      firstSome (fun i => if s.slotHeld c.1 i then none else some (c.1, i)) [0, 1, 2, 3]
    else none) s.disp.contexts

/-- The quads of a die that carry an open context of the tenant. -/
def State.tenantQuads (s : State) (asid die : Nat) : List Nat :=
  ((s.disp.contexts.filter (fun c => c.2.asid == asid && c.2.open_ && dieOfQuad c.2.quad == die)).map (·.2.quad)).foldl insertNat []

/-- Their harts. -/
def State.tenantHarts (s : State) (asid die : Nat) : List Nat :=
  (s.tenantQuads asid die).flatMap (fun q => (List.range 4).map (hartOf q))

/-- Does the tenant hold fewer harts than its cap? -/
def State.belowCap (s : State) (asid : Nat) : Bool :=
  (s.tenant asid).any (fun t => decide ((s.heldHarts asid).length < t.cap))

def State.belowReserve (s : State) (asid : Nat) : Bool :=
  (s.tenant asid).any (fun t => decide ((s.heldHarts asid).length < t.reserve))

/-! ## Eligibility (R123) -/

/-- Has another gang begun to be placed on the hart's instance? -/
def State.inPlacing (s : State) (k h : Nat) : Bool :=
  s.disp.tasks.any (fun t => t.1 != k && t.2.gangTaken == some (gangInstance t.2.tcb.gangLevel h) && t.2.tcb.gang)

/-- Is the hart at the dispatcher's disposal for task `k`? -/
def State.atDisposal (s : State) (k h : Nat) : Bool :=
  s.isFree h && !(s.quad (quadOf h)).outOfService && !s.inPlacing k h &&
    (match Store.find? s.disp.preempt h with
     | some p => p == k
     | none => true)

/-- May the saved member resume on the hart? A gang's members resume on their own harts (R181). -/
def State.memberFits (s : State) (t : Task) (h : Nat) (m : Member) : Bool :=
  m.saved && (if t.tcb.gang then m.hart == h else quadOf m.hart == quadOf h) && (s.context m.ctx).any (·.open_)

/-- Is a free hart eligible for a task? `below` says that the tenant is below its cap. -/
def State.hartEligible (s : State) (k : Nat) (t : Task) (below : Bool) (h : Nat) : Bool :=
  s.atDisposal k h &&
    (match Store.find? s.disp.assigned h with
     | some (a, g) => t.tcb.staged && a == t.asid && g == t.tcb.stage
     | none => !t.tcb.staged && below) &&
    (if t.saved then t.members.any (s.memberFits t h) else (s.openSlot t.asid (quadOf h)).isSome)

/-- Is a task in the ready order, its predecessor's end state written (R124), not waiting for its ring (R138)? -/
def State.inOrder (s : State) (t : Task) : Bool :=
  (t.state = 2 || t.state = 5) && t.ending.isNone && !t.parkWait && t.gangTaken.isNone && t.gate.all (fun g => (s.task g).isNone)

/-- The class of the kernel of a task, when its tenant allows placement by intensity (R131). -/
def State.kernelOf (s : State) (t : Task) : Option Nat :=
  if (s.tenant t.asid).any (fun u => natBit u.flags 0) then
    firstSome (fun x : Kernel => if x.asid = t.asid && x.entry = t.tcb.entry then x.cls else none) s.disp.kernels
  else none

/-- Does a quad run a task of the complementary class? -/
def State.complemented (s : State) (cls q : Nat) : Bool :=
  s.disp.tasks.any (fun t => t.2.state == 4 && t.2.members.any (fun m => quadOf m.hart == q && !m.ended) &&
    (match firstSome (fun x : Kernel => if x.asid = t.2.asid && x.entry = t.2.tcb.entry then x.cls else none) s.disp.kernels with
     | some c => cls != 1 && c + cls == 2
     | none => false))

/-- The hart that a task would get on a die (R131). -/
def State.chooseHart (s : State) (k : Nat) (t : Task) (die : Nat) : Option Nat :=
  let hs := (s.tenantHarts t.asid die).filter (s.hartEligible k t (s.belowCap t.asid))
  match s.kernelOf t with
  | some c => (hs.find? (fun h => s.complemented c (quadOf h))).orElse (fun _ => hs.head?)
  | none => hs.head?

/-- Do all quads of a domain instance carry an open context of a tenant (R133)? -/
def State.carries (s : State) (asid level i : Nat) : Bool :=
  (s.domainQuads level i).all (fun q => s.disp.contexts.any (fun c => c.2.asid == asid && c.2.quad == q && c.2.open_))

/-- The domain instance that a gang would get (R133): of those whose every quad carries a context, the one with the most
eligible harts. -/
def State.chooseInstance (s : State) (k : Nat) (t : Task) (die : Nat) : Option Nat :=
  let l := t.tcb.gangLevel
  let all := if t.saved then [gangInstance l t.hartNo]
    else match l with
      | 1 => s.tenantQuads t.asid die
      | 2 => (List.range (s.grade.quads / 8)).map (die * 20 + ·)
      | 3 => [0, 1, 2, 3]
      | _ => [0]
  let below := s.belowCap t.asid
  let count (i : Nat) : Nat := ((s.domainHarts l i).filter (s.hartEligible k t below)).length
  ((all.filter (s.carries t.asid l)).foldl (fun (b : Option (Nat × Nat)) i =>
    let n := count i
    match b with
    | some (m, _) => if m < n then some (n, i) else b
    | none => if 0 < n then some (n, i) else none) none).map (·.2)

/-- Has the task a hart to go to on the die? -/
def State.placeable (s : State) (die : Nat) (t : Nat × Task) : Bool :=
  if t.2.tcb.gang then (s.chooseInstance t.1 t.2 die).isSome else (s.chooseHart t.1 t.2 die).isSome

/-! ## The ready order (R122) -/

/-- Lowest class, then earliest deadline, then lowest submission number. -/
def taskBefore (a b : Nat × Task) : Bool :=
  if a.2.cls ≠ b.2.cls then decide (a.2.cls < b.2.cls)
  else if a.2.deadline ≠ b.2.deadline then decide (a.2.deadline < b.2.deadline)
  else decide (a.1 < b.1)

/-- The first of a list of tasks under an order. -/
def firstTask (before : Nat × Task → Nat × Task → Bool) (l : List (Nat × Task)) : Option (Nat × Task) :=
  l.foldl (fun b t => match b with
    | none => some t
    | some x => if before t x then some t else b) none

/-- The task to place first: tenants below their reserve come first, if there are any. -/
def State.nextTask (s : State) (l : List (Nat × Task)) : Option (Nat × Task) :=
  let poor := l.filter (fun t => s.belowReserve t.2.asid)
  firstTask taskBefore (if poor.isEmpty then l else poor)

/-! ## Taking harts -/

/-- A task takes a hart: a new slot, or the slot of its saved member. -/
def State.takeHart (s : State) (k h : Nat) (st : HartStatus) : State :=
  match s.task k with
  | none => s
  | some t =>
    let place : Option (Nat × Nat × List Member) :=
      if t.saved then
        (t.members.find? (s.memberFits t h)).map (fun m =>
          (m.ctx, m.slot, t.members.map (fun x => if x.ctx = m.ctx && x.slot = m.slot then { x with hart := h } else x)))
      else
        (s.openSlot t.asid (quadOf h)).map (fun c =>
          (c.1, c.2, t.members ++ [{ hart := h, ctx := c.1, slot := c.2, rank := s.rankOf t.tcb.gangLevel h }]))
    match place with
    | none => s
    | some (c, slot, ms) =>
      let s := s.setTask k { t with members := ms, state := if t.tcb.gang then t.state else 3 }
      let s := s.modDisp (fun d => { d with preempt := d.preempt.filter (fun e => e.1 != h && e.2 != k) })
      s.modHart h (fun x => { x with status := st, task := some k, ctx := some c, slot := slot })

/-- A gang takes the harts of its instance that are free and eligible; with the last one it is dispatched. -/
def State.fillGang (s : State) (k : Nat) : State :=
  match s.task k with
  | none => s
  | some t =>
    match t.gangTaken with
    | none => s
    | some i =>
      let hs := s.domainHarts t.tcb.gangLevel i
      let s := hs.foldl (fun s h =>
        match s.task k with
        | some t => if s.hartEligible k t (s.belowCap t.asid) h then s.takeHart k h .taken else s
        | none => s) s
      if hs.all (fun h => (s.hart h).task == some k && (s.hart h).status == .taken) then
        s.modTask k (fun t => { t with state := 3 })
      else s

/-- Place one task. -/
def State.placeTask (s : State) (k : Nat) (t : Task) (die : Nat) : State :=
  if t.tcb.gang then
    match s.chooseInstance k t die with
    | some i => (s.setTask k { t with gangTaken := some i }).fillGang k
    | none => s
  else
    match s.chooseHart k t die with
    | some h => s.takeHart k h .dispatched
    | none => s

/-! ## Stages (R135 to R138) -/

/-- The input ring of a stage, where its header can be read. -/
def State.stageRing (s : State) (asid : Nat) (g : Stage) : Option Ring :=
  if g.ring = 0 then none
  else
    match s.engineTranslate 640 asid .load g.ring with
    | .ok p =>
      if p.kind = .vault && !s.poisoned p.addr then
        let r := Ring.ofLine (s.readLine (p.addr / 64 * 64))
        if r.init then some r else none
      else none
    | _ => none

/-- Published slots and slots; a source stage counts as 8/8 full. -/
def State.occupancy (s : State) (asid : Nat) (g : Stage) : Nat × Nat :=
  match s.stageRing asid g with
  | some r => (r.published, ringCount r.config)
  | none => (8, 8)

/-- The stage of a task, as its tenant has declared it. -/
def State.stageOf (s : State) (t : Task) : Option Stage :=
  (s.tenant t.asid).bind (fun u => if t.tcb.staged then Store.find? u.stages t.tcb.stage else none)

/-- Has the ring of a parked or reclaimed task been published to, or ended? -/
def State.ringReady (s : State) (t : Task) : Bool :=
  ((s.stageOf t).bind (s.stageRing t.asid)).any (fun r => r.published != 0 || r.eos)

/-- Reclaimed tasks whose ring has been published to are READY (R138). -/
def State.wakeReclaimed (s : State) (die : Nat) : State :=
  s.modDisp (fun d => { d with tasks := d.tasks.map (fun t : Nat × Task =>
    if t.2.parkWait && t.2.die == die && s.ringReady t.2 then
      (t.1, { t.2 with parkWait := false, state := if t.2.state = 5 then 2 else t.2.state })
    else t) })

/-- The free harts of a die that the tenant could be given for a stage, in order. -/
def State.stageHarts (s : State) (asid die : Nat) : List Nat :=
  (s.tenantHarts asid die).filter (fun h =>
    s.atDisposal 0 h && (Store.find? s.disp.assigned h).isNone && (s.openSlot asid (quadOf h)).isSome)

/-- Before each pairing, free harts go to stages below their minimum (R136). -/
def State.assignStages (s : State) (die : Nat) : State :=
  s.disp.tenants.foldl (fun s u =>
    if u.2.stages.isEmpty then s
    else
      (s.stageHarts u.1 die).foldl (fun s h =>
        match s.needyStage u.1 with
        | some g => if s.belowCap u.1 then s.assign h u.1 g else s
        | none => s) s) s

/-- fuller(s, t) of R137. -/
def fuller (a b : Nat × Nat) : Bool := decide (b.1 * a.2 < a.1 * b.2)

/-- The stage that gains a hart: the fullest of those at least six eighths full and below their maximum. -/
def State.gainStage (s : State) (asid : Nat) (t : Tenant) : Option Nat :=
  (t.stages.foldl (fun (b : Option (Nat × (Nat × Nat))) g =>
    match s.stageRing asid g.2 with
    | none => b
    | some _ =>
      let o := s.occupancy asid g.2
      if 6 * o.2 ≤ 8 * o.1 && s.stageHeld asid g.1 < g.2.max then
        (match b with
         | some x => if fuller o x.2 then some (g.1, o) else b
         | none => some (g.1, o))
      else b) none).map (·.1)

/-- The stage that gives one: the emptiest of those above their minimum. -/
def State.donorStage (s : State) (asid : Nat) (t : Tenant) (gain : Nat) : Option Nat :=
  (t.stages.foldl (fun (b : Option (Nat × (Nat × Nat))) g =>
    if g.1 = gain || s.stageHeld asid g.1 ≤ g.2.min then b
    else
      let o := s.occupancy asid g.2
      match b with
      | some x => if fuller x.2 o then some (g.1, o) else b
      | none => some (g.1, o)) none).map (·.1)

/-- The evaluation of one tenant. -/
def State.rebalance (s : State) (asid die : Nat) : State :=
  match s.tenant asid with
  | none => s
  | some t =>
    if t.stages.isEmpty || t.stages.any (fun g => g.2.move.isSome) then s
    else
      match s.gainStage asid t with
      | none => s
      | some gain =>
        match (s.stageHarts asid die).head?, s.belowCap asid with
        | some h, true => s.assign h asid gain
        | _, _ =>
          match s.donorStage asid t gain with
          | some d => s.modStage asid d (fun g => { g with move := some gain })
          | none => s

/-- REBALANCE_EVALUATION. -/
def execRebalanceEvaluation (die : Nat) (s : State) : Result :=
  .next (s.disp.tenants.foldl (fun s u => s.rebalance u.1 die) s)

/-! ## Pairing -/

/-- The ready tasks of a die that have somewhere to go. -/
def State.readyOn (s : State) (die : Nat) : List (Nat × Task) :=
  s.disp.tasks.filter (fun t => t.2.die == die && s.inOrder t.2 && s.placeable die t)

/-- Pairing, until no ready task has an eligible hart; the first argument bounds the number of placements. -/
def State.pairAll (s : State) (die : Nat) : Nat → State
  | 0 => s
  | n + 1 =>
    let s := s.assignStages die
    let gangs := s.disp.tasks.filter (fun t => t.2.gangTaken.isSome && t.2.state != 3)
    let s := gangs.foldl (fun s t => s.fillGang t.1) s
    match s.nextTask (s.readyOn die) with
    | none => s
    | some (k, t) => (s.placeTask k t die).pairAll die n

/-- Pre-emptions for tasks that no longer wait are forgotten. -/
def State.dropPreempts (s : State) : State :=
  s.modDisp (fun d => { d with preempt := d.preempt.filter (fun e => (s.task e.2).any (fun t => s.inOrder t || t.gangTaken.isSome)) })

/-- Does the dispatcher run? -/
def State.dispatching (s : State) : Bool := s.rtu.boot == .released && !s.disp.stopped && !s.halted

/-- DISPATCH_PAIRING. -/
def execDispatchPairing (die : Nat) (s : State) : Result :=
  if s.dispatching then .next ((s.dropPreempts.wakeReclaimed die).pairAll die 1024) else .next s

/-! ## The package arbiter and reserve pre-emption (R139, R140) -/

/-- The task that the arbiter would move to a die: the first, of other dies, that is eligible for a free hart that no ready
task of the die is eligible for. -/
def State.arbiterPick (s : State) (die : Nat) : Option Nat :=
  if (s.readyOn die).isEmpty then
    (s.nextTask (s.disp.tasks.filter (fun t => t.2.die != die && s.inOrder t.2 && s.placeable die t))).map (·.1)
  else none

/-- PACKAGE_ARBITER_MOVE. -/
def execPackageArbiterMove (die : Nat) (s : State) : Result :=
  if !s.dispatching || 4 ≤ die then .next s
  else
    match s.arbiterPick die with
    | some k => .next (s.modTask k (fun t => { t with die := die }))
    | none => .next s

/-- May a hart become one of a waiting gang's: does it lie in the instance that has been chosen for the gang, or in one that may be? -/
def State.gangReaches (s : State) (asid : Nat) (t : Task) (h : Nat) : Bool :=
  let i := gangInstance t.tcb.gangLevel h
  match t.gangTaken with
  | some j => i == j
  | none => s.carries asid t.tcb.gangLevel i

/-- Is a ready task without an eligible free hart: on every die, and a gang that is being placed in its instance (R139)? -/
def State.handless (s : State) (t : Nat × Task) : Bool :=
  match t.2.gangTaken with
  | some i => t.2.ending.isNone && t.2.state != 3 && t.2.state != 4
      && !(s.domainHarts t.2.tcb.gangLevel i).any (s.hartEligible t.1 t.2 (s.belowCap t.2.asid))
  | none => s.inOrder t.2 && !(List.range 4).any (fun d => s.placeable d t)

/-- May a task be pre-empted for a tenant: it runs alone, its tenant is above its reserve, and a context of the waiting tenant
on its quad has a free slot? A stage at its minimum gives up no hart (R136). -/
def State.victimOk (s : State) (asid : Nat) (want : Task) (t : Nat × Task) : Bool :=
  t.2.state == 4 && !t.2.tcb.gang && t.2.ending.isNone &&
    (match t.2.members with
     | [m] =>
       (s.hart m.hart).status.executes && !(s.hart m.hart).stopReq
         && (s.tenant t.2.asid).any (fun u => decide (u.reserve < (s.heldHarts t.2.asid).length))
         && (if want.saved then want.members.any (fun w => if want.tcb.gang then w.hart == m.hart else quadOf w.hart == quadOf m.hart)
             else (s.openSlot asid (quadOf m.hart)).isSome && (!want.tcb.gang || s.gangReaches asid want m.hart))
         && (match Store.find? s.disp.assigned m.hart with
             | some (a, g) => (s.tenant a).any (fun u => (Store.find? u.stages g).any (fun x => decide (x.min < s.stageHeld a g)))
             | none => true)
     | _ => false)

/-- The ready tasks of a die whose tenants are below their reserve and have no hart to go to. -/
def State.starved (s : State) (die : Nat) : List (Nat × Task) :=
  s.disp.tasks.filter (fun t => t.2.die == die && s.belowReserve t.2.asid && s.handless t && !s.disp.preempt.any (fun e => e.2 == t.1))

/-- RESERVE_PREEMPTION: the least urgent victim is stopped, and its hart kept for the waiting task. -/
def execReservePreemption (die : Nat) (s : State) : Result :=
  if !s.dispatching then .next s
  else
    match firstTask taskBefore (s.starved die) with
    | none => .next s
    | some (k, t) =>
      match firstTask (fun a b => taskBefore b a) (s.disp.tasks.filter (s.victimOk t.asid t)) with
      | none => .next s
      | some (v, vt) =>
        let h := vt.hartNo
        .next ((s.stopTask v).modDisp (fun d => { d with preempt := Store.put d.preempt h k }))

/-! ## The start of a task (R120, R127, R312) -/

/-- The windows of a task, and the traps that their bad entries make. -/
def State.loadWindows (s : State) (t : Task) (excl : List (Nat × BitVec 8)) : Windows × List (Nat × Word) :=
  let (rd, a) := s.windowTable t.asid t.tcb.rdWin 0x100
  let (wr, b) := s.windowTable t.asid t.tcb.wrWin 0x200
  let (ex, masks, c) := s.exclusionOf t.asid excl
  ({ rd := rd, wr := wr, excl := ex, exclPtrs := masks }, a ++ b ++ c)

/-- The gang fields of dmr (R134). -/
def State.gangCsrs (s : State) (t : Task) (h : Nat) (d : DevCsrs) : DevCsrs :=
  { d with
    dmrSize := s.gangSize t.tcb.gangLevel, dmrLevel := t.tcb.gangLevel,
    dmrRank := match t.members.find? (fun m => m.hart == h) with
      | some m => m.rank
      | none => 0 }

/-- A hart that begins a task of another ASID clears its trace buffer (R184). -/
def Hart.claimTrace (h : Hart) (asid : Nat) : Hart :=
  if h.trace.asid = asid then h else { h with trace := { asid := asid, seq := h.trace.seq } }

/-- The hart at the first instruction of a task. -/
def State.startHart (s : State) (k h : Nat) : State :=
  match s.task k, (s.hart h).ctx with
  | some t, some c =>
    let hh := s.hart h
    let slot := hh.slot
    if s.eagerPoisoned c slot then s.imagePoison c h [slot] ((s.imageOf c).getD 0 + slot * 0x3000)
    else
      let s := s.claimSlot c slot h
      let (f, s) := s.fresh64
      let (win, traps) := s.loadWindows t t.excl
      let fc := s.issueFmt (quadOf h) c slot
      let y := s.loadSlot (quadOf h) c slot hh
      let sp := 0x7F00005C0000 + (slot + 1) * 0x10000
      let dev := s.gangCsrs t h
        { y.dev with
          rmode := 0, rflags := 0, lease := 16, vactm := 0, repidx := 0, gstat := 0, srseed := 0,
          remain := BitVec.ofNat 32 t.tcb.budget, zero := false }
      let y : Hart :=
        { y with
          status := .running, mode := .u, pc := BitVec.ofNat 64 (if t.early then t.tcb.absorb else t.tcb.entry),
          x := Store.set 0 (Store.set 0 [(2, BitVec.ofNat 64 sp)] 10 (BitVec.ofNat 64 t.tcb.arg)) 31 f,
          dev := dev, pts := max y.pts t.relTime, fstat := 0, ackTime := 0, tokens := [], lane := {}, mpoison := false,
          resv := none, partials := [], entering := [], ld := none, wdPending := false, vwait := [], xwait := [], fmt := fc.fmt,
          ucode := fc.ucode, ust := fc.ust, win := win, startTraps := traps, stopReq := false, parkedCycles := 0 }
      s.setHart h (y.claimTrace t.asid)
  | _, _ => s

/-! ## Rebinding (R111) -/

/-- A value's place: file, virtual number, register or none, spill slot. -/
abbrev Loc := Nat × Nat × Option Nat × Nat

/-- The 64-byte slot of the hart's stack that holds a spilled value. -/
def State.spillPlace (s : State) (quad asid sp n : Nat) : Option Place :=
  match s.engineTranslate quad asid .store (sp - 64 * n) with
  | .ok p => some p
  | _ => none

/-- The value at a place, as a number. -/
def State.locRead (s : State) (h : Hart) (quad c asid : Nat) (l : Loc) : Nat :=
  match l.2.2.1, l.1 with
  | some r, 0 => (Store.get 0 h.x r).toNat
  | some r, 1 =>
    (match Store.find? (Store.get ({} : SlotRegs) s.slotRegs (2 * (c * 4 + h.slot))).v r with
     | some v => v.toNat
     | none => ofBytes (s.imageRead c h.slot (codePlace r).1 64))
  | some r, _ => (Store.get 0 h.k r).toNat
  | none, f =>
    (match s.spillPlace quad asid (Store.get 0 h.x 2).toNat l.2.2.2 with
     | some p => if f = 1 then s.readNat p.addr 64 else (Config.spilledWord (s.readLine p.addr)).toNat
     | none => 0)

/-- Put a value at a place. -/
def State.locWrite (s : State) (h : Hart) (quad c asid : Nat) (l : Loc) (v : Nat) : Hart × State :=
  match l.2.2.1, l.1 with
  | some r, 0 => ({ h with x := Store.set 0 h.x r (BitVec.ofNat 64 v) }, s)
  | some r, 1 => (h, s.ownV (.image c h.slot) c h.slot (BitVec.ofNat 5 r) (BitVec.ofNat 512 v))
  | some r, _ => ({ h with k := Store.set 0 h.k r (BitVec.ofNat 64 v) }, s)
  | none, f =>
    (match s.spillPlace quad asid (Store.get 0 h.x 2).toNat l.2.2.2 with
     | some p =>
       let line := if f = 1 then BitVec.ofNat 512 v else Config.spilledLine (BitVec.ofNat 64 v)
       (h, (s.vaultStore p.home p.addr (BitVec.allOnes 64) line h.pts).2)
     | none => (h, s))

/-- The place of the same virtual value in another table. -/
def sameValue (ls : List Loc) (l : Loc) : Option Loc := ls.find? (fun m => m.1 == l.1 && m.2.1 == l.2.1)

/-- Every live value moves from its old place to its new one. -/
def State.moveValues (s : State) (h : Hart) (quad c asid : Nat) (old new : List Loc) : Hart × State :=
  let vals := old.map (fun l => (l, s.locRead h quad c asid l))
  new.foldl (fun (a : Hart × State) l =>
    match vals.find? (fun x => x.1.1 == l.1 && x.1.2.1 == l.2.1) with
    | some x => a.2.locWrite a.1 quad c asid l x.2
    | none => a) (h, s)

/-- The vector register fields of a saved repetition encoding are rewritten (R180). -/
def rebindWord (old new : List Loc) (w : Word) : Word :=
  match decodeNumber w with
  | none => w
  | some (i, _) =>
    ((roles i).getD []).foldl (fun w r =>
      if r.file != .v then w
      else
        let n := fieldGet w r.field
        match (old.find? (fun l => l.1 == 1 && l.2.2.1 == some n)).bind (sameValue new) with
        | some (_, _, some m, _) => fieldSet w r.field m
        | _ => w) w

/-- Where a restored task goes on: the pc, and where another translation must be rebound to the index and the two tables. -/
def State.restorePc (s : State) (t : Task) (m : Member) (hash : BitVec 256) (pos : Nat) :
    Option (Word × Option (List Loc × List Loc)) :=
  match s.restoreSlot t.asid t.tcb.entry hash with
  | none => none
  | some (j, id, x) =>
    if id = m.xlat then (x.offsetOf pos).map (fun o => (BitVec.ofNat 64 (slotBase j + o), none))
    else
      match Store.find? s.heap m.xlat with
      | none => none
      | some old =>
        (x.offsetOf (pos / 256 * 256)).map (fun o =>
          (BitVec.ofNat 64 (slotBase j + o), some (Store.get [] old.locs (pos / 256), Store.get [] x.locs (pos / 256))))

/-! ## Resumption (R180) -/

/-- A token as the image gives it. -/
def State.savedToken (s : State) (k c slot : Nat) (b : List Byte) (n : Nat) : Token :=
  let pend := natBit (bytesAt b 0x190 4) n
  let fp := natBit (bytesAt b 0x194 4) n
  let tm := bytesAt b (0x1A0 + 8 * n) 8
  let id := firstSome (fun t : Transfer =>
    if t.task = some k && t.ctx = some c && t.slot = slot && t.reg = n && t.kind != .copyb then some t.id else none)
    s.allTransfers.reverse
  { pending := pend, unjoined := !pend && (fp || tm != 0), fpend := fp, status := bytesAt b (8 * n) 1, time := tm,
    transfer := id.getD 0 }

/-- The repetition lane as the image gives it (R172). -/
def State.savedLane (s : State) (b : List Byte) (h : Hart) (old new : List Loc) : Lane :=
  let n := bytesAt b 0x49 1
  let left := bytesAt b 0x40 4
  if n = 0 || left = 0 then {}
  else
    let ws := (List.range (min n 8)).map (fun i => rebindWord old new (BitVec.ofNat 64 (bytesAt b (8 * i) 8)))
    let blk := ws.filterMap (fun w => (decodeNumber w).map (fun i => (i.1, w)))
    let it := bytesAt b 0x44 4
    { laneOf (s.setHart s.cur h) (it + left) (bytesAt b 0x48 1) blk with iter := it }

/-- The registers that outstanding requests of a slot will write (R190). -/
def State.awaited (s : State) (k c slot : Nat) : List (Nat × Nat) × List (Nat × Nat) :=
  let rs := (s.quads.flatMap (fun q => q.2.requests)).filter (fun r => r.task == some k && r.ctx == c && r.slot == slot && !r.gang)
  (rs.filterMap (fun r => match r.op with | .mztst d .. => some (d.toNat, r.id) | _ => none),
   rs.filterMap (fun r => match r.op with | .mext d .. => some (d.toNat, r.id) | _ => none))

/-- The hart of a task that resumes. -/
def State.resumeHart (s : State) (k h : Nat) : State :=
  match s.task k, (s.hart h).ctx with
  | some t, some c =>
    let hh := s.hart h
    let slot := hh.slot
    match t.members.find? (fun m => m.ctx == c && m.slot == slot) with
    | none => s
    | some m =>
      if m.ended then
        let y := s.loadSlot (quadOf h) c slot hh
        (s.setHart h { y with status := .ended }).modTask k (fun t =>
          { t with members := t.members.map (fun x => if x.hart = h then { x with saved := false } else x) })
      else if s.eagerPoisoned c slot then s.imagePoison c h [slot] ((s.imageOf c).getD 0 + slot * 0x3000)
      else
        let s := s.claimSlot c slot h
        let b := s.imageRead c slot 0 0x500
        let n (off w : Nat) : Nat := bytesAt b off w
        let csr (i : Nat) : Word := BitVec.ofNat 64 (n (0x130 + 8 * i) 8)
        let masks := (List.range 16).filterMap (fun i =>
          if n (0x440 + 8 * i) 8 = 0 then none else some (n (0x440 + 8 * i) 8, BitVec.ofNat 8 (n (0x4C0 + i) 1)))
        let (win, _) := s.loadWindows t masks
        let fc := s.issueFmt (quadOf h) c slot
        let y := s.loadSlot (quadOf h) c slot hh
        let (xw, vw) := s.awaited k c slot
        let dev := s.gangCsrs t h
          { y.dev with
            rmode := writeRmode 0 (csr 0), rflags := csr 1 &&& 0x1f, lease := writeLease (csr 2), vactm := csr 3 &&& 7,
            repidx := csr 4 &&& 0xffffffff, gstat := csr 5 &&& 3, srseed := csr 6, trcfg := csr 7 &&& trcfgBits, remain := BitVec.ofNat 32 (n 0x170 4), zero := natBit (n 0x170 8) 32 }
        let y : Hart :=
          { y with
            status := .running, mode := .u, x := fileOf 8 0 32 (b.take 256), dev := dev, pts := max (max y.pts (n 0x128 8)) t.relTime,
            fstat := BitVec.ofNat 64 (n 0x178 8), ackTime := 0, wdPending := natBit (n 0x188 8) 0,
            priv := { y.priv with mip := setFld y.priv.mip 18 1 (if natBit (n 0x188 8) 1 then 1 else 0) },
            tokens := (List.range 32).foldl (fun l r => Store.set {} l r (s.savedToken k c slot b r)) [],
            resv := none, partials := [], entering := [], ld := none, xwait := xw, vwait := vw, fmt := fc.fmt, ucode := fc.ucode,
            ust := fc.ust, win := win, startTraps := m.traps, stopReq := false, parkedCycles := 0 }
        let lb := s.imageRead c slot 0x2500 80
        let at_ := s.restorePc t m (BitVec.ofNat 256 (ofBytes ((b.drop 0x100).take 32))) (n 0x120 4)
        let (y, old, new, s) : Hart × List Loc × List Loc × State :=
          match at_ with
          | none =>
            let (f, s) := s.fresh64
            let pc := f &&& ~~~(3 : Word)
            ({ y with pc := pc, startTraps := (1, pc) :: y.startTraps }, [], [], s)
          | some (pc, none) => ({ y with pc := pc }, [], [], s)
          | some (pc, some (old, new)) =>
            let (y, s) := s.moveValues y (quadOf h) c t.asid old new
            ({ y with pc := pc }, old, new, s)
        let lane := { s with cur := h }.savedLane lb y old new
        let y := { y with lane := lane, mpoison := natBit (bytesAt lb 0x4A 1) 0 }
        let s := s.setHart h (y.claimTrace t.asid)
        s.modTask k (fun t =>
          { t with members := t.members.map (fun x => if x.hart = h then { x with saved := false } else x) })
  | _, _ => s

/-- A hart's task starts, or goes on. -/
def State.beginHart (s : State) (k h : Nat) : State :=
  match s.task k with
  | none => s
  | some t =>
    if t.members.any (fun m => m.hart == h && m.saved) then s.resumeHart k h else s.startHart k h

/-- A single task is on its way to a hart. -/
def State.dispatched (s : State) (h : Nat) (saved : Bool) : Option Nat :=
  if (s.hart h).status = .dispatched && s.dispatching then
    (s.hart h).task.filter (fun k => (s.task k).any (fun t => t.state == 3 && t.saved == saved))
  else none

/-- The task runs: its state, and a withdrawal held for it (R152, R482). -/
def State.nowRunning (s : State) (k : Nat) : State :=
  (s.modTask k (fun t => { t with state := 4, gangTaken := none })).releaseWithdrawal k

/-- TASK_START. -/
def execTaskStart (h : Nat) (s : State) : Result :=
  match s.dispatched h false with
  | some k => .next ((s.beginHart k h).nowRunning k)
  | none => .next s

/-- RESUME. -/
def execResume (h : Nat) (s : State) : Result :=
  match s.dispatched h true with
  | some k => .next ((s.beginHart k h).nowRunning k)
  | none => .next s

/-- GANG_START: every member starts, or goes on, in one step (R133, R181). -/
def execGangStart (k : Nat) (s : State) : Result :=
  match s.task k with
  | none => .next s
  | some t =>
    if t.tcb.gang && t.state = 3 && s.dispatching && t.members.all (fun m => (s.hart m.hart).status == .taken) then
      .next ((t.members.foldl (fun s m => s.beginHart k m.hart) s).nowRunning k)
    else .next s

/-! ## TYIELD and parking (R138, R339) -/

/-- TYIELD. -/
def execTyield (s : State) : Result :=
  ins [] [] (fun s =>
    let h := s.me
    if h.mode != .u then illegal s
    else
      match h.task.bind s.task with
      | none => .ok () s
      | some t =>
        if (s.pendingMove s.cur).isSome then
          .ok () (t.members.foldl (fun s m => s.modHart m.hart (fun x => { x with stopReq := true })) (s.moveStage s.cur))
        else
          match (s.stageOf t).bind (s.stageRing t.asid) with
          | some r =>
            if r.published = 0 && !r.eos then .stall (s.modMe (fun x => { x with status := .parked, parkedCycles := 0 }))
            else .ok () s
          | none => .ok () s) s

/-- PARK_WAKE: the parked task goes on at its next instruction. -/
def execParkWake (h : Nat) (s : State) : Result :=
  let hh := s.hart h
  match (if hh.status = .parked then hh.task.bind s.task else none) with
  | none => .next s
  | some t =>
    if s.ringReady t then .next (s.modHart h (fun x => { x.retire with status := .running, parkedCycles := 0 })) else .next s

/-- PARK_RECLAIM: the task is suspended until its ring is published to; the hart joins a stage that waits for it, or the
unassigned pool. -/
def execParkReclaim (h : Nat) (s : State) : Result :=
  let hh := s.hart h
  match hh.task, Store.find? s.disp.assigned h with
  | some k, some (a, g) =>
    let above := (s.tenant a).any (fun u => (Store.find? u.stages g).any (fun x => decide (x.min < s.stageHeld a g)))
    if hh.status = .parked && 8192 ≤ hh.parkedCycles && above && !hh.stopReq then
      let s := if (s.pendingMove h).isSome then s.moveStage h else s.unassign h
      .next ((s.modTask k (fun t => { t with parkWait := true })).stopTask k)
    else .next s
  | _, _ => .next s

/-! ## Interrupts, budgets and messages (R128, R162, R355) -/

/-- The interrupt that would be taken: of those pending and enabled for a mode above the hart's, or for its own with the enable
set, M-mode's first and then by the order of RISC-V, the device's by the higher code. -/
def Hart.interrupt (h : Hart) : Option Nat :=
  let p := h.pending &&& h.priv.mie
  let st := h.priv.mstatus
  let ready (n : Nat) : Bool :=
    p.getLsbD n &&
      (if h.priv.mideleg.getLsbD n then h.mode == .u || (h.mode == .s && st.getLsbD 1)
       else h.mode != .m || st.getLsbD 3)
  let first (sup : Bool) : Option Nat :=
    [11, 3, 7, 9, 1, 5, 18, 17, 16].find? (fun n => ready n && h.priv.mideleg.getLsbD n == sup)
  (first false).orElse (fun _ => first true)

/-- May an interrupt, or the budget trap, be taken now? -/
def Hart.interruptible (h : Hart) : Bool := h.status.executes && h.atBoundary

/-- INTERRUPT_TAKEN: a wait under R337 ends first; a parked task's pc is at its TYIELD. -/
def execInterruptTaken (h : Nat) (s : State) : Result :=
  match (if (s.hart h).interruptible && !(s.hart h).stopDue then (s.hart h).interrupt else none) with
  | none => .next s
  | some n =>
    .next ((s.cancelWait h).modHart h (fun x => { x.takeTrap s.cycle true n 0 x.pc with status := .running }))

/-- The budget is used up and its trap is still to be taken. -/
def Hart.budgetDue (h : Hart) : Bool := h.mode == .u && h.task.isSome && h.dev.remain == 0 && !h.dev.zero

/-- BUDGET_EXHAUSTED: after a stop and after interrupts (R165). -/
def execBudgetExhausted (h : Nat) (s : State) : Result :=
  let hh := s.hart h
  if hh.interruptible && hh.status = .running && hh.budgetDue && !hh.stopDue && hh.interrupt.isNone then
    .next ((s.cancelWait h).modHart h (fun x =>
      { x with dev := { x.dev with zero := true } }.takeTrap s.cycle false 27 0 x.pc))
  else .next s

/-- MESSAGE_DELIVER: a message of the device reaches the mailbox of a slot, after the earlier ones to it (R355). -/
def execMessageDeliver (k : Nat) (s : State) : Result :=
  match s.disp.mails[k]? with
  | none => .next s
  | some m =>
    if (s.disp.mails.take k).any (fun o => o.ctx == m.ctx && o.slot == m.slot) then .next s
    else .next ((s.modDisp (fun d => { d with mails := d.mails.eraseIdx k })).mailPut m.ctx m.slot m.mail)

end Sys2Proof.Machine
end

