-- ==== Sys2Proof/Machine/Streams.lean ====
section
/-! DEFINITION. The stream controllers' side of LDSUB and LDDRN (R420), and puts and gets between devices (02, R36 to R43). -/

namespace Sys2Proof.Machine

/-! ## Stream controllers -/

/-- Transfers that a controller serves. -/
def State.streamLoad (s : State) (ladle : Nat) : Nat :=
  (s.allTransfers.filter (fun t => t.kind.stream && (t.phase == .moving || t.phase == .finished) && t.ladles.contains ladle)).length

/-- Has every controller that the transfer needs room, and is it in service (R255)? -/
def State.streamRoom (s : State) (t : Transfer) : Bool :=
  t.ladles.all (fun k => decide (s.streamLoad k < 16) && s.ladleServes k)

/-- STREAM_TRANSFER_START: a queued transfer starts when every controller has room and no earlier one that could start waits
at one of them (R420). -/
def execStreamTransferStart (id : Nat) (s : State) : Result :=
  match s.transfer id with
  | none => .next s
  | some t =>
    let ahead := s.allTransfers.any (fun o =>
      decide (o.id < id) && o.phase == .queued && o.ladles.any t.ladles.contains && s.streamRoom o)
    if t.phase = .queued && s.streamRoom t && !ahead then .next (s.modTransfer id (fun t => { t with phase := .moving }))
    else .next s

/-- The identifier under which the controllers of a transfer publish (R251): the lowest of theirs (log 108). -/
def Transfer.controller (t : Transfer) : Nat := 0x2000 + t.ladles.foldl min (t.ladles.headD 0)

/-- The stacks that serve a transfer. -/
def Transfer.stacks (t : Transfer) : List Nat := t.ladles.map (· / 8)

/-- Why the ring's units cannot be reached, as a status. -/
def State.ringStatus (s : State) (t : Transfer) (units : List Nat) : Option Nat :=
  let acc : Access := if t.kind = .ldsub then .store else .load
  if t.stacks.any (fun k => (s.deadRoute (k / 2) (dieOfQuad t.ring.quad)).isSome) then some xsDeadlink
  else
    firstSome (fun u =>
      (s.unitBad (dieOfQuad t.ring.quad) t.asid t.ring.quad u .store).map (fun c => if c = 29 then xsPoison else faultStatus acc c)) units

/-- A transfer ends because its ring cannot be reached; a down link is reported (R43). -/
def State.failStream (s : State) (t : Transfer) (st : Nat) : State :=
  let s := s.endTransfer t.id st
  if st = xsDeadlink then
    s.reportLink t.hart (firstSome (fun k => s.linkTarget (k / 2) (dieOfQuad t.ring.quad)) t.stacks)
  else s

/-- The units of a slot: its header and its payload. -/
def slotUnits (p : RingAt) (i : Nat) : List Nat := (List.range (1 + p.size / 64)).map (slotUnit p i + ·)

/-- Codes packed into bytes, lowest first. -/
def packCodes (bits : Nat) (codes : List Nat) : List Byte :=
  bytesOf (ceilDiv (bits * codes.length) 8) ((codes.zipIdx).foldl (fun v c => v + c.1 % 2 ^ bits * 2 ^ (bits * c.2)) 0)

/-- Whole elements that a slot holds. -/
def Transfer.perSlot (t : Transfer) : Nat := t.ring.at_.size * 8 / t.dstFmt.bits

/-- The next elements in canonical order. -/
def Transfer.nextElems (t : Transfer) (n : Nat) : List (Nat × List Int) :=
  (List.range (min n (t.region.count - t.pos))).map (fun i => (t.pos + i, t.region.nth (t.pos + i)))

/-- Store the bytes of a payload, unit by unit. -/
def State.putPayload (s : State) (p : RingAt) (i clk : Nat) (bs : List Byte) : Nat × State :=
  (List.range (ceilDiv bs.length 64)).foldl (fun (a : Nat × State) k =>
    let part := (bs.drop (64 * k)).take 64
    let (t, s) := a.2.vaultStore p.quad (unitAddr p.quad (slotUnit p i + 1 + k)) (byteMask 0 part.length)
      (BitVec.ofNat 512 (ofBytes part)) a.1
    (max a.1 t, s)) (clk, s)

/-- The end of a subscription that has published its last slot. -/
def State.closeStream (s : State) (t : Transfer) : State :=
  let p := t.ring.at_
  if t.desc.getLsbD 8 then
    if (s.ring p).eos then s.endTransfer t.id xsRefused
    else
      let (tm, s) := s.ringEos p t.clk
      (s.modTransfer t.id (fun t => { t with clk := max t.clk tm })).endTransfer t.id xsOk
  else s.endTransfer t.id xsOk

/-- Acquire a slot and fill it with the next elements. -/
def State.fillSlot (s : State) (t : Transfer) : State :=
  let p := t.ring.at_
  match s.ringStatus t [t.ring.unit] with
  | some st => s.failStream t st
  | none =>
    if t.region.count ≤ t.pos then s.closeStream t
    else if (s.ring p).eos then s.endTransfer t.id xsRefused
    else
      match s.ringStatus t (slotUnits p ((s.ring p).acq % p.count)), s.ringAcquire p t.clk with
      | _, none => s
      | some st, _ => s.failStream t st
      | none, some (i, tm, s) =>
        let m : Moving := { s := s, t := { t with clk := max t.clk tm, clip := false } }
        let (m, es, n, e) := m.readSegment (t.nextElems t.perSlot)
        let bs := packCodes t.dstFmt.bits (es.map (·.code))
        let (clk, s) := m.s.putPayload p i m.t.clk bs
        let use : SlotUse := { slot := i, used := bs.length }
        let st := match e with | some (st, _) => st | none => xsOk
        let s := match e with | some (st, va) => s.reportDead m.t st va | none => s
        s.modTransfer t.id (fun t => { t with clk := clk, pos := t.pos + n, n := t.n + bs.length, use := some use, status := st })

/-- Publish the slot that was filled, and end the transfer when it was the last, or a fault, a cancellation or another party's
end of stream came. -/
def State.publishSlot (s : State) (t : Transfer) (u : SlotUse) : State :=
  let p := t.ring.at_
  let eos := (s.ring p).eos
  match s.ringStatus t [t.ring.unit] with
  | some st => (s.modTransfer t.id (fun t => { t with use := none })).failStream t st
  | none =>
    let (tm, s) := s.ringPublish p u.slot u.used t.controller t.clk
    let t := { t with clk := max t.clk tm, use := none }
    let s := s.modTransfer t.id (fun _ => t)
    if t.status ≠ xsOk then s.endTransfer t.id t.status
    else if eos then s.endTransfer t.id xsRefused
    else if t.cancel then s.endTransfer t.id xsOk
    else if t.region.count ≤ t.pos then s.closeStream t
    else s

/-- STREAM_SLOT_FILL. -/
def execStreamSlotFill (id : Nat) (s : State) : Result :=
  match s.transfer id with
  | none => .next s
  | some t =>
    if t.kind != .ldsub || t.phase != .moving then .next s
    else
      match t.use with
      | none => .next (s.fillSlot t)
      | some u => .next (s.publishSlot t u)

/-- The elements of a payload, in order. -/
def payloadCodes (bits n v : Nat) : List Nat := (List.range n).map (fun i => natBits v (bits * i) bits)

/-- Prepare elements for writing, up to the first whose place faults; those outside the extents are skipped. -/
def Moving.drainReady (m : Moving) : List (Nat × List Int) → List Nat → Moving × List Ready × Nat × Option (Nat × Nat)
  | (_, x) :: xs, c :: cs =>
    if m.t.inDest x then
      let m := m.walkTargets x
      match m.targets x with
      | .error e => (m, [], 0, some e)
      | .ok ps =>
        let (m, rs, n, e) := m.drainReady xs cs
        (m, { x := x, code := c, places := ps } :: rs, n + 1, e)
    else
      let (m, rs, n, e) := m.drainReady xs cs
      (m, rs, n + 1, e)
  | _, _ => (m, [], 0, none)

/-- Take a slot and write its whole elements, once no earlier transfer of the hart still writes there (R203). -/
def State.drainSlot (s : State) (t : Transfer) : State :=
  let p := t.ring.at_
  match s.ringStatus t [t.ring.unit] with
  | some st => s.failStream t st
  | none =>
    if t.region.count ≤ t.pos then s.endTransfer t.id xsOk
    else if t.pos = 0 && s.heldBack t then s
    else
      match s.ringStatus t (slotUnits p ((s.ring p).take % p.count)), s.ringTake p t.clk with
      | _, none => if (s.ring p).ended then s.endTransfer t.id xsOk else s
      | some st, _ => s.failStream t st
      | none, some (i, pub, tm, s) =>
        let bits := t.srcFmt.bits
        let n := min (s.slotLength p i) p.size * 8 / bits
        let v := s.readNat (unitAddr p.quad (slotUnit p i + 1)) p.size
        let clk := max (max t.clk pub) (max tm (s.quad p.quad).vclk)
        let m : Moving := { s := s, t := { t with clk := clk } }
        let (m, rs, k, e) := m.drainReady (t.nextElems n) (payloadCodes bits n v)
        let m := (m.writeSegment rs).flush
        let st := match e with | some (st, _) => st | none => xsOk
        let use : SlotUse := { slot := i, used := n }
        let s := match e with | some (st, va) => m.s.reportDead m.t st va | none => m.s
        s.modTransfer t.id (fun t => { t with clk := m.t.clk, pos := t.pos + k, n := m.t.n, use := some use, status := st })

/-- Free the slot that was taken, and end the transfer when every element is written, or at a fault or a cancellation. -/
def State.freeSlot (s : State) (t : Transfer) (u : SlotUse) : State :=
  match s.ringStatus t [t.ring.unit] with
  | some st => (s.modTransfer t.id (fun t => { t with use := none })).failStream t st
  | none =>
    let (tm, s) := s.ringFree t.ring.at_ u.slot t.clk
    let t := { t with clk := max t.clk tm, use := none }
    let s := s.modTransfer t.id (fun _ => t)
    if t.status ≠ xsOk then s.endTransfer t.id t.status
    else if t.cancel || decide (t.region.count ≤ t.pos) then s.endTransfer t.id xsOk
    else s

/-- STREAM_SLOT_DRAIN. -/
def execStreamSlotDrain (id : Nat) (s : State) : Result :=
  match s.transfer id with
  | none => .next s
  | some t =>
    if t.kind != .lddrn || t.phase != .moving then .next s
    else
      match t.use with
      | none => .next (s.drainSlot t)
      | some u => .next (s.freeSlot t u)

/-! ## Puts and gets: this device as the target (R40) -/

/-- What a peer's put or get on a send queue reaches: the ASID, the window's base and length, and the remote counter's index,
from the entry of that number (log 23). -/
structure NetWindow where
  asid : Nat
  base : Nat
  len : Nat
  counter : Nat

def State.netWindow (s : State) (port sq : Nat) : NetWindow :=
  let a := sqAddr port sq
  { asid := s.peekNat (a + 4) 2, base := s.peekNat (a + 0x10) 8, len := s.peekNat (a + 0x18) 8,
    counter := s.peekNat (a + 0x20) 4 }

/-- The pieces of a range of a window. -/
def NetWindow.pieces (w : NetWindow) (off n : Nat) : List (Nat × Nat) := linePieces (w.base + off) n (n + 1)

/-- The entry of a send queue is read, and the walks that a range of its window needs are made (R217, R226). -/
def State.netTouch (s : State) (port sq : Nat) (acc : Access) (off n : Nat) : State :=
  let w := s.netWindow port sq
  (s.devTouch (sqAddr port sq) 64).walkPieces 640 w.asid acc (w.pieces off n)

/-- The places of a range of a window, reached from the die of the port (R14); none where it is refused. -/
def State.netPlaces (s : State) (port : Nat) (w : NetWindow) (acc : Access) (off n : Nat) : Option (List (Nat × Place)) :=
  if w.len < off + n then none
  else
    (w.pieces off n).mapM (fun p =>
      match s.engineTranslate 640 w.asid acc p.1 with
      | .ok pl => if s.placeDead (netDie port) pl then none else some (p.2, pl)
      | _ => none)

/-- PUT_ARRIVE: the bytes are placed at their homes, then the counter is raised at a later time. -/
def execPutArrive (port sq off : Nat) (data : List Byte) (s : State) : Result :=
  let w := s.netWindow port sq
  if s.netDown.contains port || !decide (port < 12) then .next s
  else
    let s := s.netTouch port sq .store off data.length
    match s.netPlaces port w .store off data.length with
    | none => .next (s.toHost .netRefuse)
    | some ps =>
      let (_, clk, s) := ps.foldl (fun (a : List Byte × Nat × State) p =>
        let run : Run := (p.2, byteMask (p.2.addr % 64) p.1, BitVec.ofNat 512 (ofBytes (a.1.take p.1) * 2 ^ (8 * (p.2.addr % 64))))
        let (t, s) := a.2.2.writeRun 4096 w.asid 0 run
        (a.1.drop p.1, max a.2.1 t, s)) (data, 0, s)
      let (_, s) := s.counterAdd (netDie port) w.asid w.counter data.length (clk + 1)
      .next (s.toHost .netAck)

/-- GET_REQUEST: the bytes are read from the window. -/
def execGetRequest (port sq off len : Nat) (s : State) : Result :=
  let w := s.netWindow port sq
  if s.netDown.contains port || !decide (port < 12) then .next s
  else
    let s := s.netTouch port sq .load off len
    match s.netPlaces port w .load off len with
    | none => .next (s.toHost .netRefuse)
    | some ps =>
      let (bs, bad, s) := ps.foldl (fun (a : List Byte × Bool × State) p =>
        let (v, _, bad, s) := a.2.2.readPiece w.asid 0 p.1 p.2
        (a.1 ++ bytesOf p.1 v, a.2.1 || bad, s)) ([], false, s)
      .next (if bad then s.toHost .netRefuse else s.toHost (.netData bs))

/-! ## Puts and gets: this device as the initiator (R40, R42, R43) -/

/-- The send queue of a transfer, as a target identifier (R44). -/
def Transfer.netTarget (t : Transfer) : Nat := 0x8000 + descPort t.desc * 1024 + descQueue t.desc

/-- A put or get ends with a failure, reported at the issuing hart and at the join (R43). -/
def State.failNet (s : State) (t : Transfer) (status bit target : Nat) : State :=
  (s.endTransfer t.id status).modHart t.hart (·.addFail bit target false)

/-- PUT_ACK: the initiator adds N to its local counter and the put completes, or it was refused. -/
def execPutAck (id : Nat) (refused : Bool) (s : State) : Result :=
  match s.transfer id with
  | none => .next s
  | some t =>
    if !t.sent || t.phase != .moving || t.kind == .getr then .next s
    else if refused then .next ((s.failNet t xsRefused failRefused t.netTarget).completeTransfer id)
    else
      let m := (Moving.countLocal { s := s, t := t } t.n).finish xsOk
      .next ((m.s.modTransfer id (fun _ => m.t)).completeTransfer id)

/-- Move the segments of an answered get until it has ended or waits. -/
def Moving.place : Nat → Moving → Moving
  | 0, m => m
  | n + 1, m => if m.t.phase == .moving && !m.t.paused then Moving.place n m.step else m

/-- GET_DATA: the initiator places the bytes, adds N to its local counter and the get completes, or it was refused. -/
def execGetData (id : Nat) (refused : Bool) (data : List Byte) (s : State) : Result :=
  match s.transfer id with
  | none => .next s
  | some t =>
    if !t.sent || t.phase != .moving || t.kind != .getr then .next s
    else if refused then .next ((s.failNet t xsRefused failRefused t.netTarget).completeTransfer id)
    else
      let m := Moving.place (t.region.count + 1) { s := s.ensureTiles t, t := { t with sent := false, net := some data } }
      .next ((m.s.modTransfer id (fun _ => m.t)).completeTransfer id)

/-- Every send queue of a port enters ERROR (R42). -/
def State.queuesToError (s : State) (port : Nat) : State :=
  (List.range 1024).foldl (fun s i => (s.devPut (sqAddr port i) 1 2 0).2) s

/-- NET_PORT_DOWN (R42, R43, R45). -/
def execNetPortDown (port : Nat) (s : State) : Result :=
  if !decide (port < 12) || s.netDown.contains port then .next s
  else
    let s := { s with netDown := insertNat s.netDown port }.queuesToError port
    let s := (s.allTransfers.filter (fun t => t.onNet && descPort t.desc == port && t.phase == .moving)).foldl
      (fun s t => s.failNet t xsDeadlink failDeadlink (0x3000 + port)) s
    .next (s.audit 0x0023 0xF000 0 (payload3 port 0 0))

/-- NET_PORT_UP (R45): send queues stay in ERROR. -/
def execNetPortUp (port : Nat) (s : State) : Result :=
  if s.netDown.contains port then
    .next ({ s with netDown := s.netDown.filter (· != port) }.audit 0x0023 0xF000 0 (payload3 port 1 0))
  else .next s

/-- RETRANSMISSION_LIMIT (R36, R43). -/
def execRetransmissionLimit (id : Nat) (s : State) : Result :=
  match s.transfer id with
  | none => .next s
  | some t =>
    if t.onNet && t.sent && t.phase == .moving then .next (s.failNet t xsTimeout failTimeout t.netTarget) else .next s

end Sys2Proof.Machine
end

