-- ==== Sys2Proof/Machine/Agents.lean ====
section
/-! DEFINITION. The events of the coherence agents: messages served, clocks and rebasing, host lines, dead agents, die links and
host ports (01, R23 and R24; 02; 10, R230; 11). -/

namespace Sys2Proof.Machine

/-! ## Messages -/

/-- HOME_READ. -/
def execHomeRead (m : Nat) (s : State) : Result := .next (s.homeRead m)
/-- L2_MISS_FILL. -/
def execL2MissFill (m : Nat) (s : State) : Result := .next (s.l2Fill m)
/-- HOME_OWN. -/
def execHomeOwn (m : Nat) (s : State) : Result := .next (s.homeOwn m)
/-- HOME_WRITE. -/
def execHomeWrite (m : Nat) (s : State) : Result := .next (s.homeWrite m)
/-- HOME_ENGINE_READ. -/
def execHomeEngineRead (m : Nat) (s : State) : Result := .next (s.homeEngineRead m)
/-- RECALL. -/
def execRecall (m : Nat) (s : State) : Result := .next (s.recallEvent m)
/-- RECALL_REPLY. -/
def execRecallReply (m : Nat) (s : State) : Result := .next (s.recallReplyEvent m)
/-- OWNED_EVICTION. -/
def execOwnedEviction (h key : Nat) (s : State) : Result := .next (s.evictEvent h key)
/-- READ_REPLY. -/
def execReadReply (m : Nat) (s : State) : Result := .next (s.readReplyEvent m)
/-- OWNERSHIP_REPLY. -/
def execOwnershipReply (m : Nat) (s : State) : Result := .next (s.ownReplyEvent m)
/-- POSTED_STORE_ACK. -/
def execPostedStoreAck (m : Nat) (s : State) : Result := .next (s.ackEvent m)
/-- VAULT_ACCESS. -/
def execVaultAccess (m : Nat) (s : State) : Result := .next (s.vaultAccessEvent m)
/-- DRIFT_TICK. -/
def execDriftTick (h : Nat) (s : State) : Result := .next (s.driftTick h)
/-- RENEWAL_HOLD_EXPIRY. -/
def execRenewalHoldExpiry (home k : Nat) (s : State) : Result := .next (s.renewalExpiry home k)
/-- VAULT_WATCH_EXPIRY. -/
def execVaultWatchExpiry (q k : Nat) (s : State) : Result := .next (s.watchExpiry q k)
/-- HOST_LINE_FETCH. -/
def execHostLineFetch (port line : Nat) (s : State) : Result := .next (s.hostLineFetch port line)

/-! ## Rebasing (R245) -/

/-- The slices and proxies of the package. -/
def State.isHome (s : State) (home : Nat) : Bool := s.hartPresent home || home == 0x3000 || home == 0x3001
def State.homeCount (s : State) : Nat := 16 * s.grade.quads + 2

/-- The times that an answer on its way to a hart would cache there, with the hart. -/
def Msg.caches : Msg → Option (Nat × Nat)
  | .readReply dst _ _ w r .. => some (dst, max w r)
  | .ownReply dst _ _ w r .. => some (dst, max w r)
  | .ack dst _ _ t .. => some (dst, t)
  | _ => none

/-- A rebase step is due on a die: a clock has reached the limit, a store to an owned line would, or an answer on its way does not
fit (R245). -/
def State.rebaseDue (s : State) (d : Nat) : Bool :=
  s.harts.any (fun h => dieOf h.1 == d &&
    (!s.fits d h.2.pts || h.2.l1.any (fun l => !s.fits d (if l.2.st = .owned then l.2.rts + 1 else l.2.rts))))
  || s.msgs.any (fun m => m.2.caches.any (fun c => dieOf c.1 == d && !s.fits d c.2))

/-- REBASE_STEP: the die sends B' to every slice and proxy. -/
def execRebaseStep (die : Nat) (s : State) : Result :=
  if decide (die < 4) && !(s.die die).rebasing && s.rebaseDue die then
    .next (s.modDie die (fun d => { d with rebasing := true, acked := [] }))
  else .next s

/-- REBASE_FLOOR_RECEIVE: a home keeps the largest base it has received, and acknowledges. -/
def execRebaseFloorReceive (die home : Nat) (s : State) : Result :=
  let d := s.die die
  if d.rebasing && s.isHome home && !d.acked.contains home then
    .next ((s.modHome home (fun m => { m with floor := max m.floor (d.base + rebaseStride) })).modDie die
      (fun d => { d with acked := insertNat d.acked home }))
  else .next s

/-- REBASE_COMPLETE: every home has acknowledged. -/
def execRebaseComplete (die : Nat) (s : State) : Result :=
  let d := s.die die
  if d.rebasing && d.acked.length == s.homeCount then
    .next (s.setBase die (d.base + rebaseStride))
  else .next s

/-! ## Host lines (R250) -/

/-- The line of a proxy, with the snoop noted or ended. -/
def Home.setSnoop (hm : Home) (n : Nat) (v : Option Bool) (owned : Bool) : Home :=
  { hm with lines := Store.put hm.lines n { hm.line n with snoop := v, hostOwned := owned } }

/-- HOST_SNOOP: the owner is recalled; a snoop that leaves the proxy a shared copy is answered at once. -/
def execHostSnoop (port line : Nat) (take : Bool) (s : State) : Result :=
  let home := 0x3000 + port
  let line := line / 64 * 64
  let n := lineNo line
  if decide (port < 2) && (s.home home).holds n && (s.port port).up then
    let s := (s.recallNow home line).wakeHeld home
    if take then .next (s.modHome home (fun m => m.setSnoop n (some true) (m.line n).hostOwned))
    else .next ((s.modHome home (fun m => m.setSnoop n (m.line n).snoop false)).toHost (.snoopReply port line (s.readLine line)))
  else .next s

/-- Has every lease granted on a line run out: is no grant on its way, and has each hart passed the rts of its copy? -/
def State.leasesOver (s : State) (home line : Nat) : Bool :=
  let key := l1Key (lineNo line) home
  !s.msgs.any (fun m => match m.2 with | .readReply _ h' l' .. => h' == home && l' == line | _ => false)
    && s.harts.all (fun h => (h.2.l1At key).all (fun l => l.st != .shared || decide (l.rts < h.2.pts)))

/-- SNOOP_HOLD_EXPIRY: the snoop is answered and the copy given up. -/
def execSnoopHoldExpiry (port line : Nat) (s : State) : Result :=
  let home := 0x3000 + port
  let line := line / 64 * 64
  let n := lineNo line
  if (s.home home).holds n && ((s.home home).line n).snoop == some true && s.leasesOver home line then
    let s := (s.recallNow home line).wakeHeld home
    .next ((s.toHost (.snoopReply port line (s.readLine line))).modHome home (·.dropLine true n))
  else .next s

/-! ## Host requests that complete -/

def State.hostReq (s : State) (id : Nat) : Option HostReq := Store.find? s.hostReqs id
def State.dropReq (s : State) (id : Nat) : State := { s with hostReqs := Store.del s.hostReqs id }

/-- A read-modify-write at the host: the old value. -/
def State.hostAmo (s : State) (addr size : Nat) (op : AmoOp) (val cmp : Nat) : Nat × State :=
  let old := s.readNat addr size
  let (new, wr) := amoResult op size old val cmp
  (old, if wr then s.writeNat addr size new else s)

/-- The answer of the host to a hart; a poisoned one is reported (R43). -/
def State.answerHart (s : State) (h port : Nat) (poison : Bool) (v : Nat) (t : Option Nat) : State :=
  s.modHart h (fun x =>
    if poison then (x.addFail failPoison (0x2000 + port) false).remoteDone 0 t (some 29) else x.remoteDone v t none)

/-- HOST_AMO_COMPLETION: the proxy has recalled the owner and dropped its copy (R250); an AMO of a dead incarnation is discarded
(R254). -/
def execHostAmoCompletion (req : Nat) (s : State) : Result :=
  match s.hostReq req with
  | some (.amoC h inc p addr size op val cmp t0) =>
    let home := 0x3000 + p
    let line := addr / 64 * 64
    if s.incOf h ≠ inc then .next ((s.dropReq req).audit 0x0031 0xF000 0 (payload3 h inc line))
    else
    let s := ((s.dropReq req).recallNow home line).wakeHeld home
    let s := if (s.home home).holds (lineNo line) then s.modHome home (·.dropLine true (lineNo line)) else s
    let t := max t0 ((s.home home).hclk + 1)
    let s := s.modHome home (fun m => { m with hclk := max m.hclk t })
    if s.poisoned line then .next (s.answerHart h p true 0 (some t))
    else
      let (old, s) := s.hostAmo addr size op val cmp
      .next (s.answerHart h p false old (some t))
  | _ => .next s

/-- ATOMICOP_COMPLETION (R31). -/
def execAtomicopCompletion (req : Nat) (s : State) : Result :=
  match s.hostReq req with
  | some (.amo h p addr size op val cmp) =>
    let s := s.dropReq req
    if s.poisoned addr then .next (s.answerHart h p true 0 none)
    else
      let (old, s) := s.hostAmo addr size op val cmp
      .next (s.answerHart h p false old none)
  | _ => .next s

/-- HOST_READ_COMPLETION: the data of a load, or of the pages that a copy's segment reads. -/
def execHostReadCompletion (req : Nat) (s : State) : Result :=
  match s.hostReq req with
  | some (.load h p addr size) =>
    let s := s.dropReq req
    .next (s.answerHart h p (s.poisoned addr) (s.readNat addr size) none)
  | some (.copy t _) => .next ((s.dropReq req).modTransfer t (fun x => { x with host := 2 }))
  | _ => .next s

/-- ZERO_LENGTH_READ_COMPLETE (R32). -/
def execZeroLengthReadComplete (req : Nat) (s : State) : Result :=
  match s.hostReq req with
  | some (.zlr ..) | some (.zlrLaunch ..) => .next (s.dropReq req)
  | _ => .next s

/-- ATOMICOP_AS_COMPLETER (R27). -/
def execAtomicopAsCompleter (_port : Nat) (s : State) : Result := .next (s.toHost .unsupported)

/-- OTHER_DMWR (R27). -/
def execOtherDmwr (_port : Nat) (_addr : Word) (s : State) : Result := .next (s.toHost .unsupported)

/-! ## Failed stores -/

/-- Count `n` failed stores. -/
def Hart.failMany (h : Hart) (bit target : Nat) : Nat → Hart
  | 0 => h
  | n + 1 => (h.addFail bit target true).failMany bit target n

/-- An access that is on its way outside the hart is lost: its instruction runs again, and meets the failure. -/
def Hart.lostAccess (h : Hart) : Hart := { h with ld := h.ld.filter (fun p => p.done || p.kind == .walk) }

/-- Messages that meet a failed way are lost: `far` gives the failure's target for a hart and the die of its other end. -/
def State.loseMsg (s : State) (bit : Nat) (far : Nat → Nat → Option Nat) (id : Nat) (m : Msg) : State :=
  let lose (h home : Nat) (f : Nat → Hart → Hart) : State :=
    match far h home with
    | some t => (s.dropMsg id).modHart h (f t)
    | none => s
  match m with
  | .read h _ home .. => lose h home (fun _ => Hart.lostAccess)
  | .readReply h home .. => lose h home (fun _ => Hart.lostAccess)
  | .amo h _ home .. => lose h home (fun _ => Hart.lostAccess)
  | .lrRead h _ home .. => lose h home (fun _ => Hart.lostAccess)
  | .own h _ home .. => lose h home (fun _ x => { x with st := none })
  | .write h _ home line .. => lose h home (fun t x => x.lostStore home line bit t)
  | .ack h home line .. => lose h home (fun t x => x.lostStore home line bit t)
  | .vaultWrite h _ addr .. =>
    lose h (hartOf ((addr - Config.vaultBase) / 0x800000) 0) (fun t x => { x with unacked := x.unacked - 1 }.addFail bit t true)
  | .vaultAck h addr _ =>
    lose h (hartOf ((addr - Config.vaultBase) / 0x800000) 0) (fun t x => { x with unacked := x.unacked - 1 }.addFail bit t true)
  | _ => s

/-- Every message in flight that meets a failed way. -/
def State.loseMsgs (s : State) (bit : Nat) (far : Nat → Nat → Option Nat) : State :=
  s.msgs.foldl (fun s m => s.loseMsg bit far m.1 m.2) s

/-- The port of a request to the host, and the die it comes from. -/
def HostReq.route (r : HostReq) (s : State) : Nat × Nat :=
  match r with
  | .load h p .. | .amo h p .. | .amoC h _ p .. | .zlr h p _ => (p, dieOf h)
  | .copy t p => (p, match s.transfer t with
    | some x => dieOfQuad x.quad
    | none => portDie p)
  | .zlrLaunch _ p | .args _ p => (p, portDie p)

/-! ## Die links (R35) -/

/-- A request to the host that must cross a down link is lost. -/
def State.loseReq (s : State) (id : Nat) (r : HostReq) : State :=
  let (p, d) := r.route s
  match s.deadRoute d (portDie p) with
  | none => s
  | some far =>
    let s := s.dropReq id
    match r with
    | .load h .. | .amo h .. | .amoC h .. => s.modHart h Hart.lostAccess
    | .zlr h _ n => s.modHart h (·.failMany failDeadlink (0x1000 + far) n)
    | .copy t _ => s.modTransfer t (fun x => { x with host := 0 })
    | _ => s

/-- Posted stores to host memory whose way is down and that no zero-length read has followed yet. -/
def State.losePosted (s : State) (h : Nat) : State :=
  s.modHart h (fun x => x.postedPorts.foldl (fun x e =>
    match s.deadRoute (dieOf h) (portDie e.1) with
    | some far => { x.failMany failDeadlink (0x1000 + far) e.2 with postedPorts := Store.del x.postedPorts e.1 }
    | none => x) x)

/-- Held renewals and vault watches whose hart is across a down link. -/
def State.loseWaits (s : State) : State :=
  let gone (h : Nat) (d : Nat) : Bool := (s.deadRoute (dieOf h) d).isSome
  let rs := s.homes.flatMap (fun m : Nat × Home => (m.2.held.filter (fun r => gone r.hart (dieOfHome m.1))).map (·.hart))
  let ws := s.quads.flatMap (fun q : Nat × Quad => (q.2.watches.filter (fun w => gone w.hart (dieOfQuad q.1))).map (·.hart))
  let s := { s with
    homes := s.homes.map (fun m : Nat × Home => (m.1, { m.2 with held := m.2.held.filter (fun r => !gone r.hart (dieOfHome m.1)) })),
    quads := s.quads.map (fun q : Nat × Quad => (q.1, { q.2 with watches := q.2.watches.filter (fun w => !gone w.hart (dieOfQuad q.1)) })) }
  (rs ++ ws).foldl (fun s h => s.modHart h Hart.lostAccess) s

/-- A die link is declared down. -/
def State.dieLinkDown (s : State) (edge cause : Nat) : State :=
  let s := { s with dieLinks := Store.put s.dieLinks edge { fails := 0, down := true } }
  let s := s.audit 0x0021 0xF000 0 (payload3 edge cause 0)
  let s := s.loseMsgs failDeadlink (fun h home => (s.deadRoute (dieOf h) (dieOfHome home)).map (0x1000 + ·))
  let s := s.hostReqs.foldl (fun s r => s.loseReq r.1 r.2) s
  let s := (s.allTransfers.filter (fun t => t.sent && t.phase == .moving)).foldl (fun s t =>
    match s.netDead t with
    | some d => s.failNet t xsDeadlink failDeadlink d
    | none => s) s
  (s.harts.map (·.1)).foldl State.losePosted s.loseWaits

/-- DIE_LINK_REPLAY: 16 failed replays in a row declare the link down. -/
def execDieLinkReplay (edge : Nat) (good : Bool) (s : State) : Result :=
  if 4 ≤ edge || s.linkDown edge then .next s
  else
    let n := (Store.get {} s.dieLinks edge).fails
    if good then .next { s with dieLinks := Store.put s.dieLinks edge { fails := 0 } }
    else if 15 ≤ n then .next (s.dieLinkDown edge 0)
    else .next { s with dieLinks := Store.put s.dieLinks edge { fails := n + 1 } }

/-- DIE_LINK_IDLE_TIMEOUT. -/
def execDieLinkIdleTimeout (edge : Nat) (s : State) : Result :=
  if 4 ≤ edge || s.linkDown edge then .next s else .next (s.dieLinkDown edge 1)

/-! ## Host ports (R43, R45) -/

/-- A request that waits at a port whose link goes down: loads and AMOs meet the failure when they run again, and copies when they go
on; no zero-length read is awaited. An argument read ends with its completion time-out (R76). -/
def State.lostReq (s : State) (p id : Nat) (r : HostReq) : State :=
  if (r.route s).1 ≠ p then s
  else
    match r with
    | .load h .. | .amo h .. | .amoC h .. => (s.dropReq id).modHart h Hart.lostAccess
    | .copy t _ => (s.dropReq id).modTransfer t (fun x => { x with host := 0 })
    | .zlrLaunch .. => s.dropReq id
    | .zlr .. | .args .. => s

/-- What a host port's link takes with it: messages to its proxy, the requests that wait there, and the posted stores that no
zero-length read has followed. -/
def State.portLost (s : State) (p : Nat) : State :=
  let target := 0x2000 + p
  let s := s.loseMsgs failDeadlink (fun _ home => if home = 0x3000 + p then some target else none)
  let s := s.dropMsgs (fun m => match m with | .hostFetch h .. => h == 0x3000 + p | _ => false)
  let zs := s.hostReqs.filterMap (fun r => match r.2 with
    | .zlr h p' n => if p' = p then some (r.1, (h, n)) else none
    | _ => none)
  let s := zs.foldl (fun s z => (s.dropReq z.1).modHart z.2.1 (·.failMany failDeadlink target z.2.2)) s
  let s := s.hostReqs.foldl (fun s r => s.lostReq p r.1 r.2) s
  (s.harts.map (·.1)).foldl (fun s h => s.modHart h (fun x =>
    { x.failMany failDeadlink target (Store.get 0 x.postedPorts p) with postedPorts := Store.del x.postedPorts p })) s

def State.hostDown (s : State) (p cause : Nat) : State :=
  ((s.modPort p (fun x => { x with up := false, cxl := false })).audit 0x0022 0xF000 0 (payload3 p 0 cause)).portLost p

/-- HOST_LINK_DOWN. -/
def execHostLinkDown (port : Nat) (s : State) : Result :=
  if 2 ≤ port || !(s.port port).up then .next s else .next (s.hostDown port 0)

/-- HOST_LINK_UP: a port whose proxy was declared dead twice stays non-coherent (R255). -/
def execHostLinkUp (port : Nat) (cxl : Bool) (s : State) : Result :=
  if 2 ≤ port || (s.port port).up then .next s
  else
    .next ((s.modPort port (fun x => { x with up := true, cxl := cxl && decide (x.deaths < 2) })).audit 0x0022 0xF000 0
      (payload3 port 1 0))

/-! ## Dead agents (R251 to R255) -/

/-- Is the number an agent of the part? -/
def State.isAgent (s : State) (a : Nat) : Bool :=
  s.hartPresent a || (decide (0x1000 ≤ a) && decide (a < 0x1280) && s.quadPresent (a - 0x1000))
    || (decide (0x2000 ≤ a) && decide (a < 0x2040)) || a == 0x3000 || a == 0x3001

/-- How often an agent has been declared dead since cold reset. -/
def State.deathsOf (s : State) (a : Nat) : Nat :=
  if a < 0x1000 then (s.hart a).deaths
  else if a < 0x2000 then (s.quad (a - 0x1000)).copyDeaths
  else if a < 0x3000 then Store.get 0 s.ladleDeaths (a - 0x2000)
  else (s.port (a - 0x3000)).deaths

/-- Is a reply of the agent awaited? A hart's is while a recall of it is not answered; a copy engine's or a stream controller's while
a transfer of it moves, or a port's request waits for the copy engine (R205); a proxy's while a request to it is not served. -/
def State.awaitedAgent (s : State) (a : Nat) : Bool :=
  if a < 0x1000 then
    s.msgs.any (fun m => match m.2 with
      | .recallMsg _ _ o _ => o == a
      | .recallReply o .. => o == a
      | _ => false)
  else if a < 0x2000 then
    !(s.quad (a - 0x1000)).portq.isEmpty || (s.quad (a - 0x1000)).transfers.any (fun t => !t.kind.stream && t.phase == .moving)
  else if a < 0x3000 then s.allTransfers.any (fun t => t.kind.stream && t.phase == .moving && t.ladles.contains (a - 0x2000))
  else
    s.msgs.any (fun m => m.2.request.any (fun r => r.2.1 == a))
      || s.hostReqs.any (fun r => match r.2 with | .amoC _ _ p .. => 0x3000 + p == a | _ => false)

/-- REPLY_TIMEOUT: the agent is reported to the RTU. -/
def execReplyTimeout (agent : Nat) (s : State) : Result :=
  if s.isAgent agent && decide (s.deathsOf agent < 2) && s.awaitedAgent agent then
    .next (s.modRtu (fun r => { r with reported := insertNat r.reported agent }))
  else .next s

/-- Raise the incarnation of an agent. -/
def State.raiseInc (s : State) (a : Nat) : State :=
  let up (n : Nat) : Nat := (n + 1) % 65536
  if a < 0x1000 then s.modHart a (fun h => { h with inc := up h.inc, deaths := h.deaths + 1 })
  else if a < 0x2000 then s.modQuad (a - 0x1000) (fun q => { q with copyInc := up q.copyInc, copyDeaths := q.copyDeaths + 1 })
  else if a < 0x3000 then
    { s with
      ladleInc := Store.put s.ladleInc (a - 0x2000) (up (Store.get 0 s.ladleInc (a - 0x2000))),
      ladleDeaths := Store.put s.ladleDeaths (a - 0x2000) (Store.get 0 s.ladleDeaths (a - 0x2000) + 1) }
  else s.modPort (a - 0x3000) (fun p => { p with inc := up p.inc, deaths := p.deaths + 1 })

/-- A hart declared dead: its task ends FAULTED with cause 29 and nothing is saved; its posted stores count as failed. -/
def State.hartDead (s : State) (h : Nat) : State :=
  let old := s.hart h
  let s := match old.task with
    | some k => s.endTask k 11 29 h false
    | none => s
  let s := s.dropMsgs (fun m => match m with
    | .readReply d .. => d == h
    | .ownReply d .. => d == h
    | .ack d .. => d == h
    | .vaultAck d .. => d == h
    | _ => false)
  let s := { s with
    walks := s.walks.filter (fun w => w.hart != h),
    hostReqs := s.hostReqs.filter (fun r => match r.2 with
      | .load x .. | .amo x .. | .zlr x .. => x != h
      | _ => true),
    homes := s.homes.map (fun m : Nat × Home => (m.1, { m.2 with held := m.2.held.filter (fun r => r.hart != h) })),
    quads := s.quads.map (fun q : Nat × Quad => (q.1, { q.2 with watches := q.2.watches.filter (fun w => w.hart != h) })) }
  let lost := old.unacked + (old.sb.filter (fun e => !e.onDie h)).length + (old.postedPorts.map (·.2)).sum
  let fresh : Hart :=
    { status := .free, pts := old.pts, inc := old.inc, deaths := old.deaths, fstat := old.fstat, driftAt := old.driftAt }
  let s := s.setHart h (fresh.failMany failPoison h lost)
  match old.ctx with
  | some _ => s.settleStage (ends := false) h (match old.ctx.bind s.context with
    | some x => x.asid
    | none => 0)
  | none => s

/-- A proxy declared dead: its lines are poisoned and dropped, and its link retrains. -/
def State.proxyDead (s : State) (p : Nat) : State :=
  let home := 0x3000 + p
  let s := (s.home home).lines.foldl (fun s l =>
    let m := s.home home
    let t := max m.hclk m.floor + 1
    (s.setPoison (64 * l.1)).modHome home (fun m => { m with hclk := t })) s
  let s := s.modHome home (fun m => { m with lines := [], granules := [], held := [] })
  let s := { s with harts := s.harts.map (fun h : Nat × Hart => (h.1, { h.2 with
    l1 := h.2.l1.filter (fun l : Nat × L1Line => !(l.1 % 65536 == home && l.2.st == L1State.owned)) })) }
  s.hostDown p 1

/-- A transfer of a dead engine ends with a poison status; the access it had in progress is discarded (R254, R255). -/
def State.endDead (s : State) (id : Nat) : State := (s.modTransfer id (fun t => { t with held := [] })).endTransfer id xsPoison

/-- A queued transfer that needs a controller which has left service takes another one of the stack (R255; log 108). -/
def State.moveLadle (s : State) (t : Transfer) (k : Nat) : State :=
  if s.ladleServes k then s
  else
    let (l, s) := s.chooseLadle (k / 8)
    s.modTransfer t.id (fun t => { t with ladles := t.ladles.map (fun x => if x = k then l else x) })

/-- DEAD_AGENT_DECLARATION. -/
def execDeadAgentDeclaration (agent : Nat) (s : State) : Result :=
  if !s.rtu.reported.contains agent then .next s
  else
    let s := (s.modRtu (fun r => { r with reported := r.reported.filter (· != agent) })).raiseInc agent
    let s := s.audit 0x0030 0xF000 0 (payload3 agent (s.incOf agent) 0)
    let s :=
      if agent < 0x1000 then s.hartDead agent
      else if agent < 0x2000 then
        ((s.quad (agent - 0x1000)).transfers.filter (fun t => !t.kind.stream)).foldl (fun s t => s.endDead t.id) s
      else if agent < 0x3000 then
        (s.allTransfers.filter (fun t => t.kind.stream && t.ladles.contains (agent - 0x2000))).foldl (fun s t =>
          if t.phase = .queued then s.moveLadle t (agent - 0x2000) else s.endDead t.id) s
      else s.proxyDead (agent - 0x3000)
    if 2 ≤ s.deathsOf agent && agent < 0x2000 then
      .next (s.modQuad (if agent < 0x1000 then quadOf agent else agent - 0x1000) (fun q => { q with outOfService := true }))
    else .next s

/-- DECLARATION_RECEIVE: the home drops and poisons every line that the dead incarnation owns, and answers its renewals. -/
def execDeclarationReceive (home agent : Nat) (s : State) : Result :=
  let dead := (s.home home).lines.filter (fun l => l.2.owner.any (fun o => o.1 == agent && o.2 != s.incOf agent))
  .next ((dead.foldl (fun s l => s.declareLine home l.1) s).wakeHeld home)

/-! ## Errors (R230) -/

/-- PATROL_PASS: uncorrectable lines of the stack are poisoned, corrected errors are counted on the die. -/
def execPatrolPass (stack : Nat) (s : State) : Result :=
  if 8 ≤ stack then .next s
  else
    let (bad, n) := Config.patrolErrors s.free stack
    let s := { s with free := s.free + 1 }
    let s := bad.foldl (fun s a => if a < Config.hbmBytes && stackOf a = stack then s.setPoison a else s) s
    .next { s with corrected := Store.set 0 s.corrected (stack / 2) (Store.get 0 s.corrected (stack / 2) + n) }

/-! ## Power and temperature (R23, R24) -/

/-- Does the running average of the input power over 1 ms exceed a bound in milliwatts? With fewer than 1,000 samples it is the
average of those taken so far (log 105). -/
def Power.above (p : Power) (mw : Nat) : Bool := decide (mw * p.samples.length < p.samples.sum)
def Power.below (p : Power) (mw : Nat) : Bool := decide (p.samples.sum < mw * max 1 p.samples.length)

/-- POWER_SAMPLE. -/
def execPowerSample (mw : Nat) (s : State) : Result :=
  .next { s with power := { s.power with samples := (mw :: s.power.samples).take 1000 } }

/-- Set the matrix duty step, counting a change. -/
def Power.toStep (p : Power) (n : Nat) : Power := if n = p.step then p else { p with step := n, changes := p.changes + 1 }

/-- DUTY_STEP. -/
def execDutyStep (s : State) : Result :=
  let p := s.power
  if p.hot then .next s
  else if p.above 2800000 then .next { s with power := p.toStep (min 12 (p.step + 1)) }
  else if p.below 2660000 then .next { s with power := p.toStep (p.step - 1) }
  else .next s

/-- SENSOR_SAMPLE: 100 °C forces step 12, 110 °C halts the core clock. -/
def execSensorSample (die sensor celsius : Nat) (s : State) : Result :=
  if 4 ≤ die || 16 ≤ sensor then .next s
  else
    let sensors := Store.set 0 s.power.sensors (16 * die + sensor) celsius
    let hot := sensors.any (fun x => decide (100 ≤ x.2))
    let p := { s.power with sensors := sensors, hot := hot }
    let s := { s with power := if hot then p.toStep 12 else p }
    if 110 ≤ celsius then .next { s.audit 0x0020 0xF000 0 (payload3 die sensor celsius) with halted := true } else .next s

end Sys2Proof.Machine
end

