-- ==== Sys2Proof/Machine/HandleOps.lean ====
section
/-! DEFINITION. The handle instructions HLD, HST, HGET and HSETX (R401). -/

namespace Sys2Proof.Machine

/-- HLD at an address. -/
def loadHandle (d : Reg) (va : Word) (s : State) : Act Unit :=
  if s.excluded va.toNat 64 then .trap 25 va s
  else if va.toNat % 64 ≠ 0 then .trap 4 va s
  else
    let parts := wordPieces va.toNat 64
    (s.loadList parts).andThen fun vs s =>
      .ok () ((s.hset d (BitVec.ofNat 512 (ofBytes (partBytes parts vs)))).record 3 3 va)

/-- HLD. -/
def execHld (d a : Reg) (s : State) : Result := insL [a] [] [] (fun s => loadHandle d (s.rx a) s) s

/-- HLD_IMM. -/
def execHldImm (d a : Reg) (imm : BitVec 12) (s : State) : Result :=
  insL [a] [] [] (fun s => loadHandle d (s.ea a imm) s) s

/-- HLD_W64. -/
def execHldW64 (d a : Reg) (off : BitVec 24) (s : State) : Result :=
  insL [a] [] [] (fun s => loadHandle d (s.ea a off) s) s

/-- HST at an address. -/
def storeHandle (d : Reg) (va : Word) (s : State) : Act Unit :=
  if va.toNat % 64 ≠ 0 then .trap 6 va s else
    (s.storeWords va.toNat (bytesOf 64 (s.hget d).toNat)).andThen fun _ s => .ok () (s.record 3 4 va)

/-- HST. -/
def execHst (d a : Reg) (s : State) : Result := insL [a] [] [codeH d] (fun s => storeHandle d (s.rx a) s) s

/-- HST_IMM. -/
def execHstImm (d a : Reg) (imm : BitVec 12) (s : State) : Result :=
  insL [a] [] [codeH d] (fun s => storeHandle d (s.ea a imm) s) s

/-- HST_W64. -/
def execHstW64 (d a : Reg) (off : BitVec 24) (s : State) : Result :=
  insL [a] [] [codeH d] (fun s => storeHandle d (s.ea a off) s) s

/-- Word `sel` of a handle. -/
def handleWord (l : Line) (sel : Nat) : Word := BitVec.ofNat 64 (lineGet l (8 * sel) 8)

/-- HGET. -/
def execHget (d a b : Reg) (s : State) : Result :=
  insL [d, b] [] [codeH a] (fun s => .ok () (s.wx d (handleWord (s.hget a) (natBits (s.rx b).toNat 0 3)))) s

/-- HGET_I. -/
def execHgetI (d a : Reg) (sel : BitVec 3) (s : State) : Result :=
  insL [d] [] [codeH a] (fun s => .ok () (s.wx d (handleWord (s.hget a) sel.toNat))) s

/-- Word `sel` of H[d] takes X[a]. -/
def setHandleWord (d a : Reg) (sel : Nat) (s : State) : Act Unit :=
  .ok () (s.hset d (lineSet (s.hget d) (8 * sel) 8 (s.rx a).toNat))

/-- HSETX. -/
def execHsetx (d a b : Reg) (s : State) : Result :=
  insL [a, b] [] [codeH d] (fun s => setHandleWord d a (natBits (s.rx b).toNat 0 3) s) s

/-- HSETX_I. -/
def execHsetxI (d a : Reg) (sel : BitVec 3) (s : State) : Result :=
  insL [a] [] [codeH d] (setHandleWord d a sel.toNat) s

end Sys2Proof.Machine
end

