-- ==== Sys2Proof/Machine/Host.lean ====
section
/-! DEFINITION. What the host and the supervisor ask of the device: launches and completion records, apertures, the supervisor
calls but for the two that translate code, and environment calls (04; 06, R135; 08, R167; 10, R213). -/

namespace Sys2Proof.Machine

/-! ## Launch records and completion records (R71 to R84) -/

def recAsid (r : BitVec 512) : Nat := lineGet r 0 2
def recKind (r : BitVec 512) : Nat := lineGet r 2 1
def recFlags (r : BitVec 512) : Nat := lineGet r 3 1
def recClass (r : BitVec 512) : Nat := lineGet r 4 1
def recRoot (r : BitVec 512) : Nat := lineGet r 8 8
def recDeadline (r : BitVec 512) : Nat := lineGet r 0x10 8
def recArgs (r : BitVec 512) : Nat := lineGet r 0x18 8
def recLen (r : BitVec 512) : Nat := lineGet r 0x20 2
def recVector (r : BitVec 512) : Nat := lineGet r 0x22 2
def recDone (r : BitVec 512) : Nat := lineGet r 0x28 8
def recTag (r : BitVec 512) : Nat := lineGet r 0x30 8

def lsOk : Nat := 0
def lsFaulted : Nat := 1
def lsCancelled : Nat := 2
def lsBadRecord : Nat := 3
def lsBadTcb : Nat := 4
def lsAuditFull : Nat := 5
def lsArgsFault : Nat := 6

/-- Does R73 reject the record of a tenant's port? -/
def badRecord (r : BitVec 512) (asid argSlots : Nat) : Bool :=
  recAsid r != asid || decide (1 < recKind r) || decide (7 < recFlags r) || lineGet r 5 3 != 0 || lineGet r 0x24 4 != 0
    || lineGet r 0x38 8 != 0 || decide (4096 < recLen r) || (recLen r != 0 && argSlots == 0) || decide (2047 < recVector r)
    || decide (7 < recClass r)

/-- The fault summary (R79). -/
def Launch.faults (l : Launch) : Nat :=
  let (h, c) := if l.faulted = 0 then (0, 0) else l.firstFault.getD (0, 0)
  c % 256 + h % 4096 * 2 ^ 8 + min l.faulted 0xFFFF * 2 ^ 32 + min l.cancelled 0xFFFF * 2 ^ 48

/-- The 32 bytes of a completion record (R79). -/
def completionBytes (seq status flags retired faults ns : Nat) : List Byte :=
  bytesOf 8 seq ++ bytesOf 2 status ++ bytesOf 2 flags ++ bytesOf 4 (min retired (2 ^ 32 - 1)) ++ bytesOf 8 faults ++ bytesOf 8 ns

/-- A store to host memory that a proxy's copy of the line does not outlive. -/
def State.hostStore (s : State) (a : Nat) (bs : List Byte) : State :=
  let s := (linesOf a bs.length).foldl (fun s line => [0x3000, 0x3001].foldl (fun s home =>
    if (s.home home).holds (lineNo line) then
      ((s.recallNow home line).wakeHeld home).modHome home (·.dropLine true (lineNo line))
    else s) s) s
  s.writeBytes a bs

def State.launchPort (s : State) (asid : Nat) : LaunchPort := Store.get {} s.launchPorts asid
def State.modLaunchPort (s : State) (asid : Nat) (f : LaunchPort → LaunchPort) : State :=
  { s with launchPorts := Store.put s.launchPorts asid (f (s.launchPort asid)) }

/-- A completion write with its MSI-X message, or the count of one that the port's link could not carry (R79, R81, R82, R84). -/
def State.complete (s : State) (l : Launch) (status flags : Nat) (notify : Bool) : State :=
  if (s.port l.port).up then
    let r := completionBytes s.disp.eventSeq status flags l.retired l.faults s.ns
    let a := recDone l.record
    let s := s.modDisp (fun d => { d with eventSeq := d.eventSeq + 1 })
    let s := if a + 32 ≤ 2 ^ 55 then s.hostStore (Config.hostBase + a) r else s
    if notify then s.toHost (.msix l.port (recVector l.record)) else s
  else s.modLaunchPort l.asid (fun p => { p with dropped := min 0xFFFF (p.dropped + 1) })

/-- The only completion write of a launch that is rejected. -/
def State.completeOnly (s : State) (l : Launch) (status : Nat) : State :=
  s.complete l status 3 (status != lsBadRecord && natBit (recFlags l.record) 0)

/-- The ARGS_CONSUMED write. -/
def State.argsConsumed (s : State) (l : Launch) : State := s.complete l lsOk 1 (natBit (recFlags l.record) 1)

def State.launchAt (s : State) (id : Nat) : Option Launch := Store.find? s.disp.launches id
def State.setLaunch (s : State) (id : Nat) (l : Launch) : State :=
  s.modDisp (fun d => { d with launches := Store.put d.launches id l })
def State.dropLaunch (s : State) (id : Nat) : State := s.modDisp (fun d => { d with launches := Store.del d.launches id })

/-- Is the launch accepted and not yet submitted? -/
def Launch.waiting (l : Launch) : Bool := l.phase == .reading || l.phase == .ready

/-- Launches that count in PENDING (R69). -/
def State.pendingOf (s : State) (asid : Nat) : Nat := (s.disp.launches.filter (fun l => l.2.asid == asid && l.2.waiting)).length

/-- The port status register (R69). -/
def State.portStatus (s : State) (asid : Nat) : Word :=
  let p := s.launchPort asid
  let live := (s.disp.launches.filter (fun l => l.2.asid == asid)).length
  BitVec.ofNat 64 ((if p.opened then 1 else 0) + (if s.rtu.auditFull then 2 else 0) + min 255 (s.pendingOf asid) * 2 ^ 8
    + min 0xFFFF live * 2 ^ 16 + p.dropped * 2 ^ 32)

/-- The host reads `len` bytes of the launch-port page of an ASID: the status, or zeros (R68). -/
def State.portRead (s : State) (port page off len : Nat) : State :=
  if 2 ≤ port || !(s.port port).up then s
  else s.toHost (.data (if off = 0x40 && len = 8 then bytesOf 8 (s.portStatus page).toNat else List.replicate len 0))

/-- Has firmware extended MEAS3 with the supervisor's image (R51)? -/
def Rtu.meas3Done (r : Rtu) : Bool := r.supervisor.isSome

/-- A waiting launch ends with a status; its slot is free. -/
def State.rejectLaunch (s : State) (id status : Nat) : State :=
  match s.launchAt id with
  | none => s
  | some l => ((s.freeArgs id).completeOnly l status).dropLaunch id

/-- The lowest free slot of a tenant's argument pool. -/
def Tenant.freeArg (t : Tenant) : Option Nat := (List.range t.argSlots).find? (fun i => !t.argUsed.contains i)

/-- What follows the ARGS_CONSUMED write: a MARKER submits nothing. -/
def Launch.ready (l : Launch) : Launch := { l with phase := if recKind l.record = 1 then .submitted else .ready }

/-- An accepted record (R73, R75, R76). -/
def State.acceptLaunch (s : State) (port asid : Nat) (t : Tenant) (rec : BitVec 512) : State :=
  let l : Launch :=
    { asid := asid, port := port, record := rec, phase := .reading,
      deadline := if recDeadline rec = 0 then s.ns + t.slack else recDeadline rec }
  if badRecord rec asid t.argSlots then s.completeOnly l lsBadRecord
  else if s.rtu.auditFull then s.completeOnly l lsAuditFull
  else
    let id := s.disp.nextLaunch
    let s := s.modDisp (fun d => { d with nextLaunch := id + 1 })
    if recLen rec = 0 then (s.setLaunch id l.ready).argsConsumed l
    else
      let slot := t.freeArg.getD 0
      let s := s.modTenant asid (fun t => { t with argUsed := insertNat t.argUsed slot })
      let s := s.setLaunch id { l with slotIdx := some slot }
      if 2 ^ 55 < recArgs rec + recLen rec then s.rejectLaunch id lsArgsFault else s.askHost (.args id port)

/-- LAUNCH (R68, R72). -/
def execLaunch (port page : Nat) (rec : BitVec 512) (s : State) : Result :=
  if 2 ≤ port || 65536 ≤ page || !(s.port port).up then .next s
  else if s.rtu.boot != .released || !(s.launchPort page).opened then .next (s.toHost .unsupported)
  else if recDone rec % 32 ≠ 0 then .next (s.toHost .abort)
  else
    match s.tenant page with
    | none => .next (s.toHost .unsupported)
    | some t =>
      let unsub := (s.disp.launches.filter (fun l => l.2.port == port && l.2.waiting)).length
      if t.pendingCap ≤ s.pendingOf page || 1024 ≤ unsub || (t.argSlots != 0 && t.freeArg.isNone && recLen rec != 0) then
        .next (s.toHost .retry)
      else .next ((s.toHost .success).acceptLaunch port page t rec)

/-- LAUNCH_PORT_DMWR_OTHER (R68). -/
def execLaunchPortDmwrOther (_port _page _off _len : Nat) (s : State) : Result := .next (s.toHost .unsupported)

/-- LAUNCH_PORT_POSTED_WRITE (R68): the write is discarded. -/
def execLaunchPortPostedWrite (_port _page _off : Nat) (_data : Word) (s : State) : Result := .next s

/-- Bytes written at a tenant's virtual address, at the homes of the lines: every line is writable HBM of the tenant, or
nothing is written. -/
def State.tenantWrite (s : State) (asid va : Nat) (bs : List Byte) (clk : Nat) : Option (Nat × State) :=
  let parts := linePieces va bs.length (bs.length + 1)
  if parts.all (fun p => (s.tcbPlace asid .store p.1).isSome) then
    let r := parts.foldl (fun (a : Nat × State × List Byte) p =>
      let (t, s) := a.2.1.putTcb asid p.1 p.2 (ofBytes (a.2.2.take p.2)) clk
      (max a.1 t, s, a.2.2.drop p.2)) (clk, s, bs)
    some (r.1, r.2.1)
  else none

/-- Is the argument read of a launch outstanding? -/
def State.argsReq (s : State) (id : Nat) : Option Nat :=
  firstSome (fun r : Nat × HostReq => match r.2 with
    | .args l _ => if l = id then some r.1 else none
    | _ => none) s.hostReqs

/-- ARGS_READ_COMPLETE (R75, R76). -/
def execArgsReadComplete (id : Nat) (s : State) : Result :=
  match s.launchAt id, s.argsReq id with
  | some l, some req =>
    let s := s.dropReq req
    let a := Config.hostBase + recArgs l.record
    let n := recLen l.record
    let slot := (s.tenant l.asid).map (fun t => t.argPool + 4096 * l.slotIdx.getD 0)
    if s.rangePoisoned a n then .next (s.rejectLaunch id lsArgsFault)
    else
      match slot.bind (fun va => s.tenantWrite l.asid va (s.peekBytes a n) 0) with
      | none => .next (s.rejectLaunch id lsArgsFault)
      | some (t, s) =>
        let l := { l with argTime := t }
        .next ((s.argsConsumed l).setLaunch id l.ready)
  | _, _ => .next s

/-- May the launch be submitted: are the earlier ones of its ASID submitted, and done when it is ORDERED (R71, R74)? -/
def State.launchTurn (s : State) (id : Nat) (l : Launch) : Bool :=
  s.disp.launches.all (fun e => !(decide (e.1 < id) && e.2.asid == l.asid)
    || (if natBit (recFlags l.record) 2 then e.2.phase == .done else !(e.2.waiting && recKind e.2.record == 0)))

/-- The writes to the root TCB (R77). -/
def State.prepareRoot (s : State) (l : Launch) (t : Tenant) : Option (Nat × State) :=
  let root := recRoot l.record
  let arg := match l.slotIdx with
    | some i => t.argPool + 4096 * i
    | none => 0
  if root % 64 ≠ 0 then none
  else
    [(0x10, bytesOf 8 arg), (0x20, bytesOf 8 l.deadline), (0x2D, bytesOf 1 (max (recClass l.record) t.floor)),
     (0x60, bytesOf 8 (recTag l.record))].foldl
      (fun (a : Option (Nat × State)) w =>
        match a with
        | none => none
        | some (tm, s) => (s.tenantWrite l.asid (root + w.1) w.2 0).map (fun r => (max tm r.1, r.2))) (some (0, s))

/-- LAUNCH_SUBMIT (R77, R119, R270): a root that cannot be taken waits (log 112 for BAD_TCB). -/
def execLaunchSubmit (id : Nat) (s : State) : Result :=
  match s.launchAt id with
  | none => .next s
  | some l =>
    match s.tenant l.asid with
    | none => .next s
    | some t =>
      if l.phase != .ready || !s.launchTurn id l then .next s
      else
        match s.prepareRoot l t with
        | none => .next (s.rejectLaunch id lsBadTcb)
        | some (tm, s) =>
          let t0 := max (max tm l.argTime) (max (s.port 0).apTime (s.port 1).apTime)
          let (r, s) := s.submit l.asid (recRoot l.record) (portDie l.port) (some id) none t0
          if r = 11 then .next s
          else if r ≠ 0 then .next (s.rejectLaunch id lsBadTcb)
          else .next (s.modDisp (fun d => { d with launches := d.launches.map (fun x : Nat × Launch =>
            if x.1 = id then (id, { x.2 with phase := .submitted }) else x) }))

/-- Has a hart of the ASID stores of an ended task still on their way to the host? -/
def State.storesLeft (s : State) (asid : Nat) : Bool :=
  s.harts.any (fun h => h.2.status == .stopping && s.asidOf h.1 == asid && !h.2.sb.isEmpty)

/-- The status of a launch that ends (R80). -/
def Launch.status (l : Launch) : Nat :=
  if l.faulted ≠ 0 then lsFaulted else if l.ended || l.anyCtxCancel then lsCancelled else lsOk

/-- LAUNCH_DONE (R82): the argument slot is freed and the zero-length reads are sent; once they have completed, the DONE write. -/
def execLaunchDone (id : Nat) (s : State) : Result :=
  match s.launchAt id with
  | none => .next s
  | some l =>
    let earlier := recKind l.record = 1 && !l.ended && s.disp.launches.any (fun e => decide (e.1 < id) && e.2.asid == l.asid)
    if l.phase != .submitted || l.live ≠ 0 || earlier || s.storesLeft l.asid then .next s
    else
      let ports := l.ports.filter (fun p => (s.port p).up)
      if !l.zlrSent && !ports.isEmpty then
        let s := (s.freeArgs id).modDisp (fun d => { d with launches := d.launches.map (fun x : Nat × Launch =>
          if x.1 = id then (id, { x.2 with zlrSent := true }) else x) })
        .next (ports.foldl (fun s p => s.askHost (.zlrLaunch id p)) s)
      else if s.hostReqs.any (fun r => match r.2 with | .zlrLaunch x _ => x == id | _ => false) then .next s
      else .next (((s.freeArgs id).complete l l.status 3 (natBit (recFlags l.record) 0)).dropLaunch id)

/-! ## Apertures (R70, R94, R270) -/

/-- The physical address and the home of a byte of an aperture page. -/
def State.apertureAt (s : State) (port page off : Nat) : Option (Nat × Nat) :=
  match Store.find? (s.port port).bar4 page with
  | none => none
  | some (frame, asid, index) =>
    let a := frame + off
    if 0x200000 ≤ off || !s.slotUsed (s.frame (a / 0x200000)).slot then none
    else if asid = 0 then some (a, s.physHome a)
    else
      match s.tenant asid with
      | none => none
      | some t =>
        let at_ := t.homing + 32 * index
        let e := s.peekNat at_ 32
        if s.readable at_ then (s.entryHome e (natBits e 0 8 != 1) a).map (fun h => (a, h)) else none

/-- Write a part of a line through an aperture, performed at its home with t0 = 0. -/
def State.aperturePiece (s : State) (port page off : Nat) (bs : List Byte) : State :=
  match s.apertureAt port page off with
  | none => s
  | some (a, home) =>
    let o := a % 64
    let (t, s) := s.engineWrite home (a / 64 * 64) (byteMask o bs.length) (BitVec.ofNat 512 (ofBytes bs * 2 ^ (8 * o))) 0 0
    s.modPort port (fun p => { p with apTime := max p.apTime t })

/-- APERTURE_WRITE; in recovery, port 0 writes the recovery window of 32 MiB (R48; log 8). -/
def execApertureWrite (port page off : Nat) (data : List Byte) (s : State) : Result :=
  if 2 ≤ port || !(s.port port).up || 0x200000 < off + data.length then .next s
  else if s.rtu.boot != .released then
    if s.rtu.boot = .recovery && port = 0 && page < 16 then
      .next (s.modRtu (fun r => { r with window := cellWrite r.window (page * 0x200000 + off) data }))
    else .next s
  else
    .next ((linePieces off data.length (data.length + 1)).foldl (fun (a : State × List Byte) p =>
      (a.1.aperturePiece port page p.1 (a.2.take p.2), a.2.drop p.2)) (s, data)).1

/-- Read parts of lines through an aperture: none where a part cannot be read; the flag tells of poison. -/
def State.apertureRead (s : State) (port page : Nat) : List (Nat × Nat) → Option (List Byte × Bool × State)
  | [] => some ([], false, s)
  | (off, n) :: r =>
    match s.apertureAt port page off with
    | none => none
    | some (a, home) =>
      let (l, _, bad, s) := s.engineRead home (a / 64 * 64) 0 0
      (s.apertureRead port page r).map (fun x => (bytesOf n (lineGet l (a % 64) n) ++ x.1, bad || x.2.1, x.2.2))

/-- APERTURE_READ. -/
def execApertureRead (port page off len : Nat) (s : State) : Result :=
  if 2 ≤ port || !(s.port port).up then .next s
  else if s.rtu.boot != .released || 0x200000 < off + len then .next (s.toHost .unsupported)
  else
    match s.apertureRead port page (linePieces off len (len + 1)) with
    | none => .next (s.toHost .unsupported)
    | some (bs, bad, s) => .next (s.toHost (if bad then .abort else .data bs))

/-! ## Host requests that fail (R43, R76) -/

/-- A request to the host fails: `bit` is set in the fence status of the hart that waits for it, loads and AMOs trap, a copy
ends with a status, and an argument read ends its launch. `poison` gives a load or AMO cause 29. -/
def State.failReq (s : State) (id : Nat) (r : HostReq) (bit : Nat) (poison : Bool) (status : Nat) : State :=
  let s := s.dropReq id
  let hart (h p cause : Nat) : State :=
    s.modHart h (fun x => (x.addFail bit (0x2000 + p) false).remoteDone 0 none (some (if poison then 29 else cause)))
  match r with
  | .load h p .. => hart h p 5
  | .amo h p .. => hart h p 7
  | .amoC h _ p .. => hart h p 7
  | .copy t p =>
    match s.transfer t with
    | some x => (s.endTransfer t status).modHart x.hart (·.addFail bit (0x2000 + p) false)
    | none => s
  | .zlr h p _ => s.modHart h (·.addFail bit (0x2000 + p) false)
  | .zlrLaunch .. => s
  | .args l _ => s.rejectLaunch l lsArgsFault

/-- HOST_COMPLETION_TIMEOUT. -/
def execHostCompletionTimeout (req : Nat) (s : State) : Result :=
  match s.hostReq req with
  | some r => .next (s.failReq req r failTimeout false xsTimeout)
  | none =>
    match s.msg req with
    | some (.hostFetch home line _) => .next (s.failFetch req home line failTimeout false)
    | _ => .next s

/-- HOST_ERROR_COMPLETION: Unsupported Request, Completer Abort, or a poisoned TLP. -/
def execHostErrorCompletion (req : Nat) (k : HostErr) (s : State) : Result :=
  match s.hostReq req with
  | some r =>
    .next (match k with
      | .poison => s.failReq req r failPoison true xsPoison
      | _ => s.failReq req r failRefused false xsHostErr)
  | none =>
    match s.msg req with
    | some (.hostFetch home line _) =>
      .next (s.failFetch req home line (if k = .poison then failPoison else failRefused) (k == .poison))
    | _ => .next s

/-! ## Supervisor calls (R93) -/

def scOk : Int := 0
def scInvalid : Int := -1
def scBusy : Int := -2
def scExists : Int := -3
def scNoSpace : Int := -4
def scState : Int := -5
def scUnknown : Int := -6

/-- Argument i of the call of the current hart. -/
def State.arg (s : State) (i : Nat) : Nat := (s.rx (BitVec.ofNat 5 (10 + i))).toNat

/-- The result in a0 and the value in a1, free where the call gives none (log 7). -/
def State.answer (s : State) (code : Int) (value : Option Nat := none) : State :=
  let (v, s) := match value with
    | some v => ((BitVec.ofNat 64 v : Word), s)
    | none => s.fresh64
  (s.wx 10 (BitVec.ofInt 64 code)).wx 11 v

/-- Is the current hart at a supervisor call: in S-mode with a7 = "EVOI"? -/
def State.calling (s : State) : Bool := s.me.mode == .s && s.rx 17 == 0x45564F49

/-- Serve call `f` of the current hart, and go on after it. -/
def superCall (f : Nat) (serve : State → State) (s : State) : Result :=
  if s.calling && (s.rx 16).toNat == f && s.me.status.executes then
    .next ((serve s).modMe (fun h => { h with npc := h.pc + 4 }.retire))
  else .next s

/-! ### Owners and frames (R53 to R55, R94) -/

/-- Write back and drop every cached line of a frame, in the slices and in the L1s (R54). -/
def State.dropFrame (s : State) (f : Nat) : State :=
  let s := s.homes.foldl (fun s hm =>
    hm.2.lines.foldl (fun s l =>
      if 64 * l.1 / 0x200000 = f && !isProxy hm.1 then
        (s.recallNow hm.1 (64 * l.1)).modHome hm.1 (·.dropLine false l.1)
      else s) s) s
  { s with harts := s.harts.map (fun h : Nat × Hart => (h.1, { h.2 with
      l1 := h.2.l1.filter (fun l => !(l.2.kind == .hbm && l.1 / 65536 * 64 / 0x200000 == f)) })) }

/-- A frame's lines are decrypted with another key from now on: a line reads as noise while that is not the key it was written
with (R54, R55). -/
def State.loseFrame (s : State) (f : Nat) : State :=
  { s with frames := Store.set {} s.frames f { s.frame f with noise := s.retags }, retags := s.retags + 1 }

/-- Tag a frame. -/
def State.tagFrame (s : State) (f slot : Nat) (supw : Bool) : State :=
  let old := s.frame f
  let s := if old.slot = slot && old.supw = supw then s else s.dropFrame f
  let s := if old.slot = slot then s else s.loseFrame f
  { s with frames := Store.set {} s.frames f { s.frame f with slot := slot, supw := supw } }

def State.tagFrames (s : State) (f n slot : Nat) (supw : Bool) : State :=
  (List.range n).foldl (fun s i => s.tagFrame (f + i) slot supw) s

/-- OWNER_CREATE (the lowest free slot: log 111). -/
def ownerCreate (s : State) : State :=
  if s.rtu.auditFull then s.answer scBusy
  else
    match (List.range 4096).find? (fun i => !s.slotUsed i) with
    | none => s.answer scNoSpace
    | some i =>
      ((s.modRtu (fun r => { r with keys := Store.put r.keys i r.nextKey, nextKey := r.nextKey + 1 })).audit 0x0040 0xF000 0
        (payload3 i 0 0)).answer scOk (some i)

/-- OWNER_DESTROY: frames that carry the slot keep nothing that can be read. -/
def ownerDestroy (s : State) : State :=
  let i := s.arg 0
  if i = 0 || 4095 < i || !s.slotUsed i then s.answer scInvalid
  else if s.disp.contexts.any (fun c => (s.tenant c.2.asid).any (fun t => t.owner == i)) then s.answer scState
  else
    let fs := (s.frames.filter (fun f => f.2.slot == i)).map (·.1)
    let s := fs.foldl (fun s f => (s.dropFrame f).loseFrame f) s
    ((s.modRtu (fun r => { r with keys := Store.del r.keys i })).audit 0x0041 0xF000 0 (payload3 i 0 0)).answer scOk

/-- FRAME_SET. -/
def frameSet (s : State) : State :=
  let a := s.arg 0
  let n := s.arg 1
  let slot := s.arg 2
  let fl := s.arg 3
  let supw := natBit fl 0
  if a % 0x200000 ≠ 0 || n = 0 || Config.hbmBytes < a + n * 0x200000 || 4095 < slot || !s.slotUsed slot || (supw && slot != 0)
      || (slot == 0 && !supw) || 1 < fl then s.answer scInvalid
  else
    let f := a / 0x200000
    if (List.range n).any (fun i => ((s.frame (f + i)).slot == 0 && !(s.frame (f + i)).supw) || (s.frame (f + i)).image) then
      s.answer scState
    else (s.tagFrames f n slot supw).answer scOk

/-! ### Tenants (R85 to R87, R94) -/

/-- The tenant that a descriptor describes. -/
def descTenant (b : List Byte) : Tenant :=
  { owner := bytesAt b 2 2, floor := bytesAt b 4 1, flags := bytesAt b 5 1, reserve := bytesAt b 8 2, cap := bytesAt b 0xA 2,
    pendingCap := bytesAt b 0xC 2, argSlots := bytesAt b 0xE 2, slack := bytesAt b 0x10 8, root := bytesAt b 0x18 8,
    homing := bytesAt b 0x20 8, argPool := bytesAt b 0x28 8, counters := bytesAt b 0x30 8 }

/-- Harts present in the package. -/
def State.hartCount (s : State) : Nat := 16 * s.grade.quads

/-- Is a descriptor one that TENANT_CREATE takes (R85, R86)? -/
def State.descOk (s : State) (b : List Byte) : Bool :=
  let t := descTenant b
  bytesAt b 0 2 != 0 && decide (1 ≤ t.owner) && decide (t.owner ≤ 4095) && s.slotUsed t.owner && decide (t.floor ≤ 7)
    && decide (t.flags ≤ 3) && bytesAt b 6 2 == 0 && bytesAt b 0x38 8 == 0 && decide (1 ≤ t.pendingCap)
    && decide (t.pendingCap ≤ 64) && decide (t.argSlots ≤ 1024) && decide (1000 ≤ t.slack) && decide (t.slack ≤ 2 ^ 40)
    && t.root % 4096 == 0 && decide (t.root < Config.hbmBytes) && t.homing % 2048 == 0 && decide (t.homing < Config.hbmBytes)
    && t.argPool % 4096 == 0 && t.counters % 8 == 0 && decide (t.cap ≤ s.hartCount) && decide (t.reserve ≤ t.cap)
    && (t.argSlots == 0 || (decide (0x1000000000 ≤ t.argPool) && decide (t.argPool + 4096 * t.argSlots ≤ 0x400000000000)))

/-- The reserves of the live tenants but one. -/
def State.reserves (s : State) (but : Nat) : Nat :=
  s.disp.tenants.foldl (fun n t => if t.1 = but then n else n + t.2.reserve) 0

/-- The descriptor that a call names. -/
def State.descriptor (s : State) : Option (List Byte) :=
  let a := s.arg 0
  if Config.hbmBytes < a + 64 then none else s.superBytes a 64

/-- TENANT_CREATE. -/
def tenantCreate (s : State) : State :=
  match s.descriptor.filter s.descOk with
  | none => s.answer scInvalid
  | some b =>
    let asid := bytesAt b 0 2
    if (s.tenant asid).isSome then s.answer scExists
    else if s.disp.burnt.contains asid then s.answer scState
    else if s.hartCount < s.reserves asid + (descTenant b).reserve then s.answer scNoSpace
    else (s.modDisp (fun d => { d with tenants := Store.put d.tenants asid (descTenant b) })).answer scOk

/-- TENANT_SET. -/
def tenantSet (s : State) : State :=
  match s.descriptor.filter s.descOk with
  | none => s.answer scInvalid
  | some b =>
    let asid := bytesAt b 0 2
    let n := descTenant b
    match s.tenant asid with
    | none => s.answer scState
    | some _ =>
      if s.hartCount < s.reserves asid + n.reserve then s.answer scNoSpace
      else
        (s.modTenant asid (fun t => { t with reserve := n.reserve, cap := n.cap, floor := n.floor, slack := n.slack })).answer scOk

/-- TENANT_DESTROY: what the ASID still names goes with it (log 111 for an unknown ASID). -/
def tenantDestroy (s : State) : State :=
  let asid := s.arg 0
  if asid = 0 || 65535 < asid then s.answer scInvalid
  else if (s.tenant asid).isNone || s.disp.contexts.any (fun c => c.2.asid == asid) then s.answer scState
  else
    let s := s.endLaunches asid
    let s := s.modDisp (fun d =>
      { d with
        tenants := Store.del d.tenants asid, excess := d.excess.filter (fun e => e.1 != asid), mcast := d.mcast.filter (fun g => g.2.1 != asid),
        kernels := d.kernels.filter (fun k => k.asid != asid), assigned := d.assigned.filter (fun a => a.2.1 != asid) })
    let s := { s with slotMap := s.slotMap.filter (fun m => m.1 / 256 != asid), launchPorts := Store.del s.launchPorts asid }
    s.answer scOk

/-! ### Contexts (R91) -/

/-- Do two images overlap? -/
def imagesMeet (a b : Nat) : Bool := decide (a < b + Config.imageBytes) && decide (b < a + Config.imageBytes)

/-- Does R91 accept the image at an address for a tenant? -/
def State.imageOk (s : State) (t : Tenant) (a : Nat) : Bool :=
  a % 4096 == 0 && decide (a + Config.imageBytes ≤ Config.hbmBytes)
    && (imageFrames a).all (fun f => (s.frame f).slot == t.owner)
    && !s.disp.contexts.any (fun c => imagesMeet a c.2.image)

/-- The engine state of an image that starts: zeros, and every bit of the released map set (R312). -/
def freshEngine : List Byte := List.replicate 0x800 0 ++ List.replicate 3 0xff ++ List.replicate 0x7FD 0

/-- CTX_CREATE. The hart images and the engine state start as zeros, with every bit of the released map set (R312) (log 111 for the order
of INVALID and BUSY). -/
def ctxCreate (s : State) : State :=
  let asid := s.arg 0
  let a := s.arg 1
  let q := s.arg 2
  match s.tenant asid with
  | none => s.answer scInvalid
  | some t =>
    if !s.quadPresent q || (s.quad q).outOfService || !s.imageOk t a then s.answer scInvalid
    else if s.rtu.auditFull then s.answer scBusy
    else
      let c := s.disp.nextCtx
      let s := (s.devWrite a (List.replicate 0xC000 0) 0).2
      let s := (s.devWrite (a + engineOffset) freshEngine 0).2
      let s := (imageFrames a).foldl (fun s f => { s with frames := Store.set {} s.frames f { s.frame f with image := true } }) s
      let x : Context := { asid := asid, image := a, quad := q }
      (s.modDisp (fun d => { d with nextCtx := c + 1, contexts := Store.put d.contexts c x })).answer scOk (some c)

/-! ### Ports, apertures, stages, vault blocks -/

/-- PORT_OPEN (a context under release counts: log 111). -/
def portOpen (s : State) : State :=
  let asid := s.arg 0
  if 65535 < asid then s.answer scInvalid
  else if !s.rtu.meas3Done || !s.disp.contexts.any (fun c => c.2.asid == asid) then s.answer scState
  else (s.modLaunchPort asid (fun _ => { opened := true })).answer scOk

/-- PORT_CLOSE. -/
def portClose (s : State) : State :=
  let asid := s.arg 0
  if 65535 < asid then s.answer scInvalid else (s.modLaunchPort asid (fun p => { p with opened := false })).answer scOk

/-- APERTURE_MAP. -/
def apertureMap (s : State) : State :=
  let port := s.arg 0
  let page := s.arg 1
  let a := s.arg 2
  let asid := s.arg 3
  let index := s.arg 4
  let f := s.frame (a / 0x200000)
  let ok := if asid = 0 then f.slot == 0 && f.supw && index == 0
    else (s.tenant asid).any (fun t => f.slot == t.owner) && decide (index ≤ 63)
  if 1 < port || 32767 < page then s.answer scInvalid
  else if a = 0 then (s.modPort port (fun p => { p with bar4 := Store.del p.bar4 page })).answer scOk
  else if a % 0x200000 ≠ 0 || Config.hbmBytes ≤ a || !ok then s.answer scInvalid
  else if f.image then s.answer scState
  else (s.modPort port (fun p => { p with bar4 := Store.put p.bar4 page (a, asid, index) })).answer scOk

/-- STAGE_SET. -/
def stageSet (s : State) : State :=
  let asid := s.arg 0
  let g := s.arg 1
  let lo := s.arg 2
  let hi := s.arg 3
  match s.tenant asid with
  | none => s.answer scInvalid
  | some t =>
    let mins := t.stages.foldl (fun n e => if e.1 = g then n else n + e.2.min) lo
    if g = 0 || 63 < g || lo = 0 || hi < lo || t.cap < hi || t.reserve < mins then s.answer scInvalid
    else if s.stageBusy asid g then s.answer scState
    else
      (s.modTenant asid (fun t => { t with stages := Store.put t.stages g { min := lo, max := hi, ring := s.arg 4 } })).answer scOk

/-- TASK_FAULT; it does not return when the hart runs a task. -/
def taskFault (s : State) : Result :=
  if !s.calling || (s.rx 16).toNat != 13 || !s.me.status.executes then .next s
  else if 255 < s.arg 0 then superCall 13 (·.answer scInvalid) s
  else
    match s.me.task with
    | none => superCall 13 (·.answer scState) s
    | some k => .next ((s.endTask k 11 (s.arg 0) s.cur false).stopHart s.cur)

/-- Zero and free blocks of a quad's vault. -/
def State.freeBlocks (s : State) (q first n : Nat) : State :=
  let a := vaultAddr q (65536 * first)
  let s := (s.writeBytes a (List.replicate (65536 * n) 0)).cleanRange a (65536 * n)
  let s := { s with harts := s.harts.map (fun h : Nat × Hart =>
    if h.2.resv.any (fun r : Resv => r.vault && decide (a ≤ r.key) && decide (r.key < a + 65536 * n)) then (h.1, { h.2 with resv := none })
    else h) }
  s.modQuad q (fun x => { x with blocks := x.blocks.filter (fun b => decide (b.1 < first) || decide (first + n ≤ b.1)) })

/-- Grant blocks. -/
def State.grantBlocks (s : State) (q first n asid kind : Nat) : State :=
  let k : BlockKind := if kind = 1 then .data else .stack (kind - 2)
  s.modQuad q (fun x => { x with blocks := (List.range n).foldl (fun l i => Store.put l (first + i) { asid := asid, kind := k }) x.blocks })

/-- VAULT_SET (log 111 for values outside the tables). -/
def vaultSet (s : State) : State :=
  let asid := s.arg 0
  let q := s.arg 1
  let first := s.arg 2
  let n := s.arg 3
  let kind := s.arg 4
  let range := List.range n
  let at_ (i : Nat) : Block := (s.quad q).block (65536 * (first + i))
  if !s.quadPresent q || n = 0 || 96 < first + n || 5 < kind || (2 ≤ kind && n ≠ 1) || 65535 < asid then
    s.answer scInvalid
  else if kind = 0 then
    if range.any (fun i => (at_ i).kind == .free || (at_ i).asid != asid) then s.answer scState
    else (s.freeBlocks q first n).answer scOk
  else if range.any (fun i => (at_ i).kind != .free) then s.answer scState
  else if 2 ≤ kind && (!s.disp.contexts.any (fun c => c.2.asid == asid && c.2.quad == q && c.2.live)
      || ((s.quad q).stackBlock asid (kind - 2)).isSome) then s.answer scState
  else (s.grantBlocks q first n asid kind).answer scOk

/-! ### The calls as instructions -/

/-- OWNER_CREATE. -/
def execOwnerCreate (s : State) : Result := superCall 0 ownerCreate s
/-- OWNER_DESTROY. -/
def execOwnerDestroy (s : State) : Result := superCall 1 ownerDestroy s
/-- FRAME_SET. -/
def execFrameSet (s : State) : Result := superCall 2 frameSet s
/-- TENANT_CREATE. -/
def execTenantCreate (s : State) : Result := superCall 3 tenantCreate s
/-- TENANT_SET. -/
def execTenantSet (s : State) : Result := superCall 4 tenantSet s
/-- TENANT_DESTROY. -/
def execTenantDestroy (s : State) : Result := superCall 5 tenantDestroy s
/-- CTX_CREATE. -/
def execCtxCreate (s : State) : Result := superCall 6 ctxCreate s
/-- PORT_OPEN. -/
def execPortOpen (s : State) : Result := superCall 7 portOpen s
/-- PORT_CLOSE. -/
def execPortClose (s : State) : Result := superCall 8 portClose s
/-- APERTURE_MAP. -/
def execApertureMap (s : State) : Result := superCall 9 apertureMap s
/-- STAGE_SET. -/
def execStageSet (s : State) : Result := superCall 12 stageSet s
/-- TASK_FAULT. -/
def execTaskFault (s : State) : Result := taskFault s
/-- VAULT_SET. -/
def execVaultSet (s : State) : Result := superCall 14 vaultSet s

end Sys2Proof.Machine
end

