-- ==== Sys2Proof/Machine/RegionOps.lean ====
section
/-! DEFINITION. The region instructions (16): one meaning for each, over the algebra of Regions. -/

namespace Sys2Proof.Machine

/-! ## Shared parts -/

/-- stval of a lattice mismatch: the first region operand, and the second region, handle or x operand (R375). -/
def mismatch (a b : Reg) : Word := BitVec.ofNat 64 (a.toNat + b.toNat * 256)

/-- Bits of gstat after a write of a region (R328, R374). -/
def gstatAfter (old : Word) (r : Region) : Word :=
  let g := if r.ovf then old ||| 2 else old &&& ~~~(2 : Word)
  if r.inexact then g ||| 1 else g

/-- Write a region register and gstat. -/
def State.putRegion (s : State) (d : Reg) (r : Region) : State :=
  (s.gset d r).modMe (fun h => { h with dev := { h.dev with gstat := gstatAfter h.dev.gstat r } })

/-- result (R374) into G[d]. -/
def State.result (s : State) (d : Reg) (n : Nat) (bs : List Box) (l : Lattice) (inx : Bool) : Act Unit :=
  .ok () (s.putRegion d (Region.result n bs l inx))

/-- Signed 32-bit field of a word. -/
def lo32 (w : Word) : Int := natToInt 32 w.toNat
def hi32 (w : Word) : Int := natToInt 32 (w.toNat / 2 ^ 32)

/-- The box [0, extent) of a handle in its first `d` dimensions. -/
def extentBox (h : Handle) (d : Nat) : Box := (List.range d).map (fun i => (0, (h.extAt i : Int)))

/-- Field i of an operand word: 16 bits in the x register, 6 in the immediate (R379). -/
def field16 (w : Word) (i : Nat) : Nat := natBits w.toNat (16 * i) 16
def field6 (imm : BitVec 24) (i : Nat) : Nat := natBits imm.toNat (6 * i) 6

/-! ## Constructors (R380, R381) -/

/-- RGNIL. -/
def execRgnil (d : Reg) (n : BitVec 5) (s : State) : Result :=
  insL [] [] [] (fun s => s.result d n.toNat [] (denseLat n.toNat) false) s

/-- RGFULL. -/
def execRgfull (d a : Reg) (s : State) : Result :=
  insL [] [] [codeH a] (fun s =>
    let h := Handle.ofLine (s.hget a)
    match h.count with
    | none => .trap 30 (mismatch d a) s
    | some n => s.result d n [extentBox h n] (denseLat n) false) s

/-- Coordinates of RGPT: two in each register. -/
def pointCoords (s : State) (a b : Reg) : List Int :=
  [lo32 (s.rx a), hi32 (s.rx a), lo32 (s.rx b), hi32 (s.rx b)]

/-- RGPT: extent 1 in the dimension count of the destination. -/
def execRgpt (d a b : Reg) (s : State) : Result :=
  insL [a, b] [] [codeG d] (fun s =>
    let n := (s.gget d).d
    s.result d n [((pointCoords s a b).take n).map (fun c => (c, c + 1))] (denseLat n) false) s

/-- RGPT_I. -/
def execRgptI (d a b : Reg) (n : BitVec 2) (e : BitVec 24) (s : State) : Result :=
  insL [a, b] [] [] (fun s =>
    let k := n.toNat + 1
    let box := ((pointCoords s a b).take k).zipIdx.map (fun c => (c.1, c.1 + ((field6 e c.2 + 1 : Nat) : Int)))
    s.result d k [box] (denseLat k) false) s

/-- RGCLIP. -/
def execRgclip (d a b : Reg) (s : State) : Result :=
  insL [] [] [codeG a, codeH b] (fun s =>
    let g := s.gget a
    let h := Handle.ofLine (s.hget b)
    if h.count = some g.d then s.result d g.d (boxesInter g.boxes [extentBox h g.d]) g.lat g.inexact
    else .trap 30 (mismatch a b) s) s

/-! ## Set algebra (R382) -/

/-- Equal dimension counts and lattices. -/
def sameLattice (a b : Region) : Bool := a.d == b.d && a.lat == b.lat

/-- RGUNI. -/
def execRguni (d a b : Reg) (s : State) : Result :=
  insL [] [] [codeG a, codeG b] (fun s =>
    let g := s.gget a
    let k := s.gget b
    if sameLattice g k then s.result d g.d (g.boxes ++ k.boxes) g.lat (g.inexact || k.inexact)
    else .trap 30 (mismatch a b) s) s

/-- RGINT. -/
def execRgint (d a b : Reg) (s : State) : Result :=
  insL [] [] [codeG a, codeG b] (fun s =>
    let g := s.gget a
    let k := s.gget b
    if g.d ≠ k.d then .trap 30 (mismatch a b) s
    else
      match combineAll g.lat k.lat with
      | some l => s.result d g.d (boxesInter g.boxes k.boxes) l (g.inexact || k.inexact)
      | none => s.result d g.d [] g.lat (g.inexact || k.inexact)) s

/-- RGSUB: an INEXACT subtrahend is refused after the lattice check. -/
def execRgsub (d a b : Reg) (s : State) : Result :=
  insL [] [] [codeG a, codeG b] (fun s =>
    let g := s.gget a
    let k := s.gget b
    if !sameLattice g k then .trap 30 (mismatch a b) s
    else if k.inexact then .trap 24 (BitVec.ofNat 64 b.toNat) s
    else s.result d g.d (boxesMinus g.boxes k.boxes) g.lat g.inexact) s

/-! ## Reshaping (R383 to R391) -/

/-- Every box with each bound moved by a function of its dimension. -/
def moveBoxes (bs : List Box) (lo hi : Nat → Int) : List Box :=
  bs.map (fun b => b.zipIdx.map (fun x => (x.1.1 + lo x.2, x.1.2 + hi x.2)))

/-- RGDIL by r_i (R383); `y` is the x operand's number in stval. -/
def dilate (d a y : Reg) (r : Nat → Nat) (s : State) : Act Unit :=
  let g := s.gget a
  if !g.dense then .trap 30 (mismatch a y) s
  else s.result d g.d (moveBoxes g.boxes (fun i => -(r i : Int)) (fun i => (r i : Int))) g.lat g.inexact

/-- RGDIL. -/
def execRgdil (d a b : Reg) (s : State) : Result :=
  insL [b] [] [codeG a] (fun s => dilate d a b (field16 (s.rx b)) s) s

/-- RGDIL_I. -/
def execRgdilI (d a : Reg) (imm : BitVec 24) (s : State) : Result :=
  insL [] [] [codeG a] (dilate d a 0 (field6 imm)) s

/-- RGSHF by t_i (R384). Boxes move before clamping; canon drops a box that clamping empties. -/
def shift (d a : Reg) (t : Nat → Int) (s : State) : Act Unit :=
  let g := s.gget a
  let lat := g.lat.zipIdx.map (fun e => (e.1.1, (((e.1.2 : Int) + t e.2) % 2 ^ e.1.1).toNat))
  s.result d g.d (moveBoxes g.boxes t t) lat g.inexact

/-- RGSHF. -/
def execRgshf (d a b : Reg) (s : State) : Result :=
  insL [b] [] [codeG a] (fun s => shift d a (fun i => natToInt 16 (field16 (s.rx b) i)) s) s

/-- RGSHF_I. -/
def execRgshfI (d a : Reg) (imm : BitVec 24) (s : State) : Result :=
  insL [] [] [codeG a] (shift d a (fun i => natToInt 6 (field6 imm i))) s

/-- The entries of a list whose mask bit is set. -/
def keepBits {α : Type} (mask : Nat) (l : List α) : List α := (l.zipIdx.filter (fun x => natBit mask x.2)).map (·.1)

/-- RGPRJ under a mask (R385). -/
def project (d a y : Reg) (mask : Nat) (s : State) : Act Unit :=
  let g := s.gget a
  if mask = 0 || 2 ^ g.d ≤ mask then .trap 30 (mismatch a y) s
  else
    s.result d (popCountTo mask 4) (g.boxes.map (keepBits mask)) (keepBits mask g.lat) g.inexact

/-- RGPRJ. -/
def execRgprj (d a b : Reg) (s : State) : Result :=
  insL [b] [] [codeG a] (fun s => project d a b (s.rx b).toNat s) s

/-- RGPRJ_I. -/
def execRgprjI (d a : Reg) (imm : BitVec 24) (s : State) : Result :=
  insL [] [] [codeG a] (project d a 0 imm.toNat) s

/-- Insert an element at a position. -/
def insertAt {α : Type} (l : List α) (i : Nat) (x : α) : List α := l.take i ++ x :: l.drop i

/-- RGXPD (R386): an interval with hi ≤ lo gives no box. -/
def expand (d a y : Reg) (pos : Nat) (lo hi : Int) (s : State) : Act Unit :=
  let g := s.gget a
  if 3 < g.d || g.d < pos then .trap 30 (mismatch a y) s
  else
    let bs := if hi ≤ lo then [] else g.boxes.map (fun b => insertAt b pos (lo, hi))
    s.result d (g.d + 1) bs (insertAt g.lat pos (0, 0)) g.inexact

/-- RGXPD: position 0. -/
def execRgxpd (d a b : Reg) (s : State) : Result :=
  insL [b] [] [codeG a] (fun s => expand d a b 0 (lo32 (s.rx b)) (hi32 (s.rx b)) s) s

/-- RGXPD_I. -/
def execRgxpdI (d a : Reg) (imm : BitVec 24) (s : State) : Result :=
  insL [] [] [codeG a] (fun s =>
    let lo := natToInt 11 (natBits imm.toNat 2 11)
    expand d a 0 (natBits imm.toNat 0 2) lo (lo + (natBits imm.toNat 13 11 + 1 : Nat)) s) s

/-- RGLAT with the entries of the operand (R387). -/
def relattice (d a : Reg) (l : Lattice) (s : State) : Act Unit :=
  let g := s.gget a
  match combineAll g.lat l with
  | some m => s.result d g.d g.boxes m g.inexact
  | none => s.result d g.d [] g.lat g.inexact

/-- RGLAT: a value outside the ranges of R379 in a dimension below d is a lattice mismatch. -/
def execRglat (d a b : Reg) (s : State) : Result :=
  insL [b] [] [codeG a] (fun s =>
    let g := s.gget a
    let f := (List.range g.d).map (field16 (s.rx b))
    if f.all (fun w => natBits w 3 5 == 0 && !natBit w 15 && decide (natBits w 8 7 < 2 ^ natBits w 0 3)) then
      relattice d a (f.map (fun w => (natBits w 0 3, natBits w 8 7))) s
    else .trap 30 (mismatch a b) s) s

/-- RGLAT_I: a phase outside its step in a dimension below d is an illegal instruction (R378; log 16). -/
def execRglatI (d a : Reg) (imm : BitVec 24) (s : State) : Result :=
  insL [] [] [codeG a] (fun s =>
    let g := s.gget a
    let f := (List.range g.d).map (field6 imm)
    if f.all (fun w => decide (natBits w 3 3 < 2 ^ natBits w 0 3)) then
      relattice d a (f.map (fun w => (natBits w 0 3, natBits w 3 3))) s
    else illegal s) s

/-- A box cut at c in dimension k; none when nothing is left (R388). -/
def cutBox (k : Nat) (high : Bool) (c : Int) (b : Box) : Option Box :=
  match b[k]? with
  | none => none
  | some (lo, hi) =>
    let x := if high then (max lo c, hi) else (lo, min hi c)
    if x.2 ≤ x.1 then none else some (b.set k x)

/-- RGCUT. -/
def cut (d a y : Reg) (k : Nat) (high : Bool) (c : Int) (s : State) : Act Unit :=
  let g := s.gget a
  if g.d ≤ k then .trap 30 (mismatch a y) s
  else s.result d g.d (g.boxes.filterMap (cutBox k high c)) g.lat g.inexact

def execRgcut (d a b : Reg) (s : State) : Result :=
  insL [b] [] [codeG a] (fun s =>
    let w := (s.rx b).toNat
    if natBits w 3 29 ≠ 0 then .trap 30 (mismatch a b) s
    else cut d a b (natBits w 0 2) (natBit w 2) (hi32 (s.rx b)) s) s

/-- RGCUT_I (log 17: a dimension outside d is a lattice mismatch here too). -/
def execRgcutI (d a : Reg) (imm : BitVec 24) (s : State) : Result :=
  insL [] [] [codeG a] (fun s =>
    let w := imm.toNat
    cut d a 0 (natBits w 0 2) (natBit w 2) (natToInt 21 (natBits w 3 21)) s) s

/-- RGSPL (R389). -/
def splitBoxes (d a : Reg) (w : Nat) (s : State) : Act Unit :=
  let g := s.gget a
  s.result d g.d ((g.boxes.drop (natBits w 0 4)).take (natBits w 4 4)) g.lat g.inexact

def execRgspl (d a b : Reg) (s : State) : Result :=
  insL [b] [] [codeG a] (fun s => splitBoxes d a (s.rx b).toNat s) s

/-- RGSPL_I. -/
def execRgsplI (d a : Reg) (imm : BitVec 24) (s : State) : Result :=
  insL [] [] [codeG a] (splitBoxes d a imm.toNat) s

/-- RGBBOX (R390). -/
def execRgbbox (d a : Reg) (s : State) : Result :=
  insL [] [] [codeG a] (fun s =>
    let g := s.gget a
    match g.boxes with
    | [] => s.result d g.d [] g.lat g.inexact
    | _ =>
      let b := bboxAll g.boxes
      s.result d g.d [b] g.lat (g.inexact || decide (g.count < boxPts g.lat b))) s

/-- RGMV (R391). -/
def execRgmv (d a : Reg) (s : State) : Result :=
  insL [] [] [codeG a] (fun s => .ok () (s.putRegion d { s.gget a with ovf := false })) s

/-- RGCAN (R391). -/
def execRgcan (d a : Reg) (s : State) : Result :=
  insL [] [] [codeG a] (fun s => .ok () (s.putRegion d { s.gget a with ovf := false, inexact := false })) s

/-! ## Memory (R392, R393) -/

/-- RGLD at an address. -/
def loadRegion (d : Reg) (va : Word) (s : State) : Act Unit :=
  if s.excluded va.toNat 288 then .trap 25 va s
  else if va.toNat % 32 ≠ 0 then .trap 4 va s
  else
    let parts := wordPieces va.toNat 288
    (s.loadList parts).andThen fun vs s =>
      match Region.ofImage (partBytes parts vs) with
      | none => .trap 5 va s
      | some r => (s.record 3 3 va).result d r.d r.boxes r.lat r.inexact

def execRgld (d a : Reg) (s : State) : Result := insL [a] [] [] (fun s => loadRegion d (s.rx a) s) s

/-- RGLD_IMM. -/
def execRgldImm (d a : Reg) (imm : BitVec 12) (s : State) : Result :=
  insL [a] [] [] (fun s => loadRegion d (s.ea a imm) s) s

/-- RGLD_W64. -/
def execRgldW64 (d a : Reg) (off : BitVec 24) (s : State) : Result :=
  insL [a] [] [] (fun s => loadRegion d (s.ea a off) s) s

/-- RGST at an address. -/
def storeRegion (d : Reg) (va : Word) (s : State) : Act Unit :=
  if va.toNat % 32 ≠ 0 then .trap 6 va s else (s.storeBytes va.toNat (s.gget d).image).andThen fun _ s => .ok () (s.record 3 4 va)

def execRgst (d a : Reg) (s : State) : Result := insL [a] [] [codeG d] (fun s => storeRegion d (s.rx a) s) s

/-- RGST_IMM. -/
def execRgstImm (d a : Reg) (imm : BitVec 12) (s : State) : Result :=
  insL [a] [] [codeG d] (fun s => storeRegion d (s.ea a imm) s) s

/-- RGST_W64. -/
def execRgstW64 (d a : Reg) (off : BitVec 24) (s : State) : Result :=
  insL [a] [] [codeG d] (fun s => storeRegion d (s.ea a off) s) s

/-! ## Queries (R394 to R396) -/

/-- RGCNT, saturating. -/
def execRgcnt (d a : Reg) (s : State) : Result :=
  insL [d] [] [codeG a] (fun s => .ok () (s.wx d (BitVec.ofNat 64 (min (s.gget a).count (2 ^ 64 - 1))))) s

/-- RGNBX. -/
def execRgnbx (d a : Reg) (s : State) : Result :=
  insL [d] [] [codeG a] (fun s => .ok () (s.wx d (BitVec.ofNat 64 (s.gget a).boxes.length))) s

/-- A comparison of element sets. -/
def compareRegions (d a b : Reg) (test : Region → Region → Bool) (s : State) : Act Unit :=
  let g := s.gget a
  let k := s.gget b
  if g.d ≠ k.d then .trap 30 (mismatch a b) s else .ok () (s.wx d (if test g k then 1 else 0))

/-- RGTST. -/
def execRgtst (d a b : Reg) (s : State) : Result :=
  insL [d] [] [codeG a, codeG b] (compareRegions d a b (fun g k => decide (0 < g.common k))) s

/-- RGEQ. -/
def execRgeq (d a b : Reg) (s : State) : Result :=
  insL [d] [] [codeG a, codeG b]
    (compareRegions d a b (fun g k => g.common k == g.count && g.common k == k.count)) s

/-- RGSUBS. -/
def execRgsubs (d a b : Reg) (s : State) : Result :=
  insL [d] [] [codeG a, codeG b] (compareRegions d a b (fun g k => g.common k == g.count)) s

/-- The field that a selector names (R396). -/
def Region.select (r : Region) (sel : Nat) : Word :=
  let four (f : Nat × Nat → Nat) : Word := BitVec.ofNat 64 (ofBytes (r.lat.map (fun e => BitVec.ofNat 8 (f e))))
  if sel < 64 then
    match (r.boxes[sel / 8]?).bind (fun b => b[sel / 2 % 4]?) with
    | some (lo, hi) => BitVec.ofInt 64 (if sel % 2 = 0 then lo else hi)
    | none => 0
  else
    match sel with
    | 64 => BitVec.ofNat 64 r.d
    | 65 => BitVec.ofNat 64 r.boxes.length
    | 66 => (if r.inexact then 1 else 0) + (if r.ovf then 2 else 0)
    | 67 => four (·.1)
    | 68 => four (·.2)
    | _ => 0

/-- RGGET. -/
def execRgget (d a b : Reg) (s : State) : Result :=
  insL [d, b] [] [codeG a] (fun s => .ok () (s.wx d ((s.gget a).select (natBits (s.rx b).toNat 0 7)))) s

/-- RGGET_I. -/
def execRggetI (d a : Reg) (sel : BitVec 7) (s : State) : Result :=
  insL [d] [] [codeG a] (fun s => .ok () (s.wx d ((s.gget a).select sel.toNat))) s

end Sys2Proof.Machine
end

