-- ==== Sys2Proof/Machine/Rtu.lean ====
section
/-! DEFINITION. The root of trust: boot, recovery, measurements, quotes, the fuse counter, the audit log's segments (03), and warm
reset (R9). -/

namespace Sys2Proof.Machine

/-! ## Boot (R46 to R48) -/

/-- Grade as a quote gives it (R52). -/
def Grade.code : Grade → Nat
  | .ubk2560 => 0
  | .ubk2304 => 1

/-- extend(i, d) with its entry (R50). -/
def State.extend (s : State) (i : Nat) (d : BitVec 256) : State :=
  let old := Store.get 0 s.rtu.meas i
  let new := Sha.sha256 (bytesOf 32 old.toNat ++ bytesOf 32 d.toNat)
  (s.modRtu (fun r => { r with meas := Store.set 0 r.meas i new })).audit 0x0006 0xF000 0 (i + d.toNat % 2 ^ 128 * 2 ^ 64)

/-- Bytes a field of a firmware slot. -/
def slotNat (f : List Byte) (off n : Nat) : Nat := ofBytes ((f.drop off).take n)

/-- The payload of a firmware slot. -/
def slotPayload (f : List Byte) : List Byte := (f.drop 0x4060).take (slotNat f 0x10 8)

/-- The first check of R47 step 4 that a slot fails, from 1 on; 0 if it passes. -/
def Rtu.slotCheck (r : Rtu) (f : List Byte) : Nat :=
  if slotNat f 0 4 ≠ 0x57464255 || slotNat f 4 2 ≠ 1 then 1
  else if slotNat f 6 2 ≠ 0 || slotNat f 9 7 ≠ 0 || slotNat f 0x70 0x90 ≠ 0 then 2
  else if 16777216 < slotNat f 0x10 8 then 3
  else if Sha.sha256 ((f.drop 0x40).take 48) ≠ r.vendorKeyHash then 4
  else if !Sha.slhVerify ((f.drop 0x40).take 48) (f.take 0x100) ((f.drop 0x100).take 16224) then 5
  else if slotNat f 8 1 < r.fuses then 6
  else if (Sha.sha256 (slotPayload f)).toNat ≠ slotNat f 0x20 32 then 7
  else 0

/-- Step 6: the image is measured, its acceptance recorded, and the management core released at the entry offset. -/
def State.acceptSlot (s : State) (slot : Nat) (f : List Byte) : State :=
  let s := s.extend 1 (Sha.sha256 (f.take 0x100 ++ slotPayload f))
  let s := s.audit 0x0002 0xF000 0 (payload3 slot (slotNat f 8 1) 0)
  (s.modRtu (fun r =>
    { r with boot := .released, svn := slotNat f 8 1, mcMem := slotPayload f, mcEntry := slotNat f 0x18 8, window := [] })).modHart 0x1000
      (fun _ => { status := .running, pc := BitVec.ofNat 64 (slotNat f 0x18 8) })

/-- Steps 4 to 7 over slots by number: 0 for A, 1 for B, 2 for the recovery window. -/
def State.trySlots (s : State) : List (Nat × List Byte) → State
  | [] => s.modRtu (fun r => { r with boot := .recovery })
  | (n, f) :: rest =>
    let c := s.rtu.slotCheck f
    if c = 0 then s.acceptSlot n f else (s.audit 0x0003 0xF000 0 (payload3 n c 0)).trySlots rest

/-- What a cold reset leaves of the device: the grade, the flash and the fuses; and outside it, the host's memory. -/
def State.cold (s : State) : State :=
  { grade := s.grade, cur := s.cur, agenda := s.agenda, free := s.free, hostOut := s.hostOut,
    mem := s.mem.filter (fun c => decide (Config.hostBase ≤ c.1) && decide (c.1 < Config.vaultBase)),
    poison := s.poison.filter (fun l => decide (Config.hostBase ≤ 64 * l) && decide (64 * l < Config.vaultBase)),
    rtu := { flashA := s.rtu.flashA, flashB := s.rtu.flashB, vendorKeyHash := s.rtu.vendorKeyHash, fuses := s.rtu.fuses,
             disabled := s.rtu.disabled } }

/-- COLD_RESET: the boot ROM's steps (R47). -/
def execColdReset (nonce : BitVec 128) (s : State) : Result :=
  let s := s.cold
  let genesis := Sha.sha256 (bytesOf 32 Config.deviceIdentity.toNat ++ bytesOf 16 nonce.toNat)
  let s := s.modRtu (fun r => { r with nonce := nonce, head := genesis, lastFinal := genesis })
  let rom := Config.romVersion.toNat
  let s := s.audit 0x0001 0xF000 0 (nonce.toNat + rom * 2 ^ 128 + s.rtu.fuses * 2 ^ 160)
  let s := s.extend 0 (Sha.sha256
    (bytesOf 4 rom ++ bytesOf 1 s.grade.code ++ bytesOf 10 s.rtu.disabled.toNat ++ bytesOf 1 s.rtu.fuses))
  .next (s.trySlots [(0, s.rtu.flashA), (1, s.rtu.flashB)])

/-- The bytes that the host has written into the recovery window, as far as the image reaches. -/
def Rtu.windowImage (r : Rtu) : List Byte :=
  let n := ofBytes (cellBytes r.window 0x10 8)
  cellBytes r.window 0 (0x4060 + min n 0x1000000)

/-- RECOVERY_GO (R48) (log 8 for the go word). -/
def execRecoveryGo (s : State) : Result :=
  if s.rtu.boot = .recovery then .next (s.trySlots [(2, s.rtu.windowImage)]) else .next s

/-! ## Warm reset (R9) -/

/-- The registers of a hart that a map describes take their reset values; REMAIN has none (log 7). -/
def State.warmHart (s : State) (h : Nat) : State :=
  let (f, s) := s.fresh64
  s.modHart h (fun x => { x with dev := { remain := f.setWidth 32 }, fstat := 0, tfq := [], fmt := 0, trace := {} })

/-- WARM_RESET: every field of a register map takes its reset value. The queue of transfer faults empties as its copies end,
PENDING and LIVE as the launches end, and the frame table's entries as for a retagging. -/
def execWarmReset (s : State) : Result :=
  let s := (s.allTransfers.filter (·.paused)).foldl (fun s t => s.endTransfer t.id xsCancelled) s
  let s := (s.harts.map (·.1)).foldl State.warmHart s
  let s := (s.frames.map (·.1)).foldl (fun s f =>
    let s := s.tagFrame f 0 false
    { s with frames := Store.set {} s.frames f { s.frame f with image := false } }) s
  .next { s with
    launchPorts := [],
    quads := s.quads.map (fun q : Nat × Quad => (q.1, { q.2 with fmts := q.2.fmts.map (fun f => (f.1, { f.2 with fmt := 0 })) })),
    hostReqs := s.hostReqs.filter (fun r => match r.2 with
      | .args .. | .zlrLaunch .. => false
      | _ => true),
    disp := { s.disp with launches := [] } }

/-! ## Measurements and quotes (R50 to R52) -/

/-- MEAS_EXTEND: refused for MEAS0 and MEAS1 once the management core is released, and before that firmware cannot ask. The first digest
extended into MEAS3 is that of the image that the supervisor runs from until a cold reset (R51). -/
def execMeasExtend (i : Nat) (d : BitVec 256) (s : State) : Result :=
  if s.rtu.boot != .released || i < 2 || 7 < i then .next s
  else .next ((s.extend i d).modRtu (fun r => { r with supervisor := if i = 3 then r.supervisor.or (some d) else r.supervisor }))

/-- QUOTE_REQUEST: the request waits its turn. -/
def execQuoteRequest (nonce : BitVec 256) (s : State) : Result :=
  if s.rtu.boot = .released then .next (s.modRtu (fun r => { r with signing := r.signing ++ [some nonce] })) else .next s

/-- Bytes 0x0000 to 0x01FF of a quote. -/
def State.quoteBytes (s : State) (nonce : BitVec 256) : List Byte :=
  let r := s.rtu
  bytesOf 4 1 ++ bytesOf 1 r.fuses ++ bytesOf 1 r.svn ++ bytesOf 1 s.grade.code ++ bytesOf 1 0
    ++ bytesOf 10 r.disabled.toNat ++ bytesOf 6 0 ++ bytesOf 32 Config.deviceIdentity.toNat ++ bytesOf 32 nonce.toNat
    ++ bytesOf 8 (r.seq - 1) ++ bytesOf 32 r.head.toNat
    ++ (List.range 8).flatMap (fun i => bytesOf 32 (Store.get 0 r.meas i).toNat) ++ bytesOf 8 s.ns ++ bytesOf 120 0

/-- The entries of the log that no sealed segment holds, which go with a quote (R61). -/
def Rtu.unsealed (r : Rtu) : List Byte :=
  (r.entries.filter (fun e => !r.segments.any (fun g => g.sealed && g.idx == e.seq / 4096))).flatMap (fun e => bytesOf 64 e.bits)

/-- QUOTE_SIGNED: the quote at the head of the signing queue goes to the host, and QUOTE is appended after it. -/
def execQuoteSigned (s : State) : Result :=
  match s.rtu.signing with
  | some nonce :: rest =>
    let q := s.quoteBytes nonce
    .next (((s.modRtu (fun r => { r with signing := rest })).toHost (.quote (q ++ bytesOf 16224 (Config.slhSign q).toNat) s.rtu.unsealed)).audit 0x0050 0xF000 0
      (nonce.toNat % 2 ^ 128))
  | _ => .next s

/-! ## The fuse counter (R49) -/

/-- FUSE_COUNTER_ADVANCE: dispatch stops and the harts that run translated code are asked to stop; every translation is older
than the new value. -/
def execFuseCounterAdvance (v : Nat) (s : State) : Result :=
  let r := s.rtu
  if r.boot != .released || r.advance.isSome || v ≤ r.fuses || r.svn < v || 64 < v then .next s
  else
    let s := (s.modRtu (fun r => { r with advance := some v })).modDisp (fun d => { d with stopped := true })
    .next (s.disp.tasks.foldl (fun s t => s.stopTask t.1) s)

/-- Has every hart that was stopped written SAVED? -/
def State.allSaved (s : State) : Bool := s.disp.tasks.all (fun t => (s.runningMembers t.2).isEmpty && !s.stopsPending t.2)

/-- FUSE_BLOW: the fuses are blown and the older translations lose their code. -/
def execFuseBlow (s : State) : Result :=
  match s.rtu.advance with
  | none => .next s
  | some v =>
    if s.rtu.fuses == v || !s.allSaved then .next s
    else
      let s := s.audit 0x0004 0xF000 0 (payload3 s.rtu.fuses v 0)
      let old := (s.heap.filter (fun t => t.2.svn < v && !t.2.purged)).map (·.1)
      let s := { s with heap := s.heap.map (fun t : Nat × Translation =>
        if old.contains t.1 then (t.1, { t.2 with purged := true, starts := [] }) else t) }
      let s := { s with harts := s.harts.map (fun h : Nat × Hart => (h.1, { h.2 with icache := [] })) }
      .next ((s.modRtu (fun r => { r with fuses := v, purged := old })).audit 0x0005 0xF001 0 (payload3 old.length 0 0))

/-! ## The audit log (R58 to R61) -/

/-- The kinds that the RTU appends for the hardware (R58); CHECKPOINT is its own. -/
def hardwareKinds : List Nat :=
  [0x0001, 0x0002, 0x0003, 0x0004, 0x0005, 0x0006, 0x0020, 0x0021, 0x0022, 0x0023, 0x0030, 0x0031, 0x0032, 0x0040, 0x0041, 0x0042,
   0x0043, 0x0050, 0x0051]

/-- AUDIT_APPEND. -/
def execAuditAppend (kind source asid : Nat) (payload : BitVec 192) (s : State) : Result :=
  if hardwareKinds.contains kind && decide (source < 65536) && decide (asid < 65536) then
    .next (s.audit kind source asid payload.toNat)
  else .next s

/-- The message that the RTU signs for a segment (R59). -/
def Segment.message (g : Segment) : List Byte :=
  bytesOf 32 Config.deviceIdentity.toNat ++ bytesOf 8 g.idx ++ bytesOf 32 g.final.toNat

/-- SEGMENT_SEAL: the segment at the head of the signing queue. -/
def execSegmentSeal (s : State) : Result :=
  match s.rtu.signing with
  | none :: rest =>
    .next (s.modRtu (fun r =>
      { r with
        signing := rest,
        segments := modifyFirst (fun g => !g.sealed) (fun g => { g with sealed := true, signature := bytesOf 16224 (Config.slhSign g.message).toNat })
          r.segments }))
  | _ => .next s

/-- The bytes of a spilled segment (R60). -/
def Rtu.spillBytes (r : Rtu) (g : Segment) : List Byte :=
  let es := (r.entries.filter (fun e => e.seq / 4096 == g.idx)).flatMap (fun e => bytesOf 64 e.bits)
  (es ++ bytesOf 8 g.idx ++ bytesOf 8 (4096 * g.idx) ++ bytesOf 32 g.final.toNat ++ g.signature
    ++ List.replicate 278528 0).take 278528

/-- SPILL_WRITE_COMPLETE: the oldest sealed segment, into a host slot whose last segment was acknowledged. -/
def execSpillWriteComplete (s : State) : Result :=
  match s.rtu.overflow, s.rtu.segments.find? (fun g => g.sealed && !g.spilled) with
  | some (base, port, k), some g =>
    let taken := s.rtu.segments.any (fun o => o.spilled && o.idx + k == g.idx)
    if taken || !(s.port port).up then .next s
    else
      let slot := g.idx % k
      let s := s.hostStore (Config.hostBase + base + slot * 278528) (s.rtu.spillBytes g)
      let s := s.modRtu (fun r => { r with segments := r.segments.map (fun o => if o.idx = g.idx then { o with spilled := true } else o) })
      .next (s.audit 0x0051 0xF000 0 (payload3 g.idx slot 0))
  | _, _ => .next s

/-- SPILL_ACK: the SRAM segment is free again. -/
def execSpillAck (seg : Nat) (s : State) : Result :=
  if s.rtu.segments.any (fun g => g.idx == seg && g.spilled) then
    .next (s.modRtu (fun r =>
      { r with
        segments := r.segments.filter (fun g => g.idx != seg),
        entries := r.entries.filter (fun e => e.seq / 4096 != seg) }))
  else .next s

/-- OVERFLOW_AREA_SET (R60): the area lies in host memory. -/
def execOverflowAreaSet (base port k : Nat) (s : State) : Result :=
  if s.rtu.boot = .released && decide (port < 2) && decide (2 ≤ k) && decide (base + k * 278528 ≤ 2 ^ 55) then
    .next (s.modRtu (fun r => { r with overflow := some (base, port, k) }))
  else .next s

end Sys2Proof.Machine
end

