-- ==== Sys2Proof/Machine/Translate.lean ====
section
/-! DEFINITION. Bluja objects and their translation into the code heap (R95 to R109, R480, R481), and the environment call
(R93). -/

namespace Sys2Proof.Machine

/-! ## The object (R95 to R97) -/

/-- A virtual instruction record (R97); `ops` are the operand words d, a, b, c. -/
structure VRec where
  w : Word
  kind : Nat
  ty : Nat
  rsv : Nat
  target : Nat
  ops : List Nat
  deriving DecidableEq, Repr

/-- An entry of the task table (R96). -/
structure VTask where
  first : Nat
  count : Nat
  rdFirst : Nat
  rdCount : Nat
  wrFirst : Nat
  wrCount : Nat
  steps : Nat
  gang : Nat
  flags : Nat
  absorb : Nat
  stepOff : Nat
  deriving DecidableEq, Repr

/-- An entry of a step list (R96). -/
structure VStep where
  kind : Nat
  first : Nat
  count : Nat
  deriving DecidableEq, Repr

/-- Record i of an object. -/
def objRec (b : List Byte) (i : Nat) : VRec :=
  let r := (b.drop (bytesAt b 0x4C 4 + 32 * i)).take 32
  { w := BitVec.ofNat 64 (bytesAt r 0 8), kind := bytesAt r 8 1, ty := bytesAt r 9 1, rsv := bytesAt r 10 2,
    target := bytesAt r 12 4, ops := [bytesAt r 16 4, bytesAt r 20 4, bytesAt r 24 4, bytesAt r 28 4] }

/-- The bytes of entry k of the task table. -/
def objTaskBytes (b : List Byte) (k : Nat) : List Byte := (b.drop (bytesAt b 0x40 4 + 64 * k)).take 64

def objTask (b : List Byte) (k : Nat) : VTask :=
  let r := objTaskBytes b k
  { first := bytesAt r 0 4, count := bytesAt r 4 4, rdFirst := bytesAt r 8 2, rdCount := bytesAt r 10 2,
    wrFirst := bytesAt r 12 2, wrCount := bytesAt r 14 2, steps := bytesAt r 0x10 2, gang := bytesAt r 0x12 1,
    flags := bytesAt r 0x13 1, absorb := bytesAt r 0x14 4, stepOff := bytesAt r 0x18 4 }

def objTasks (b : List Byte) : List VTask := (List.range (bytesAt b 0x3C 2)).map (objTask b)

/-- The step list of a task. -/
def objSteps (b : List Byte) (t : VTask) : List VStep :=
  (List.range t.steps).map (fun i =>
    let o := t.stepOff + 16 * i
    { kind := bytesAt b o 1, first := bytesAt b (o + 4) 4, count := bytesAt b (o + 8) 4 })

/-- The image of region i of the region table. -/
def objRegion (b : List Byte) (i : Nat) : List Byte := (b.drop (bytesAt b 0x44 4 + 288 * i)).take 288

/-- The records of a task. -/
def objRecs (b : List Byte) (t : VTask) : List VRec := (List.range t.count).map (fun i => objRec b (t.first + i))

/-! ## Checks 1 to 5 (R100) -/

/-- Check 1, on the header of an object at an address. -/
def headerOk (h : List Byte) (a : Nat) : Bool :=
  let n := bytesAt h 8 8
  bytesAt h 0 4 == 0x314A4C42 && bytesAt h 4 2 == 1 && bytesAt h 6 2 == 0 && bytesAt h 0x35 3 == 0 && bytesAt h 0x52 2 == 0
    && bytesAt h 0x58 40 == 0 && decide (256 ≤ n) && decide (n ≤ 0x4000000) && n % 32 == 0 && a % 32 == 0

/-- The hash of an object: over its bytes with those of the hash field taken as zero. -/
def objHash (b : List Byte) : BitVec 256 := Sha.sha256 (b.take 0x10 ++ List.replicate 32 0 ++ b.drop 0x30)

/-- Check 3: the profile versions, and the grade. -/
def profilesOk (b : List Byte) (g : Grade) : Bool :=
  (List.range 4).all (fun i => decide (bytesAt b (0x30 + i) 1 ≤ 1)) && natBit (bytesAt b 0x34 1) g.code

/-- Check 5, for one task (log 113 for the absorb index). -/
def taskTableOk (b : List Byte) (n regions recs k : Nat) : Bool :=
  let t := objTask b k
  decide (1 ≤ t.count) && decide (t.first + t.count ≤ recs) && decide (t.rdCount ≤ 8) && decide (t.wrCount ≤ 8)
    && decide (t.rdFirst + t.rdCount ≤ regions) && decide (t.wrFirst + t.wrCount ≤ regions) && decide (1 ≤ t.steps)
    && decide (t.steps ≤ 256) && decide (t.gang ≤ 4) && decide (t.flags ≤ 1) && decide (t.stepOff + 16 * t.steps ≤ n)
    && (t.flags == 0 || (decide (t.first ≤ t.absorb) && decide (t.absorb < t.first + t.count)))
    && bytesAt (objTaskBytes b k) 0x1C 4 == 0 && bytesAt (objTaskBytes b k) 0x20 32 == 0
    && (List.range t.steps).all (fun i =>
      bytesAt b (t.stepOff + 16 * i + 1) 3 == 0 && bytesAt b (t.stepOff + 16 * i + 12) 4 == 0)

/-- Check 5: tables and counts. -/
def tablesOk (b : List Byte) : Bool :=
  let n := b.length
  let tasks := bytesAt b 0x3C 2
  let params := bytesAt b 0x3E 2
  let regions := bytesAt b 0x50 2
  let recs := bytesAt b 0x54 4
  let pOff := bytesAt b 0x48 4
  decide (1 ≤ bytesAt b 0x38 2) && decide (bytesAt b 0x3A 2 ≤ 640) && decide (1 ≤ tasks) && decide (tasks ≤ 4096)
    && decide (params ≤ 64) && decide (bytesAt b 0x40 4 + 64 * tasks ≤ n) && decide (bytesAt b 0x44 4 + 288 * regions ≤ n)
    && (regions == 0 || bytesAt b 0x44 4 % 32 == 0) && decide (pOff + 16 * params ≤ n)
    && decide (bytesAt b 0x4C 4 + 32 * recs ≤ n)
    && (List.range params).all (fun i =>
      decide (bytesAt b (pOff + 16 * i + 8) 1 ≤ 2) && bytesAt b (pOff + 16 * i + 9) 3 == 0)
    && (List.range tasks).all (taskTableOk b n regions recs)

/-! ## Records (R97; checks 6 and 7) -/

/-- A virtual value: its file (0 x, 1 v, 2 k) and its number. -/
abbrev Virt := Nat × Nat

/-- What a record amounts to: its instruction, with 6 in every virtual field, or a composite; the length of its encoding; the
virtual values it defines and uses, by field; and the x, v and k registers it names natively. -/
structure RecInfo where
  r : VRec
  instr : Option Instr := none
  len : Nat := 0
  defs : List (Nat × Virt) := []
  uses : List (Nat × Virt) := []
  natives : List Virt := []
  deriving DecidableEq, Repr

/-- The number of a file in an operand word. -/
def RFile.number : RFile → Nat
  | .x => 0 | .v => 1 | .k => 2 | .other => 8

/-- Is an operand word virtual? -/
def isVirtual (op : Nat) : Bool := decide (op / 2 ^ 28 ≤ 2)

/-- The value a virtual operand word names. -/
def virtOf (op : Nat) : Virt := (op / 2 ^ 28, op % 2 ^ 28)

/-- The template with register 6 in every virtual field: a number that every file and every role allows. -/
def VRec.sample (r : VRec) : Word :=
  (List.range 4).foldl (fun w f => if isVirtual (r.ops.getD f 0) then fieldSet w f 6 else w) r.w

/-- The profile of an encoding (R323): 0 VEC1, 1 MTX1, 2 RGN1, 3 TSK1; none for the scalar base. -/
def profileOf (w : Word) : Option Nat :=
  match natBits w.toNat 0 7 with
  | 0x0B => some 3
  | 0x2B | 0x7B => some 2
  | 0x5B => some 0
  | 0x3F => match natBits w.toNat 12 3 with
    | 0 => some 1
    | 1 | 2 => some 2
    | 3 => some 3
    | _ => some 0
  | _ => none

/-- The fields of a composite. -/
def compositeRoles (c : Nat) : List Role := if c = 2 then vvv ++ [rd 3 .v] else vvv

/-- Does an operand word fill its field as the roles of the instruction ask? -/
def opFills (r : VRec) (roles : List Role) (composite : Bool) (f : Nat) : Bool :=
  let op := r.ops.getD f 0
  match roles.find? (fun x => x.field == f) with
  | none => op == 0xFFFFFFFF
  | some x =>
    if isVirtual op then x.file.number == op / 2 ^ 28 && (composite || fieldGet r.w f == 0)
    else op == 0x80000000 && !composite

/-- The registers of a field that a pair operand reaches besides the one it names (R478). -/
def pairFields (i : Option Instr) : List Nat :=
  match i with
  | some (.amocasQ ..) => [0, 2]
  | _ => []

/-- The values and registers of a record by its roles. -/
def VRec.info (r : VRec) (i : Option Instr) (len : Nat) (rs : List Role) : RecInfo :=
  let op (x : Role) : Nat := r.ops.getD x.field 0
  let nats := rs.filter (fun x : Role => x.file != .other && !isVirtual (op x))
  { r := r, instr := i, len := len,
    defs := (rs.filter (fun x : Role => x.writes && isVirtual (op x))).map (fun x => (x.field, virtOf (op x))),
    uses := (rs.filter (fun x : Role => x.reads && isVirtual (op x))).map (fun x => (x.field, virtOf (op x))),
    natives := nats.flatMap (fun x =>
      let n := fieldGet r.w x.field
      (x.file.number, n) :: (if (pairFields i).contains x.field then [(x.file.number, n + 1)] else [])) }

/-- Is an instruction a branch template: a conditional branch or a jal of offset zero? -/
def branchTemplate (i : Instr) : Bool :=
  match i with
  | .controlTransfer (.branch _ _ _ off) => off == 0
  | .controlTransfer (.jal _ off) => off == 0
  | _ => false

/-- Check 6 of a record, with what the record amounts to (log 113 for the profile of a composite). -/
def VRec.analyse (r : VRec) (declared : Nat → Bool) : Option RecInfo :=
  if 2 < r.kind || r.rsv ≠ 0 || (r.kind ≠ 2 && r.target ≠ 0) then none
  else if r.kind = 1 then
    if 65536 ≤ r.w.toNat || !declared 0 then none
    else if 2 < r.w.toNat then some { r := r }
    else
      let rs := compositeRoles r.w.toNat
      if (List.range 4).all (opFills r rs true) then some (r.info none 0 rs) else none
  else
    match decodeNumber r.sample with
    | none => none
    | some (i, len) =>
      let rs := (roles i).getD []
      if (profileOf r.w).all declared && (r.kind != 2 || branchTemplate i) && (List.range 4).all (opFills r rs false) then
        some (r.info (some i) len rs)
      else none

/-- All records of an object that pass check 6. -/
def analyseAll (b : List Byte) : Option (List RecInfo) :=
  (List.range (bytesAt b 0x54 4)).mapM (fun i => (objRec b i).analyse (fun p => bytesAt b (0x30 + p) 1 == 1))

/-! ## Values (check 8) -/

/-- Does the path end at an instruction? -/
def endsPath (i : Option Instr) (kind : Nat) : Bool :=
  match i with
  | some (.controlTransfer (.jal ..)) => kind == 0
  | some (.controlTransfer (.jalr ..)) => true
  | some (.tretire ..) | some (.tretireA ..) | some .mret | some .sret => true
  | _ => false

/-- The records that may follow record i of a task, by their place in it. -/
def successors (first n i : Nat) (x : RecInfo) : List Nat :=
  let jump := if x.r.kind = 2 then [x.r.target - first] else []
  let jumps := match x.instr with
    | some (.controlTransfer (.jal ..)) => true
    | _ => false
  let next := if endsPath x.instr x.r.kind || (jumps && x.r.kind == 2) then [] else [i + 1]
  (jump ++ next).filter (fun j => decide (j < n))

/-- One pass of the analysis: from the values that may be undefined before each record. -/
def undefPass (first : Nat) (xs : List RecInfo) (u : List (List Virt)) : List (List Virt) :=
  (List.range xs.length).foldl (fun u i =>
    match xs[i]? with
    | none => u
    | some x =>
      let out := (u.getD i []).filter (fun v => !x.defs.any (fun d => d.2 == v))
      (successors first xs.length i x).foldl (fun u j =>
        u.modify j (fun l => l ++ out.filter (fun v => !l.contains v))) u) u

/-- The values that may be undefined before each record of a task: the values of a task that some path from an entry reaches
without a definition. A path without a cycle shows each one, so a pass for each record is enough. -/
def undefs (first : Nat) (entries : List Nat) (xs : List RecInfo) : List (List Virt) :=
  let all := (xs.flatMap (fun x => (x.defs ++ x.uses).map (·.2))).eraseDups
  let start := (List.range xs.length).map (fun i => if entries.contains i then all else [])
  (List.range xs.length).foldl (fun u _ => undefPass first xs u) start

/-- The type that a record gives a value it defines: the type byte for field d, a scalar elsewhere. -/
def RecInfo.defType (x : RecInfo) (f : Nat) : Nat := if f = 0 then x.r.ty else 1

/-- The type of a value: that of its first definition. -/
def typeOf (xs : List RecInfo) (v : Virt) : Nat :=
  (firstSome (fun x : RecInfo => (x.defs.find? (fun d => d.2 == v)).map (fun d => x.defType d.1)) xs).getD 0

/-- May a value of a file have a type? -/
def typeFits (file ty : Nat) : Bool := if file = 1 then decide (2 ≤ ty) && decide (ty ≤ 9) else ty == 1

/-- The value in a field. -/
def RecInfo.useOf (x : RecInfo) (f : Nat) : Option Virt := (x.uses.find? (fun u => u.1 == f)).map (·.2)

/-- The type byte of the elements of a source format (R97, R281); e8m0 has none. -/
def sourceType (code : Nat) : Option Nat := if code ≤ 6 then some (2 + code) else if code ≤ 10 then some 9 else none

/-- The type that a native record asks of the vector it uses in a field: the instruction's element type, but for the operands that
the instruction reads in a format of its own, and none where it reads the lanes whatever their type (R432, R441, R447). -/
def RecInfo.needs (x : RecInfo) (f : Nat) : Option Nat :=
  let w := x.r.w.toNat
  match x.instr with
  | some (.vcvt _ _ _ b) => sourceType (b.toNat % 16)
  | some (.vcvtW64 _ _ _ _ src _) => sourceType src.toNat
  | some (.vqnt ..) | some (.mins ..) => some 8
  | some (.vgath ..) | some (.vgathOff ..) | some (.vscat ..) | some (.vscatOff ..) | some (.vperm ..) | some (.vscl ..) =>
    if f = 2 then none else some (2 + (if natBits w 0 7 = 0x3F then natBits w 61 3 else natBits w 12 3))
  | _ => some (2 + (if natBits w 0 7 = 0x3F then natBits w 61 3 else natBits w 12 3))

/-- Does a use match the value's type? -/
def useFits (xs : List RecInfo) (x : RecInfo) (u : Nat × Virt) : Bool :=
  let ty := typeOf xs u.2
  typeFits u.2.1 ty && (x.r.kind == 1 || u.2.1 != 1 || (x.needs u.1).all (· == ty))

/-- Do a record's types agree with its values' types? -/
def typesOk (xs : List RecInfo) (x : RecInfo) : Bool :=
  x.defs.all (fun d => typeFits d.2.1 (x.defType d.1) && typeOf xs d.2 == x.defType d.1)
    && x.uses.all (useFits xs x)
    && (x.defs.any (fun d => d.1 == 0) || x.r.ty == 0)
    && (x.r.kind != 1
      || (if x.r.w = 2 then x.uses.all (fun u => typeOf xs u.2 == x.r.ty) && decide (x.r.ty ≤ 8)
          else x.r.ty == 8 && x.uses.all (fun u => typeOf xs u.2 == 7 - x.r.w.toNat)))

/-- Definitions, types and uses of a task. -/
def valuesOk (first : Nat) (entries : List Nat) (xs : List RecInfo) : Bool :=
  (xs.zip (undefs first entries xs)).all (fun p => p.1.uses.all (fun u => !p.2.contains u.2))
    && xs.all (typesOk xs)

/-! ## Allocation (R101, R480, R481) -/

/-- The registers that receive values of a file. -/
def poolOf (file : Nat) : List Nat :=
  match file with
  | 0 => (List.range 27).map (· + 5)
  | 1 => List.range 16
  | _ => (List.range 7).map (· + 1)

/-- The values of a file that a record defines, and those it uses. -/
def RecInfo.fileDefs (x : RecInfo) (file : Nat) : List Nat := (x.defs.filter (fun d => d.2.1 == file)).map (·.2.2)
def RecInfo.fileUses (x : RecInfo) (file : Nat) : List Nat := (x.uses.filter (fun d => d.2.1 == file)).map (·.2.2)

/-- The life of a value: number, the record that defines it first, and the records that use or define it again, in order. -/
structure Life where
  v : Nat
  first : Nat
  uses : List Nat
  deriving DecidableEq, Repr

/-- The last record of a life. -/
def Life.last (l : Life) : Nat := l.uses.getLastD l.first

/-- The lives of the values of a file, in order of definition (log 96 for redefinitions). -/
def livesOf (xs : List RecInfo) (file : Nat) : List Life :=
  let ixs := (List.range xs.length).zip xs
  let vs := (ixs.flatMap (fun p : Nat × RecInfo => (p.2.fileDefs file).map (fun v => (v, p.1))))
  let firsts := vs.foldl (fun (acc : List (Nat × Nat)) p => if acc.any (fun q => q.1 == p.1) then acc else acc ++ [p]) []
  firsts.map (fun p : Nat × Nat =>
    { v := p.1, first := p.2,
      uses := (ixs.filter (fun q : Nat × RecInfo => decide (p.2 < q.1)
        && ((q.2.fileUses file).contains p.1 || (q.2.fileDefs file).contains p.1))).map (·.1) })

/-- The life with the furthest next use after a record; a tie goes to the lower number. -/
def furthest (i : Nat) (ls : List Life) : Option Life :=
  let next (l : Life) : Nat := (l.uses.find? (fun u => decide (i < u))).getD l.last
  ls.foldl (fun (best : Option Life) l =>
    match best with
    | none => some l
    | some m => if next m < next l || (next l == next m && decide (l.v < m.v)) then some l else best) none

/-- Pass one: the values to spill, or none when the file has no register at all. -/
def passOne (regs : Nat) (lives : List Life) : Option (List Nat) :=
  lives.foldlM (fun (spilled : List Nat) d =>
    let live := lives.filter (fun l => decide (l.first < d.first) && decide (d.first < l.last) && !spilled.contains l.v)
    if live.length + 1 ≤ regs then some spilled
    else (furthest d.first live).map (fun l => spilled ++ [l.v])) []

/-- An allocation: the register of each value; of each definition of a spilled value, by record; and the spill slots. `bare` says
that the file has no register to give, whatever is spilled. -/
structure Alloc where
  bare : Bool := false
  regs : List (Nat × Nat) := []
  temps : List ((Nat × Nat) × Nat) := []
  slots : List (Nat × Nat) := []
  deriving DecidableEq, Repr

/-- Pass two at one record: the values that hold registers, and the allocation so far. The registers of values last used here are
free to the record's own definition (R480), but a spilled value, which is not defined by the last instruction, takes none that
holds a value live before the record (R103); without one it takes the scratch register v23 (log 96). -/
def passTwoAt (pool : List Nat) (file : Nat) (lives : List Life) (i : Nat) (x : RecInfo) (st : List (Nat × Nat) × Alloc) :
    List (Nat × Nat) × Alloc :=
  let life (v : Nat) : Life := (lives.find? (fun l => l.v == v)).getD { v := v, first := i, uses := [] }
  let before := st.1
  let held := st.1.filter (fun p => decide (i < (life p.1).last))
  (x.fileDefs file).foldl (fun (st : List (Nat × Nat) × Alloc) v =>
    let free (ps : List (Nat × Nat)) : Option Nat := pool.find? (fun r => !ps.any (fun p => p.2 == r))
    let spilled := st.2.slots.any (fun p => p.1 == v)
    if spilled && (x.fileUses file).contains v then st
    else if spilled then (st.1, { st.2 with temps := st.2.temps ++ [((i, v), (free (before ++ st.1)).getD 23)] })
    else if (life v).first = i then
      let r := (free st.1).getD 0
      (if i < (life v).last then st.1 ++ [(v, r)] else st.1, { st.2 with regs := st.2.regs ++ [(v, r)] })
    else st) (held, st.2)

/-- Both passes over a file of a task. -/
def allocate (xs : List RecInfo) (file : Nat) : Alloc :=
  let named := xs.flatMap (·.natives)
  let pool := (poolOf file).filter (fun r => !named.contains (file, r))
  let lives := livesOf xs file
  match passOne pool.length lives with
  | none => { bare := true }
  | some spilled =>
    let order := (lives.filter (fun l => spilled.contains l.v)).map (·.v)
    let start : Alloc := { slots := order.zip ((List.range order.length).map (· + 1)) }
    (((List.range xs.length).zip xs).foldl
      (fun (st : List (Nat × Nat) × Alloc) (p : Nat × RecInfo) => passTwoAt pool file lives p.1 p.2 st) ([], start)).2

/-- The allocation of a task whose records begin at index `first`, of an object and a translation SVN. -/
structure Plan where
  hash : Nat
  svn : Nat
  first : Nat
  x : Alloc
  v : Alloc
  k : Alloc
  deriving DecidableEq, Repr

def Plan.file (p : Plan) (f : Nat) : Alloc := if f = 0 then p.x else if f = 1 then p.v else p.k

/-- Is a value one that the manual shows no spill or register of (log 96)? -/
def Plan.isFree (p : Plan) (v : Virt) : Bool :=
  (p.file v.1).bare || (v.1 != 1 && (p.file v.1).slots.any (fun q => q.1 == v.2))

/-- Is an instruction VMASK or a CSR write that names vactm? -/
def setsVactm (i : Option Instr) : Bool :=
  match i with
  | some (.vmask ..) => true
  | some (.csrWrite op csr src _) => csr == 0x804 && csrWrites op src
  | _ => false

/-- The allocation of a task, or none where R481 refuses it. -/
def planOf (hash svn first : Nat) (xs : List RecInfo) : Option Plan :=
  let p : Plan :=
    { hash := hash, svn := svn, first := first, x := allocate xs 0, v := allocate xs 1, k := allocate xs 2 }
  let slots := p.x.slots.length + p.v.slots.length + p.k.slots.length
  if 1024 < slots || (slots != 0 && xs.any (fun r => setsVactm r.instr)) then none else some p

/-! ## Steps (R98; check 9) -/

/-- May a step of a kind hold a record? -/
def stepHolds (kind : Nat) (x : RecInfo) : Bool :=
  let w := x.r.w.toNat
  if x.r.kind = 1 then kind == 0
  else
    let f3 := natBits w 12 3
    let op := if natBits w 0 7 = 0x3F then natBits w 32 8 else natBits w 25 7
    match natBits w 0 7 with
    | 0x7B => kind == 1 || (decide (f3 ≤ 1) && op == 11)
    | 0x0B => kind == (if f3 = 1 then 1 else 0)
    | 0x2B | 0x5B => kind == 0
    | 0x3F =>
      if f3 = 1 then kind == 1 || op == 11
      else if f3 = 3 then kind == (if op = 1 || op = 2 then 1 else 0)
      else kind == 0
    | _ => true

/-- Check 9 of a task. -/
def stepsOk (t : VTask) (steps : List VStep) (recs : List RecInfo) : Bool :=
  let ends := steps.foldl (fun (e : Option Nat) s => if e == some s.first then some (s.first + s.count) else none) (some t.first)
  ends == some (t.first + t.count)
    && ((List.range steps.length).zip steps).all (fun p : Nat × VStep =>
      let s := p.2
      decide (s.kind ≤ 1)
        && ((recs.drop (s.first - t.first)).take s.count).all (fun x =>
          stepHolds s.kind x
            && (x.r.kind != 2 || (decide (s.first ≤ x.r.target)
              && (decide (x.r.target < s.first + s.count)
                || (x.r.target == s.first + s.count && decide (p.1 + 1 < steps.length)))))))

/-! ## Native code (R101, R102, R105) -/

/-- A native instruction: its length and its encoding. -/
abbrev Native := Nat × Word

/-- The encoding of an instruction. -/
def native (i : Instr) : Native := (encode i).getD (4, 0)

/-- The register that a reload for an operand goes to (R481). -/
def reloadReg (f : Nat) : Nat :=
  match f with
  | 0 => 23 | 1 => 20 | 2 => 21 | _ => 22

/-- A reload from, and a spill to, slot n. -/
def reload (r n : Nat) : Native := native (.vldOff .i64 (BitVec.ofNat 5 r) 2 (BitVec.ofInt 21 (-64 * (n : Int))))
def spill (r n : Nat) : Native := native (.vstOff .i64 (BitVec.ofNat 5 r) 2 (BitVec.ofInt 21 (-64 * (n : Int))))

/-- b.hdot on registers, from source type code `src` (R102). -/
def hdot (src : Nat) (d a b : Reg) : List Native :=
  let lo : BitVec 5 := BitVec.ofNat 5 src
  let hi : BitVec 5 := BitVec.ofNat 5 (16 + src)
  [native (.vcvt .f32 16 a lo), native (.vcvt .f32 17 b lo), native (.vcvt .f32 18 a hi), native (.vcvt .f32 19 b hi),
   native (.vmul .f32 16 16 17), native (.vfma .f32 16 18 19), native (.vrsum .f32 d 16)]

/-- b.clamp on registers. -/
def clampOf (t : VTy) (d a b c : Reg) : List Native := [native (.vmax t 16 a b), native (.vmin t d 16 c)]

/-- The register a record's use reads: the value's, or the reload's. -/
def Plan.useReg (p : Plan) (u : Nat × Virt) : Nat :=
  let a := p.file u.2.1
  if a.slots.any (fun q => q.1 == u.2.2) then reloadReg u.1 else Store.get 0 a.regs u.2.2

/-- The register a record's definition writes; that of a spilled value which the record also reads is the reload's. -/
def Plan.defReg (p : Plan) (i : Nat) (d : Nat × Virt) : Nat :=
  let a := p.file d.2.1
  if a.slots.any (fun q => q.1 == d.2.2) then
    match a.temps.find? (fun q => q.1 == (i, d.2.2)) with
    | some q => q.2
    | none => reloadReg d.1
  else Store.get 0 a.regs d.2.2

/-- The sequence of a record that stands at place i of its task, and the place in it of the record's own first instruction, past
the end where the sequence is a free value. -/
def Plan.sequence (p : Plan) (i : Nat) (x : RecInfo) : List Native × Nat :=
  let slot (u : Nat × Virt) : Option Nat := ((p.file u.2.1).slots.find? (fun q => q.1 == u.2.2)).map (·.2)
  if (x.uses ++ x.defs).any (fun u => p.isFree u.2) then
    let c := Config.spillCode p.hash p.svn (p.first + i)
    ((c.1 :: c.2).take 256 |>.map (fun n => (if n.1 then 8 else 4, n.2)), 256)
  else
  let pre := x.uses.filterMap (fun u => (slot u).map (fun n => reload (reloadReg u.1) n))
  let post := x.defs.filterMap (fun d => (slot d).map (fun n => spill (p.defReg i d) n))
  let fields := x.uses.map (fun u => (u.1, p.useReg u)) ++ x.defs.map (fun d => (d.1, p.defReg i d))
  let reg (f : Nat) : Reg := BitVec.ofNat 5 (((fields.find? (fun q => q.1 == f)).map (·.2)).getD 0)
  let body :=
    if x.r.kind = 1 then
      if x.r.w = 2 then clampOf (VTy.ofCode (BitVec.ofNat 3 (x.r.ty - 2))) (reg 0) (reg 1) (reg 2) (reg 3)
      else hdot (5 - x.r.w.toNat) (reg 0) (reg 1) (reg 2)
    else [(x.len, fields.foldl (fun w q => fieldSet w q.1 q.2) x.r.w)]
  (pre ++ body ++ post, pre.length)

/-- A branch with its offset filled in; none when it does not reach. -/
def fillOffset (w : Word) (delta : Int) : Option Word :=
  match decodeNumber w with
  | some (.controlTransfer (.branch c a b _), _) =>
    if -4096 ≤ delta && delta < 4096 then some (native (.controlTransfer (.branch c a b (BitVec.ofInt 12 (delta / 2))))).2 else none
  | some (.controlTransfer (.jal rd _), _) =>
    if -1048576 ≤ delta && delta < 1048576 then some (native (.controlTransfer (.jal rd (BitVec.ofInt 20 (delta / 2))))).2
    else none
  | _ => none

/-- A native instruction at its place: offset in the slot, its position, the encoding; and the virtual index it branches to. -/
structure Placed where
  off : Nat
  pos : Nat
  ins : Native
  target : Option Nat := none
  deriving DecidableEq, Repr

/-- Lay out one record at an offset. -/
def placeRecord (off idx : Nat) (x : RecInfo) (seq : List Native × Nat) : List Placed × Nat :=
  ((List.range seq.1.length).zip seq.1).foldl (fun (acc : List Placed × Nat) (q : Nat × Native) =>
    let t := if x.r.kind = 2 && q.1 == seq.2 then some x.r.target else none
    (acc.1 ++ [{ off := acc.2, pos := idx * 256 + q.1, ins := q.2, target := t }], acc.2 + q.2.1)) ([], off)

/-- Lay out a task at an offset. -/
def placeTask (off : Nat) (t : VTask) (xs : List RecInfo) (p : Plan) : List Placed × Nat :=
  let r := ((List.range xs.length).zip xs).foldl (fun (acc : List (List Placed) × Nat) (q : Nat × RecInfo) =>
    let r := placeRecord acc.2 (t.first + q.1) q.2 (p.sequence q.1 q.2)
    (acc.1 ++ [r.1], r.2)) ([], off)
  (r.1.flatten, r.2)

/-- The offset of the first native instruction of a virtual index. -/
def offsetIn (ps : List Placed) (idx : Nat) : Nat := ((ps.find? (fun p => p.pos == idx * 256)).map (·.off)).getD 0

/-- The offsets of a task's branches are filled in. -/
def fillTask (ps : List Placed) : Option (List Placed) :=
  ps.mapM (fun p =>
    match p.target with
    | none => some p
    | some t => (fillOffset p.ins.2 ((offsetIn ps t : Int) - p.off)).map (fun w => { p with ins := (p.ins.1, w) }))

/-- A stub from one offset to another (R105). -/
def stub (src dst : Nat) : List Byte :=
  let d := dst - src
  let hi := (d + 0x800) / 4096
  let lo : Int := (d : Int) - 4096 * hi
  bytesOf 4 (native (.integerAlu (.auipc 31 (BitVec.ofNat 20 hi)))).2.toNat
    ++ bytesOf 4 (native (.controlTransfer (.jalr 0 31 (BitVec.ofInt 12 lo)))).2.toNat

/-- Where every value that is live before place i of a task stands (R110). -/
def Plan.liveAt (p : Plan) (xs : List RecInfo) (i : Nat) : List (Nat × Nat × Option Nat × Nat) :=
  [0, 1, 2].flatMap (fun f =>
    let a := p.file f
    ((livesOf xs f).filter (fun l => decide (l.first < i) && decide (i ≤ l.last))).map (fun l =>
      if p.isFree (f, l.v) then (f, l.v, none, Config.spillSlot p.hash p.svn f l.v)
      else
        match a.slots.find? (fun q => q.1 == l.v) with
        | some q => (f, l.v, none, q.2)
        | none => (f, l.v, some (Store.get 0 a.regs l.v), 0)))

/-! ## Translation (R99 to R101, R105, R108) -/

/-- A task with its records and its plan. -/
abbrev Planned := VTask × List RecInfo × Plan

/-- Checks 6 to 10: the first that fails, or the plans of the tasks. -/
def checkBody (svn : Nat) (b : List Byte) : Except Nat (List Planned) :=
  match analyseAll b with
  | none => .error 6
  | some all =>
    if all.any (fun x => x.r.kind == 1 && decide (2 < x.r.w.toNat)) then .error 7
    else
      let of_ (t : VTask) : List RecInfo := (all.drop t.first).take t.count
      let tasks := objTasks b
      let entries (t : VTask) : List Nat := 0 :: (if t.flags = 1 then [t.absorb - t.first] else [])
      match tasks.mapM (fun t =>
        if valuesOk t.first (entries t) (of_ t) then (planOf (objHash b).toNat svn t.first (of_ t)).map (fun p => ((t, of_ t, p) : Planned)) else none) with
      | none => .error 8
      | some plans =>
        if !plans.all (fun p => stepsOk p.1 (objSteps b p.1) p.2.1) then .error 9
        else if !(List.range (bytesAt b 0x50 2)).all (fun i =>
            (Region.ofImage (objRegion b i)).any (fun r => decide (canon r.boxes r.lat = r.boxes))) then .error 10
        else .ok plans

/-- Checks 3 to 10 on a device of a grade, for a translation SVN: the quads present are those of the package (R96). -/
def checkObject (b : List Byte) (g : Grade) (svn : Nat) : Except Nat (List Planned) :=
  if !profilesOk b g then .error 3
  else if 4 * g.quads < bytesAt b 0x38 2 || bytesAt b 0x3A 2 < 4 * g.quads then .error 4
  else if !tablesOk b then .error 5
  else checkBody svn b

/-- The native code of planned tasks, one after the other; none when a branch does not reach. -/
def placeAll (plans : List Planned) : Option (List (List Placed)) :=
  ((plans.foldl (fun (acc : List (List Placed) × Nat) p =>
    let r := placeTask acc.2 p.1 p.2.1 p.2.2
    (acc.1 ++ [r.1], r.2)) ([], 0x10000)).1).mapM fillTask

/-- The start bits of one instruction. -/
def startsOf (n : Nat) : List Bool := true :: List.replicate (n / 2 - 1) false

/-- The stubs of one table: each task's, by its virtual index, or nothing. -/
def stubTable (base : Nat) (ts : List (List Placed × Option Nat)) : List Byte × List Bool × List (Nat × Nat) :=
  let n := ts.length
  let r := ((List.range n).zip ts).foldl
    (fun (acc : List Byte × List Bool × List (Nat × Nat)) (q : Nat × List Placed × Option Nat) =>
      match q.2.2 with
      | none => (acc.1 ++ List.replicate 8 0, acc.2.1 ++ List.replicate 4 false, acc.2.2)
      | some idx =>
        let at_ := base + 8 * q.1
        (acc.1 ++ stub at_ (offsetIn q.2.1 idx), acc.2.1 ++ startsOf 4 ++ startsOf 4,
         acc.2.2 ++ [(at_, idx * 256), (at_ + 4, idx * 256)])) ([], [], [])
  (r.1 ++ List.replicate (0x8000 - 8 * n) 0, r.2.1 ++ List.replicate (0x4000 - 4 * n) false, r.2.2)

/-- The translation of an object that passes the checks, from its bytes, with its code; none when a branch does not reach or a slot
cannot hold it. -/
def buildTranslation (owner svn : Nat) (b : List Byte) (plans : List Planned) : Option (Translation × List Byte) :=
  match placeAll plans with
  | none => none
  | some placed =>
    let both := plans.zip placed
    let e := stubTable 0 (both.map (fun q : Planned × List Placed => (q.2, some q.1.1.first)))
    let a := stubTable 0x8000 (both.map (fun q : Planned × List Placed => (q.2, if q.1.1.flags = 1 then some q.1.1.absorb else none)))
    let ps := placed.flatten
    let code := e.1 ++ a.1 ++ ps.flatMap (fun p => bytesOf p.ins.1 p.ins.2.toNat)
    if 0x1000000 < code.length then none
    else
      some (
        { owner := owner, hash := objHash b, svn := svn, len := code.length,
          starts := e.2.1 ++ a.2.1 ++ ps.flatMap (fun p => startsOf p.ins.1),
          positions := e.2.2 ++ a.2.2 ++ ps.map (fun p => (p.off, p.pos)),
          locs := plans.flatMap (fun p : Planned => (List.range p.2.1.length).map (fun i => (p.1.first + i, p.2.2.liveAt p.2.1 i))),
          image := b }, code)

/-! ## The calls (R99, R106, R109) -/

/-- Are the frames of a range of HBM all of an owner slot? -/
def State.framesOf (s : State) (owner a n : Nat) : Bool :=
  decide (a + n ≤ Config.hbmBytes)
    && (List.range ((a + n - 1) / 0x200000 + 1 - a / 0x200000)).all (fun i => (s.frame (a / 0x200000 + i)).slot == owner)

/-- INVALID, with the failing check in a2; a free value when it is no check of the object that fails (log 7). -/
def State.invalid (s : State) (check : Option Nat) : State :=
  let (v, s) := match check with
    | some n => ((BitVec.ofNat 64 n : Word), s)
    | none => s.fresh64
  (s.answer scInvalid).wx 12 v

/-- The bytes that the window area takes from an object (R106). -/
def windowBytes (b : List Byte) : List Byte :=
  let set (first n : Nat) : List Byte := (List.range n).flatMap (fun i => objRegion b (first + i)) ++ List.replicate (288 * (8 - n)) 0
  (objTasks b).flatMap (fun t => set t.rdFirst t.rdCount ++ set t.wrFirst t.wrCount)

/-- The places of the 64-byte units of the window area; none unless all are writable HBM of the tenant. -/
def State.windowPlaces (s : State) (asid area n : Nat) : Option (List Place) :=
  (List.range (n / 64)).mapM (fun i =>
    match s.engineTranslate 0 asid .store (area + 64 * i) with
    | .ok p => if p.kind = .hbm then some p else none
    | _ => none)

/-- Write the window area at the homes of its lines. -/
def State.writeWindows (s : State) (asid : Nat) (places : List Place) (bs : List Byte) : State :=
  ((List.range places.length).zip places).foldl (fun s (q : Nat × Place) =>
    (s.engineWrite q.2.home q.2.addr (BitVec.allOnes 64) (BitVec.ofNat 512 (bytesAt bs (64 * q.1) 64)) 0 asid).2) s

/-- Where the heap has room for code of a length: the lowest place, at a line boundary, that no translation with code covers
(R104, log 110). -/
def State.heapRoom (s : State) (n : Nat) : Option Nat :=
  let used := (s.heap.filter (fun t => !t.2.purged)).map (fun t : Nat × Translation => (t.2.base, t.2.base + t.2.len))
  (0 :: used.map (fun u => (u.2 + 63) / 64 * 64)).foldl (fun (best : Option Nat) a =>
    if 0x40000000 < a + n || used.any (fun u => decide (u.1 < a + n) && decide (a < u.2)) || best.any (fun b => decide (b ≤ a)) then best
    else some a) none

/-- Put a translation into the heap under a new number, its code at the homes of its lines, if there is room (R104). -/
def State.heapAdd (s : State) (x : Translation × List Byte) : Option (Nat × State) :=
  (s.heapRoom x.1.len).map (fun a =>
    let (id, s) := s.newId
    let s := (s.devWrite (Config.heapBase + a) x.2 0).2
    (id, { s with heap := Store.put s.heap id { x.1 with base := a } }))

/-- The translation of an object of an owner that the heap holds for the fuse counter's value (R108). -/
def State.lookup (s : State) (owner : Nat) (b : List Byte) : Option Nat :=
  firstSome (fun t : Nat × Translation =>
    if t.2.owner = owner && t.2.hash == objHash b && t.2.svn == s.rtu.fuses && !t.2.purged then some t.1 else none) s.heap

/-- Map a translation into a slot, and write the window area. -/
def State.mapSlot (s : State) (asid j area id : Nat) (b : List Byte) : State :=
  match s.windowPlaces asid area (4608 * (objTasks b).length) with
  | none => s.invalid none
  | some ps =>
    let s := s.writeWindows asid ps (windowBytes b)
    { s with slotMap := Store.put s.slotMap (asid * 256 + j) id }.answer scOk (some (slotBase j))

/-- Add a translation to the heap, if it fits, and go on with its number. -/
def State.addTranslation (s : State) (x : Option (Translation × List Byte)) (go : Nat → State → State) : State :=
  match x.bind s.heapAdd with
  | none => s.answer scNoSpace
  | some (id, s) => go id s

/-- OBJ_TRANSLATE on the bytes of an object. -/
def State.translateBytes (s : State) (asid owner j area : Nat) (b : List Byte) : State :=
  if (objHash b).toNat ≠ bytesAt b 0x10 32 then s.invalid (some 2)
  else
    match s.lookup owner b with
    | some id => s.mapSlot asid j area id b
    | none =>
      match checkObject b s.grade s.rtu.fuses with
      | .error n => s.invalid (some n)
      | .ok plans =>
        if (s.windowPlaces asid area (4608 * plans.length)).isNone then s.invalid none
        else
          s.addTranslation (buildTranslation owner s.rtu.fuses b plans) (fun id s => s.mapSlot asid j area id b)

/-- OBJ_TRANSLATE. -/
def objTranslate (s : State) : State :=
  let asid := s.arg 0
  let a := s.arg 1
  let j := s.arg 2
  let area := s.arg 3
  match s.tenant asid with
  | none => s.invalid none
  | some t =>
    if 255 < j || area % 64 ≠ 0 then s.invalid none
    else if (Store.find? s.slotMap (asid * 256 + j)).isSome then s.answer scExists
    else if !s.framesOf t.owner a 128 then s.invalid none
    else
      let h := s.peekBytes a 128
      if !headerOk h a then s.invalid (some 1)
      else
        let n := bytesAt h 8 8
        if !s.framesOf t.owner a n then s.invalid none
        else if s.rangePoisoned a n then s.invalid (some 2)
        else s.translateBytes asid t.owner j area (s.peekBytes a n)

/-- Does an address lie in slot j of the code view? -/
def inSlot (j va : Nat) : Bool := windowOf va == .code && codeSlotOf va == j

/-- Where a hart's task stands: its pc, or what a trap taken from it saved; none without a task under way. -/
def Hart.taskPc (h : Hart) : Option Word :=
  if h.task.isNone || !(h.status.executes || h.status == .stopping) then none
  else
    match h.mode with
    | .u => some h.pc
    | .s => some h.priv.sepc
    | .m => some (if Mode.ofCode (natBits h.priv.mstatus.toNat 11 2) = .u then h.priv.mepc else h.priv.sepc)

/-- Is a slot of a tenant in use by a hart, a saved position or a task that is still held (R99)? -/
def State.slotInUse (s : State) (asid j : Nat) : Bool :=
  s.harts.any (fun h => s.asidOf h.1 == asid && h.2.ctx.isSome && h.2.taskPc.any (fun pc => inSlot j pc.toNat))
    || s.disp.tasks.any (fun t =>
      t.2.asid == asid
        && (t.2.members.any (fun m => m.saved && m.codeSlot == some j)
          || (decide (1 ≤ t.2.state) && decide (t.2.state ≤ 5) && (inSlot j t.2.tcb.entry || inSlot j t.2.tcb.absorb))))

/-- OBJ_UNLOAD: the classes of the kernels in the slot go with it (R132). -/
def objUnload (s : State) : State :=
  let asid := s.arg 0
  let j := s.arg 1
  if (s.tenant asid).isNone || 255 < j then s.answer scInvalid
  else
    match Store.find? s.slotMap (asid * 256 + j) with
    | none => s.answer scState
    | some _ =>
      if s.slotInUse asid j then s.answer scState
      else
        let s := s.modDisp (fun d => { d with kernels := d.kernels.filter (fun k => !(k.asid == asid && inSlot j k.entry)) })
        { s with slotMap := Store.del s.slotMap (asid * 256 + j) }.answer scOk

/-- OBJ_TRANSLATE. -/
def execObjTranslate (s : State) : Result := superCall 10 objTranslate s

/-- OBJ_UNLOAD. -/
def execObjUnload (s : State) : Result := superCall 11 objUnload s

/-! ## Retranslation (R49, R109) -/

/-- A purged translation that a slot still maps is made anew and takes its place in every slot that maps it. -/
def State.retranslate (s : State) (id : Nat) : State :=
  match Store.find? s.heap id with
  | none => s
  | some t =>
    if !s.slotMap.any (fun m => m.2 == id) then s
    else
      match checkObject t.image s.grade s.rtu.fuses with
      | .error _ => s
      | .ok plans =>
        match (buildTranslation t.owner s.rtu.fuses t.image plans).bind s.heapAdd with
        | none => s
        | some (n, s) =>
          { s with slotMap := s.slotMap.map (fun m : Nat × Nat => if m.2 = id then (m.1, n) else m) }

/-- The tables of a purged translation stay until no saved context names it (R109). -/
def State.forget (s : State) (id : Nat) : State :=
  if s.slotMap.any (fun m => m.2 == id) || s.disp.tasks.any (fun t => t.2.members.any (fun m => m.saved && m.xlat == id)) then s
  else { s with heap := Store.del s.heap id }

/-- RETRANSLATION_COMPLETE: the purged objects are back in their slots, and dispatch resumes. -/
def execRetranslationComplete (s : State) : Result :=
  match s.rtu.advance with
  | none => .next s
  | some v =>
    if s.rtu.fuses ≠ v then .next s
    else
      let old := s.rtu.purged
      let s := old.foldl State.retranslate s
      let s := old.foldl State.forget s
      .next ((s.modRtu (fun r => { r with advance := none, purged := [] })).modDisp (fun d => { d with stopped := false }))

/-! ## The environment call (R93, R309) -/

/-- Serve the call that a6 names. -/
def supervisorCall (s : State) : Result :=
  match (s.rx 16).toNat with
  | 0 => execOwnerCreate s
  | 1 => execOwnerDestroy s
  | 2 => execFrameSet s
  | 3 => execTenantCreate s
  | 4 => execTenantSet s
  | 5 => execTenantDestroy s
  | 6 => execCtxCreate s
  | 7 => execPortOpen s
  | 8 => execPortClose s
  | 9 => execApertureMap s
  | 10 => execObjTranslate s
  | 11 => execObjUnload s
  | 12 => execStageSet s
  | 13 => execTaskFault s
  | 14 => execVaultSet s
  | f => superCall f (·.answer scUnknown) s

/-- ECALL, and EBREAK. -/
def execEcallEnvironment (brk : Bool) (s : State) : Result :=
  if s.calling && !brk then supervisorCall s
  else
    .next (s.trap (if brk then 3 else match s.me.mode with
      | .u => 8
      | .s => 9
      | .m => 11) 0)

end Sys2Proof.Machine
end

