-- ==== Sys2Proof/Machine/Dispatch.lean ====
section
/-! DEFINITION. The meaning of every row of the table of operations. -/

namespace Sys2Proof.Machine

/-- What an instruction, or an event of the module, does. -/
def exec (i : Instr) (s : State) : Host.Outcome State Fault Refusal :=
  match i with
  | .ecallEnvironment brk => Sys2Proof.Machine.execEcallEnvironment brk s
  | .csrWrite op csr src rd => Sys2Proof.Machine.execCsrWrite op csr src rd s
  | .budgetWrite op src rd => Sys2Proof.Machine.execBudgetWrite op src rd s
  | .driftWrite op src rd => Sys2Proof.Machine.execDriftWrite op src rd s
  | .leaseWrite op src rd => Sys2Proof.Machine.execLeaseWrite op src rd s
  | .rmodeWrite op src rd => Sys2Proof.Machine.execRmodeWrite op src rd s
  | .trcfgWrite op src rd => Sys2Proof.Machine.execTrcfgWrite op src rd s
  | .xfctlResume op src rd => Sys2Proof.Machine.execXfctlResume op src rd s
  | .xfctlFail op src rd => Sys2Proof.Machine.execXfctlFail op src rd s
  | .load w rd rs1 imm => Sys2Proof.Machine.execLoad w rd rs1 imm s
  | .store w rs2 rs1 imm => Sys2Proof.Machine.execStore w rs2 rs1 imm s
  | .amo op dw aq rl rd rs1 rs2 => Sys2Proof.Machine.execAmo op dw aq rl rd rs1 rs2 s
  | .lr dw aq rl rd rs1 => Sys2Proof.Machine.execLr dw aq rl rd rs1 s
  | .sc dw aq rl rd rs1 rs2 => Sys2Proof.Machine.execSc dw aq rl rd rs1 rs2 s
  | .amocasQ aq rl rd rs1 rs2 => Sys2Proof.Machine.execAmocasQ aq rl rd rs1 rs2 s
  | .sfenceVma rs1 rs2 => Sys2Proof.Machine.execSfenceVma rs1 rs2 s
  | .fence fm pred succ rd rs1 => Sys2Proof.Machine.execFence fm pred succ rd rs1 s
  | .fenceTso rd rs1 => Sys2Proof.Machine.execFenceTso rd rs1 s
  | .fenceI rd rs1 imm => Sys2Proof.Machine.execFenceI rd rs1 imm s
  | .tretire a => Sys2Proof.Machine.execTretire a s
  | .tretireA a => Sys2Proof.Machine.execTretireA a s
  | .tspawn d a => Sys2Proof.Machine.execTspawn d a s
  | .tspawnN d a => Sys2Proof.Machine.execTspawnN d a s
  | .tspawnOff d a off => Sys2Proof.Machine.execTspawnOff d a off s
  | .tspawnNOff d a off => Sys2Proof.Machine.execTspawnNOff d a off s
  | .tcancel d a => Sys2Proof.Machine.execTcancel d a s
  | .tstat d a => Sys2Proof.Machine.execTstat d a s
  | .twdchk d => Sys2Proof.Machine.execTwdchk d s
  | .tbudget d => Sys2Proof.Machine.execTbudget d s
  | .tself d => Sys2Proof.Machine.execTself d s
  | .drank d => Sys2Proof.Machine.execDrank d s
  | .dsize d => Sys2Proof.Machine.execDsize d s
  | .bbind n a b => Sys2Proof.Machine.execBbind n a b s
  | .bbindI n a cfg => Sys2Proof.Machine.execBbindI n a cfg s
  | .barrive n a => Sys2Proof.Machine.execBarrive n a s
  | .bwait d n => Sys2Proof.Machine.execBwait d n s
  | .bsync d n a => Sys2Proof.Machine.execBsync d n a s
  | .bexpect n a => Sys2Proof.Machine.execBexpect n a s
  | .bexpectI n bytes => Sys2Proof.Machine.execBexpectI n bytes s
  | .btest d n => Sys2Proof.Machine.execBtest d n s
  | .bunbind n => Sys2Proof.Machine.execBunbind n s
  | .msend d a b => Sys2Proof.Machine.execMsend d a b s
  | .msendI d a b c tag => Sys2Proof.Machine.execMsendI d a b c tag s
  | .mrecv d a => Sys2Proof.Machine.execMrecv d a s
  | .mpoll d => Sys2Proof.Machine.execMpoll d s
  | .mwait d => Sys2Proof.Machine.execMwait d s
  | .mhdr d => Sys2Proof.Machine.execMhdr d s
  | .clkrd d => Sys2Proof.Machine.execClkrd d s
  | .clkadv a => Sys2Proof.Machine.execClkadv a s
  | .clkadvOff a off => Sys2Proof.Machine.execClkadvOff a off s
  | .lwait d a => Sys2Proof.Machine.execLwait d a s
  | .lwaitOff d a off => Sys2Proof.Machine.execLwaitOff d a off s
  | .fencesFull d scope => Sys2Proof.Machine.execFencesFull d scope s
  | .fencesAcquire d scope => Sys2Proof.Machine.execFencesAcquire d scope s
  | .fencesRelease d scope => Sys2Proof.Machine.execFencesRelease d scope s
  | .repb a len ring => Sys2Proof.Machine.execRepb a len ring s
  | .trmark a => Sys2Proof.Machine.execTrmark a s
  | .trmarkI imm => Sys2Proof.Machine.execTrmarkI imm s
  | .ctxpre d a b => Sys2Proof.Machine.execCtxpre d a b s
  | .ctxrel d a => Sys2Proof.Machine.execCtxrel d a s
  | .mcset d a b => Sys2Proof.Machine.execMcset d a b s
  | .audapp d a b => Sys2Proof.Machine.execAudapp d a b s
  | .rgnil d n => Sys2Proof.Machine.execRgnil d n s
  | .rgfull d a => Sys2Proof.Machine.execRgfull d a s
  | .rgpt d a b => Sys2Proof.Machine.execRgpt d a b s
  | .rgptI d a b n e => Sys2Proof.Machine.execRgptI d a b n e s
  | .rgclip d a b => Sys2Proof.Machine.execRgclip d a b s
  | .rguni d a b => Sys2Proof.Machine.execRguni d a b s
  | .rgint d a b => Sys2Proof.Machine.execRgint d a b s
  | .rgsub d a b => Sys2Proof.Machine.execRgsub d a b s
  | .rgdil d a b => Sys2Proof.Machine.execRgdil d a b s
  | .rgdilI d a imm => Sys2Proof.Machine.execRgdilI d a imm s
  | .rgshf d a b => Sys2Proof.Machine.execRgshf d a b s
  | .rgshfI d a imm => Sys2Proof.Machine.execRgshfI d a imm s
  | .rgprj d a b => Sys2Proof.Machine.execRgprj d a b s
  | .rgprjI d a imm => Sys2Proof.Machine.execRgprjI d a imm s
  | .rgxpd d a b => Sys2Proof.Machine.execRgxpd d a b s
  | .rgxpdI d a imm => Sys2Proof.Machine.execRgxpdI d a imm s
  | .rglat d a b => Sys2Proof.Machine.execRglat d a b s
  | .rglatI d a imm => Sys2Proof.Machine.execRglatI d a imm s
  | .rgcut d a b => Sys2Proof.Machine.execRgcut d a b s
  | .rgcutI d a imm => Sys2Proof.Machine.execRgcutI d a imm s
  | .rgspl d a b => Sys2Proof.Machine.execRgspl d a b s
  | .rgsplI d a imm => Sys2Proof.Machine.execRgsplI d a imm s
  | .rgbbox d a => Sys2Proof.Machine.execRgbbox d a s
  | .rgmv d a => Sys2Proof.Machine.execRgmv d a s
  | .rgcan d a => Sys2Proof.Machine.execRgcan d a s
  | .rgld d a => Sys2Proof.Machine.execRgld d a s
  | .rgldImm d a imm => Sys2Proof.Machine.execRgldImm d a imm s
  | .rgldW64 d a off => Sys2Proof.Machine.execRgldW64 d a off s
  | .rgst d a => Sys2Proof.Machine.execRgst d a s
  | .rgstImm d a imm => Sys2Proof.Machine.execRgstImm d a imm s
  | .rgstW64 d a off => Sys2Proof.Machine.execRgstW64 d a off s
  | .rgcnt d a => Sys2Proof.Machine.execRgcnt d a s
  | .rgnbx d a => Sys2Proof.Machine.execRgnbx d a s
  | .rgtst d a b => Sys2Proof.Machine.execRgtst d a b s
  | .rgeq d a b => Sys2Proof.Machine.execRgeq d a b s
  | .rgsubs d a b => Sys2Proof.Machine.execRgsubs d a b s
  | .rgget d a b => Sys2Proof.Machine.execRgget d a b s
  | .rggetI d a sel => Sys2Proof.Machine.execRggetI d a sel s
  | .hld d a => Sys2Proof.Machine.execHld d a s
  | .hldImm d a imm => Sys2Proof.Machine.execHldImm d a imm s
  | .hldW64 d a off => Sys2Proof.Machine.execHldW64 d a off s
  | .hst d a => Sys2Proof.Machine.execHst d a s
  | .hstImm d a imm => Sys2Proof.Machine.execHstImm d a imm s
  | .hstW64 d a off => Sys2Proof.Machine.execHstW64 d a off s
  | .hget d a b => Sys2Proof.Machine.execHget d a b s
  | .hgetI d a sel => Sys2Proof.Machine.execHgetI d a sel s
  | .hsetx d a b => Sys2Proof.Machine.execHsetx d a b s
  | .hsetxI d a sel => Sys2Proof.Machine.execHsetxI d a sel s
  | .copy d a b => Sys2Proof.Machine.execCopy d a b s
  | .copyClip d a b => Sys2Proof.Machine.execCopyClip d a b s
  | .copyW64 clip d a b c imm => Sys2Proof.Machine.execCopyW64 clip d a b c imm s
  | .copyb n a b => Sys2Proof.Machine.execCopyb n a b s
  | .copybClip n a b => Sys2Proof.Machine.execCopybClip n a b s
  | .copybW64 clip n a b c imm => Sys2Proof.Machine.execCopybW64 clip n a b c imm s
  | .copyn d a b => Sys2Proof.Machine.execCopyn d a b s
  | .copynClip d a b => Sys2Proof.Machine.execCopynClip d a b s
  | .copynW64 clip d a b c imm => Sys2Proof.Machine.execCopynW64 clip d a b c imm s
  | .getx d a b => Sys2Proof.Machine.execGetx d a b s
  | .getxClip d a b => Sys2Proof.Machine.execGetxClip d a b s
  | .getxW64 clip d a b c imm => Sys2Proof.Machine.execGetxW64 clip d a b c imm s
  | .putx d a b => Sys2Proof.Machine.execPutx d a b s
  | .putxClip d a b => Sys2Proof.Machine.execPutxClip d a b s
  | .putxW64 clip d a b c imm => Sys2Proof.Machine.execPutxW64 clip d a b c imm s
  | .getr d a b => Sys2Proof.Machine.execGetr d a b s
  | .getrClip d a b => Sys2Proof.Machine.execGetrClip d a b s
  | .getrW64 clip d a b c imm => Sys2Proof.Machine.execGetrW64 clip d a b c imm s
  | .putr d a b => Sys2Proof.Machine.execPutr d a b s
  | .putrClip d a b => Sys2Proof.Machine.execPutrClip d a b s
  | .putrW64 clip d a b c imm => Sys2Proof.Machine.execPutrW64 clip d a b c imm s
  | .pref a b => Sys2Proof.Machine.execPref a b s
  | .flushr d a b => Sys2Proof.Machine.execFlushr d a b s
  | .waitg d a b => Sys2Proof.Machine.execWaitg d a b s
  | .tktest d a => Sys2Proof.Machine.execTktest d a s
  | .qbind n a b => Sys2Proof.Machine.execQbind n a b s
  | .qacq d n => Sys2Proof.Machine.execQacq d n s
  | .qpub n a b => Sys2Proof.Machine.execQpub n a b s
  | .qtake d n => Sys2Proof.Machine.execQtake d n s
  | .qfree n a => Sys2Proof.Machine.execQfree n a s
  | .qeos n => Sys2Proof.Machine.execQeos n s
  | .qstat d n => Sys2Proof.Machine.execQstat d n s
  | .ldsub d a b => Sys2Proof.Machine.execLdsub d a b s
  | .lddrn d a b => Sys2Proof.Machine.execLddrn d a b s
  | .ldcan d a => Sys2Proof.Machine.execLdcan d a s
  | .vld t d a => Sys2Proof.Machine.execVld t d a s
  | .vldOff t d a off => Sys2Proof.Machine.execVldOff t d a off s
  | .vst t b a => Sys2Proof.Machine.execVst t b a s
  | .vstOff t b a off => Sys2Proof.Machine.execVstOff t b a off s
  | .vlds t d a c off => Sys2Proof.Machine.execVlds t d a c off s
  | .vsts t b a c off => Sys2Proof.Machine.execVsts t b a c off s
  | .vgath t d a b => Sys2Proof.Machine.execVgath t d a b s
  | .vgathOff t d a b off => Sys2Proof.Machine.execVgathOff t d a b off s
  | .vscat t d a b => Sys2Proof.Machine.execVscat t d a b s
  | .vscatOff t d a b off => Sys2Proof.Machine.execVscatOff t d a b off s
  | .vbcast t d a => Sys2Proof.Machine.execVbcast t d a s
  | .vmvx t d a => Sys2Proof.Machine.execVmvx t d a s
  | .vmvxLane t d a lane => Sys2Proof.Machine.execVmvxLane t d a lane s
  | .vmvv t d a => Sys2Proof.Machine.execVmvv t d a s
  | .vadd t d a b => Sys2Proof.Machine.execVadd t d a b s
  | .vaddVx t d a b => Sys2Proof.Machine.execVaddVx t d a b s
  | .vsub t d a b => Sys2Proof.Machine.execVsub t d a b s
  | .vsubVx t d a b => Sys2Proof.Machine.execVsubVx t d a b s
  | .vmul t d a b => Sys2Proof.Machine.execVmul t d a b s
  | .vmulVx t d a b => Sys2Proof.Machine.execVmulVx t d a b s
  | .vfma t d a b => Sys2Proof.Machine.execVfma t d a b s
  | .vfmaVx t d a b => Sys2Proof.Machine.execVfmaVx t d a b s
  | .vfms t d a b => Sys2Proof.Machine.execVfms t d a b s
  | .vfmsVx t d a b => Sys2Proof.Machine.execVfmsVx t d a b s
  | .vmin t d a b => Sys2Proof.Machine.execVmin t d a b s
  | .vminVx t d a b => Sys2Proof.Machine.execVminVx t d a b s
  | .vmax t d a b => Sys2Proof.Machine.execVmax t d a b s
  | .vmaxVx t d a b => Sys2Proof.Machine.execVmaxVx t d a b s
  | .vabs t d a => Sys2Proof.Machine.execVabs t d a s
  | .vneg t d a => Sys2Proof.Machine.execVneg t d a s
  | .vand t d a b => Sys2Proof.Machine.execVand t d a b s
  | .vandVx t d a b => Sys2Proof.Machine.execVandVx t d a b s
  | .vor t d a b => Sys2Proof.Machine.execVor t d a b s
  | .vorVx t d a b => Sys2Proof.Machine.execVorVx t d a b s
  | .vxor t d a b => Sys2Proof.Machine.execVxor t d a b s
  | .vxorVx t d a b => Sys2Proof.Machine.execVxorVx t d a b s
  | .vsll t d a b => Sys2Proof.Machine.execVsll t d a b s
  | .vsllVx t d a b => Sys2Proof.Machine.execVsllVx t d a b s
  | .vsrl t d a b => Sys2Proof.Machine.execVsrl t d a b s
  | .vsrlVx t d a b => Sys2Proof.Machine.execVsrlVx t d a b s
  | .vsra t d a b => Sys2Proof.Machine.execVsra t d a b s
  | .vsraVx t d a b => Sys2Proof.Machine.execVsraVx t d a b s
  | .vcmp t vx d a b cond => Sys2Proof.Machine.execVcmp t vx d a b cond s
  | .vsel t d a b => Sys2Proof.Machine.execVsel t d a b s
  | .vselVx t d a b => Sys2Proof.Machine.execVselVx t d a b s
  | .vcvt t d a b => Sys2Proof.Machine.execVcvt t d a b s
  | .vcvtW64 t sz d a src p => Sys2Proof.Machine.execVcvtW64 t sz d a src p s
  | .vrsum t d a => Sys2Proof.Machine.execVrsum t d a s
  | .vrmax t d a => Sys2Proof.Machine.execVrmax t d a s
  | .vrmin t d a => Sys2Proof.Machine.execVrmin t d a s
  | .vexp2 t d a => Sys2Proof.Machine.execVexp2 t d a s
  | .vlog2 t d a => Sys2Proof.Machine.execVlog2 t d a s
  | .vrcp t d a => Sys2Proof.Machine.execVrcp t d a s
  | .vrsqrt t d a => Sys2Proof.Machine.execVrsqrt t d a s
  | .vsqrt t d a => Sys2Proof.Machine.execVsqrt t d a s
  | .vdot t d a b => Sys2Proof.Machine.execVdot t d a b s
  | .vperm t d a b => Sys2Proof.Machine.execVperm t d a b s
  | .vslideVx t d a b => Sys2Proof.Machine.execVslideVx t d a b s
  | .vslideI t d a amt => Sys2Proof.Machine.execVslideI t d a amt s
  | .vcompr t d a => Sys2Proof.Machine.execVcompr t d a s
  | .vexpnd t d a => Sys2Proof.Machine.execVexpnd t d a s
  | .viota t d => Sys2Proof.Machine.execViota t d s
  | .vztst t d a => Sys2Proof.Machine.execVztst t d a s
  | .vscl t e5 d a b => Sys2Proof.Machine.execVscl t e5 d a b s
  | .vsclVx t e5 d a b => Sys2Proof.Machine.execVsclVx t e5 d a b s
  | .vqnt fmt amax p d a b c => Sys2Proof.Machine.execVqnt fmt amax p d a b c s
  | .vmask a => Sys2Proof.Machine.execVmask a s
  | .kand d a b => Sys2Proof.Machine.execKand d a b s
  | .kor d a b => Sys2Proof.Machine.execKor d a b s
  | .knot d a => Sys2Proof.Machine.execKnot d a s
  | .kmvToMask d a => Sys2Proof.Machine.execKmvToMask d a s
  | .kmvFromMask d a => Sys2Proof.Machine.execKmvFromMask d a s
  | .mfmt a => Sys2Proof.Machine.execMfmt a s
  | .mupld a b => Sys2Proof.Machine.execMupld a b s
  | .mma z d a b k8 m n => Sys2Proof.Machine.execMma z d a b k8 m n s
  | .mmag z d a b k8 m n => Sys2Proof.Machine.execMmag z d a b k8 m n s
  | .mrec z d a b k8 m n => Sys2Proof.Machine.execMrec z d a b k8 m n s
  | .mzero d cnt => Sys2Proof.Machine.execMzero d cnt s
  | .mtzero d cnt => Sys2Proof.Machine.execMtzero d cnt s
  | .mtmov d a cnt => Sys2Proof.Machine.execMtmov d a cnt s
  | .mztst d a fmt => Sys2Proof.Machine.execMztst d a fmt s
  | .mtrn e d a => Sys2Proof.Machine.execMtrn e d a s
  | .mrel acc d => Sys2Proof.Machine.execMrel acc d s
  | .mext d a row seg => Sys2Proof.Machine.execMext d a row seg s
  | .mins d a row seg => Sys2Proof.Machine.execMins d a row seg s
  | .mlda f d a => Sys2Proof.Machine.execMlda f d a s
  | .msta f d a => Sys2Proof.Machine.execMsta f d a s
  | .mqnt fmt d a b c soff eoff => Sys2Proof.Machine.execMqnt fmt d a b c soff eoff s
  | .mscl f d a => Sys2Proof.Machine.execMscl f d a s
  | .mbias f d a => Sys2Proof.Machine.execMbias f d a s
  | .mapplyRelu d => Sys2Proof.Machine.execMapplyRelu d s
  | .mapplyMicro d => Sys2Proof.Machine.execMapplyMicro d s
  | .mred f d a row => Sys2Proof.Machine.execMred f d a row s
  | .integerAlu op => Sys2Proof.Machine.execIntegerAlu op s
  | .controlTransfer op => Sys2Proof.Machine.execControlTransfer op s
  | .wfi => Sys2Proof.Machine.execWfi s
  | .sret => Sys2Proof.Machine.execSret s
  | .mret => Sys2Proof.Machine.execMret s
  | .tyield => Sys2Proof.Machine.execTyield s
  | .trtrig => Sys2Proof.Machine.execTrtrig s
  | .msync => Sys2Proof.Machine.execMsync s
  | .coldReset nonce => Sys2Proof.Machine.execColdReset nonce s
  | .warmReset => Sys2Proof.Machine.execWarmReset s
  | .recoveryGo => Sys2Proof.Machine.execRecoveryGo s
  | .powerSample mw => Sys2Proof.Machine.execPowerSample mw s
  | .dutyStep => Sys2Proof.Machine.execDutyStep s
  | .sensorSample die sensor celsius => Sys2Proof.Machine.execSensorSample die sensor celsius s
  | .measExtend n d => Sys2Proof.Machine.execMeasExtend n d s
  | .quoteRequest nonce => Sys2Proof.Machine.execQuoteRequest nonce s
  | .quoteSigned => Sys2Proof.Machine.execQuoteSigned s
  | .fuseCounterAdvance v => Sys2Proof.Machine.execFuseCounterAdvance v s
  | .fuseBlow => Sys2Proof.Machine.execFuseBlow s
  | .retranslationComplete => Sys2Proof.Machine.execRetranslationComplete s
  | .auditAppend kind source asid payload => Sys2Proof.Machine.execAuditAppend kind source asid payload s
  | .segmentSeal => Sys2Proof.Machine.execSegmentSeal s
  | .spillWriteComplete => Sys2Proof.Machine.execSpillWriteComplete s
  | .spillAck seg => Sys2Proof.Machine.execSpillAck seg s
  | .overflowAreaSet base port k => Sys2Proof.Machine.execOverflowAreaSet base port k s
  | .ownerCreate => Sys2Proof.Machine.execOwnerCreate s
  | .ownerDestroy => Sys2Proof.Machine.execOwnerDestroy s
  | .frameSet => Sys2Proof.Machine.execFrameSet s
  | .tenantCreate => Sys2Proof.Machine.execTenantCreate s
  | .tenantSet => Sys2Proof.Machine.execTenantSet s
  | .tenantDestroy => Sys2Proof.Machine.execTenantDestroy s
  | .ctxCreate => Sys2Proof.Machine.execCtxCreate s
  | .portOpen => Sys2Proof.Machine.execPortOpen s
  | .portClose => Sys2Proof.Machine.execPortClose s
  | .apertureMap => Sys2Proof.Machine.execApertureMap s
  | .objTranslate => Sys2Proof.Machine.execObjTranslate s
  | .objUnload => Sys2Proof.Machine.execObjUnload s
  | .stageSet => Sys2Proof.Machine.execStageSet s
  | .taskFault => Sys2Proof.Machine.execTaskFault s
  | .vaultSet => Sys2Proof.Machine.execVaultSet s
  | .launch port page rec => Sys2Proof.Machine.execLaunch port page rec s
  | .launchPortDmwrOther port page off len => Sys2Proof.Machine.execLaunchPortDmwrOther port page off len s
  | .launchPortPostedWrite port page off data => Sys2Proof.Machine.execLaunchPortPostedWrite port page off data s
  | .argsReadComplete id => Sys2Proof.Machine.execArgsReadComplete id s
  | .launchSubmit id => Sys2Proof.Machine.execLaunchSubmit id s
  | .launchDone id => Sys2Proof.Machine.execLaunchDone id s
  | .apertureWrite port page off data => Sys2Proof.Machine.execApertureWrite port page off data s
  | .apertureRead port page off len => Sys2Proof.Machine.execApertureRead port page off len s
  | .hostLinkDown port => Sys2Proof.Machine.execHostLinkDown port s
  | .hostLinkUp port cxl => Sys2Proof.Machine.execHostLinkUp port cxl s
  | .hostCompletionTimeout req => Sys2Proof.Machine.execHostCompletionTimeout req s
  | .hostErrorCompletion req k => Sys2Proof.Machine.execHostErrorCompletion req k s
  | .atomicopCompletion req => Sys2Proof.Machine.execAtomicopCompletion req s
  | .zeroLengthReadComplete req => Sys2Proof.Machine.execZeroLengthReadComplete req s
  | .dieLinkReplay edge good => Sys2Proof.Machine.execDieLinkReplay edge good s
  | .dieLinkIdleTimeout edge => Sys2Proof.Machine.execDieLinkIdleTimeout edge s
  | .netPortDown port => Sys2Proof.Machine.execNetPortDown port s
  | .retransmissionLimit t => Sys2Proof.Machine.execRetransmissionLimit t s
  | .putArrive port sq off data => Sys2Proof.Machine.execPutArrive port sq off data s
  | .putAck t refused => Sys2Proof.Machine.execPutAck t refused s
  | .getRequest port sq off len => Sys2Proof.Machine.execGetRequest port sq off len s
  | .getData t refused data => Sys2Proof.Machine.execGetData t refused data s
  | .homeRead m => Sys2Proof.Machine.execHomeRead m s
  | .l2MissFill m => Sys2Proof.Machine.execL2MissFill m s
  | .homeOwn m => Sys2Proof.Machine.execHomeOwn m s
  | .homeWrite m => Sys2Proof.Machine.execHomeWrite m s
  | .homeEngineRead m => Sys2Proof.Machine.execHomeEngineRead m s
  | .recallArrive m => Sys2Proof.Machine.execRecall m s
  | .recallReply m => Sys2Proof.Machine.execRecallReply m s
  | .ownedEviction h key => Sys2Proof.Machine.execOwnedEviction h key s
  | .readReply m => Sys2Proof.Machine.execReadReply m s
  | .ownershipReply m => Sys2Proof.Machine.execOwnershipReply m s
  | .postedStoreAck m => Sys2Proof.Machine.execPostedStoreAck m s
  | .vaultAccess m => Sys2Proof.Machine.execVaultAccess m s
  | .driftTick h => Sys2Proof.Machine.execDriftTick h s
  | .rebaseStep die => Sys2Proof.Machine.execRebaseStep die s
  | .rebaseFloorReceive die home => Sys2Proof.Machine.execRebaseFloorReceive die home s
  | .rebaseComplete die => Sys2Proof.Machine.execRebaseComplete die s
  | .renewalHoldExpiry home k => Sys2Proof.Machine.execRenewalHoldExpiry home k s
  | .vaultWatchExpiry q k => Sys2Proof.Machine.execVaultWatchExpiry q k s
  | .hostLineFetch port line => Sys2Proof.Machine.execHostLineFetch port line s
  | .hostSnoop port line take => Sys2Proof.Machine.execHostSnoop port line take s
  | .snoopHoldExpiry port line => Sys2Proof.Machine.execSnoopHoldExpiry port line s
  | .hostAmoCompletion req => Sys2Proof.Machine.execHostAmoCompletion req s
  | .replyTimeout agent => Sys2Proof.Machine.execReplyTimeout agent s
  | .deadAgentDeclaration agent => Sys2Proof.Machine.execDeadAgentDeclaration agent s
  | .declarationReceive home agent => Sys2Proof.Machine.execDeclarationReceive home agent s
  | .patrolPass stack => Sys2Proof.Machine.execPatrolPass stack s
  | .dispatchPairing die => Sys2Proof.Machine.execDispatchPairing die s
  | .gangStart k => Sys2Proof.Machine.execGangStart k s
  | .taskStart h => Sys2Proof.Machine.execTaskStart h s
  | .packageArbiterMove die => Sys2Proof.Machine.execPackageArbiterMove die s
  | .reservePreemption die => Sys2Proof.Machine.execReservePreemption die s
  | .decrement k => Sys2Proof.Machine.execDecrement k s
  | .withdraw k => Sys2Proof.Machine.execWithdraw k s
  | .rebalanceEvaluation die => Sys2Proof.Machine.execRebalanceEvaluation die s
  | .parkWake h => Sys2Proof.Machine.execParkWake h s
  | .parkReclaim h => Sys2Proof.Machine.execParkReclaim h s
  | .budgetExhausted h => Sys2Proof.Machine.execBudgetExhausted h s
  | .interruptTaken h => Sys2Proof.Machine.execInterruptTaken h s
  | .stopRequest h => Sys2Proof.Machine.execStopRequest h s
  | .saveComplete h => Sys2Proof.Machine.execSaveComplete h s
  | .contextDrain c => Sys2Proof.Machine.execContextDrain c s
  | .resume h => Sys2Proof.Machine.execResume h s
  | .imageLineFill c slot reg => Sys2Proof.Machine.execImageLineFill c slot reg s
  | .pageWalkComplete w => Sys2Proof.Machine.execPageWalkComplete w s
  | .transferSegment q => Sys2Proof.Machine.execTransferSegment q s
  | .transferComplete t => Sys2Proof.Machine.execTransferComplete t s
  | .portRequest q => Sys2Proof.Machine.execPortRequest q s
  | .streamTransferStart t => Sys2Proof.Machine.execStreamTransferStart t s
  | .streamSlotFill t => Sys2Proof.Machine.execStreamSlotFill t s
  | .streamSlotDrain t => Sys2Proof.Machine.execStreamSlotDrain t s
  | .matrixAccept q => Sys2Proof.Machine.execMatrixAccept q s
  | .matrixComplete q => Sys2Proof.Machine.execMatrixComplete q s
  | .repbLaneIssue h => Sys2Proof.Machine.execRepbLaneIssue h s
  | .scrubStart c => Sys2Proof.Machine.execScrubStart c s
  | .scrubQuadComplete c q => Sys2Proof.Machine.execScrubQuadComplete c q s
  | .messageDeliver k => Sys2Proof.Machine.execMessageDeliver k s
  | .netPortUp port => Sys2Proof.Machine.execNetPortUp port s
  | .hostReadCompletion req => Sys2Proof.Machine.execHostReadCompletion req s
  | .atomicopAsCompleter port => Sys2Proof.Machine.execAtomicopAsCompleter port s
  | .otherDmwr port addr => Sys2Proof.Machine.execOtherDmwr port addr s

end Sys2Proof.Machine
end

