-- ==== Sys2Proof/Machine/Run.lean ====
section
/-! DEFINITION. What moves next (log 1): an instruction of a hart, with its fetch and the events of its boundary; the moves of the
agenda; and the order in which the module goes on by itself when the agenda is empty. -/

namespace Sys2Proof.Machine

/-! ## An instruction of a hart -/

/-- The hart's budget runs in U-mode (R129), its time parked counts (R138). -/
def Hart.spend (h : Hart) (n : Nat) : Hart :=
  let h := if h.mode = .u && h.status = .running then { h with dev := { h.dev with remain := BitVec.ofNat 32 (h.dev.remain.toNat - n) } }
    else h
  if h.status = .parked then { h with parkedCycles := h.parkedCycles + n } else h

/-- `n` cycles of time pass: core cycles, or only those of the nanosecond counter while the core clock is halted (R17, R24). -/
def State.passTime (s : State) (n : Nat) : State :=
  if s.halted then { s with haltCycles := s.haltCycles + n } else s.passCycles n

/-- One cycle passes, for the current hart's budget too. -/
def State.oneCycle (s : State) : State := (s.passTime 1).modMe (·.spend 1)

/-- The encoding that stval takes, from the bytes fetched: a W64 whole, else 32 bits (R160, R313). -/
def encodingOf (bs : List Byte) : Word :=
  let w := ofBytes (bs.take 8)
  if natBits w 0 7 = 0x3F then BitVec.ofNat 64 w else BitVec.ofNat 64 (w % 2 ^ 32)

/-- The pc after the instruction, and its encoding, are set before it executes. -/
def State.ready (s : State) (len : Nat) (w : Word) : State :=
  s.modMe (fun h => { h with npc := h.pc + BitVec.ofNat 64 len, ir := w })

/-- Decode the bytes at the pc and execute (R313, R324), unless the hart's lane issues to the same unit first (R201). A W64 whose second
word cannot be fetched raises cause 1. -/
def State.execBytes (s : State) (bs : List Byte) : Result :=
  match decodeBytes bs with
  | .ok i len => if s.laneFirst i then .next s else exec i (s.ready len (encodingOf bs))
  | .reject .short => .next (s.trap 1 s.me.pc)
  | .reject _ => .next (s.trap 2 (encodingOf bs))

/-- Fetch, decode and execute. -/
def State.fetchExec (s : State) : Result :=
  match s.fetch with
  | .ok bs s => s.execBytes bs
  | .stall s => .next s
  | .trap c v s => .next (s.trap c v)

/-- A task's first instruction, or that of a resumed task, may be preceded by traps (R177, R202). -/
def State.startTrap (s : State) (e : Nat × Word) (rest : List (Nat × Word)) : State :=
  (s.modMe (fun h => { h with startTraps := rest })).trap e.1 e.2

/-- The current hart's turn. At an instruction boundary a stop comes first, once the lane has finished its iteration, then interrupts, then the budget, then pending traps,
then the next instruction (R165); a hart in WFI goes on when an interrupt is pending (R309). The management core goes on while the core
clock of the compute dies is halted (R17). -/
def State.hartStep (s : State) : Result :=
  let h := s.me
  if s.halted && s.cur != mcHart then .fault .coreClockHalted
  else if s.rtu.boot != .released then .next s.oneCycle
  else if h.stopDue then (if h.stopReady then execStopRequest s.cur s else .next s.oneCycle)
  else if h.interruptible && h.interrupt.isSome then execInterruptTaken s.cur s
  else
    match h.status with
    | .running =>
      if h.interruptible && h.budgetDue then execBudgetExhausted s.cur s
      else
        match (if h.mode = .u && h.atBoundary then h.startTraps else []) with
        | e :: rest => .next (s.startTrap e rest)
        | [] => s.oneCycle.fetchExec
    | .waiting => if h.pending = 0 then .next s.oneCycle else .next (s.modMe (fun h => { h with status := .running }))
    | _ => .next s.oneCycle

/-! ## The moves of the agenda -/

/-- Is the row a supervisor call, which only ECALL makes? -/
def isCall (i : Instr) : Bool :=
  match i with
  | .ownerCreate | .ownerDestroy | .frameSet | .tenantCreate | .tenantSet | .tenantDestroy | .ctxCreate | .portOpen | .portClose
  | .apertureMap | .objTranslate | .objUnload | .stageSet | .taskFault | .vaultSet => true
  | _ => false

/-- The host writes its own memory: bytes of lines that no proxy holds. A line written whole is poisoned no more. -/
def State.hostWrites (s : State) (a : Nat) (bs : List Byte) : State :=
  let held := [0x3000, 0x3001].any (fun home => (linesOf a bs.length).any (fun l => (s.home home).holds (lineNo l)))
  if Config.hostBase ≤ a && a + bs.length ≤ 2 * Config.hostBase && !held then
    let s := s.writeBytes a bs
    (linesOf a bs.length).foldl (fun s l => if a ≤ l && l + 64 ≤ a + bs.length then s.clearPoison l else s) s
  else s

/-- Firmware may act: the management core has been released. -/
def State.firmware (s : State) : Bool := s.rtu.boot == .released

/-- Where the supervisor's image stands: firmware has loaded it, or loads it now at `base`, where its bytes have the digest that was
extended into MEAS3 (R51). -/
def State.superImage (s : State) (base len : Nat) : Option (Nat × Nat) :=
  match s.rtu.superAt, s.rtu.supervisor with
  | some x, _ => some x
  | none, some d =>
    if base + len ≤ Config.hbmBytes && Sha.sha256 (s.peekBytes base len) == d then some (base, len) else none
  | none, none => none

/-- Firmware starts a hart in M-mode inside the supervisor's image (R51). -/
def State.fwStart (s : State) (h : Nat) (pc : Word) (base len : Nat) : State :=
  let x := s.hart h
  if s.firmware && s.hartPresent h && (x.status == .reset || x.status == .free) && pc % 4 == 0 then
    match s.superImage base len with
    | some (b, n) =>
      if b ≤ pc.toNat && pc.toNat < b + n then
        (s.modRtu (fun r => { r with superAt := some (b, n) })).modHart h (fun x => { x with status := .running, mode := .m, pc := pc })
      else s
    | none => s
  else s

/-- Does firmware write the image that the supervisor runs from? Another is loaded only after a cold reset (R51). -/
def Rtu.inSuper (r : Rtu) (a n : Nat) : Bool := r.superAt.any (fun x => decide (a < x.1 + x.2) && decide (x.1 < a + n))

/-- An uncorrectable error in a line: of the model's one memory, which a home holds or a vault or register file, or of a hart's L1 (R230). -/
def State.flipLine (s : State) (line : Nat) (l1 : Option Nat) : State :=
  match l1 with
  | none => s.setPoison line
  | some h => s.modHart h (fun x =>
      { x with l1 := x.l1.map (fun l => if l.1 / 65536 = lineNo line then (l.1, { l.2 with poison := true }) else l) })

/-- Cycles pass for every hart's budget. -/
def State.idle (s : State) (n : Nat) : State :=
  let t := s.passTime n
  if s.halted then t else { t with harts := t.harts.map (fun h : Nat × Hart => (h.1, h.2.spend n)) }

/-- Events of the I/O regions, which go on while the core clock of the compute dies is halted (R17, R24, R61): those of the RTU, of the
management core and of the links. -/
def outsideCore (i : Instr) : Bool :=
  match i with
  | .coldReset _ | .warmReset | .recoveryGo | .powerSample _ | .dutyStep | .sensorSample .. | .measExtend .. | .quoteRequest _ | .quoteSigned
  | .fuseCounterAdvance _ | .fuseBlow | .retranslationComplete | .auditAppend .. | .segmentSeal | .spillWriteComplete | .spillAck _
  | .overflowAreaSet .. | .hostLinkDown _ | .hostLinkUp .. | .dieLinkReplay .. | .dieLinkIdleTimeout _ | .netPortDown _ | .netPortUp _
  | .launch .. | .launchPortDmwrOther .. | .launchPortPostedWrite .. | .otherDmwr .. | .atomicopAsCompleter _ => true
  | _ => false

/-- May an event of the agenda happen: it is no instruction of a hart or supervisor call, and its unit is clocked? -/
def State.happens (s : State) (i : Instr) : Bool :=
  (roles i).isNone && !isCall i && (!s.halted || outsideCore i)

/-- A move of the agenda. -/
def State.move (s : State) (m : Move) : Result :=
  match m with
  | .event i => if s.happens i then exec i s else .next s
  | .run h => if s.hartPresent h || h == mcHart then { s with cur := h }.hartStep else .next s
  | .drain h => if s.canDrain h && !s.halted then .next (s.drainHead h) else .next s
  | .tick n => .next (s.idle n)
  | .hostWrite a bs => .next (s.hostWrites a bs)
  | .hostPortRead p page off len => .next (s.portRead p page off len)
  | .fwWrite a bs => .next (if s.firmware && decide (a + bs.length ≤ Config.hbmBytes) && !s.rtu.inSuper a bs.length then (s.devWrite a bs 0).2 else s)
  | .fwTag f n slot supw =>
    .next (if s.firmware && decide ((f + n) * 0x200000 ≤ Config.hbmBytes) && s.slotUsed slot then s.tagFrames f n slot supw else s)
  | .fwStart h pc base len => .next (s.fwStart h pc base len)
  | .fwFlash second bs =>
    .next (if s.firmware then s.modRtu (fun r => if second then { r with flashB := bs } else { r with flashA := bs }) else s)
  | .fwReport => .next (if s.firmware then s.toHost (.counters s.power.changes s.corrected) else s)
  | .flip line l1 => .next (s.flipLine line l1)
  | .fixed d =>
    .next (if d < 4 then { s with corrected := Store.set 0 s.corrected d (Store.get 0 s.corrected d + 1) } else s)
  | .fwClassifier on => .next (if s.firmware then s.modDisp (fun d => { d with classify := on }) else s)

/-! ## The module by itself -/

/-- The event that a message in flight leads to. -/
def msgEvent (m : Nat × Msg) : State → Result :=
  match m.2 with
  | .read .. => execHomeRead m.1
  | .own .. => execHomeOwn m.1
  | .write .. | .amo .. => execHomeWrite m.1
  | .lrRead .. => execHomeEngineRead m.1
  | .fill .. => execL2MissFill m.1
  | .hostFetch home line _ => execHostLineFetch (home - 0x3000) line
  | .recallMsg .. => execRecall m.1
  | .recallReply .. | .evict .. => execRecallReply m.1
  | .readReply .. => execReadReply m.1
  | .ownReply .. => execOwnershipReply m.1
  | .ack .. => execPostedStoreAck m.1
  | .vaultWrite .. => execVaultAccess m.1
  | .vaultAck .. => execPostedStoreAck m.1

/-- Events of a quad's engines, when they have work. -/
def quadEvents (q : Nat × Quad) : List (State → Result) :=
  (if q.2.transfers.isEmpty && q.2.portq.isEmpty then []
   else [execPortRequest q.1, execTransferSegment q.1]
     ++ q.2.transfers.flatMap (fun t =>
       [execTransferComplete t.id, execStreamTransferStart t.id, execStreamSlotFill t.id, execStreamSlotDrain t.id]))
    ++ (if q.2.dq.isEmpty && q.2.gangSlots.isEmpty && q.2.inq.isEmpty then [] else [execMatrixComplete q.1, execMatrixAccept q.1])

/-- Events of a hart slot, when they are due. -/
def hartEvents (h : Nat × Hart) : List (State → Result) :=
  (if h.2.lane.active then [execRepbLaneIssue h.1] else [])
    ++ (match h.2.status with
      | .dispatched => [execTaskStart h.1, execResume h.1]
      | .stopping => [execSaveComplete h.1]
      | .parked => [execParkWake h.1, execParkReclaim h.1]
      | _ => [])

/-- Events of the dispatcher. -/
def dispatcherEvents (s : State) : List (State → Result) :=
  (List.range s.disp.decs.length).map execDecrement
    ++ (List.range s.disp.wds.length).map execWithdraw
    ++ (List.range s.disp.mails.length).map execMessageDeliver
    ++ (if s.disp.tasks.isEmpty then []
        else s.disp.tasks.map (fun t => execGangStart t.1)
          ++ [0, 1, 2, 3].flatMap (fun d => [execDispatchPairing d, execReservePreemption d, execPackageArbiterMove d]))
    ++ s.disp.launches.flatMap (fun l => [execLaunchSubmit l.1, execLaunchDone l.1])
    ++ s.disp.contexts.flatMap (fun c => match c.2.release with
      | none => []
      | some r => execScrubStart c.1 :: r.pendingQuads.map (execScrubQuadComplete c.1))

/-- Events of the RTU and the management core. -/
def rtuEvents (s : State) : List (State → Result) :=
  (if s.rtu.advance.isSome then [execFuseBlow, execRetranslationComplete] else [])
    ++ (if s.rtu.signing.isEmpty then [] else [execQuoteSigned, execSegmentSeal])
    ++ (if s.rtu.segments.isEmpty then [] else [execSpillWriteComplete])

/-- Events of the time bases, of the homes and of the RTU. -/
def deviceEvents (s : State) : List (State → Result) :=
  [0, 1, 2, 3].flatMap (fun d => if (s.die d).rebasing then
      s.allHomes.map (fun h => execRebaseFloorReceive d h) ++ [execRebaseComplete d] else [execRebaseStep d])
    ++ s.rtu.reported.flatMap (fun a => execDeadAgentDeclaration a :: s.homes.map (fun h => execDeclarationReceive h.1 a))
    ++ rtuEvents s

/-- What the module may do by itself, the first that changes anything first. Time-outs, and what comes from outside, are
left to the agenda. -/
def State.internal (s : State) : List (State → Result) :=
  s.msgs.map msgEvent ++ s.walks.map (fun w => execPageWalkComplete w.id)
    ++ s.fills.map (fun f => execImageLineFill f.1 f.2.1 f.2.2)
    ++ s.harts.flatMap hartEvents ++ s.quads.flatMap quadEvents ++ dispatcherEvents s ++ deviceEvents s

/-- The first event of a list that changes the state. -/
def State.firstChange (s : State) : List (State → Result) → Option State
  | [] => none
  | f :: r =>
    match f s with
    | .next t => if t = s then s.firstChange r else some t
    | _ => s.firstChange r

/-- The boot ROM runs by itself out of cold reset; its nonce is a free value (log 7). -/
def State.bootRom (s : State) : Result :=
  let (a, s) := s.fresh64
  let (b, s) := s.fresh64
  execColdReset (a ++ b) s

/-- With an empty agenda: the boot ROM; else the first event, of the RTU alone while the core clock is halted; else the store buffer of
the current hart; else its turn. -/
def State.byItself (s : State) : Result :=
  if s.rtu.boot = .inReset then s.bootRom
  else if s.halted then
    match s.firstChange (rtuEvents s) with
    | some t => .next t
    | none => s.hartStep
  else
    match s.firstChange s.internal with
    | some t => .next t
    | none => if s.canDrain s.cur then .next (s.drainHead s.cur) else s.hartStep

/-- One step of the module. -/
def State.oneStep (s : State) : Result :=
  match s.agenda with
  | m :: rest => { s with agenda := rest }.move m
  | [] => s.byItself

/-! ## An instruction placed for the next step -/

/-- Place bytes at address 0 of HBM, where no cache and no noise hides them. -/
def State.placeCode (s : State) (bs : List Byte) : State :=
  let s := { s with
    homes := s.homes.map (fun h : Nat × Home => (h.1, { h.2 with lines := Store.del h.2.lines 0 })),
    frames := Store.set {} s.frames 0 {} }
  (s.writeBytes 0 bs).clearPoison 0

/-- The current hart, or hart 0, is about to execute in M-mode at address 0, with nothing before it: its next turn is the next
step. -/
def State.aim (s : State) : State :=
  let s := if s.hartPresent s.cur then s else { s with cur := 0 }
  let s := { s with halted := false, rtu := { s.rtu with boot := .released }, agenda := [.run s.cur] }
  s.modMe (fun h =>
    { h with status := .running, mode := .m, pc := 0, ld := none, partials := [], entering := [],
             lane := { h.lane with active := false },
             priv := { h.priv with mstatus := setFld h.priv.mstatus 3 1 0 } })

/-- Place an encoding, the bits above `nbits` zero, and aim at it. -/
def State.placeWord (s : State) (nbits w : Nat) : State := (s.placeCode (bytesOf 8 (w % 2 ^ nbits))).aim

end Sys2Proof.Machine
end

