-- ==== Sys2Proof/Machine/Step.lean ====
section
/-! DEFINITION. One step of the module, and a state whose next step runs a given instruction. -/

namespace Sys2Proof.Machine

/-- One step: the head of the agenda, or what the module does by itself (log 1). -/
def step (s : State) : Result := s.oneStep

/-- `s` with the instruction of these bits placed where the next step fetches (log 8). -/
def State.withFetchWord (s : State) (nbits w : Nat) : State := s.placeWord nbits w

end Sys2Proof.Machine
end

