-- ==== Sys2Proof/WellFormed.lean ====
section
/-! DEFINITION. Well-formed instructions: the terms of `Instr` that are instructions of the part (R311, R316, R404, R451).
The checks themselves are in Machine/Fields.lean. -/

namespace Sys2Proof

/-- The instruction's fields obey every rule the manual gives them. -/
def WellFormed (i : Instr) : Prop := fieldsOk i = true

end Sys2Proof
end

