-- ==== Sys2Proof/Laws/Encoding.lean ====
section
/-! SUPPORT. The encoder and the decoder agree: fields of concatenations, fields of the formats (R314, R315), and one lemma
per format that says what decoding an encoding of that format comes to. -/

namespace Sys2Proof

/-! ## Fields of a concatenation -/

theorem fld_high {m n lo : Nat} (len : Nat) (x : BitVec m) (y : BitVec n) (h : n ≤ lo) :
    fld (x ++ y) lo len = fld x (lo - n) len := by
  apply BitVec.eq_of_getLsbD_eq
  intro i hi
  have h1 : ¬ lo + i < n := by omega
  have h2 : lo + i - n = lo - n + i := by omega
  simp [BitVec.getLsbD_append, h1, h2]

theorem fld_low {m n lo len : Nat} (x : BitVec m) (y : BitVec n) (h : lo + len ≤ n) :
    fld (x ++ y) lo len = fld y lo len := by
  apply BitVec.eq_of_getLsbD_eq
  intro i hi
  have h1 : lo + i < n := by omega
  simp [BitVec.getLsbD_append, h1]

theorem fld_full {n : Nat} (x : BitVec n) : fld x 0 n = x := by
  apply BitVec.eq_of_getLsbD_eq
  intro i hi
  simp

theorem fld_fld {n : Nat} (x : BitVec n) (lo len lo' len' : Nat) (h : lo' + len' ≤ len) :
    fld (fld x lo len) lo' len' = fld x (lo + lo') len' := by
  apply BitVec.eq_of_getLsbD_eq
  intro i hi
  have h1 : lo' + i < len := by omega
  simp [h1, Nat.add_assoc]

/-- Neighbouring fields make one field. -/
theorem fld_join {n : Nat} (x : BitVec n) (hi lo k l : Nat) (h : hi = lo + k) :
    (fld x hi l ++ fld x lo k : BitVec (l + k)) = fld x lo (l + k) := by
  subst h
  apply BitVec.eq_of_getLsbD_eq
  intro i h
  simp only [BitVec.getLsbD_append, BitVec.getLsbD_extractLsb']
  by_cases hk : i < k
  · have : i < l + k := by omega
    simp [hk, this]
  · have h1 : i - k < l := by omega
    have h2 : lo + k + (i - k) = lo + i := by omega
    simp [hk, h, h1, h2]

theorem bit_high {m n k : Nat} (x : BitVec m) (y : BitVec n) (h : n ≤ k) : (x ++ y).getLsbD k = x.getLsbD (k - n) := by
  rw [BitVec.getLsbD_append, if_neg (by omega)]

theorem bit_low {m n k : Nat} (x : BitVec m) (y : BitVec n) (h : k < n) : (x ++ y).getLsbD k = y.getLsbD k := by
  rw [BitVec.getLsbD_append, if_pos h]

theorem bit_ofBool (x : Bool) : (BitVec.ofBool x).getLsbD 0 = x := by cases x <;> rfl

theorem fld_zx (w : W32) : fld (zx w) 0 32 = w := by
  apply BitVec.eq_of_getLsbD_eq
  intro i hi
  have : i < 64 := by omega
  simp [zx, hi, this]

theorem VTy.ofCode_code (t : VTy) : VTy.ofCode t.code = t := by cases t <;> rfl

/-! ## Fields of the formats -/

section
variable (f7 : BitVec 7) (b a : Reg) (f3 : BitVec 3) (d : Reg) (j : BitVec 7) (imm : BitVec 12)

theorem c32_f7 : fld (c32 f7 b a f3 d j) 25 7 = f7 := by
  unfold c32
  repeat (first | rw [fld_full] | erw [fld_low _ _ (by decide)] | erw [fld_high _ _ _ (by decide)])

theorem c32_b : fld (c32 f7 b a f3 d j) 20 5 = b := by
  unfold c32
  repeat (first | rw [fld_full] | erw [fld_low _ _ (by decide)] | erw [fld_high _ _ _ (by decide)])

theorem c32_a : fld (c32 f7 b a f3 d j) 15 5 = a := by
  unfold c32
  repeat (first | rw [fld_full] | erw [fld_low _ _ (by decide)] | erw [fld_high _ _ _ (by decide)])

theorem c32_f3 : fld (c32 f7 b a f3 d j) 12 3 = f3 := by
  unfold c32
  repeat (first | rw [fld_full] | erw [fld_low _ _ (by decide)] | erw [fld_high _ _ _ (by decide)])

theorem c32_d : fld (c32 f7 b a f3 d j) 7 5 = d := by
  unfold c32
  repeat (first | rw [fld_full] | erw [fld_low _ _ (by decide)] | erw [fld_high _ _ _ (by decide)])

theorem c32_major : fld (c32 f7 b a f3 d j) 0 7 = j := by
  unfold c32
  repeat (first | rw [fld_full] | erw [fld_low _ _ (by decide)] | erw [fld_high _ _ _ (by decide)])

/-- The I-type immediate of a C32 encoding is f7 and b. -/
theorem c32_imm : fld (c32 f7 b a f3 d j) 20 12 = f7 ++ b := by
  rw [← fld_join (c32 f7 b a f3 d j) 25 20 5 7 rfl, c32_f7, c32_b]

theorem c32i_imm : fld (c32i imm a f3 d j) 20 12 = imm := by
  unfold c32i
  repeat (first | rw [fld_full] | erw [fld_low _ _ (by decide)] | erw [fld_high _ _ _ (by decide)])

theorem c32i_a : fld (c32i imm a f3 d j) 15 5 = a := by
  unfold c32i
  repeat (first | rw [fld_full] | erw [fld_low _ _ (by decide)] | erw [fld_high _ _ _ (by decide)])

theorem c32i_f3 : fld (c32i imm a f3 d j) 12 3 = f3 := by
  unfold c32i
  repeat (first | rw [fld_full] | erw [fld_low _ _ (by decide)] | erw [fld_high _ _ _ (by decide)])

theorem c32i_d : fld (c32i imm a f3 d j) 7 5 = d := by
  unfold c32i
  repeat (first | rw [fld_full] | erw [fld_low _ _ (by decide)] | erw [fld_high _ _ _ (by decide)])

theorem c32i_major : fld (c32i imm a f3 d j) 0 7 = j := by
  unfold c32i
  repeat (first | rw [fld_full] | erw [fld_low _ _ (by decide)] | erw [fld_high _ _ _ (by decide)])

theorem c32i_f7 : fld (c32i imm a f3 d j) 25 7 = fld imm 5 7 := by
  unfold c32i
  repeat (first | rw [fld_full] | erw [fld_low _ _ (by decide)] | erw [fld_high _ _ _ (by decide)])

theorem c32i_b : fld (c32i imm a f3 d j) 20 5 = fld imm 0 5 := by
  unfold c32i
  repeat (first | rw [fld_full] | erw [fld_low _ _ (by decide)] | erw [fld_high _ _ _ (by decide)])

end

section
variable (imm : BitVec 24) (f8 : BitVec 8) (sz : BitVec 2) (c b a : Reg) (cls : BitVec 3) (d : Reg)

theorem w64_imm : fld (w64 imm f8 sz c b a cls d) 40 24 = imm := by
  unfold w64
  repeat (first | rw [fld_full] | erw [fld_low _ _ (by decide)] | erw [fld_high _ _ _ (by decide)])

theorem w64_f8 : fld (w64 imm f8 sz c b a cls d) 32 8 = f8 := by
  unfold w64
  repeat (first | rw [fld_full] | erw [fld_low _ _ (by decide)] | erw [fld_high _ _ _ (by decide)])

theorem w64_sz : fld (w64 imm f8 sz c b a cls d) 30 2 = sz := by
  unfold w64
  repeat (first | rw [fld_full] | erw [fld_low _ _ (by decide)] | erw [fld_high _ _ _ (by decide)])

theorem w64_c : fld (w64 imm f8 sz c b a cls d) 25 5 = c := by
  unfold w64
  repeat (first | rw [fld_full] | erw [fld_low _ _ (by decide)] | erw [fld_high _ _ _ (by decide)])

theorem w64_b : fld (w64 imm f8 sz c b a cls d) 20 5 = b := by
  unfold w64
  repeat (first | rw [fld_full] | erw [fld_low _ _ (by decide)] | erw [fld_high _ _ _ (by decide)])

theorem w64_a : fld (w64 imm f8 sz c b a cls d) 15 5 = a := by
  unfold w64
  repeat (first | rw [fld_full] | erw [fld_low _ _ (by decide)] | erw [fld_high _ _ _ (by decide)])

theorem w64_cls : fld (w64 imm f8 sz c b a cls d) 12 3 = cls := by
  unfold w64
  repeat (first | rw [fld_full] | erw [fld_low _ _ (by decide)] | erw [fld_high _ _ _ (by decide)])

theorem w64_d : fld (w64 imm f8 sz c b a cls d) 7 5 = d := by
  unfold w64
  repeat (first | rw [fld_full] | erw [fld_low _ _ (by decide)] | erw [fld_high _ _ _ (by decide)])

theorem w64_major : fld (w64 imm f8 sz c b a cls d) 0 7 = 0x3f#7 := by
  unfold w64
  repeat (first | rw [fld_full] | erw [fld_low _ _ (by decide)] | erw [fld_high _ _ _ (by decide)])

end

/-! ## Decoding an encoding of each format -/

/-- A 32-bit encoding decodes to what the map names. -/
theorem decode_w32 {w : W32} {j : BitVec 7} (hj : fld w 0 7 = j) (h0 : fld j 0 2 = 3) (h1 : fld j 2 3 ≠ 7) :
    decode 4 (zx w) = checked 4 (decode32Raw w) := by
  subst hj
  rw [fld_fld _ _ _ _ _ (by decide)] at h0 h1
  have hl : lengthOf w = some 4 := by
    simp only [lengthOf]
    rw [if_neg (fun h => h h0), if_pos h1]
  simp only [decode, fld_zx, hl]
  rfl

/-- A 64-bit encoding decodes to what the map names. -/
theorem decode_w64 (imm : BitVec 24) (f8 : BitVec 8) (sz : BitVec 2) (c b a : Reg) (cls : BitVec 3) (d : Reg) :
    decode 8 (w64 imm f8 sz c b a cls d) = checked 8 (decode64Raw (w64 imm f8 sz c b a cls d)) := by
  have h := w64_major imm f8 sz c b a cls d
  have h0 : fld (fld (w64 imm f8 sz c b a cls d) 0 32) 0 2 = 3 := by
    rw [fld_fld _ _ _ _ _ (by decide), ← fld_fld _ 0 7 0 2 (by decide), h]; decide
  have h1 : fld (fld (w64 imm f8 sz c b a cls d) 0 32) 2 3 = 7 := by
    rw [fld_fld _ _ _ _ _ (by decide), ← fld_fld _ 0 7 2 3 (by decide), h]; decide
  have h2 : fld (fld (w64 imm f8 sz c b a cls d) 0 32) 5 2 = 1 := by
    rw [fld_fld _ _ _ _ _ (by decide), ← fld_fld _ 0 7 5 2 (by decide), h]; decide
  have hl : lengthOf (fld (w64 imm f8 sz c b a cls d) 0 32) = some 8 := by
    simp only [lengthOf]
    rw [if_neg (fun h => h h0), if_neg (fun h => h h1), if_pos h2]
  simp only [decode, hl]
  rfl

theorem checked_ok {i : Instr} (n : Nat) (h : WellFormed i) : checked n (some i) = .ok i n := by
  simp only [checked]
  rw [if_pos (show fieldsOk i = true from h)]

section
variable (f7 : BitVec 7) (b a : Reg) (f3 : BitVec 3) (d : Reg) (imm : BitVec 12)

theorem raw_custom0 : decode32Raw (c32 f7 b a f3 d 0x0b) = decCustom0 f3.toNat f7.toNat b a d := by
  simp only [decode32Raw, c32_major, c32_b, c32_a, c32_f3, c32_d, c32_f7]
  rfl

theorem raw_custom1 : decode32Raw (c32 f7 b a 0 d 0x2b) = decCustom1 f7.toNat b a d := by
  simp only [decode32Raw, c32_major, c32_b, c32_a, c32_f3, c32_d, c32_f7]
  rfl

theorem raw_custom3 : decode32Raw (c32 f7 b a 0 d 0x7b) = decCustom3 false f7.toNat b a d := by
  simp only [decode32Raw, c32_major, c32_b, c32_a, c32_f3, c32_d, c32_f7]
  rfl

theorem raw_custom3_clip : decode32Raw (c32 f7 b a 1 d 0x7b) = decCustom3 true f7.toNat b a d := by
  simp only [decode32Raw, c32_major, c32_b, c32_a, c32_f3, c32_d, c32_f7]
  rfl

theorem raw_custom2 (vx : Bool) (op : BitVec 6) (t : VTy) :
    decode32Raw (c32 (vf7 vx op) b a t.code d 0x5b) = decCustom2 op.toNat vx t b a d := by
  have h6 : fld (c32 (vf7 vx op) b a t.code d 0x5b) 25 6 = op := by
    rw [show fld (c32 (vf7 vx op) b a t.code d 0x5b) 25 6 = fld (fld (c32 (vf7 vx op) b a t.code d 0x5b) 25 7) 0 6 from
      (fld_fld _ 25 7 0 6 (by decide)).symm, c32_f7, vf7]
    repeat (first | rw [fld_full] | erw [fld_low _ _ (by decide)] | erw [fld_high _ _ _ (by decide)])
  have h1 : (c32 (vf7 vx op) b a t.code d 0x5b).getLsbD 31 = vx := by
    have : (c32 (vf7 vx op) b a t.code d 0x5b).getLsbD 31 = (fld (c32 (vf7 vx op) b a t.code d 0x5b) 25 7).getLsbD 6 := by
      simp
    rw [this, c32_f7]
    exact (bit_high _ op (by decide)).trans (bit_ofBool vx)
  simp only [decode32Raw, c32_major, c32_b, c32_a, c32_f3, c32_d, h6, h1, VTy.ofCode_code]
  rfl

theorem raw_amo (f5 : BitVec 5) (aq rl : Bool) :
    decode32Raw (c32 (f5 ++ BitVec.ofBool aq ++ BitVec.ofBool rl) b a f3 d 0x2f) = decAmo f5 aq rl b a f3 d := by
  generalize hw : c32 (f5 ++ BitVec.ofBool aq ++ BitVec.ofBool rl) b a f3 d 0x2f = w
  have h7 : fld w 25 7 = f5 ++ BitVec.ofBool aq ++ BitVec.ofBool rl := by subst hw; exact c32_f7 ..
  have h5 : fld w 27 5 = f5 := by
    rw [show fld w 27 5 = fld (fld w 25 7) 2 5 from (fld_fld _ 25 7 2 5 (by decide)).symm, h7]
    repeat (first | rw [fld_full] | erw [fld_low _ _ (by decide)] | erw [fld_high _ _ _ (by decide)])
  have ha : w.getLsbD 26 = aq := by
    have : w.getLsbD 26 = (fld w 25 7).getLsbD 1 := by simp
    rw [this, h7]
    exact (bit_high _ _ (by decide)).trans ((bit_low _ _ (by decide)).trans (bit_ofBool aq))
  have hr : w.getLsbD 25 = rl := by
    have : w.getLsbD 25 = (fld w 25 7).getLsbD 0 := by simp
    rw [this, h7]
    exact (bit_low _ _ (by decide)).trans (bit_ofBool rl)
  have hm : fld w 0 7 = 0x2f := by subst hw; exact c32_major ..
  have hb : fld w 20 5 = b := by subst hw; exact c32_b ..
  have hA : fld w 15 5 = a := by subst hw; exact c32_a ..
  have h3 : fld w 12 3 = f3 := by subst hw; exact c32_f3 ..
  have hd : fld w 7 5 = d := by subst hw; exact c32_d ..
  simp only [decode32Raw, hm, hb, hA, h3, hd, h5, ha, hr]
  rfl

theorem raw_system : decode32Raw (c32i imm a f3 d 0x73) = decSystem imm a f3 d := by
  simp only [decode32Raw, c32i_major, c32i_imm, c32i_a, c32i_f3, c32i_d]
  rfl

theorem raw_fence : decode32Raw (c32i imm a f3 d 0x0f) = decFence imm a f3 d := by
  simp only [decode32Raw, c32i_major, c32i_imm, c32i_a, c32i_f3, c32i_d]
  rfl

theorem raw_imm : decode32Raw (c32i imm a f3 d 0x13) = decImm 0x13 imm a f3 d := by
  simp only [decode32Raw, c32i_major, c32i_imm, c32i_a, c32i_f3, c32i_d]
  rfl

theorem raw_imm_w : decode32Raw (c32i imm a f3 d 0x1b) = decImm 0x1b imm a f3 d := by
  simp only [decode32Raw, c32i_major, c32i_imm, c32i_a, c32i_f3, c32i_d]
  rfl

theorem raw_reg : decode32Raw (c32 f7 b a f3 d 0x33) = decReg 0x33 f7 b a f3 d := by
  simp only [decode32Raw, c32_major, c32_b, c32_a, c32_f3, c32_d, c32_f7]
  rfl

theorem raw_reg_w : decode32Raw (c32 f7 b a f3 d 0x3b) = decReg 0x3b f7 b a f3 d := by
  simp only [decode32Raw, c32_major, c32_b, c32_a, c32_f3, c32_d, c32_f7]
  rfl

end

section
variable (imm : BitVec 24) (f8 : BitVec 8) (sz : BitVec 2) (c b a d : Reg)

theorem raw_matrix : decode64Raw (w64 imm f8 sz c b a 0 d) = decMatrix imm f8.toNat sz c b a d := by
  simp only [decode64Raw, w64_imm, w64_f8, w64_sz, w64_c, w64_b, w64_a, w64_cls, w64_d]
  rfl

theorem raw_transfer : decode64Raw (w64 imm f8 sz c b a 1 d) = decTransfer imm f8.toNat sz c b a d := by
  simp only [decode64Raw, w64_imm, w64_f8, w64_sz, w64_c, w64_b, w64_a, w64_cls, w64_d]
  rfl

theorem raw_region : decode64Raw (w64 imm f8 sz c b a 2 d) = decRegion imm f8.toNat sz c b a d := by
  simp only [decode64Raw, w64_imm, w64_f8, w64_sz, w64_c, w64_b, w64_a, w64_cls, w64_d]
  rfl

theorem raw_task : decode64Raw (w64 imm f8 sz c b a 3 d) = decTask imm f8.toNat sz c b a d := by
  simp only [decode64Raw, w64_imm, w64_f8, w64_sz, w64_c, w64_b, w64_a, w64_cls, w64_d]
  rfl

theorem raw_vector (vx : Bool) (op : BitVec 6) :
    decode64Raw (w64 imm (0#1 ++ vf7 vx op) sz c b a 4 d) = decVector imm op.toNat vx sz c b a d := by
  have h7 : (0#1 ++ vf7 vx op : BitVec 8).getLsbD 7 = false := (bit_high _ _ (by decide)).trans rfl
  have h6 : (0#1 ++ vf7 vx op : BitVec 8).getLsbD 6 = vx :=
    (bit_low _ _ (by decide)).trans ((bit_high _ op (by decide)).trans (bit_ofBool vx))
  have ho : fld (0#1 ++ vf7 vx op : BitVec 8) 0 6 = op := by
    unfold vf7
    repeat (first | rw [fld_full] | erw [fld_low _ _ (by decide)] | erw [fld_high _ _ _ (by decide)])
  simp only [decode64Raw, w64_imm, w64_f8, w64_sz, w64_c, w64_b, w64_a, w64_cls, w64_d]
  show (if _ then none else decVector imm _ _ sz c b a d) = _
  simp only [h7, h6, ho]
  rfl

end

end Sys2Proof
end

