-- ==== Sys2Proof/Laws/PerInstr.lean ====
section
/-! SUPPORT. The encoder and the decoder agree on every row: decoding the encoding of a well-formed instruction gives that
instruction back, and only events and the supervisor calls have no encoding. -/

namespace Sys2Proof.Laws.RoundTrip

/-- Decoding the encoding of the instruction, where it is well-formed, gives it and its length back; a row without an encoding
is an event or a supervisor call. -/
def Statement (i : Instr) : Prop :=
  match encode i with
  | some (n, e) => WellFormed i → decode n e = .ok i n
  | none => Machine.roles i = none ∨ Machine.isCall i = true

/-! ## One lemma per format -/

theorem of_some {i : Instr} {n : Nat} {e : Word} (he : encode i = some (n, e)) (h : WellFormed i → decode n e = .ok i n) :
    Statement i := by
  unfold Statement
  rw [he]
  exact h

theorem of_event {i : Instr} (he : encode i = none) (h : Machine.roles i = none) : Statement i := by
  unfold Statement
  rw [he]
  exact .inl h

theorem of_call {i : Instr} (he : encode i = none) (h : Machine.isCall i = true) : Statement i := by
  unfold Statement
  rw [he]
  exact .inr h

/-- A 32-bit encoding. -/
theorem of_32 {i : Instr} {w : W32} (he : encode i = some (4, zx w)) {j : BitVec 7} (hj : fld w 0 7 = j)
    (h0 : fld j 0 2 = 3) (h1 : fld j 2 3 ≠ 7) (raw : WellFormed i → decode32Raw w = some i) : Statement i :=
  of_some he fun h => by rw [decode_w32 hj h0 h1, raw h, checked_ok 4 h]

/-- A 64-bit encoding. -/
theorem of_64 {i : Instr} {imm : BitVec 24} {f8 : BitVec 8} {sz : BitVec 2} {c b a : Reg} {cls : BitVec 3} {d : Reg}
    (he : encode i = some (8, w64 imm f8 sz c b a cls d))
    (raw : decode64Raw (w64 imm f8 sz c b a cls d) = some i) : Statement i :=
  of_some he fun h => by rw [decode_w64, raw, checked_ok 8 h]

section
variable {i : Instr} {f7 : BitVec 7} {f3 : BitVec 3} {b a d : Reg} {imm : BitVec 24} {f8 : BitVec 8} {sz : BitVec 2} {c : Reg}

theorem of_i {imm : BitVec 12} {j : BitVec 7} (he : encode i = some (4, zx (c32i imm a f3 d j))) (h0 : fld j 0 2 = 3)
    (h1 : fld j 2 3 ≠ 7) (raw : WellFormed i → decode32Raw (c32i imm a f3 d j) = some i) : Statement i :=
  of_32 he (c32i_major ..) h0 h1 raw

theorem of_custom0 (he : encode i = some (e32 0x0b f3 f7 b a d)) (hd : decCustom0 f3.toNat f7.toNat b a d = some i) :
    Statement i :=
  of_32 he (c32_major ..) (by decide) (by decide) fun _ => (raw_custom0 ..).trans hd

theorem of_custom1 (he : encode i = some (e32 0x2b 0 f7 b a d)) (hd : decCustom1 f7.toNat b a d = some i) : Statement i :=
  of_32 he (c32_major ..) (by decide) (by decide) fun _ => (raw_custom1 ..).trans hd

theorem of_custom3 (he : encode i = some (e32 0x7b 0 f7 b a d)) (hd : decCustom3 false f7.toNat b a d = some i) :
    Statement i :=
  of_32 he (c32_major ..) (by decide) (by decide) fun _ => (raw_custom3 ..).trans hd

theorem of_custom3_clip (he : encode i = some (e32 0x7b 1 f7 b a d)) (hd : decCustom3 true f7.toNat b a d = some i) :
    Statement i :=
  of_32 he (c32_major ..) (by decide) (by decide) fun _ => (raw_custom3_clip ..).trans hd

theorem of_custom2 {vx : Bool} {op : BitVec 6} {t : VTy} (he : encode i = some (v32 vx op t b a d))
    (hd : decCustom2 op.toNat vx t b a d = some i) : Statement i :=
  of_32 he (c32_major ..) (by decide) (by decide) fun _ => (raw_custom2 ..).trans hd

theorem of_amo {f5 : BitVec 5} {aq rl : Bool} (he : encode i = some (eamo f5 aq rl b a f3 d))
    (hd : decAmo f5 aq rl b a f3 d = some i) : Statement i :=
  of_32 he (c32_major ..) (by decide) (by decide) fun _ => (raw_amo ..).trans hd

theorem of_matrix (he : encode i = some (e64 0 imm f8 sz c b a d)) (hd : decMatrix imm f8.toNat sz c b a d = some i) :
    Statement i :=
  of_64 he ((raw_matrix ..).trans hd)

theorem of_transfer (he : encode i = some (e64 1 imm f8 sz c b a d)) (hd : decTransfer imm f8.toNat sz c b a d = some i) :
    Statement i :=
  of_64 he ((raw_transfer ..).trans hd)

theorem of_region (he : encode i = some (e64 2 imm f8 sz c b a d)) (hd : decRegion imm f8.toNat sz c b a d = some i) :
    Statement i :=
  of_64 he ((raw_region ..).trans hd)

theorem of_task (he : encode i = some (e64 3 imm f8 sz c b a d)) (hd : decTask imm f8.toNat sz c b a d = some i) :
    Statement i :=
  of_64 he ((raw_task ..).trans hd)

theorem of_vector {t : VTy} {off : BitVec 21} {vx : Bool} {op : BitVec 6} (he : encode i = some (v64 t off vx op sz c b a d))
    (hd : decVector (t.code ++ off) op.toNat vx sz c b a d = some i) : Statement i :=
  of_64 he ((raw_vector ..).trans hd)

end

/-! ## The CSR rows (R325) -/

theorem of_csr {i : Instr} {op : CsrOp} {csr : BitVec 12} {src : CsrSrc} {rd : Reg}
    (he : encode i = some (ecsr op csr src rd)) (hd : WellFormed i → csrInstr op csr src rd = i) : Statement i := by
  cases src with
  | reg r =>
    exact of_i he (by decide) (by decide) fun h =>
      (raw_system ..).trans ((show _ = some (csrInstr op csr (.reg r) rd) by cases op <;> rfl).trans (by rw [hd h]))
  | imm v =>
    exact of_i he (by decide) (by decide) fun h =>
      (raw_system ..).trans ((show _ = some (csrInstr op csr (.imm v) rd) by cases op <;> rfl).trans (by rw [hd h]))

theorem fieldsOk_csrWrite (op : CsrOp) (csr : BitVec 12) (src : CsrSrc) (rd : Reg) :
    fieldsOk (.csrWrite op csr src rd)
      = (!(csrWrites op src && csrHasRow csr) && !(csrWrites op src && csr = 0x5C5 && (xfctlStatic op src).isSome)) := rfl

theorem fieldsOk_fence (fm pred succ : BitVec 4) (rd rs1 : Reg) :
    fieldsOk (.fence fm pred succ rd rs1) = !(fm = 8 && pred = 3 && succ = 3) := rfl

theorem csrInstr_csrWrite {op : CsrOp} {csr : BitVec 12} {src : CsrSrc} {rd : Reg}
    (h : WellFormed (.csrWrite op csr src rd)) : csrInstr op csr src rd = .csrWrite op csr src rd := by
  simp only [WellFormed, fieldsOk_csrWrite, csrHasRow, Bool.and_eq_true, Bool.not_eq_true', Bool.and_eq_false_iff,
    Bool.or_eq_false_iff, decide_eq_false_iff_not] at h
  unfold csrInstr
  cases hw : csrWrites op src with
  | false => rfl
  | true =>
    simp only [hw, Bool.true_eq_false, false_or] at h
    obtain ⟨⟨⟨⟨⟨h1, h2⟩, h3⟩, h4⟩, h5⟩, h6⟩ := h
    simp only [if_true, if_neg h1, if_neg h2, if_neg h3, if_neg h4, if_neg h5]
    split
    · rename_i h7
      simp only [h7, not_true_eq_false, false_or] at h6
      cases hx : xfctlStatic op src with
      | none => rfl
      | some b => simp [hx] at h6
    · rfl

/-! ## Fields with padding, and joined immediates -/

theorem pad16_high (x : BitVec 16) : fld (0#8 ++ x : BitVec 24) 16 8 = 0 := (fld_high 8 _ x (by decide)).trans (fld_full _)
theorem pad16_low (x : BitVec 16) : fld (0#8 ++ x : BitVec 24) 0 16 = x := (fld_low _ x (by decide)).trans (fld_full x)
theorem pad7_high (x : BitVec 7) : fld (0#17 ++ x : BitVec 24) 7 17 = 0 := (fld_high 17 _ x (by decide)).trans (fld_full _)
theorem pad7_low (x : BitVec 7) : fld (0#17 ++ x : BitVec 24) 0 7 = x := (fld_low _ x (by decide)).trans (fld_full x)
theorem pad3_high (x : BitVec 3) : fld (0#21 ++ x : BitVec 24) 3 21 = 0 := (fld_high 21 _ x (by decide)).trans (fld_full _)
theorem pad3_low (x : BitVec 3) : fld (0#21 ++ x : BitVec 24) 0 3 = x := (fld_low _ x (by decide)).trans (fld_full x)
theorem pad4_high (x : BitVec 4) : fld (0#20 ++ x : BitVec 24) 4 20 = 0 := (fld_high 20 _ x (by decide)).trans (fld_full _)
theorem pad4_low (x : BitVec 4) : fld (0#20 ++ x : BitVec 24) 0 4 = x := (fld_low _ x (by decide)).trans (fld_full x)
theorem mma_pad (y : BitVec 9) (x : BitVec 10) : fld (0#5 ++ y ++ x : BitVec 24) 19 5 = 0 :=
  (fld_high 5 _ x (by decide)).trans ((fld_high 5 _ y (by decide)).trans (fld_full _))
theorem mma_high (y : BitVec 9) (x : BitVec 10) : fld (0#5 ++ y ++ x : BitVec 24) 10 9 = y :=
  (fld_high 9 _ x (by decide)).trans ((fld_low _ y (by decide)).trans (fld_full _))
theorem mma_low (y : BitVec 9) (x : BitVec 10) : fld (0#5 ++ y ++ x : BitVec 24) 0 10 = x :=
  (fld_low _ x (by decide)).trans (fld_full x)
theorem mext_pad (y : BitVec 3) (x : BitVec 7) : fld (0#14 ++ y ++ x : BitVec 24) 10 14 = 0 :=
  (fld_high 14 _ x (by decide)).trans ((fld_high 14 _ y (by decide)).trans (fld_full _))
theorem mext_high (y : BitVec 3) (x : BitVec 7) : fld (0#14 ++ y ++ x : BitVec 24) 7 3 = y :=
  (fld_high 3 _ x (by decide)).trans ((fld_low _ y (by decide)).trans (fld_full _))
theorem mext_low (y : BitVec 3) (x : BitVec 7) : fld (0#14 ++ y ++ x : BitVec 24) 0 7 = x :=
  (fld_low _ x (by decide)).trans (fld_full x)
theorem mqnt_pad (y : BitVec 2) (x : BitVec 3) : fld (0#19 ++ y ++ x : BitVec 24) 5 19 = 0 :=
  (fld_high 19 _ x (by decide)).trans ((fld_high 19 _ y (by decide)).trans (fld_full _))
theorem mqnt_high (y : BitVec 2) (x : BitVec 3) : fld (0#19 ++ y ++ x : BitVec 24) 3 2 = y :=
  (fld_high 2 _ x (by decide)).trans ((fld_low _ y (by decide)).trans (fld_full _))
theorem mqnt_low (y : BitVec 2) (x : BitVec 3) : fld (0#19 ++ y ++ x : BitVec 24) 0 3 = x :=
  (fld_low _ x (by decide)).trans (fld_full x)

theorem imm_join (imm : BitVec 12) : (fld imm 5 7 ++ fld imm 0 5 : BitVec 12) = imm :=
  (fld_join imm 5 0 5 7 rfl).trans (fld_full imm)
theorem repb_low (ring : BitVec 2) (len : BitVec 3) : fld (ring ++ len : BitVec 5) 0 3 = len :=
  (fld_low _ len (by decide)).trans (fld_full len)
theorem repb_high (ring : BitVec 2) (len : BitVec 3) : fld (ring ++ len : BitVec 5) 3 2 = ring :=
  (fld_high 2 ring len (by decide)).trans (fld_full ring)
theorem ty_code (c : BitVec 3) (off : BitVec 21) : fld (c ++ off : BitVec 24) 21 3 = c :=
  (fld_high 3 c off (by decide)).trans (fld_full c)
theorem ty_off (c : BitVec 3) (off : BitVec 21) : fld (c ++ off : BitVec 24) 0 21 = off :=
  (fld_low c off (by decide)).trans (fld_full off)
theorem lane_pad (c : BitVec 3) (x : BitVec 6) : fld (c ++ (0#15 ++ x : BitVec 21) : BitVec 24) 6 15 = 0 :=
  (fld_low c _ (by decide)).trans ((fld_high 15 _ x (by decide)).trans (fld_full _))
theorem lane_low (c : BitVec 3) (x : BitVec 6) : fld (c ++ (0#15 ++ x : BitVec 21) : BitVec 24) 0 6 = x :=
  (fld_low c _ (by decide)).trans ((fld_low _ x (by decide)).trans (fld_full _))
theorem part_pad (c : BitVec 3) (x : BitVec 3) : fld (c ++ (0#18 ++ x : BitVec 21) : BitVec 24) 3 18 = 0 :=
  (fld_low c _ (by decide)).trans ((fld_high 18 _ x (by decide)).trans (fld_full _))
theorem part_low (c : BitVec 3) (x : BitVec 3) : fld (c ++ (0#18 ++ x : BitVec 21) : BitVec 24) 0 3 = x :=
  (fld_low c _ (by decide)).trans ((fld_low _ x (by decide)).trans (fld_full _))
theorem src_bit (x : BitVec 4) : (0#1 ++ x : BitVec 5).getLsbD 4 = false := (bit_high _ x (by decide)).trans rfl
theorem src_low (x : BitVec 4) : fld (0#1 ++ x : BitVec 5) 0 4 = x := (fld_low _ x (by decide)).trans (fld_full x)
theorem qnt_pad (c : BitVec 3) (m : Bool) (p : BitVec 2) :
    fld (c ++ (0#18 ++ BitVec.ofBool m ++ p : BitVec 21) : BitVec 24) 3 18 = 0 :=
  (fld_low c _ (by decide)).trans ((fld_high 18 _ p (by decide)).trans ((fld_high 18 _ _ (by decide)).trans (fld_full _)))
theorem qnt_bit (c : BitVec 3) (m : Bool) (p : BitVec 2) :
    (c ++ (0#18 ++ BitVec.ofBool m ++ p : BitVec 21) : BitVec 24).getLsbD 2 = m :=
  (bit_low c _ (by decide)).trans ((bit_high _ p (by decide)).trans ((bit_low _ _ (by decide)).trans (bit_ofBool m)))
theorem qnt_low (c : BitVec 3) (m : Bool) (p : BitVec 2) :
    fld (c ++ (0#18 ++ BitVec.ofBool m ++ p : BitVec 21) : BitVec 24) 0 2 = p :=
  (fld_low c _ (by decide)).trans ((fld_low _ p (by decide)).trans (fld_full p))

/-! ## The base -/

theorem raw_sfence (rs1 rs2 : Reg) : decode32Raw (c32 9 rs2 rs1 0 0 0x73) = some (.sfenceVma rs1 rs2) := by
  have h5 : fld (9#7 ++ rs2 : BitVec 12) 5 7 = 9#7 := (fld_high 7 _ rs2 (by decide)).trans (fld_full _)
  have h0 : fld (9#7 ++ rs2 : BitVec 12) 0 5 = rs2 := (fld_low _ rs2 (by decide)).trans (fld_full _)
  have h : decode32Raw (c32 9 rs2 rs1 0 0 0x73) = decSystem (9#7 ++ rs2) rs1 0 0 := by
    simp only [decode32Raw, c32_major, c32_imm, c32_a, c32_f3, c32_d]
    rfl
  rw [h]
  simp [decSystem, h5, h0]

theorem raw_fence_plain {fm pred succ : BitVec 4} {rd rs1 : Reg} (h : WellFormed (.fence fm pred succ rd rs1)) :
    decode32Raw (c32i (fm ++ pred ++ succ) rs1 0 rd 0x0f) = some (.fence fm pred succ rd rs1) := by
  have h8 : fld (fm ++ pred ++ succ : BitVec 12) 8 4 = fm :=
    (fld_high 4 _ succ (by decide)).trans ((fld_high 4 fm pred (by decide)).trans (fld_full _))
  have h4 : fld (fm ++ pred ++ succ : BitVec 12) 4 4 = pred :=
    (fld_high 4 _ succ (by decide)).trans ((fld_low fm pred (by decide)).trans (fld_full _))
  have h0 : fld (fm ++ pred ++ succ : BitVec 12) 0 4 = succ := (fld_low _ succ (by decide)).trans (fld_full _)
  rw [raw_fence]
  simp only [decFence]
  show (if (fm ++ pred ++ succ : BitVec 12) = 0x833 then _ else _) = _
  split
  · rename_i he
    rw [he] at h8 h4 h0
    subst h8 h4 h0
    exact absurd (show fieldsOk _ = true from h) (by rw [fieldsOk_fence]; decide)
  · rw [h8, h4, h0]

theorem find_rr (o : AluRR) :
    AluRR.all.find? (fun p => p.code == (o.code.1, (BitVec.ofNat 7 o.code.2.1).toNat, (BitVec.ofNat 3 o.code.2.2).toNat))
      = some o := by
  cases o <;> rfl

theorem find_ri (o : AluRI) : AluRI.all.find? (fun p => p.code == (o.code.1, (BitVec.ofNat 3 o.code.2).toNat)) = some o := by
  cases o <;> rfl

theorem find_sh (o : AluSh) :
    AluSh.all.find? (fun p => p.code == (o.code.1, (BitVec.ofNat 6 o.code.2.1).toNat, (BitVec.ofNat 3 o.code.2.2).toNat))
      = some o := by
  cases o <;> rfl

/-- No immediate computation has a shift's funct3. -/
theorem find_sh_ri (o : AluSh) :
    AluRI.all.find? (fun p => p.code == (o.code.1, (BitVec.ofNat 3 o.code.2.2).toNat)) = none := by
  cases o <;> rfl

theorem alu_rr (o : AluRR) (rd rs1 rs2 : Reg) : Statement (.integerAlu (.rr o rd rs1 rs2)) := by
  have key : decReg o.code.1 (BitVec.ofNat 7 o.code.2.1) rs2 rs1 (BitVec.ofNat 3 o.code.2.2) rd
      = some (.integerAlu (.rr o rd rs1 rs2)) := by
    simp only [decReg, find_rr]
  have hop : o.code.1 = 0x33 ∨ o.code.1 = 0x3b := by cases o <;> decide
  rcases hop with h | h
  · exact of_32 rfl (c32_major ..) (by rw [h]; decide) (by rw [h]; decide) fun _ => by
      rw [h] at key ⊢
      exact (raw_reg ..).trans key
  · exact of_32 rfl (c32_major ..) (by rw [h]; decide) (by rw [h]; decide) fun _ => by
      rw [h] at key ⊢
      exact (raw_reg_w ..).trans key

theorem alu_ri (o : AluRI) (rd rs1 : Reg) (imm : BitVec 12) : Statement (.integerAlu (.ri o rd rs1 imm)) := by
  have key : decImm o.code.1 imm rs1 (BitVec.ofNat 3 o.code.2) rd = some (.integerAlu (.ri o rd rs1 imm)) := by
    simp only [decImm, find_ri]
  have hop : o.code.1 = 0x13 ∨ o.code.1 = 0x1b := by cases o <;> decide
  rcases hop with h | h
  · exact of_i rfl (by rw [h]; decide) (by rw [h]; decide) fun _ => by
      rw [h] at key ⊢
      exact (raw_imm ..).trans key
  · exact of_i rfl (by rw [h]; decide) (by rw [h]; decide) fun _ => by
      rw [h] at key ⊢
      exact (raw_imm_w ..).trans key

theorem alu_sh (o : AluSh) (rd rs1 : Reg) (amt : BitVec 6) : Statement (.integerAlu (.sh o rd rs1 amt)) := by
  have hi : fld (BitVec.ofNat 6 o.code.2.1 ++ amt : BitVec 12) 6 6 = BitVec.ofNat 6 o.code.2.1 :=
    (fld_high 6 _ amt (by decide)).trans (fld_full _)
  have lo : fld (BitVec.ofNat 6 o.code.2.1 ++ amt : BitVec 12) 0 6 = amt := (fld_low _ amt (by decide)).trans (fld_full _)
  have key : decImm o.code.1 (BitVec.ofNat 6 o.code.2.1 ++ amt) rs1 (BitVec.ofNat 3 o.code.2.2) rd
      = some (.integerAlu (.sh o rd rs1 amt)) := by
    simp only [decImm, find_sh_ri, hi, lo, find_sh]
  have hop : o.code.1 = 0x13 ∨ o.code.1 = 0x1b := by cases o <;> decide
  rcases hop with h | h
  · exact of_i rfl (by rw [h]; decide) (by rw [h]; decide) fun _ => by
      rw [h] at key ⊢
      exact (raw_imm ..).trans key
  · exact of_i rfl (by rw [h]; decide) (by rw [h]; decide) fun _ => by
      rw [h] at key ⊢
      exact (raw_imm_w ..).trans key

theorem alu_un (o : AluU) (rd rs1 : Reg) : Statement (.integerAlu (.un o rd rs1)) := by
  by_cases hz : o = .zexth
  · subst hz
    have h4 : fld (c32i 0x080 rs1 4 rd 0x3b) 25 7 = 4 := (c32i_f7 ..).trans (by decide)
    have h0 : fld (c32i 0x080 rs1 4 rd 0x3b) 20 5 = 0 := (c32i_b ..).trans (by decide)
    exact of_i rfl (by decide) (by decide) fun _ => by
      show decode32Raw (c32i 0x080 rs1 4 rd 0x3b) = _
      simp only [decode32Raw, c32i_major, c32i_a, c32i_f3, c32i_d, h4, h0]
      rfl
  · have key : decImm o.code.1 (BitVec.ofNat 12 o.code.2.1) rs1 (BitVec.ofNat 3 o.code.2.2) rd
        = some (.integerAlu (.un o rd rs1)) := by
      cases o <;> first | exact absurd rfl hz | rfl
    have hop : o.code.1 = 0x13 ∨ o.code.1 = 0x1b := by cases o <;> first | exact absurd rfl hz | decide
    rcases hop with h | h
    · exact of_i rfl (by rw [h]; decide) (by rw [h]; decide) fun _ => by
        rw [h] at key ⊢
        exact (raw_imm ..).trans key
    · exact of_i rfl (by rw [h]; decide) (by rw [h]; decide) fun _ => by
        rw [h] at key ⊢
        exact (raw_imm_w ..).trans key

theorem u_major (imm : BitVec 20) (rd : Reg) (j : BitVec 7) : fld (imm ++ rd ++ j : W32) 0 7 = j :=
  (fld_low _ j (by decide)).trans (fld_full j)

theorem u_rd (imm : BitVec 20) (rd : Reg) (j : BitVec 7) : fld (imm ++ rd ++ j : W32) 7 5 = rd :=
  (fld_high 5 _ j (by decide)).trans ((fld_low imm rd (by decide)).trans (fld_full rd))

theorem u_imm (imm : BitVec 20) (rd : Reg) (j : BitVec 7) : fld (imm ++ rd ++ j : W32) 12 20 = imm :=
  (fld_high 20 _ j (by decide)).trans ((fld_high 20 imm rd (by decide)).trans (fld_full imm))

theorem alu (op : Alu) : Statement (.integerAlu op) := by
  cases op with
  | rr o rd rs1 rs2 => exact alu_rr o rd rs1 rs2
  | ri o rd rs1 imm => exact alu_ri o rd rs1 imm
  | sh o rd rs1 amt => exact alu_sh o rd rs1 amt
  | un o rd rs1 => exact alu_un o rd rs1
  | lui rd imm =>
    exact of_32 rfl (u_major ..) (by decide) (by decide) fun _ => by
      simp only [decode32Raw, u_major, u_imm, u_rd]
      rfl
  | auipc rd imm =>
    exact of_32 rfl (u_major ..) (by decide) (by decide) fun _ => by
      simp only [decode32Raw, u_major, u_imm, u_rd]
      rfl

/-- The pieces of a branch's offset, read back. -/
theorem branch_off (f7 : BitVec 7) (b a : Reg) (f3 : BitVec 3) (d : Reg) (j : BitVec 7) :
    (fld (c32 f7 b a f3 d j) 31 1 ++ fld (c32 f7 b a f3 d j) 7 1 ++ fld (c32 f7 b a f3 d j) 25 6
      ++ fld (c32 f7 b a f3 d j) 8 4 : BitVec 12) = fld f7 6 1 ++ fld d 0 1 ++ fld f7 0 6 ++ fld d 1 4 := by
  rw [show fld (c32 f7 b a f3 d j) 31 1 = fld f7 6 1 by rw [← fld_fld _ 25 7 6 1 (by decide), c32_f7],
    show fld (c32 f7 b a f3 d j) 7 1 = fld d 0 1 by rw [← fld_fld _ 7 5 0 1 (by decide), c32_d],
    show fld (c32 f7 b a f3 d j) 25 6 = fld f7 0 6 by rw [← fld_fld _ 25 7 0 6 (by decide), c32_f7],
    show fld (c32 f7 b a f3 d j) 8 4 = fld d 1 4 by rw [← fld_fld _ 7 5 1 4 (by decide), c32_d]]

theorem branch_join (off : BitVec 12) :
    (fld (fld off 11 1 ++ fld off 4 6 : BitVec 7) 6 1 ++ fld (fld off 0 4 ++ fld off 10 1 : BitVec 5) 0 1
      ++ fld (fld off 11 1 ++ fld off 4 6 : BitVec 7) 0 6 ++ fld (fld off 0 4 ++ fld off 10 1 : BitVec 5) 1 4 : BitVec 12)
      = off := by
  rw [show fld (fld off 11 1 ++ fld off 4 6 : BitVec 7) 6 1 = fld off 11 1 from (fld_high 1 _ _ (by decide)).trans (fld_full _),
    show fld (fld off 0 4 ++ fld off 10 1 : BitVec 5) 0 1 = fld off 10 1 from (fld_low _ _ (by decide)).trans (fld_full _),
    show fld (fld off 11 1 ++ fld off 4 6 : BitVec 7) 0 6 = fld off 4 6 from (fld_low _ _ (by decide)).trans (fld_full _),
    show fld (fld off 0 4 ++ fld off 10 1 : BitVec 5) 1 4 = fld off 0 4 from (fld_high 4 _ _ (by decide)).trans (fld_full _),
    show (fld off 11 1 ++ fld off 10 1 : BitVec 2) = fld off 10 2 from fld_join off 11 10 1 1 rfl,
    show (fld off 10 2 ++ fld off 4 6 : BitVec 8) = fld off 4 8 from fld_join off 10 4 6 2 rfl,
    show (fld off 4 8 ++ fld off 0 4 : BitVec 12) = fld off 0 12 from fld_join off 4 0 4 8 rfl, fld_full]

/-- The pieces of a jump's offset, read back. -/
theorem jal_off (off : BitVec 20) (rd : Reg) (j : BitVec 7) (w : W32)
    (hw : w = (fld off 19 1 ++ fld off 0 10 ++ fld off 10 1 ++ fld off 11 8 ++ rd ++ j : W32)) :
    fld w 0 7 = j ∧ fld w 7 5 = rd ∧ (fld w 31 1 ++ fld w 12 8 ++ fld w 20 1 ++ fld w 21 10 : BitVec 20) = off := by
  have h1 : fld w 31 1 = fld off 19 1 := by
    subst hw
    exact (fld_high 1 _ _ (by decide)).trans ((fld_high 1 _ _ (by decide)).trans ((fld_high 1 _ _ (by decide)).trans
      ((fld_high 1 _ _ (by decide)).trans ((fld_high 1 _ _ (by decide)).trans (fld_full _)))))
  have h2 : fld w 12 8 = fld off 11 8 := by
    subst hw
    exact (fld_high 8 _ _ (by decide)).trans ((fld_high 8 _ _ (by decide)).trans ((fld_low _ _ (by decide)).trans (fld_full _)))
  have h3 : fld w 20 1 = fld off 10 1 := by
    subst hw
    exact (fld_high 1 _ _ (by decide)).trans ((fld_high 1 _ _ (by decide)).trans ((fld_high 1 _ _ (by decide)).trans
      ((fld_low _ _ (by decide)).trans (fld_full _))))
  have h4 : fld w 21 10 = fld off 0 10 := by
    subst hw
    exact (fld_high 10 _ _ (by decide)).trans ((fld_high 10 _ _ (by decide)).trans ((fld_high 10 _ _ (by decide)).trans
      ((fld_high 10 _ _ (by decide)).trans ((fld_low _ _ (by decide)).trans (fld_full _)))))
  refine ⟨?_, ?_, ?_⟩
  · subst hw
    exact (fld_low _ _ (by decide)).trans (fld_full _)
  · subst hw
    exact (fld_high 5 _ _ (by decide)).trans ((fld_low _ _ (by decide)).trans (fld_full _))
  · rw [h1, h2, h3, h4,
      show (fld off 19 1 ++ fld off 11 8 : BitVec 9) = fld off 11 9 from fld_join off 19 11 8 1 rfl,
      show (fld off 11 9 ++ fld off 10 1 : BitVec 10) = fld off 10 10 from fld_join off 11 10 1 9 rfl,
      show (fld off 10 10 ++ fld off 0 10 : BitVec 20) = fld off 0 20 from fld_join off 10 0 10 10 rfl, fld_full]

theorem ct (op : Ct) : Statement (.controlTransfer op) := by
  cases op with
  | branch c rs1 rs2 off =>
    have hf : Cond.all.find? (fun o => o.code == (BitVec.ofNat 3 c.code).toNat) = some c := by cases c <;> rfl
    exact of_32 rfl (c32_major ..) (by decide) (by decide) fun _ => by
      simp only [decode32Raw, c32_major, c32_b, c32_a, c32_f3, branch_off, branch_join]
      show (Cond.all.find? _).map _ = _
      rw [hf]
      rfl
  | jal rd off =>
    have key : ∀ w : W32, fld w 0 7 = 0x6f → fld w 7 5 = rd →
        (fld w 31 1 ++ fld w 12 8 ++ fld w 20 1 ++ fld w 21 10 : BitVec 20) = off →
        decode32Raw w = some (.controlTransfer (.jal rd off)) := by
      intro w h0 h1 h2
      simp only [decode32Raw, h0, h1, h2]
      rfl
    obtain ⟨h0, h1, h2⟩ := jal_off off rd 0x6f _ rfl
    exact of_32 rfl h0 (by decide) (by decide) fun _ => key _ h0 h1 h2
  | jalr rd rs1 imm =>
    exact of_i rfl (by decide) (by decide) fun _ => by
      simp only [decode32Raw, c32i_major, c32i_imm, c32i_a, c32i_f3, c32i_d]
      rfl

/-! ## The rows -/

theorem ecallEnvironment (brk) : Statement (.ecallEnvironment brk) :=
  by cases brk <;> exact of_i rfl (by decide) (by decide) fun _ => raw_system ..
theorem csrWrite (op csr src rd) : Statement (.csrWrite op csr src rd) := of_csr rfl fun h => csrInstr_csrWrite h
theorem budgetWrite (op src rd) : Statement (.budgetWrite op src rd) :=
  of_csr rfl fun h => by
    have h : csrWrites op src = true := h
    simp [csrInstr, h]
theorem driftWrite (op src rd) : Statement (.driftWrite op src rd) :=
  of_csr rfl fun h => by
    have h : csrWrites op src = true := h
    simp [csrInstr, h]
theorem leaseWrite (op src rd) : Statement (.leaseWrite op src rd) :=
  of_csr rfl fun h => by
    have h : csrWrites op src = true := h
    simp [csrInstr, h]
theorem rmodeWrite (op src rd) : Statement (.rmodeWrite op src rd) :=
  of_csr rfl fun h => by
    have h : csrWrites op src = true := h
    simp [csrInstr, h]
theorem trcfgWrite (op src rd) : Statement (.trcfgWrite op src rd) :=
  of_csr rfl fun h => by
    have h : csrWrites op src = true := h
    simp [csrInstr, h]
theorem xfctlResume (op src rd) : Statement (.xfctlResume op src rd) :=
  of_csr rfl fun h => by
    have h : (csrWrites op src && xfctlStatic op src == some false) = true := h
    simp only [Bool.and_eq_true, beq_iff_eq] at h
    simp [csrInstr, h.1, h.2]
theorem xfctlFail (op src rd) : Statement (.xfctlFail op src rd) :=
  of_csr rfl fun h => by
    have h : (csrWrites op src && xfctlStatic op src == some true) = true := h
    simp only [Bool.and_eq_true, beq_iff_eq] at h
    simp [csrInstr, h.1, h.2]
theorem load (w rd rs1 imm) : Statement (.load w rd rs1 imm) := by
  cases w <;> exact of_i rfl (by decide) (by decide) fun _ => by
    simp only [decode32Raw, c32i_major, c32i_imm, c32i_a, c32i_f3, c32i_d]; rfl
theorem store (w rs2 rs1 imm) : Statement (.store w rs2 rs1 imm) := by
  cases w <;> exact of_32 rfl (c32_major ..) (by decide) (by decide) fun _ => by
    simp only [decode32Raw, c32_major, c32_b, c32_a, c32_f3, c32_d, c32_f7, imm_join]; rfl
theorem amo (op dw aq rl rd rs1 rs2) : Statement (.amo op dw aq rl rd rs1 rs2) :=
  by cases op <;> cases dw <;> exact of_amo rfl rfl
theorem lr (dw aq rl rd rs1) : Statement (.lr dw aq rl rd rs1) := by cases dw <;> exact of_amo rfl rfl
theorem sc (dw aq rl rd rs1 rs2) : Statement (.sc dw aq rl rd rs1 rs2) := by cases dw <;> exact of_amo rfl rfl
theorem amocasQ (aq rl rd rs1 rs2) : Statement (.amocasQ aq rl rd rs1 rs2) := of_amo rfl rfl
theorem sfenceVma (rs1 rs2) : Statement (.sfenceVma rs1 rs2) :=
  of_32 rfl (c32_major ..) (by decide) (by decide) fun _ => raw_sfence rs1 rs2
theorem fence (fm pred succ rd rs1) : Statement (.fence fm pred succ rd rs1) :=
  of_i rfl (by decide) (by decide) fun h => raw_fence_plain h
theorem fenceTso (rd rs1) : Statement (.fenceTso rd rs1) := of_i rfl (by decide) (by decide) fun _ => raw_fence ..
theorem fenceI (rd rs1 imm) : Statement (.fenceI rd rs1 imm) := of_i rfl (by decide) (by decide) fun _ => raw_fence ..
theorem tretire (a) : Statement (.tretire a) := of_custom0 rfl rfl
theorem tretireA (a) : Statement (.tretireA a) := of_custom0 rfl rfl
theorem tspawn (d a) : Statement (.tspawn d a) := of_custom0 rfl rfl
theorem tspawnN (d a) : Statement (.tspawnN d a) := of_custom0 rfl rfl
theorem tspawnOff (d a off) : Statement (.tspawnOff d a off) := of_task rfl rfl
theorem tspawnNOff (d a off) : Statement (.tspawnNOff d a off) := of_task rfl rfl
theorem tcancel (d a) : Statement (.tcancel d a) := of_custom0 rfl rfl
theorem tstat (d a) : Statement (.tstat d a) := of_custom0 rfl rfl
theorem twdchk (d) : Statement (.twdchk d) := of_custom0 rfl rfl
theorem tbudget (d) : Statement (.tbudget d) := of_custom0 rfl rfl
theorem tself (d) : Statement (.tself d) := of_custom0 rfl rfl
theorem drank (d) : Statement (.drank d) := of_custom0 rfl rfl
theorem dsize (d) : Statement (.dsize d) := of_custom0 rfl rfl
theorem bbind (n a b) : Statement (.bbind n a b) := of_custom0 rfl rfl
theorem bbindI (n a cfg) : Statement (.bbindI n a cfg) := of_task rfl (by simp [decTask, oif, pad16_high, pad16_low])
theorem barrive (n a) : Statement (.barrive n a) := of_custom0 rfl rfl
theorem bwait (d n) : Statement (.bwait d n) := of_custom0 rfl rfl
theorem bsync (d n a) : Statement (.bsync d n a) := of_custom0 rfl rfl
theorem bexpect (n a) : Statement (.bexpect n a) := of_custom0 rfl rfl
theorem bexpectI (n bytes) : Statement (.bexpectI n bytes) := of_task rfl rfl
theorem btest (d n) : Statement (.btest d n) := of_custom0 rfl rfl
theorem bunbind (n) : Statement (.bunbind n) := of_custom0 rfl rfl
theorem msend (d a b) : Statement (.msend d a b) := of_custom0 rfl rfl
theorem msendI (d a b c tag) : Statement (.msendI d a b c tag) := of_task rfl (by simp [decTask, oif, pad16_high, pad16_low])
theorem mrecv (d a) : Statement (.mrecv d a) := of_custom0 rfl rfl
theorem mpoll (d) : Statement (.mpoll d) := of_custom0 rfl rfl
theorem mwait (d) : Statement (.mwait d) := of_custom0 rfl rfl
theorem mhdr (d) : Statement (.mhdr d) := of_custom0 rfl rfl
theorem clkrd (d) : Statement (.clkrd d) := of_custom0 rfl rfl
theorem clkadv (a) : Statement (.clkadv a) := of_custom0 rfl rfl
theorem clkadvOff (a off) : Statement (.clkadvOff a off) := of_task rfl rfl
theorem lwait (d a) : Statement (.lwait d a) := of_custom0 rfl rfl
theorem lwaitOff (d a off) : Statement (.lwaitOff d a off) := of_task rfl rfl
theorem fencesFull (d scope) : Statement (.fencesFull d scope) := by cases scope <;> exact of_custom0 rfl rfl
theorem fencesAcquire (d scope) : Statement (.fencesAcquire d scope) := by cases scope <;> exact of_custom0 rfl rfl
theorem fencesRelease (d scope) : Statement (.fencesRelease d scope) := by cases scope <;> exact of_custom0 rfl rfl
theorem repb (a len ring) : Statement (.repb a len ring) :=
  of_custom0 rfl (by
    show oif _ (Instr.repb a (fld (ring ++ len : BitVec 5) 0 3) (fld (ring ++ len : BitVec 5) 3 2)) = _
    rw [repb_low, repb_high]; rfl)
theorem trmark (a) : Statement (.trmark a) := of_custom0 rfl rfl
theorem trmarkI (imm) : Statement (.trmarkI imm) := of_task rfl rfl
theorem ctxpre (d a b) : Statement (.ctxpre d a b) := of_custom0 rfl rfl
theorem ctxrel (d a) : Statement (.ctxrel d a) := of_custom0 rfl rfl
theorem mcset (d a b) : Statement (.mcset d a b) := of_custom0 rfl rfl
theorem audapp (d a b) : Statement (.audapp d a b) := of_custom0 rfl rfl
theorem rgnil (d n) : Statement (.rgnil d n) := of_custom1 rfl rfl
theorem rgfull (d a) : Statement (.rgfull d a) := of_custom1 rfl rfl
theorem rgpt (d a b) : Statement (.rgpt d a b) := of_custom1 rfl rfl
theorem rgptI (d a b n e) : Statement (.rgptI d a b n e) := of_region rfl rfl
theorem rgclip (d a b) : Statement (.rgclip d a b) := of_custom1 rfl rfl
theorem rguni (d a b) : Statement (.rguni d a b) := of_custom1 rfl rfl
theorem rgint (d a b) : Statement (.rgint d a b) := of_custom1 rfl rfl
theorem rgsub (d a b) : Statement (.rgsub d a b) := of_custom1 rfl rfl
theorem rgdil (d a b) : Statement (.rgdil d a b) := of_custom1 rfl rfl
theorem rgdilI (d a imm) : Statement (.rgdilI d a imm) := of_region rfl rfl
theorem rgshf (d a b) : Statement (.rgshf d a b) := of_custom1 rfl rfl
theorem rgshfI (d a imm) : Statement (.rgshfI d a imm) := of_region rfl rfl
theorem rgprj (d a b) : Statement (.rgprj d a b) := of_custom1 rfl rfl
theorem rgprjI (d a imm) : Statement (.rgprjI d a imm) := of_region rfl rfl
theorem rgxpd (d a b) : Statement (.rgxpd d a b) := of_custom1 rfl rfl
theorem rgxpdI (d a imm) : Statement (.rgxpdI d a imm) := of_region rfl rfl
theorem rglat (d a b) : Statement (.rglat d a b) := of_custom1 rfl rfl
theorem rglatI (d a imm) : Statement (.rglatI d a imm) := of_region rfl rfl
theorem rgcut (d a b) : Statement (.rgcut d a b) := of_custom1 rfl rfl
theorem rgcutI (d a imm) : Statement (.rgcutI d a imm) := of_region rfl rfl
theorem rgspl (d a b) : Statement (.rgspl d a b) := of_custom1 rfl rfl
theorem rgsplI (d a imm) : Statement (.rgsplI d a imm) := of_region rfl rfl
theorem rgbbox (d a) : Statement (.rgbbox d a) := of_custom1 rfl rfl
theorem rgmv (d a) : Statement (.rgmv d a) := of_custom1 rfl rfl
theorem rgcan (d a) : Statement (.rgcan d a) := of_custom1 rfl rfl
theorem rgld (d a) : Statement (.rgld d a) := of_custom1 rfl rfl
theorem rgldImm (d a imm) : Statement (.rgldImm d a imm) :=
  of_i rfl (by decide) (by decide) fun _ => by
    simp only [decode32Raw, c32i_major, c32i_imm, c32i_a, c32i_f3, c32i_d]; rfl
theorem rgldW64 (d a off) : Statement (.rgldW64 d a off) := of_region rfl rfl
theorem rgst (d a) : Statement (.rgst d a) := of_custom1 rfl rfl
theorem rgstImm (d a imm) : Statement (.rgstImm d a imm) :=
  of_i rfl (by decide) (by decide) fun _ => by
    simp only [decode32Raw, c32i_major, c32i_imm, c32i_a, c32i_f3, c32i_d]; rfl
theorem rgstW64 (d a off) : Statement (.rgstW64 d a off) := of_region rfl rfl
theorem rgcnt (d a) : Statement (.rgcnt d a) := of_custom1 rfl rfl
theorem rgnbx (d a) : Statement (.rgnbx d a) := of_custom1 rfl rfl
theorem rgtst (d a b) : Statement (.rgtst d a b) := of_custom1 rfl rfl
theorem rgeq (d a b) : Statement (.rgeq d a b) := of_custom1 rfl rfl
theorem rgsubs (d a b) : Statement (.rgsubs d a b) := of_custom1 rfl rfl
theorem rgget (d a b) : Statement (.rgget d a b) := of_custom1 rfl rfl
theorem rggetI (d a sel) : Statement (.rggetI d a sel) := of_region rfl (by simp [decRegion, oif, pad7_high, pad7_low])
theorem hld (d a) : Statement (.hld d a) := of_custom3 rfl rfl
theorem hldImm (d a imm) : Statement (.hldImm d a imm) :=
  of_i rfl (by decide) (by decide) fun _ => by
    simp only [decode32Raw, c32i_major, c32i_imm, c32i_a, c32i_f3, c32i_d]; rfl
theorem hldW64 (d a off) : Statement (.hldW64 d a off) := of_transfer rfl rfl
theorem hst (d a) : Statement (.hst d a) := of_custom3 rfl rfl
theorem hstImm (d a imm) : Statement (.hstImm d a imm) :=
  of_i rfl (by decide) (by decide) fun _ => by
    simp only [decode32Raw, c32i_major, c32i_imm, c32i_a, c32i_f3, c32i_d]; rfl
theorem hstW64 (d a off) : Statement (.hstW64 d a off) := of_transfer rfl rfl
theorem hget (d a b) : Statement (.hget d a b) := of_custom3 rfl rfl
theorem hgetI (d a sel) : Statement (.hgetI d a sel) := of_transfer rfl (by simp [decTransfer, oif, pad3_high, pad3_low])
theorem hsetx (d a b) : Statement (.hsetx d a b) := of_custom3 rfl rfl
theorem hsetxI (d a sel) : Statement (.hsetxI d a sel) := of_transfer rfl (by simp [decTransfer, oif, pad3_high, pad3_low])
theorem copy (d a b) : Statement (.copy d a b) := of_custom3 rfl rfl
theorem copyClip (d a b) : Statement (.copyClip d a b) := of_custom3_clip rfl rfl
theorem copyW64 (clip d a b c imm) : Statement (.copyW64 clip d a b c imm) := by cases clip <;> exact of_transfer rfl rfl
theorem copyb (n a b) : Statement (.copyb n a b) := of_custom3 rfl rfl
theorem copybClip (n a b) : Statement (.copybClip n a b) := of_custom3_clip rfl rfl
theorem copybW64 (clip n a b c imm) : Statement (.copybW64 clip n a b c imm) := by cases clip <;> exact of_transfer rfl rfl
theorem copyn (d a b) : Statement (.copyn d a b) := of_custom3 rfl rfl
theorem copynClip (d a b) : Statement (.copynClip d a b) := of_custom3_clip rfl rfl
theorem copynW64 (clip d a b c imm) : Statement (.copynW64 clip d a b c imm) := by cases clip <;> exact of_transfer rfl rfl
theorem getx (d a b) : Statement (.getx d a b) := of_custom3 rfl rfl
theorem getxClip (d a b) : Statement (.getxClip d a b) := of_custom3_clip rfl rfl
theorem getxW64 (clip d a b c imm) : Statement (.getxW64 clip d a b c imm) := by cases clip <;> exact of_transfer rfl rfl
theorem putx (d a b) : Statement (.putx d a b) := of_custom3 rfl rfl
theorem putxClip (d a b) : Statement (.putxClip d a b) := of_custom3_clip rfl rfl
theorem putxW64 (clip d a b c imm) : Statement (.putxW64 clip d a b c imm) := by cases clip <;> exact of_transfer rfl rfl
theorem getr (d a b) : Statement (.getr d a b) := of_custom3 rfl rfl
theorem getrClip (d a b) : Statement (.getrClip d a b) := of_custom3_clip rfl rfl
theorem getrW64 (clip d a b c imm) : Statement (.getrW64 clip d a b c imm) := by cases clip <;> exact of_transfer rfl rfl
theorem putr (d a b) : Statement (.putr d a b) := of_custom3 rfl rfl
theorem putrClip (d a b) : Statement (.putrClip d a b) := of_custom3_clip rfl rfl
theorem putrW64 (clip d a b c imm) : Statement (.putrW64 clip d a b c imm) := by cases clip <;> exact of_transfer rfl rfl
theorem pref (a b) : Statement (.pref a b) := of_custom3 rfl rfl
theorem flushr (d a b) : Statement (.flushr d a b) := of_custom3 rfl rfl
theorem waitg (d a b) : Statement (.waitg d a b) := of_custom3 rfl rfl
theorem tktest (d a) : Statement (.tktest d a) := of_custom3 rfl rfl
theorem qbind (n a b) : Statement (.qbind n a b) := of_custom3 rfl rfl
theorem qacq (d n) : Statement (.qacq d n) := of_custom3 rfl rfl
theorem qpub (n a b) : Statement (.qpub n a b) := of_custom3 rfl rfl
theorem qtake (d n) : Statement (.qtake d n) := of_custom3 rfl rfl
theorem qfree (n a) : Statement (.qfree n a) := of_custom3 rfl rfl
theorem qeos (n) : Statement (.qeos n) := of_custom3 rfl rfl
theorem qstat (d n) : Statement (.qstat d n) := of_custom3 rfl rfl
theorem ldsub (d a b) : Statement (.ldsub d a b) := of_custom3 rfl rfl
theorem lddrn (d a b) : Statement (.lddrn d a b) := of_custom3 rfl rfl
theorem ldcan (d a) : Statement (.ldcan d a) := of_custom3 rfl rfl
theorem vld (t d a) : Statement (.vld t d a) := of_custom2 rfl rfl
theorem vldOff (t d a off) : Statement (.vldOff t d a off) :=
  of_vector rfl (by simp [decVector, oif, ty_code, ty_off, VTy.ofCode_code])
theorem vst (t b a) : Statement (.vst t b a) := of_custom2 rfl rfl
theorem vstOff (t b a off) : Statement (.vstOff t b a off) :=
  of_vector rfl (by simp [decVector, oif, ty_code, ty_off, VTy.ofCode_code])
theorem vlds (t d a c off) : Statement (.vlds t d a c off) :=
  of_vector rfl (by simp [decVector, oif, ty_code, ty_off, VTy.ofCode_code])
theorem vsts (t b a c off) : Statement (.vsts t b a c off) :=
  of_vector rfl (by simp [decVector, oif, ty_code, ty_off, VTy.ofCode_code])
theorem vgath (t d a b) : Statement (.vgath t d a b) := of_custom2 rfl rfl
theorem vgathOff (t d a b off) : Statement (.vgathOff t d a b off) :=
  of_vector rfl (by simp [decVector, oif, ty_code, ty_off, VTy.ofCode_code])
theorem vscat (t d a b) : Statement (.vscat t d a b) := of_custom2 rfl rfl
theorem vscatOff (t d a b off) : Statement (.vscatOff t d a b off) :=
  of_vector rfl (by simp [decVector, oif, ty_code, ty_off, VTy.ofCode_code])
theorem vbcast (t d a) : Statement (.vbcast t d a) := of_custom2 rfl rfl
theorem vmvx (t d a) : Statement (.vmvx t d a) := of_custom2 rfl rfl
theorem vmvxLane (t d a lane) : Statement (.vmvxLane t d a lane) :=
  of_vector rfl (by
    simp [decVector, oif, ty_code, VTy.ofCode_code]
    exact ⟨lane_pad _ _, lane_low _ _⟩)
theorem vmvv (t d a) : Statement (.vmvv t d a) := of_custom2 rfl rfl
theorem vadd (t d a b) : Statement (.vadd t d a b) := of_custom2 rfl rfl
theorem vaddVx (t d a b) : Statement (.vaddVx t d a b) := of_custom2 rfl rfl
theorem vsub (t d a b) : Statement (.vsub t d a b) := of_custom2 rfl rfl
theorem vsubVx (t d a b) : Statement (.vsubVx t d a b) := of_custom2 rfl rfl
theorem vmul (t d a b) : Statement (.vmul t d a b) := of_custom2 rfl rfl
theorem vmulVx (t d a b) : Statement (.vmulVx t d a b) := of_custom2 rfl rfl
theorem vfma (t d a b) : Statement (.vfma t d a b) := of_custom2 rfl rfl
theorem vfmaVx (t d a b) : Statement (.vfmaVx t d a b) := of_custom2 rfl rfl
theorem vfms (t d a b) : Statement (.vfms t d a b) := of_custom2 rfl rfl
theorem vfmsVx (t d a b) : Statement (.vfmsVx t d a b) := of_custom2 rfl rfl
theorem vmin (t d a b) : Statement (.vmin t d a b) := of_custom2 rfl rfl
theorem vminVx (t d a b) : Statement (.vminVx t d a b) := of_custom2 rfl rfl
theorem vmax (t d a b) : Statement (.vmax t d a b) := of_custom2 rfl rfl
theorem vmaxVx (t d a b) : Statement (.vmaxVx t d a b) := of_custom2 rfl rfl
theorem vabs (t d a) : Statement (.vabs t d a) := of_custom2 rfl rfl
theorem vneg (t d a) : Statement (.vneg t d a) := of_custom2 rfl rfl
theorem vand (t d a b) : Statement (.vand t d a b) := of_custom2 rfl rfl
theorem vandVx (t d a b) : Statement (.vandVx t d a b) := of_custom2 rfl rfl
theorem vor (t d a b) : Statement (.vor t d a b) := of_custom2 rfl rfl
theorem vorVx (t d a b) : Statement (.vorVx t d a b) := of_custom2 rfl rfl
theorem vxor (t d a b) : Statement (.vxor t d a b) := of_custom2 rfl rfl
theorem vxorVx (t d a b) : Statement (.vxorVx t d a b) := of_custom2 rfl rfl
theorem vsll (t d a b) : Statement (.vsll t d a b) := of_custom2 rfl rfl
theorem vsllVx (t d a b) : Statement (.vsllVx t d a b) := of_custom2 rfl rfl
theorem vsrl (t d a b) : Statement (.vsrl t d a b) := of_custom2 rfl rfl
theorem vsrlVx (t d a b) : Statement (.vsrlVx t d a b) := of_custom2 rfl rfl
theorem vsra (t d a b) : Statement (.vsra t d a b) := of_custom2 rfl rfl
theorem vsraVx (t d a b) : Statement (.vsraVx t d a b) := of_custom2 rfl rfl
theorem vcmp (t vx d a b cond) : Statement (.vcmp t vx d a b cond) :=
  of_vector rfl (by simp [decVector, oif, ty_code, ty_off, VTy.ofCode_code])
theorem vsel (t d a b) : Statement (.vsel t d a b) := of_custom2 rfl rfl
theorem vselVx (t d a b) : Statement (.vselVx t d a b) := of_custom2 rfl rfl
theorem vcvt (t d a b) : Statement (.vcvt t d a b) := of_custom2 rfl rfl
theorem vcvtW64 (t sz d a src p) : Statement (.vcvtW64 t sz d a src p) :=
  of_vector rfl (by
    simp [decVector, oif, ty_code, VTy.ofCode_code, src_low]
    exact ⟨⟨src_bit src, part_pad _ _⟩, part_low _ _⟩)
theorem vrsum (t d a) : Statement (.vrsum t d a) := of_custom2 rfl rfl
theorem vrmax (t d a) : Statement (.vrmax t d a) := of_custom2 rfl rfl
theorem vrmin (t d a) : Statement (.vrmin t d a) := of_custom2 rfl rfl
theorem vexp2 (t d a) : Statement (.vexp2 t d a) := of_custom2 rfl rfl
theorem vlog2 (t d a) : Statement (.vlog2 t d a) := of_custom2 rfl rfl
theorem vrcp (t d a) : Statement (.vrcp t d a) := of_custom2 rfl rfl
theorem vrsqrt (t d a) : Statement (.vrsqrt t d a) := of_custom2 rfl rfl
theorem vsqrt (t d a) : Statement (.vsqrt t d a) := of_custom2 rfl rfl
theorem vdot (t d a b) : Statement (.vdot t d a b) := of_custom2 rfl rfl
theorem vperm (t d a b) : Statement (.vperm t d a b) := of_custom2 rfl rfl
theorem vslideVx (t d a b) : Statement (.vslideVx t d a b) := of_custom2 rfl rfl
theorem vslideI (t d a amt) : Statement (.vslideI t d a amt) :=
  of_vector rfl (by simp [decVector, oif, ty_code, ty_off, VTy.ofCode_code])
theorem vcompr (t d a) : Statement (.vcompr t d a) := of_custom2 rfl rfl
theorem vexpnd (t d a) : Statement (.vexpnd t d a) := of_custom2 rfl rfl
theorem viota (t d) : Statement (.viota t d) := of_custom2 rfl rfl
theorem vztst (t d a) : Statement (.vztst t d a) := of_custom2 rfl rfl
theorem vscl (t e5 d a b) : Statement (.vscl t e5 d a b) := by
  cases e5
  · exact of_custom2 rfl rfl
  · exact of_vector rfl (by simp [decVector, oif, ty_code, ty_off, VTy.ofCode_code])
theorem vsclVx (t e5 d a b) : Statement (.vsclVx t e5 d a b) := by
  cases e5
  · exact of_custom2 rfl rfl
  · exact of_vector rfl (by simp [decVector, oif, ty_code, ty_off, VTy.ofCode_code])
theorem vqnt (fmt amax p d a b c) : Statement (.vqnt fmt amax p d a b c) :=
  of_vector rfl (by
    simp [decVector, oif, ty_code, VTy.ofCode_code]
    exact ⟨qnt_pad _ _ _, qnt_bit _ _ _, qnt_low _ _ _⟩)
theorem vmask (a) : Statement (.vmask a) := of_custom2 rfl rfl
theorem kand (d a b) : Statement (.kand d a b) := of_custom2 rfl rfl
theorem kor (d a b) : Statement (.kor d a b) := of_custom2 rfl rfl
theorem knot (d a) : Statement (.knot d a) := of_custom2 rfl rfl
theorem kmvToMask (d a) : Statement (.kmvToMask d a) := of_custom2 rfl rfl
theorem kmvFromMask (d a) : Statement (.kmvFromMask d a) := of_custom2 rfl rfl
theorem mfmt (a) : Statement (.mfmt a) := of_matrix rfl rfl
theorem mupld (a b) : Statement (.mupld a b) := of_matrix rfl rfl
theorem mma (z d a b k8 m n) : Statement (.mma z d a b k8 m n) :=
  by cases z <;> exact of_matrix rfl (by simp [decMatrix, oif, mma_pad, mma_high, mma_low, szOf])
theorem mmag (z d a b k8 m n) : Statement (.mmag z d a b k8 m n) :=
  by cases z <;> exact of_matrix rfl (by simp [decMatrix, oif, mma_pad, mma_high, mma_low, szOf])
theorem mrec (z d a b k8 m n) : Statement (.mrec z d a b k8 m n) :=
  by cases z <;> exact of_matrix rfl (by simp [decMatrix, oif, mma_pad, mma_high, mma_low, szOf])
theorem mzero (d cnt) : Statement (.mzero d cnt) := of_matrix rfl (by simp [decMatrix, oif, pad3_high, pad3_low])
theorem mtzero (d cnt) : Statement (.mtzero d cnt) := of_matrix rfl (by simp [decMatrix, oif, pad4_high, pad4_low])
theorem mtmov (d a cnt) : Statement (.mtmov d a cnt) := of_matrix rfl (by simp [decMatrix, oif, pad4_high, pad4_low])
theorem mztst (d a fmt) : Statement (.mztst d a fmt) := of_matrix rfl (by simp [decMatrix, oif, pad4_high, pad4_low])
theorem mtrn (e d a) : Statement (.mtrn e d a) := of_matrix rfl rfl
theorem mrel (acc d) : Statement (.mrel acc d) := by cases acc <;> exact of_matrix rfl rfl
theorem mext (d a row seg) : Statement (.mext d a row seg) :=
  of_matrix rfl (by simp [decMatrix, oif, mext_pad, mext_high, mext_low])
theorem mins (d a row seg) : Statement (.mins d a row seg) :=
  of_matrix rfl (by simp [decMatrix, oif, mext_pad, mext_high, mext_low])
theorem mlda (f d a) : Statement (.mlda f d a) := of_matrix rfl rfl
theorem msta (f d a) : Statement (.msta f d a) := of_matrix rfl rfl
theorem mqnt (fmt d a b c soff eoff) : Statement (.mqnt fmt d a b c soff eoff) :=
  of_matrix rfl (by simp [decMatrix, oif, mqnt_pad, mqnt_high, mqnt_low])
theorem mscl (f d a) : Statement (.mscl f d a) := of_matrix rfl rfl
theorem mbias (f d a) : Statement (.mbias f d a) := of_matrix rfl rfl
theorem mapplyRelu (d) : Statement (.mapplyRelu d) := of_matrix rfl rfl
theorem mapplyMicro (d) : Statement (.mapplyMicro d) := of_matrix rfl rfl
theorem mred (f d a row) : Statement (.mred f d a row) := of_matrix rfl (by simp [decMatrix, oif, pad7_high, pad7_low])
theorem integerAlu (op) : Statement (.integerAlu op) := alu op
theorem controlTransfer (op) : Statement (.controlTransfer op) := ct op
theorem wfi : Statement .wfi := of_i rfl (by decide) (by decide) fun _ => raw_system ..
theorem sret : Statement .sret := of_i rfl (by decide) (by decide) fun _ => raw_system ..
theorem mret : Statement .mret := of_i rfl (by decide) (by decide) fun _ => raw_system ..
theorem tyield : Statement .tyield := of_custom0 rfl rfl
theorem trtrig : Statement .trtrig := of_custom0 rfl rfl
theorem msync : Statement .msync := of_matrix rfl rfl
theorem coldReset (nonce) : Statement (.coldReset nonce) := of_event rfl rfl
theorem warmReset : Statement .warmReset := of_event rfl rfl
theorem recoveryGo : Statement .recoveryGo := of_event rfl rfl
theorem powerSample (mw) : Statement (.powerSample mw) := of_event rfl rfl
theorem dutyStep : Statement .dutyStep := of_event rfl rfl
theorem sensorSample (die sensor celsius) : Statement (.sensorSample die sensor celsius) := of_event rfl rfl
theorem measExtend (n d) : Statement (.measExtend n d) := of_event rfl rfl
theorem quoteRequest (nonce) : Statement (.quoteRequest nonce) := of_event rfl rfl
theorem quoteSigned : Statement .quoteSigned := of_event rfl rfl
theorem fuseCounterAdvance (v) : Statement (.fuseCounterAdvance v) := of_event rfl rfl
theorem fuseBlow : Statement .fuseBlow := of_event rfl rfl
theorem retranslationComplete : Statement .retranslationComplete := of_event rfl rfl
theorem auditAppend (kind source asid payload) : Statement (.auditAppend kind source asid payload) := of_event rfl rfl
theorem segmentSeal : Statement .segmentSeal := of_event rfl rfl
theorem spillWriteComplete : Statement .spillWriteComplete := of_event rfl rfl
theorem spillAck (seg) : Statement (.spillAck seg) := of_event rfl rfl
theorem overflowAreaSet (base port k) : Statement (.overflowAreaSet base port k) := of_event rfl rfl
theorem ownerCreate : Statement .ownerCreate := of_call rfl rfl
theorem ownerDestroy : Statement .ownerDestroy := of_call rfl rfl
theorem frameSet : Statement .frameSet := of_call rfl rfl
theorem tenantCreate : Statement .tenantCreate := of_call rfl rfl
theorem tenantSet : Statement .tenantSet := of_call rfl rfl
theorem tenantDestroy : Statement .tenantDestroy := of_call rfl rfl
theorem ctxCreate : Statement .ctxCreate := of_call rfl rfl
theorem portOpen : Statement .portOpen := of_call rfl rfl
theorem portClose : Statement .portClose := of_call rfl rfl
theorem apertureMap : Statement .apertureMap := of_call rfl rfl
theorem objTranslate : Statement .objTranslate := of_call rfl rfl
theorem objUnload : Statement .objUnload := of_call rfl rfl
theorem stageSet : Statement .stageSet := of_call rfl rfl
theorem taskFault : Statement .taskFault := of_call rfl rfl
theorem vaultSet : Statement .vaultSet := of_call rfl rfl
theorem launch (port page rec) : Statement (.launch port page rec) := of_event rfl rfl
theorem launchPortDmwrOther (port page off len) : Statement (.launchPortDmwrOther port page off len) := of_event rfl rfl
theorem launchPortPostedWrite (port page off data) : Statement (.launchPortPostedWrite port page off data) := of_event rfl rfl
theorem argsReadComplete (id) : Statement (.argsReadComplete id) := of_event rfl rfl
theorem launchSubmit (id) : Statement (.launchSubmit id) := of_event rfl rfl
theorem launchDone (id) : Statement (.launchDone id) := of_event rfl rfl
theorem apertureWrite (port page off data) : Statement (.apertureWrite port page off data) := of_event rfl rfl
theorem apertureRead (port page off len) : Statement (.apertureRead port page off len) := of_event rfl rfl
theorem hostLinkDown (port) : Statement (.hostLinkDown port) := of_event rfl rfl
theorem hostLinkUp (port cxl) : Statement (.hostLinkUp port cxl) := of_event rfl rfl
theorem hostCompletionTimeout (req) : Statement (.hostCompletionTimeout req) := of_event rfl rfl
theorem hostErrorCompletion (req k) : Statement (.hostErrorCompletion req k) := of_event rfl rfl
theorem atomicopCompletion (req) : Statement (.atomicopCompletion req) := of_event rfl rfl
theorem zeroLengthReadComplete (req) : Statement (.zeroLengthReadComplete req) := of_event rfl rfl
theorem dieLinkReplay (edge good) : Statement (.dieLinkReplay edge good) := of_event rfl rfl
theorem dieLinkIdleTimeout (edge) : Statement (.dieLinkIdleTimeout edge) := of_event rfl rfl
theorem netPortDown (port) : Statement (.netPortDown port) := of_event rfl rfl
theorem retransmissionLimit (t) : Statement (.retransmissionLimit t) := of_event rfl rfl
theorem putArrive (port sq off data) : Statement (.putArrive port sq off data) := of_event rfl rfl
theorem putAck (t refused) : Statement (.putAck t refused) := of_event rfl rfl
theorem getRequest (port sq off len) : Statement (.getRequest port sq off len) := of_event rfl rfl
theorem getData (t refused data) : Statement (.getData t refused data) := of_event rfl rfl
theorem homeRead (m) : Statement (.homeRead m) := of_event rfl rfl
theorem l2MissFill (m) : Statement (.l2MissFill m) := of_event rfl rfl
theorem homeOwn (m) : Statement (.homeOwn m) := of_event rfl rfl
theorem homeWrite (m) : Statement (.homeWrite m) := of_event rfl rfl
theorem homeEngineRead (m) : Statement (.homeEngineRead m) := of_event rfl rfl
theorem recallArrive (m) : Statement (.recallArrive m) := of_event rfl rfl
theorem recallReply (m) : Statement (.recallReply m) := of_event rfl rfl
theorem ownedEviction (h key) : Statement (.ownedEviction h key) := of_event rfl rfl
theorem readReply (m) : Statement (.readReply m) := of_event rfl rfl
theorem ownershipReply (m) : Statement (.ownershipReply m) := of_event rfl rfl
theorem postedStoreAck (m) : Statement (.postedStoreAck m) := of_event rfl rfl
theorem vaultAccess (m) : Statement (.vaultAccess m) := of_event rfl rfl
theorem driftTick (h) : Statement (.driftTick h) := of_event rfl rfl
theorem rebaseStep (die) : Statement (.rebaseStep die) := of_event rfl rfl
theorem rebaseFloorReceive (die home) : Statement (.rebaseFloorReceive die home) := of_event rfl rfl
theorem rebaseComplete (die) : Statement (.rebaseComplete die) := of_event rfl rfl
theorem renewalHoldExpiry (home k) : Statement (.renewalHoldExpiry home k) := of_event rfl rfl
theorem vaultWatchExpiry (q k) : Statement (.vaultWatchExpiry q k) := of_event rfl rfl
theorem hostLineFetch (port line) : Statement (.hostLineFetch port line) := of_event rfl rfl
theorem hostSnoop (port line take) : Statement (.hostSnoop port line take) := of_event rfl rfl
theorem snoopHoldExpiry (port line) : Statement (.snoopHoldExpiry port line) := of_event rfl rfl
theorem hostAmoCompletion (req) : Statement (.hostAmoCompletion req) := of_event rfl rfl
theorem replyTimeout (agent) : Statement (.replyTimeout agent) := of_event rfl rfl
theorem deadAgentDeclaration (agent) : Statement (.deadAgentDeclaration agent) := of_event rfl rfl
theorem declarationReceive (home agent) : Statement (.declarationReceive home agent) := of_event rfl rfl
theorem patrolPass (stack) : Statement (.patrolPass stack) := of_event rfl rfl
theorem dispatchPairing (die) : Statement (.dispatchPairing die) := of_event rfl rfl
theorem gangStart (k) : Statement (.gangStart k) := of_event rfl rfl
theorem taskStart (h) : Statement (.taskStart h) := of_event rfl rfl
theorem packageArbiterMove (die) : Statement (.packageArbiterMove die) := of_event rfl rfl
theorem reservePreemption (die) : Statement (.reservePreemption die) := of_event rfl rfl
theorem decrement (k) : Statement (.decrement k) := of_event rfl rfl
theorem withdraw (k) : Statement (.withdraw k) := of_event rfl rfl
theorem rebalanceEvaluation (die) : Statement (.rebalanceEvaluation die) := of_event rfl rfl
theorem parkWake (h) : Statement (.parkWake h) := of_event rfl rfl
theorem parkReclaim (h) : Statement (.parkReclaim h) := of_event rfl rfl
theorem budgetExhausted (h) : Statement (.budgetExhausted h) := of_event rfl rfl
theorem interruptTaken (h) : Statement (.interruptTaken h) := of_event rfl rfl
theorem stopRequest (h) : Statement (.stopRequest h) := of_event rfl rfl
theorem saveComplete (h) : Statement (.saveComplete h) := of_event rfl rfl
theorem contextDrain (c) : Statement (.contextDrain c) := of_event rfl rfl
theorem resume (h) : Statement (.resume h) := of_event rfl rfl
theorem imageLineFill (c slot reg) : Statement (.imageLineFill c slot reg) := of_event rfl rfl
theorem pageWalkComplete (w) : Statement (.pageWalkComplete w) := of_event rfl rfl
theorem transferSegment (q) : Statement (.transferSegment q) := of_event rfl rfl
theorem transferComplete (t) : Statement (.transferComplete t) := of_event rfl rfl
theorem portRequest (q) : Statement (.portRequest q) := of_event rfl rfl
theorem streamTransferStart (t) : Statement (.streamTransferStart t) := of_event rfl rfl
theorem streamSlotFill (t) : Statement (.streamSlotFill t) := of_event rfl rfl
theorem streamSlotDrain (t) : Statement (.streamSlotDrain t) := of_event rfl rfl
theorem matrixAccept (q) : Statement (.matrixAccept q) := of_event rfl rfl
theorem matrixComplete (q) : Statement (.matrixComplete q) := of_event rfl rfl
theorem repbLaneIssue (h) : Statement (.repbLaneIssue h) := of_event rfl rfl
theorem scrubStart (c) : Statement (.scrubStart c) := of_event rfl rfl
theorem scrubQuadComplete (c q) : Statement (.scrubQuadComplete c q) := of_event rfl rfl
theorem messageDeliver (k) : Statement (.messageDeliver k) := of_event rfl rfl
theorem netPortUp (port) : Statement (.netPortUp port) := of_event rfl rfl
theorem hostReadCompletion (req) : Statement (.hostReadCompletion req) := of_event rfl rfl
theorem atomicopAsCompleter (port) : Statement (.atomicopAsCompleter port) := of_event rfl rfl
theorem otherDmwr (port addr) : Statement (.otherDmwr port addr) := of_event rfl rfl

end Sys2Proof.Laws.RoundTrip
end

