-- ==== Sys2Proof/Safety.lean ====
section
/-! DEFINITION. What counts as a safe run, in the terms that the statements use: a step that answers a next state, a memory in
canonical form, and registers that an instruction need not wait for. -/

namespace Sys2Proof.Safety

open Sys2Proof.Machine

/-- The meaning answers a next state. -/
def Runs (r : Result) : Prop := ∃ t : State, r = .next t

/-- The bytes of memory are in canonical form. -/
def MemOk (s : State) : Prop := Memory.wf s.mem = true

end Sys2Proof.Safety

namespace Sys2Proof.Machine

/-- The same state, with an entry for the current hart. -/
def State.here (s : State) : State := s.modMe (fun h => h)

/-- An instruction of the current hart can execute at once: the hart has its entry in the table of harts (a step gives it one before
it executes), and the registers that the instruction names are free: no x register among them is a token in flight or one that has not
been joined, none is still to be written by the matrix engine or by a repetition block (R168, R190, R202). -/
def State.Free (s : State) (xs vs : List Reg) : Prop :=
  s.here = s
    ∧ (∀ r ∈ xs, r ≠ 0 → s.me.xBusy r.toNat = false ∧ (s.me.token r.toNat).unjoined = false ∧ (s.me.token r.toNat).fpend = false)
    ∧ ∀ r ∈ vs, s.me.vBusy r.toNat = false

/-- The lazily filled registers that an instruction names are resident (R175); codes 0 to 31 are vector, 32 to 47 region, 48 to 63
handle registers. -/
def State.Resident (s : State) (codes : List Nat) : Prop := ∀ c ∈ codes, s.resident c = true

/-- The state after a taken control transfer that links to `rd` (x0: no link): the exception of R166 when the target is not aligned. -/
def State.jump (s : State) (target : Word) (rd : Reg) (link : Word) : State :=
  if target.toNat % 4 ≠ 0 then s.trap 0 target
  else s.modMe (fun h => ((({ h with npc := target } : Hart).record s.cycle 1 1 target).wx rd link).retire)

/-- The state in which an atomic is performed: after the release of its rl bit, if it has one (R272). -/
def State.releasedBy (s : State) (rl : Bool) : State := if rl then s.modMe (fun h => h.raise h.ackTime) else s

/-- The state after an instruction that writes a region register and completes (R374). -/
def State.withRegion (s : State) (d : Reg) (r : Region) : State := (s.putRegion d r).modMe Hart.retire

/-- The coordinate x lies in the box b: inside the bounds in every dimension (R369). -/
def inBox (b : Box) (x : List Int) : Bool := (b.zip x).all (fun e => decide (e.1.1 ≤ e.2) && decide (e.2 < e.1.2))

/-- The coordinate x lies on the lattice l: congruent to the phase modulo the step in every dimension (R369). -/
def onLattice (l : Lattice) (x : List Int) : Bool := (l.zip x).all (fun e => (e.2 - e.1.2) % 2 ^ e.1.1 == 0)

/-- The box with its bounds clamped (R369). -/
def clampBox (b : Box) : Box := b.map (fun e => (clampBound e.1, clampBound e.2))

/-- The transfer instructions and the operation each names (R404, R409 to R412, R414, R420, R422). In the C32 forms b names the
destination, h(b + 1) the source and h(b + 2) the index of GETX and PUTX; for COPYN, FLUSHR and LDSUB b names the source. The W64
forms take their ends from b, c and imm24. -/
inductive TransferForm : Instr → XSpec → Prop
  | copy (d a b : Reg) : TransferForm (.copy d a b) (.c32 .copy false d a b)
  | copyClip (d a b : Reg) : TransferForm (.copyClip d a b) (.c32 .copy true d a b)
  | copyW64 (k : Bool) (d a b c : Reg) (m : BitVec 24) : TransferForm (.copyW64 k d a b c m) (.w64 .copy k d a b c m)
  | copyb (d a b : Reg) : TransferForm (.copyb d a b) (.c32 .copyb false d a b)
  | copybClip (d a b : Reg) : TransferForm (.copybClip d a b) (.c32 .copyb true d a b)
  | copybW64 (k : Bool) (d a b c : Reg) (m : BitVec 24) : TransferForm (.copybW64 k d a b c m) (.w64 .copyb k d a b c m)
  | copyn (d a b : Reg) :
      TransferForm (.copyn d a b) { kind := .copyn, d := d, g := a, dst := .net, src := .h b.toNat, clip := false }
  | copynClip (d a b : Reg) :
      TransferForm (.copynClip d a b) { kind := .copyn, d := d, g := a, dst := .net, src := .h b.toNat, clip := true }
  | copynW64 (k : Bool) (d a b c : Reg) (m : BitVec 24) :
      TransferForm (.copynW64 k d a b c m) { XSpec.w64 .copyn k d a b c m with dst := .net }
  | getx (d a b : Reg) : TransferForm (.getx d a b) (.c32 .getx false d a b)
  | getxClip (d a b : Reg) : TransferForm (.getxClip d a b) (.c32 .getx true d a b)
  | getxW64 (k : Bool) (d a b c : Reg) (m : BitVec 24) : TransferForm (.getxW64 k d a b c m) (.w64 .getx k d a b c m)
  | putx (d a b : Reg) : TransferForm (.putx d a b) (.c32 .putx false d a b)
  | putxClip (d a b : Reg) : TransferForm (.putxClip d a b) (.c32 .putx true d a b)
  | putxW64 (k : Bool) (d a b c : Reg) (m : BitVec 24) : TransferForm (.putxW64 k d a b c m) (.w64 .putx k d a b c m)
  | getr (d a b : Reg) : TransferForm (.getr d a b) (.c32 .getr false d a b)
  | getrClip (d a b : Reg) : TransferForm (.getrClip d a b) (.c32 .getr true d a b)
  | getrW64 (k : Bool) (d a b c : Reg) (m : BitVec 24) : TransferForm (.getrW64 k d a b c m) (.w64 .getr k d a b c m)
  | putr (d a b : Reg) : TransferForm (.putr d a b) (.c32 .putr false d a b)
  | putrClip (d a b : Reg) : TransferForm (.putrClip d a b) (.c32 .putr true d a b)
  | putrW64 (k : Bool) (d a b c : Reg) (m : BitVec 24) : TransferForm (.putrW64 k d a b c m) (.w64 .putr k d a b c m)
  | flushr (d a b : Reg) : TransferForm (.flushr d a b) { kind := .flushr, d := d, g := a, dst := .none, src := .h b.toNat }
  | ldsub (d a b : Reg) : TransferForm (.ldsub d a b) { kind := .ldsub, d := d, g := a, dst := .none, src := .h b.toNat }
  | lddrn (d a b : Reg) : TransferForm (.lddrn d a b) { kind := .lddrn, d := d, g := a, dst := .h b.toNat, src := .none }

/-- A vector or mask instruction can execute at once: the registers it names are free and resident, and no repetition block still writes
a mask register among `ks` (R190, R202). -/
def State.VReady (s : State) (xs vs : List Reg) (ks : List Nat) : Prop :=
  s.Free xs vs ∧ s.Resident (vs.map codeV) ∧ s.me.laneHolds ks [] = false

/-- The state after a vector register is written (R289, R294, R426). -/
def State.vdone (s : State) (d : Reg) (l : Line) (fl : Nat) (rounds : Bool) : State :=
  if rounds then ((s.vset d l).orFlags fl).advanceSeed else (s.vset d l).orFlags fl

/-- V[d] when its active lanes take the values of f and the others keep theirs (R424). -/
def State.laneLine (s : State) (t : VTy) (d : Reg) (f : Nat → Nat × Nat) : Line := ofLanes t.bits (mapLanes s.mask f 0 (s.elems t d)).1

/-- The flags of the active lanes. -/
def State.laneFlags (s : State) (t : VTy) (d : Reg) (f : Nat → Nat × Nat) : Nat := (mapLanes s.mask f 0 (s.elems t d)).2

/-- Arithmetic counts its active lanes in its task (R132). -/
def State.countLanes (s : State) (t : VTy) (arith : Bool) : State :=
  if arith then s.tally s.me.task (fun k => { k with flops := k.flops + (s.activeLanes t).length }) else s

/-- The lane-wise instructions of two operands (R435, R441): the operation on each lane, whether it rounds, whether it is arithmetic,
and whether its second operand is X[b]. -/
inductive LaneForm : Instr → VTy → Reg → Reg → Reg → LaneOp → Bool → Bool → Bool → Prop
  | vadd (t : VTy) (d a b : Reg) : LaneForm (.vadd t d a b) t d a b (opAdd t) (!t.isInt) true false
  | vaddVx (t : VTy) (d a b : Reg) : LaneForm (.vaddVx t d a b) t d a b (opAdd t) (!t.isInt) true true
  | vsub (t : VTy) (d a b : Reg) : LaneForm (.vsub t d a b) t d a b (opSub t) (!t.isInt) true false
  | vsubVx (t : VTy) (d a b : Reg) : LaneForm (.vsubVx t d a b) t d a b (opSub t) (!t.isInt) true true
  | vmul (t : VTy) (d a b : Reg) : LaneForm (.vmul t d a b) t d a b (opMul t) (!t.isInt) true false
  | vmulVx (t : VTy) (d a b : Reg) : LaneForm (.vmulVx t d a b) t d a b (opMul t) (!t.isInt) true true
  | vfma (t : VTy) (d a b : Reg) : LaneForm (.vfma t d a b) t d a b (opFma t) (!t.isInt) true false
  | vfmaVx (t : VTy) (d a b : Reg) : LaneForm (.vfmaVx t d a b) t d a b (opFma t) (!t.isInt) true true
  | vfms (t : VTy) (d a b : Reg) : LaneForm (.vfms t d a b) t d a b (opFms t) (!t.isInt) true false
  | vfmsVx (t : VTy) (d a b : Reg) : LaneForm (.vfmsVx t d a b) t d a b (opFms t) (!t.isInt) true true
  | vmin (t : VTy) (d a b : Reg) : LaneForm (.vmin t d a b) t d a b (opMin t) false true false
  | vminVx (t : VTy) (d a b : Reg) : LaneForm (.vminVx t d a b) t d a b (opMin t) false true true
  | vmax (t : VTy) (d a b : Reg) : LaneForm (.vmax t d a b) t d a b (opMax t) false true false
  | vmaxVx (t : VTy) (d a b : Reg) : LaneForm (.vmaxVx t d a b) t d a b (opMax t) false true true
  | vand (t : VTy) (d a b : Reg) : LaneForm (.vand t d a b) t d a b opAnd false false false
  | vandVx (t : VTy) (d a b : Reg) : LaneForm (.vandVx t d a b) t d a b opAnd false false true
  | vor (t : VTy) (d a b : Reg) : LaneForm (.vor t d a b) t d a b opOr false false false
  | vorVx (t : VTy) (d a b : Reg) : LaneForm (.vorVx t d a b) t d a b opOr false false true
  | vxor (t : VTy) (d a b : Reg) : LaneForm (.vxor t d a b) t d a b opXor false false false
  | vxorVx (t : VTy) (d a b : Reg) : LaneForm (.vxorVx t d a b) t d a b opXor false false true
  | vsll (t : VTy) (d a b : Reg) : LaneForm (.vsll t d a b) t d a b (opSll t) false false false
  | vsllVx (t : VTy) (d a b : Reg) : LaneForm (.vsllVx t d a b) t d a b (opSll t) false false true
  | vsrl (t : VTy) (d a b : Reg) : LaneForm (.vsrl t d a b) t d a b (opSrl t) false false false
  | vsrlVx (t : VTy) (d a b : Reg) : LaneForm (.vsrlVx t d a b) t d a b (opSrl t) false false true
  | vsra (t : VTy) (d a b : Reg) : LaneForm (.vsra t d a b) t d a b (opSra t) false false false
  | vsraVx (t : VTy) (d a b : Reg) : LaneForm (.vsraVx t d a b) t d a b (opSra t) false false true
  | vscl (t : VTy) (e5 : Bool) (d a b : Reg) : LaneForm (.vscl t e5 d a b) t d a b
      (fun r x y _ => scaleElem (if e5 then .e5m2 else fmtOf t) r x (y % 256)) true false false
  | vsclVx (t : VTy) (e5 : Bool) (d a b : Reg) : LaneForm (.vsclVx t e5 d a b) t d a b
      (fun r x y _ => scaleElem (if e5 then .e5m2 else fmtOf t) r x (y % 256)) true false true

/-- The lane-wise instructions of one operand (R436, R445, R446). -/
inductive LaneForm1 : Instr → VTy → Reg → Reg → (Rounding → Nat → Nat × Nat) → Bool → Bool → Prop
  | vabs (t : VTy) (d a : Reg) : LaneForm1 (.vabs t d a) t d a (opAbs t) false true
  | vneg (t : VTy) (d a : Reg) : LaneForm1 (.vneg t d a) t d a (opNeg t) false true
  | vexp2 (t : VTy) (d a : Reg) : LaneForm1 (.vexp2 t d a) t d a (fun r x => approx .exp2 (fmtOf t) r x) (t != .f32) false
  | vlog2 (t : VTy) (d a : Reg) : LaneForm1 (.vlog2 t d a) t d a (fun r x => approx .log2 (fmtOf t) r x) (t != .f32) false
  | vrcp (t : VTy) (d a : Reg) : LaneForm1 (.vrcp t d a) t d a (fun r x => approx .rcp (fmtOf t) r x) (t != .f32) false
  | vrsqrt (t : VTy) (d a : Reg) : LaneForm1 (.vrsqrt t d a) t d a (fun r x => approx .rsqrt (fmtOf t) r x) (t != .f32) false
  | vsqrt (t : VTy) (d a : Reg) : LaneForm1 (.vsqrt t d a) t d a (fun r x => approx .sqrt (fmtOf t) r x) true false

/-- The requests that matrix instructions issue (R457 to R474). -/
inductive MatrixForm : Instr → MSpec → Prop
  | mfmt (a : Reg) : MatrixForm (.mfmt a) (mfmtI a)
  | mupld (a b : Reg) : MatrixForm (.mupld a b) (mupldI a b)
  | mma (z : Bool) (d a b k8 : Reg) (m : BitVec 9) (n : BitVec 10) : MatrixForm (.mma z d a b k8 m n) (mmaI z d a b k8 m n)
  | mmag (z : Bool) (d a b k8 : Reg) (m : BitVec 9) (n : BitVec 10) : MatrixForm (.mmag z d a b k8 m n) (mmagI z d a b k8 m n)
  | mrec (z : Bool) (d a b k8 : Reg) (m : BitVec 9) (n : BitVec 10) : MatrixForm (.mrec z d a b k8 m n) (mrecI z d a b k8 m n)
  | mzero (d : Reg) (cnt : BitVec 3) : MatrixForm (.mzero d cnt) (mzeroI d cnt)
  | mtzero (d : Reg) (cnt : BitVec 4) : MatrixForm (.mtzero d cnt) (mtzeroI d cnt)
  | mtmov (d a : Reg) (cnt : BitVec 4) : MatrixForm (.mtmov d a cnt) (mtmovI d a cnt)
  | mztst (d a : Reg) (f : BitVec 4) : MatrixForm (.mztst d a f) (mztstI d a f)
  | mtrn (e : BitVec 2) (d a : Reg) : MatrixForm (.mtrn e d a) (mtrnI e d a)
  | mrel (acc : Bool) (d : Reg) : MatrixForm (.mrel acc d) (mrelI acc d)
  | mext (d a : Reg) (row : BitVec 7) (seg : BitVec 3) : MatrixForm (.mext d a row seg) (mextI d a row seg)
  | mins (d a : Reg) (row : BitVec 7) (seg : BitVec 3) : MatrixForm (.mins d a row seg) (minsI d a row seg)
  | mlda (f : BitVec 2) (d a : Reg) : MatrixForm (.mlda f d a) (mldaI f d a)
  | msta (f : BitVec 2) (d a : Reg) : MatrixForm (.msta f d a) (mstaI f d a)
  | mqnt (f : BitVec 2) (d a b c : Reg) (soff : BitVec 3) (eoff : BitVec 2) :
      MatrixForm (.mqnt f d a b c soff eoff) (mqntI f d a b c soff eoff)
  | mscl (f : BitVec 2) (d a : Reg) : MatrixForm (.mscl f d a) (msclI f d a)
  | mbias (f : BitVec 2) (d a : Reg) : MatrixForm (.mbias f d a) (mbiasI f d a)
  | mapplyRelu (d : Reg) : MatrixForm (.mapplyRelu d) (mapplyReluI d)
  | mapplyMicro (d : Reg) : MatrixForm (.mapplyMicro d) (mapplyMicroI d)
  | mred (f : BitVec 2) (d a : Reg) (row : BitVec 7) : MatrixForm (.mred f d a row) (mredI f d a row)

/-- The state after a matrix request is issued (R194, R452, R454): it stands last in the hart's dispatch queue under a new number, and the
vector and x registers that it will write wait for it. -/
def State.requested (s : State) (p : MSpec) : State :=
  ({ s with nextId := s.nextId + 1 }.modQuad (quadOf s.cur) (fun q =>
    { q with dq := Store.set [] q.dq (s.cur % 4) (s.myQueue ++ [{ p.req s with id := s.nextId }]) })).modMe (fun h =>
      { h with vwait := h.vwait ++ p.wv.map (fun (v : Reg) => (v.toNat, s.nextId)),
               xwait := h.xwait ++ (p.wx.filter (· != 0)).map (fun (x : Reg) => (x.toNat, s.nextId)) })

/-- The supervisor calls that return (R93): the code in a6, and what each serves. TASK_FAULT, code 13, returns only when it is refused. -/
inductive SupervisorCall : Nat → Instr → (State → State) → Prop
  | ownerCreate : SupervisorCall 0 .ownerCreate Machine.ownerCreate
  | ownerDestroy : SupervisorCall 1 .ownerDestroy Machine.ownerDestroy
  | frameSet : SupervisorCall 2 .frameSet Machine.frameSet
  | tenantCreate : SupervisorCall 3 .tenantCreate Machine.tenantCreate
  | tenantSet : SupervisorCall 4 .tenantSet Machine.tenantSet
  | tenantDestroy : SupervisorCall 5 .tenantDestroy Machine.tenantDestroy
  | ctxCreate : SupervisorCall 6 .ctxCreate Machine.ctxCreate
  | portOpen : SupervisorCall 7 .portOpen Machine.portOpen
  | portClose : SupervisorCall 8 .portClose Machine.portClose
  | apertureMap : SupervisorCall 9 .apertureMap Machine.apertureMap
  | objTranslate : SupervisorCall 10 .objTranslate Machine.objTranslate
  | objUnload : SupervisorCall 11 .objUnload Machine.objUnload
  | stageSet : SupervisorCall 12 .stageSet Machine.stageSet
  | vaultSet : SupervisorCall 14 .vaultSet Machine.vaultSet

/-- A call that has been served returns behind the ECALL. -/
def State.returned (s : State) : State := s.modMe (fun h => { h with npc := h.pc + 4 }.retire)

/-- What a CSR instruction writes: its operation on the value read and its source (RISC-V, Zicsr). -/
def State.csrNew (s : State) (op : CsrOp) (n : Nat) (src : CsrSrc) : Word := op.apply (s.csrRead n) (s.csrSrc src)

/-- No answer to a request of the hart for an L1 line waits to be taken (R238). -/
def Hart.unanswered (h : Hart) (key : Nat) : Prop := ∀ p, h.st = some p → p.key = key → p.answered = false

/-- The address and the address space that the operands of SFENCE.VMA name, if they name one (R228). -/
def fenceVa (s : State) (rs1 : Reg) : Option Nat := if rs1 = 0 then none else some (s.rx rs1).toNat
def fenceAsid (s : State) (rs2 : Reg) : Option Nat := if rs2 = 0 then none else some (natBits (s.rx rs2).toNat 0 16)

/-- The registers of an even pair; none for x0. -/
def pairRegs (r : Reg) : List Reg := if r = 0 then [] else [r, r + 1]

end Sys2Proof.Machine
end

