-- ==== Sys2Proof/Certificates/Slice0/Obligations.lean ====
section
/-! DEFINITION. The statements for the provers. Their docstrings name the rules of the manual; where one names an entry of the
log, the point is the model's choice. -/

open Sys2Proof Sys2Proof.Machine

/-! ## The base instructions -/

/-- Integer computations: with the registers they name free, every one completes, writes its result to its destination and nothing
else (a write to x0 is discarded), and the pc moves on. -/
def Obligations.IntegerComputations : Prop :=
  ∀ (op : Alu) (s : State), s.Free (aluRegs op) [] →
    exec (.integerAlu op) s = .next (s.modMe (fun h => (h.wx (aluEval s op).1 (aluEval s op).2).retire)) ∧
    ((aluEval s op).1 = 0 → exec (.integerAlu op) s = .next (s.modMe Hart.retire))

/-- Control transfers: a branch not taken moves on; a transfer to an aligned target goes there, and JAL and JALR write the address of
the next instruction to rd; a transfer that is taken to a target that is not 4-byte aligned raises cause 0 with the target in the trap
value, and writes no register (R166). The trace may hold an entry of kind 1. -/
def Obligations.ControlTransfers : Prop :=
  (∀ (c : Cond) (a b : Reg) (off : BitVec 12) (s : State), s.Free [a, b] [] → c.holds (s.rx a) (s.rx b) = false →
    exec (.controlTransfer (.branch c a b off)) s = .next (s.modMe Hart.retire)) ∧
  (∀ (c : Cond) (a b : Reg) (off : BitVec 12) (s : State), s.Free [a, b] [] → c.holds (s.rx a) (s.rx b) = true →
    exec (.controlTransfer (.branch c a b off)) s = .next (s.jump (s.me.pc + offset off) 0 0)) ∧
  (∀ (rd : Reg) (off : BitVec 20) (s : State), s.Free [rd] [] →
    exec (.controlTransfer (.jal rd off)) s = .next (s.jump (s.me.pc + offset off) rd s.me.npc)) ∧
  (∀ (rd a : Reg) (imm : BitVec 12) (s : State), s.Free [rd, a] [] →
    exec (.controlTransfer (.jalr rd a imm)) s = .next (s.jump ((s.rx a + sx imm) &&& ~~~(1 : Word)) rd s.me.npc))

/-- Loads complete when their access is answered: the value, extended as the width says, goes to rd. The trace may hold an entry of
kind 3. A load that the exclusion list covers raises cause 25, and else a misaligned one raises cause 4, each with the address in the
trap value and no other effect. What a load answers at its place: the bytes of a store of the hart's own buffer that covers it; else,
from an owned L1 line whose new read timestamp fits below the die's limit (R245), the line's bytes, and the hart's clock is at least
the line's write timestamp; and from a vault to which no store of the hart to those bytes is on its way, the bytes of memory, and the
hart's clock is at least the vault's clock. In each case no other register and no byte of memory changes. A vault load whose way
crosses a down die link raises cause 5, and DEADLINK is set in the hart's fence status (log 19). Stores complete when the address is
aligned, its translation is held and the store buffer has room: the buffer gets one entry, with the store's place, its bytes at their
offset in the line, and the address space of the access; no register and no byte of memory changes yet. A misaligned store raises
cause 6. With 16 entries in the buffer the store waits: the state does not change. -/
def Obligations.LoadsAndStores : Prop :=
  (∀ (w : LoadWidth) (rd rs1 : Reg) (imm : BitVec 12) (s : State), s.Free [rd, rs1] [] →
      (∀ (v : Nat) (u : State), s.load (s.ea rs1 imm) w.bytes = .ok v u →
        exec (.load w rd rs1 imm) s = .next (((u.wx rd (w.extend v)).record 3 3 (s.ea rs1 imm)).modMe Hart.retire)) ∧
      (s.excluded (s.ea rs1 imm).toNat w.bytes = true →
        exec (.load w rd rs1 imm) s = .next (s.trap 25 (s.ea rs1 imm))) ∧
      (s.excluded (s.ea rs1 imm).toNat w.bytes = false → (s.ea rs1 imm).toNat % w.bytes ≠ 0 →
        exec (.load w rd rs1 imm) s = .next (s.trap 4 (s.ea rs1 imm)))) ∧
  ((∀ (s : State) (p : Place) (va : Word) (n v : Nat), s.me.forward p.addr n = some (some v) → s.loadPlace p va n = .ok v s) ∧
    (∀ (s : State) (p : Place) (va : Word) (n : Nat) (l : L1Line), s.me.forward p.addr n = none →
      p.kind = .hbm ∨ p.kind = .hostC →
      s.me.l1At (l1Key (lineNo p.addr) p.home) = some l → l.st = .owned → l.poison = false →
      s.fits (dieOf s.cur) (max l.rts (max s.me.pts l.wts)) = true →
      ∃ u, s.loadPlace p va n = .ok (lineGet l.data (p.addr % 64) n) u ∧ u.me.pts = max s.me.pts l.wts ∧ u.mem = s.mem ∧
        u.me.x = s.me.x ∧ u.me.sb = s.me.sb ∧ u.me.priv = s.me.priv ∧ u.me.dev = s.me.dev ∧
        u.me.l1At (l1Key (lineNo p.addr) p.home) = some { l with rts := max l.rts u.me.pts }) ∧
    (∀ (s : State) (p : Place) (va : Word) (n : Nat), s.me.forward p.addr n = none → p.kind = .vault →
      s.deadRoute (dieOf s.cur) (dieOfQuad p.home) = none → s.poisoned p.addr = false → s.vaultPosted s.cur p.addr n = false →
      s.loadPlace p va n = .ok (s.readNat p.addr n) (s.modMe (·.raise (s.quad p.home).vclk))) ∧
    (∀ (s : State) (p : Place) (va : Word) (n far : Nat), s.me.forward p.addr n = none → p.kind = .vault →
      s.deadRoute (dieOf s.cur) (dieOfQuad p.home) = some far →
      s.loadPlace p va n = .trap 5 va (s.modMe (·.addFail failDeadlink (0x1000 + far) false)))) ∧
  (∀ (w : StoreWidth) (rs2 rs1 : Reg) (imm : BitVec 12) (s : State), s.Free [rs2, rs1] [] →
      ((s.ea rs1 imm).toNat % w.bytes ≠ 0 → exec (.store w rs2 rs1 imm) s = .next (s.trap 6 (s.ea rs1 imm))) ∧
      (∀ p : Place, (s.ea rs1 imm).toNat % w.bytes = 0 →
        s.resolve .store (s.ea rs1 imm).toNat = .ok p s → p.kind ≠ .hostNC →
        (s.me.sb.length < 16 →
          exec (.store w rs2 rs1 imm) s = .next (((s.modMe (·.pushStore p (byteMask (p.addr % 64) w.bytes)
            (BitVec.ofNat 512 ((s.rx rs2).toNat % 2 ^ (8 * w.bytes) * 2 ^ (8 * (p.addr % 64)))) (s.view s.cur false).asid)).record 3 4
              (s.ea rs1 imm)).modMe Hart.retire)) ∧
        (16 ≤ s.me.sb.length → exec (.store w rs2 rs1 imm) s = .next s)))

/-- AMOs, LR and SC complete when their address is resolved, the store buffer is empty, the release of an rl bit has nothing to wait
for, and the place answers: the old value, extended as the width says, or the status of an SC, goes to rd (AMOCAS.Q: the pair at rd,
which x0 discards). The trace may hold an entry of kind 5. With a store still buffered each waits: the state does not change. What the
place of an atomic answers, for a line that the hart owns in its L1, where the time of a store to it fits below the die's limit (R245)
and no answer to an earlier request for it waits, and for a vault to which no store of the hart to those bytes is on its way: an AMO
answers the old value and writes the new one when it writes; LR answers the value and takes the reservation; SC writes and answers 0
when the reservation stands, and else answers 1 and writes nothing; after an SC no reservation stands. -/
def Obligations.Atomics : Prop :=
  ((∀ (op : AmoOp) (dw aq rl : Bool) (rd rs1 rs2 : Reg) (s : State) (p : Place), s.Free [rd, rs1, rs2] [] →
      s.amoAddr (s.rx rs1) (if dw then 8 else 4) 6 .store = .ok p s →
      (s.me.sb ≠ [] → exec (.amo op dw aq rl rd rs1 rs2) s = .next s) ∧
      (s.me.sb = [] → (rl = true → s.me.unacked = 0) → ∀ (old : Nat) (u : State),
        (s.releasedBy rl).amoPlace p (s.rx rs1) (if dw then 8 else 4) op (s.rx rs2).toNat (s.rx rd).toNat = .ok old u →
        exec (.amo op dw aq rl rd rs1 rs2) s
          = .next (((u.wx rd (amoExtend dw old)).record 3 5 (s.rx rs1)).modMe Hart.retire))) ∧
    (∀ (aq rl : Bool) (rd rs1 rs2 : Reg) (s : State) (p : Place), s.Free (rs1 :: pairRegs rd ++ pairRegs rs2) [] →
      rd.getLsbD 0 = false → rs2.getLsbD 0 = false →
      s.amoAddr (s.rx rs1) 16 6 .store = .ok p s → s.me.sb = [] → (rl = true → s.me.unacked = 0) →
      ∀ (old : Nat) (u : State),
        (s.releasedBy rl).amoPlace p (s.rx rs1) 16 .cas (pairOf s rs2) (pairOf s rd) = .ok old u →
        exec (.amocasQ aq rl rd rs1 rs2) s
          = .next (((if rd = 0 then u else (u.wx rd (BitVec.ofNat 64 old)).wx (rd + 1) (BitVec.ofNat 64 (old / 2 ^ 64))).record 3 5
              (s.rx rs1)).modMe Hart.retire)) ∧
    (∀ (dw aq rl : Bool) (rd rs1 : Reg) (s : State) (p : Place), s.Free [rd, rs1] [] →
      s.amoAddr (s.rx rs1) (if dw then 8 else 4) 4 .load = .ok p s → s.me.sb = [] → (rl = true → s.me.unacked = 0) →
      ∀ (old : Nat) (u : State), (s.releasedBy rl).lrPlace p (s.rx rs1) (if dw then 8 else 4) = .ok old u →
        exec (.lr dw aq rl rd rs1) s
          = .next (((u.wx rd (amoExtend dw old)).record 3 5 (s.rx rs1)).modMe Hart.retire)) ∧
    (∀ (dw aq rl : Bool) (rd rs1 rs2 : Reg) (s : State) (p : Place), s.Free [rd, rs1, rs2] [] →
      s.amoAddr (s.rx rs1) (if dw then 8 else 4) 6 .store = .ok p s → s.me.sb = [] → (rl = true → s.me.unacked = 0) →
      ∀ (r : Nat) (u : State), (s.releasedBy rl).scPlace p (s.rx rs1) (if dw then 8 else 4) (s.rx rs2).toNat = .ok r u →
        exec (.sc dw aq rl rd rs1 rs2) s
          = .next (((u.wx rd (BitVec.ofNat 64 r)).record 3 5 (s.rx rs1)).modMe Hart.retire))) ∧
  ((∀ (s : State) (p : Place) (va : Word) (n v cmp : Nat) (op : AmoOp) (l : L1Line), p.kind = .hbm →
      dieOfHome p.home = dieOf s.cur → s.me.unanswered (l1Key (lineNo p.addr) p.home) →
      s.fits (dieOf s.cur) (max s.me.pts (l.rts + 1)) = true → s.me.l1At (l1Key (lineNo p.addr) p.home) = some l → l.st = .owned → l.poison = false →
      ∃ u, s.amoPlace p va n op v cmp = .ok (lineGet l.data (p.addr % 64) n) u ∧ u.mem = s.mem ∧ u.me.x = s.me.x ∧
        (∃ l', u.me.l1At (l1Key (lineNo p.addr) p.home) = some l' ∧ l'.st = .owned ∧
          l'.data = (if (amoResult op n (lineGet l.data (p.addr % 64) n) v cmp).2
            then lineMerge (byteMask (p.addr % 64) n) l.data
              (BitVec.ofNat 512 ((amoResult op n (lineGet l.data (p.addr % 64) n) v cmp).1 * 2 ^ (8 * (p.addr % 64))))
            else l.data)) ∧
        u.me.pts = (if (amoResult op n (lineGet l.data (p.addr % 64) n) v cmp).2 then max s.me.pts (l.rts + 1)
          else max s.me.pts l.wts)) ∧
    (∀ (s : State) (p : Place) (va : Word) (n v cmp : Nat) (op : AmoOp), p.kind = .vault →
      s.deadRoute (dieOf s.cur) (dieOfQuad p.home) = none → s.poisoned p.addr = false → s.vaultPosted s.cur p.addr n = false →
      Safety.MemOk s → p.addr % 64 + n ≤ 64 →
      ∃ u, s.amoPlace p va n op v cmp = .ok (s.readNat p.addr n) u ∧ u.me.x = s.me.x ∧
        u.me.pts = (if (amoResult op n (s.readNat p.addr n) v cmp).2 then max (s.quad p.home).vclk s.me.pts + 1
          else max s.me.pts (s.quad p.home).vclk) ∧
        ∀ b, u.byteAt b =
          if (amoResult op n (s.readNat p.addr n) v cmp).2 = true ∧ p.addr ≤ b ∧ b < p.addr + n
          then BitVec.ofNat 8 ((amoResult op n (s.readNat p.addr n) v cmp).1 / 2 ^ (8 * (b - p.addr))) else s.byteAt b) ∧
    (∀ (s : State) (p : Place) (va : Word) (n : Nat) (l : L1Line), p.kind = .hbm →
      dieOfHome p.home = dieOf s.cur → s.me.unanswered (l1Key (lineNo p.addr) p.home) →
      s.fits (dieOf s.cur) (max s.me.pts (l.rts + 1)) = true → s.me.l1At (l1Key (lineNo p.addr) p.home) = some l → l.st = .owned → l.poison = false →
      ∃ u, s.lrPlace p va n = .ok (lineGet l.data (p.addr % 64) n) u ∧ u.mem = s.mem ∧ u.me.x = s.me.x ∧
        u.me.resv = some { vault := false, key := l1Key (lineNo p.addr) p.home }) ∧
    (∀ (s : State) (p : Place) (va : Word) (n v : Nat) (l : L1Line), p.kind = .hbm →
      s.me.l1At (l1Key (lineNo p.addr) p.home) = some l → l.st = .owned →
      (s.me.resv = some { vault := false, key := l1Key (lineNo p.addr) p.home } →
        s.fits (dieOf s.cur) (max s.me.pts (l.rts + 1)) = true →
        ∃ u, s.scPlace p va n v = .ok 0 u ∧ u.me.resv = none ∧ u.me.x = s.me.x ∧
          ∃ l', u.me.l1At (l1Key (lineNo p.addr) p.home) = some l' ∧ l'.st = .owned ∧
            l'.data = lineMerge (byteMask (p.addr % 64) n) l.data (BitVec.ofNat 512 (v % 2 ^ (8 * n) * 2 ^ (8 * (p.addr % 64))))) ∧
      (s.me.resv ≠ some { vault := false, key := l1Key (lineNo p.addr) p.home } →
        s.scPlace p va n v = .ok 1 (s.modMe (fun h => { h with resv := none })))))

/-- The standard fences. FENCE and FENCE.TSO complete when the store buffer is empty and no posted store of the hart is still on its
way, and change nothing else; with a store buffered they wait. FENCE.I completes with no effect. FENCE.S full at scopes 0 to 3 is the
same with the fence status in rd; acquire at any scope completes at once (R266, R267, R273). FENCE.S. A full fence at a scope up to
the die completes when the store buffer is empty and no posted store is on its way; at package scope full and release complete when
the buffer is empty and no posted store awaits its acknowledgement, and the clock is at least the acknowledgement time; at system
scope too, when no host port has carried posted writes; an acquire, and a release at a scope up to the die, complete at once. Each
writes the accumulated fence status to xd and clears it. With stores to wait for, it waits. SFENCE.VMA completes in S-mode or M-mode
(TVM clear) when no transfer holds a page that its operands name: after it no TLB and no walker cache holds a translation that they
name, and the lines that a homing entry of the named address space has homed are written back. While a transfer holds such a page it
waits, the translations dropped. In U-mode, and in S-mode with TVM set, it is an illegal instruction. -/
def Obligations.Fences : Prop :=
  ((∀ (fm pred succ : BitVec 4) (rd rs1 : Reg) (s : State), s.Free [] [] → s.me.sb = [] → s.unperformed = false →
      exec (.fence fm pred succ rd rs1) s = .next (s.modMe Hart.retire)) ∧
    (∀ (fm pred succ : BitVec 4) (rd rs1 : Reg) (s : State), s.Free [] [] → s.me.sb ≠ [] →
      exec (.fence fm pred succ rd rs1) s = .next s) ∧
    (∀ (rd rs1 : Reg) (s : State), s.Free [] [] → s.me.sb = [] → s.unperformed = false →
      exec (.fenceTso rd rs1) s = .next (s.modMe Hart.retire)) ∧
    (∀ (rd rs1 : Reg) (imm : BitVec 12) (s : State), s.Free [] [] → exec (.fenceI rd rs1 imm) s = .next (s.modMe Hart.retire))) ∧
  (∀ (d : Reg) (s : State), s.Free [d] [] →
      (∀ sc : Scope, exec (.fencesAcquire d sc) s = .next (s.modMe (fun h => ({ (h.wx d s.me.fstat) with fstat := 0 } : Hart).retire))) ∧
      (∀ sc : Scope, scopeCode sc < 4 →
        exec (.fencesRelease d sc) s = .next (s.modMe (fun h => ({ (h.wx d s.me.fstat) with fstat := 0 } : Hart).retire)) ∧
        (s.me.sb = [] → s.unperformed = false →
          exec (.fencesFull d sc) s = .next (s.modMe (fun h => ({ (h.wx d s.me.fstat) with fstat := 0 } : Hart).retire))) ∧
        (s.me.sb ≠ [] → exec (.fencesFull d sc) s = .next s)) ∧
      (s.me.sb = [] → s.me.unacked = 0 →
        exec (.fencesRelease d .package) s = .next (s.modMe (fun h =>
          ({ ((h.raise h.ackTime).wx d s.me.fstat) with fstat := 0 } : Hart).retire)) ∧
        exec (.fencesFull d .package) s = exec (.fencesRelease d .package) s) ∧
      (s.me.sb = [] → s.me.unacked = 0 → s.me.postedPorts = [] → s.hostReqs = [] →
        exec (.fencesRelease d .system) s = exec (.fencesRelease d .package) s ∧
        exec (.fencesFull d .system) s = exec (.fencesRelease d .package) s) ∧
      (s.me.sb ≠ [] ∨ s.me.unacked ≠ 0 → exec (.fencesRelease d .package) s = .next s ∧ exec (.fencesRelease d .system) s = .next s)) ∧
  ((∀ (rs1 rs2 : Reg) (s : State), s.Free [rs1, rs2] [] → s.me.mode ≠ .u → (s.me.priv.mstatus.getLsbD 20 = true → s.me.mode = .m) →
      ((s.dropTlbs (fenceVa s rs1) (fenceAsid s rs2)).allTransfers.any
          ((s.dropTlbs (fenceVa s rs1) (fenceAsid s rs2)).holdsPage · (fenceVa s rs1) (fenceAsid s rs2)) = false →
        exec (.sfenceVma rs1 rs2) s
          = .next (((s.dropTlbs (fenceVa s rs1) (fenceAsid s rs2)).writeBack (fenceAsid s rs2)).modMe Hart.retire)) ∧
      ((s.dropTlbs (fenceVa s rs1) (fenceAsid s rs2)).allTransfers.any
          ((s.dropTlbs (fenceVa s rs1) (fenceAsid s rs2)).holdsPage · (fenceVa s rs1) (fenceAsid s rs2)) = true →
        exec (.sfenceVma rs1 rs2) s = .next (s.dropTlbs (fenceVa s rs1) (fenceAsid s rs2)))) ∧
    (∀ (rs1 rs2 : Reg) (s : State), s.Free [rs1, rs2] [] →
      s.me.mode = .u ∨ (s.me.mode = .s ∧ s.me.priv.mstatus.getLsbD 20 = true) →
      exec (.sfenceVma rs1 rs2) s = .next (s.trap 2 s.me.ir)))

/-- WFI, SRET and MRET complete in the modes that may run them: WFI waits unless an interrupt is pending, SRET returns to sepc in the
mode of SPP with SIE from SPIE, MRET to mepc in the mode of MPP with MIE from MPIE; no other register changes. Below that mode each
takes the illegal-instruction exception with its encoding in the trap value (R309, R318). -/
def Obligations.WaitAndReturns : Prop :=
  (∀ s : State, s.Free [] [] → s.me.mode ≠ .u → s.me.pending ≠ 0 → exec .wfi s = .next (s.modMe Hart.retire)) ∧
  (∀ s : State, s.Free [] [] → s.me.mode ≠ .u → s.me.pending = 0 →
    exec .wfi s = .next (s.modMe (fun h => { h.retire with status := .waiting }))) ∧
  (∀ s : State, s.Free [] [] → s.me.mode ≠ .u → ∃ st : Word,
    exec .sret s = .next (s.modMe (fun h =>
      { h with pc := h.priv.sepc, npc := h.priv.sepc, mode := if h.priv.mstatus.getLsbD 8 then .s else .u,
               priv := { h.priv with mstatus := st }, instret := h.instret + 1, partials := [], entering := [] })) ∧
    st.getLsbD 1 = s.me.priv.mstatus.getLsbD 5 ∧ st.getLsbD 5 = true ∧ st.getLsbD 8 = false ∧ st.getLsbD 17 = false ∧
    ∀ i, i ≠ 1 → i ≠ 5 → i ≠ 8 → i ≠ 17 → st.getLsbD i = s.me.priv.mstatus.getLsbD i) ∧
  (∀ s : State, s.Free [] [] → s.me.mode = .m → ∃ st : Word,
    exec .mret s = .next (s.modMe (fun h =>
      { h with pc := h.priv.mepc, npc := h.priv.mepc, mode := Mode.ofCode (fld h.priv.mstatus 11 2).toNat,
               priv := { h.priv with mstatus := st }, instret := h.instret + 1, partials := [], entering := [] })) ∧
    st.getLsbD 3 = s.me.priv.mstatus.getLsbD 7 ∧ st.getLsbD 7 = true ∧ st.getLsbD 11 = false ∧ st.getLsbD 12 = false ∧
    st.getLsbD 17 = (s.me.priv.mstatus.getLsbD 17 && decide (Mode.ofCode (fld s.me.priv.mstatus 11 2).toNat = .m)) ∧
    ∀ i, i ≠ 3 → i ≠ 7 → i ≠ 11 → i ≠ 12 → i ≠ 17 → st.getLsbD i = s.me.priv.mstatus.getLsbD i) ∧
  (∀ s : State, s.Free [] [] → s.me.mode = .u → exec .wfi s = .next (s.trap 2 s.me.ir) ∧ exec .sret s = .next (s.trap 2 s.me.ir)) ∧
  (∀ s : State, s.Free [] [] → s.me.mode ≠ .m → exec .mret s = .next (s.trap 2 s.me.ir))

/-! ## CSRs and traps -/

/-- CSR instructions: a CSR that does not exist or that the mode may not read, and a write of a CSR whose fields are all read-only,
raise the illegal-instruction exception with the encoding in the trap value; else the instruction completes: rd gets the value read
before, and the CSR is written with what the operation makes of it, when the operation writes. A write of mcycle or minstret sets the
counter, a write of xfctl acts on the transfer-fault queue, and a write of any other register changes the privileged and device
registers of the hart only. The delegations of the device's own causes and interrupts cannot be cleared: whatever is written to
medeleg and mideleg, the causes 24 to 31, 48 and 49 and the interrupts 16 to 18 stay delegated (R159). -/
def Obligations.CsrAccess : Prop :=
  (∀ (op : CsrOp) (csr : BitVec 12) (src : CsrSrc) (rd : Reg) (s : State), s.Free (rd :: src.regs) [] →
      (s.me.csrReadable csr.toNat = false → exec (.csrWrite op csr src rd) s = .next (s.trap 2 s.me.ir)) ∧
      (csrWrites op src = true → csrReadOnly csr.toNat = true → exec (.csrWrite op csr src rd) s = .next (s.trap 2 s.me.ir)) ∧
      (s.me.csrReadable csr.toNat = true → csrWrites op src = false →
        exec (.csrWrite op csr src rd) s = .next (s.modMe (fun h => (h.wx rd (s.csrRead csr.toNat)).retire))) ∧
      (s.me.csrReadable csr.toNat = true → csrWrites op src = true → csrReadOnly csr.toNat = false →
        (csr = 0xB00 → exec (.csrWrite op csr src rd) s = .next (s.modMe (fun h =>
          (({ h with cycOff := s.csrNew op csr.toNat src - BitVec.ofNat 64 s.cycle } : Hart).wx rd (s.csrRead csr.toNat)).retire))) ∧
        (csr = 0xB02 → exec (.csrWrite op csr src rd) s = .next (s.modMe (fun h =>
          (({ h with instret := s.csrNew op csr.toNat src - 1 } : Hart).wx rd (s.csrRead csr.toNat)).retire))) ∧
        (csr = 0x5C5 → exec (.csrWrite op csr src rd) s
          = .next (((s.xfctl ((s.csrNew op csr.toNat src).getLsbD 0)).wx rd (s.csrRead csr.toNat)).modMe Hart.retire))) ∧
      (s.me.csrReadable csr.toNat = true → csrWrites op src = true → csrReadOnly csr.toNat = false →
        csr ≠ 0x5C5 → csr ≠ 0xB00 → csr ≠ 0xB02 →
        exec (.csrWrite op csr src rd) s = .next (s.modMe (fun h =>
          (({ h with priv := h.priv.write csr.toNat (op.apply (s.csrRead csr.toNat) (s.csrSrc src)),
                     dev := h.dev.write csr.toNat (op.apply (s.csrRead csr.toNat) (s.csrSrc src)) } : Hart).wx rd
            (s.csrRead csr.toNat)).retire)))) ∧
  (∀ (p : PrivCsrs) (v : Word) (c : Nat),
      ((24 ≤ c ∧ c ≤ 31) ∨ c = 48 ∨ c = 49 → (p.write 0x302 v).medeleg.getLsbD c = true) ∧
      (16 ≤ c ∧ c ≤ 18 → (p.write 0x303 v).mideleg.getLsbD c = true))

/-- The CSR instructions that name a CSR of the device. Every one of them completes, with any operation and any source, and rd gets
the value read before; one whose operation writes nothing only reads. Of those that write, with v the value written: in S-mode and
M-mode budget sets REMAIN to the low 32 bits of v and clears ZERO, and drift sets the interval, at least 256 and at most 4,096. In
every mode lease sets LEASE, where 0 sets 1; rmode sets RM and SR, where an RM of 6 or 7 leaves RM as it was; and trcfg sets its
writable fields, where a 1 in FROZEN clears FROZEN. Nothing else changes. In U-mode budget and drift raise the illegal-instruction
exception. The instructions that name xfctl: each completes in S-mode and M-mode, with any operation and any source, and rd gets 0.
One that writes v removes the head record of the hart's transfer-fault queue: with bit 0 of v clear the paused copy goes on, and with
it set the copy ends with the page-fault status of its cause, 1 for a load and 2 for a store. With an empty queue, and where the
operation writes nothing, nothing changes. In U-mode xfctl is an illegal instruction. -/
def Obligations.DeviceCsrWrites : Prop :=
  ((∀ (op : CsrOp) (src : CsrSrc) (rd : Reg) (s : State), s.Free (rd :: src.regs) [] → s.me.mode ≠ .u → csrWrites op src = true →
      exec (.budgetWrite op src rd) s = .next (s.modMe (fun h => (({ h with
        dev := { h.dev with remain := (s.csrNew op 0x5C1 src).setWidth 32, zero := false } } : Hart).wx rd s.me.budget).retire))) ∧
    (∀ (op : CsrOp) (src : CsrSrc) (rd : Reg) (s : State), s.Free (rd :: src.regs) [] → s.me.mode ≠ .u → csrWrites op src = true →
      ∃ d : Word, exec (.driftWrite op src rd) s = .next (s.modMe (fun h => (({ h with
        dev := { h.dev with drift := d } } : Hart).wx rd s.me.dev.drift).retire)) ∧ 256 ≤ d.toNat ∧ d.toNat ≤ 4096 ∧
        (256 ≤ (s.csrNew op 0x5C0 src).toNat → (s.csrNew op 0x5C0 src).toNat ≤ 4096 → d = s.csrNew op 0x5C0 src) ∧
        ((s.csrNew op 0x5C0 src).toNat < 256 → d = 256) ∧
        (4096 < (s.csrNew op 0x5C0 src).toNat → (s.csrNew op 0x5C0 src).toNat < 8192 → d = 4096)) ∧
    (∀ (op : CsrOp) (src : CsrSrc) (rd : Reg) (s : State), s.Free (rd :: src.regs) [] → csrWrites op src = true →
      exec (.leaseWrite op src rd) s = .next (s.modMe (fun h => (({ h with
        dev := { h.dev with lease := if (s.csrNew op 0x803 src).toNat % 256 = 0 then 1 else s.csrNew op 0x803 src &&& 0xff } } : Hart).wx rd
          s.me.dev.lease).retire))) ∧
    (∀ (op : CsrOp) (src : CsrSrc) (rd : Reg) (s : State), s.Free (rd :: src.regs) [] → csrWrites op src = true →
      ∃ m : Word, exec (.rmodeWrite op src rd) s = .next (s.modMe (fun h => (({ h with
        dev := { h.dev with rmode := m } } : Hart).wx rd s.me.dev.rmode).retire)) ∧
        m.getLsbD 3 = (s.csrNew op 0x800 src).getLsbD 3 ∧
        fld m 0 3 = (if 6 ≤ (fld (s.csrNew op 0x800 src) 0 3).toNat then fld s.me.dev.rmode 0 3 else fld (s.csrNew op 0x800 src) 0 3)) ∧
    (∀ (op : CsrOp) (src : CsrSrc) (rd : Reg) (s : State), s.Free (rd :: src.regs) [] → csrWrites op src = true →
      ∃ c : Word, exec (.trcfgWrite op src rd) s = .next (s.modMe (fun h => (({ h with
        dev := { h.dev with trcfg := c } } : Hart).wx rd s.me.dev.trcfg).retire)) ∧
        c.getLsbD 8 = (s.me.dev.trcfg.getLsbD 8 && !(s.csrNew op 0x809 src).getLsbD 8) ∧
        c.getLsbD 0 = (s.csrNew op 0x809 src).getLsbD 0 ∧
        ∀ i, 23 ≤ i → i ≤ 63 → c.getLsbD i = (s.csrNew op 0x809 src).getLsbD i) ∧
    (∀ (op : CsrOp) (src : CsrSrc) (rd : Reg) (s : State), s.Free (rd :: src.regs) [] → csrWrites op src = false →
      (s.me.mode ≠ .u → exec (.budgetWrite op src rd) s = .next (s.modMe (fun h => (h.wx rd s.me.budget).retire)) ∧
        exec (.driftWrite op src rd) s = .next (s.modMe (fun h => (h.wx rd s.me.dev.drift).retire))) ∧
      exec (.leaseWrite op src rd) s = .next (s.modMe (fun h => (h.wx rd s.me.dev.lease).retire)) ∧
      exec (.rmodeWrite op src rd) s = .next (s.modMe (fun h => (h.wx rd s.me.dev.rmode).retire)) ∧
      exec (.trcfgWrite op src rd) s = .next (s.modMe (fun h => (h.wx rd s.me.dev.trcfg).retire))) ∧
    (∀ (op : CsrOp) (src : CsrSrc) (rd : Reg) (s : State), s.Free (rd :: src.regs) [] → s.me.mode = .u →
      exec (.budgetWrite op src rd) s = .next (s.trap 2 s.me.ir) ∧ exec (.driftWrite op src rd) s = .next (s.trap 2 s.me.ir))) ∧
  (∀ (i : Instr) (op : CsrOp) (src : CsrSrc) (rd : Reg) (s : State), i = .xfctlResume op src rd ∨ i = .xfctlFail op src rd →
      s.Free (rd :: src.regs) [] →
      (s.me.mode ≠ .u → ∀ (r : TfRec) (rest : List TfRec), csrWrites op src = true → s.me.tfq = r :: rest →
        ((s.csrNew op 0x5C5 src).getLsbD 0 = false →
          exec i s = .next ((((s.modMe (fun h => { h with tfq := rest })).modTransfer r.transfer
            (fun t => { t with paused := false })).wx rd 0).modMe Hart.retire)) ∧
        ((s.csrNew op 0x5C5 src).getLsbD 0 = true →
          exec i s = .next ((((s.modMe (fun h => { h with tfq := rest })).modTransfer r.transfer
            (fun t => { t with paused := false, status := (if r.cause = 13 then 1 else 2), phase := .finished })).wx rd 0).modMe
              Hart.retire))) ∧
      (s.me.mode ≠ .u → csrWrites op src = false ∨ s.me.tfq = [] → exec i s = .next ((s.wx rd 0).modMe Hart.retire)) ∧
      (s.me.mode = .u → exec i s = .next (s.trap 2 s.me.ir)))

/-- Taking an exception. Out of a mode below M-mode a delegated exception enters S-mode: sepc gets the pc of the instruction, scause
the cause, stval the trap value, SPP the mode left, SPIE the enable SIE, SIE is cleared, and the pc goes to the base of stvec. Any
other exception enters M-mode in the same way with the M-mode registers. The causes 24 to 31, 48 and 49 are delegated in every state
that medeleg's read-only ones allow. General registers, tokens, the clock and memory are unchanged. -/
def Obligations.TakingAnException : Prop :=
  (∀ (s : State) (c : Nat) (v : Word), s.me.mode ≠ .m → s.me.priv.medeleg.getLsbD c = true → c < 64 →
    ∃ t : State, s.trap c v = t ∧ t.me.mode = .s ∧ t.me.pc = s.me.priv.stvec &&& ~~~(3 : Word) ∧ t.me.priv.sepc = s.me.pc ∧
      t.me.priv.scause = BitVec.ofNat 64 c ∧ t.me.priv.stval = v ∧
      t.me.priv.mstatus.getLsbD 8 = decide (s.me.mode = .s) ∧ t.me.priv.mstatus.getLsbD 5 = s.me.priv.mstatus.getLsbD 1 ∧
      t.me.priv.mstatus.getLsbD 1 = false ∧
      (∀ i, i ≠ 1 → i ≠ 5 → i ≠ 8 → t.me.priv.mstatus.getLsbD i = s.me.priv.mstatus.getLsbD i) ∧
      t.me.x = s.me.x ∧ t.me.tokens = s.me.tokens ∧ t.me.pts = s.me.pts ∧ t.mem = s.mem ∧ t.slotRegs = s.slotRegs ∧
      t.me.priv.mepc = s.me.priv.mepc) ∧
  (∀ (s : State) (c : Nat) (v : Word), (s.me.mode = .m ∨ s.me.priv.medeleg.getLsbD c = false) → c < 64 →
    ∃ t : State, s.trap c v = t ∧ t.me.mode = .m ∧ t.me.pc = s.me.priv.mtvec &&& ~~~(3 : Word) ∧ t.me.priv.mepc = s.me.pc ∧
      t.me.priv.mcause = BitVec.ofNat 64 c ∧ t.me.priv.mtval = v ∧
      fld t.me.priv.mstatus 11 2 = BitVec.ofNat 2 s.me.mode.code ∧ t.me.priv.mstatus.getLsbD 7 = s.me.priv.mstatus.getLsbD 3 ∧
      t.me.priv.mstatus.getLsbD 3 = false ∧
      (∀ i, i ≠ 3 → i ≠ 7 → i ≠ 11 → i ≠ 12 → t.me.priv.mstatus.getLsbD i = s.me.priv.mstatus.getLsbD i) ∧
      t.me.x = s.me.x ∧ t.me.tokens = s.me.tokens ∧ t.me.pts = s.me.pts ∧ t.mem = s.mem ∧ t.slotRegs = s.slotRegs ∧
      t.me.priv.sepc = s.me.priv.sepc)

/-! ## Barriers, messages, the clock, fences -/

/-- Binding a barrier. For an aligned address of a reachable vault unit, a config word that is allowed and a binding that has not
arrived, BBIND and BBIND.I complete: an object already initialised with this config is read, one not initialised is initialised by one
update with the config, its INIT bit and the identity of its combine operation; the binding names the unit and the object's phase, and
the hart's clock is at least the vault's time. An arrived binding, a config that is not allowed, or one that differs from the object's
raises cause 48 with the binding's number; a misaligned address raises cause 6, one outside the reachable vault cause 7. -/
def Obligations.BarrierBinding : Prop :=
  ∀ (n a b : Reg) (cfg : BitVec 16) (s : State), s.Free [a, b] [] →
    (∀ (q u : Nat) (own : Bool) (o : Barrier), o = Barrier.ofLine (s.unitLine q u) → (s.me.bind n).arrived = false → configOk cfg.toNat = true → s.rx b = zx cfg → (s.rx a).toNat % 64 = 0 →
      s.unitAt (s.rx a).toNat = some (q, u, own) → s.unitFault q u .store = none → s.localQuiet = .ok () s →
      (o.init = true → natBits o.config 0 16 = cfg.toNat →
        exec (.bbind n a b) s = .next (((s.modMe (·.raise (s.quad q).vclk)).setBind n
          { bound := true, quad := q, unit := u, phase := o.phase }).modMe Hart.retire) ∧
        exec (.bbindI n a cfg) s = exec (.bbind n a b) s) ∧
      (o.init = true → natBits o.config 0 16 ≠ cfg.toNat →
        exec (.bbind n a b) s = .next (s.trap 48 (BitVec.ofNat 64 n.toNat)) ∧ exec (.bbindI n a cfg) s = exec (.bbind n a b) s) ∧
      (o.init = false → ∃ p : Nat × State,
        p = s.unitPut q u (Barrier.toLine { o with
          config := cfg.toNat + 2 ^ 31, combine := combineIdentity (natBits cfg.toNat 12 3) (natBit cfg.toNat 15) }
            (s.unitLine q u)) s.me.pts ∧
        exec (.bbind n a b) s = .next (((p.2.modMe (·.raise p.1)).setBind n
          { bound := true, quad := q, unit := u, phase := o.phase }).modMe Hart.retire) ∧
        exec (.bbindI n a cfg) s = exec (.bbind n a b) s)) ∧
    ((s.me.bind n).arrived = true ∨ configOk (s.rx b).toNat = false →
      exec (.bbind n a b) s = .next (s.trap 48 (BitVec.ofNat 64 n.toNat))) ∧
    ((s.me.bind n).arrived = false → configOk (s.rx b).toNat = true → (s.rx a).toNat % 64 ≠ 0 →
      exec (.bbind n a b) s = .next (s.trap 6 (s.rx a))) ∧
    ((s.me.bind n).arrived = false → configOk (s.rx b).toNat = true → (s.rx a).toNat % 64 = 0 → s.unitAt (s.rx a).toNat = none →
      exec (.bbind n a b) s = .next (s.trap 7 (s.rx a)))

/-- Arriving and expecting. On a bound binding whose unit can be reached, with the release before it done and the count below EXP,
BARRIVE counts the arrival and combines its value by one evaluated update, the binding notes the phase and that it has arrived, and
the hart's clock is at least the update's time. BEXPECT and BEXPECT.I set the expected bytes by one evaluated update. On an unbound or
arrived binding BARRIVE raises cause 48, and so does an arrival that would pass EXP or finds the object not initialised. Waiting at a
barrier. BWAIT and BTEST wait for the hart's own buffered stores to the vault of their quad. While the binding's phase has not passed,
BWAIT (and BSYNC once it has arrived) waits and the state does not change. When it has passed by one, it takes the released value, or
the phase where OP is 0, into xd, the clock is at least the vault's clock and the completion time, and the binding moves to the next
phase, not arrived. A failure of the phase not yet seen raises cause 28 with the report of R161 once, and is then seen. A lapped or
unbound binding raises cause 48. BTEST writes whether the phase has passed, and takes the vault's clock only. BUNBIND clears BOUND,
and raises cause 48 on an unbound or arrived binding. The last arrival of a phase that expects no bytes completes it: after BARRIVE
the object in the vault holds the next phase, a count of 0, the combined value as its released value, the identity as its open combine
value, and the update's time as its completion time. -/
def Obligations.BarrierUpdates : Prop :=
  (∀ (n a : Reg) (bytes : BitVec 24) (s : State) (b : BBind) (o : Barrier), s.Free [a] [] → s.me.bind n = b →
      o = Barrier.ofLine (s.unitLine b.quad b.unit) →
      (b.bound = false ∨ b.arrived = true → exec (.barrive n a) s = .next (s.trap 48 (BitVec.ofNat 64 n.toNat))) ∧
      (b.bound = true → b.arrived = false → s.releasePackage = .ok () s → s.unitFault b.quad b.unit .store = none →
        (o.init = false ∨ o.exp ≤ o.arrived →
          exec (.barrive n a) s = .next (s.trap 48 (BitVec.ofNat 64 n.toNat))) ∧
        (o.init = true → o.arrived < o.exp → ∃ p : Nat × State, p = s.barrierPut b.quad b.unit
            { o with arrived := o.arrived + 1, combine := o.combined (s.rx a).toNat } s.me.pts ∧
            exec (.barrive n a) s = .next (((p.2.modMe (·.raise p.1)).setBind n
              { b with phase := o.phase, arrived := true, fseen := false }).modMe
                Hart.retire))) ∧
      (b.bound = true → s.unitFault b.quad b.unit .store = none → s.localQuiet = .ok () s →
        o.init = true →
        (∃ p : Nat × State, p = s.barrierPut b.quad b.unit
            { o with expected := bytes.toNat } s.me.pts ∧
          exec (.bexpectI n bytes) s = .next ((p.2.modMe (·.raise p.1)).modMe Hart.retire)) ∧
        ((s.rx a).toNat < 2 ^ 32 → ∃ p : Nat × State, p = s.barrierPut b.quad b.unit
            { o with expected := (s.rx a).toNat } s.me.pts ∧
          exec (.bexpect n a) s = .next ((p.2.modMe (·.raise p.1)).modMe Hart.retire))) ∧
      (b.bound = false ∨ 2 ^ 32 ≤ (s.rx a).toNat → exec (.bexpect n a) s = .next (s.trap 48 (BitVec.ofNat 64 n.toNat)))) ∧
  (∀ (d n a : Reg) (s : State) (b : BBind) (o : Barrier), s.Free [d, a] [] → s.me.bind n = b →
      o = Barrier.ofLine (s.unitLine b.quad b.unit) →
      (b.bound = false → exec (.bwait d n) s = .next (s.trap 48 (BitVec.ofNat 64 n.toNat)) ∧
        exec (.btest d n) s = .next (s.trap 48 (BitVec.ofNat 64 n.toNat)) ∧
        exec (.bunbind n) s = .next (s.trap 48 (BitVec.ofNat 64 n.toNat))) ∧
      (∀ u : State, b.bound = true → s.unitFault b.quad b.unit .load = none → s.localQuiet = .stall u →
        exec (.bwait d n) s = .next u ∧ exec (.btest d n) s = .next u) ∧
      (b.bound = true → s.unitFault b.quad b.unit .load = none → s.localQuiet = .ok () s →
        (o.phase ≤ b.phase → exec (.bwait d n) s = .next s ∧ (b.arrived = true → exec (.bsync d n a) s = .next s)) ∧
        (b.phase + 1 < o.phase → exec (.bwait d n) s = .next (s.trap 48 (BitVec.ofNat 64 n.toNat))) ∧
        (o.phase = b.phase + 1 → o.failed = true → b.fseen = false →
          exec (.bwait d n) s = .next ((s.setBind n { b with fseen := true }).trap 28 (report o.lstatus 1 n.toNat))) ∧
        (o.phase = b.phase + 1 → o.failed = false ∨ b.fseen = true → o.expected = 0 →
          exec (.bwait d n) s = .next ((((s.modMe (·.raise (max (s.quad b.quad).vclk o.done))).wx d
            (BitVec.ofNat 64 (if o.op = 0 then o.phase else o.released))).setBind n
              { b with phase := b.phase + 1, arrived := false, fseen := false }).modMe Hart.retire) ∧
          (b.arrived = true → exec (.bsync d n a) s = exec (.bwait d n) s)) ∧
        exec (.btest d n) s = .next (((s.modMe (·.raise (s.quad b.quad).vclk)).wx d
          (if b.phase < o.phase then 1 else 0)).modMe Hart.retire)) ∧
      (b.bound = true → b.arrived = false → exec (.bunbind n) s = .next ((s.setBind n { b with bound := false }).modMe Hart.retire)) ∧
      (b.bound = true → b.arrived = true → exec (.bunbind n) s = .next (s.trap 48 (BitVec.ofNat 64 n.toNat)))) ∧
  (∀ (n a : Reg) (s : State) (b : BBind) (o : Barrier), s.Free [a] [] → s.me.bind n = b → b.bound = true → b.arrived = false →
      Safety.MemOk s → s.releasePackage = .ok () s → s.unitFault b.quad b.unit .store = none →
      o = Barrier.ofLine (s.unitLine b.quad b.unit) → o.init = true → o.arrived + 1 = o.exp → o.expected = 0 → o.failing = false →
      max (s.quad b.quad).vclk s.me.pts + 1 < 2 ^ 64 → o.phase + 1 < 2 ^ 64 → o.combined (s.rx a).toNat < 2 ^ 64 →
      ∃ t, exec (.barrive n a) s = .next t ∧
        (Barrier.ofLine (t.unitLine b.quad b.unit)).phase = o.phase + 1 ∧
        (Barrier.ofLine (t.unitLine b.quad b.unit)).arrived = 0 ∧
        (Barrier.ofLine (t.unitLine b.quad b.unit)).released = o.combined (s.rx a).toNat ∧
        (Barrier.ofLine (t.unitLine b.quad b.unit)).combine = o.identity ∧
        (Barrier.ofLine (t.unitLine b.quad b.unit)).done = max o.time (max (s.quad b.quad).vclk s.me.pts + 1) ∧
        (t.quad b.quad).vclk = max (s.quad b.quad).vclk s.me.pts + 1)

/-- Messages. With its release done, MSEND and MSEND.I write 2 when the address names no slot of a context of the sender's address
space, 1 when the slot's mailbox holds 12 messages or more, and else put the message at the end of the mailbox, with the sender's
address and clock, and write 0. MRECV with an empty mailbox writes 0; else, with the aligned target translated and room in the store
buffer, it stores the 32 bytes as four 8-byte words, removes the message, writes its header and takes its send time; a misaligned
target raises cause 6. MPOLL writes the count word and clears LOST; MWAIT waits on an empty mailbox and else writes the count word;
MHDR writes the head's header or 0. The logical clock. CLKRD writes the hart's clock. CLKADV on a line held shared raises the clock
above the line's lease; with no copy, in a vault, or at an address that faults it changes nothing. LWAIT on a line that the L1 does
not hold, or holds owned, is a load, and a renewal that an earlier try asked for is given up; in a vault it places a watch and waits,
and a watch that has been answered gives the load and at least the time of the answer, when no store of the hart to those bytes is on
its way. A misaligned LWAIT raises cause 4. -/
def Obligations.MessagesAndClock : Prop :=
  ((∀ (d a b c : Reg) (tag : BitVec 16) (s : State), s.Free [d, a, b, c] [] → s.releasePackage = .ok () s →
      (s.me.task = none ∨ 2 ^ 12 ≤ (s.rx a).toNat ∨ s.quadPresent (quadOf (s.rx a).toNat) = false →
        exec (.msend d a b) s = .next ((s.wx d 2).modMe Hart.retire) ∧
        exec (.msendI d a b c tag) s = .next ((s.wx d 2).modMe Hart.retire)) ∧
      (∀ x : Nat, s.me.task ≠ none → (s.rx a).toNat < 2 ^ 12 → (s.rx a).toNat / 4 % 256 < 160 →
        s.quadPresent (quadOf (s.rx a).toNat) = true → s.contextOn (s.asidOf s.cur) (quadOf (s.rx a).toNat) = some x →
        (12 ≤ s.mailCount x ((s.rx a).toNat % 4) →
          exec (.msend d a b) s = .next ((s.wx d 1).modMe Hart.retire) ∧
          exec (.msendI d a b c tag) s = .next ((s.wx d 1).modMe Hart.retire)) ∧
        (s.mailCount x ((s.rx a).toNat % 4) < 12 →
          exec (.msend d a b) s = .next (((s.mailPut x ((s.rx a).toNat % 4)
            { hdr := mailHeader 3 8 0 (slotAddr (quadOf s.cur) s.me.slot), p0 := s.rx b, p1 := 0,
              time := BitVec.ofNat 64 s.me.pts }).wx d 0).modMe Hart.retire) ∧
          exec (.msendI d a b c tag) s = .next (((s.mailPut x ((s.rx a).toNat % 4)
            { hdr := mailHeader 3 16 tag.toNat (slotAddr (quadOf s.cur) s.me.slot), p0 := s.rx b, p1 := s.rx c,
              time := BitVec.ofNat 64 s.me.pts }).wx d 0).modMe Hart.retire)))) ∧
    (∀ (d a : Reg) (s : State), s.Free [d, a] [] →
      ((s.rx a).toNat % 32 ≠ 0 → exec (.mrecv d a) s = .next (s.trap 6 (s.rx a))) ∧
      ((s.rx a).toNat % 32 = 0 → s.me.mail = [] → exec (.mrecv d a) s = .next ((s.wx d 0).modMe Hart.retire)) ∧
      (∀ (m : Mail) (rest : List Mail) (u : State), (s.rx a).toNat % 32 = 0 → s.me.mail = m :: rest →
        s.storeWords (s.rx a).toNat (bytesOf 32 m.number) = .ok () u →
        exec (.mrecv d a) s = .next (((u.modMe (fun h => { h.raise m.time.toNat with mail := rest })).wx d m.hdr).modMe Hart.retire))) ∧
    (∀ (d : Reg) (s : State), s.Free [d] [] →
      exec (.mpoll d) s = .next (s.modMe (fun h => ({ (h.wx d s.me.mailWord) with mailLost := false } : Hart).retire)) ∧
      (s.me.mail = [] → exec (.mwait d) s = .next s ∧ exec (.mhdr d) s = .next (s.modMe (fun h => (h.wx d 0).retire))) ∧
      (∀ (m : Mail) (rest : List Mail), s.me.mail = m :: rest →
        exec (.mwait d) s = .next (s.modMe (fun h => (h.wx d s.me.mailWord).retire)) ∧
        exec (.mhdr d) s = .next (s.modMe (fun h => (h.wx d m.hdr).retire))))) ∧
  ((∀ (d : Reg) (s : State), s.Free [d] [] →
      exec (.clkrd d) s = .next (s.modMe (fun h => (h.wx d (BitVec.ofNat 64 h.pts)).retire))) ∧
    (∀ (a : Reg) (off : BitVec 24) (s : State) (p : Place), s.Free [a] [] →
      (s.resolve .load (s.ea a off).toNat = .ok p s →
        (∀ l : L1Line, p.kind = .hbm → s.me.l1At (l1Key (lineNo p.addr) p.home) = some l → l.st = .shared →
          exec (.clkadvOff a off) s = .next (s.modMe (fun h => (h.raise (l.rts + 1)).retire))) ∧
        (p.kind = .vault → exec (.clkadvOff a off) s = .next (s.modMe Hart.retire)) ∧
        (p.kind = .hbm → s.me.l1At (l1Key (lineNo p.addr) p.home) = none → exec (.clkadvOff a off) s = .next (s.modMe Hart.retire))) ∧
      (∀ (c : Nat) (v : Word) (u : State), s.resolve .load (s.ea a off).toNat = .trap c v u →
        exec (.clkadvOff a off) s = .next (u.modMe Hart.retire)) ∧
      (off = 0 → exec (.clkadv a) s = exec (.clkadvOff a off) s)) ∧
    (∀ (d a : Reg) (off : BitVec 24) (s : State) (p : Place), s.Free [d, a] [] → s.excluded (s.ea a off).toNat 8 = false →
      ((s.ea a off).toNat % 8 ≠ 0 → exec (.lwaitOff d a off) s = .next (s.trap 4 (s.ea a off))) ∧
      (off = 0 → exec (.lwait d a) s = exec (.lwaitOff d a off) s) ∧
      ((s.ea a off).toNat % 8 = 0 → s.resolve .load (s.ea a off).toNat = .ok p s → s.me.forward p.addr 8 = none →
        (∀ (v : Nat) (u : State), p.kind = .hbm → (∀ l : L1Line, s.me.l1At (l1Key (lineNo p.addr) p.home) = some l → l.st ≠ .shared) →
          s.giveUpRenewal.loadPlace p (s.ea a off) 8 = .ok v u →
          exec (.lwaitOff d a off) s = .next (((u.wx d (BitVec.ofNat 64 v)).record 3 3 (s.ea a off)).modMe Hart.retire)) ∧
        (p.kind = .vault → s.deadRoute (dieOf s.cur) (dieOfQuad p.home) = none → s.me.ld = none →
          (s.quad p.home).watches.length < 16 →
          exec (.lwaitOff d a off) s = .next ((s.modQuad p.home (fun q =>
            { q with watches := q.watches ++ [{ unit := p.addr / 64 * 64, hart := s.cur }] })).modMe (fun h =>
              { h with ld := some { kind := .watch, key := p.addr / 64 * 64 } }))) ∧
        (∀ (x : Pend) (t : Nat), p.kind = .vault → s.deadRoute (dieOf s.cur) (dieOfQuad p.home) = none → s.vaultPosted s.cur p.addr 8 = false →
          s.poisoned p.addr = false → s.me.ld = some x → x.kind = .watch → x.done = true → x.time = some t →
          exec (.lwaitOff d a off) s = .next ((((s.modMe (fun h => { (h.raise t).raise (s.quad p.home).vclk with ld := none })).wx d
            (BitVec.ofNat 64 (s.readNat p.addr 8))).record 3 3 (s.ea a off)).modMe Hart.retire)))))

/-! ## Tasks -/

/-- The small task instructions write the running task's values: TWDCHK its withdrawal flag, TBUDGET REMAIN, TSELF its TCB address,
DRANK and DSIZE its rank and the size of its domain; with no task on the hart they write 0, and DSIZE 1 (R343). Nothing else changes.
-/
def Obligations.TaskValues : Prop :=
  ∀ (d : Reg) (s : State), s.Free [d] [] →
    (s.me.task = none →
      exec (.twdchk d) s = .next (s.modMe (fun h => (h.wx d 0).retire)) ∧
      exec (.tbudget d) s = .next (s.modMe (fun h => (h.wx d 0).retire)) ∧
      exec (.tself d) s = .next (s.modMe (fun h => (h.wx d 0).retire)) ∧
      exec (.drank d) s = .next (s.modMe (fun h => (h.wx d 0).retire)) ∧
      exec (.dsize d) s = .next (s.modMe (fun h => (h.wx d 1).retire))) ∧
    (∀ (k : Nat) (t : Task), s.me.task = some k → s.task k = some t →
      exec (.twdchk d) s = .next (s.modMe (fun h => (h.wx d (if h.wdPending then 1 else 0)).retire)) ∧
      exec (.tbudget d) s = .next (s.modMe (fun h => (h.wx d (zx h.dev.remain)).retire)) ∧
      exec (.tself d) s = .next (s.modMe (fun h => (h.wx d (BitVec.ofNat 64 t.addr)).retire)) ∧
      exec (.drank d) s = .next (s.modMe (fun h => (h.wx d (BitVec.ofNat 64 h.dev.dmrRank)).retire)) ∧
      exec (.dsize d) s = .next (s.modMe (fun h => (h.wx d (BitVec.ofNat 64 h.dev.dmrSize)).retire)))

/-- TSPAWN in its four forms, with its release done: the submission of the TCB at the address in the address space of the running
task, by the hart's die and in the task's launch, and its result in xd; with .n the dispatcher is to post the end to the submitting
slot. With no task on the hart xd is 1 and nothing is submitted. A submission. A misaligned address, or one where the address space
has no writable TCB in HBM, is refused as 1; a TCB that can be read and fails check c is refused as c, and nothing is written; with
the die full it is 11. Else the result is 0, STATE is written, the submission number is the next one of the package, and the
dispatcher holds the task: READY when its predecessor count is 0, with its deadline filled and its class raised to the tenant's floor.
-/
def Obligations.Spawning : Prop :=
  ((∀ (d a : Reg) (off : BitVec 24) (s : State), s.Free [d, a] [] → s.releasePackage = .ok () s → s.me.task = none →
      exec (.tspawn d a) s = .next (s.modMe (fun h => (h.wx d 1).retire)) ∧
      exec (.tspawnN d a) s = .next (s.modMe (fun h => (h.wx d 1).retire)) ∧
      exec (.tspawnOff d a off) s = .next (s.modMe (fun h => (h.wx d 1).retire)) ∧
      exec (.tspawnNOff d a off) s = .next (s.modMe (fun h => (h.wx d 1).retire))) ∧
    (∀ (d a : Reg) (off : BitVec 24) (s : State) (k c : Nat) (t : Task) (p q : Nat × State), s.Free [d, a] [] →
      s.releasePackage = .ok () s → s.me.task = some k → s.me.ctx = some c → s.task k = some t →
      (p = s.submit (s.asidOf s.cur) (s.ea a off).toNat (dieOf s.cur) t.launch none s.me.pts →
        exec (.tspawnOff d a off) s = .next ((p.2.wx d (BitVec.ofNat 64 p.1)).modMe Hart.retire) ∧
        (off = 0 → exec (.tspawn d a) s = exec (.tspawnOff d a off) s)) ∧
      (q = s.submit (s.asidOf s.cur) (s.ea a off).toNat (dieOf s.cur) t.launch (some (c, s.me.slot)) s.me.pts →
        exec (.tspawnNOff d a off) s = .next ((q.2.wx d (BitVec.ofNat 64 q.1)).modMe Hart.retire) ∧
        (off = 0 → exec (.tspawnN d a) s = exec (.tspawnNOff d a off) s)))) ∧
  (∀ (s : State) (asid addr die : Nat) (l : Option Nat) (n : Option (Nat × Nat)) (t0 : Nat),
      (addr % 64 ≠ 0 ∨ s.tcbPlace asid .store addr = none → s.submit asid addr die l n t0 = (1, s)) ∧
      (∀ (bs : List Byte) (tm : Nat) (u : State), addr % 64 = 0 → s.tcbPlace asid .store addr ≠ none →
        s.tcbPlace asid .store (addr + 64) ≠ none → s.readTcb asid addr t0 = some (bs, tm, u) →
        (u.tcbCheck asid addr bs ≠ 0 → s.submit asid addr die l n t0 = (u.tcbCheck asid addr bs, u)) ∧
        (u.tcbCheck asid addr bs = 0 → 65536 ≤ (u.disp.tasks.filter (fun t => t.2.die == die)).length →
          s.submit asid addr die l n t0 = (11, u)) ∧
        (u.tcbCheck asid addr bs = 0 → (u.disp.tasks.filter (fun t => t.2.die == die)).length < 65536 → bytesAt bs 0x18 2 = 0 →
          ∃ (w : State) (k : Nat) (t : Task), s.submit asid addr die l n t0 = (0, w) ∧ w.task k = some t ∧ w.disp.nextSub = k + 1 ∧
            t.state = 2 ∧ t.addr = addr ∧ t.asid = asid ∧ t.die = die ∧ t.count = 0 ∧ t.tcb = Tcb.ofBytes bs ∧ t.notify = n ∧
            t.launch = l ∧ t0 ≤ t.relTime ∧ tm ≤ t.relTime ∧ bytesAt bs 0x2D 1 ≤ t.cls ∧
            (bytesAt bs 0x20 8 ≠ 0 → t.deadline = bytesAt bs 0x20 8))))

/-- TRETIRE and TRETIRE.A. Outside U-mode, or with no task on the hart, they are illegal instructions. In U-mode with the task's
agents done, no failed token, and the system release done, the member of the task ends, with the absorbing attribute for .A; its pc
moves on and it counts as retired. Before that a task that runs alone, or the member of rank 0, stores X[a] once at offset 0x60 of its
TCB, and x0 or another member stores nothing. A token whose transfer failed raises cause 28 for the lowest such register. While an
agent of the task works they wait. The end of a task that runs alone: its hart's part has ended, with an end time of at least the
hart's clock and the absorbing attribute as given. When it ended by TRETIRE it is retired and its hart passes to the dispatcher; when
it cancelled itself it withdraws from its unfinished producers and ends CANCELLED on its hart. -/
def Obligations.TaskEnd : Prop :=
  ((∀ (a : Reg) (s : State), s.Free [] [] → s.me.task = none ∨ s.me.mode ≠ .u →
      exec (.tretire a) s = .next (s.trap 2 s.me.ir) ∧ exec (.tretireA a) s = .next (s.trap 2 s.me.ir)) ∧
    (∀ (a : Reg) (s : State) (k : Nat), s.me.task = some k → s.me.mode = .u → s.agentsDone k = false →
      exec (.tretire a) s = .next s ∧ exec (.tretireA a) s = .next s) ∧
    (∀ (a : Reg) (s u v : State) (k : Nat), s.me.task = some k → s.me.mode = .u → s.joinAgents k = .ok () u →
      a = 0 ∨ (u.me.dev.dmrLevel ≠ 0 ∧ u.me.dev.dmrRank ≠ 0) → u.releaseSystem = .ok () v →
      exec (.tretire a) s = .next (v.memberEnds k false false) ∧ exec (.tretireA a) s = .next (v.memberEnds k true false)) ∧
    (∀ (a : Reg) (s u w v : State) (k : Nat) (t : Task), s.me.task = some k → s.task k = some t → s.me.mode = .u →
      s.joinAgents k = .ok () u → a ≠ 0 → u.me.dev.dmrLevel = 0 ∨ u.me.dev.dmrRank = 0 →
      u.once (2 ^ 81) (fun u => (u.store (BitVec.ofNat 64 (t.addr + 0x60)) 8 (u.rx a).toNat).andThen fun _ x => .ok 0 x) = .ok 0 w →
      w.releaseSystem = .ok () v →
      exec (.tretire a) s = .next (v.memberEnds k false false) ∧ exec (.tretireA a) s = .next (v.memberEnds k true false)) ∧
    (∀ (a : Reg) (s : State) (k n : Nat), s.me.task = some k → s.me.mode = .u → s.agentsDone k = true →
      (List.range 32).find? (fun n => (s.me.token n).fpend) = some n →
      ∃ t, exec (.tretire a) s = .next t ∧ exec (.tretireA a) s = .next t ∧
        t = (s.modMe (fun x => (x.raise (s.agentsTime k)).setToken n { s.me.token n with fpend := false, unjoined := false })).trap 28
          (report (s.me.token n).status 0 n))) ∧
  (∀ (s : State) (k : Nat) (t : Task) (m : Member) (abs cancel : Bool), s.task k = some t → t.members = [m] → m.hart = s.cur →
      m.rank = 0 →
      ∃ (t' : Task) (u : State), t'.members = [{ m with ended := true, cancelled := cancel }] ∧ t'.abs = abs ∧
        t'.endTime = max t.endTime s.me.pts ∧ t'.addr = t.addr ∧ t'.tcb = t.tcb ∧ t'.asid = t.asid ∧ t'.finished = t.finished ∧
        u.task k = some t' ∧ u.me.status = .ended ∧
        s.memberEnds k abs cancel = (if cancel then (u.withdrawFrom t' t'.pendingEntries).endTask k 10 0 s.cur false
          else (u.retireTask k).releaseHart s.cur t.asid true))

/-- TCANCEL of a TCB whose address can be loaded. Of the running task's own TCB, with its agents done and the system release done, it
ends the member as cancelled. Of another: a task that has not been dispatched is withdrawn from its unfinished producers, ends
CANCELLED with HART 0xFFF, and xd is 0; a task that is dispatched, runs or is suspended is unchanged, with xd 2; one whose end is
being written is unchanged, with xd 3; an address that holds no task and no ended TCB gives 4. TSTAT of a task that the dispatcher
holds writes its own copies: the demand, the predecessor count and the status bits 31:0 with the current state (R342). -/
def Obligations.TaskCancel : Prop :=
  ((∀ (d a : Reg) (s v : State) (k : Nat), s.me.task = some k → (s.task k).map (·.addr) = some (s.rx a).toNat →
      s.me.xBusy a.toNat = false → s.me.xBusy d.toNat = false → s.loadFaults (s.rx a) = .ok () s → s.agentsDone k = true →
      s.releaseSystem = .ok () v → exec (.tcancel d a) s = .next (v.memberEnds k false true)) ∧
    (∀ (d a : Reg) (s : State), s.Free [d, a] [] →
      (∀ k : Nat, s.me.task = some k → (s.task k).map (·.addr) ≠ some (s.rx a).toNat) → s.loadFaults (s.rx a) = .ok () s →
      (∀ (k : Nat) (t : Task), s.heldTask (s.asidOf s.cur) (s.rx a).toNat = some (k, t) →
        (t.ending = none → t.state = 1 ∨ t.state = 2 →
          exec (.tcancel d a) s = .next ((((s.withdrawFrom t t.pendingEntries).endTask k 10 0 0xFFF false).wx d 0).modMe Hart.retire)) ∧
        (t.ending = none → t.state = 3 ∨ t.state = 4 ∨ t.state = 5 →
          exec (.tcancel d a) s = .next (s.modMe (fun h => (h.wx d 2).retire))) ∧
        (t.ending ≠ none → exec (.tcancel d a) s = .next (s.modMe (fun h => (h.wx d 3).retire)))) ∧
      (s.heldTask (s.asidOf s.cur) (s.rx a).toNat = none →
        s.tcbPlace (s.asidOf s.cur) .load ((s.rx a).toNat + 0x58) = none →
        exec (.tcancel d a) s = .next (s.modMe (fun h => (h.wx d 4).retire))))) ∧
  (∀ (d a : Reg) (s : State) (k : Nat) (t : Task), s.Free [d, a] [] →
      s.heldTask (s.asidOf s.cur) (s.rx a).toNat = some (k, t) →
      exec (.tstat d a) s = .next (s.modMe (fun h => (h.wx d (BitVec.ofNat 64 (t.demand * 2 ^ 48 + t.count * 2 ^ 32
        + t.statusLow t.state 0 (if t.members.isEmpty then 0 else t.hartNo)))).retire)))

/-- TYIELD. Outside U-mode it is an illegal instruction. For a task of no stage, or of a stage whose ring has a published slot or has
ended, it does nothing but move on. For a stage task with an empty ring that has not ended, and no move pending, the hart parks and
its pc stays. CTXPRE, CTXREL, MCSET and AUDAPP are illegal instructions in U-mode, AUDAPP also in S-mode. CTXPRE writes −1 for a
context that is not live, −2 for an action above 2, lifts the hold with action 2, and with action 0 on a context that runs nothing
writes 0. CTXREL of a live context starts its release and writes 0, of one being released it writes 1, of no context −1. MCSET with an
unreadable mask raises cause 5 and refuses other bits of X[a] as 2; for a group of the ASID or of none, with every quad of the mask
present and holding a live context of the ASID, it writes 1 while a transfer in flight names the group, and else sets the group to the
mask, frees it for an empty mask, and writes 0. AUDAPP appends an entry of the kind with bit 15 set, from the hart, with the 24 bytes,
in a cycle of its own, and writes its sequence number; with the audit log full it writes all ones. TRMARK records an entry of kind 9
with its value, and under TMODE 3 it triggers when the value's low word is MATCH; TRTRIG triggers under TMODE 1; with the trace off
each does nothing but move on. A trigger pushes an entry of kind 10 and freezes the buffer at once when POST is 0 (R186, R187). -/
def Obligations.ContextInstructions : Prop :=
  (∀ s : State, s.Free [] [] →
      (s.me.mode ≠ .u → exec .tyield s = .next (s.trap 2 s.me.ir)) ∧
      (s.me.mode = .u → s.me.task = none → exec .tyield s = .next (s.modMe Hart.retire)) ∧
      (∀ (k : Nat) (t : Task), s.me.mode = .u → s.me.task = some k → s.task k = some t → s.pendingMove s.cur = none →
        ((s.stageOf t).bind (s.stageRing t.asid) = none → exec .tyield s = .next (s.modMe Hart.retire)) ∧
        (∀ r : Ring, (s.stageOf t).bind (s.stageRing t.asid) = some r →
          (r.published ≠ 0 ∨ r.eos = true → exec .tyield s = .next (s.modMe Hart.retire)) ∧
          (r.published = 0 → r.eos = false →
            exec .tyield s = .next (s.modMe (fun h => { h with status := .parked, parkedCycles := 0 })))))) ∧
  ((∀ (d a b : Reg) (s : State), s.Free [d, a, b] [] →
      (s.me.mode = .u → exec (.ctxpre d a b) s = .next (s.trap 2 s.me.ir) ∧ exec (.mcset d a b) s = .next (s.trap 2 s.me.ir)) ∧
      (s.me.mode ≠ .m → exec (.audapp d a b) s = .next (s.trap 2 s.me.ir)) ∧
      (s.me.mode ≠ .u → (s.context (s.rx a).toNat = none → exec (.ctxpre d a b) s = .next (s.modMe (fun h => (h.wx d (-1)).retire))) ∧
        (∀ x : Context, s.context (s.rx a).toNat = some x → x.live = true →
          (2 < (s.rx b).toNat → exec (.ctxpre d a b) s = .next (s.modMe (fun h => (h.wx d (-2)).retire))) ∧
          ((s.rx b).toNat = 2 → exec (.ctxpre d a b) s = .next (((s.modContext (s.rx a).toNat (fun x => { x with hold := false })).wx d
            0).modMe Hart.retire)) ∧
          ((s.rx b).toNat = 0 → s.tasksOn (s.rx a).toNat = [] → Store.find? s.me.partials (2 ^ 83) = none →
            ∃ t, exec (.ctxpre d a b) s = .next t ∧ t.me.x = (s.me.wx d 0).x ∧ t.me.pc = s.me.npc ∧ t.disp = s.disp))) ∧
      (s.me.mode ≠ .u → (s.rx b).toNat % 8 = 0 → s.superBytes (s.rx b).toNat 80 = none →
        exec (.mcset d a b) s = .next (s.trap 5 (s.rx b))) ∧
      (∀ bs : List Byte, s.me.mode ≠ .u → (s.rx b).toNat % 8 = 0 → s.superBytes (s.rx b).toNat 80 = some bs →
        (natBits (s.rx a).toNat 12 4 ≠ 0 → exec (.mcset d a b) s = .next (s.modMe (fun h => (h.wx d 2).retire))) ∧
        (natBits (s.rx a).toNat 12 4 = 0 → (s.rx a).toNat / 2 ^ 32 = 0 →
          (∀ e, Store.find? s.disp.mcast (natBits (s.rx a).toNat 0 12) = some e → e.1 = natBits (s.rx a).toNat 16 16) →
          (∀ q : Nat, q < 640 → (BitVec.ofNat 640 (ofBytes bs)).getLsbD q = true →
            s.quadPresent q = true ∧ (s.liveContexts (natBits (s.rx a).toNat 16 16)).any (fun c => c.2.quad == q) = true) →
          (s.groupBusy (natBits (s.rx a).toNat 0 12) = true → exec (.mcset d a b) s = .next (s.modMe (fun h => (h.wx d 1).retire))) ∧
          (s.groupBusy (natBits (s.rx a).toNat 0 12) = false → exec (.mcset d a b) s = .next (((s.modDisp (fun x =>
            { x with mcast := if BitVec.ofNat 640 (ofBytes bs) = 0 then Store.del x.mcast (natBits (s.rx a).toNat 0 12)
                              else Store.put x.mcast (natBits (s.rx a).toNat 0 12)
                                (natBits (s.rx a).toNat 16 16, BitVec.ofNat 640 (ofBytes bs)) })).wx d 0).modMe Hart.retire)))) ∧
      (s.me.mode = .m → (s.rx b).toNat % 8 ≠ 0 → exec (.audapp d a b) s = .next (s.trap 4 (s.rx b))) ∧
      (∀ p : Place, s.me.mode = .m → (s.rx b).toNat % 8 = 0 →
        s.physPlace { mode := .m, asid := 0, bare := true, root := 0 } .load (s.rx b).toNat = .ok p → p.kind = .hbm →
        s.rangePoisoned (s.rx b).toNat 24 = false →
        (s.rtu.auditFull = true → exec (.audapp d a b) s = .next (s.modMe (fun h => (h.wx d (BitVec.allOnes 64)).retire))) ∧
        (s.rtu.auditFull = false → exec (.audapp d a b) s = .next ((((s.audit (0x8000 + natBits (s.rx a).toNat 0 15) s.cur (s.asidOf s.cur)
          (ofBytes (s.peekBytes (s.rx b).toNat 24))).passCycles 1).wx d (BitVec.ofNat 64 s.rtu.seq)).modMe Hart.retire)))) ∧
    (∀ (d a : Reg) (s : State), s.Free [d, a] [] →
      (s.me.mode = .u → exec (.ctxrel d a) s = .next (s.trap 2 s.me.ir)) ∧
      (s.me.mode ≠ .u →
        (s.context (s.rx a).toNat = none → exec (.ctxrel d a) s = .next (s.modMe (fun h => (h.wx d (-1)).retire))) ∧
        (∀ x : Context, s.context (s.rx a).toNat = some x →
          (x.live = true → exec (.ctxrel d a) s = .next (((s.startRelease (s.rx a).toNat).wx d 0).modMe Hart.retire)) ∧
          (x.live = false → x.release ≠ none → exec (.ctxrel d a) s = .next (s.modMe (fun h => (h.wx d 1).retire))))))) ∧
  ((∀ (a : Reg) (imm : BitVec 24) (s : State), s.Free [a] [] →
      (s.me.dev.trcfg.getLsbD 0 = false →
        exec (.trmark a) s = .next (s.modMe Hart.retire) ∧ exec (.trmarkI imm) s = .next (s.modMe Hart.retire) ∧
        exec .trtrig s = .next (s.modMe Hart.retire)) ∧
      (∀ (v : Word) (h : Hart), h = s.me.record s.cycle 0 9 v →
        (v = s.rx a → exec (.trmark a) s = .next (s.modMe (fun _ =>
          (if fld h.dev.trcfg 10 2 = 3 ∧ fld v 0 32 = fld h.dev.trcfg 32 32 then h.trigger s.cycle else h).retire))) ∧
        (v = sx imm → exec (.trmarkI imm) s = .next (s.modMe (fun _ =>
          (if fld h.dev.trcfg 10 2 = 3 ∧ fld v 0 32 = fld h.dev.trcfg 32 32 then h.trigger s.cycle else h).retire)))) ∧
      (fld s.me.dev.trcfg 10 2 = 1 → exec .trtrig s = .next (s.modMe (fun h => (h.trigger s.cycle).retire))) ∧
      (fld s.me.dev.trcfg 10 2 ≠ 1 → exec .trtrig s = .next (s.modMe Hart.retire))) ∧
    (∀ (h : Hart) (c : Nat), h.dev.trcfg.getLsbD 0 = true → h.dev.trcfg.getLsbD 8 = false → (fld h.dev.trcfg 23 9).toNat = 0 →
      (h.trigger c).dev.trcfg.getLsbD 8 = true ∧
        ((h.trigger c).trace.entries.head?.map (fun e => fld e.w0 32 8)) = some (10 : BitVec 8)))

/-! ## Regions and handles -/

/-- What a region instruction writes (R369, R372 to R374). canon keeps exactly the elements: a coordinate on the lattice lies in one
of the boxes it gives when it lies in one of the clamped boxes it is given. A result has at most eight boxes; it contains every
element of the exact set; it has OVF exactly when the canonical form needed more than eight boxes, and without OVF it has no other
element; it is INEXACT when that is inherited or it has OVF. -/
def Obligations.RegionResult : Prop :=
  ∀ (n : Nat) (bs : List Box) (l : Lattice) (inx : Bool) (x : List Int),
    (∀ b ∈ bs, b.length = l.length) → x.length = l.length → onLattice l x = true →
    (canon bs l).any (inBox · x) = bs.any (fun b => inBox (clampBox b) x) ∧
    (Region.result n bs l inx).boxes.length ≤ 8 ∧
    (bs.any (fun b => inBox (clampBox b) x) = true → (Region.result n bs l inx).boxes.any (inBox · x) = true) ∧
    (Region.result n bs l inx).ovf = decide (8 < (canon bs l).length) ∧
    ((Region.result n bs l inx).ovf = false →
      (Region.result n bs l inx).boxes.any (inBox · x) = bs.any (fun b => inBox (clampBox b) x)) ∧
    (Region.result n bs l inx).inexact = (inx || (Region.result n bs l inx).ovf) ∧
    (Region.result n bs l inx).d = n ∧ (Region.result n bs l inx).lat = l

/-- Writing a region register. G[d] reads as the region, no other region register, no vector and no handle register of the hart's slot
changes, gstat.OVF is the region's OVF, gstat.INEXACT is set by an INEXACT region and else keeps its value, and nothing else changes.
The region instructions that build a region and the set algebra, with the registers they name free and resident: the result goes to
G[d] as `result` gives it. RGFULL and RGCLIP need the handle's dimension count, RGUNI and RGSUB equal dimension counts and lattices,
RGINT equal dimension counts; else they raise cause 30 with the two operand numbers in the trap value. RGSUB raises cause 24 with b's
number for an INEXACT subtrahend. -/
def Obligations.RegionAlgebra : Prop :=
  (∀ (s : State) (d : Reg) (r : Region),
      (s.putRegion d r).gget d = r ∧
      (∀ e : Reg, e ≠ d → (s.putRegion d r).slot.has (codeG e) = s.slot.has (codeG e)) ∧
      (∀ e : Reg, e ≠ d → s.resident (codeG e) = true → (s.putRegion d r).gget e = s.gget e) ∧
      (s.putRegion d r).slot.v = s.slot.v ∧ (s.putRegion d r).slot.h = s.slot.h ∧
      (s.putRegion d r).me.dev.gstat.getLsbD 1 = r.ovf ∧
      (s.putRegion d r).me.dev.gstat.getLsbD 0 = (s.me.dev.gstat.getLsbD 0 || r.inexact) ∧
      (∃ g : Word, (s.putRegion d r).me = { s.me with dev := { s.me.dev with gstat := g } }) ∧
      (s.putRegion d r).mem = s.mem ∧ (s.putRegion d r).disp = s.disp ∧ (s.putRegion d r).quads = s.quads ∧
      (∀ g, g ≠ s.cur → (s.putRegion d r).hart g = s.hart g)) ∧
  ((∀ (d : Reg) (n : BitVec 5) (s : State), s.Free [] [] →
      exec (.rgnil d n) s = .next (s.withRegion d (Region.result n.toNat [] (denseLat n.toNat) false))) ∧
    (∀ (d a : Reg) (s : State), s.Free [] [] → s.Resident [codeH a] →
      ((Handle.ofLine (s.hget a)).count = none → exec (.rgfull d a) s = .next (s.trap 30 (mismatch d a))) ∧
      (∀ n : Nat, (Handle.ofLine (s.hget a)).count = some n → exec (.rgfull d a) s = .next (s.withRegion d
        (Region.result n [extentBox (Handle.ofLine (s.hget a)) n] (denseLat n) false)))) ∧
    (∀ (d a b : Reg) (n : BitVec 2) (e : BitVec 24) (s : State), s.Free [a, b] [] → s.Resident [codeG d] →
      exec (.rgpt d a b) s = .next (s.withRegion d (Region.result (s.gget d).d
        [((pointCoords s a b).take (s.gget d).d).map (fun c => (c, c + 1))] (denseLat (s.gget d).d) false)) ∧
      exec (.rgptI d a b n e) s = .next (s.withRegion d (Region.result (n.toNat + 1)
        [((pointCoords s a b).take (n.toNat + 1)).zipIdx.map (fun c => (c.1, c.1 + ((field6 e c.2 + 1 : Nat) : Int)))]
        (denseLat (n.toNat + 1)) false))) ∧
    (∀ (d a b : Reg) (s : State), s.Free [] [] → s.Resident [codeG a, codeH b] →
      ((Handle.ofLine (s.hget b)).count = some (s.gget a).d → exec (.rgclip d a b) s = .next (s.withRegion d (Region.result (s.gget a).d
        (boxesInter (s.gget a).boxes [extentBox (Handle.ofLine (s.hget b)) (s.gget a).d]) (s.gget a).lat (s.gget a).inexact))) ∧
      ((Handle.ofLine (s.hget b)).count ≠ some (s.gget a).d → exec (.rgclip d a b) s = .next (s.trap 30 (mismatch a b)))) ∧
    (∀ (d a b : Reg) (s : State), s.Free [] [] → s.Resident [codeG a, codeG b] →
      ((s.gget a).d = (s.gget b).d → (s.gget a).lat = (s.gget b).lat →
        exec (.rguni d a b) s = .next (s.withRegion d (Region.result (s.gget a).d ((s.gget a).boxes ++ (s.gget b).boxes) (s.gget a).lat
          ((s.gget a).inexact || (s.gget b).inexact))) ∧
        ((s.gget b).inexact = true → exec (.rgsub d a b) s = .next (s.trap 24 (BitVec.ofNat 64 b.toNat))) ∧
        ((s.gget b).inexact = false → exec (.rgsub d a b) s = .next (s.withRegion d (Region.result (s.gget a).d
          (boxesMinus (s.gget a).boxes (s.gget b).boxes) (s.gget a).lat (s.gget a).inexact)))) ∧
      ((s.gget a).d ≠ (s.gget b).d ∨ (s.gget a).lat ≠ (s.gget b).lat →
        exec (.rguni d a b) s = .next (s.trap 30 (mismatch a b)) ∧ exec (.rgsub d a b) s = .next (s.trap 30 (mismatch a b))) ∧
      ((s.gget a).d ≠ (s.gget b).d → exec (.rgint d a b) s = .next (s.trap 30 (mismatch a b))) ∧
      ((s.gget a).d = (s.gget b).d →
        (∀ l : Lattice, combineAll (s.gget a).lat (s.gget b).lat = some l → exec (.rgint d a b) s = .next (s.withRegion d
          (Region.result (s.gget a).d (boxesInter (s.gget a).boxes (s.gget b).boxes) l ((s.gget a).inexact || (s.gget b).inexact)))) ∧
        (combineAll (s.gget a).lat (s.gget b).lat = none → exec (.rgint d a b) s = .next (s.withRegion d
          (Region.result (s.gget a).d [] (s.gget a).lat ((s.gget a).inexact || (s.gget b).inexact)))))))

/-- The region instructions that reshape a region, in their register and their immediate forms, with the registers they name free and
resident: the result goes to G[d]. Where an operand breaks its range they raise cause 30 (R383 to R389). The queries write their
answer to xd and change nothing else: RGCNT the number of elements, at most 2^64 − 1; RGNBX the number of boxes; RGTST, RGEQ and
RGSUBS 1 or 0 by the elements the two regions have in common, and cause 30 for different dimension counts; RGGET the field that the
selector names. -/
def Obligations.RegionReshaping : Prop :=
  (∀ (d a b : Reg) (imm : BitVec 24) (s : State) (g : Region), s.Free [b] [] → s.Resident [codeG a] → g = s.gget a →
      (g.dense = true →
        exec (.rgdil d a b) s = .next (s.withRegion d (Region.result g.d (moveBoxes g.boxes
          (fun i => -(field16 (s.rx b) i : Int)) (fun i => (field16 (s.rx b) i : Int))) g.lat g.inexact)) ∧
        exec (.rgdilI d a imm) s = .next (s.withRegion d (Region.result g.d (moveBoxes g.boxes
          (fun i => -(field6 imm i : Int)) (fun i => (field6 imm i : Int))) g.lat g.inexact))) ∧
      (g.dense = false →
        exec (.rgdil d a b) s = .next (s.trap 30 (mismatch a b)) ∧ exec (.rgdilI d a imm) s = .next (s.trap 30 (mismatch a 0))) ∧
      exec (.rgshf d a b) s = .next (s.withRegion d (Region.result g.d
        (moveBoxes g.boxes (fun i => natToInt 16 (field16 (s.rx b) i)) (fun i => natToInt 16 (field16 (s.rx b) i)))
        (g.lat.zipIdx.map (fun e => (e.1.1, (((e.1.2 : Int) + natToInt 16 (field16 (s.rx b) e.2)) % 2 ^ e.1.1).toNat))) g.inexact)) ∧
      exec (.rgshfI d a imm) s = .next (s.withRegion d (Region.result g.d
        (moveBoxes g.boxes (fun i => natToInt 6 (field6 imm i)) (fun i => natToInt 6 (field6 imm i)))
        (g.lat.zipIdx.map (fun e => (e.1.1, (((e.1.2 : Int) + natToInt 6 (field6 imm e.2)) % 2 ^ e.1.1).toNat))) g.inexact)) ∧
      ((s.rx b).toNat = 0 ∨ 2 ^ g.d ≤ (s.rx b).toNat → exec (.rgprj d a b) s = .next (s.trap 30 (mismatch a b))) ∧
      ((s.rx b).toNat ≠ 0 → (s.rx b).toNat < 2 ^ g.d → exec (.rgprj d a b) s = .next (s.withRegion d (Region.result
        (popCountTo (s.rx b).toNat 4) (g.boxes.map (keepBits (s.rx b).toNat)) (keepBits (s.rx b).toNat g.lat) g.inexact))) ∧
      (imm.toNat ≠ 0 → imm.toNat < 2 ^ g.d → exec (.rgprjI d a imm) s = .next (s.withRegion d (Region.result
        (popCountTo imm.toNat 4) (g.boxes.map (keepBits imm.toNat)) (keepBits imm.toNat g.lat) g.inexact))) ∧
      (3 < g.d → exec (.rgxpd d a b) s = .next (s.trap 30 (mismatch a b))) ∧
      (g.d ≤ 3 → exec (.rgxpd d a b) s = .next (s.withRegion d (Region.result (g.d + 1)
        (if hi32 (s.rx b) ≤ lo32 (s.rx b) then [] else g.boxes.map (fun x => insertAt x 0 (lo32 (s.rx b), hi32 (s.rx b))))
        (insertAt g.lat 0 (0, 0)) g.inexact))) ∧
      (g.d ≤ 3 → natBits imm.toNat 0 2 ≤ g.d → exec (.rgxpdI d a imm) s = .next (s.withRegion d (Region.result (g.d + 1)
        (g.boxes.map (fun x => insertAt x (natBits imm.toNat 0 2) (natToInt 11 (natBits imm.toNat 2 11),
          natToInt 11 (natBits imm.toNat 2 11) + (natBits imm.toNat 13 11 + 1 : Nat))))
        (insertAt g.lat (natBits imm.toNat 0 2) (0, 0)) g.inexact))) ∧
      (∀ m : Lattice, combineAll g.lat ((List.range g.d).map (fun i => (natBits (field6 imm i) 0 3, natBits (field6 imm i) 3 3))) = some m →
        (List.range g.d).all (fun i => decide (natBits (field6 imm i) 3 3 < 2 ^ natBits (field6 imm i) 0 3)) = true →
        exec (.rglatI d a imm) s = .next (s.withRegion d (Region.result g.d g.boxes m g.inexact))) ∧
      ((List.range g.d).all (fun i => natBits (field16 (s.rx b) i) 3 5 == 0 && !natBit (field16 (s.rx b) i) 15 &&
          decide (natBits (field16 (s.rx b) i) 8 7 < 2 ^ natBits (field16 (s.rx b) i) 0 3)) = true →
        (∀ m : Lattice, combineAll g.lat ((List.range g.d).map (fun i => (natBits (field16 (s.rx b) i) 0 3,
            natBits (field16 (s.rx b) i) 8 7))) = some m →
          exec (.rglat d a b) s = .next (s.withRegion d (Region.result g.d g.boxes m g.inexact))) ∧
        (combineAll g.lat ((List.range g.d).map (fun i => (natBits (field16 (s.rx b) i) 0 3,
            natBits (field16 (s.rx b) i) 8 7))) = none →
          exec (.rglat d a b) s = .next (s.withRegion d (Region.result g.d [] g.lat g.inexact)))) ∧
      (natBits (s.rx b).toNat 3 29 ≠ 0 ∨ g.d ≤ natBits (s.rx b).toNat 0 2 →
        exec (.rgcut d a b) s = .next (s.trap 30 (mismatch a b))) ∧
      (natBits (s.rx b).toNat 3 29 = 0 → natBits (s.rx b).toNat 0 2 < g.d → exec (.rgcut d a b) s = .next (s.withRegion d (Region.result g.d
        (g.boxes.filterMap (cutBox (natBits (s.rx b).toNat 0 2) (natBit (s.rx b).toNat 2) (hi32 (s.rx b)))) g.lat g.inexact))) ∧
      (natBits imm.toNat 0 2 < g.d → exec (.rgcutI d a imm) s = .next (s.withRegion d (Region.result g.d
        (g.boxes.filterMap (cutBox (natBits imm.toNat 0 2) (natBit imm.toNat 2) (natToInt 21 (natBits imm.toNat 3 21)))) g.lat g.inexact))) ∧
      exec (.rgspl d a b) s = .next (s.withRegion d (Region.result g.d
        ((g.boxes.drop (natBits (s.rx b).toNat 0 4)).take (natBits (s.rx b).toNat 4 4)) g.lat g.inexact)) ∧
      exec (.rgsplI d a imm) s = .next (s.withRegion d (Region.result g.d
        ((g.boxes.drop (natBits imm.toNat 0 4)).take (natBits imm.toNat 4 4)) g.lat g.inexact)) ∧
      (g.boxes = [] → exec (.rgbbox d a) s = .next (s.withRegion d (Region.result g.d [] g.lat g.inexact))) ∧
      (g.boxes ≠ [] → exec (.rgbbox d a) s = .next (s.withRegion d (Region.result g.d [bboxAll g.boxes] g.lat
        (g.inexact || decide (g.count < boxPts g.lat (bboxAll g.boxes)))))) ∧
      exec (.rgmv d a) s = .next (s.withRegion d { g with ovf := false }) ∧
      exec (.rgcan d a) s = .next (s.withRegion d { g with ovf := false, inexact := false })) ∧
  (∀ (d a b : Reg) (sel : BitVec 7) (s : State), s.Free [d, b] [] → s.Resident [codeG a, codeG b] →
      exec (.rgcnt d a) s = .next (s.modMe (fun h => (h.wx d (BitVec.ofNat 64 (min (s.gget a).count (2 ^ 64 - 1)))).retire)) ∧
      exec (.rgnbx d a) s = .next (s.modMe (fun h => (h.wx d (BitVec.ofNat 64 (s.gget a).boxes.length)).retire)) ∧
      exec (.rgget d a b) s = .next (s.modMe (fun h => (h.wx d ((s.gget a).select (natBits (s.rx b).toNat 0 7))).retire)) ∧
      exec (.rggetI d a sel) s = .next (s.modMe (fun h => (h.wx d ((s.gget a).select sel.toNat)).retire)) ∧
      ((s.gget a).d ≠ (s.gget b).d →
        exec (.rgtst d a b) s = .next (s.trap 30 (mismatch a b)) ∧ exec (.rgeq d a b) s = .next (s.trap 30 (mismatch a b)) ∧
        exec (.rgsubs d a b) s = .next (s.trap 30 (mismatch a b))) ∧
      ((s.gget a).d = (s.gget b).d →
        exec (.rgtst d a b) s = .next (s.modMe (fun h => (h.wx d (if 0 < (s.gget a).common (s.gget b) then 1 else 0)).retire)) ∧
        exec (.rgeq d a b) s = .next (s.modMe (fun h => (h.wx d (if (s.gget a).common (s.gget b) = (s.gget a).count ∧
          (s.gget a).common (s.gget b) = (s.gget b).count then 1 else 0)).retire)) ∧
        exec (.rgsubs d a b) s = .next (s.modMe (fun h => (h.wx d (if (s.gget a).common (s.gget b) = (s.gget a).count
          then 1 else 0)).retire))))

/-- HGET writes word sel of H[a] to xd; HSETX writes X[a] into word sel of H[d], whose other words stay (R401). The register forms
take sel from bits 2:0 of X[b]. RGLD, RGST, HLD and HST in their three address forms, with their registers free and resident. A load
that the exclusion list covers raises cause 25, and else a misaligned one cause 4, a misaligned store cause 6. When its words are
answered HLD writes the 64 bytes to H[d], and RGLD writes the region of the 288 bytes through `result`, or raises cause 5 when the
image is not well formed. RGST enters the register's bytes into the store buffer by lines, HST by words of 8 bytes. -/
def Obligations.RegionAndHandleMemory : Prop :=
  ((∀ (d a b : Reg) (sel : BitVec 3) (s : State), s.Free [d, b] [] → s.Resident [codeH a] →
      exec (.hget d a b) s = .next (s.modMe (fun h => (h.wx d (handleWord (s.hget a) (natBits (s.rx b).toNat 0 3))).retire)) ∧
      exec (.hgetI d a sel) s = .next (s.modMe (fun h => (h.wx d (handleWord (s.hget a) sel.toNat)).retire))) ∧
    (∀ (d a b : Reg) (sel : BitVec 3) (s : State), s.Free [a, b] [] → s.Resident [codeH d] →
      exec (.hsetx d a b) s = .next ((s.hset d (lineSet (s.hget d) (8 * natBits (s.rx b).toNat 0 3) 8 (s.rx a).toNat)).modMe Hart.retire) ∧
      exec (.hsetxI d a sel) s = .next ((s.hset d (lineSet (s.hget d) (8 * sel.toNat) 8 (s.rx a).toNat)).modMe Hart.retire)) ∧
    (∀ (l : Line) (sel k v : Nat), sel < 8 → k < 8 →
      handleWord (lineSet l (8 * sel) 8 v) k = if k = sel then BitVec.ofNat 64 v else handleWord l k)) ∧
  ((∀ (d a : Reg) (s : State) (va : Word) (i r w : Instr), s.Free [a] [] → s.Resident [] →
      (i = .rgld d a ∧ va = s.rx a ∨ (∃ m, i = .rgldImm d a m ∧ va = s.ea a m) ∨ (∃ m, i = .rgldW64 d a m ∧ va = s.ea a m)) →
      (r = .hld d a ∧ va = s.rx a ∨ (∃ m, r = .hldImm d a m ∧ va = s.ea a m) ∨ (∃ m, r = .hldW64 d a m ∧ va = s.ea a m)) →
      (s.excluded va.toNat 288 = true → exec i s = .next (s.trap 25 va)) ∧
      (s.excluded va.toNat 288 = false → va.toNat % 32 ≠ 0 → exec i s = .next (s.trap 4 va)) ∧
      (∀ (vs : List Nat) (u : State), s.excluded va.toNat 288 = false → va.toNat % 32 = 0 →
        s.loadList (wordPieces va.toNat 288) = .ok vs u →
        (∀ g : Region, Region.ofImage (partBytes (wordPieces va.toNat 288) vs) = some g →
          exec i s = .next ((u.record 3 3 va).withRegion d (Region.result g.d g.boxes g.lat g.inexact))) ∧
        (Region.ofImage (partBytes (wordPieces va.toNat 288) vs) = none → exec i s = .next (u.trapFrom s.me.pts 5 va))) ∧
      (s.excluded va.toNat 64 = true → exec r s = .next (s.trap 25 va)) ∧
      (s.excluded va.toNat 64 = false → va.toNat % 64 ≠ 0 → exec r s = .next (s.trap 4 va)) ∧
      (∀ (vs : List Nat) (u : State), s.excluded va.toNat 64 = false → va.toNat % 64 = 0 → s.loadList (wordPieces va.toNat 64) = .ok vs u →
        exec r s = .next (((u.hset d (BitVec.ofNat 512 (ofBytes (partBytes (wordPieces va.toNat 64) vs)))).record 3 3 va).modMe
          Hart.retire))) ∧
    (∀ (d a : Reg) (s : State) (va : Word) (i r : Instr), s.Free [a] [] →
      (i = .rgst d a ∧ va = s.rx a ∨ (∃ m, i = .rgstImm d a m ∧ va = s.ea a m) ∨ (∃ m, i = .rgstW64 d a m ∧ va = s.ea a m)) →
      (r = .hst d a ∧ va = s.rx a ∨ (∃ m, r = .hstImm d a m ∧ va = s.ea a m) ∨ (∃ m, r = .hstW64 d a m ∧ va = s.ea a m)) →
      (s.Resident [codeG d] → va.toNat % 32 ≠ 0 → exec i s = .next (s.trap 6 va)) ∧
      (∀ u : State, s.Resident [codeG d] → va.toNat % 32 = 0 → s.storeBytes va.toNat (s.gget d).image = .ok () u →
        exec i s = .next ((u.record 3 4 va).modMe Hart.retire)) ∧
      (s.Resident [codeH d] → va.toNat % 64 ≠ 0 → exec r s = .next (s.trap 6 va)) ∧
      (∀ u : State, s.Resident [codeH d] → va.toNat % 64 = 0 → s.storeWords va.toNat (bytesOf 64 (s.hget d).toNat) = .ok () u →
        exec r s = .next ((u.record 3 4 va).modMe Hart.retire))))

/-! ## Transfers and rings -/

/-- The issue of a transfer, in every form (R403, R406), with its registers free and resident. A token of x0 is an illegal
instruction. A check that fails with a cause raises it. With 32 transfers of the hart in flight it waits. Else, with no store to its
die still buffered, the instruction completes: a transfer that a check ends with a status ends at issue with it, and any other starts.
A rounding conversion advances srseed, the trace may hold an entry of kind 6, and a send, put or get reads its send-queue entry at its
home. -/
def Obligations.TransferIssue : Prop :=
  ∀ (i : Instr) (p : XSpec) (s : State), TransferForm i p → s.Free (if p.kind = .copyb then [] else [p.d]) [] →
    s.Resident (p.issue s).codes → s.me.laneHolds [] (p.issue s).ts = false →
    (p.kind ≠ .copyb → p.d = 0 → exec i s = .next (s.trap 2 s.me.ir)) ∧
    (p.kind = .copyb ∨ p.d ≠ 0 →
      (∀ (c : Nat) (v : Word), p.trap (p.build s) s = some (c, v) → exec i s = .next (s.trap c v)) ∧
      (p.trap (p.build s) s = none → p.status (p.build s) s = none → 32 ≤ (s.inFlight s.cur).length → exec i s = .next s) ∧
      (p.trap (p.build s) s = none → s.localQuiet = .ok () s → ∀ w u : State,
        w = (if (p.build s).srcFmt ≠ (p.build s).dstFmt ∧ p.status (p.build s) s ≠ some xsBadHandle then s.advanceSeed else s) →
        u = (if (p.build s).onNet then (w.record 5 6 (BitVec.ofNat 64 p.d.toNat)).touchQueue (p.build s).desc
          else w.record 5 6 (BitVec.ofNat 64 p.d.toNat)) →
        (∀ st : Nat, p.status (p.build s) s = some st → exec i s = .next ((u.endAtIssue (p.build s) st).modMe Hart.retire)) ∧
        (p.status (p.build s) s = none → (s.inFlight s.cur).length < 32 →
          exec i s = .next ((u.startTransfer (p.build s)).modMe Hart.retire))))

/-- The order of the checks at issue (R406): a handle whose dims differ from the region's dimension count raises cause 30, the
destination first, with the region and the handle in the trap value; then a COPYB without a binding raises cause 48, and a
subscription without a binding of its role cause 49; then an INEXACT region raises cause 24, but not for FLUSHR; then bytes outside
the windows or in the exclusion list raise cause 25. After them a handle that is not well formed or a format pairing that is refused
ends with BADHANDLE. -/
def Obligations.TransferChecks : Prop :=
  ∀ (p : XSpec) (s : State) (t : Transfer), t = p.build s →
    (∀ h : Handle, t.dst.handleOf = some h → h.dims ≠ t.region.d → p.trap t s = some (30, handleMismatch p.g.toNat p.dst.number)) ∧
    (∀ h : Handle, (∀ k, t.dst.handleOf = some k → k.dims = t.region.d) → t.src.handleOf = some h → h.dims ≠ t.region.d →
      p.trap t s = some (30, handleMismatch p.g.toNat p.src.number)) ∧
    ((∀ k, t.dst.handleOf = some k → k.dims = t.region.d) → (∀ k, t.src.handleOf = some k → k.dims = t.region.d) →
      (p.kind = .copyb → t.bar.bound = false → p.trap t s = some (48, BitVec.ofNat 64 p.d.toNat)) ∧
      (p.kind = .ldsub → t.ring.bound = false ∨ t.ring.role = 1 → p.trap t s = some (49, zx (fld t.desc 0 3))) ∧
      (p.kind = .lddrn → t.ring.bound = false ∨ t.ring.role = 0 → p.trap t s = some (49, zx (fld t.desc 0 3))) ∧
      (p.kind = .flushr → p.trap t s = none) ∧
      ((p.kind = .copyb → t.bar.bound = true) → (p.kind = .ldsub → t.ring.bound = true ∧ (t.ring.role = 0 ∨ t.ring.role = 2)) →
        (p.kind = .lddrn → t.ring.bound = true ∧ (t.ring.role = 1 ∨ t.ring.role = 2)) → p.kind ≠ .flushr →
        (t.region.inexact = true → p.trap t s = some (24, BitVec.ofNat 64 p.g.toNat)) ∧
        (t.region.inexact = false → s.outside t = true → p.trap t s = some (25, BitVec.ofNat 64 p.g.toNat)) ∧
        (t.region.inexact = false → s.outside t = false → p.trap t s = none))) ∧
    (t.src.wf = false ∨ t.dst.wf = false ∨ convOk t.srcFmt t.dstFmt = false ∨ t.spacesOk = false → p.status t s = some xsBadHandle)

/-- What an issued transfer holds and where it stands (R274, R403, R407). It samples its region, its handles, the rounding state and
the hart's clock. One that starts on the hart's own quad joins that quad's transfers, last, under a new number, and its token is
pending; no byte of memory changes. One that ends at issue is complete: its token holds the status, has not been joined, and has a
fault pending exactly when the status is not 0. WAITG, TKTEST, PREF and LDCAN. WAITG raises cause 30 when the dims do not agree, waits
while a covered transfer is in flight, and with none covered writes 0. TKTEST names no register that it waits for: with the token in
flight it writes 0, completed it joins it and writes 0x100 with the status, and else 0x100 with the low byte of X[a]. PREF of a handle
that is not well formed or has other dims does nothing. LDCAN writes 2 for a register that is no subscription's token, 1 for one that
has completed, and else it writes 0 and the subscription is to end. -/
def Obligations.TransferTokens : Prop :=
  ((∀ (p : XSpec) (s : State), (p.build s).region = s.gget p.g ∧ (p.build s).clk = s.me.pts ∧ (p.build s).rmode = s.me.dev.rmode ∧
      (p.build s).hart = s.cur ∧ (p.build s).quad = quadOf s.cur ∧ (p.build s).task = s.me.task ∧ (p.build s).kind = p.kind ∧
      (p.build s).phase = .moving ∧ (∀ n, p.src = .h n → (p.build s).src = .handle (s.hgetN n)) ∧
      (∀ n, p.dst = .h n → (p.build s).dst = .handle (s.hgetN n))) ∧
    (∀ (s : State) (t : Transfer), t.kind ≠ .copyb → t.kind.indexed = false → t.kind.stream = false → t.reg < 32 →
      ∃ c : Nat, ((s.startTransfer t).quad t.quad).transfers = (s.quad t.quad).transfers ++ [{ t with id := s.nextId, copyNo := c }] ∧
        c < 32 ∧ (s.startTransfer t).me.token t.reg = { pending := true, transfer := s.nextId } ∧
        (s.startTransfer t).me.x = s.me.x ∧ (s.startTransfer t).mem = s.mem ∧ (s.startTransfer t).me.pts = s.me.pts) ∧
    (∀ (s : State) (t : Transfer) (st : Nat), t.kind ≠ .copyb → 0 < t.reg → t.reg < 32 → Store.Rising s.me.x → Store.Rising s.me.tokens →
      (s.endAtIssue t st).me.token t.reg
        = { pending := false, unjoined := true, fpend := st != 0, status := st, time := t.clk, transfer := s.nextId } ∧
      (s.endAtIssue t st).me.rx (BitVec.ofNat 5 t.reg) = BitVec.ofNat 64 st ∧ (s.endAtIssue t st).mem = s.mem)) ∧
  ((∀ (d a b : Reg) (s : State), s.Free [d] [] → s.Resident [codeG a, codeH b] →
      ((Handle.ofLine (s.hget b)).dims ≠ (s.gget a).d → exec (.waitg d a b) s = .next (s.trap 30 (handleMismatch a.toNat b.toNat))) ∧
      ((Handle.ofLine (s.hget b)).dims = (s.gget a).d →
        ((s.covered (s.gget a) (Handle.ofLine (s.hget b))).any (fun t => t.phase != .done) = true →
          exec (.waitg d a b) s = .next s) ∧
        (s.covered (s.gget a) (Handle.ofLine (s.hget b)) = [] →
          exec (.waitg d a b) s = .next (s.modMe (fun h => (h.wx d 0).retire))))) ∧
    (∀ (d a : Reg) (s : State), s.Free [] [] →
      (s.me.xBusy a.toNat = true → exec (.tktest d a) s = .next (s.modMe (fun h => (h.wx d 0).retire))) ∧
      ((s.me.token a.toNat).pending = true → s.me.xBusy a.toNat = true) ∧
      (s.me.xBusy a.toNat = false →
        ((s.me.token a.toNat).unjoined = true → exec (.tktest d a) s = .next (s.modMe (fun h =>
          (((h.raise (h.token a.toNat).time).joined s.me s.cycle [a.toNat]).wx d
            (BitVec.ofNat 64 (0x100 + (s.me.token a.toNat).status % 256))).retire))) ∧
        ((s.me.token a.toNat).unjoined = false →
          exec (.tktest d a) s = .next (s.modMe (fun h => (h.wx d (0x100 ||| (s.rx a &&& 0xff))).retire))))) ∧
    (∀ (a b : Reg) (s : State), s.Free [] [] → overHandle (s.gget a) (Handle.ofLine (s.hget b)) = false →
      exec (.pref a b) s = .next (s.modMe Hart.retire)) ∧
    (∀ (d a : Reg) (s : State), s.Free (if d = a then [] else [d]) [] →
      (s.transfer (s.me.token a.toNat).transfer = none → exec (.ldcan d a) s = .next (s.modMe (fun h => (h.wx d 2).retire))) ∧
      (∀ t : Transfer, s.transfer (s.me.token a.toNat).transfer = some t →
        (t.kind.stream = false ∨ s.issuedHere t = false → exec (.ldcan d a) s = .next (s.modMe (fun h => (h.wx d 2).retire))) ∧
        (t.kind.stream = true → s.issuedHere t = true →
          (t.phase = .done → exec (.ldcan d a) s = .next (s.modMe (fun h => (h.wx d 1).retire))) ∧
          (t.phase ≠ .done → ∃ u : State, exec (.ldcan d a) s = .next ((u.wx d 0).modMe Hart.retire) ∧
            u = s.modTransfer t.id (fun t => { t with cancel := true, phase := if t.use = none then .finished else t.phase }))))))

/-- The ring instructions of a bound ring whose header the hart can reach and with no store to its die still buffered (R419). QACQ
with EOS set is misuse, with a slot left it acquires the slot of ACQ and writes its payload address, else it writes 0. QTAKE takes the
slot of TAKE when it is published in turn, and else writes 1 at the end of the stream or 0. QEOS sets EOS, QSTAT writes the ring's
word; the loads among them raise the hart's clock to the vault's. An unbound ring, or one of the other role, raises cause 49. QBIND:
other bits of X[b], role 3 or a config that is not valid raise cause 49, then a misaligned address cause 6, then one that is no vault
unit of the address space cause 7. A ring with INIT set and the same config is bound, one with another config raises cause 49; a ring
with INIT clear is initialised by an update and bound (R418). -/
def Obligations.RingInstructions : Prop :=
  ((∀ (d n : Reg) (s : State), s.Free [d] [] →
      (((s.me.ringBind n).bound = false ∨ (s.me.ringBind n).role = 1) → exec (.qacq d n) s = .next (s.trap 49 (BitVec.ofNat 64 n.toNat))) ∧
      (((s.me.ringBind n).bound = false ∨ (s.me.ringBind n).role = 0) → exec (.qtake d n) s = .next (s.trap 49 (BitVec.ofNat 64 n.toNat))) ∧
      ((s.me.ringBind n).bound = false → exec (.qstat d n) s = .next (s.trap 49 (BitVec.ofNat 64 n.toNat)))) ∧
    (∀ (d n : Reg) (s : State) (b : QBind) (r : Ring), s.Free [d] [] → b = s.me.ringBind n → b.bound = true → r = s.ring b.at_ →
      s.localQuiet = .ok () s → 0 < b.at_.count →
      (∀ (u : Nat) (acc : Access), u = b.unit ∨ (∃ k, k < b.at_.count ∧ u = slotUnit b.at_ k) → s.unitFault b.quad u acc = none) →
      (b.role = 0 ∨ b.role = 2 →
        (r.eos = true → exec (.qacq d n) s = .next (s.trap 49 (BitVec.ofNat 64 n.toNat))) ∧
        (r.eos = false → b.at_.count ≤ seqSub r.acq r.free →
          exec (.qacq d n) s = .next (s.modMe (fun h => ((h.raise (s.quad b.quad).vclk).wx d 0).retire))) ∧
        (∀ (k t : Nat) (u : State), r.eos = false → s.ringAcquire b.at_ s.me.pts = some (k, t, u) →
          exec (.qacq d n) s = .next (((u.modMe (·.raise t)).wx d (BitVec.ofNat 64 (u.payloadVa b k))).modMe Hart.retire))) ∧
      (b.role = 1 ∨ b.role = 2 →
        (∀ (k pub t : Nat) (u : State), s.ringTake b.at_ s.me.pts = some (k, pub, t, u) →
          exec (.qtake d n) s = .next (((u.modMe (·.raise (max t pub))).wx d (BitVec.ofNat 64 (u.payloadVa b k))).modMe Hart.retire)) ∧
        (s.ringTake b.at_ s.me.pts = none →
          exec (.qtake d n) s = .next (s.modMe (fun h => ((h.raise (s.quad b.quad).vclk).wx d (if r.ended then 1 else 0)).retire)))) ∧
      exec (.qstat d n) s = .next (s.modMe (fun h => ((h.raise (s.quad b.quad).vclk).wx d (BitVec.ofNat 64 (r.statWord b.at_.count))).retire))) ∧
    (∀ (n a b : Reg) (s : State) (q : QBind), s.Free [a, b] [] → q = s.me.ringBind n → q.bound = true →
      (∀ (u : Nat) (acc : Access), u = q.unit ∨ (∃ k, k < q.at_.count ∧ u = slotUnit q.at_ k) → s.unitFault q.quad u acc = none) →
      (q.role = 0 ∨ q.role = 2 →
        (s.payloadSlot q (s.rx a).toNat = none → exec (.qpub n a b) s = .next (s.trap 49 (BitVec.ofNat 64 n.toNat))) ∧
        (∀ k : Nat, s.payloadSlot q (s.rx a).toNat = some k →
          (s.canPublish q.at_ k (s.rx b).toNat = false → exec (.qpub n a b) s = .next (s.trap 49 (BitVec.ofNat 64 n.toNat))) ∧
          (∀ (w u : State) (t : Nat), s.canPublish q.at_ k (s.rx b).toNat = true → s.releasePackage = .ok () w →
            w.ringPublish q.at_ k (w.rx b).toNat w.cur w.me.pts = (t, u) →
            exec (.qpub n a b) s = .next ((u.modMe (·.raise t)).modMe Hart.retire))) ∧
        ((s.ring q.at_).eos = true → exec (.qeos n) s = .next (s.trap 49 (BitVec.ofNat 64 n.toNat))) ∧
        (∀ (w u : State) (t : Nat), (s.ring q.at_).eos = false → s.releasePackage = .ok () w → w.ringEos q.at_ w.me.pts = (t, u) →
          exec (.qeos n) s = .next ((u.modMe (·.raise t)).modMe Hart.retire))) ∧
      (q.role = 1 ∨ q.role = 2 →
        (s.payloadSlot q (s.rx a).toNat = none → exec (.qfree n a) s = .next (s.trap 49 (BitVec.ofNat 64 n.toNat))) ∧
        (∀ k : Nat, s.payloadSlot q (s.rx a).toNat = some k →
          (s.canFree q.at_ k = false → exec (.qfree n a) s = .next (s.trap 49 (BitVec.ofNat 64 n.toNat))) ∧
          (∀ (u : State) (t : Nat), s.canFree q.at_ k = true → s.localQuiet = .ok () s → s.ringFree q.at_ k s.me.pts = (t, u) →
            exec (.qfree n a) s = .next ((u.modMe (·.raise t)).modMe Hart.retire)))))) ∧
  (∀ (n a b : Reg) (s : State) (w : Nat), s.Free [a, b] [] → w = (s.rx b).toNat →
      (natBits w 34 30 ≠ 0 ∨ natBits w 32 2 = 3 ∨ ringConfigOk (w % 2 ^ 32) = false →
        exec (.qbind n a b) s = .next (s.trap 49 (BitVec.ofNat 64 n.toNat))) ∧
      (natBits w 34 30 = 0 → natBits w 32 2 ≠ 3 → ringConfigOk (w % 2 ^ 32) = true →
        ((s.rx a).toNat % 64 ≠ 0 → exec (.qbind n a b) s = .next (s.trap 6 (s.rx a))) ∧
        ((s.rx a).toNat % 64 = 0 → s.unitAt (s.rx a).toNat = none → exec (.qbind n a b) s = .next (s.trap 7 (s.rx a))) ∧
        (∀ (q u : Nat) (own : Bool) (r : Ring) (v : QBind), (s.rx a).toNat % 64 = 0 → s.unitAt (s.rx a).toNat = some (q, u, own) →
          s.unitFault q u .store = none → s.localQuiet = .ok () s → r = s.ring { quad := q, unit := u, config := w % 2 ^ 32 } →
          v = { bound := true, role := natBits w 32 2, quad := q, unit := u, config := BitVec.ofNat 32 (w % 2 ^ 32), own := own } →
          (r.init = true → natBits r.config 0 30 = natBits (w % 2 ^ 32) 0 30 → exec (.qbind n a b) s = .next (s.modMe (fun h =>
            ({ h.raise (s.quad q).vclk with q := Store.set {} h.q n.toNat v } : Hart).retire))) ∧
          (r.init = true → natBits r.config 0 30 ≠ natBits (w % 2 ^ 32) 0 30 →
            exec (.qbind n a b) s = .next (s.trap 49 (BitVec.ofNat 64 n.toNat))) ∧
          (r.init = false → ∃ (t : Nat) (x : State),
            exec (.qbind n a b) s = .next ((x.modMe (fun h => { h.raise t with q := Store.set {} h.q n.toNat v })).modMe Hart.retire) ∧
            s.unitPut q u (lineSet (lineSet 0 0 4 (w % 2 ^ 31 + 2 ^ 31)) 0x28 8 (s.updateTime q s.me.pts)) s.me.pts = (t, x)))))

/-! ## The vector unit -/

/-- Lanes and the active mask (R423, R424). A lane that is active takes its value, modulo its width; one that is not keeps the old
value of the element. A flag is raised when an active lane raises it; with no lane active nothing changes. Writing a vector register:
V[d] reads as the line, no other vector register that is resident and no region or handle register changes, the flags are joined to
rflags, srseed advances when the instruction rounds, and nothing else of the hart and no memory changes. The lane-wise instructions
complete when they can execute: every active lane of V[d] takes the operation of the two operands and the old element, at the rounding
of its lane, and nothing but V[d], the flags, srseed and the task's count of operations changes (R435). -/
def Obligations.LaneWise : Prop :=
  (∀ (s : State) (t : VTy) (d : Reg) (f : Nat → Nat × Nat),
      (∀ i, i < t.lanes → elemAt (s.laneLine t d f).toNat t.bits i
        = if s.mask.getLsbD i then (f i).1 % 2 ^ t.bits else s.elem t d i) ∧
      (∀ b, (s.laneFlags t d f).testBit b = (List.range t.lanes).any (fun i => s.mask.getLsbD i && (f i).2.testBit b)) ∧
      (s.activeLanes t = [] → s.laneLine t d f = s.vget d ∧ s.laneFlags t d f = 0)) ∧
  (∀ (s : State) (d : Reg) (l : Line) (fl : Nat) (rounds : Bool),
      (s.vdone d l fl rounds).vget d = l ∧
      (∀ e : Reg, e ≠ d → s.resident (codeV e) = true → (s.vdone d l fl rounds).vget e = s.vget e) ∧
      (s.vdone d l fl rounds).slot.g = s.slot.g ∧ (s.vdone d l fl rounds).slot.h = s.slot.h ∧
      (∃ sd : Word, (s.vdone d l fl rounds).me
        = { s.me with dev := { s.me.dev with rflags := s.me.dev.rflags ||| BitVec.ofNat 64 (fl % 32), srseed := sd } } ∧
        (rounds = false → sd = s.me.dev.srseed)) ∧
      (s.vdone d l fl rounds).mem = s.mem ∧ (s.vdone d l fl rounds).disp = s.disp ∧
      (∀ g, g ≠ s.cur → (s.vdone d l fl rounds).hart g = s.hart g)) ∧
  ((∀ (i : Instr) (t : VTy) (d a b : Reg) (op : LaneOp) (rounds arith vx : Bool) (s : State), LaneForm i t d a b op rounds arith vx →
      s.VReady (if vx then [b] else []) ([d, a] ++ (if vx then [] else [b])) [s.me.maskNo] →
      ∀ f : Nat → Nat × Nat, f = (fun i => op (s.sampled.at_ i) (s.elem t a i) (s.operand t vx b i) (s.elem t d i)) →
      exec i s = .next (((s.vdone d (s.laneLine t d f) (s.laneFlags t d f) rounds).countLanes t arith).modMe Hart.retire)) ∧
    (∀ (i : Instr) (t : VTy) (d a : Reg) (op : Rounding → Nat → Nat × Nat) (rounds arith : Bool) (s : State),
      LaneForm1 i t d a op rounds arith → s.VReady [] [d, a] [s.me.maskNo] →
      ∀ f : Nat → Nat × Nat, f = (fun i => op (s.sampled.at_ i) (s.elem t a i)) →
      exec i s = .next (((s.vdone d (s.laneLine t d f) (s.laneFlags t d f) rounds).countLanes t arith).modMe Hart.retire)))

/-- The integer operations of R435 wrap modulo 2^w and raise no flag: a sum, a difference, a product, a product with the old element
added or subtracted, the lesser and the greater in signed order, the absolute value, of which the most negative number stays, and the
negation; shifts by y mod w. AND, OR and XOR are bitwise for every type. The special rules for float types (R436): VMIN and VMAX give
the canonical NaN for a NaN input, with NV for a signalling one, and put −0 below +0; VABS and VNEG give the canonical NaN for a NaN,
with NV for a signalling one, and are otherwise exact with no flag; VFMA and VFMS raise NV for 0 × ∞ whatever the third operand is. -/
def Obligations.LaneOperations : Prop :=
  (∀ (t : VTy) (r : Rounding) (x y o : Nat), x < 2 ^ t.bits → y < 2 ^ t.bits → o < 2 ^ t.bits →
      (t.isInt = true →
        opAdd t r x y o = ((x + y) % 2 ^ t.bits, 0) ∧ opSub t r x y o = ((x + (2 ^ t.bits - y)) % 2 ^ t.bits, 0) ∧
        opMul t r x y o = (x * y % 2 ^ t.bits, 0) ∧ opFma t r x y o = ((x * y + o) % 2 ^ t.bits, 0) ∧
        opFms t r x y o = ((x * y + (2 ^ t.bits - o)) % 2 ^ t.bits, 0) ∧
        opMin t r x y o = (if natToInt t.bits x < natToInt t.bits y then x else y, 0) ∧
        opMax t r x y o = (if natToInt t.bits x < natToInt t.bits y then y else x, 0) ∧
        opAbs t r x = (if x < 2 ^ (t.bits - 1) then x else (2 ^ t.bits - x) % 2 ^ t.bits, 0) ∧
        opAbs t r (2 ^ (t.bits - 1)) = (2 ^ (t.bits - 1), 0) ∧ opNeg t r x = ((2 ^ t.bits - x) % 2 ^ t.bits, 0) ∧
        opSll t r x y o = (x * 2 ^ (y % t.bits) % 2 ^ t.bits, 0) ∧ opSrl t r x y o = (x / 2 ^ (y % t.bits), 0) ∧
        opSra t r x y o = (intToNat t.bits (natToInt t.bits x / 2 ^ (y % t.bits)), 0)) ∧
      opAnd r x y o = (x &&& y, 0) ∧ opOr r x y o = (x ||| y, 0) ∧ opXor r x y o = (x ^^^ y, 0)) ∧
  (∀ (t : VTy) (r : Rounding) (x y o : Nat), t.isFloat = true →
      (((fmtOf t).unpack x).isNaN = true ∨ ((fmtOf t).unpack y).isNaN = true →
        opMin t r x y o = ((fmtOf t).canonNaN, if ((fmtOf t).unpack x).signalling || ((fmtOf t).unpack y).signalling then flNV else 0) ∧
        opMax t r x y o = ((fmtOf t).canonNaN, if ((fmtOf t).unpack x).signalling || ((fmtOf t).unpack y).signalling then flNV else 0)) ∧
      (opMin t r 0 (2 ^ (t.bits - 1)) o = (2 ^ (t.bits - 1), 0) ∧ opMin t r (2 ^ (t.bits - 1)) 0 o = (2 ^ (t.bits - 1), 0) ∧
        opMax t r 0 (2 ^ (t.bits - 1)) o = (0, 0) ∧ opMax t r (2 ^ (t.bits - 1)) 0 o = (0, 0)) ∧
      (((fmtOf t).unpack x).isNaN = true →
        opAbs t r x = ((fmtOf t).canonNaN, if ((fmtOf t).unpack x).signalling then flNV else 0) ∧
        opNeg t r x = ((fmtOf t).canonNaN, if ((fmtOf t).unpack x).signalling then flNV else 0)) ∧
      (((fmtOf t).unpack x).isNaN = false →
        opAbs t r x = (x % 2 ^ (t.bits - 1), 0) ∧ opNeg t r x = (x ^^^ 2 ^ (t.bits - 1), 0)) ∧
      (∀ n : Bool, ((fmtOf t).unpack x).isZero = true ∧ (fmtOf t).unpack y = .inf n ∨
          (fmtOf t).unpack x = .inf n ∧ ((fmtOf t).unpack y).isZero = true →
        (opFma t r x y o).2.testBit 4 = true ∧ (opFms t r x y o).2.testBit 4 = true))

/-- Vector memory instructions (R429 to R433), when they can execute. With its active elements answered a load writes them into the
active lanes of V[d], the elements of VLD and VST lying at e + i × size, of VLDS and VSTS at e + i × X[c], and of VGATH and VSCAT at e
+ k_i × size with k_i the signed lane i of V[b]. A load that fails at an element, and a store that does, changes nothing and traps. -/
def Obligations.VectorMemory : Prop :=
  (∀ (t : VTy) (d a c : Reg) (s : State) (i : Instr) (e : Word) (stride : Int), s.VReady [a, c] [d] [s.me.maskNo] →
    (i = .vld t d a ∧ e = s.rx a ∧ stride = t.bytes ∨ (∃ off, i = .vldOff t d a off ∧ e = s.ea a off ∧ stride = t.bytes) ∨
      (∃ off, i = .vlds t d a c off ∧ e = s.ea a off ∧ stride = (s.rx c).toInt)) →
    (∀ (vs : List Nat) (u : State), s.loadLines t.bytes ((s.activeLanes t).map (fun (k : Nat) => wrapAddr (e.toNat + (k : Int) * stride)))
        = .ok vs u → ∀ f : Nat → Nat × Nat,
      f = (fun k => ((((s.activeLanes t).zip vs).find? (fun x => x.1 == k)).elim 0 (·.2), 0)) →
      exec i s = .next (((u.record 3 3 e).vdone d ((u.record 3 3 e).laneLine t d f) ((u.record 3 3 e).laneFlags t d f) false).modMe
        Hart.retire)) ∧
    (∀ (cause : Nat) (v : Word) (u : State), s.loadLines t.bytes ((s.activeLanes t).map (fun (k : Nat) => wrapAddr (e.toNat + (k : Int) * stride)))
        = .trap cause v u → exec i s = .next (u.trapFrom s.me.pts cause v))) ∧
  (∀ (t : VTy) (b a c : Reg) (s : State) (i : Instr) (e : Word) (stride : Int), s.VReady [a, c] [b] [s.me.maskNo] →
    (i = .vst t b a ∧ e = s.rx a ∧ stride = t.bytes ∨ (∃ off, i = .vstOff t b a off ∧ e = s.ea a off ∧ stride = t.bytes) ∨
      (∃ off, i = .vsts t b a c off ∧ e = s.ea a off ∧ stride = (s.rx c).toInt)) →
    (∀ u : State, s.storeElems t.bytes true ((s.activeLanes t).map (fun (k : Nat) =>
        (wrapAddr (e.toNat + (k : Int) * stride), s.elem t b k))) e = .ok () u → exec i s = .next (u.modMe Hart.retire)) ∧
    (∀ (cause : Nat) (v : Word) (u : State), s.storeElems t.bytes true ((s.activeLanes t).map (fun (k : Nat) =>
        (wrapAddr (e.toNat + (k : Int) * stride), s.elem t b k))) e = .trap cause v u → exec i s = .next (u.trapFrom s.me.pts cause v))) ∧
  (∀ (t : VTy) (d a b : Reg) (s : State) (i j : Instr) (e : Word), s.VReady [a] [d, b] [s.me.maskNo] →
    (i = .vgath t d a b ∧ e = s.rx a ∨ (∃ off, i = .vgathOff t d a b off ∧ e = s.ea a off)) →
    (j = .vscat t d a b ∧ e = s.rx a ∨ (∃ off, j = .vscatOff t d a b off ∧ e = s.ea a off)) →
    (∀ (vs : List Nat) (u : State), s.gatherElems t.bytes ((s.activeLanes t).map (fun (k : Nat) =>
        wrapAddr (e.toNat + natToInt t.bits (s.elem t b k) * t.bytes))) = .ok vs u → ∀ f : Nat → Nat × Nat,
      f = (fun k => ((((s.activeLanes t).zip vs).find? (fun x => x.1 == k)).elim 0 (·.2), 0)) →
      exec i s = .next (((u.record 3 3 e).vdone d ((u.record 3 3 e).laneLine t d f) ((u.record 3 3 e).laneFlags t d f) false).modMe
        Hart.retire)) ∧
    (∀ (cause : Nat) (v : Word) (u : State), s.gatherElems t.bytes ((s.activeLanes t).map (fun (k : Nat) =>
        wrapAddr (e.toNat + natToInt t.bits (s.elem t b k) * t.bytes))) = .trap cause v u → exec i s = .next (u.trapFrom s.me.pts cause v)) ∧
    (∀ u : State, s.storeElems t.bytes false ((s.activeLanes t).map (fun (k : Nat) =>
        (wrapAddr (e.toNat + natToInt t.bits (s.elem t b k) * t.bytes), s.elem t d k))) e = .ok () u →
      exec j s = .next (u.modMe Hart.retire)) ∧
    (∀ (cause : Nat) (v : Word) (u : State), s.storeElems t.bytes false ((s.activeLanes t).map (fun (k : Nat) =>
        (wrapAddr (e.toNat + natToInt t.bits (s.elem t b k) * t.bytes), s.elem t d k))) e = .trap cause v u →
      exec j s = .next (u.trapFrom s.me.pts cause v)))

/-- The moves, permutations and tests, when they can execute (R434, R438, R447 to R449). They copy bit patterns and raise no flag.
VMVX extends an integer lane by its sign and a float lane by zeros, whatever the mask; VSEL, VCOMPR and VZTST act on every lane.
Compares and mask instructions, when they can execute (R437, R450). VCMP sets the mask bit of every active lane whose elements meet
the condition and clears every other; KAND, KOR, KNOT and KMV write their 64 bits; a write to k0 is discarded; VMASK selects the
active mask. -/
def Obligations.VectorMoves : Prop :=
  ((∀ (t : VTy) (d a : Reg) (l : BitVec 6) (s : State), s.VReady [d] [a] [] →
      exec (.vmvx t d a) s = .next (s.modMe (fun h => (h.wx d (elemWord t (s.elem t a 0))).retire)) ∧
      exec (.vmvxLane t d a l) s = .next (s.modMe (fun h => (h.wx d (elemWord t (s.elem t a l.toNat))).retire)) ∧
      (s.me.laneHolds [s.me.maskNo] [] = false → exec (.vztst t d a) s = .next (s.modMe (fun h => (h.wx d
        (if (s.activeLanes t).all (fun i => zeroElem t (s.elem t a i)) then 1 else 0)).retire)))) ∧
    (∀ (t : VTy) (d a : Reg) (s : State), s.VReady [a] [d] [s.me.maskNo] →
      exec (.vbcast t d a) s = .next ((s.vdone d (s.laneLine t d (fun _ => (s.bcast t a, 0))) (s.laneFlags t d (fun _ => (s.bcast t a, 0)))
        false).modMe Hart.retire) ∧
      exec (.viota t d) s = .next ((s.vdone d (s.laneLine t d (fun i => (s.rank i, 0))) (s.laneFlags t d (fun i => (s.rank i, 0)))
        false).modMe Hart.retire)) ∧
    (∀ (t : VTy) (d a b : Reg) (amt : BitVec 21) (s : State), s.VReady [b] [d, a] [s.me.maskNo] →
      exec (.vmvv t d a) s = .next ((s.vdone d (s.laneLine t d (fun i => (s.elem t a i, 0))) (s.laneFlags t d (fun i => (s.elem t a i, 0)))
        false).modMe Hart.retire) ∧
      exec (.vexpnd t d a) s = .next ((s.vdone d (s.laneLine t d (fun i => (s.elem t a (s.rank i), 0)))
        (s.laneFlags t d (fun i => (s.elem t a (s.rank i), 0))) false).modMe Hart.retire) ∧
      exec (.vcompr t d a) s = .next ((s.vdone d (ofLanes t.bits ((s.activeLanes t).map (s.elem t a))) 0 false).modMe Hart.retire) ∧
      exec (.vselVx t d a b) s = .next ((s.vdone d (ofLanes t.bits ((List.range t.lanes).map (fun i =>
        if s.mask.getLsbD i then s.elem t a i else s.bcast t b))) 0 false).modMe Hart.retire) ∧
      (∀ (x : Int) (f : Nat → Nat × Nat), f = (fun (i : Nat) => (if 0 ≤ (i : Int) - x ∧ (i : Int) - x < t.lanes
          then s.elem t a ((i : Int) - x).toNat else 0, 0)) →
        (x = (s.rx b).toInt → exec (.vslideVx t d a b) s
          = .next ((s.vdone d (s.laneLine t d f) (s.laneFlags t d f) false).modMe Hart.retire)) ∧
        (x = amt.toInt → exec (.vslideI t d a amt) s
          = .next ((s.vdone d (s.laneLine t d f) (s.laneFlags t d f) false).modMe Hart.retire)))) ∧
    (∀ (t : VTy) (d a b : Reg) (s : State), s.VReady [] [d, a, b] [s.me.maskNo] →
      exec (.vperm t d a b) s = .next ((s.vdone d (s.laneLine t d (fun i => (s.elem t a (s.elem t b i % t.lanes), 0)))
        (s.laneFlags t d (fun i => (s.elem t a (s.elem t b i % t.lanes), 0))) false).modMe Hart.retire) ∧
      exec (.vsel t d a b) s = .next ((s.vdone d (ofLanes t.bits ((List.range t.lanes).map (fun i =>
        if s.mask.getLsbD i then s.elem t a i else s.elem t b i))) 0 false).modMe Hart.retire))) ∧
  ((∀ (t : VTy) (vx : Bool) (d a b : Reg) (cond : BitVec 5) (s : State),
      s.VReady (if vx then [b] else []) (a :: (if vx then [] else [b])) [d.toNat, s.me.maskNo] →
      ∃ (m : Word) (fl : Nat), exec (.vcmp t vx d a b cond) s = .next (((s.kput d m).orFlags fl).modMe Hart.retire) ∧
        (∀ i, i < 64 → m.getLsbD i = (decide (i < t.lanes) && s.mask.getLsbD i &&
          (compareElems t cond.toNat (s.elem t a i) (s.operand t vx b i)).1)) ∧
        (∀ k, fl.testBit k = (s.activeLanes t).any (fun i =>
          (compareElems t cond.toNat (s.elem t a i) (s.operand t vx b i)).2.testBit k))) ∧
    (∀ (d a b : Reg) (s : State), s.VReady [] [] [d.toNat, a.toNat, b.toNat] →
      exec (.kand d a b) s = .next ((s.kput d (s.me.rk a.toNat &&& s.me.rk b.toNat)).modMe Hart.retire) ∧
      exec (.kor d a b) s = .next ((s.kput d (s.me.rk a.toNat ||| s.me.rk b.toNat)).modMe Hart.retire) ∧
      exec (.knot d a) s = .next ((s.kput d (~~~(s.me.rk a.toNat))).modMe Hart.retire)) ∧
    (∀ (d a : Reg) (s : State),
      (s.VReady [a] [] [d.toNat] → exec (.kmvToMask d a) s = .next ((s.kput d (s.rx a)).modMe Hart.retire)) ∧
      (s.VReady [d] [] [a.toNat] → exec (.kmvFromMask d a) s = .next (s.modMe (fun h => (h.wx d (s.me.rk a.toNat)).retire)))) ∧
    (∀ (a : Reg) (s : State), s.VReady [] [] [a.toNat] → ∃ t : State, exec (.vmask a) s = .next t ∧
      t.me.dev.vactm = BitVec.ofNat 64 (a.toNat % 8) ∧ t.me.x = s.me.x ∧ t.me.k = s.me.k ∧ t.mem = s.mem ∧ t.slotRegs = s.slotRegs) ∧
    (∀ (s : State) (d : Reg) (v : Word), (s.kput 0 v) = s ∧ (d ≠ 0 → Store.Rising s.me.k →
      (s.kput d v).me.rk d.toNat = v ∧ ∀ e : Reg, e ≠ d → (s.kput d v).me.rk e.toNat = s.me.rk e.toNat)) ∧
    (∀ h : Hart, h.rk 0 = BitVec.allOnes 64))

/-- Conversions, block quantisation, reductions and the dot product, when they can execute (R440, R442 to R444). VCVT replaces the
active lanes of its part; the reductions write their result to lane 0 and zero to every other lane; VQNT writes the scale code to X[c]
as well. -/
def Obligations.VectorConversionsAndReductions : Prop :=
  (∀ (t : VTy) (d a : Reg) (s : State), s.VReady [] [d, a] [s.me.maskNo] →
    (∀ (b : BitVec 5) (sz : BitVec 2) (sc : BitVec 4) (p : BitVec 3) (i : Instr) (src dst : Fmt) (k : Nat),
      (i = .vcvt t d a b ∧ src = (Fmt.ofCode (b.toNat % 16)).getD .i8 ∧ dst = cvtDst t (b.toNat / 16) ∧
          k = (if t = .fp8 then 0 else b.toNat / 16) ∨
        i = .vcvtW64 t sz d a sc p ∧ src = (Fmt.ofCode sc.toNat).getD .i8 ∧ dst = cvtDst t sz.toNat ∧ k = p.toNat) →
      exec i s = .next ((s.vdone d (ofLanes dst.bits (cvtLanes s.sampled s.mask src dst k (s.vget a) (s.vget d)).1)
        (cvtLanes s.sampled s.mask src dst k (s.vget a) (s.vget d)).2 true).modMe Hart.retire)) ∧
    (t.isInt = true → exec (.vrsum t d a) s = .next ((s.vdone d (ofLanes t.bits
      [intToNat t.bits (((s.activeLanes t).map (fun i => natToInt t.bits (s.elem t a i))).sum)]) 0 false).modMe Hart.retire)) ∧
    (t.isInt = false → exec (.vrsum t d a) s = .next ((s.vdone d (ofLanes t.bits [(floatSum s.sampled (fmtOf t) (s.present t a)).1])
      (floatSum s.sampled (fmtOf t) (s.present t a)).2 true).modMe Hart.retire)) ∧
    exec (.vrmax t d a) s = .next ((s.vdone d (ofLanes t.bits [(extreme t true (s.present t a)).1]) (extreme t true (s.present t a)).2
      false).modMe Hart.retire) ∧
    exec (.vrmin t d a) s = .next ((s.vdone d (ofLanes t.bits [(extreme t false (s.present t a)).1]) (extreme t false (s.present t a)).2
      false).modMe Hart.retire)) ∧
  (∀ (t : VTy) (d a b : Reg) (s : State), s.VReady [] [d, a, b] [s.me.maskNo] →
    exec (.vdot t d a b) s = .next ((s.vdone d (BitVec.ofNat 512 (dot t a b s).1) (dot t a b s).2 (!t.isInt)).modMe Hart.retire) ∧
    (t.isInt = true → dot t a b s = (intToNat 64 (((s.activeLanes t).map (fun i =>
      natToInt t.bits (s.elem t a i) * natToInt t.bits (s.elem t b i))).sum), 0))) ∧
  (∀ (fmt p : BitVec 2) (amx : Bool) (d a b c : Reg) (s : State), s.VReady [c] [d, a, b] [s.me.maskNo] →
    ∃ (code fl : Nat) (l : Line), exec (.vqnt fmt amx p d a b c) s
      = .next (((s.wx c (BitVec.ofNat 64 code)).vdone d l fl true).modMe Hart.retire) ∧
      code = (scaleCode (cvtDst .fp8 fmt.toNat) (if amx then maxMagnitude [Fmt.f32.unpack ((s.rx c).toNat % 2 ^ 32)]
        else maxMagnitude (((lanesOf 32 16 (s.vget a) ++ lanesOf 32 16 (s.vget b)).zipIdx.filter (fun x => s.mask.getLsbD x.2)).map
          (fun x => Fmt.f32.unpack x.1)))).1)

/-! ## The matrix engine -/

/-- The issue of a matrix instruction, in every form but MSYNC (R194, R452), with its registers free and resident. A hart that runs no
task takes an illegal-instruction trap; a format check that fails raises cause 31 with the instruction. With four requests in the
hart's queue it waits. Else, with no store to its die still buffered, it completes at issue: the request stands last in the hart's
queue, srseed advances when the instruction rounds, and MFMT and MUPLD change the hart's own copy of the format context. MSYNC (R475):
on a hart that runs no task it is an illegal instruction; it waits while a request of the hart's slot has not completed at any member;
then it takes cause 29 when the matrix-poison flag is set, and clears the flag, or else completes. -/
def Obligations.MatrixIssue : Prop :=
  ((∀ (i : Instr) (p : MSpec) (s : State), MatrixForm i p → s.Free (p.xs ++ p.wx) (p.vs ++ p.wv) → s.Resident ((p.vs ++ p.wv).map codeV) →
      s.me.laneHolds [] (p.req s).names = false →
      (s.me.task = none → exec i s = .next (s.trap 2 s.me.ir)) ∧
      (s.me.task ≠ none →
        (p.ok s = false → exec i s = .next (s.trap 31 s.me.ir)) ∧
        (p.ok s = true →
          (4 ≤ s.myQueue.length → exec i s = .next s) ∧
          (s.myQueue.length < 4 → s.localQuiet = .ok () s → ∀ u : State,
            u = (if p.rounds then (s.requested p).advanceSeed else s.requested p) →
            exec i s = .next ((p.after u).modMe Hart.retire))))) ∧
    (∀ (s : State) (p : MSpec), (s.requested p).myQueue = s.myQueue ++ [{ p.req s with id := s.nextId }] ∧ (s.requested p).mem = s.mem ∧
      (s.requested p).me.pts = s.me.pts ∧ (s.requested p).me.x = s.me.x ∧ (s.requested p).slot = s.slot) ∧
    (∀ (op : Instr) (xa xb xc : Word) (vs : Line) (s : State), (s.request op xa xb xc vs).op = op ∧
      (s.request op xa xb xc vs).fmt = s.me.fmt ∧ (s.request op xa xb xc vs).rmode = s.me.dev.rmode ∧
      (s.request op xa xb xc vs).seed = s.me.dev.srseed ∧ (s.request op xa xb xc vs).clk = s.me.pts ∧
      (s.request op xa xb xc vs).hart = s.cur ∧ (s.request op xa xb xc vs).task = s.me.task)) ∧
  (∀ (s : State), s.Free [] [] →
      (s.me.task = none → exec .msync s = .next (s.trap 2 s.me.ir)) ∧
      (s.me.task ≠ none → s.quads.any (fun q => q.2.requests.any s.mine) = true → exec .msync s = .next s) ∧
      (s.me.task ≠ none → s.quads.any (fun q => q.2.requests.any s.mine) = false →
        (s.me.mpoison = false → exec .msync s = .next (s.modMe Hart.retire)) ∧
        (s.me.mpoison = true → exec .msync s = .next ((s.modMe (fun h => { h with mpoison := false })).trap 29 0))))

/-- The format checks (R457, R458, R459, R461, R462, R464). MFMT accepts a word with no reserved bit, a GSIZE below 3, assigned
formats, asymmetry of i8 or int4 operands only, and not of both. MUPLD accepts a state value below 2^32 and a microprogram without
reserved values. A multiply needs a pairing of R458; with scales or records K must be a whole number of chunks and STILE must lie
outside both spans; MMAG also needs a context of the address space at every member. MREC needs plain f32, bf16 or f16 operands. The
other instructions have no format check. -/
def Obligations.MatrixChecks : Prop :=
  ∀ (s : State),
    (∀ a : Reg, (mfmtI a).ok s = true ↔
      fld (s.rx a) 16 48 = 0 ∧ fld (s.rx a) 10 2 ≠ 3 ∧ (fld (s.rx a) 0 4).toNat ∈ [0, 4, 5, 6, 7, 8, 9, 10] ∧
      (fld (s.rx a) 4 4).toNat ∈ [0, 4, 5, 6, 7, 8, 9, 10] ∧
      ((s.rx a).getLsbD 8 = true → (fld (s.rx a) 0 4).toNat = 0 ∨ (fld (s.rx a) 0 4).toNat = 10) ∧
      ((s.rx a).getLsbD 9 = true → (fld (s.rx a) 4 4).toNat = 0 ∨ (fld (s.rx a) 4 4).toNat = 10) ∧
      ¬((s.rx a).getLsbD 8 = true ∧ (s.rx a).getLsbD 9 = true)) ∧
    (∀ a b : Reg, (mupldI a b).ok s = true ↔ (s.rx b).toNat < 2 ^ 32 ∧ ucodeOk (uOps (s.rx a)) = true) ∧
    (∀ (z : Bool) (d a b k8 : Reg) (m : BitVec 9) (n : BitVec 10),
      ((mmaI z d a b k8 m n).ok s = true ↔ pairOk s.me.fmt = true ∧ (scaledWord s.me.fmt = true →
        elemsOf s.me.fmt k8 % chunkOf s.me.fmt = 0 ∧
        (∀ t, t = (fld s.me.fmt 12 4).toNat → ¬(a.toNat ≤ t ∧ t ≤ a.toNat + m.toNat / 128) ∧ ¬(b.toNat ≤ t ∧ t ≤ b.toNat + n.toNat / 128)))) ∧
      ((mmagI z d a b k8 m n).ok s = true ↔ (mmaI z d a b k8 m n).ok s = true ∧
        ∀ q, q / 4 = quadOf s.cur / 4 → q ≠ quadOf s.cur → s.quadPresent q = true ∧ (s.contextOn (s.asidOf s.cur) q).isSome = true) ∧
      ((mrecI z d a b k8 m n).ok s = true ↔ opAsym s.me.fmt false = false ∧ opAsym s.me.fmt true = false ∧
        opFmt s.me.fmt false ∈ [.f32, .bf16, .f16] ∧ opFmt s.me.fmt true ∈ [.f32, .bf16, .f16])) ∧
    (∀ (i : Instr) (p : MSpec), MatrixForm i p → (∀ z d a b k8 m n, i ≠ .mma z d a b k8 m n ∧ i ≠ .mmag z d a b k8 m n ∧ i ≠ .mrec z d a b k8 m n) →
      (∀ a b, i ≠ .mfmt a ∧ i ≠ .mupld a b) → p.ok s = true)

/-- The engine of a quad (R195, R196, R198, R463). It accepts the head of one hart's queue or gang slot, issued in an earlier cycle,
at most one a cycle and eight accepted at a time, starting the search at the arbiter's position; the accepted request leaves its queue
or gang slot, stands last at the engine, and carries the format context of its slot as it is then, a member's part of an MMAG that of
its issuer; the parts of an accepted MMAG enter the gang slots of the other members. It completes requests in the order of acceptance:
with no poison read and no register of it still to be filled, the request's effect is applied to the tiles and accumulators whole, its
flags join the hart's and its result is delivered; a request that reads poison poisons what it writes instead and delivers 0. -/
def Obligations.MatrixEngine : Prop :=
  (∀ (q : Nat) (s : State),
    (s.nextAccept q = none → exec (.matrixAccept q) s = .next s) ∧
    (∀ (h : Nat) (r : MReq) (f : FmtCtx) (w : Quad), s.nextAccept q = some (h, r) → f = s.fmtCtx q r.ctx r.slot →
      w = (s.quad q).accept h f r s.cycle →
      exec (.matrixAccept q) s = .next ((if r.gang then [] else s.gangParts q { r with fmt := f.fmt }).foldl (fun t p =>
        t.modQuad p.1 (fun x => { x with gangSlots := Store.put x.gangSlots h p.2 })) (s.modQuad q (fun _ => w))) ∧
      h < 4 ∧ (s.quad q).inq.length < 8 ∧ r.at_ < s.cycle ∧ s.copyHolds r.ctx r.id r.names = false ∧
      w.inq = (s.quad q).inq ++ [if r.gang then r else { r with fmt := f.fmt, ucode := f.ucode, ust := f.ust }] ∧
      (r.gang = false → Store.Rising (s.quad q).dq → w.queueOf h = ((s.quad q).queueOf h).tail) ∧ w.arb = (h + 1) % 4) ∧
    (∀ r : MReq, (∀ z d a b k8 m n,
      r.op ≠ .mmag z d a b k8 m n) → s.gangParts q r = [])) ∧
  (∀ (q : Nat) (s : State), (s.quad q).inq = [] → exec (.matrixComplete q) s = .next s) ∧
  (∀ (q : Nat) (s : State) (r : MReq) (rest : List MReq) (u : State), (s.quad q).inq = r :: rest → (∀ acc d, r.op ≠ .mrel acc d) →
    u = r.writes.foldl (fun s t => s.touchTile r.ctx t) (r.reads.foldl (fun s t => s.ensureTile r.ctx t) s) →
    (u.tilesReady r = false → exec (.matrixComplete q) s = .next u) ∧
    (∀ (v : State) (o : Owner), u.tilesReady r = true → v = u.modQuad q (fun x => { x with inq := rest }) →
      o = v.ownerOf r.hart r.slot (some r.ictx) r.task →
      (v.readsPoison r = true → exec (.matrixComplete q) s = .next
        (((r.writes.foldl (fun s t => (s.poisonRange (tileAddr r.ctx t) (tileBytes t)).settleTile r.ctx t) v).deliver r 0).ownPoison o)) ∧
      (∀ (fl x : Nat) (w : State), v.readsPoison r = false → v.applyReq r = (fl, x, w) → exec (.matrixComplete q) s = .next
        (((r.writes.foldl (fun s t => s.settleTile r.ctx t) (r.whole.foldl (fun s t => s.cleanRange (tileAddr r.ctx t) (tileBytes t))
          (w.tally r.task (fun t => { t with flops := t.flops + 2 * r.macs })))).deliver r x).ownFlags o fl)))) ∧
  (∀ (q : Nat) (s : State) (r : MReq) (rest : List MReq) (acc : Bool) (d : Reg), (s.quad q).inq = r :: rest → r.op = .mrel acc d →
    s.tilesReady r = true → exec (.matrixComplete q) s = .next ((r.writes.foldl (fun s t => s.releaseTile r.ctx t)
      (s.modQuad q (fun x => { x with inq := rest }))).deliver r 0))

/-- A write to the first m rows and n columns of an accumulator (R460, R471): each element takes what the function gives for the
element it held, modulo 2^32, every other element of the accumulator keeps its value, and no byte outside the accumulator changes.
What the requests compute (R460, R465, R470 to R473). MZERO and MTZERO leave zeros in the registers they name. An MMA over a block of
one accumulator leaves in element (i, j) the accumulation of the chunks of row i of A and row j of B onto +0 (.z) or onto the element
(R300). MEXT answers the 64 bytes of a row that its segment names. MAPPLY with relu keeps a positive element, turns a NaN into the
canonical one and everything else into +0. -/
def Obligations.MatrixResults : Prop :=
  (∀ (s : State) (c a m n : Nat) (f : Nat → Nat → Nat → Nat × Nat), Safety.MemOk s → a < 8 → m ≤ 128 → n ≤ 128 → ∀ u : State,
      u = (s.mapAcc c a m n f).2 →
      (∀ i j : Nat, i < 128 → j < 128 → elemAt (u.accRow c a i) 32 j
        = if i < m ∧ j < n then (f i j (elemAt (s.accRow c a i) 32 j)).1 % 2 ^ 32 else elemAt (s.accRow c a i) 32 j) ∧
      (∀ b : Nat, b < tileAddr c (16 + a) ∨ tileAddr c (16 + a) + 65536 ≤ b → u.byteAt b = s.byteAt b) ∧
      u.harts = s.harts ∧ u.quads = s.quads) ∧
  ((∀ (s : State) (r : MReq), Safety.MemOk s → ((∃ d cnt, r.op = .mzero d cnt) ∨ ∃ d cnt, r.op = .mtzero d cnt) →
      ∀ t ∈ r.writes, ∀ k, k < tileBytes t → (s.applyReq r).2.2.byteAt (tileAddr r.ctx t + k) = 0) ∧
    (∀ (s : State) (r : MReq) (z : Bool) (d a b k8 : Reg) (m : BitVec 9) (n : BitVec 10), Safety.MemOk s →
      r.op = .mma z d a b k8 m n → d.toNat < 8 → m.toNat < 128 → n.toNat < 128 →
      ∀ i j : Nat, i ≤ m.toNat → j ≤ n.toNat → ∀ K, K = elemsOf r.fmt k8 →
      elemAt ((s.applyReq r).2.2.accRow r.ctx d.toNat i) 32 j
        = (mmaElement r.sampled (chunkOf r.fmt) (i * 2 ^ 24 + j * 2 ^ 12) (s.opRow r.ctx r.fmt false a.toNat K i i)
            (s.opRow r.ctx r.fmt true b.toNat K j j) (if z then 0 else elemAt (s.accRow r.ctx d.toNat i) 32 j)
            (ceilDiv K (chunkOf r.fmt))).1 % 2 ^ 32) ∧
    (∀ (s : State) (r : MReq) (d a : Reg) (row : BitVec 7) (seg : BitVec 3), r.op = .mext d a row seg →
      (s.applyReq r).2.1 = natBits (s.accRow r.ctx a.toNat row.toNat) (512 * seg.toNat) 512 ∧ (s.applyReq r).2.2 = s) ∧
    (∀ x : Nat, x < 2 ^ 32 → (reluElem x).1 = if (Fmt.f32.unpack x).isNaN then Fmt.f32.canonNaN else if x < 2 ^ 31 then x else 0))

/-! ## Repetition blocks -/

/-- REPB and its lane (R200, R202, R363). With the lane idle and the block's bytes at hand, REPB is an illegal instruction when the
block does not decode, when rs is 0 or at least 2^32, or when an instruction of the first iterations may not stand in a block; a
format check or a check of a transfer that would fail raises its cause; else the lane takes the block, repidx is 0, and the hart goes
on past it. A second REPB waits; a block whose bytes cannot be fetched raises the fetch's exception. The lane issues at most once a
cycle. An issue of the lane on a register that is not ready changes nothing; one that raises an exception in U-mode is that trap of
the hart; else it does what the instruction of that iteration does, with the mask and the rounding mode that the lane sampled, and
steps on. Tile and accumulator numbers count with the iteration modulo ring. -/
def Obligations.RepetitionBlocks : Prop :=
  (∀ (a : Reg) (len : BitVec 3) (ring : BitVec 2) (s : State), s.Free [a] [] →
    (s.me.lane.active = true → exec (.repb a len ring) s = .next s) ∧
    (s.me.lane.active = false →
      (fetchBlock (len.toNat + 1) (s.me.pc + 4) s = .ok none s → exec (.repb a len ring) s = .next (s.trap 2 s.me.ir)) ∧
      (∀ (c : Nat) (v : Word) (u : State), fetchBlock (len.toNat + 1) (s.me.pc + 4) s = .trap c v u →
        exec (.repb a len ring) s = .next (u.trapFrom s.me.pts c v)) ∧
      (∀ (blk : List (Instr × Word)) (e : Word) (rs rg : Nat), fetchBlock (len.toNat + 1) (s.me.pc + 4) s = .ok (some (blk, e)) s →
        rs = (s.rx a).toNat → rg = 2 ^ (ring.toNat + 1) →
        (rs = 0 ∨ 2 ^ 32 ≤ rs → exec (.repb a len ring) s = .next (s.trap 2 s.me.ir)) ∧
        (0 < rs → rs < 2 ^ 32 →
          ((∃ x ∈ unrolled rg (min rs rg) blk, blockOk s x.1 = false) → exec (.repb a len ring) s = .next (s.trap 2 s.me.ir)) ∧
          ((∀ x ∈ unrolled rg (min rs rg) blk, blockOk s x.1 = true) →
            (∀ (c : Nat) (v : Word), (blockTrap s (unrolled rg (min rs (rg + 1)) blk)).1 = some (c, v) → c ≠ 2 →
              exec (.repb a len ring) s = .next (s.trap c v)) ∧
            ((blockTrap s (unrolled rg (min rs (rg + 1)) blk)).1 = none → exec (.repb a len ring) s = .next (s.modMe (fun h =>
              ({ h with lane := laneOf s rs rg blk, npc := e, dev := { h.dev with repidx := 0 } } : Hart).retire)))))))) ∧
  (∀ (h : Nat) (s : State),
    ((s.hart h).lane.active = false ∨ (s.hart h).status.executes = false ∨ (s.hart h).lane.last = some s.cycle → exec (.repbLaneIssue h) s = .next s) ∧
    (∀ (w : State) (op : Instr) (i : Issue) (ns : List Nat), (s.hart h).lane.active = true → (s.hart h).status.executes = true →
      (s.hart h).lane.last ≠ some s.cycle → w = { s with cur := h } → w.me.lane.block[w.me.lane.idx]? = some op →
      blockIssue w (iterInstr w.me.lane.ring w.me.lane.iter op) = some i → ns = (i.xs.map (·.toNat)).filter (· != 0) →
      (w.me.laneBusy ns (i.vs.map (·.toNat)) = true → exec (.repbLaneIssue h) s = .next s) ∧
      (∀ t u : State, w.me.laneBusy ns (i.vs.map (·.toNat)) = false → ns.all (fun n => !(w.me.token n).unjoined && !(w.me.token n).fpend) = true →
        (∀ a, iterInstr w.me.lane.ring w.me.lane.iter op ≠ .vmask a) →
        u = w.modMe (fun x => { x with dev := { x.dev with rmode := w.me.lane.rmode, vactm := w.me.lane.vactm } }) →
        (u.filled (i.vs.map codeV ++ i.codes)).andThen (fun _ t => i.body t) = .ok () t →
        exec (.repbLaneIssue h) s = .next { t.modMe (fun x =>
          ({ x with dev := { x.dev with rmode := w.me.dev.rmode, vactm := w.me.dev.vactm } } : Hart).laneNext s.cycle) with cur := s.cur }) ∧
      (∀ (t : State) (c : Nat) (v : Word), w.me.mode = .u → w.me.laneBusy ns (i.vs.map (·.toNat)) = false →
        ns.all (fun n => !(w.me.token n).unjoined && !(w.me.token n).fpend) = true →
        (w.modMe (fun x => { x with dev := { x.dev with rmode := w.me.lane.rmode, vactm := w.me.lane.vactm } })).filled
          (i.vs.map codeV ++ i.codes) = .ok () t →
        (∃ t' : State, i.body t = .trap c v t') → exec (.repbLaneIssue h) s = .next { w.trap c v with cur := s.cur }))) ∧
  (∀ (h : Hart) (c : Nat), h.lane.idx + 1 < h.lane.block.length →
    h.laneNext c = { h with instret := h.instret + 1, lane := { h.lane with idx := h.lane.idx + 1, last := some c } }) ∧
  (∀ (h : Hart) (c : Nat), h.lane.block.length ≤ h.lane.idx + 1 →
    (h.laneNext c).lane.iter = h.lane.iter + 1 ∧ (h.laneNext c).lane.idx = 0 ∧ (h.laneNext c).lane.last = some c ∧
    (h.laneNext c).dev.repidx = BitVec.ofNat 64 (h.lane.iter + 1) ∧ ((h.laneNext c).lane.active = true ↔ h.lane.iter + 1 < h.lane.rs)) ∧
  (∀ (ring i : Nat) (z : Bool) (d a b k8 : Reg) (m : BitVec 9) (n : BitVec 10), iterInstr ring i (.mma z d a b k8 m n)
    = .mma z (d + BitVec.ofNat 5 (i % ring)) (a + BitVec.ofNat 5 (i % ring)) (b + BitVec.ofNat 5 (i % ring)) k8 m n) ∧
  (∀ (ring i : Nat) (t : VTy) (d a b : Reg), iterInstr ring i (.vadd t d a b) = .vadd t d a b)

/-! ## The environment call -/

/-- ECALL and EBREAK (R93, R309, R160). EBREAK raises cause 3, and ECALL cause 8, 9 or 11 by the mode, with a trap value of 0. An
ECALL in S-mode with "EVOI" in a7 makes the supervisor call that a6 names: it serves the call and goes on behind the ECALL; a code
above 14 answers −6. TASK_FAULT answers −1 for a code above 255 and −5 on a hart that runs no task; else the task ends as faulted with
that code, and the hart stops. An instruction of a call changes nothing unless its hart makes that call. An answer puts the code in a0
and the value, where the call gives one, in a1. -/
def Obligations.EnvironmentCalls : Prop :=
  (∀ s : State, exec (.ecallEnvironment true) s = .next (s.trap 3 0) ∧
    (s.calling = false → exec (.ecallEnvironment false) s = .next (s.trap (match s.me.mode with | .u => 8 | .s => 9 | .m => 11) 0))) ∧
  (∀ s : State, s.calling = true ↔ s.me.mode = .s ∧ s.rx 17 = 0x45564F49) ∧
  (∀ (f : Nat) (i : Instr) (serve : State → State) (s : State), SupervisorCall f i serve → s.me.status.executes = true → s.calling = true →
    (s.rx 16).toNat = f →
    exec (.ecallEnvironment false) s = .next (serve s).returned ∧ exec i s = .next (serve s).returned) ∧
  (∀ (f : Nat) (i : Instr) (serve : State → State) (s : State), SupervisorCall f i serve →
    s.calling = false ∨ (s.rx 16).toNat ≠ f → exec i s = .next s) ∧
  (∀ s : State, s.me.status.executes = true → s.calling = true → 14 < (s.rx 16).toNat →
    exec (.ecallEnvironment false) s = .next (s.answer (-6)).returned) ∧
  (∀ s : State, s.me.status.executes = true → s.calling = true → (s.rx 16).toNat = 13 →
    exec (.ecallEnvironment false) s = exec .taskFault s ∧
    (255 < (s.rx 10).toNat → exec .taskFault s = .next (s.answer (-1)).returned) ∧
    ((s.rx 10).toNat ≤ 255 → s.me.task = none → exec .taskFault s = .next (s.answer (-5)).returned) ∧
    (∀ k : Nat, (s.rx 10).toNat ≤ 255 → s.me.task = some k →
      exec .taskFault s = .next ((s.endTask k 11 (s.rx 10).toNat s.cur false).stopHart s.cur))) ∧
  (∀ (s : State) (code : Int) (v : Option Nat), Store.Rising s.me.x → (s.answer code v).rx 10 = BitVec.ofInt 64 code ∧
    (∀ n, v = some n → (s.answer code v).rx 11 = BitVec.ofNat 64 n) ∧
    (∀ r : Reg, r ≠ 10 → r ≠ 11 → (s.answer code v).rx r = s.rx r) ∧ (s.answer code v).mem = s.mem)

/-- The calls on owners, frames and tenants (R53 to R55, R85 to R87, R94): the order of their checks, the code each answers, and what
a call that succeeds changes. That OWNER_CREATE takes the lowest free slot, and that TENANT_DESTROY of an unknown ASID answers STATE,
is the model's choice (log 111). The calls on contexts, ports, apertures, stages and vault blocks (R69, R70, R87, R91, R94, R213): the
order of their checks, the code each answers, and what a call that succeeds changes. That CTX_CREATE answers INVALID before BUSY, that
PORT_OPEN counts a context under release, and the answer for a kind or an ASID outside R213's tables, are the model's choice (log
111). -/
def Obligations.SupervisorCalls : Prop :=
  (∀ s : State,
      (s.rtu.auditFull = true → ownerCreate s = s.answer (-2)) ∧
      (s.rtu.auditFull = false →
        ((∀ i, i < 4096 → s.slotUsed i = true) → ownerCreate s = s.answer (-4)) ∧
        (∀ i, i < 4096 → s.slotUsed i = false → (∀ j, j < i → s.slotUsed j = true) → ownerCreate s
          = ((s.modRtu (fun r => { r with keys := Store.put r.keys i r.nextKey, nextKey := r.nextKey + 1 })).audit 0x0040 0xF000 0
              (payload3 i 0 0)).answer 0 (some i))) ∧
      (s.arg 0 = 0 ∨ 4095 < s.arg 0 ∨ s.slotUsed (s.arg 0) = false → ownerDestroy s = s.answer (-1)) ∧
      (0 < s.arg 0 → s.arg 0 ≤ 4095 → s.slotUsed (s.arg 0) = true →
        ((∃ c ∈ s.disp.contexts, ∃ t, s.tenant c.2.asid = some t ∧ t.owner = s.arg 0) → ownerDestroy s = s.answer (-5)) ∧
        ((∀ c ∈ s.disp.contexts, ∀ t, s.tenant c.2.asid = some t → t.owner ≠ s.arg 0) → ∀ u : State,
          u = ((s.frames.filter (fun f => f.2.slot == s.arg 0)).map (·.1)).foldl (fun s f => (s.dropFrame f).loseFrame f) s →
          ownerDestroy s = ((u.modRtu (fun r => { r with keys := Store.del r.keys (s.arg 0) })).audit 0x0041 0xF000 0
            (payload3 (s.arg 0) 0 0)).answer 0)) ∧
      (s.arg 0 % 0x200000 ≠ 0 ∨ s.arg 1 = 0 ∨ Config.hbmBytes < s.arg 0 + s.arg 1 * 0x200000 ∨ 4095 < s.arg 2 ∨ s.slotUsed (s.arg 2) = false ∨
        1 < s.arg 3 ∨ (s.arg 3 = 1 ∧ s.arg 2 ≠ 0) ∨ (s.arg 3 = 0 ∧ s.arg 2 = 0) → frameSet s = s.answer (-1)) ∧
      (s.arg 0 % 0x200000 = 0 → 0 < s.arg 1 → s.arg 0 + s.arg 1 * 0x200000 ≤ Config.hbmBytes → s.arg 2 ≤ 4095 → s.slotUsed (s.arg 2) = true →
        (s.arg 3 = 1 ∧ s.arg 2 = 0 ∨ s.arg 3 = 0 ∧ s.arg 2 ≠ 0) → ∀ f, f = s.arg 0 / 0x200000 →
        ((∃ i, i < s.arg 1 ∧ ((s.frame (f + i)).slot = 0 ∧ (s.frame (f + i)).supw = false ∨ (s.frame (f + i)).image = true)) →
          frameSet s = s.answer (-5)) ∧
        ((∀ i, i < s.arg 1 → ((s.frame (f + i)).slot ≠ 0 ∨ (s.frame (f + i)).supw = true) ∧ (s.frame (f + i)).image = false) →
          frameSet s = (s.tagFrames f (s.arg 1) (s.arg 2) (s.arg 3 == 1)).answer 0)) ∧
      (s.descriptor.filter s.descOk = none → tenantCreate s = s.answer (-1) ∧ tenantSet s = s.answer (-1)) ∧
      (∀ (b : List Byte) (asid : Nat), s.descriptor.filter s.descOk = some b → asid = bytesAt b 0 2 →
        ((s.tenant asid).isSome = true → tenantCreate s = s.answer (-3) ∧
          (s.hartCount < s.reserves asid + (descTenant b).reserve → tenantSet s = s.answer (-4)) ∧
          (s.reserves asid + (descTenant b).reserve ≤ s.hartCount → tenantSet s = (s.modTenant asid (fun t =>
            { t with reserve := (descTenant b).reserve, cap := (descTenant b).cap, floor := (descTenant b).floor,
                     slack := (descTenant b).slack })).answer 0)) ∧
        (s.tenant asid = none → tenantSet s = s.answer (-5) ∧
          (s.disp.burnt.contains asid = true → tenantCreate s = s.answer (-5)) ∧
          (s.disp.burnt.contains asid = false →
            (s.hartCount < s.reserves asid + (descTenant b).reserve → tenantCreate s = s.answer (-4)) ∧
            (s.reserves asid + (descTenant b).reserve ≤ s.hartCount →
              tenantCreate s = (s.modDisp (fun d => { d with tenants := Store.put d.tenants asid (descTenant b) })).answer 0)))) ∧
      (s.arg 0 = 0 ∨ 65535 < s.arg 0 → tenantDestroy s = s.answer (-1)) ∧
      (0 < s.arg 0 → s.arg 0 ≤ 65535 →
        (s.tenant (s.arg 0) = none ∨ s.disp.contexts.any (fun c => c.2.asid == s.arg 0) = true → tenantDestroy s = s.answer (-5)) ∧
        ((s.tenant (s.arg 0)).isSome = true → s.disp.contexts.any (fun c => c.2.asid == s.arg 0) = false → ∃ u : State,
          tenantDestroy s = u.answer 0 ∧ u.disp.tenants = Store.del (s.endLaunches (s.arg 0)).disp.tenants (s.arg 0) ∧
            u.launchPorts = Store.del (s.endLaunches (s.arg 0)).launchPorts (s.arg 0) ∧ u.mem = (s.endLaunches (s.arg 0)).mem))) ∧
  (∀ s : State,
      (s.tenant (s.arg 0) = none → ctxCreate s = s.answer (-1) ∧ stageSet s = s.answer (-1)) ∧
      (∀ t : Tenant, s.tenant (s.arg 0) = some t →
        (s.quadPresent (s.arg 2) = false ∨ (s.quad (s.arg 2)).outOfService = true ∨ s.imageOk t (s.arg 1) = false → ctxCreate s = s.answer (-1)) ∧
        (s.quadPresent (s.arg 2) = true → (s.quad (s.arg 2)).outOfService = false → s.imageOk t (s.arg 1) = true →
          (s.rtu.auditFull = true → ctxCreate s = s.answer (-2)) ∧
          (s.rtu.auditFull = false → ∀ w u : State,
            w = ((s.devWrite (s.arg 1) (List.replicate 0xC000 0) 0).2.devWrite (s.arg 1 + 0x10C000) freshEngine 0).2 →
            u = (imageFrames (s.arg 1)).foldl (fun s f => { s with frames := Store.set {} s.frames f { s.frame f with image := true } }) w →
            ctxCreate s = (u.modDisp (fun d => { d with
              nextCtx := s.disp.nextCtx + 1,
              contexts := Store.put d.contexts s.disp.nextCtx { asid := s.arg 0, image := s.arg 1, quad := s.arg 2 } })).answer 0 (some s.disp.nextCtx)))) ∧
      (65535 < s.arg 0 → portOpen s = s.answer (-1) ∧ portClose s = s.answer (-1)) ∧
      (s.arg 0 ≤ 65535 → portClose s = (s.modLaunchPort (s.arg 0) (fun p => { p with opened := false })).answer 0 ∧
        (s.rtu.meas3Done = false ∨ s.disp.contexts.any (fun c => c.2.asid == s.arg 0) = false → portOpen s = s.answer (-5)) ∧
        (s.rtu.meas3Done = true → s.disp.contexts.any (fun c => c.2.asid == s.arg 0) = true →
          portOpen s = (s.modLaunchPort (s.arg 0) (fun _ => { opened := true })).answer 0)) ∧
      (1 < s.arg 0 ∨ 32767 < s.arg 1 → apertureMap s = s.answer (-1)) ∧
      (s.arg 0 ≤ 1 → s.arg 1 ≤ 32767 →
        (s.arg 2 = 0 → apertureMap s = (s.modPort (s.arg 0) (fun p => { p with bar4 := Store.del p.bar4 (s.arg 1) })).answer 0) ∧
        (s.arg 2 % 0x200000 ≠ 0 ∨ Config.hbmBytes ≤ s.arg 2 → s.arg 2 ≠ 0 → apertureMap s = s.answer (-1)) ∧
        (∀ f : Frame, f = s.frame (s.arg 2 / 0x200000) → s.arg 2 % 0x200000 = 0 → 0 < s.arg 2 → s.arg 2 < Config.hbmBytes →
          (s.arg 3 = 0 ∧ f.slot = 0 ∧ f.supw = true ∧ s.arg 4 = 0 ∨
            s.arg 3 ≠ 0 ∧ s.arg 4 ≤ 63 ∧ (∃ t, s.tenant (s.arg 3) = some t ∧ f.slot = t.owner) →
            (f.image = true → apertureMap s = s.answer (-5)) ∧
            (f.image = false → apertureMap s
              = (s.modPort (s.arg 0) (fun p => { p with bar4 := Store.put p.bar4 (s.arg 1) (s.arg 2, s.arg 3, s.arg 4) })).answer 0)))) ∧
      (∀ t : Tenant, s.tenant (s.arg 0) = some t → ∀ mins, mins = t.stages.foldl (fun n e => if e.1 = s.arg 1 then n else n + e.2.min) (s.arg 2) →
        (s.arg 1 = 0 ∨ 63 < s.arg 1 ∨ s.arg 2 = 0 ∨ s.arg 3 < s.arg 2 ∨ t.cap < s.arg 3 ∨ t.reserve < mins → stageSet s = s.answer (-1)) ∧
        (0 < s.arg 1 → s.arg 1 ≤ 63 → 0 < s.arg 2 → s.arg 2 ≤ s.arg 3 → s.arg 3 ≤ t.cap → mins ≤ t.reserve →
          (s.stageBusy (s.arg 0) (s.arg 1) = true → stageSet s = s.answer (-5)) ∧
          (s.stageBusy (s.arg 0) (s.arg 1) = false → stageSet s = (s.modTenant (s.arg 0) (fun t =>
            { t with stages := Store.put t.stages (s.arg 1) { min := s.arg 2, max := s.arg 3, ring := s.arg 4 } })).answer 0))) ∧
      (∀ q first n kind : Nat, q = s.arg 1 → first = s.arg 2 → n = s.arg 3 → kind = s.arg 4 →
        (s.quadPresent q = false ∨ n = 0 ∨ 96 < first + n ∨ 5 < kind ∨ (2 ≤ kind ∧ n ≠ 1) ∨ 65535 < s.arg 0 → vaultSet s = s.answer (-1)) ∧
        (s.arg 0 ≤ 65535 → s.quadPresent q = true → 0 < n → first + n ≤ 96 → kind ≤ 1 →
          (kind = 0 →
            ((∃ i, i < n ∧ (((s.quad q).block (65536 * (first + i))).kind = .free ∨ ((s.quad q).block (65536 * (first + i))).asid ≠ s.arg 0)) →
              vaultSet s = s.answer (-5)) ∧
            ((∀ i, i < n → ((s.quad q).block (65536 * (first + i))).kind ≠ .free ∧ ((s.quad q).block (65536 * (first + i))).asid = s.arg 0) →
              vaultSet s = (s.freeBlocks q first n).answer 0)) ∧
          (kind = 1 →
            ((∃ i, i < n ∧ ((s.quad q).block (65536 * (first + i))).kind ≠ .free) → vaultSet s = s.answer (-5)) ∧
            ((∀ i, i < n → ((s.quad q).block (65536 * (first + i))).kind = .free) →
              vaultSet s = (s.grantBlocks q first n (s.arg 0) 1).answer 0))) ∧
        (s.arg 0 ≤ 65535 → s.quadPresent q = true → n = 1 → first < 96 → 2 ≤ kind → kind ≤ 5 →
          (((s.quad q).block (65536 * first)).kind ≠ .free ∨
            s.disp.contexts.any (fun c => c.2.asid == s.arg 0 && c.2.quad == q && c.2.live) = false ∨
            ((s.quad q).stackBlock (s.arg 0) (kind - 2)).isSome = true → vaultSet s = s.answer (-5)) ∧
          (((s.quad q).block (65536 * first)).kind = .free → s.disp.contexts.any (fun c => c.2.asid == s.arg 0 && c.2.quad == q && c.2.live) = true →
            (s.quad q).stackBlock (s.arg 0) (kind - 2) = none → vaultSet s = (s.grantBlocks q first 1 (s.arg 0) kind).answer 0))))

/-- OBJ_TRANSLATE and OBJ_UNLOAD (R99, R106). No tenant, a slot above 255 or a window area that is not aligned is INVALID; then a slot
that is taken answers −3; then frames that are not the tenant's, and a header that is not in order (check 1), are INVALID. An object
whose hash does not match fails check 2; a translation of the owner that the heap holds for the fuses is mapped again; else the first
check that fails is reported in a2; the translation that is made joins the heap under a new number, its code written at its place in
the heap's memory, and its slot answers with its base address; without room it is NOSPACE. An object with a slot in use stays. Where
the heap lies and where a translation goes in it are the model's choice (log 110). -/
def Obligations.CodeCalls : Prop :=
  ∀ s : State,
    (s.tenant (s.arg 0) = none ∨ 255 < s.arg 2 ∨ s.arg 3 % 64 ≠ 0 → objTranslate s = s.invalid none) ∧
    (∀ (t : Tenant) (h : List Byte) (n : Nat), s.tenant (s.arg 0) = some t → s.arg 2 ≤ 255 → s.arg 3 % 64 = 0 → h = s.peekBytes (s.arg 1) 128 →
      n = bytesAt h 8 8 →
      ((Store.find? s.slotMap (s.arg 0 * 256 + s.arg 2)).isSome = true → objTranslate s = s.answer (-3)) ∧
      (Store.find? s.slotMap (s.arg 0 * 256 + s.arg 2) = none →
        (s.framesOf t.owner (s.arg 1) 128 = false → objTranslate s = s.invalid none) ∧
        (s.framesOf t.owner (s.arg 1) 128 = true → headerOk h (s.arg 1) = false → objTranslate s = s.invalid (some 1)) ∧
        (s.framesOf t.owner (s.arg 1) 128 = true → headerOk h (s.arg 1) = true → s.framesOf t.owner (s.arg 1) n = true →
          s.rangePoisoned (s.arg 1) n = false →
          objTranslate s = s.translateBytes (s.arg 0) t.owner (s.arg 2) (s.arg 3) (s.peekBytes (s.arg 1) n)))) ∧
    (∀ (asid owner j area : Nat) (b : List Byte),
      ((objHash b).toNat ≠ bytesAt b 0x10 32 → s.translateBytes asid owner j area b = s.invalid (some 2)) ∧
      ((objHash b).toNat = bytesAt b 0x10 32 →
        (∀ id, s.lookup owner b = some id → s.translateBytes asid owner j area b = s.mapSlot asid j area id b) ∧
        (s.lookup owner b = none →
          (∀ c, checkObject b s.grade s.rtu.fuses = .error c → s.translateBytes asid owner j area b = s.invalid (some c)) ∧
          (∀ plans : List Planned, checkObject b s.grade s.rtu.fuses = .ok plans →
            (s.windowPlaces asid area (4608 * plans.length) = none → s.translateBytes asid owner j area b = s.invalid none) ∧
            ((s.windowPlaces asid area (4608 * plans.length)).isSome = true →
              ∀ (x : Translation) (code : List Byte), buildTranslation owner s.rtu.fuses b plans = some (x, code) →
                (s.heapRoom x.len = none → s.translateBytes asid owner j area b = s.answer (-4)) ∧
                (∀ (a : Nat) (u : State), s.heapRoom x.len = some a →
                  u = (({ s with nextId := s.nextId + 1 } : State).devWrite (Config.heapBase + a) code 0).2 →
                  s.translateBytes asid owner j area b
                    = ({ u with heap := Store.put u.heap s.nextId { x with base := a } } : State).mapSlot asid j area s.nextId b))))) ∧
      (∀ (id : Nat) (ps : List Place) (w : State), s.windowPlaces asid area (4608 * (objTasks b).length) = some ps →
        w = s.writeWindows asid ps (windowBytes b) → s.mapSlot asid j area id b
          = ({ w with slotMap := Store.put w.slotMap (asid * 256 + j) id } : State).answer 0 (some (slotBase j)))) ∧
    (s.tenant (s.arg 0) = none ∨ 255 < s.arg 1 → objUnload s = s.answer (-1)) ∧
    ((s.tenant (s.arg 0)).isSome = true → s.arg 1 ≤ 255 →
      (Store.find? s.slotMap (s.arg 0 * 256 + s.arg 1) = none → objUnload s = s.answer (-5)) ∧
      (∀ id, Store.find? s.slotMap (s.arg 0 * 256 + s.arg 1) = some id →
        (s.slotInUse (s.arg 0) (s.arg 1) = true → objUnload s = s.answer (-5)) ∧
        (s.slotInUse (s.arg 0) (s.arg 1) = false → ∃ u : State, objUnload s = u.answer 0 ∧
          u.slotMap = Store.del s.slotMap (s.arg 0 * 256 + s.arg 1) ∧ u.heap = s.heap)))

/-! ## The root of trust -/

/-- The resets (R9, R46 to R48). A cold reset leaves every hart, context and launch at its reset state, records BOOT with the nonce,
extends MEAS0, and tries slot A and then slot B: the first slot with no failing check is measured into MEAS1, recorded and released at
its entry offset; each slot that fails is recorded with the first check it fails; with no slot left the device is in recovery, where
RECOVERY_GO tries the recovery window (that it reads no go word there is the model's choice, log 8). The management core starts at the
entry offset. A warm reset drops the launches and closes the ports, and puts the device registers of each hart at their reset values,
REMAIN at a free value; clocks and general registers keep theirs. -/
def Obligations.Resets : Prop :=
  (∀ (nonce : BitVec 128) (s : State), ∃ u : State,
    exec (.coldReset nonce) s = .next (u.trySlots [(0, s.rtu.flashA), (1, s.rtu.flashB)]) ∧
    u.harts = [] ∧ u.quads = [] ∧ u.homes = [] ∧ u.disp = {} ∧ u.msgs = [] ∧ u.rtu.boot = .inReset ∧ u.rtu.nonce = nonce ∧
    u.rtu.fuses = s.rtu.fuses ∧ u.rtu.keys = [(0, 1)] ∧ u.rtu.seq = 2 ∧ u.rtu.entries.map (·.kind) = [0x0001, 0x0006] ∧
    (∀ i, 0 < i → Store.get 0 u.rtu.meas i = 0) ∧ u.grade = s.grade ∧
    u.mem = s.mem.filter (fun c => decide (Config.hostBase ≤ c.1) && decide (c.1 < Config.vaultBase))) ∧
  (∀ (s : State) (n : Nat) (f : List Byte) (rest : List (Nat × List Byte)),
    (s.trySlots []).rtu.boot = .recovery ∧
    (s.rtu.slotCheck f = 0 → s.trySlots ((n, f) :: rest) = s.acceptSlot n f) ∧
    (s.rtu.slotCheck f ≠ 0 → s.trySlots ((n, f) :: rest) = (s.audit 0x0003 0xF000 0 (payload3 n (s.rtu.slotCheck f) 0)).trySlots rest)) ∧
  (∀ (s : State) (n : Nat) (f : List Byte), (s.acceptSlot n f).rtu.boot = .released ∧ (s.acceptSlot n f).rtu.svn = slotNat f 8 1 ∧
    (s.acceptSlot n f).rtu.mcMem = slotPayload f ∧ (s.acceptSlot n f).rtu.mcEntry = slotNat f 0x18 8 ∧
    (Store.Rising s.harts → (s.acceptSlot n f).hart 0x1000 = { status := .running, pc := BitVec.ofNat 64 (slotNat f 0x18 8) })) ∧
  (∀ (r : Rtu) (f : List Byte), r.slotCheck f = 0 → slotNat f 0 4 = 0x57464255 ∧ slotNat f 4 2 = 1 ∧ slotNat f 0x10 8 ≤ 16777216 ∧
    Sha.sha256 ((f.drop 0x40).take 48) = r.vendorKeyHash ∧ r.fuses ≤ slotNat f 8 1 ∧ (Sha.sha256 (slotPayload f)).toNat = slotNat f 0x20 32) ∧
  (∀ s : State, (s.rtu.boot ≠ .recovery → exec .recoveryGo s = .next s) ∧
    (s.rtu.boot = .recovery → exec .recoveryGo s = .next (s.trySlots [(2, s.rtu.windowImage)]))) ∧
  (∀ s : State, ∃ t : State, exec .warmReset s = .next t ∧ t.disp.launches = [] ∧ t.launchPorts = []) ∧
  (∀ (s : State) (h : Nat), (∃ v, ((s.warmHart h).hart h).dev = { remain := v }) ∧ ((s.warmHart h).hart h).pts = (s.hart h).pts ∧
    ((s.warmHart h).hart h).x = (s.hart h).x ∧ ((s.warmHart h).hart h).fstat = 0 ∧ ∀ g, g ≠ h → (s.warmHart h).hart g = s.hart g)

/-- Measurements and quotes (R50 to R52). Extending register i makes it the hash of its old value and the digest, and no other.
Firmware extends MEAS2 to MEAS7 only, once it is released, and the first digest into MEAS3 names the image that the supervisor runs
from. A quote that firmware asks for joins the signing queue; when its turn comes, its bytes and their signature, 16,736 in all, go to
the host with the entries that no sealed segment holds, and QUOTE is recorded after it; the bytes hold the fuse counter, the nonce and
the chain head. The fuse counter (R49). Firmware may ask only for a value above the counter and at most its own SVN, one advance at a
time; dispatch stops and every running task is asked to stop. The fuses are blown when every stopped hart has saved: the translations
made under an older value lose their code, between a FUSE record and a record of their number. When the purged objects that are mapped
have been translated again, the advance is over and dispatch goes on. -/
def Obligations.MeasurementsAndFuses : Prop :=
  ((∀ (s : State) (i : Nat) (d : BitVec 256), Store.Rising s.rtu.meas →
      Store.get 0 (s.extend i d).rtu.meas i = Sha.sha256 (bytesOf 32 (Store.get 0 s.rtu.meas i).toNat ++ bytesOf 32 d.toNat) ∧
      ∀ j, j ≠ i → Store.get 0 (s.extend i d).rtu.meas j = Store.get 0 s.rtu.meas j) ∧
    (∀ (i : Nat) (d : BitVec 256) (s : State),
      (s.rtu.boot ≠ .released ∨ i < 2 ∨ 7 < i → exec (.measExtend i d) s = .next s) ∧
      (s.rtu.boot = .released → 2 ≤ i → i ≤ 7 →
        exec (.measExtend i d) s = .next ((s.extend i d).modRtu (fun r =>
          { r with supervisor := if i = 3 then r.supervisor.or (some d) else r.supervisor })))) ∧
    (∀ (nonce : BitVec 256) (s : State),
      (s.rtu.boot ≠ .released → exec (.quoteRequest nonce) s = .next s) ∧
      (s.rtu.boot = .released → exec (.quoteRequest nonce) s = .next (s.modRtu (fun r => { r with signing := r.signing ++ [some nonce] })))) ∧
    (∀ (nonce : BitVec 256) (rest : List (Option (BitVec 256))) (s : State),
      (s.rtu.signing = some nonce :: rest → exec .quoteSigned s = .next (((s.modRtu (fun r => { r with signing := rest })).toHost
        (.quote (s.quoteBytes nonce ++ bytesOf 16224 (Config.slhSign (s.quoteBytes nonce)).toNat) s.rtu.unsealed)).audit 0x0050 0xF000 0
          (nonce.toNat % 2 ^ 128))) ∧
      (s.quoteBytes nonce ++ bytesOf 16224 (Config.slhSign (s.quoteBytes nonce)).toNat).length = 16736 ∧
      (s.rtu.signing = none :: rest ∨ s.rtu.signing = [] → exec .quoteSigned s = .next s) ∧
      (s.quoteBytes nonce).length = 512 ∧ bytesAt (s.quoteBytes nonce) 4 1 = s.rtu.fuses % 256 ∧
      bytesAt (s.quoteBytes nonce) 0x38 32 = nonce.toNat ∧ bytesAt (s.quoteBytes nonce) 0x60 32 = s.rtu.head.toNat)) ∧
  ((∀ (v : Nat) (s : State),
      (s.rtu.boot ≠ .released ∨ s.rtu.advance.isSome = true ∨ v ≤ s.rtu.fuses ∨ s.rtu.svn < v ∨ 64 < v →
        exec (.fuseCounterAdvance v) s = .next s) ∧
      (∀ u : State, s.rtu.boot = .released → s.rtu.advance = none → s.rtu.fuses < v → v ≤ s.rtu.svn → v ≤ 64 →
        u = (s.modRtu (fun r => { r with advance := some v })).modDisp (fun d => { d with stopped := true }) →
        exec (.fuseCounterAdvance v) s = .next (u.disp.tasks.foldl (fun s t => s.stopTask t.1) u))) ∧
    (∀ (v : Nat) (s : State), s.rtu.advance = some v →
      (s.rtu.fuses = v ∨ s.allSaved = false → exec .fuseBlow s = .next s) ∧
      (∀ (old : List Nat) (u : State), s.rtu.fuses ≠ v → s.allSaved = true →
        old = (s.heap.filter (fun t => t.2.svn < v && !t.2.purged)).map (·.1) →
        u = s.audit 0x0004 0xF000 0 (payload3 s.rtu.fuses v 0) →
        exec .fuseBlow s = .next ((({ u with
          heap := s.heap.map (fun t : Nat × Translation => if old.contains t.1 then (t.1, { t.2 with purged := true, starts := [] }) else t)
          harts := s.harts.map (fun h : Nat × Hart => (h.1, { h.2 with icache := [] })) } : State).modRtu (fun r =>
            { r with fuses := v, purged := old })).audit 0x0005 0xF001 0 (payload3 old.length 0 0))) ∧
      (s.rtu.fuses ≠ v → exec .retranslationComplete s = .next s) ∧
      (∀ w : State, s.rtu.fuses = v → w = s.rtu.purged.foldl State.forget (s.rtu.purged.foldl State.retranslate s) →
        exec .retranslationComplete s
          = .next ((w.modRtu (fun r => { r with advance := none, purged := [] })).modDisp (fun d => { d with stopped := false })))) ∧
    (∀ s : State, s.rtu.advance = none → exec .fuseBlow s = .next s ∧ exec .retranslationComplete s = .next s))

/-- The audit log (R56 to R61). An entry takes the next sequence number and the chain head before it; the new head is the hash of the
old head and the entry. The entry before the last of a segment is followed by CHECKPOINT, which closes the segment: it joins the
segments and the signing queue, and the core clock halts when no other segment is free. The RTU appends the hardware's kinds only. A
sealed segment is spilled into host slot s mod k, when the segment last spilled there has been acknowledged, and an acknowledged one
leaves the SRAM. -/
def Obligations.AuditLog : Prop :=
  (∀ (r : Rtu) (ns kind source asid : Nat) (payload : BitVec 192), ∃ e : AuditEntry, (r.push ns kind source asid payload).entries = r.entries ++ [e] ∧
    e.seq = r.seq ∧ e.ns = ns ∧ e.kind = kind ∧ e.source = source ∧ e.asid = asid ∧ e.payload = payload ∧ e.link = r.head.setWidth 128 ∧
    (r.push ns kind source asid payload).seq = r.seq + 1 ∧
    (r.push ns kind source asid payload).head = Sha.sha256 (bytesOf 32 r.head.toNat ++ bytesOf 64 e.bits)) ∧
  (∀ (s : State) (kind source asid payload : Nat),
    (s.rtu.seq % 4096 ≠ 4094 → (s.audit kind source asid payload) = { s with rtu := s.rtu.push s.ns kind source asid (BitVec.ofNat 192 payload) }) ∧
    (s.rtu.seq % 4096 = 4094 → (s.audit kind source asid payload).rtu.seq = s.rtu.seq + 2 ∧
      (∃ e : AuditEntry, (s.audit kind source asid payload).rtu.entries.getLast? = some e ∧ e.kind = 0x0010 ∧ e.source = 0xF000 ∧
        e.seq = s.rtu.seq + 1) ∧
      (s.audit kind source asid payload).rtu.segments
        = s.rtu.segments ++ [{ idx := s.rtu.seq / 4096, final := (s.audit kind source asid payload).rtu.head }] ∧
      (s.audit kind source asid payload).rtu.signing = s.rtu.signing ++ [none] ∧
      ((s.audit kind source asid payload).halted = true ↔
        s.halted = true ∨ (s.audit kind source asid payload).rtu.segmentFree (s.rtu.seq / 4096 + 1) = false))) ∧
  (∀ (kind source asid : Nat) (payload : BitVec 192) (s : State),
    (hardwareKinds.contains kind = true → source < 65536 → asid < 65536 →
      exec (.auditAppend kind source asid payload) s = .next (s.audit kind source asid payload.toNat)) ∧
    (hardwareKinds.contains kind = false ∨ 65536 ≤ source ∨ 65536 ≤ asid → exec (.auditAppend kind source asid payload) s = .next s) ∧
    (0x8000 ≤ kind → exec (.auditAppend kind source asid payload) s = .next s)) ∧
  (∀ (s : State) (rest : List (Option (BitVec 256))), (s.rtu.signing = [] ∨ ∃ n, s.rtu.signing = some n :: rest) → exec .segmentSeal s = .next s) ∧
  (∀ (s : State) (rest : List (Option (BitVec 256))), s.rtu.signing = none :: rest → exec .segmentSeal s = .next (s.modRtu (fun r =>
    { r with
      signing := rest,
      segments := modifyFirst (fun g => !g.sealed) (fun g => { g with sealed := true, signature := bytesOf 16224 (Config.slhSign g.message).toNat }) r.segments }))) ∧
  (∀ (s : State) (base port k : Nat) (g : Segment), s.rtu.overflow = some (base, port, k) →
    s.rtu.segments.find? (fun g => g.sealed && !g.spilled) = some g → (s.port port).up = true →
    (s.rtu.segments.any (fun o => o.spilled && o.idx + k == g.idx) = true → exec .spillWriteComplete s = .next s) ∧
    (∀ u : State, s.rtu.segments.any (fun o => o.spilled && o.idx + k == g.idx) = false →
      u = s.hostStore (Config.hostBase + base + g.idx % k * 278528) (s.rtu.spillBytes g) →
      exec .spillWriteComplete s = .next ((u.modRtu (fun r =>
        { r with segments := r.segments.map (fun o => if o.idx = g.idx then { o with spilled := true } else o) })).audit 0x0051 0xF000 0
          (payload3 g.idx (g.idx % k) 0)))) ∧
  (∀ s : State, s.rtu.overflow = none ∨ s.rtu.segments.find? (fun g => g.sealed && !g.spilled) = none ∨
    (∃ base port k, s.rtu.overflow = some (base, port, k) ∧ (s.port port).up = false) → exec .spillWriteComplete s = .next s) ∧
  (∀ (seg : Nat) (s : State),
    (s.rtu.segments.any (fun g => g.idx == seg && g.spilled) = false → exec (.spillAck seg) s = .next s) ∧
    (s.rtu.segments.any (fun g => g.idx == seg && g.spilled) = true → exec (.spillAck seg) s = .next (s.modRtu (fun r =>
      { r with
        segments := r.segments.filter (fun g => g.idx != seg),
        entries := r.entries.filter (fun e => e.seq / 4096 != seg) })))) ∧
  (∀ (base port k : Nat) (s : State), s.rtu.boot = .released → port < 2 → 2 ≤ k → base + k * 278528 ≤ 2 ^ 55 →
    exec (.overflowAreaSet base port k) s = .next (s.modRtu (fun r => { r with overflow := some (base, port, k) }))) ∧
  (∀ (base port k : Nat) (s : State), s.rtu.boot ≠ .released ∨ 2 ≤ port ∨ k < 2 ∨ 2 ^ 55 < base + k * 278528 →
    exec (.overflowAreaSet base port k) s = .next s)

/-! ## Coherence in logical time -/

/-- A home's timestamps (R236, R238, R241, R242). A read is granted up to the reader's time or the granule's wts, whichever is later,
plus the lease (1 at a proxy); the granule's rts rises to the grant and its wts stays. A write takes a time after the granule's rts,
and at least t0, at which both timestamps of its granule stand then; the granule's rts was no later, and the line differs from HBM. An
engine's read takes a time no earlier than wts, to which rts rises. Granting ownership names the owner and answers the timestamps of
the line's granule. -/
def Obligations.HomeClocks : Prop :=
  ∀ (hm : Home) (proxy : Bool) (a : Nat),
    (∀ p lease : Nat, ∀ g, g = (hm.merge proxy a).granule proxy a →
      (hm.read proxy a p lease).2 = (g.wts, max p g.wts + (if proxy then 1 else lease)) ∧
      (hm.read proxy a p lease).1.findGranule a
        = some { g with rts := max g.rts (max p g.wts + (if proxy then 1 else lease)) } ∧
      (hm.read proxy a p lease).1.lines = hm.lines) ∧
    (∀ t0 : Nat, ∀ g, g = ((hm.merge proxy a).split proxy a).granule proxy a →
      (hm.write proxy a t0).2 = max t0 (g.rts + 1) ∧
      (hm.write proxy a t0).1.findGranule a = some { g with wts := max t0 (g.rts + 1), rts := max t0 (g.rts + 1) } ∧
      (hm.write proxy a t0).1.hclk = max hm.hclk (max t0 (g.rts + 1)) ∧
      (hm.write proxy a t0).1.lines = (match Store.find? hm.lines (lineNo a) with
        | some l => Store.put hm.lines (lineNo a) { l with dirty := true }
        | none => hm.lines)) ∧
    (∀ clk : Nat, ∀ g, g = (hm.merge proxy a).granule proxy a →
      (hm.engineRead proxy a clk).2 = max clk g.wts ∧
      (hm.engineRead proxy a clk).1.findGranule a = some { g with rts := max g.rts (max clk g.wts) }) ∧
    (∀ h inc asid : Nat, ∀ g, g = ((hm.merge proxy a).split proxy a).granule proxy a →
      (hm.own proxy a h inc asid).2 = (g.wts, g.rts) ∧ (hm.own proxy a h inc asid).1.owner (lineNo a) = some (h, inc))

/-- What a home does with a request (R216, R235 to R241, R251, R254). A request of an incarnation that was declared dead is discarded
and recorded. One behind an earlier request of the same sender or line waits. A line that the home does not hold, or that a proxy must
own and does not, is fetched first, and a fetch across a die link that is down fails the request; a line with another owner is
recalled first. Else a read answers with the grant, an ownership request with the timestamps, a write and an AMO are performed, and an
LR reads, each as the timestamps of its granule say. A marked renewal waits at a slice while the granule's wts is the one it names. -/
def Obligations.HomeRequests : Prop :=
  (∀ (s : State) (id src inc home line asid : Nat) (write : Bool) (except : Option Nat) (serve : State → State),
    (s.incOf src ≠ inc → s.atHome id src inc home line asid write except serve
      = (s.dropMsg id).audit 0x0031 0xF000 0 (payload3 src inc line)) ∧
    (s.incOf src = inc →
      (s.blocked id src home line = true → s.atHome id src inc home line asid write except serve = s) ∧
      (s.blocked id src home line = false →
        (isProxy home = false → (s.home home).holds (lineNo line) = false →
          (s.fillDead home line = none → s.atHome id src inc home line asid write except serve
            = if s.msgs.any (fun m => m.2.isFillOf home line) then s else s.send (.fill src home line asid)) ∧
          (∀ (target : Nat) (m : Msg), s.fillDead home line = some target → s.msg id = some m →
            s.atHome id src inc home line asid write except serve = s.failRequest id m failDeadlink target false)) ∧
        (isProxy home = true → (s.home home).holds (lineNo line) = false ∨ write = true ∧ ((s.home home).line (lineNo line)).hostOwned = false →
          s.atHome id src inc home line asid write except serve
            = if s.msgs.any (fun m => m.2.isFillOf home line) then s else s.send (.hostFetch home line write)) ∧
        ((s.home home).holds (lineNo line) = true → (isProxy home = true → write = true → ((s.home home).line (lineNo line)).hostOwned = true) →
          ((s.home home).owner (lineNo line) = none → s.atHome id src inc home line asid write except serve = serve s) ∧
          (∀ o oi, (s.home home).owner (lineNo line) = some (o, oi) →
            (some o = except → s.atHome id src inc home line asid write except serve = serve s) ∧
            (some o ≠ except → s.atHome id src inc home line asid write except serve
              = if s.msgs.any (fun m => m.2.isRecallOf home line || m.2.returns home line) then s
                else s.send (.recallMsg home line o oi))))))) ∧
  (∀ (s : State) (m : Nat), s.msg m = none → exec (.homeRead m) s = .next s ∧ exec (.homeOwn m) s = .next s ∧ exec (.homeWrite m) s = .next s ∧
    exec (.homeEngineRead m) s = .next s) ∧
  (∀ (s : State) (m src inc home line p lease mark asid : Nat) (w : Option Nat), s.msg m = some (.read src inc home line p w lease mark asid) →
    mark ≠ 1 ∨ w = none → exec (.homeRead m) s = .next (s.atHome m src inc home line asid false none
      (fun s => (s.dropMsg m).answerRead src home line p w lease (mark != 0) asid))) ∧
  (∀ (s : State) (m src inc home line p lease asid v : Nat), s.msg m = some (.read src inc home line p (some v) lease 1 asid) →
    ∀ serve : State → State, (∀ u : State,
      (isProxy home = false → (((u.dropMsg m).home home).granule false line).wts = v → ((u.dropMsg m).home home).held.length < 32 →
        serve u = (u.dropMsg m).modHome home (fun x =>
          { x with held := x.held ++ [{ hart := src, inc := inc, line := line, pts := p, w := v, lease := lease, asid := asid }] })) ∧
      (isProxy home = true ∨ (((u.dropMsg m).home home).granule false line).wts ≠ v ∨ 32 ≤ ((u.dropMsg m).home home).held.length →
        serve u = (u.dropMsg m).answerRead src home line p (some v) lease true asid)) →
    exec (.homeRead m) s = .next (s.atHome m src inc home line asid false none serve)) ∧
  (∀ (s : State) (src home line p lease asid : Nat) (w : Option Nat) (marked : Bool) (hm : Home) (wts grant : Nat),
    (s.home home).read (isProxy home) line p lease = (hm, wts, grant) →
    s.answerRead src home line p w lease marked asid = (s.setHome home hm).send (.readReply src home line wts grant
      (if w = some wts then none else some (s.readLine line)) ((if w = some wts then none else some (s.readLine line)).isSome && s.poisoned line)
      (if isProxy home then .hostC else .hbm) marked asid)) ∧
  (∀ (s : State) (m src inc home line p asid : Nat) (w : Option Nat), s.msg m = some (.own src inc home line p w asid) →
    ∀ serve : State → State, (∀ (u : State) (hm : Home) (wts rts : Nat),
      ((u.dropMsg m).home home).own (isProxy home) line src inc asid = (hm, wts, rts) →
      serve u = (((u.dropMsg m).setHome home hm).send (.ownReply src home line wts rts
        (if w = some wts then none else some (((u.dropMsg m).setHome home hm).readLine line)) (((u.dropMsg m).setHome home hm).poisoned line)
        (if isProxy home then .hostC else .hbm) asid)).answerHeld home (fun x => x.line == line)) →
    exec (.homeOwn m) s = .next (s.atHome m src inc home line asid true (some src) serve)) ∧
  (∀ (s : State) (m src inc home line t0 asid : Nat) (mask : BitVec 64) (d : Line), s.msg m = some (.write src inc home line mask d t0 asid) →
    ∀ serve : State → State, (∀ (u v : State) (hm : Home) (t : Nat), ((u.dropMsg m).home home).write (isProxy home) line t0 = (hm, t) →
      v = ((((u.dropMsg m).setHome home hm).putLine line mask d).wakeHeld home) →
      serve u = v.send (.ack src home line t (v.readLine line) (v.poisoned line))) →
    exec (.homeWrite m) s = .next (s.atHome m src inc home line asid true none serve)) ∧
  (∀ (s : State) (m src inc home addr size v cmp t0 asid : Nat) (op : AmoOp), s.msg m = some (.amo src inc home addr size op v cmp t0 asid) →
    ∀ (hm : Home) (t new : Nat) (u : State), u = s.dropMsg m → s.incOf src = inc → s.blocked m src home (addr / 64 * 64) = false →
      (s.home home).holds (lineNo (addr / 64 * 64)) = true → (isProxy home = true → ((s.home home).line (lineNo (addr / 64 * 64))).hostOwned = true) →
      (s.home home).owner (lineNo (addr / 64 * 64)) = none → u.poisoned (addr / 64 * 64) = false →
      amoResult op size (u.readNat addr size) v cmp = (new, true) → (u.home home).write (isProxy home) (addr / 64 * 64) t0 = (hm, t) →
      exec (.homeWrite m) s = .next ((((u.setHome home hm).writeNat addr size new).wakeHeld home).modHart src
        (·.remoteDone (u.readNat addr size) (some t) none))) ∧
  (∀ (s : State) (m src inc home addr size v cmp t0 asid : Nat) (op : AmoOp), s.msg m = some (.amo src inc home addr size op v cmp t0 asid) →
    ∀ serve : State → State, (∀ (u w : State) (hm : Home) (t new : Nat), w = u.dropMsg m →
      (w.poisoned (addr / 64 * 64) = true → (w.home home).engineRead (isProxy home) (addr / 64 * 64) t0 = (hm, t) →
        serve u = (w.setHome home hm).modHart src (·.remoteDone 0 (some t) (some 29))) ∧
      (w.poisoned (addr / 64 * 64) = false → amoResult op size (w.readNat addr size) v cmp = (new, false) →
        (w.home home).engineRead (isProxy home) (addr / 64 * 64) t0 = (hm, t) →
        serve u = (w.setHome home hm).modHart src (·.remoteDone (w.readNat addr size) (some t) none)) ∧
      (w.poisoned (addr / 64 * 64) = false → amoResult op size (w.readNat addr size) v cmp = (new, true) →
        (w.home home).write (isProxy home) (addr / 64 * 64) t0 = (hm, t) →
        serve u = ((((w.setHome home hm).writeNat addr size new).wakeHeld home).modHart src
          (·.remoteDone (w.readNat addr size) (some t) none)))) →
    exec (.homeWrite m) s = .next (s.atHome m src inc home (addr / 64 * 64) asid true none serve)) ∧
  (∀ (s : State) (m src inc home addr size t0 asid : Nat), s.msg m = some (.lrRead src inc home addr size t0 asid) →
    ∀ serve : State → State, (∀ (u : State) (hm : Home) (t : Nat),
      ((u.dropMsg m).home home).engineRead (isProxy home) (addr / 64 * 64) t0 = (hm, t) →
      serve u = ((u.dropMsg m).setHome home hm).modHart src (·.remoteDone (((u.dropMsg m).setHome home hm).readNat addr size) (some t)
        (if ((u.dropMsg m).setHome home hm).poisoned (addr / 64 * 64) then some 29 else none))) →
    exec (.homeEngineRead m) s = .next (s.atHome m src inc home (addr / 64 * 64) asid false none serve))

/-- What arrives at a hart or at a home (R216, R237 to R240, R244, R247, R249). A fill puts its line into the home, where a line of a
full set makes room (which one: log 103); a recalled owner answers with its line and keeps a shared copy, once no grant to it is on
its way; an answer waits for an earlier one about its line (log 104), for times that fit the die's base, and for room in the L1; a
reply or an eviction writes the owner's data through and applies its times; an eviction sends an owned line home and drops a shared
one; a grant of ownership makes the copy owned; an acknowledgement is counted, its time kept for the next release; a posted store of
another die is performed at its vault, which sends the acknowledgement; a held renewal and a vault watch are answered when their time
is over; the drift tick adds 1 to a hart's clock when a drift interval has ended. -/
def Obligations.CoherenceReplies : Prop :=
  (∀ (s : State) (m src home line asid : Nat), s.msg m = some (.fill src home line asid) →
    ((s.fillDead home line).isSome = true → exec (.l2MissFill m) s = .next (s.dropMsg m)) ∧
    (∀ (back : Bool) (u : State), s.fillDead home line = none → (s.dropMsg m).makeRoom home line = (back, u) →
      exec (.l2MissFill m) s = .next (((u.modHome home (·.addLine false line asid false)).wakeHeld home).countFill src back))) ∧
  (∀ (s : State) (home line : Nat),
    ((s.home home).holds (lineNo line) = true ∨ (s.home home).rivals (isProxy home) (lineNo line) = [] → s.makeRoom home line = (false, s)) ∧
    ((s.home home).holds (lineNo line) = false → (s.home home).rivals (isProxy home) (lineNo line) ≠ [] →
      ∃ v ∈ (s.home home).rivals (isProxy home) (lineNo line), ∃ u : State, u = s.fresh64.2.recallNow home (64 * v) ∧
        s.makeRoom home line = (((u.home home).line v).dirty, u.modHome home (·.dropLine (isProxy home) v)))) ∧
  (∀ (s : State) (m home line o oi : Nat), s.msg m = some (.recallMsg home line o oi) →
    ∀ (g : Bool) (key : Nat), key = l1Key (lineNo line) home → g = (s.msgs.any (fun m => m.2.grants o home line)
      || ((s.hart o).headWants key || ((s.hart o).amoWants key).isSome) && !s.fits (dieOf o) ((s.hart o).storeTime key)) →
    (g = true → exec (.recallArrive m) s = .next s) ∧
    (g = false → ∀ (h : Hart) (l : Option L1Line), ((s.dropMsg m).hart o).surrender (l1Key (lineNo line) home) = (h, l) →
      (l = none → exec (.recallArrive m) s = .next (s.dropMsg m)) ∧
      (∀ x, l = some x → exec (.recallArrive m) s = .next (((s.dropMsg m).setHart o h).send
        (.recallReply o oi home line x.wts x.rts (if x.dirty then some x.data else none) x.poison))))) ∧
  (∀ (h : Hart) (key : Nat) (l : L1Line), h.headWants key = false → h.amoWants key = none → h.l1At key = some l →
    (l.st = .owned → (h.surrender key).2 = some l ∧ (h.surrender key).1.l1At key = some { l with st := .shared, dirty := false }) ∧
    (l.st ≠ .owned → h.surrender key = (h, none))) ∧
  (∀ (s : State) (m o oi home line w r : Nat) (d : Option Line) (p : Bool),
    s.msg m = some (.recallReply o oi home line w r d p) ∨ s.msg m = some (.evict o oi home line w r d p) →
    (s.incOf o = oi → exec (.recallReply m) s = .next (((s.dropMsg m).applyReturn home line w r d p).wakeHeld home)) ∧
    (s.incOf o ≠ oi → exec (.recallReply m) s = .next (((s.dropMsg m).audit 0x0031 0xF000 0 (payload3 o oi line)).wakeHeld home))) ∧
  (∀ (s : State) (h key : Nat),
    ((s.hart h).l1At key = none → exec (.ownedEviction h key) s = .next s) ∧
    (∀ l, (s.hart h).l1At key = some l →
      (l.st = .shared → exec (.ownedEviction h key) s = .next (s.setHart h ((s.hart h).dropL1 key))) ∧
      (l.st = .pending → exec (.ownedEviction h key) s = .next s) ∧
      (l.st = .owned → exec (.ownedEviction h key) s = .next ((s.setHart h (((s.hart h).unreserve key).dropL1 key)).send
        (.evict h (s.hart h).inc (key % 65536) (key / 65536 * 64) l.wts l.rts (if l.dirty then some l.data else none) l.poison))))) ∧
  (∀ (s : State) (m dst home line wts rts asid key : Nat) (data : Option Line) (poison marked : Bool) (kind : PlaceKind),
    s.msg m = some (.readReply dst home line wts rts data poison kind marked asid) → key = l1Key (lineNo line) home →
    (s.overtakes m dst home line = true → exec (.readReply m) s = .next s) ∧
    (s.overtakes m dst home line = false → ∀ w : Bool, w = (s.hart dst).ld.any (fun p => p.kind == (if marked then .renew else .line) && p.key == key) →
      (w = false → exec (.readReply m) s = .next (s.dropMsg m)) ∧
      (w = true → s.fits (dieOf dst) (max wts rts) = false → exec (.readReply m) s = .next s) ∧
      (∀ ld : Hart → Option Pend, w = true → s.fits (dieOf dst) (max wts rts) = true →
        ld = (fun h => if marked then h.ld.map (fun p => { p with done := true, answered := data.isSome }) else none) →
        (data = none → exec (.readReply m) s
          = .next ((s.dropMsg m).modHart dst (fun h => { h with ld := ld h }.takeRead key wts rts none poison kind asid))) ∧
        (∀ d, data = some d →
          (s.l1Room dst key = none → exec (.readReply m) s = .next s) ∧
          (∀ u : State, s.l1Room dst key = some u → exec (.readReply m) s = .next ((u.dropMsg m).modHart dst (fun h =>
            { h with ld := ld h }.takeRead key wts rts (some (u.withOwnStores dst home line d)) poison kind asid))))))) ∧
  (∀ (h : Hart) (key wts rts n asid : Nat) (d : Line) (poison : Bool) (kind : PlaceKind),
    (∀ l, h.l1At key = some l → l.st ≠ .shared → h.takeRead key wts rts (some (d, n)) poison kind asid = h) ∧
    ((∀ l, h.l1At key = some l → l.st = .shared) → h.takeRead key wts rts (some (d, n)) poison kind asid = (h.raise wts).putL1 key
      { st := if n = 0 then .shared else .pending, kind := kind, wts := wts, rts := rts, data := d, poison := poison, asid := asid, unacked := n }) ∧
    (∀ l, h.l1At key = some l → l.st = .shared →
      h.takeRead key wts rts none poison kind asid = (h.raise wts).putL1 key { l with wts := wts, rts := rts })) ∧
  (∀ (s : State) (h key : Nat),
    (((s.hart h).l1At key).isSome = true ∨ ((s.hart h).l1Set key).length < 8 → s.l1Room h key = some s) ∧
    ((s.hart h).l1At key = none → 8 ≤ ((s.hart h).l1Set key).length →
      (((s.hart h).l1Set key).all (fun l => l.2.st == .pending) = true → s.l1Room h key = none) ∧
      (((s.hart h).l1Set key).all (fun l => l.2.st == .pending) = false →
        ∃ v ∈ (s.hart h).l1Set key, v.2.st ≠ .pending ∧ s.l1Room h key = some (s.fresh64.2.evictEvent h v.1)))) ∧
  (∀ (s : State) (m dst home line wts rts asid key : Nat) (data : Option Line) (poison : Bool) (kind : PlaceKind),
    s.msg m = some (.ownReply dst home line wts rts data poison kind asid) → key = l1Key (lineNo line) home →
    (s.overtakes m dst home line = true ∨ s.fits (dieOf dst) (max wts rts) = false → exec (.ownershipReply m) s = .next s) ∧
    (s.overtakes m dst home line = false → s.fits (dieOf dst) (max wts rts) = true →
      (data = none → exec (.ownershipReply m) s = .next ((s.dropMsg m).modHart dst (·.takeOwned key wts rts none poison kind asid))) ∧
      (∀ d, data = some d →
        (s.l1Room dst key = none → exec (.ownershipReply m) s = .next s) ∧
        (∀ u : State, s.l1Room dst key = some u → exec (.ownershipReply m) s
          = .next ((u.dropMsg m).modHart dst (·.takeOwned key wts rts (some d) poison kind asid)))))) ∧
  (∀ (s : State) (m dst home line t key : Nat) (d : Line) (poison : Bool), s.msg m = some (.ack dst home line t d poison) →
    key = l1Key (lineNo line) home →
    (s.overtakes m dst home line = true ∨ (s.hart dst).cachesAck key = true ∧ s.fits (dieOf dst) t = false →
      exec (.postedStoreAck m) s = .next s) ∧
    (s.overtakes m dst home line = false → ((s.hart dst).cachesAck key = true → s.fits (dieOf dst) t = true) →
      ∃ u : State, exec (.postedStoreAck m) s = .next u ∧ (u.hart dst).unacked = (s.hart dst).unacked - 1 ∧
        (u.hart dst).ackTime = max (s.hart dst).ackTime t ∧ (u.hart dst).pts = (s.hart dst).pts ∧ u.mem = s.mem ∧
        ∀ g, g ≠ dst → u.hart g = s.hart g)) ∧
  (∀ (s : State) (m dst addr t : Nat), s.msg m = some (.vaultAck dst addr t) → exec (.postedStoreAck m) s
    = .next ((s.dropMsg m).modHart dst (fun h => { h with unacked := h.unacked - 1, ackTime := max h.ackTime t }))) ∧
  (∀ (s : State) (m src inc addr t0 : Nat) (mask : BitVec 64) (d : Line), s.msg m = some (.vaultWrite src inc addr mask d t0) →
    (s.incOf src ≠ inc → exec (.vaultAccess m) s = .next ((s.dropMsg m).audit 0x0031 0xF000 0 (payload3 src inc addr))) ∧
    (s.incOf src = inc → s.msgs.all (fun e => decide (m ≤ e.1)) = true → ∀ (t : Nat) (u : State),
      (s.dropMsg m).vaultStore ((addr - Config.vaultBase) / 0x800000) addr mask d t0 = (t, u) →
      exec (.vaultAccess m) s = .next (u.send (.vaultAck src addr t)))) ∧
  (∀ (s : State) (h : Nat),
    (s.hartPresent h = true → (s.hart h).driftAt + (s.hart h).dev.drift.toNat ≤ s.cycle → exec (.driftTick h) s
      = .next (s.modHart h (fun x => { x with pts := x.pts + 1, driftAt := x.driftAt + x.dev.drift.toNat }))) ∧
    (s.hartPresent h = false ∨ s.cycle < (s.hart h).driftAt + (s.hart h).dev.drift.toNat → exec (.driftTick h) s = .next s)) ∧
  (∀ (s : State) (home k : Nat) (x : Held), (s.home home).held[k]? = some x →
    exec (.renewalHoldExpiry home k) s = .next (s.answerHeld home (fun y => y == x))) ∧
  (∀ (s : State) (q k : Nat) (w : Watch), (s.quad q).watches[k]? = some w → exec (.vaultWatchExpiry q k) s
    = .next ((s.modQuad q (fun x => { x with watches := removeFirst (fun y => y == w) x.watches })).modHart w.hart (fun h =>
      { h with ld := h.ld.map (fun p => if p.kind = .watch then { p with done := true, time := some (s.quad q).vclk } else p) }))) ∧
  (∀ (s : State) (port line id : Nat) (owned : Bool), s.fetchOf (0x3000 + port) line = some (id, owned) →
    exec (.hostLineFetch port line) s = .next ((((s.dropMsg id).makeRoom (0x3000 + port) line).2).modHome (0x3000 + port)
      (·.addLine true line 0 owned))) ∧
  (∀ (s : State) (port line : Nat), s.fetchOf (0x3000 + port) line = none → exec (.hostLineFetch port line) s = .next s)

/-- Rebasing and host lines (R245, R250, R31, R32, R27). A die begins a rebase step only when none is under way and a clock or
timestamp of it has passed the limit; each home keeps the larger floor and acknowledges; when all have, the clocks and lines of the
die's harts are raised to the new base. A snoop recalls the owner: one that leaves a shared copy is answered at once, one that takes
the line when its leases are over, and the proxy then gives its copy up. A host AMO writes at the host and its old value reaches its
hart; so do an AtomicOp's and a load's, and a poisoned answer sets POISON in the hart's fence status and raises cause 29. A
zero-length read ends its request. An AtomicOp or a DMWr to the device is unsupported. -/
def Obligations.HostLines : Prop :=
  (∀ (s : State) (die : Nat),
    (die < 4 → (s.die die).rebasing = false → s.rebaseDue die = true →
      exec (.rebaseStep die) s = .next (s.modDie die (fun d => { d with rebasing := true, acked := [] }))) ∧
    (4 ≤ die ∨ (s.die die).rebasing = true ∨ s.rebaseDue die = false → exec (.rebaseStep die) s = .next s) ∧
    (∀ home, (s.die die).rebasing = true → s.isHome home = true → (s.die die).acked.contains home = false →
      exec (.rebaseFloorReceive die home) s = .next ((s.modHome home (fun m => { m with floor := max m.floor ((s.die die).base + 0x400000) })).modDie
        die (fun d => { d with acked := insertNat d.acked home }))) ∧
    (∀ home, (s.die die).rebasing = false ∨ s.isHome home = false ∨ (s.die die).acked.contains home = true →
      exec (.rebaseFloorReceive die home) s = .next s) ∧
    ((s.die die).rebasing = false ∨ (s.die die).acked.length ≠ s.homeCount → exec (.rebaseComplete die) s = .next s) ∧
    ((s.die die).rebasing = true → (s.die die).acked.length = s.homeCount → ∃ u : State,
      exec (.rebaseComplete die) s
        = .next (u.modDie die (fun x => { x with base := (s.die die).base + 0x400000, rebasing := false, acked := [] })) ∧ u.mem = s.mem ∧
      (∀ h, (u.hart h).x = (s.hart h).x ∧ (h ∈ s.hartsOfDie die → (s.die die).base + 0x400000 ≤ (u.hart h).pts) ∧ (s.hart h).pts ≤ (u.hart h).pts))) ∧
  (∀ (s : State) (port line : Nat) (take : Bool), ∀ l n home, home = 0x3000 + port → l = line / 64 * 64 → n = lineNo l →
    (2 ≤ port ∨ (s.home home).holds n = false ∨ (s.port port).up = false → exec (.hostSnoop port line take) s = .next s) ∧
    (∀ u : State, port < 2 → (s.home home).holds n = true → (s.port port).up = true → u = (s.recallNow home l).wakeHeld home →
      (take = true → exec (.hostSnoop port line take) s = .next (u.modHome home (fun m => m.setSnoop n (some true) (m.line n).hostOwned))) ∧
      (take = false → exec (.hostSnoop port line take) s
        = .next ((u.modHome home (fun m => m.setSnoop n (m.line n).snoop false)).toHost (.snoopReply port l (u.readLine l))))) ∧
    ((s.home home).holds n = true → ((s.home home).line n).snoop = some true → s.leasesOver home l = true → ∀ u : State,
      u = (s.recallNow home l).wakeHeld home →
      exec (.snoopHoldExpiry port line) s = .next ((u.toHost (.snoopReply port l (u.readLine l))).modHome home (·.dropLine true n))) ∧
    (s.leasesOver home l = false → exec (.snoopHoldExpiry port line) s = .next s)) ∧
  (∀ (s : State) (req h p addr size val cmp : Nat) (op : AmoOp), s.hostReq req = some (.amo h p addr size op val cmp) →
    ((s.dropReq req).poisoned addr = true → exec (.atomicopCompletion req) s
      = .next ((s.dropReq req).modHart h (fun x => (x.addFail failPoison (0x2000 + p) false).remoteDone 0 none (some 29)))) ∧
    (∀ (old : Nat) (u : State), (s.dropReq req).poisoned addr = false → (s.dropReq req).hostAmo addr size op val cmp = (old, u) →
      exec (.atomicopCompletion req) s = .next (u.modHart h (·.remoteDone old none none)))) ∧
  (∀ (s : State) (req h inc p addr size val cmp t0 : Nat) (op : AmoOp), s.hostReq req = some (.amoC h inc p addr size op val cmp t0) →
    (s.incOf h ≠ inc → exec (.hostAmoCompletion req) s = .next ((s.dropReq req).audit 0x0031 0xF000 0 (payload3 h inc (addr / 64 * 64)))) ∧
    (s.incOf h = inc → (s.home (0x3000 + p)).holds (lineNo (addr / 64 * 64)) = false → (s.home (0x3000 + p)).owner (lineNo (addr / 64 * 64)) = none →
    (s.home (0x3000 + p)).held = [] → ∀ t, t = max t0 ((s.home (0x3000 + p)).hclk + 1) →
    ∀ u : State, u = (s.dropReq req).modHome (0x3000 + p) (fun m => { m with hclk := max m.hclk t }) →
    (u.poisoned (addr / 64 * 64) = true → exec (.hostAmoCompletion req) s
      = .next (u.modHart h (fun x => (x.addFail failPoison (0x2000 + p) false).remoteDone 0 (some t) (some 29)))) ∧
    (u.poisoned (addr / 64 * 64) = false → exec (.hostAmoCompletion req) s
      = .next ((u.hostAmo addr size op val cmp).2.modHart h (·.remoteDone (u.hostAmo addr size op val cmp).1 (some t) none))))) ∧
  (∀ (s : State) (req h p addr size : Nat), s.hostReq req = some (.load h p addr size) →
    (s.poisoned addr = true → exec (.hostReadCompletion req) s
      = .next ((s.dropReq req).modHart h (fun x => (x.addFail failPoison (0x2000 + p) false).remoteDone 0 none (some 29)))) ∧
    (s.poisoned addr = false → exec (.hostReadCompletion req) s
      = .next ((s.dropReq req).modHart h (·.remoteDone (s.readNat addr size) none none)))) ∧
  (∀ (s : State) (req t p : Nat), s.hostReq req = some (.copy t p) →
    exec (.hostReadCompletion req) s = .next ((s.dropReq req).modTransfer t (fun x => { x with host := 2 }))) ∧
  (∀ (s : State) (req h p n l : Nat), s.hostReq req = some (.zlr h p n) ∨ s.hostReq req = some (.zlrLaunch l p) →
    exec (.zeroLengthReadComplete req) s = .next (s.dropReq req)) ∧
  (∀ (s : State) (port : Nat) (addr : Word), exec (.atomicopAsCompleter port) s = .next (s.toHost .unsupported) ∧
    exec (.otherDmwr port addr) s = .next (s.toHost .unsupported))

/-! ## Launches and apertures -/

/-- Launches (R68 to R84). A record at a port that is down has no effect; at a port that is not open, or before the firmware runs, it
is unsupported; with a misaligned completion address it is aborted; when the tenant's or the port's places are all taken, or its
argument slots, it is to be retried; else it succeeds and is accepted. A record that R73 rejects ends BAD_RECORD, one in the reserve
of the audit log AUDIT_FULL; one without arguments is ready at once. Arguments that were read are written to the slot and the launch
is ready; ones that cannot be, end it ARGS_FAULT. A launch whose turn has come is submitted when the root TCB can be taken, waits when
the submission answers 11, and ends BAD_TCB else, after an ARGS_CONSUMED write of its own (the model's choice, log 112). A launch with
no task left, and a MARKER with no earlier launch left, sends its zero-length reads, and after them its DONE write ends it. Apertures
(R48, R70, R270). A write at a port that is up and open is performed line by line at the homes of its bytes, with the time kept for
the port; where nothing is mapped it has no effect. A read answers the bytes, an abort when one is poisoned, and is unsupported where
nothing is mapped. In recovery, port 0 writes the recovery window. -/
def Obligations.Launches : Prop :=
  ((∀ (port page : Nat) (rec : BitVec 512) (s : State),
      (2 ≤ port ∨ 65536 ≤ page ∨ (s.port port).up = false → exec (.launch port page rec) s = .next s) ∧
      (port < 2 → page < 65536 → (s.port port).up = true →
        (s.rtu.boot ≠ .released ∨ (s.launchPort page).opened = false → exec (.launch port page rec) s = .next (s.toHost .unsupported)) ∧
        (s.rtu.boot = .released → (s.launchPort page).opened = true →
          (recDone rec % 32 ≠ 0 → exec (.launch port page rec) s = .next (s.toHost .abort)) ∧
          (recDone rec % 32 = 0 → s.tenant page = none → exec (.launch port page rec) s = .next (s.toHost .unsupported)) ∧
          (∀ t : Tenant, recDone rec % 32 = 0 → s.tenant page = some t →
            ((t.pendingCap ≤ s.pendingOf page ∨ 1024 ≤ (s.disp.launches.filter (fun l => l.2.port == port && l.2.waiting)).length ∨
                t.argSlots ≠ 0 ∧ t.freeArg = none ∧ recLen rec ≠ 0) → exec (.launch port page rec) s = .next (s.toHost .retry)) ∧
            (s.pendingOf page < t.pendingCap → (s.disp.launches.filter (fun l => l.2.port == port && l.2.waiting)).length < 1024 →
              (t.argSlots = 0 ∨ t.freeArg.isSome = true ∨ recLen rec = 0) →
              exec (.launch port page rec) s = .next ((s.toHost .success).acceptLaunch port page t rec)))))) ∧
    (∀ (s : State) (port asid : Nat) (t : Tenant) (rec : BitVec 512) (l : Launch),
      l = { asid := asid, port := port, record := rec, phase := .reading, deadline := if recDeadline rec = 0 then s.ns + t.slack else recDeadline rec } →
      (badRecord rec asid t.argSlots = true → s.acceptLaunch port asid t rec = s.completeOnly l 3) ∧
      (badRecord rec asid t.argSlots = false → s.rtu.auditFull = true → s.acceptLaunch port asid t rec = s.completeOnly l 5) ∧
      (badRecord rec asid t.argSlots = false → s.rtu.auditFull = false → recLen rec = 0 → s.acceptLaunch port asid t rec
        = ((s.modDisp (fun d => { d with nextLaunch := s.disp.nextLaunch + 1 })).setLaunch s.disp.nextLaunch l.ready).argsConsumed l) ∧
      (∀ (slot : Nat) (u : State), badRecord rec asid t.argSlots = false → s.rtu.auditFull = false → recLen rec ≠ 0 → t.freeArg = some slot →
        u = ((s.modDisp (fun d => { d with nextLaunch := s.disp.nextLaunch + 1 })).modTenant asid (fun t =>
          { t with argUsed := insertNat t.argUsed slot })).setLaunch s.disp.nextLaunch { l with slotIdx := some slot } →
        s.acceptLaunch port asid t rec
          = if 2 ^ 55 < recArgs rec + recLen rec then u.rejectLaunch s.disp.nextLaunch 6 else u.askHost (.args s.disp.nextLaunch port))) ∧
    (∀ (s : State) (port page : Nat), port < 2 → (s.port port).up = true →
      s.portRead port page 0x40 8 = s.toHost (.data (bytesOf 8 (s.portStatus page).toNat)) ∧
      (∀ off len : Nat, off ≠ 0x40 ∨ len ≠ 8 → s.portRead port page off len = s.toHost (.data (List.replicate len 0)))) ∧
    (∀ (port page off len : Nat) (data : Word) (s : State), exec (.launchPortDmwrOther port page off len) s = .next (s.toHost .unsupported) ∧
      exec (.launchPortPostedWrite port page off data) s = .next s) ∧
    (∀ (id req : Nat) (l : Launch) (s u : State), s.launchAt id = some l → s.argsReq id = some req → u = s.dropReq req →
      (u.rangePoisoned (Config.hostBase + recArgs l.record) (recLen l.record) = true →
        exec (.argsReadComplete id) s = .next (u.rejectLaunch id 6)) ∧
      (∀ t : Tenant, u.rangePoisoned (Config.hostBase + recArgs l.record) (recLen l.record) = false → u.tenant l.asid = some t →
        u.tenantWrite l.asid (t.argPool + 4096 * l.slotIdx.getD 0) (u.peekBytes (Config.hostBase + recArgs l.record) (recLen l.record)) 0 = none →
        exec (.argsReadComplete id) s = .next (u.rejectLaunch id 6)) ∧
      (∀ (t : Tenant) (k m : Nat) (w : State), u.rangePoisoned (Config.hostBase + recArgs l.record) (recLen l.record) = false →
        u.tenant l.asid = some t → l.slotIdx = some k →
        u.tenantWrite l.asid (t.argPool + 4096 * k) (u.peekBytes (Config.hostBase + recArgs l.record) (recLen l.record)) 0 = some (m, w) →
        exec (.argsReadComplete id) s
          = .next ((w.argsConsumed { l with argTime := m }).setLaunch id ({ l with argTime := m } : Launch).ready))) ∧
    (∀ (id : Nat) (s : State), (s.launchAt id = none ∨ s.argsReq id = none → exec (.argsReadComplete id) s = .next s) ∧
      (s.launchAt id = none → exec (.launchSubmit id) s = .next s ∧ exec (.launchDone id) s = .next s)) ∧
    (∀ (id : Nat) (l : Launch) (t : Tenant) (s : State), s.launchAt id = some l → s.tenant l.asid = some t →
      (l.phase ≠ .ready ∨ s.launchTurn id l = false → exec (.launchSubmit id) s = .next s) ∧
      (l.phase = .ready → s.launchTurn id l = true →
        (s.prepareRoot l t = none → exec (.launchSubmit id) s = .next (s.rejectLaunch id 4)) ∧
        (∀ (tm r : Nat) (u w : State), s.prepareRoot l t = some (tm, u) →
          u.submit l.asid (recRoot l.record) (portDie l.port) (some id) none
            (max (max tm l.argTime) (max (u.port 0).apTime (u.port 1).apTime)) = (r, w) →
          (r = 11 → exec (.launchSubmit id) s = .next w) ∧
          (r ≠ 0 → r ≠ 11 → exec (.launchSubmit id) s = .next (w.rejectLaunch id 4)) ∧
          (r = 0 → exec (.launchSubmit id) s = .next (w.modDisp (fun d => { d with launches := d.launches.map (fun x : Nat × Launch =>
            if x.1 = id then (id, { x.2 with phase := .submitted }) else x) })))))) ∧
    (∀ (id : Nat) (l : Launch) (s : State), s.launchAt id = some l → ∀ earlier : Bool,
      (earlier = true ↔ recKind l.record = 1 ∧ l.ended = false ∧ ∃ e ∈ s.disp.launches, e.1 < id ∧ e.2.asid = l.asid) →
      (l.phase ≠ .submitted ∨ l.live ≠ 0 ∨ earlier = true ∨ s.storesLeft l.asid = true → exec (.launchDone id) s = .next s) ∧
      (l.phase = .submitted → l.live = 0 → s.storesLeft l.asid = false → earlier = false →
        (∀ ports : List Nat, ports = l.ports.filter (fun p => (s.port p).up) → l.zlrSent = false → ports ≠ [] →
          exec (.launchDone id) s = .next (ports.foldl (fun s p => s.askHost (.zlrLaunch id p))
            ((s.freeArgs id).modDisp (fun d => { d with launches := d.launches.map (fun x : Nat × Launch =>
              if x.1 = id then (id, { x.2 with zlrSent := true }) else x) })))) ∧
        (s.hostReqs.any (fun r => match r.2 with | .zlrLaunch x _ => x == id | _ => false) = true →
          l.zlrSent = true ∨ l.ports.filter (fun p => (s.port p).up) = [] → exec (.launchDone id) s = .next s) ∧
        (s.hostReqs.any (fun r => match r.2 with | .zlrLaunch x _ => x == id | _ => false) = false →
          l.zlrSent = true ∨ l.ports.filter (fun p => (s.port p).up) = [] →
          exec (.launchDone id) s = .next (((s.freeArgs id).complete l l.status 3 (natBit (recFlags l.record) 0)).dropLaunch id)))) ∧
    (∀ (s : State) (l : Launch) (status flags : Nat),
      ((s.port l.port).up = false → s.complete l status flags false
        = s.modLaunchPort l.asid (fun p => { p with dropped := min 0xFFFF (p.dropped + 1) })) ∧
      (∀ w u : State, (s.port l.port).up = true → w = s.modDisp (fun d => { d with eventSeq := d.eventSeq + 1 }) →
        u = (if recDone l.record + 32 ≤ 2 ^ 55 then w.hostStore (Config.hostBase + recDone l.record)
          (completionBytes s.disp.eventSeq status flags l.retired l.faults s.ns) else w) →
        s.complete l status flags true = u.toHost (.msix l.port (recVector l.record)) ∧ s.complete l status flags false = u))) ∧
  ((∀ (port page off : Nat) (data : List Byte) (s : State),
      (2 ≤ port ∨ (s.port port).up = false ∨ 0x200000 < off + data.length → exec (.apertureWrite port page off data) s = .next s) ∧
      (port < 2 → (s.port port).up = true → off + data.length ≤ 0x200000 →
        (s.rtu.boot = .released → exec (.apertureWrite port page off data) s
          = .next ((linePieces off data.length (data.length + 1)).foldl (fun (a : State × List Byte) p =>
            (a.1.aperturePiece port page p.1 (a.2.take p.2), a.2.drop p.2)) (s, data)).1) ∧
        (s.rtu.boot ≠ .released → s.rtu.boot ≠ .recovery → exec (.apertureWrite port page off data) s = .next s) ∧
        (s.rtu.boot = .released → Store.find? (s.port port).bar4 page = none → data.length ≤ 64 - off % 64 →
          exec (.apertureWrite port page off data) s = .next s) ∧
        (∀ (a home t : Nat) (u : State), s.rtu.boot = .released → s.apertureAt port page off = some (a, home) → 0 < data.length →
          data.length ≤ 64 - off % 64 → s.engineWrite home (a / 64 * 64) (byteMask (a % 64) data.length)
            (BitVec.ofNat 512 (ofBytes data * 2 ^ (8 * (a % 64)))) 0 0 = (t, u) →
          exec (.apertureWrite port page off data) s = .next (u.modPort port (fun p => { p with apTime := max p.apTime t }))) ∧
        (s.rtu.boot = .recovery → port = 0 → page < 16 → exec (.apertureWrite port page off data) s
          = .next (s.modRtu (fun r => { r with window := cellWrite r.window (page * 0x200000 + off) data }))) ∧
        (s.rtu.boot = .recovery → port = 1 ∨ 16 ≤ page → exec (.apertureWrite port page off data) s = .next s))) ∧
    (∀ (port page off len : Nat) (s : State),
      (2 ≤ port ∨ (s.port port).up = false → exec (.apertureRead port page off len) s = .next s) ∧
      (port < 2 → (s.port port).up = true →
        (s.rtu.boot ≠ .released ∨ 0x200000 < off + len → exec (.apertureRead port page off len) s = .next (s.toHost .unsupported)) ∧
        (s.rtu.boot = .released → off + len ≤ 0x200000 →
          (s.apertureRead port page (linePieces off len (len + 1)) = none → exec (.apertureRead port page off len) s = .next (s.toHost .unsupported)) ∧
          (∀ (bs : List Byte) (bad : Bool) (u : State), s.apertureRead port page (linePieces off len (len + 1)) = some (bs, bad, u) →
            exec (.apertureRead port page off len) s = .next (u.toHost (if bad then .abort else .data bs)))))))

/-! ## Links, ports, dead agents, power -/

/-- Host ports and die links (R35, R43, R45, R255). A host link that goes down is recorded, closes its port and takes with it what is
on its way; one that comes up is recorded too, and is coherent only if its proxy has not died twice. A request to the host that times
out or is refused sets the bit of its hart's fence status and raises cause 5 for a load and 7 for an AMO, cause 29 for a poisoned
answer; a copy ends with the status; a fetch of a proxy fails the first request that waits for its line. The sixteenth failed replay
in a row, or an idle time-out, declares a die link down; a good one ends the count. -/
def Obligations.Links : Prop :=
  (∀ (port : Nat) (s : State),
    (2 ≤ port ∨ (s.port port).up = false → exec (.hostLinkDown port) s = .next s) ∧
    (port < 2 → (s.port port).up = true → exec (.hostLinkDown port) s = .next (((s.modPort port (fun x => { x with up := false, cxl := false })).audit
      0x0022 0xF000 0 (payload3 port 0 0)).portLost port)) ∧
    (∀ cxl : Bool, (port < 2 → (s.port port).up = false → exec (.hostLinkUp port cxl) s
        = .next ((s.modPort port (fun x => { x with up := true, cxl := cxl && decide (x.deaths < 2) })).audit 0x0022 0xF000 0 (payload3 port 1 0))) ∧
      (2 ≤ port ∨ (s.port port).up = true → exec (.hostLinkUp port cxl) s = .next s))) ∧
  (∀ (req : Nat) (s : State), s.hostReq req = none → (∀ home line o, s.msg req ≠ some (.hostFetch home line o)) →
    exec (.hostCompletionTimeout req) s = .next s ∧ ∀ k, exec (.hostErrorCompletion req k) s = .next s) ∧
  (∀ (req home line : Nat) (o : Bool) (s : State), s.hostReq req = none → s.msg req = some (.hostFetch home line o) →
    exec (.hostCompletionTimeout req) s = .next (s.failFetch req home line failTimeout false) ∧
    exec (.hostErrorCompletion req .unsupported) s = .next (s.failFetch req home line failRefused false) ∧
    exec (.hostErrorCompletion req .abort) s = .next (s.failFetch req home line failRefused false) ∧
    exec (.hostErrorCompletion req .poison) s = .next (s.failFetch req home line failPoison true)) ∧
  (∀ (s : State) (id home line bit : Nat) (bad : Bool) (k : Nat) (m : Msg),
    (s.dropMsg id).msgs.find? (fun m => m.2.request.any (fun r => r.2 == (home, line))) = some (k, m) →
    s.failFetch id home line bit bad = (s.dropMsg id).failRequest k m bit (home - 0x1000) bad) ∧
  (∀ (req h p a n val cmp t0 inc : Nat) (op : AmoOp) (s : State), ∀ u : State, u = s.dropReq req →
    (s.hostReq req = some (.load h p a n) →
      exec (.hostCompletionTimeout req) s = .next (u.modHart h (fun x => (x.addFail failTimeout (0x2000 + p) false).remoteDone 0 none (some 5))) ∧
      exec (.hostErrorCompletion req .unsupported) s
        = .next (u.modHart h (fun x => (x.addFail failRefused (0x2000 + p) false).remoteDone 0 none (some 5))) ∧
      exec (.hostErrorCompletion req .poison) s
        = .next (u.modHart h (fun x => (x.addFail failPoison (0x2000 + p) false).remoteDone 0 none (some 29)))) ∧
    (s.hostReq req = some (.amo h p a n op val cmp) ∨ s.hostReq req = some (.amoC h inc p a n op val cmp t0) →
      exec (.hostCompletionTimeout req) s = .next (u.modHart h (fun x => (x.addFail failTimeout (0x2000 + p) false).remoteDone 0 none (some 7))) ∧
      exec (.hostErrorCompletion req .unsupported) s
        = .next (u.modHart h (fun x => (x.addFail failRefused (0x2000 + p) false).remoteDone 0 none (some 7))) ∧
      exec (.hostErrorCompletion req .abort) s
        = .next (u.modHart h (fun x => (x.addFail failRefused (0x2000 + p) false).remoteDone 0 none (some 7))) ∧
      exec (.hostErrorCompletion req .poison) s
        = .next (u.modHart h (fun x => (x.addFail failPoison (0x2000 + p) false).remoteDone 0 none (some 29)))) ∧
    (∀ x : Transfer, s.hostReq req = some (.copy h p) → u.transfer h = some x →
      exec (.hostCompletionTimeout req) s = .next ((u.endTransfer h xsTimeout).modHart x.hart (·.addFail failTimeout (0x2000 + p) false)) ∧
      exec (.hostErrorCompletion req .abort) s = .next ((u.endTransfer h xsHostErr).modHart x.hart (·.addFail failRefused (0x2000 + p) false)) ∧
      exec (.hostErrorCompletion req .poison) s = .next ((u.endTransfer h xsPoison).modHart x.hart (·.addFail failPoison (0x2000 + p) false))) ∧
    (s.hostReq req = some (.zlr h p n) →
      exec (.hostCompletionTimeout req) s = .next (u.modHart h (·.addFail failTimeout (0x2000 + p) false))) ∧
    (s.hostReq req = some (.args a p) → exec (.hostCompletionTimeout req) s = .next (u.rejectLaunch a 6))) ∧
  (∀ (edge : Nat) (s : State),
    (4 ≤ edge ∨ s.linkDown edge = true → exec (.dieLinkIdleTimeout edge) s = .next s ∧ ∀ good, exec (.dieLinkReplay edge good) s = .next s) ∧
    (edge < 4 → s.linkDown edge = false → exec (.dieLinkIdleTimeout edge) s = .next (s.dieLinkDown edge 1) ∧
      exec (.dieLinkReplay edge true) s = .next { s with dieLinks := Store.put s.dieLinks edge { fails := 0 } } ∧
      (15 ≤ (Store.get {} s.dieLinks edge).fails → exec (.dieLinkReplay edge false) s = .next (s.dieLinkDown edge 0)) ∧
      ((Store.get {} s.dieLinks edge).fails < 15 → exec (.dieLinkReplay edge false) s
        = .next { s with dieLinks := Store.put s.dieLinks edge { fails := (Store.get {} s.dieLinks edge).fails + 1 } })))

/-- Dead agents, errors, power (R23, R24, R230, R251 to R255). An agent whose reply is awaited and that has not died twice is reported
at its time-out. A reported agent is declared dead: its incarnation rises, the declaration is recorded, and what the agent held ends;
a hart's task ends as faulted with cause 29; a home that receives the declaration drops and poisons the lines that the dead
incarnation owns. A patrol poisons uncorrectable lines and counts the corrected ones. The duty step rises above 2,800 W on average,
falls below 2,660 W, and is 12 while a sensor is at 100 °C (the average of fewer than 1,000 samples is the model's choice, log 105);
at 110 °C the core clock halts. -/
def Obligations.AgentsAndPower : Prop :=
  (∀ (agent : Nat) (s : State),
    (s.isAgent agent = true → s.deathsOf agent < 2 → s.awaitedAgent agent = true →
      exec (.replyTimeout agent) s = .next (s.modRtu (fun r => { r with reported := insertNat r.reported agent }))) ∧
    (s.isAgent agent = false ∨ 2 ≤ s.deathsOf agent ∨ s.awaitedAgent agent = false → exec (.replyTimeout agent) s = .next s) ∧
    (s.rtu.reported.contains agent = false → exec (.deadAgentDeclaration agent) s = .next s) ∧
    (∀ u w : State, s.rtu.reported.contains agent = true → agent < 0x1000 →
      u = (s.modRtu (fun r => { r with reported := r.reported.filter (· != agent) })).modHart agent
        (fun h => { h with inc := (h.inc + 1) % 65536, deaths := h.deaths + 1 }) →
      w = (u.audit 0x0030 0xF000 0 (payload3 agent (u.hart agent).inc 0)).hartDead agent →
      exec (.deadAgentDeclaration agent) s
        = .next (if 2 ≤ (w.hart agent).deaths then w.modQuad (quadOf agent) (fun q => { q with outOfService := true }) else w)) ∧
    (∀ u : State, s.rtu.reported.contains agent = true → agent = 0x3000 ∨ agent = 0x3001 →
      u = (s.modRtu (fun r => { r with reported := r.reported.filter (· != agent) })).modPort (agent - 0x3000)
        (fun p => { p with inc := (p.inc + 1) % 65536, deaths := p.deaths + 1 }) →
      exec (.deadAgentDeclaration agent) s = .next ((u.audit 0x0030 0xF000 0 (payload3 agent (u.port (agent - 0x3000)).inc 0)).proxyDead
        (agent - 0x3000))) ∧
    (∀ home : Nat, (s.home home).lines.filter (fun l => l.2.owner.any (fun o => o.1 == agent && o.2 != s.incOf agent)) = [] →
      exec (.declarationReceive home agent) s = .next (s.wakeHeld home)) ∧
    (∀ u w : State, s.rtu.reported.contains agent = true → 0x1000 ≤ agent → agent < 0x2000 →
      u = (s.modRtu (fun r => { r with reported := r.reported.filter (· != agent) })).modQuad (agent - 0x1000)
        (fun q => { q with copyInc := (q.copyInc + 1) % 65536, copyDeaths := q.copyDeaths + 1 }) →
      w = u.audit 0x0030 0xF000 0 (payload3 agent (u.quad (agent - 0x1000)).copyInc 0) →
      ∀ v : State, v = ((w.quad (agent - 0x1000)).transfers.filter (fun t => !t.kind.stream)).foldl (fun s t => s.endDead t.id) w →
      exec (.deadAgentDeclaration agent) s
        = .next (if 2 ≤ (v.quad (agent - 0x1000)).copyDeaths then v.modQuad (agent - 0x1000) (fun q => { q with outOfService := true }) else v)) ∧
    (∀ (k : Nat) (u w : State), s.rtu.reported.contains agent = true → k < 0x1000 → agent = 0x2000 + k →
      u = { s.modRtu (fun r => { r with reported := r.reported.filter (· != agent) }) with
        ladleInc := Store.put s.ladleInc k ((Store.get 0 s.ladleInc k + 1) % 65536),
        ladleDeaths := Store.put s.ladleDeaths k (Store.get 0 s.ladleDeaths k + 1) } →
      w = u.audit 0x0030 0xF000 0 (payload3 agent (Store.get 0 u.ladleInc k) 0) →
      exec (.deadAgentDeclaration agent) s = .next ((w.allTransfers.filter (fun t => t.kind.stream && t.ladles.contains k)).foldl (fun s t =>
        if t.phase = .queued then s.moveLadle t k else s.endDead t.id) w)) ∧
    (∀ home : Nat, exec (.declarationReceive home agent) s = .next ((((s.home home).lines.filter (fun l =>
      l.2.owner.any (fun o => o.1 == agent && o.2 != s.incOf agent))).foldl (fun s l => s.declareLine home l.1) s).wakeHeld home)) ∧
    (∀ (home : Nat) (l : Nat × HomeLine),
      (s.home home).lines.filter (fun l => l.2.owner.any (fun o => o.1 == agent && o.2 != s.incOf agent)) = [l] →
      exec (.declarationReceive home agent) s = .next ((s.declareLine home l.1).wakeHeld home))) ∧
  (∀ (s : State) (home n : Nat), (s.declareLine home n).poisoned (64 * n) = true ∧ ((s.declareLine home n).home home).owner n = none) ∧
  (∀ (stack n : Nat) (bad : List Nat) (s : State), stack < 8 → Config.patrolErrors s.free stack = (bad, n) → ∃ t : State,
    exec (.patrolPass stack) s = .next t ∧ t.free = s.free + 1 ∧ t.mem = s.mem ∧
    (∀ a ∈ bad, a < Config.hbmBytes → stackOf a = stack → t.poisoned a = true) ∧
    (Store.Rising s.corrected → Store.get 0 t.corrected (stack / 2) = Store.get 0 s.corrected (stack / 2) + n)) ∧
  (∀ (mw : Nat) (s : State), exec (.powerSample mw) s = .next { s with power := { s.power with samples := (mw :: s.power.samples).take 1000 } }) ∧
  (∀ s : State, (s.power.hot = true → exec .dutyStep s = .next s) ∧
    (s.power.hot = false →
      ∀ n total : Nat, n = s.power.samples.length → total = s.power.samples.sum →
      (2800000 * n < total → exec .dutyStep s = .next { s with power := s.power.toStep (min 12 (s.power.step + 1)) }) ∧
      (total < 2660000 * n → exec .dutyStep s = .next { s with power := s.power.toStep (s.power.step - 1) }) ∧
      (0 < n → 2660000 * n ≤ total → total ≤ 2800000 * n → exec .dutyStep s = .next s))) ∧
  (∀ (die sensor c : Nat) (s : State),
    (4 ≤ die ∨ 16 ≤ sensor → exec (.sensorSample die sensor c) s = .next s) ∧
    (die < 4 → sensor < 16 → ∃ t : State, exec (.sensorSample die sensor c) s = .next t ∧
      (t.power.hot = true ↔ ∃ x ∈ Store.set 0 s.power.sensors (16 * die + sensor) c, 100 ≤ x.2) ∧ (t.power.hot = true → t.power.step = 12) ∧
      (t.power.hot = false → t.power.step = s.power.step) ∧ t.harts = s.harts ∧ t.mem = s.mem ∧ (110 ≤ c → t.halted = true) ∧
      (c < 110 → t.halted = s.halted)))

/-! ## Transfers as they move -/

/-- The copy engine (R203 to R205, R403). A source whose turn it is moves one segment of its oldest active transfer, and the turn goes
on; a transfer that is paused, waits for the host, has been sent to the network, or whose tiles a request holds, does not move. A
request of the port queue is checked before it moves, and one whose remote elements do not lie in the context's vault blocks ends as
refused. A finished transfer completes: its flags join the hart's, and its token takes its status and clock, or its barrier is
counted; then it is done. The stream controllers (R420). A queued subscription starts when every controller it needs has room and no
earlier one that could start waits there. LDSUB acquires a slot and fills it with the next elements, then publishes it; LDDRN takes a
slot and writes its elements, then frees it. A fill after the end of the ring's stream ends as refused; a drain of an ended ring, or
with every element moved, ends with status 0, and a slot that is not available is waited for. -/
def Obligations.CopyEngine : Prop :=
  ((∀ (q : Nat) (s : State), s.nextSegment q = none → exec (.transferSegment q) s = .next s) ∧
    (∀ (q src : Nat) (t : Transfer) (s u : State) (m : Moving), s.nextSegment q = some (src, t) →
      u = (s.ensureTiles t).modQuad q (fun x => { x with rot := (src + 1) % 5 }) →
      (u.xferActive t = false → exec (.transferSegment q) s = .next u) ∧
      (u.xferActive t = true → m = Moving.step { s := u, t := t } →
        exec (.transferSegment q) s = .next (m.s.modTransfer t.id (fun _ => m.t)))) ∧
    (∀ (q src : Nat) (t : Transfer) (s : State), s.nextSegment q = some (src, t) → src < 5 ∧ s.xferActive t = true) ∧
    (∀ (t : Transfer) (s : State), t.phase ≠ .moving ∨ t.paused = true ∨ t.host = 1 ∨ t.sent = true ∨ t.checked = false ∨ t.kind.stream = true →
      s.xferActive t = false) ∧
    (∀ (q : Nat) (s : State),
      (firstSome (fun id => (s.transfer id).filter (fun t => !t.checked && t.phase == .moving)) ((s.quad q).portq.take 64) = none →
        exec (.portRequest q) s = .next s) ∧
      (∀ t : Transfer, firstSome (fun id => (s.transfer id).filter (fun t => !t.checked && t.phase == .moving)) ((s.quad q).portq.take 64) = some t →
        exec (.portRequest q) s = .next (s.modTransfer t.id (fun t => if s.portOk t then { t with checked := true }
          else { t with checked := true, phase := .finished, status := xsRefused })))) ∧
    (∀ (id : Nat) (s : State),
      (s.transfer id = none → exec (.transferComplete id) s = .next s) ∧
      (∀ t : Transfer, s.transfer id = some t →
        (t.phase ≠ .finished → exec (.transferComplete id) s = .next s) ∧
        (t.phase = .finished → t.kind ≠ .copyb → ∀ (o : Owner) (u : State), o = s.ownerOf t.hart t.slot t.ctx t.task →
          u = (((s.ownFlags o t.flags).cleanTiles t).ownToken o t.reg t.status t.clk).modQuad t.target
            (fun q => { q with portq := q.portq.filter (· != id) }) →
          exec (.transferComplete id) s
            = .next (t.members.foldl (fun s m => t.tiles.foldl (fun s r => s.settleTile m.2 r) s)
              (u.modTransfer id (fun t => { t with phase := .done, held := [], net := none, paused := false })))) ∧
        (t.phase = .finished → t.kind = .copyb → ∀ (o : Owner) (u : State), o = s.ownerOf t.hart t.slot t.ctx t.task →
          u = (((s.ownFlags o t.flags).cleanTiles t).addBarriers t).modQuad t.target (fun q => { q with portq := q.portq.filter (· != id) }) →
          exec (.transferComplete id) s
            = .next (t.members.foldl (fun s m => t.tiles.foldl (fun s r => s.settleTile m.2 r) s)
              (u.modTransfer id (fun t => { t with phase := .done, held := [], net := none, paused := false }))))))) ∧
  ((∀ (id : Nat) (t : Transfer) (s : State) (ahead : Bool), s.transfer id = some t → ahead = s.allTransfers.any (fun o =>
        decide (o.id < id) && o.phase == .queued && o.ladles.any t.ladles.contains && s.streamRoom o) →
      (t.phase = .queued → s.streamRoom t = true → ahead = false →
        exec (.streamTransferStart id) s = .next (s.modTransfer id (fun t => { t with phase := .moving }))) ∧
      (t.phase ≠ .queued ∨ s.streamRoom t = false ∨ ahead = true → exec (.streamTransferStart id) s = .next s)) ∧
    (∀ (id : Nat) (s : State), s.transfer id = none →
      exec (.streamTransferStart id) s = .next s ∧ exec (.streamSlotFill id) s = .next s ∧ exec (.streamSlotDrain id) s = .next s) ∧
    (∀ (id : Nat) (t : Transfer) (s : State), s.transfer id = some t →
      (t.kind ≠ .ldsub ∨ t.phase ≠ .moving → exec (.streamSlotFill id) s = .next s) ∧
      (t.kind = .ldsub → t.phase = .moving →
        (t.use = none → exec (.streamSlotFill id) s = .next (s.fillSlot t)) ∧
        (∀ u, t.use = some u → exec (.streamSlotFill id) s = .next (s.publishSlot t u))) ∧
      (t.kind ≠ .lddrn ∨ t.phase ≠ .moving → exec (.streamSlotDrain id) s = .next s) ∧
      (t.kind = .lddrn → t.phase = .moving →
        (t.use = none → exec (.streamSlotDrain id) s = .next (s.drainSlot t)) ∧
        (∀ u, t.use = some u → exec (.streamSlotDrain id) s = .next (s.freeSlot t u)))) ∧
    (∀ (t : Transfer) (s : State) (st : Nat), s.ringStatus t [t.ring.unit] = some st →
      s.fillSlot t = s.failStream t st ∧ s.drainSlot t = s.failStream t st) ∧
    (∀ (t : Transfer) (s : State), s.ringStatus t [t.ring.unit] = none →
      (t.pos < t.region.count → (s.ring t.ring.at_).eos = true → s.fillSlot t = s.endTransfer t.id 8) ∧
      (t.pos < t.region.count → (s.ring t.ring.at_).eos = false → s.ringAcquire t.ring.at_ t.clk = none → s.fillSlot t = s) ∧
      (t.region.count ≤ t.pos → t.desc.getLsbD 8 = false → s.fillSlot t = s.endTransfer t.id 0) ∧
      (t.region.count ≤ t.pos → s.drainSlot t = s.endTransfer t.id 0) ∧
      (t.pos < t.region.count → t.pos = 0 → s.heldBack t = true → s.drainSlot t = s) ∧
      (t.pos < t.region.count → (t.pos = 0 → s.heldBack t = false) →
        (s.ringTake t.ring.at_ t.clk = none → s.drainSlot t = if (s.ring t.ring.at_).ended then s.endTransfer t.id 0 else s) ∧
        (∀ (st i pub tm : Nat) (u : State), s.ringTake t.ring.at_ t.clk = some (i, pub, tm, u) →
          s.ringStatus t (slotUnits t.ring.at_ ((s.ring t.ring.at_).take % t.ring.at_.count)) = some st → s.drainSlot t = s.failStream t st))))

/-- Puts and gets between devices (R36 to R45). A put that arrives inside its window is stored, then the counter is raised, and it is
acknowledged; one outside it, or to a place that the die of the port does not reach, is refused; a get's request answers the window's
bytes, or is refused. A put that was refused ends its transfer as refused, with the bit in the hart's fence status; one that was
acknowledged adds to the local counter and completes (a counter that cannot be reached takes no add and fails neither: the model's
choice, log 106). A port that goes down puts its queues into ERROR and ends what is on it; a port that comes up is recorded. -/
def Obligations.Network : Prop :=
  (∀ (port sq off : Nat) (data : List Byte) (s : State),
    (s.netDown.contains port = true ∨ 12 ≤ port → exec (.putArrive port sq off data) s = .next s) ∧
    (s.netDown.contains port = false → port < 12 →
      ∀ v : State, v = s.netTouch port sq .store off data.length →
      (v.netPlaces port (s.netWindow port sq) .store off data.length = none → exec (.putArrive port sq off data) s = .next (v.toHost .netRefuse)) ∧
      ((s.netWindow port sq).len < off + data.length → v.netPlaces port (s.netWindow port sq) .store off data.length = none) ∧
      (∀ (ps : List (Nat × Place)) (rest : List Byte) (clk c : Nat) (u w : State),
        v.netPlaces port (s.netWindow port sq) .store off data.length = some ps →
        ps.foldl (fun (a : List Byte × Nat × State) p =>
          let r := a.2.2.writeRun 4096 (s.netWindow port sq).asid 0 (p.2, byteMask (p.2.addr % 64) p.1,
            BitVec.ofNat 512 (ofBytes (a.1.take p.1) * 2 ^ (8 * (p.2.addr % 64))))
          (a.1.drop p.1, max a.2.1 r.1, r.2)) (data, 0, v) = (rest, clk, u) →
        u.counterAdd (netDie port) (s.netWindow port sq).asid (s.netWindow port sq).counter data.length (clk + 1) = (c, w) →
        exec (.putArrive port sq off data) s = .next (w.toHost .netAck)))) ∧
  (∀ (port sq off len : Nat) (s : State),
    (s.netDown.contains port = true ∨ 12 ≤ port → exec (.getRequest port sq off len) s = .next s) ∧
    (s.netDown.contains port = false → port < 12 →
      ∀ v : State, v = s.netTouch port sq .load off len →
      (v.netPlaces port (s.netWindow port sq) .load off len = none → exec (.getRequest port sq off len) s = .next (v.toHost .netRefuse)) ∧
      (v.netPlaces port (s.netWindow port sq) .load off len = some [] → exec (.getRequest port sq off len) s = .next (v.toHost (.netData []))) ∧
      (∀ (ps : List (Nat × Place)) (bs : List Byte) (bad : Bool) (u : State), v.netPlaces port (s.netWindow port sq) .load off len = some ps →
        ps.foldl (fun (a : List Byte × Bool × State) p =>
          let r := a.2.2.readPiece (s.netWindow port sq).asid 0 p.1 p.2
          (a.1 ++ bytesOf p.1 r.1, a.2.1 || r.2.2.1, r.2.2.2)) ([], false, v) = (bs, bad, u) →
        exec (.getRequest port sq off len) s = .next (if bad then u.toHost .netRefuse else u.toHost (.netData bs))))) ∧
  (∀ (s : State) (port : Nat) (w : NetWindow) (acc : Access) (off n : Nat) (ps : List (Nat × Place)), s.netPlaces port w acc off n = some ps →
    off + n ≤ w.len ∧ ∀ p ∈ ps, s.placeDead (netDie port) p.2 = false) ∧
  (∀ (id : Nat) (s : State), s.transfer id = none ∨ (∃ t, s.transfer id = some t ∧ (t.sent = false ∨ t.phase ≠ .moving)) → ∀ (r : Bool) (data : List Byte),
    exec (.putAck id r) s = .next s ∧ exec (.getData id r data) s = .next s ∧ exec (.retransmissionLimit id) s = .next s) ∧
  (∀ (id : Nat) (t : Transfer) (s : State), s.transfer id = some t → t.sent = true → t.phase = .moving →
    (t.kind ≠ .getr → exec (.putAck id true) s = .next ((s.failNet t xsRefused failRefused t.netTarget).completeTransfer id) ∧
      ∀ m : Moving, m = (Moving.countLocal { s := s, t := t } t.n).finish xsOk →
        exec (.putAck id false) s = .next ((m.s.modTransfer id (fun _ => m.t)).completeTransfer id)) ∧
    (∀ data : List Byte, t.kind = .getr →
      exec (.getData id true data) s = .next ((s.failNet t xsRefused failRefused t.netTarget).completeTransfer id) ∧
      ∀ m : Moving, m = Moving.place (t.region.count + 1) { s := s.ensureTiles t, t := { t with sent := false, net := some data } } →
        exec (.getData id false data) s = .next ((m.s.modTransfer id (fun _ => m.t)).completeTransfer id)) ∧
    (t.onNet = true → exec (.retransmissionLimit id) s = .next (s.failNet t xsTimeout failTimeout t.netTarget))) ∧
  (∀ (s : State) (t : Transfer) (status bit target : Nat), s.failNet t status bit target
    = (s.endTransfer t.id status).modHart t.hart (·.addFail bit target false)) ∧
  (∀ (port : Nat) (s : State),
    (12 ≤ port ∨ s.netDown.contains port = true → exec (.netPortDown port) s = .next s) ∧
    (∀ u : State, port < 12 → s.netDown.contains port = false → u = ({ s with netDown := insertNat s.netDown port } : State).queuesToError port →
      exec (.netPortDown port) s = .next (((u.allTransfers.filter (fun t => t.onNet && descPort t.desc == port && t.phase == .moving)).foldl
        (fun s t => s.failNet t xsDeadlink failDeadlink (0x3000 + port)) u).audit 0x0023 0xF000 0 (payload3 port 0 0))) ∧
    (s.netDown.contains port = true → exec (.netPortUp port) s
      = .next (({ s with netDown := s.netDown.filter (· != port) } : State).audit 0x0023 0xF000 0 (payload3 port 1 0))) ∧
    (s.netDown.contains port = false → exec (.netPortUp port) s = .next s))

/-! ## The dispatcher -/

/-- The ready order and pairing (R121, R122, R124, R139, R140, R147, R151). Of the ready tasks the one of the lowest class goes first,
then of the earliest deadline, then of the lowest number, tenants below their reserve before the others. While the dispatcher is
stopped nothing is paired. The arbiter moves a task to a die none of whose ready tasks has a free hart; the least urgent victim is
stopped for a starved task, and its hart kept for it. A decrement lowers the count of the task that its target is: with the last one
it becomes ready, released no earlier than the decrement's time; one to an address that no longer translates is dropped and sets
SLOST. A withdrawal lowers the demand; with the last one a task that has not begun ends as cancelled. -/
def Obligations.ReadyOrder : Prop :=
  (∀ a b : Nat × Task, taskBefore a b = true ↔ a.2.cls < b.2.cls ∨ a.2.cls = b.2.cls ∧
    (a.2.deadline < b.2.deadline ∨ a.2.deadline = b.2.deadline ∧ a.1 < b.1)) ∧
  (∀ (l : List (Nat × Task)) (x : Nat × Task), firstTask taskBefore l = some x → x ∈ l ∧ ∀ y ∈ l, taskBefore y x = false) ∧
  (∀ (s : State) (l : List (Nat × Task)), l ≠ [] → ∃ x, s.nextTask l = some x ∧ x ∈ l ∧
    ((∃ y ∈ l, s.belowReserve y.2.asid = true) → s.belowReserve x.2.asid = true)) ∧
  (∀ (die : Nat) (s : State),
    (s.dispatching = false → exec (.dispatchPairing die) s = .next s ∧ exec (.packageArbiterMove die) s = .next s ∧
      exec (.reservePreemption die) s = .next s) ∧
    (s.dispatching = true →
      exec (.dispatchPairing die) s = .next ((s.dropPreempts.wakeReclaimed die).pairAll die 1024) ∧
      (s.arbiterPick die = none → exec (.packageArbiterMove die) s = .next s) ∧
      (∀ k, die < 4 → s.arbiterPick die = some k → exec (.packageArbiterMove die) s = .next (s.modTask k (fun t => { t with die := die }))) ∧
      (s.starved die = [] → exec (.reservePreemption die) s = .next s) ∧
      (∀ k t v vt, firstTask taskBefore (s.starved die) = some (k, t) →
        firstTask (fun a b => taskBefore b a) (s.disp.tasks.filter (s.victimOk t.asid t)) = some (v, vt) → exec (.reservePreemption die) s
          = .next ((s.stopTask v).modDisp (fun d => { d with preempt := Store.put d.preempt vt.hartNo k })))) ∧
    exec (.rebalanceEvaluation die) s = .next (s.disp.tenants.foldl (fun s u => s.rebalance u.1 die) s)) ∧
  (∀ (s : State) (die : Nat) (k : Nat) (t : Task), (k, t) ∈ s.readyOn die → t.die = die ∧ (t.state = 2 ∨ t.state = 5) ∧ t.ending = none) ∧
  (∀ (k : Nat) (s : State),
    (s.disp.decs[k]? = none → exec (.decrement k) s = .next s) ∧
    (∀ (d : Dec) (u : State), s.disp.decs[k]? = some d → u = s.modDisp (fun x => { x with decs := x.decs.eraseIdx k }) →
      (u.tcbPlace d.asid .store d.target = none →
        exec (.decrement k) s = .next ((u.modTask d.sub (fun t => { t with slost := true })).closeEnd d.sub)) ∧
      ((u.tcbPlace d.asid .store d.target).isSome = true →
        (∀ q t, u.heldTask d.asid d.target = some (q, t) → exec (.decrement k) s = .next ((u.decTask q d).closeEnd d.sub)) ∧
        (u.heldTask d.asid d.target = none → exec (.decrement k) s = .next ((u.decMemory d).closeEnd d.sub))))) ∧
  (∀ (s : State) (q : Nat) (t : Task) (d : Dec), s.task q = some t → t.ending = none →
    (t.count = 0 → (s.decTask q d).task q = some { t with xdec := true }) ∧
    (t.count = 1 → t.state = 1 → ∃ r, (s.decTask q d).task q = some r ∧ r.state = 2 ∧ r.count = 0 ∧ r.relTime = max t.relTime d.time) ∧
    (1 < t.count → t.tcb.nonstrict = false → ∃ r, (s.decTask q d).task q = some r ∧ r.state = t.state ∧ r.count = t.count - 1 ∧
      r.relTime = max t.relTime d.time)) ∧
  (∀ (k : Nat) (s : State),
    (s.disp.wds[k]? = none → exec (.withdraw k) s = .next s) ∧
    (∀ (w : Wd) (u : State), s.disp.wds[k]? = some w → u = s.modDisp (fun d => { d with wds := d.wds.eraseIdx k }) →
      exec (.withdraw k) s = .next (u.applyWithdrawal w) ∧
      (u.heldTask w.asid w.target = none → exec (.withdraw k) s = .next u) ∧
      (∀ q t, u.heldTask w.asid w.target = some (q, t) → t.ending = none →
        (1 < t.demand → exec (.withdraw k) s = .next (u.setTask q { t with demand := t.demand - 1 })) ∧
        (t.demand = 1 → t.state = 1 → ∀ v, v = u.setTask q { t with demand := 0 } → exec (.withdraw k) s
          = .next ((v.withdrawFrom { t with demand := 0 } (List.range t.tcb.prodCount)).endTask q 10 0 0xFFF false)))))

/-- A hart at the start of a task (R120, R127, R312). A hart to which a task is on its way, with no eager line of its image poisoned,
begins in U-mode at the task's entry, or at its absorb entry when it starts early: sp is the top of its stack, a0 the argument, x31 a
free value, every other general register 0, no token; its rounding state, flags and fence status are reset, its budget is the task's,
and its clock is at or past the task's release. The task then runs. A suspended task's harts resume, and a gang's members start in one
step. -/
def Obligations.TaskStarts : Prop :=
  (∀ (h : Nat) (s : State), (s.dispatched h false = none → exec (.taskStart h) s = .next s) ∧
    (s.dispatched h true = none → exec (.resume h) s = .next s) ∧
    (∀ k, s.dispatched h false = some k → exec (.taskStart h) s = .next ((s.beginHart k h).nowRunning k)) ∧
    (∀ k, s.dispatched h true = some k → exec (.resume h) s = .next ((s.beginHart k h).nowRunning k)) ∧
    (∀ k saved, s.dispatched h saved = some k → (s.hart h).status = .dispatched ∧ (s.hart h).task = some k ∧
      ∃ t, s.task k = some t ∧ t.state = 3 ∧ t.saved = saved)) ∧
  (∀ (k h c : Nat) (t : Task) (s : State), s.task k = some t → (s.hart h).ctx = some c →
    t.members.any (fun m => m.hart == h && m.saved) = false → s.eagerPoisoned c (s.hart h).slot = false →
    ∀ x : Hart, x = (s.beginHart k h).hart h →
      x.status = .running ∧ x.mode = .u ∧ x.pc = BitVec.ofNat 64 (if t.early then t.tcb.absorb else t.tcb.entry) ∧
      x.rx 2 = BitVec.ofNat 64 (0x7F00005C0000 + ((s.hart h).slot + 1) * 0x10000) ∧ x.rx 10 = BitVec.ofNat 64 t.tcb.arg ∧
      (∀ r : Reg, r ≠ 2 → r ≠ 10 → r ≠ 31 → x.rx r = 0) ∧ x.tokens = [] ∧ x.fstat = 0 ∧ x.dev.rmode = 0 ∧ x.dev.rflags = 0 ∧
      x.dev.srseed = 0 ∧ x.dev.vactm = 0 ∧ x.dev.remain = BitVec.ofNat 32 t.tcb.budget ∧ t.relTime ≤ x.pts ∧ (s.hart h).pts ≤ x.pts ∧
      x.lane.active = false ∧ x.ld = none ∧ x.resv = none) ∧
  (∀ (k : Nat) (t : Task) (s : State), s.task k = some t →
    (t.tcb.gang = false ∨ t.state ≠ 3 ∨ s.dispatching = false ∨ t.members.all (fun m => (s.hart m.hart).status == .taken) = false →
      exec (.gangStart k) s = .next s) ∧
    (t.tcb.gang = true → t.state = 3 → s.dispatching = true → t.members.all (fun m => (s.hart m.hart).status == .taken) = true →
      exec (.gangStart k) s = .next ((t.members.foldl (fun s m => s.beginHart k m.hart) s).nowRunning k))) ∧
  (∀ (k : Nat) (t : Task) (s : State), s.task k = some t → t.wdHeld = none → ∃ r, (s.nowRunning k).task k = some r ∧ r.state = 4 ∧
    r.gangTaken = none ∧ (s.nowRunning k).harts = s.harts)

/-- What comes to a hart at an instruction boundary (R128, R129, R138, R162, R165, R355). A stop comes first, then the interrupt that
is pending and enabled, then the budget trap, cause 27, once when REMAIN is 0. A parked hart goes on when its ring has been published
to or ended, and is reclaimed after 8192 cycles when its stage holds more harts than its minimum. A message of the device reaches the
mailbox of its slot, on the hart or in the image, after the earlier ones to it; with 15 there it is lost. -/
def Obligations.Boundaries : Prop :=
  (∀ (h : Nat) (s : State),
    ((s.hart h).interruptible = false ∨ (s.hart h).stopDue = true ∨ (s.hart h).interrupt = none → exec (.interruptTaken h) s = .next s) ∧
    (∀ n, (s.hart h).interruptible = true → (s.hart h).stopDue = false → (s.hart h).interrupt = some n →
      exec (.interruptTaken h) s
        = .next ((s.cancelWait h).modHart h (fun x => { x.takeTrap s.cycle true n 0 x.pc with status := .running }))) ∧
    ((s.hart h).budgetDue = true → (s.hart h).status = .running → (s.hart h).interruptible = true → (s.hart h).stopDue = false →
      (s.hart h).interrupt = none → exec (.budgetExhausted h) s = .next ((s.cancelWait h).modHart h (fun x =>
        ({ x with dev := { x.dev with zero := true } } : Hart).takeTrap s.cycle false 27 0 x.pc))) ∧
    ((s.hart h).budgetDue = false ∨ (s.hart h).stopDue = true ∨ (s.hart h).status ≠ .running ∨ (s.hart h).interruptible = false ∨
      (s.hart h).interrupt.isSome = true → exec (.budgetExhausted h) s = .next s)) ∧
  (∀ h : Hart, (h.budgetDue = true ↔ h.mode = .u ∧ h.task.isSome = true ∧ h.dev.remain = 0 ∧ h.dev.zero = false) ∧
    (∀ n, h.interrupt = some n → h.pending.getLsbD n = true ∧ h.priv.mie.getLsbD n = true)) ∧
  (∀ (s : State) (h : Nat), (s.hart h).ld = none → s.cancelWait h = s) ∧
  (∀ (h : Nat) (s : State),
    ((s.hart h).status ≠ .parked → exec (.parkWake h) s = .next s ∧ exec (.parkReclaim h) s = .next s) ∧
    (∀ k t, (s.hart h).status = .parked → (s.hart h).task = some k → s.task k = some t →
      (s.ringReady t = false → exec (.parkWake h) s = .next s) ∧
      (s.ringReady t = true → exec (.parkWake h) s
        = .next (s.modHart h (fun x => { x.retire with status := .running, parkedCycles := 0 }))) ∧
      ((s.hart h).parkedCycles < 8192 → exec (.parkReclaim h) s = .next s) ∧
      (∀ (a g : Nat) (u : State), Store.find? s.disp.assigned h = some (a, g) → 8192 ≤ (s.hart h).parkedCycles → (s.hart h).stopReq = false →
        (s.tenant a).any (fun u => (Store.find? u.stages g).any (fun x => decide (x.min < s.stageHeld a g))) = true →
        u = (if (s.pendingMove h).isSome then s.moveStage h else s.unassign h) →
        exec (.parkReclaim h) s = .next ((u.modTask k (fun t => { t with parkWait := true })).stopTask k)))) ∧
  (∀ (k : Nat) (s : State),
    (s.disp.mails[k]? = none → exec (.messageDeliver k) s = .next s) ∧
    (∀ m, s.disp.mails[k]? = some m →
      ((s.disp.mails.take k).any (fun o => o.ctx == m.ctx && o.slot == m.slot) = true → exec (.messageDeliver k) s = .next s) ∧
      (∀ u : State, (s.disp.mails.take k).any (fun o => o.ctx == m.ctx && o.slot == m.slot) = false →
        u = s.modDisp (fun d => { d with mails := d.mails.eraseIdx k }) →
        (∀ h, u.mailHart m.ctx m.slot = some h → exec (.messageDeliver k) s = .next (u.modHart h (fun x =>
          if x.mail.length < 15 then { x with mail := x.mail ++ [m.mail] } else { x with mailLost := true }))) ∧
        (∀ (n : Nat) (v : State), u.mailHart m.ctx m.slot = none → n = u.imageNat m.ctx m.slot 0x500 8 →
          v = (u.imagePut m.ctx m.slot (0x520 + 32 * natBits n 0 4) 32 m.mail.number m.mail.time.toNat).2 →
          exec (.messageDeliver k) s = .next (if natBits n 0 4 < 15 then (v.imagePut m.ctx m.slot 0x500 8 (n + 1) m.mail.time.toNat).2
            else (u.imagePut m.ctx m.slot 0x500 8 (natSetBits n 8 1 1) m.mail.time.toNat).2)))))

/-! ## Stops, saves, contexts -/

/-- Contexts (R62 to R66, R175 to R178, R182). A hart that is asked to stop stops at an instruction boundary of U-mode, with its lane
between iterations: its image's eager part is written. With its stores settled its clock, its fence status and SAVED are written, its
hart is free and its task, with the last member, is suspended. The engine state of a context with no hart and no request is in its
image and its tiles are evictable. A fill takes a register from its image; an uncorrectable error there ends the context's tasks. A
release whose tasks, transfers and requests are gone scrubs the quads of the context; with the last quad it is recorded, the image's
frames are unpinned and its blocks free, and the context is gone; a zeroing write that fails on a quad is recorded and takes it out of
service. A page walk that completes is applied. -/
def Obligations.Contexts : Prop :=
  (∀ (h : Nat) (s : State),
    ((s.hart h).stopReady = false → exec (.stopRequest h) s = .next s) ∧
    ((s.hart h).stopReady = true → exec (.stopRequest h) s = .next (s.stopNow h)) ∧
    (∀ (k c : Nat) (t : Task) (u : State), (s.hart h).ld = none → (s.hart h).task = some k → (s.hart h).ctx = some c → s.task k = some t →
      u = s.saveEager (s.hart h) c (s.hart h).slot t.asid t.addr →
      s.stopNow h = (u.setTask k { t with members := t.members.map (fun m => if m.hart = h then
          { m with
            xlat := (u.savedPc t.asid (s.hart h).pc.toNat).2.2, traps := (s.hart h).startTraps,
            codeSlot := if windowOf (s.hart h).pc.toNat = .code then some (codeSlotOf (s.hart h).pc.toNat) else none } else m) }).modHart h
        (fun y => { y with status := .stopping, stopReq := false, resv := none, lane := {}, parkedCycles := 0 }))) ∧
  (∀ h : Hart, h.stopReady = true ↔ h.stopReq = true ∧ h.mode = .u ∧ h.status.executes = true ∧ h.atBoundary = true ∧
    (h.lane.active = false ∨ h.lane.idx = 0)) ∧
  (∀ (h : Nat) (s : State),
    ((s.hart h).status ≠ .stopping ∨ (s.hart h).settled = false → exec (.saveComplete h) s = .next s) ∧
    ((s.hart h).status = .stopping → (s.hart h).settled = true → (s.hart h).task = none →
      exec (.saveComplete h) s = .next (s.releaseHart h (s.asidOf h) true)) ∧
    (∀ (k c m : Nat) (u v w : State), (s.hart h).status = .stopping → (s.hart h).settled = true → (s.hart h).task = some k →
      (s.task k).isSome = true → (s.hart h).ctx = some c → m = max (s.hart h).pts (s.hart h).ackTime →
      u = (s.imagePut c (s.hart h).slot 0x128 8 m m).2 → v = (u.imagePut c (s.hart h).slot 0x178 8 (s.hart h).fstat.toNat m).2 →
      v.eagerPoisoned c (s.hart h).slot = false → w = (v.imagePut c (s.hart h).slot 0x124 4 1 (m + 1)).2 →
      exec (.saveComplete h) s = .next ((w.freeHart h (s.asidOf h) false).memberSaved k h)) ∧
    (∀ (k c m : Nat) (u v w : State), (s.hart h).status = .stopping → (s.hart h).settled = true → (s.hart h).task = some k →
      (s.task k).isSome = true → (s.hart h).ctx = some c → m = max (s.hart h).pts (s.hart h).ackTime →
      u = (s.imagePut c (s.hart h).slot 0x128 8 m m).2 → v = (u.imagePut c (s.hart h).slot 0x178 8 (s.hart h).fstat.toNat m).2 →
      v.eagerPoisoned c (s.hart h).slot = true → w = (v.imagePut c (s.hart h).slot 0x124 4 1 (m + 1)).2 →
      exec (.saveComplete h) s = .next (((w.freeHart h (s.asidOf h) false).memberSaved k h).imagePoison c h [(s.hart h).slot]
        ((((w.freeHart h (s.asidOf h) false).memberSaved k h).imageOf c).getD 0 + (s.hart h).slot * 0x3000)))) ∧
  (∀ (c : Nat) (s : State),
    (s.matrixHolds c = true ∨ [0, 1, 2, 3].any (s.slotLive c) = true ∨ s.context c = none → exec (.contextDrain c) s = .next s) ∧
    (∀ u : State, s.matrixHolds c = false → [0, 1, 2, 3].any (s.slotLive c) = false → (s.context c).isSome = true → u = s.saveEngine c →
      exec (.contextDrain c) s = .next (u.setTiles c { u.tiles c with evictable := true }))) ∧
  (∀ (c slot reg : Nat) (s : State),
    (s.fills.contains (c, (slot, reg)) = false → exec (.imageLineFill c slot reg) s = .next s) ∧
    (∀ (a : Nat) (u v : State), s.fills.contains (c, (slot, reg)) = true → s.imageOf c = some a →
      u = { s with fills := s.fills.filter (· != (c, (slot, reg))) } → slot ≠ 4 →
      u.rangePoisoned (a + slot * 0x3000 + (codePlace reg).1) (codePlace reg).2 = false → v = u.evictRivals c slot reg →
      exec (.imageLineFill c slot reg) s = .next { v with
        slotRegs := Store.put v.slotRegs (2 * (c * 4 + slot)) ((Store.get ({} : SlotRegs) v.slotRegs (2 * (c * 4 + slot))).fill reg
          (v.imageRead c slot (codePlace reg).1 (codePlace reg).2)) }) ∧
    (∀ (a : Nat) (u : State), s.fills.contains (c, (slot, reg)) = true → s.imageOf c = some a →
      u = { s with fills := s.fills.filter (· != (c, (slot, reg))) } →
      (slot ≠ 4 → u.rangePoisoned (a + slot * 0x3000 + (codePlace reg).1) (codePlace reg).2 = true → exec (.imageLineFill c slot reg) s
        = .next (u.imagePoison c ((u.slotHart c slot).getD 0xFFF) [slot] (a + slot * 0x3000 + (codePlace reg).1))) ∧
      (slot = 4 → u.rangePoisoned (a + tileOffset reg) (tileBytes reg) = false → exec (.imageLineFill c slot reg) s = .next u) ∧
      (slot = 4 → u.rangePoisoned (a + tileOffset reg) (tileBytes reg) = true → exec (.imageLineFill c slot reg) s
        = .next (u.imagePoison c (((s.harts.find? (fun x => x.2.ctx == some c)).map (·.1)).getD 0xFFF) [0, 1, 2, 3] (a + tileOffset reg))))) ∧
  (∀ (w : Nat) (s : State),
    (s.walks.find? (fun x => x.id == w) = none → exec (.pageWalkComplete w) s = .next s) ∧
    (∀ x, s.walks.find? (fun x => x.id == w) = some x →
      (s.walkRuns x = true → exec (.pageWalkComplete w) s = .next (s.walkDone x)) ∧
      (s.walkRuns x = false → exec (.pageWalkComplete w) s = .next s))) ∧
  (∀ (c : Nat) (s : State),
    (s.context c = none → exec (.scrubStart c) s = .next s ∧ ∀ q, exec (.scrubQuadComplete c q) s = .next s) ∧
    (∀ (x : Context), s.context c = some x →
      (x.release = none → exec (.scrubStart c) s = .next s ∧ ∀ q, exec (.scrubQuadComplete c q) s = .next s) ∧
      (∀ r, x.release = some r →
        (r.started = true ∨ s.scrubReady c = false → exec (.scrubStart c) s = .next s) ∧
        (∀ (qs bl : List Nat) (u v : State), r.started = false → s.scrubReady c = true →
          qs = (if r.last then (List.range 640).filter s.quadPresent else [x.quad]) →
          u = s.modContext c (fun x => { x with release := some { r with started := true, startNs := s.ns, quads := qs, pendingQuads := qs } }) →
          bl = u.scrubBlocks c x →
          v = u.modQuad x.quad (fun q => { q with blocks := q.blocks.map (fun b =>
            if bl.contains b.1 then (b.1, { b.2 with asid := scrubAsid x.asid }) else b) }) →
          exec (.scrubStart c) s = .next (qs.foldl (fun s q => s.scrubCheck x.asid q) v)) ∧
        (∀ (q : Nat) (a u v : State), r.started = true → r.pendingQuads.contains q = true →
          (q = x.quad → ((List.range 4).map (hartOf q)).any (fun h => (s.hart h).l1.any (fun l => l.2.asid == x.asid && l.2.st == .pending)) = false) →
          a = (if q = x.quad then (s.scrubHarts c x).scrubVault x else s) → u = (if r.last then a.scrubSlices x.asid q else a) →
          (r.pendingQuads.filter (· != q) ≠ [] → exec (.scrubQuadComplete c q) s
            = .next (u.modContext c (fun x => { x with release := some { r with pendingQuads := r.pendingQuads.filter (· != q) } }))) ∧
          (r.pendingQuads.filter (· != q) = [] →
            v = ((u.audit 0x0042 0xF000 x.asid (payload3 x.asid r.quads.length (u.ns - r.startNs))).unpinImage c x).freeScrubbed x →
            exec (.scrubQuadComplete c q) s = .next (v.modDisp (fun d => { d with contexts := Store.del d.contexts c })))) ∧
        (∀ q, r.started = false ∨ r.pendingQuads.contains q = false ∨
          (q = x.quad ∧ ((List.range 4).map (hartOf q)).any (fun h => (s.hart h).l1.any (fun l => l.2.asid == x.asid && l.2.st == .pending)) = true) →
          exec (.scrubQuadComplete c q) s = .next s)))) ∧
  (∀ (s : State) (asid q : Nat),
    (Config.scrubFails s.free q = none → s.scrubCheck asid q = { s with free := s.free + 1 }) ∧
    (∀ bank, Config.scrubFails s.free q = some bank → s.scrubCheck asid q
      = ((({ s with free := s.free + 1 } : State).audit 0x0043 0xF000 asid (payload3 asid q bank)).modDisp
        (fun d => { d with burnt := insertNat d.burnt asid })).modQuad q (fun q => { q with outOfService := true }))) ∧
  (∀ h : Hart, h.stopDue = true ↔ h.stopReq = true ∧ h.mode = .u ∧ h.status.executes = true ∧ h.atBoundary = true)

/-! ## The machine as a whole -/

/-- The module right after cold reset: memory is in canonical form with nothing listed, the compute dies are held in reset and the
core clock runs; MEAS0 to MEAS7 are zero, the audit log and the code heap are empty, the event sequence counter and the submission
counter are 1; every hart has pts 0, incarnation 0, the drift interval 1,024 and scounteren 7, and it holds no token, no reservation
and no posted store; every slice has mts 0, every vault vclk 0 and every die the time base 0. -/
def Obligations.ResetState : Prop :=
  Safety.MemOk State.reset ∧ State.reset.mem = [] ∧ State.reset.rtu.boot = .inReset ∧ State.reset.halted = false ∧
  State.reset.cycle = 0 ∧ State.reset.rtu.meas = [] ∧ State.reset.rtu.entries = [] ∧ State.reset.rtu.seq = 0 ∧
  State.reset.heap = [] ∧ State.reset.disp.eventSeq = 1 ∧ State.reset.disp.nextSub = 1 ∧
  (∀ h : Nat, (State.reset.hart h).pts = 0 ∧ (State.reset.hart h).inc = 0 ∧ (State.reset.hart h).dev.drift = 1024 ∧
    (State.reset.hart h).priv.scounteren = 7 ∧ (State.reset.hart h).tokens = [] ∧ (State.reset.hart h).resv = none ∧
    (State.reset.hart h).unacked = 0 ∧ (State.reset.hart h).status = .reset) ∧
  (∀ n : Nat, (State.reset.home n).mts = 0) ∧ (∀ q : Nat, (State.reset.quad q).vclk = 0) ∧
  ∀ d : Nat, (State.reset.die d).base = 0

/-- Words written out from the encodings that the chapters print decode to the instructions they stand for. -/
def Obligations.SampleWords : Prop :=
  decodeTableWord 32 0x010002B7 = some (.integerAlu (.lui 5 0x1000)) ∧
  decodeTableWord 32 0x00C29293 = some (.integerAlu (.sh .slli 5 5 12)) ∧
  decodeTableWord 32 0x0010000B = some (.tretireA 0) ∧
  decodeTableWord 32 0x0135C00B = some (.repb 11 3 2) ∧
  decodeTableWord 32 0x0A40350B = some (.fencesRelease 10 .package) ∧
  decodeTableWord 64 0x009020010005303F = some (.bbindI 0 10 0x9020) ∧
  decodeTableWord 64 0x000007031AC5B53F = some (.msendI 10 11 12 13 7) ∧
  decodeTableWord 32 0x083100AB = some (.rguni 1 2 3) ∧
  decodeTableWord 64 0x000041180001253F = some (.rggetI 10 2 65) ∧
  decodeTableWord 32 0x084096FB = some (.copyClip 13 1 4) ∧
  decodeTableWord 64 0x0000C0050A01103F = some (.copybW64 false 0 2 0 5 0x0000C0) ∧
  decodeTableWord 32 0x1220E1DB = some (.vadd .f32 3 1 2) ∧
  decodeTableWord 64 0xC0000018043140BF = some (.vcmp .f32 false 1 2 3 2) ∧
  decodeTableWord 64 0x01FC7F023E40003F = some (.mma false 0 0 4 31 127 127) ∧
  decodeTableWord 64 0x0000000A400001BF = some (.mrel true 3)

/-- Lengths. An encoding with bits 1:0 other than 11 is no instruction; one with bits 6:0 = 0111111 is a 64-bit instruction, and needs
eight bytes; one with bits 4:0 = 11111 and other bits 6:5 is no instruction; every other is a 32-bit instruction. What decodes is
well-formed and as long as that. -/
def Obligations.EncodingLengths : Prop :=
  ∀ (avail : Nat) (e : Word),
    (4 ≤ avail → fld e 0 2 ≠ 3 → decode avail e = .reject .length) ∧
    (4 ≤ avail → fld e 0 5 = 31 → fld e 5 2 ≠ 1 → decode avail e = .reject .length) ∧
    (4 ≤ avail → avail < 8 → fld e 0 7 = 0x3f → decode avail e = .reject .short) ∧
    (∀ (i : Instr) (n : Nat), decode avail e = .ok i n →
      WellFormed i ∧ n ≤ avail ∧ fld e 0 2 = 3 ∧ n = (if fld e 0 7 = 0x3f then 8 else 4))

/-- Encoding and decoding agree: decoding the encoding of a well-formed instruction gives it back, with every operand and the length,
and only events and supervisor calls have no encoding. -/
def Obligations.RoundTrip : Prop := ∀ i : Instr, Laws.RoundTrip.Statement i

/-- A step of the machine. When it is the turn of a hart, or of the management core, and no stop, interrupt, exhausted budget or
pending trap comes first, a core cycle passes, the hart fetches, and the step is the meaning of the instruction that the bytes decode
to, with the next pc behind it, unless the hart's lane issues to the same unit first, when the hart keeps its place; bytes that are no
instruction raise the illegal-instruction exception with the encoding in the trap value, a 64-bit instruction whose second word cannot
be fetched raises the instruction access fault, and a fetch that faults raises its exception. A stop that is due comes before all of
these, then an interrupt, then an exhausted budget, then a pending trap. When it is the turn of an event whose unit is clocked, the
step is the event's meaning. The agenda is the model's (log 1). -/
def Obligations.StepRuns : Prop :=
  (∀ (s u : State) (h : Nat) (rest : List Move), s.agenda = .run h :: rest → (s.hartPresent h = true ∨ h = mcHart) →
    u = { s with agenda := rest, cur := h } → (s.halted = false ∨ h = mcHart) → s.rtu.boot = .released → u.me.status = .running →
    u.me.stopDue = false → (u.me.interruptible && u.me.interrupt.isSome) = false →
    (u.me.interruptible && u.me.budgetDue) = false → (u.me.mode = .u → u.me.atBoundary = true → u.me.startTraps = []) →
    (∀ (bs : List Byte) (v : State), u.oneCycle.fetch = .ok bs v →
      (∀ (i : Instr) (len : Nat), decodeBytes bs = .ok i len →
        (v.laneFirst i = false → step s = exec i (v.ready len (encodingOf bs))) ∧ (v.laneFirst i = true → step s = .next v)) ∧
      (decodeBytes bs = .reject .short → step s = .next (v.trap 1 v.me.pc)) ∧
      (∀ w : Reject, w ≠ .short → decodeBytes bs = .reject w → step s = .next (v.trap 2 (encodingOf bs)))) ∧
    (∀ (c : Nat) (x : Word) (v : State), u.oneCycle.fetch = .trap c x v → step s = .next (v.trap c x)) ∧
    (∀ v : State, u.oneCycle.fetch = .stall v → step s = .next v)) ∧
  (∀ (s u : State) (h : Nat) (rest : List Move), s.agenda = .run h :: rest → (s.hartPresent h = true ∨ h = mcHart) →
    u = { s with agenda := rest, cur := h } → (s.halted = false ∨ h = mcHart) → s.rtu.boot = .released →
    (u.me.stopReady = true → step s = .next (u.stopNow h)) ∧
    (u.me.stopDue = false → u.me.interruptible = true →
      (∀ n : Nat, u.me.interrupt = some n →
        step s = .next ((u.cancelWait h).modHart h (fun x => { x.takeTrap s.cycle true n 0 x.pc with status := .running }))) ∧
      (u.me.interrupt = none → u.me.status = .running → u.me.budgetDue = true →
        step s = .next ((u.cancelWait h).modHart h (fun x =>
          { x with dev := { x.dev with zero := true } }.takeTrap s.cycle false 27 0 x.pc)))) ∧
    (∀ (e : Nat × Word) (more : List (Nat × Word)), u.me.stopDue = false → (u.me.interruptible && u.me.interrupt.isSome) = false →
      (u.me.interruptible && u.me.budgetDue) = false → u.me.status = .running → u.me.mode = .u → u.me.atBoundary = true →
      u.me.startTraps = e :: more → step s = .next ((u.modMe (fun x => { x with startTraps := more })).trap e.1 e.2))) ∧
  (∀ (s : State) (i : Instr) (rest : List Move), s.agenda = .event i :: rest → roles i = none → isCall i = false →
    (s.halted = false ∨ outsideCore i = true) → step s = exec i { s with agenda := rest })

/-- Nothing stops the machine but a halted core clock: every instruction and every event answers a next state in every state; every
step does while the core clock runs; while it is halted the turn of a hart is the fault of that name, and the turn of the management
core and every event of the I/O regions answer a next state. -/
def Obligations.NothingStops : Prop :=
  (∀ (i : Instr) (s : State), Safety.Runs (exec i s)) ∧
  (∀ s : State, s.halted = false → Safety.Runs (step s)) ∧
  (∀ (s : State) (h : Nat) (rest : List Move), s.halted = true → s.agenda = .run h :: rest → s.hartPresent h = true →
    h ≠ mcHart → step s = .fault .coreClockHalted) ∧
  (∀ (s : State) (m : Move) (rest : List Move), s.agenda = m :: rest → (∀ h : Nat, m = .run h → h = mcHart) → Safety.Runs (step s))
end

