-- ==== Sys2Proof/Laws/Bits.lean ====
section
/-! SUPPORT. Bit fields, byte strings, and lines, bit by bit and byte by byte. -/

namespace Sys2Proof

theorem natBits_testBit (v lo len i : Nat) : (natBits v lo len).testBit i = (decide (i < len) && v.testBit (lo + i)) := by
  simp [natBits, Nat.testBit_mod_two_pow, ← Nat.shiftRight_eq_div_pow, Nat.testBit_shiftRight]

theorem natBits_lt (v lo len : Nat) : natBits v lo len < 2 ^ len := Nat.mod_lt _ (Nat.two_pow_pos _)

theorem natSetBits_testBit (v lo len f i : Nat) :
    (natSetBits v lo len f).testBit i = if lo ≤ i ∧ i < lo + len then f.testBit (i - lo) else v.testBit i := by
  have h1 : natSetBits v lo len f = 2 ^ (lo + len) * (v / 2 ^ (lo + len)) + (2 ^ lo * (f % 2 ^ len) + v % 2 ^ lo) := by
    unfold natSetBits; ring
  have h2 : v % 2 ^ lo < 2 ^ lo := Nat.mod_lt _ (Nat.two_pow_pos _)
  have h3 : 2 ^ lo * (f % 2 ^ len) + v % 2 ^ lo < 2 ^ (lo + len) := by
    have h4 : f % 2 ^ len < 2 ^ len := Nat.mod_lt _ (Nat.two_pow_pos _)
    have h5 : 2 ^ lo * (f % 2 ^ len + 1) ≤ 2 ^ lo * 2 ^ len := Nat.mul_le_mul_left _ h4
    rw [pow_add]
    linarith [Nat.mul_add (2 ^ lo) (f % 2 ^ len) 1]
  rw [h1, Nat.testBit_two_pow_mul_add _ h3, Nat.testBit_two_pow_mul_add _ h2]
  by_cases ha : i < lo + len
  · rw [if_pos ha]
    by_cases hb : i < lo
    · rw [if_pos hb, if_neg (by omega), Nat.testBit_mod_two_pow]
      simp [hb]
    · rw [if_neg hb, if_pos (by omega), Nat.testBit_mod_two_pow]
      simp [show i - lo < len by omega]
  · rw [if_neg ha, if_neg (by omega), ← Nat.shiftRight_eq_div_pow, Nat.testBit_shiftRight]
    congr 1
    omega

/-- A CSR with a field replaced, bit by bit. -/
theorem Machine.setFld_getLsbD (w : Word) (lo len v i : Nat) :
    (Machine.setFld w lo len v).getLsbD i =
      (decide (i < 64) && if lo ≤ i ∧ i < lo + len then v.testBit (i - lo) else w.getLsbD i) := by
  simp only [Machine.setFld, BitVec.getLsbD_ofNat, natSetBits_testBit]
  rfl

@[simp] theorem bytesOf_length (n v : Nat) : (bytesOf n v).length = n := by
  induction n generalizing v with
  | zero => rfl
  | succ n ih => simp [bytesOf, ih]

theorem bytesOf_getD (n v i : Nat) (d : Byte) (h : i < n) : (bytesOf n v).getD i d = BitVec.ofNat 8 (v / 2 ^ (8 * i)) := by
  induction n generalizing v i with
  | zero => omega
  | succ n ih =>
    cases i with
    | zero => simp [bytesOf]
    | succ i =>
      rw [bytesOf, List.getD_cons_succ, ih _ _ (by omega), Nat.div_div_eq_div_mul]
      congr 2
      rw [show (256 : Nat) = 2 ^ 8 by norm_num, ← pow_add]
      congr 1
      ring

theorem ofBytes_lt (l : List Byte) : ofBytes l < 2 ^ (8 * l.length) := by
  induction l with
  | nil => simp [ofBytes]
  | cons b r ih =>
    have hb := b.isLt
    rw [ofBytes, List.length_cons, show 8 * (r.length + 1) = 8 * r.length + 8 by ring, pow_add]
    omega

/-- The bytes of the number that a byte string is. -/
theorem natBits_ofBytes (l : List Byte) (i : Nat) : natBits (ofBytes l) (8 * i) 8 = (l.getD i 0).toNat := by
  induction l generalizing i with
  | nil => simp [ofBytes, natBits]
  | cons b r ih =>
    have hb := b.isLt
    cases i with
    | zero => simp [ofBytes, natBits]; omega
    | succ i =>
      rw [List.getD_cons_succ, ← ih i, ofBytes]
      unfold natBits
      rw [show 8 * (i + 1) = 8 + 8 * i by ring, pow_add, ← Nat.div_div_eq_div_mul]
      congr 2
      omega

theorem ofBytes_bytesOf (n v : Nat) : ofBytes (bytesOf n v) = v % 2 ^ (8 * n) := by
  induction n generalizing v with
  | zero => simp [bytesOf, ofBytes, Nat.mod_one]
  | succ n ih =>
    rw [bytesOf, ofBytes, ih, show 8 * (n + 1) = 8 + 8 * n by ring, pow_add, Nat.mod_mul]
    simp

/-- The bits of a merged number: each byte from `new` under the mask, else from `old`. -/
theorem mergeBytes_bits (mask : BitVec 64) (old new : Nat) (n : Nat) :
    mergeBytes mask old new n < 2 ^ (8 * n) ∧
    ∀ k, k < n → natBits (mergeBytes mask old new n) (8 * k) 8 =
      if mask.getLsbD k then natBits new (8 * k) 8 else natBits old (8 * k) 8 := by
  induction n with
  | zero => exact ⟨by simp [mergeBytes], fun k hk => by omega⟩
  | succ n ih =>
    obtain ⟨h1, h2⟩ := ih
    have h3 : (if mask.getLsbD n then natBits new (8 * n) 8 else natBits old (8 * n) 8) < 2 ^ 8 := by
      split <;> exact natBits_lt _ _ _
    generalize hc : (if mask.getLsbD n then natBits new (8 * n) 8 else natBits old (8 * n) 8) = c at h3
    have he : mergeBytes mask old new (n + 1) = 2 ^ (8 * n) * c + mergeBytes mask old new n := by
      rw [mergeBytes, hc]; ring
    refine ⟨?_, fun k hk => ?_⟩
    · rw [he, show 8 * (n + 1) = 8 * n + 8 by ring, pow_add]
      have := Nat.mul_le_mul_left (2 ^ (8 * n)) (show c + 1 ≤ 2 ^ 8 by omega)
      linarith [Nat.mul_add (2 ^ (8 * n)) c 1]
    · apply Nat.eq_of_testBit_eq
      intro i
      rw [natBits_testBit, he, Nat.testBit_two_pow_mul_add _ h1]
      by_cases hk' : k < n
      · rw [← h2 k hk', natBits_testBit]
        by_cases hi : i < 8
        · rw [if_pos (by omega)]
        · simp [hi]
      · have : k = n := by omega
        subst this
        rw [hc, if_neg (by omega), show 8 * k + i - 8 * k = i by omega]
        by_cases hi : i < 8
        · simp [hi]
        · simp only [hi, decide_false, Bool.false_and]
          exact (Nat.testBit_lt_two_pow (lt_of_lt_of_le h3 (Nat.pow_le_pow_right (by omega) (by omega)))).symm

/-- The bytes of a merged line. -/
theorem lineMerge_byte (mask : BitVec 64) (old new : Line) (k : Nat) (h : k < 64) :
    lineGet (lineMerge mask old new) k 1 = if mask.getLsbD k then lineGet new k 1 else lineGet old k 1 := by
  have hm := mergeBytes_bits mask old.toNat new.toNat 64
  have ht : (lineMerge mask old new).toNat = mergeBytes mask old.toNat new.toNat 64 := by
    unfold lineMerge
    rw [BitVec.toNat_ofNat]
    exact Nat.mod_eq_of_lt hm.1
  simp only [lineGet, ht, Nat.mul_one]
  exact hm.2 k h

theorem byteMask_getLsbD (off n i : Nat) (h : off + n ≤ 64) :
    (byteMask off n).getLsbD i = decide (off ≤ i ∧ i < off + n) := by
  rw [byteMask, BitVec.getLsbD_ofNat, Nat.mul_comm, Nat.testBit_two_pow_mul]
  by_cases h1 : off ≤ i
  · rw [Nat.testBit_two_pow_sub_one]
    by_cases h2 : i < off + n
    · simp [h1, h2, show i < 64 by omega, show i - off < n by omega]
    · simp [h1, h2, show ¬ i - off < n by omega]
  · simp [h1]

end Sys2Proof
end

