-- ==== Sys2Proof/Laws/Exec.lean ====
section
/-! SUPPORT. The meaning of each constructor, one equation each, so that no proof unfolds the dispatch. -/

namespace Sys2Proof.Machine

theorem exec_ecallEnvironment : ∀ brk s, exec (.ecallEnvironment brk) s = execEcallEnvironment brk s := by intros; rfl
theorem exec_csrWrite : ∀ op csr src rd s, exec (.csrWrite op csr src rd) s = execCsrWrite op csr src rd s := by intros; rfl
theorem exec_budgetWrite : ∀ op src rd s, exec (.budgetWrite op src rd) s = execBudgetWrite op src rd s := by intros; rfl
theorem exec_driftWrite : ∀ op src rd s, exec (.driftWrite op src rd) s = execDriftWrite op src rd s := by intros; rfl
theorem exec_leaseWrite : ∀ op src rd s, exec (.leaseWrite op src rd) s = execLeaseWrite op src rd s := by intros; rfl
theorem exec_rmodeWrite : ∀ op src rd s, exec (.rmodeWrite op src rd) s = execRmodeWrite op src rd s := by intros; rfl
theorem exec_trcfgWrite : ∀ op src rd s, exec (.trcfgWrite op src rd) s = execTrcfgWrite op src rd s := by intros; rfl
theorem exec_xfctlResume : ∀ op src rd s, exec (.xfctlResume op src rd) s = execXfctlResume op src rd s := by intros; rfl
theorem exec_xfctlFail : ∀ op src rd s, exec (.xfctlFail op src rd) s = execXfctlFail op src rd s := by intros; rfl
theorem exec_load : ∀ w rd rs1 imm s, exec (.load w rd rs1 imm) s = execLoad w rd rs1 imm s := by intros; rfl
theorem exec_store : ∀ w rs2 rs1 imm s, exec (.store w rs2 rs1 imm) s = execStore w rs2 rs1 imm s := by intros; rfl
theorem exec_amo : ∀ op dw aq rl rd rs1 rs2 s, exec (.amo op dw aq rl rd rs1 rs2) s = execAmo op dw aq rl rd rs1 rs2 s := by intros; rfl
theorem exec_lr : ∀ dw aq rl rd rs1 s, exec (.lr dw aq rl rd rs1) s = execLr dw aq rl rd rs1 s := by intros; rfl
theorem exec_sc : ∀ dw aq rl rd rs1 rs2 s, exec (.sc dw aq rl rd rs1 rs2) s = execSc dw aq rl rd rs1 rs2 s := by intros; rfl
theorem exec_amocasQ : ∀ aq rl rd rs1 rs2 s, exec (.amocasQ aq rl rd rs1 rs2) s = execAmocasQ aq rl rd rs1 rs2 s := by intros; rfl
theorem exec_sfenceVma : ∀ rs1 rs2 s, exec (.sfenceVma rs1 rs2) s = execSfenceVma rs1 rs2 s := by intros; rfl
theorem exec_fence : ∀ fm pred succ rd rs1 s, exec (.fence fm pred succ rd rs1) s = execFence fm pred succ rd rs1 s := by intros; rfl
theorem exec_fenceTso : ∀ rd rs1 s, exec (.fenceTso rd rs1) s = execFenceTso rd rs1 s := by intros; rfl
theorem exec_fenceI : ∀ rd rs1 imm s, exec (.fenceI rd rs1 imm) s = execFenceI rd rs1 imm s := by intros; rfl
theorem exec_tretire : ∀ a s, exec (.tretire a) s = execTretire a s := by intros; rfl
theorem exec_tretireA : ∀ a s, exec (.tretireA a) s = execTretireA a s := by intros; rfl
theorem exec_tspawn : ∀ d a s, exec (.tspawn d a) s = execTspawn d a s := by intros; rfl
theorem exec_tspawnN : ∀ d a s, exec (.tspawnN d a) s = execTspawnN d a s := by intros; rfl
theorem exec_tspawnOff : ∀ d a off s, exec (.tspawnOff d a off) s = execTspawnOff d a off s := by intros; rfl
theorem exec_tspawnNOff : ∀ d a off s, exec (.tspawnNOff d a off) s = execTspawnNOff d a off s := by intros; rfl
theorem exec_tcancel : ∀ d a s, exec (.tcancel d a) s = execTcancel d a s := by intros; rfl
theorem exec_tstat : ∀ d a s, exec (.tstat d a) s = execTstat d a s := by intros; rfl
theorem exec_twdchk : ∀ d s, exec (.twdchk d) s = execTwdchk d s := by intros; rfl
theorem exec_tbudget : ∀ d s, exec (.tbudget d) s = execTbudget d s := by intros; rfl
theorem exec_tself : ∀ d s, exec (.tself d) s = execTself d s := by intros; rfl
theorem exec_drank : ∀ d s, exec (.drank d) s = execDrank d s := by intros; rfl
theorem exec_dsize : ∀ d s, exec (.dsize d) s = execDsize d s := by intros; rfl
theorem exec_bbind : ∀ n a b s, exec (.bbind n a b) s = execBbind n a b s := by intros; rfl
theorem exec_bbindI : ∀ n a cfg s, exec (.bbindI n a cfg) s = execBbindI n a cfg s := by intros; rfl
theorem exec_barrive : ∀ n a s, exec (.barrive n a) s = execBarrive n a s := by intros; rfl
theorem exec_bwait : ∀ d n s, exec (.bwait d n) s = execBwait d n s := by intros; rfl
theorem exec_bsync : ∀ d n a s, exec (.bsync d n a) s = execBsync d n a s := by intros; rfl
theorem exec_bexpect : ∀ n a s, exec (.bexpect n a) s = execBexpect n a s := by intros; rfl
theorem exec_bexpectI : ∀ n bytes s, exec (.bexpectI n bytes) s = execBexpectI n bytes s := by intros; rfl
theorem exec_btest : ∀ d n s, exec (.btest d n) s = execBtest d n s := by intros; rfl
theorem exec_bunbind : ∀ n s, exec (.bunbind n) s = execBunbind n s := by intros; rfl
theorem exec_msend : ∀ d a b s, exec (.msend d a b) s = execMsend d a b s := by intros; rfl
theorem exec_msendI : ∀ d a b c tag s, exec (.msendI d a b c tag) s = execMsendI d a b c tag s := by intros; rfl
theorem exec_mrecv : ∀ d a s, exec (.mrecv d a) s = execMrecv d a s := by intros; rfl
theorem exec_mpoll : ∀ d s, exec (.mpoll d) s = execMpoll d s := by intros; rfl
theorem exec_mwait : ∀ d s, exec (.mwait d) s = execMwait d s := by intros; rfl
theorem exec_mhdr : ∀ d s, exec (.mhdr d) s = execMhdr d s := by intros; rfl
theorem exec_clkrd : ∀ d s, exec (.clkrd d) s = execClkrd d s := by intros; rfl
theorem exec_clkadv : ∀ a s, exec (.clkadv a) s = execClkadv a s := by intros; rfl
theorem exec_clkadvOff : ∀ a off s, exec (.clkadvOff a off) s = execClkadvOff a off s := by intros; rfl
theorem exec_lwait : ∀ d a s, exec (.lwait d a) s = execLwait d a s := by intros; rfl
theorem exec_lwaitOff : ∀ d a off s, exec (.lwaitOff d a off) s = execLwaitOff d a off s := by intros; rfl
theorem exec_fencesFull : ∀ d scope s, exec (.fencesFull d scope) s = execFencesFull d scope s := by intros; rfl
theorem exec_fencesAcquire : ∀ d scope s, exec (.fencesAcquire d scope) s = execFencesAcquire d scope s := by intros; rfl
theorem exec_fencesRelease : ∀ d scope s, exec (.fencesRelease d scope) s = execFencesRelease d scope s := by intros; rfl
theorem exec_repb : ∀ a len ring s, exec (.repb a len ring) s = execRepb a len ring s := by intros; rfl
theorem exec_trmark : ∀ a s, exec (.trmark a) s = execTrmark a s := by intros; rfl
theorem exec_trmarkI : ∀ imm s, exec (.trmarkI imm) s = execTrmarkI imm s := by intros; rfl
theorem exec_ctxpre : ∀ d a b s, exec (.ctxpre d a b) s = execCtxpre d a b s := by intros; rfl
theorem exec_ctxrel : ∀ d a s, exec (.ctxrel d a) s = execCtxrel d a s := by intros; rfl
theorem exec_mcset : ∀ d a b s, exec (.mcset d a b) s = execMcset d a b s := by intros; rfl
theorem exec_audapp : ∀ d a b s, exec (.audapp d a b) s = execAudapp d a b s := by intros; rfl
theorem exec_rgnil : ∀ d n s, exec (.rgnil d n) s = execRgnil d n s := by intros; rfl
theorem exec_rgfull : ∀ d a s, exec (.rgfull d a) s = execRgfull d a s := by intros; rfl
theorem exec_rgpt : ∀ d a b s, exec (.rgpt d a b) s = execRgpt d a b s := by intros; rfl
theorem exec_rgptI : ∀ d a b n e s, exec (.rgptI d a b n e) s = execRgptI d a b n e s := by intros; rfl
theorem exec_rgclip : ∀ d a b s, exec (.rgclip d a b) s = execRgclip d a b s := by intros; rfl
theorem exec_rguni : ∀ d a b s, exec (.rguni d a b) s = execRguni d a b s := by intros; rfl
theorem exec_rgint : ∀ d a b s, exec (.rgint d a b) s = execRgint d a b s := by intros; rfl
theorem exec_rgsub : ∀ d a b s, exec (.rgsub d a b) s = execRgsub d a b s := by intros; rfl
theorem exec_rgdil : ∀ d a b s, exec (.rgdil d a b) s = execRgdil d a b s := by intros; rfl
theorem exec_rgdilI : ∀ d a imm s, exec (.rgdilI d a imm) s = execRgdilI d a imm s := by intros; rfl
theorem exec_rgshf : ∀ d a b s, exec (.rgshf d a b) s = execRgshf d a b s := by intros; rfl
theorem exec_rgshfI : ∀ d a imm s, exec (.rgshfI d a imm) s = execRgshfI d a imm s := by intros; rfl
theorem exec_rgprj : ∀ d a b s, exec (.rgprj d a b) s = execRgprj d a b s := by intros; rfl
theorem exec_rgprjI : ∀ d a imm s, exec (.rgprjI d a imm) s = execRgprjI d a imm s := by intros; rfl
theorem exec_rgxpd : ∀ d a b s, exec (.rgxpd d a b) s = execRgxpd d a b s := by intros; rfl
theorem exec_rgxpdI : ∀ d a imm s, exec (.rgxpdI d a imm) s = execRgxpdI d a imm s := by intros; rfl
theorem exec_rglat : ∀ d a b s, exec (.rglat d a b) s = execRglat d a b s := by intros; rfl
theorem exec_rglatI : ∀ d a imm s, exec (.rglatI d a imm) s = execRglatI d a imm s := by intros; rfl
theorem exec_rgcut : ∀ d a b s, exec (.rgcut d a b) s = execRgcut d a b s := by intros; rfl
theorem exec_rgcutI : ∀ d a imm s, exec (.rgcutI d a imm) s = execRgcutI d a imm s := by intros; rfl
theorem exec_rgspl : ∀ d a b s, exec (.rgspl d a b) s = execRgspl d a b s := by intros; rfl
theorem exec_rgsplI : ∀ d a imm s, exec (.rgsplI d a imm) s = execRgsplI d a imm s := by intros; rfl
theorem exec_rgbbox : ∀ d a s, exec (.rgbbox d a) s = execRgbbox d a s := by intros; rfl
theorem exec_rgmv : ∀ d a s, exec (.rgmv d a) s = execRgmv d a s := by intros; rfl
theorem exec_rgcan : ∀ d a s, exec (.rgcan d a) s = execRgcan d a s := by intros; rfl
theorem exec_rgld : ∀ d a s, exec (.rgld d a) s = execRgld d a s := by intros; rfl
theorem exec_rgldImm : ∀ d a imm s, exec (.rgldImm d a imm) s = execRgldImm d a imm s := by intros; rfl
theorem exec_rgldW64 : ∀ d a off s, exec (.rgldW64 d a off) s = execRgldW64 d a off s := by intros; rfl
theorem exec_rgst : ∀ d a s, exec (.rgst d a) s = execRgst d a s := by intros; rfl
theorem exec_rgstImm : ∀ d a imm s, exec (.rgstImm d a imm) s = execRgstImm d a imm s := by intros; rfl
theorem exec_rgstW64 : ∀ d a off s, exec (.rgstW64 d a off) s = execRgstW64 d a off s := by intros; rfl
theorem exec_rgcnt : ∀ d a s, exec (.rgcnt d a) s = execRgcnt d a s := by intros; rfl
theorem exec_rgnbx : ∀ d a s, exec (.rgnbx d a) s = execRgnbx d a s := by intros; rfl
theorem exec_rgtst : ∀ d a b s, exec (.rgtst d a b) s = execRgtst d a b s := by intros; rfl
theorem exec_rgeq : ∀ d a b s, exec (.rgeq d a b) s = execRgeq d a b s := by intros; rfl
theorem exec_rgsubs : ∀ d a b s, exec (.rgsubs d a b) s = execRgsubs d a b s := by intros; rfl
theorem exec_rgget : ∀ d a b s, exec (.rgget d a b) s = execRgget d a b s := by intros; rfl
theorem exec_rggetI : ∀ d a sel s, exec (.rggetI d a sel) s = execRggetI d a sel s := by intros; rfl
theorem exec_hld : ∀ d a s, exec (.hld d a) s = execHld d a s := by intros; rfl
theorem exec_hldImm : ∀ d a imm s, exec (.hldImm d a imm) s = execHldImm d a imm s := by intros; rfl
theorem exec_hldW64 : ∀ d a off s, exec (.hldW64 d a off) s = execHldW64 d a off s := by intros; rfl
theorem exec_hst : ∀ d a s, exec (.hst d a) s = execHst d a s := by intros; rfl
theorem exec_hstImm : ∀ d a imm s, exec (.hstImm d a imm) s = execHstImm d a imm s := by intros; rfl
theorem exec_hstW64 : ∀ d a off s, exec (.hstW64 d a off) s = execHstW64 d a off s := by intros; rfl
theorem exec_hget : ∀ d a b s, exec (.hget d a b) s = execHget d a b s := by intros; rfl
theorem exec_hgetI : ∀ d a sel s, exec (.hgetI d a sel) s = execHgetI d a sel s := by intros; rfl
theorem exec_hsetx : ∀ d a b s, exec (.hsetx d a b) s = execHsetx d a b s := by intros; rfl
theorem exec_hsetxI : ∀ d a sel s, exec (.hsetxI d a sel) s = execHsetxI d a sel s := by intros; rfl
theorem exec_copy : ∀ d a b s, exec (.copy d a b) s = execCopy d a b s := by intros; rfl
theorem exec_copyClip : ∀ d a b s, exec (.copyClip d a b) s = execCopyClip d a b s := by intros; rfl
theorem exec_copyW64 : ∀ clip d a b c imm s, exec (.copyW64 clip d a b c imm) s = execCopyW64 clip d a b c imm s := by intros; rfl
theorem exec_copyb : ∀ n a b s, exec (.copyb n a b) s = execCopyb n a b s := by intros; rfl
theorem exec_copybClip : ∀ n a b s, exec (.copybClip n a b) s = execCopybClip n a b s := by intros; rfl
theorem exec_copybW64 : ∀ clip n a b c imm s, exec (.copybW64 clip n a b c imm) s = execCopybW64 clip n a b c imm s := by intros; rfl
theorem exec_copyn : ∀ d a b s, exec (.copyn d a b) s = execCopyn d a b s := by intros; rfl
theorem exec_copynClip : ∀ d a b s, exec (.copynClip d a b) s = execCopynClip d a b s := by intros; rfl
theorem exec_copynW64 : ∀ clip d a b c imm s, exec (.copynW64 clip d a b c imm) s = execCopynW64 clip d a b c imm s := by intros; rfl
theorem exec_getx : ∀ d a b s, exec (.getx d a b) s = execGetx d a b s := by intros; rfl
theorem exec_getxClip : ∀ d a b s, exec (.getxClip d a b) s = execGetxClip d a b s := by intros; rfl
theorem exec_getxW64 : ∀ clip d a b c imm s, exec (.getxW64 clip d a b c imm) s = execGetxW64 clip d a b c imm s := by intros; rfl
theorem exec_putx : ∀ d a b s, exec (.putx d a b) s = execPutx d a b s := by intros; rfl
theorem exec_putxClip : ∀ d a b s, exec (.putxClip d a b) s = execPutxClip d a b s := by intros; rfl
theorem exec_putxW64 : ∀ clip d a b c imm s, exec (.putxW64 clip d a b c imm) s = execPutxW64 clip d a b c imm s := by intros; rfl
theorem exec_getr : ∀ d a b s, exec (.getr d a b) s = execGetr d a b s := by intros; rfl
theorem exec_getrClip : ∀ d a b s, exec (.getrClip d a b) s = execGetrClip d a b s := by intros; rfl
theorem exec_getrW64 : ∀ clip d a b c imm s, exec (.getrW64 clip d a b c imm) s = execGetrW64 clip d a b c imm s := by intros; rfl
theorem exec_putr : ∀ d a b s, exec (.putr d a b) s = execPutr d a b s := by intros; rfl
theorem exec_putrClip : ∀ d a b s, exec (.putrClip d a b) s = execPutrClip d a b s := by intros; rfl
theorem exec_putrW64 : ∀ clip d a b c imm s, exec (.putrW64 clip d a b c imm) s = execPutrW64 clip d a b c imm s := by intros; rfl
theorem exec_pref : ∀ a b s, exec (.pref a b) s = execPref a b s := by intros; rfl
theorem exec_flushr : ∀ d a b s, exec (.flushr d a b) s = execFlushr d a b s := by intros; rfl
theorem exec_waitg : ∀ d a b s, exec (.waitg d a b) s = execWaitg d a b s := by intros; rfl
theorem exec_tktest : ∀ d a s, exec (.tktest d a) s = execTktest d a s := by intros; rfl
theorem exec_qbind : ∀ n a b s, exec (.qbind n a b) s = execQbind n a b s := by intros; rfl
theorem exec_qacq : ∀ d n s, exec (.qacq d n) s = execQacq d n s := by intros; rfl
theorem exec_qpub : ∀ n a b s, exec (.qpub n a b) s = execQpub n a b s := by intros; rfl
theorem exec_qtake : ∀ d n s, exec (.qtake d n) s = execQtake d n s := by intros; rfl
theorem exec_qfree : ∀ n a s, exec (.qfree n a) s = execQfree n a s := by intros; rfl
theorem exec_qeos : ∀ n s, exec (.qeos n) s = execQeos n s := by intros; rfl
theorem exec_qstat : ∀ d n s, exec (.qstat d n) s = execQstat d n s := by intros; rfl
theorem exec_ldsub : ∀ d a b s, exec (.ldsub d a b) s = execLdsub d a b s := by intros; rfl
theorem exec_lddrn : ∀ d a b s, exec (.lddrn d a b) s = execLddrn d a b s := by intros; rfl
theorem exec_ldcan : ∀ d a s, exec (.ldcan d a) s = execLdcan d a s := by intros; rfl
theorem exec_vld : ∀ t d a s, exec (.vld t d a) s = execVld t d a s := by intros; rfl
theorem exec_vldOff : ∀ t d a off s, exec (.vldOff t d a off) s = execVldOff t d a off s := by intros; rfl
theorem exec_vst : ∀ t b a s, exec (.vst t b a) s = execVst t b a s := by intros; rfl
theorem exec_vstOff : ∀ t b a off s, exec (.vstOff t b a off) s = execVstOff t b a off s := by intros; rfl
theorem exec_vlds : ∀ t d a c off s, exec (.vlds t d a c off) s = execVlds t d a c off s := by intros; rfl
theorem exec_vsts : ∀ t b a c off s, exec (.vsts t b a c off) s = execVsts t b a c off s := by intros; rfl
theorem exec_vgath : ∀ t d a b s, exec (.vgath t d a b) s = execVgath t d a b s := by intros; rfl
theorem exec_vgathOff : ∀ t d a b off s, exec (.vgathOff t d a b off) s = execVgathOff t d a b off s := by intros; rfl
theorem exec_vscat : ∀ t d a b s, exec (.vscat t d a b) s = execVscat t d a b s := by intros; rfl
theorem exec_vscatOff : ∀ t d a b off s, exec (.vscatOff t d a b off) s = execVscatOff t d a b off s := by intros; rfl
theorem exec_vbcast : ∀ t d a s, exec (.vbcast t d a) s = execVbcast t d a s := by intros; rfl
theorem exec_vmvx : ∀ t d a s, exec (.vmvx t d a) s = execVmvx t d a s := by intros; rfl
theorem exec_vmvxLane : ∀ t d a lane s, exec (.vmvxLane t d a lane) s = execVmvxLane t d a lane s := by intros; rfl
theorem exec_vmvv : ∀ t d a s, exec (.vmvv t d a) s = execVmvv t d a s := by intros; rfl
theorem exec_vadd : ∀ t d a b s, exec (.vadd t d a b) s = execVadd t d a b s := by intros; rfl
theorem exec_vaddVx : ∀ t d a b s, exec (.vaddVx t d a b) s = execVaddVx t d a b s := by intros; rfl
theorem exec_vsub : ∀ t d a b s, exec (.vsub t d a b) s = execVsub t d a b s := by intros; rfl
theorem exec_vsubVx : ∀ t d a b s, exec (.vsubVx t d a b) s = execVsubVx t d a b s := by intros; rfl
theorem exec_vmul : ∀ t d a b s, exec (.vmul t d a b) s = execVmul t d a b s := by intros; rfl
theorem exec_vmulVx : ∀ t d a b s, exec (.vmulVx t d a b) s = execVmulVx t d a b s := by intros; rfl
theorem exec_vfma : ∀ t d a b s, exec (.vfma t d a b) s = execVfma t d a b s := by intros; rfl
theorem exec_vfmaVx : ∀ t d a b s, exec (.vfmaVx t d a b) s = execVfmaVx t d a b s := by intros; rfl
theorem exec_vfms : ∀ t d a b s, exec (.vfms t d a b) s = execVfms t d a b s := by intros; rfl
theorem exec_vfmsVx : ∀ t d a b s, exec (.vfmsVx t d a b) s = execVfmsVx t d a b s := by intros; rfl
theorem exec_vmin : ∀ t d a b s, exec (.vmin t d a b) s = execVmin t d a b s := by intros; rfl
theorem exec_vminVx : ∀ t d a b s, exec (.vminVx t d a b) s = execVminVx t d a b s := by intros; rfl
theorem exec_vmax : ∀ t d a b s, exec (.vmax t d a b) s = execVmax t d a b s := by intros; rfl
theorem exec_vmaxVx : ∀ t d a b s, exec (.vmaxVx t d a b) s = execVmaxVx t d a b s := by intros; rfl
theorem exec_vabs : ∀ t d a s, exec (.vabs t d a) s = execVabs t d a s := by intros; rfl
theorem exec_vneg : ∀ t d a s, exec (.vneg t d a) s = execVneg t d a s := by intros; rfl
theorem exec_vand : ∀ t d a b s, exec (.vand t d a b) s = execVand t d a b s := by intros; rfl
theorem exec_vandVx : ∀ t d a b s, exec (.vandVx t d a b) s = execVandVx t d a b s := by intros; rfl
theorem exec_vor : ∀ t d a b s, exec (.vor t d a b) s = execVor t d a b s := by intros; rfl
theorem exec_vorVx : ∀ t d a b s, exec (.vorVx t d a b) s = execVorVx t d a b s := by intros; rfl
theorem exec_vxor : ∀ t d a b s, exec (.vxor t d a b) s = execVxor t d a b s := by intros; rfl
theorem exec_vxorVx : ∀ t d a b s, exec (.vxorVx t d a b) s = execVxorVx t d a b s := by intros; rfl
theorem exec_vsll : ∀ t d a b s, exec (.vsll t d a b) s = execVsll t d a b s := by intros; rfl
theorem exec_vsllVx : ∀ t d a b s, exec (.vsllVx t d a b) s = execVsllVx t d a b s := by intros; rfl
theorem exec_vsrl : ∀ t d a b s, exec (.vsrl t d a b) s = execVsrl t d a b s := by intros; rfl
theorem exec_vsrlVx : ∀ t d a b s, exec (.vsrlVx t d a b) s = execVsrlVx t d a b s := by intros; rfl
theorem exec_vsra : ∀ t d a b s, exec (.vsra t d a b) s = execVsra t d a b s := by intros; rfl
theorem exec_vsraVx : ∀ t d a b s, exec (.vsraVx t d a b) s = execVsraVx t d a b s := by intros; rfl
theorem exec_vcmp : ∀ t vx d a b cond s, exec (.vcmp t vx d a b cond) s = execVcmp t vx d a b cond s := by intros; rfl
theorem exec_vsel : ∀ t d a b s, exec (.vsel t d a b) s = execVsel t d a b s := by intros; rfl
theorem exec_vselVx : ∀ t d a b s, exec (.vselVx t d a b) s = execVselVx t d a b s := by intros; rfl
theorem exec_vcvt : ∀ t d a b s, exec (.vcvt t d a b) s = execVcvt t d a b s := by intros; rfl
theorem exec_vcvtW64 : ∀ t sz d a src p s, exec (.vcvtW64 t sz d a src p) s = execVcvtW64 t sz d a src p s := by intros; rfl
theorem exec_vrsum : ∀ t d a s, exec (.vrsum t d a) s = execVrsum t d a s := by intros; rfl
theorem exec_vrmax : ∀ t d a s, exec (.vrmax t d a) s = execVrmax t d a s := by intros; rfl
theorem exec_vrmin : ∀ t d a s, exec (.vrmin t d a) s = execVrmin t d a s := by intros; rfl
theorem exec_vexp2 : ∀ t d a s, exec (.vexp2 t d a) s = execVexp2 t d a s := by intros; rfl
theorem exec_vlog2 : ∀ t d a s, exec (.vlog2 t d a) s = execVlog2 t d a s := by intros; rfl
theorem exec_vrcp : ∀ t d a s, exec (.vrcp t d a) s = execVrcp t d a s := by intros; rfl
theorem exec_vrsqrt : ∀ t d a s, exec (.vrsqrt t d a) s = execVrsqrt t d a s := by intros; rfl
theorem exec_vsqrt : ∀ t d a s, exec (.vsqrt t d a) s = execVsqrt t d a s := by intros; rfl
theorem exec_vdot : ∀ t d a b s, exec (.vdot t d a b) s = execVdot t d a b s := by intros; rfl
theorem exec_vperm : ∀ t d a b s, exec (.vperm t d a b) s = execVperm t d a b s := by intros; rfl
theorem exec_vslideVx : ∀ t d a b s, exec (.vslideVx t d a b) s = execVslideVx t d a b s := by intros; rfl
theorem exec_vslideI : ∀ t d a amt s, exec (.vslideI t d a amt) s = execVslideI t d a amt s := by intros; rfl
theorem exec_vcompr : ∀ t d a s, exec (.vcompr t d a) s = execVcompr t d a s := by intros; rfl
theorem exec_vexpnd : ∀ t d a s, exec (.vexpnd t d a) s = execVexpnd t d a s := by intros; rfl
theorem exec_viota : ∀ t d s, exec (.viota t d) s = execViota t d s := by intros; rfl
theorem exec_vztst : ∀ t d a s, exec (.vztst t d a) s = execVztst t d a s := by intros; rfl
theorem exec_vscl : ∀ t e5 d a b s, exec (.vscl t e5 d a b) s = execVscl t e5 d a b s := by intros; rfl
theorem exec_vsclVx : ∀ t e5 d a b s, exec (.vsclVx t e5 d a b) s = execVsclVx t e5 d a b s := by intros; rfl
theorem exec_vqnt : ∀ fmt amax p d a b c s, exec (.vqnt fmt amax p d a b c) s = execVqnt fmt amax p d a b c s := by intros; rfl
theorem exec_vmask : ∀ a s, exec (.vmask a) s = execVmask a s := by intros; rfl
theorem exec_kand : ∀ d a b s, exec (.kand d a b) s = execKand d a b s := by intros; rfl
theorem exec_kor : ∀ d a b s, exec (.kor d a b) s = execKor d a b s := by intros; rfl
theorem exec_knot : ∀ d a s, exec (.knot d a) s = execKnot d a s := by intros; rfl
theorem exec_kmvToMask : ∀ d a s, exec (.kmvToMask d a) s = execKmvToMask d a s := by intros; rfl
theorem exec_kmvFromMask : ∀ d a s, exec (.kmvFromMask d a) s = execKmvFromMask d a s := by intros; rfl
theorem exec_mfmt : ∀ a s, exec (.mfmt a) s = execMfmt a s := by intros; rfl
theorem exec_mupld : ∀ a b s, exec (.mupld a b) s = execMupld a b s := by intros; rfl
theorem exec_mma : ∀ z d a b k8 m n s, exec (.mma z d a b k8 m n) s = execMma z d a b k8 m n s := by intros; rfl
theorem exec_mmag : ∀ z d a b k8 m n s, exec (.mmag z d a b k8 m n) s = execMmag z d a b k8 m n s := by intros; rfl
theorem exec_mrec : ∀ z d a b k8 m n s, exec (.mrec z d a b k8 m n) s = execMrec z d a b k8 m n s := by intros; rfl
theorem exec_mzero : ∀ d cnt s, exec (.mzero d cnt) s = execMzero d cnt s := by intros; rfl
theorem exec_mtzero : ∀ d cnt s, exec (.mtzero d cnt) s = execMtzero d cnt s := by intros; rfl
theorem exec_mtmov : ∀ d a cnt s, exec (.mtmov d a cnt) s = execMtmov d a cnt s := by intros; rfl
theorem exec_mztst : ∀ d a fmt s, exec (.mztst d a fmt) s = execMztst d a fmt s := by intros; rfl
theorem exec_mtrn : ∀ e d a s, exec (.mtrn e d a) s = execMtrn e d a s := by intros; rfl
theorem exec_mrel : ∀ acc d s, exec (.mrel acc d) s = execMrel acc d s := by intros; rfl
theorem exec_mext : ∀ d a row seg s, exec (.mext d a row seg) s = execMext d a row seg s := by intros; rfl
theorem exec_mins : ∀ d a row seg s, exec (.mins d a row seg) s = execMins d a row seg s := by intros; rfl
theorem exec_mlda : ∀ f d a s, exec (.mlda f d a) s = execMlda f d a s := by intros; rfl
theorem exec_msta : ∀ f d a s, exec (.msta f d a) s = execMsta f d a s := by intros; rfl
theorem exec_mqnt : ∀ fmt d a b c soff eoff s, exec (.mqnt fmt d a b c soff eoff) s = execMqnt fmt d a b c soff eoff s := by intros; rfl
theorem exec_mscl : ∀ f d a s, exec (.mscl f d a) s = execMscl f d a s := by intros; rfl
theorem exec_mbias : ∀ f d a s, exec (.mbias f d a) s = execMbias f d a s := by intros; rfl
theorem exec_mapplyRelu : ∀ d s, exec (.mapplyRelu d) s = execMapplyRelu d s := by intros; rfl
theorem exec_mapplyMicro : ∀ d s, exec (.mapplyMicro d) s = execMapplyMicro d s := by intros; rfl
theorem exec_mred : ∀ f d a row s, exec (.mred f d a row) s = execMred f d a row s := by intros; rfl
theorem exec_integerAlu : ∀ op s, exec (.integerAlu op) s = execIntegerAlu op s := by intros; rfl
theorem exec_controlTransfer : ∀ op s, exec (.controlTransfer op) s = execControlTransfer op s := by intros; rfl
theorem exec_wfi : ∀ s, exec (.wfi) s = execWfi s := by intros; rfl
theorem exec_sret : ∀ s, exec (.sret) s = execSret s := by intros; rfl
theorem exec_mret : ∀ s, exec (.mret) s = execMret s := by intros; rfl
theorem exec_tyield : ∀ s, exec (.tyield) s = execTyield s := by intros; rfl
theorem exec_trtrig : ∀ s, exec (.trtrig) s = execTrtrig s := by intros; rfl
theorem exec_msync : ∀ s, exec (.msync) s = execMsync s := by intros; rfl
theorem exec_coldReset : ∀ nonce s, exec (.coldReset nonce) s = execColdReset nonce s := by intros; rfl
theorem exec_warmReset : ∀ s, exec (.warmReset) s = execWarmReset s := by intros; rfl
theorem exec_recoveryGo : ∀ s, exec (.recoveryGo) s = execRecoveryGo s := by intros; rfl
theorem exec_powerSample : ∀ mw s, exec (.powerSample mw) s = execPowerSample mw s := by intros; rfl
theorem exec_dutyStep : ∀ s, exec (.dutyStep) s = execDutyStep s := by intros; rfl
theorem exec_sensorSample : ∀ die sensor celsius s, exec (.sensorSample die sensor celsius) s = execSensorSample die sensor celsius s := by intros; rfl
theorem exec_measExtend : ∀ n d s, exec (.measExtend n d) s = execMeasExtend n d s := by intros; rfl
theorem exec_quoteRequest : ∀ nonce s, exec (.quoteRequest nonce) s = execQuoteRequest nonce s := by intros; rfl
theorem exec_quoteSigned : ∀ s, exec (.quoteSigned) s = execQuoteSigned s := by intros; rfl
theorem exec_fuseCounterAdvance : ∀ v s, exec (.fuseCounterAdvance v) s = execFuseCounterAdvance v s := by intros; rfl
theorem exec_fuseBlow : ∀ s, exec (.fuseBlow) s = execFuseBlow s := by intros; rfl
theorem exec_retranslationComplete : ∀ s, exec (.retranslationComplete) s = execRetranslationComplete s := by intros; rfl
theorem exec_auditAppend : ∀ kind source asid payload s, exec (.auditAppend kind source asid payload) s = execAuditAppend kind source asid payload s := by intros; rfl
theorem exec_segmentSeal : ∀ s, exec (.segmentSeal) s = execSegmentSeal s := by intros; rfl
theorem exec_spillWriteComplete : ∀ s, exec (.spillWriteComplete) s = execSpillWriteComplete s := by intros; rfl
theorem exec_spillAck : ∀ seg s, exec (.spillAck seg) s = execSpillAck seg s := by intros; rfl
theorem exec_overflowAreaSet : ∀ base port k s, exec (.overflowAreaSet base port k) s = execOverflowAreaSet base port k s := by intros; rfl
theorem exec_ownerCreate : ∀ s, exec (.ownerCreate) s = execOwnerCreate s := by intros; rfl
theorem exec_ownerDestroy : ∀ s, exec (.ownerDestroy) s = execOwnerDestroy s := by intros; rfl
theorem exec_frameSet : ∀ s, exec (.frameSet) s = execFrameSet s := by intros; rfl
theorem exec_tenantCreate : ∀ s, exec (.tenantCreate) s = execTenantCreate s := by intros; rfl
theorem exec_tenantSet : ∀ s, exec (.tenantSet) s = execTenantSet s := by intros; rfl
theorem exec_tenantDestroy : ∀ s, exec (.tenantDestroy) s = execTenantDestroy s := by intros; rfl
theorem exec_ctxCreate : ∀ s, exec (.ctxCreate) s = execCtxCreate s := by intros; rfl
theorem exec_portOpen : ∀ s, exec (.portOpen) s = execPortOpen s := by intros; rfl
theorem exec_portClose : ∀ s, exec (.portClose) s = execPortClose s := by intros; rfl
theorem exec_apertureMap : ∀ s, exec (.apertureMap) s = execApertureMap s := by intros; rfl
theorem exec_objTranslate : ∀ s, exec (.objTranslate) s = execObjTranslate s := by intros; rfl
theorem exec_objUnload : ∀ s, exec (.objUnload) s = execObjUnload s := by intros; rfl
theorem exec_stageSet : ∀ s, exec (.stageSet) s = execStageSet s := by intros; rfl
theorem exec_taskFault : ∀ s, exec (.taskFault) s = execTaskFault s := by intros; rfl
theorem exec_vaultSet : ∀ s, exec (.vaultSet) s = execVaultSet s := by intros; rfl
theorem exec_launch : ∀ port page rec s, exec (.launch port page rec) s = execLaunch port page rec s := by intros; rfl
theorem exec_launchPortDmwrOther : ∀ port page off len s, exec (.launchPortDmwrOther port page off len) s = execLaunchPortDmwrOther port page off len s := by intros; rfl
theorem exec_launchPortPostedWrite : ∀ port page off data s, exec (.launchPortPostedWrite port page off data) s = execLaunchPortPostedWrite port page off data s := by intros; rfl
theorem exec_argsReadComplete : ∀ id s, exec (.argsReadComplete id) s = execArgsReadComplete id s := by intros; rfl
theorem exec_launchSubmit : ∀ id s, exec (.launchSubmit id) s = execLaunchSubmit id s := by intros; rfl
theorem exec_launchDone : ∀ id s, exec (.launchDone id) s = execLaunchDone id s := by intros; rfl
theorem exec_apertureWrite : ∀ port page off data s, exec (.apertureWrite port page off data) s = execApertureWrite port page off data s := by intros; rfl
theorem exec_apertureRead : ∀ port page off len s, exec (.apertureRead port page off len) s = execApertureRead port page off len s := by intros; rfl
theorem exec_hostLinkDown : ∀ port s, exec (.hostLinkDown port) s = execHostLinkDown port s := by intros; rfl
theorem exec_hostLinkUp : ∀ port cxl s, exec (.hostLinkUp port cxl) s = execHostLinkUp port cxl s := by intros; rfl
theorem exec_hostCompletionTimeout : ∀ req s, exec (.hostCompletionTimeout req) s = execHostCompletionTimeout req s := by intros; rfl
theorem exec_hostErrorCompletion : ∀ req k s, exec (.hostErrorCompletion req k) s = execHostErrorCompletion req k s := by intros; rfl
theorem exec_atomicopCompletion : ∀ req s, exec (.atomicopCompletion req) s = execAtomicopCompletion req s := by intros; rfl
theorem exec_zeroLengthReadComplete : ∀ req s, exec (.zeroLengthReadComplete req) s = execZeroLengthReadComplete req s := by intros; rfl
theorem exec_dieLinkReplay : ∀ edge good s, exec (.dieLinkReplay edge good) s = execDieLinkReplay edge good s := by intros; rfl
theorem exec_dieLinkIdleTimeout : ∀ edge s, exec (.dieLinkIdleTimeout edge) s = execDieLinkIdleTimeout edge s := by intros; rfl
theorem exec_netPortDown : ∀ port s, exec (.netPortDown port) s = execNetPortDown port s := by intros; rfl
theorem exec_retransmissionLimit : ∀ t s, exec (.retransmissionLimit t) s = execRetransmissionLimit t s := by intros; rfl
theorem exec_putArrive : ∀ port sq off data s, exec (.putArrive port sq off data) s = execPutArrive port sq off data s := by intros; rfl
theorem exec_putAck : ∀ t refused s, exec (.putAck t refused) s = execPutAck t refused s := by intros; rfl
theorem exec_getRequest : ∀ port sq off len s, exec (.getRequest port sq off len) s = execGetRequest port sq off len s := by intros; rfl
theorem exec_getData : ∀ t refused data s, exec (.getData t refused data) s = execGetData t refused data s := by intros; rfl
theorem exec_homeRead : ∀ m s, exec (.homeRead m) s = execHomeRead m s := by intros; rfl
theorem exec_l2MissFill : ∀ m s, exec (.l2MissFill m) s = execL2MissFill m s := by intros; rfl
theorem exec_homeOwn : ∀ m s, exec (.homeOwn m) s = execHomeOwn m s := by intros; rfl
theorem exec_homeWrite : ∀ m s, exec (.homeWrite m) s = execHomeWrite m s := by intros; rfl
theorem exec_homeEngineRead : ∀ m s, exec (.homeEngineRead m) s = execHomeEngineRead m s := by intros; rfl
theorem exec_recallArrive : ∀ m s, exec (.recallArrive m) s = execRecall m s := by intros; rfl
theorem exec_recallReply : ∀ m s, exec (.recallReply m) s = execRecallReply m s := by intros; rfl
theorem exec_ownedEviction : ∀ h key s, exec (.ownedEviction h key) s = execOwnedEviction h key s := by intros; rfl
theorem exec_readReply : ∀ m s, exec (.readReply m) s = execReadReply m s := by intros; rfl
theorem exec_ownershipReply : ∀ m s, exec (.ownershipReply m) s = execOwnershipReply m s := by intros; rfl
theorem exec_postedStoreAck : ∀ m s, exec (.postedStoreAck m) s = execPostedStoreAck m s := by intros; rfl
theorem exec_vaultAccess : ∀ m s, exec (.vaultAccess m) s = execVaultAccess m s := by intros; rfl
theorem exec_driftTick : ∀ h s, exec (.driftTick h) s = execDriftTick h s := by intros; rfl
theorem exec_rebaseStep : ∀ die s, exec (.rebaseStep die) s = execRebaseStep die s := by intros; rfl
theorem exec_rebaseFloorReceive : ∀ die home s, exec (.rebaseFloorReceive die home) s = execRebaseFloorReceive die home s := by intros; rfl
theorem exec_rebaseComplete : ∀ die s, exec (.rebaseComplete die) s = execRebaseComplete die s := by intros; rfl
theorem exec_renewalHoldExpiry : ∀ home k s, exec (.renewalHoldExpiry home k) s = execRenewalHoldExpiry home k s := by intros; rfl
theorem exec_vaultWatchExpiry : ∀ q k s, exec (.vaultWatchExpiry q k) s = execVaultWatchExpiry q k s := by intros; rfl
theorem exec_hostLineFetch : ∀ port line s, exec (.hostLineFetch port line) s = execHostLineFetch port line s := by intros; rfl
theorem exec_hostSnoop : ∀ port line take s, exec (.hostSnoop port line take) s = execHostSnoop port line take s := by intros; rfl
theorem exec_snoopHoldExpiry : ∀ port line s, exec (.snoopHoldExpiry port line) s = execSnoopHoldExpiry port line s := by intros; rfl
theorem exec_hostAmoCompletion : ∀ req s, exec (.hostAmoCompletion req) s = execHostAmoCompletion req s := by intros; rfl
theorem exec_replyTimeout : ∀ agent s, exec (.replyTimeout agent) s = execReplyTimeout agent s := by intros; rfl
theorem exec_deadAgentDeclaration : ∀ agent s, exec (.deadAgentDeclaration agent) s = execDeadAgentDeclaration agent s := by intros; rfl
theorem exec_declarationReceive : ∀ home agent s, exec (.declarationReceive home agent) s = execDeclarationReceive home agent s := by intros; rfl
theorem exec_patrolPass : ∀ stack s, exec (.patrolPass stack) s = execPatrolPass stack s := by intros; rfl
theorem exec_dispatchPairing : ∀ die s, exec (.dispatchPairing die) s = execDispatchPairing die s := by intros; rfl
theorem exec_gangStart : ∀ k s, exec (.gangStart k) s = execGangStart k s := by intros; rfl
theorem exec_taskStart : ∀ h s, exec (.taskStart h) s = execTaskStart h s := by intros; rfl
theorem exec_packageArbiterMove : ∀ die s, exec (.packageArbiterMove die) s = execPackageArbiterMove die s := by intros; rfl
theorem exec_reservePreemption : ∀ die s, exec (.reservePreemption die) s = execReservePreemption die s := by intros; rfl
theorem exec_decrement : ∀ k s, exec (.decrement k) s = execDecrement k s := by intros; rfl
theorem exec_withdraw : ∀ k s, exec (.withdraw k) s = execWithdraw k s := by intros; rfl
theorem exec_rebalanceEvaluation : ∀ die s, exec (.rebalanceEvaluation die) s = execRebalanceEvaluation die s := by intros; rfl
theorem exec_parkWake : ∀ h s, exec (.parkWake h) s = execParkWake h s := by intros; rfl
theorem exec_parkReclaim : ∀ h s, exec (.parkReclaim h) s = execParkReclaim h s := by intros; rfl
theorem exec_budgetExhausted : ∀ h s, exec (.budgetExhausted h) s = execBudgetExhausted h s := by intros; rfl
theorem exec_interruptTaken : ∀ h s, exec (.interruptTaken h) s = execInterruptTaken h s := by intros; rfl
theorem exec_stopRequest : ∀ h s, exec (.stopRequest h) s = execStopRequest h s := by intros; rfl
theorem exec_saveComplete : ∀ h s, exec (.saveComplete h) s = execSaveComplete h s := by intros; rfl
theorem exec_contextDrain : ∀ c s, exec (.contextDrain c) s = execContextDrain c s := by intros; rfl
theorem exec_resume : ∀ h s, exec (.resume h) s = execResume h s := by intros; rfl
theorem exec_imageLineFill : ∀ c slot reg s, exec (.imageLineFill c slot reg) s = execImageLineFill c slot reg s := by intros; rfl
theorem exec_pageWalkComplete : ∀ w s, exec (.pageWalkComplete w) s = execPageWalkComplete w s := by intros; rfl
theorem exec_transferSegment : ∀ q s, exec (.transferSegment q) s = execTransferSegment q s := by intros; rfl
theorem exec_transferComplete : ∀ t s, exec (.transferComplete t) s = execTransferComplete t s := by intros; rfl
theorem exec_portRequest : ∀ q s, exec (.portRequest q) s = execPortRequest q s := by intros; rfl
theorem exec_streamTransferStart : ∀ t s, exec (.streamTransferStart t) s = execStreamTransferStart t s := by intros; rfl
theorem exec_streamSlotFill : ∀ t s, exec (.streamSlotFill t) s = execStreamSlotFill t s := by intros; rfl
theorem exec_streamSlotDrain : ∀ t s, exec (.streamSlotDrain t) s = execStreamSlotDrain t s := by intros; rfl
theorem exec_matrixAccept : ∀ q s, exec (.matrixAccept q) s = execMatrixAccept q s := by intros; rfl
theorem exec_matrixComplete : ∀ q s, exec (.matrixComplete q) s = execMatrixComplete q s := by intros; rfl
theorem exec_repbLaneIssue : ∀ h s, exec (.repbLaneIssue h) s = execRepbLaneIssue h s := by intros; rfl
theorem exec_scrubStart : ∀ c s, exec (.scrubStart c) s = execScrubStart c s := by intros; rfl
theorem exec_scrubQuadComplete : ∀ c q s, exec (.scrubQuadComplete c q) s = execScrubQuadComplete c q s := by intros; rfl
theorem exec_messageDeliver : ∀ k s, exec (.messageDeliver k) s = execMessageDeliver k s := by intros; rfl
theorem exec_netPortUp : ∀ port s, exec (.netPortUp port) s = execNetPortUp port s := by intros; rfl
theorem exec_hostReadCompletion : ∀ req s, exec (.hostReadCompletion req) s = execHostReadCompletion req s := by intros; rfl
theorem exec_atomicopAsCompleter : ∀ port s, exec (.atomicopAsCompleter port) s = execAtomicopAsCompleter port s := by intros; rfl
theorem exec_otherDmwr : ∀ port addr s, exec (.otherDmwr port addr) s = execOtherDmwr port addr s := by intros; rfl

end Sys2Proof.Machine
end

