-- ==== Sys2Proof/Laws/State.lean ====
section
/-! SUPPORT. One lemma per field per update of the state and of a hart, so that no proof unfolds a record update. -/

namespace Sys2Proof.Machine

/-! ## setHart -/

@[simp] theorem State.setHart_grade (s : State) (h : Nat) (v : Hart) : (s.setHart h v).grade = s.grade := rfl
@[simp] theorem State.setHart_cur (s : State) (h : Nat) (v : Hart) : (s.setHart h v).cur = s.cur := rfl
@[simp] theorem State.setHart_agenda (s : State) (h : Nat) (v : Hart) : (s.setHart h v).agenda = s.agenda := rfl
@[simp] theorem State.setHart_cycle (s : State) (h : Nat) (v : Hart) : (s.setHart h v).cycle = s.cycle := rfl
@[simp] theorem State.setHart_free (s : State) (h : Nat) (v : Hart) : (s.setHart h v).free = s.free := rfl
@[simp] theorem State.setHart_nextId (s : State) (h : Nat) (v : Hart) : (s.setHart h v).nextId = s.nextId := rfl
@[simp] theorem State.setHart_halted (s : State) (h : Nat) (v : Hart) : (s.setHart h v).halted = s.halted := rfl
@[simp] theorem State.setHart_haltCycles (s : State) (h : Nat) (v : Hart) : (s.setHart h v).haltCycles = s.haltCycles := rfl
@[simp] theorem State.setHart_mem (s : State) (h : Nat) (v : Hart) : (s.setHart h v).mem = s.mem := rfl
@[simp] theorem State.setHart_poison (s : State) (h : Nat) (v : Hart) : (s.setHart h v).poison = s.poison := rfl
@[simp] theorem State.setHart_lineKeys (s : State) (h : Nat) (v : Hart) : (s.setHart h v).lineKeys = s.lineKeys := rfl
@[simp] theorem State.setHart_frames (s : State) (h : Nat) (v : Hart) : (s.setHart h v).frames = s.frames := rfl
@[simp] theorem State.setHart_retags (s : State) (h : Nat) (v : Hart) : (s.setHart h v).retags = s.retags := rfl
@[simp] theorem State.setHart_quads (s : State) (h : Nat) (v : Hart) : (s.setHart h v).quads = s.quads := rfl
@[simp] theorem State.setHart_homes (s : State) (h : Nat) (v : Hart) : (s.setHart h v).homes = s.homes := rfl
@[simp] theorem State.setHart_slotRegs (s : State) (h : Nat) (v : Hart) : (s.setHart h v).slotRegs = s.slotRegs := rfl
@[simp] theorem State.setHart_tileRegs (s : State) (h : Nat) (v : Hart) : (s.setHart h v).tileRegs = s.tileRegs := rfl
@[simp] theorem State.setHart_fills (s : State) (h : Nat) (v : Hart) : (s.setHart h v).fills = s.fills := rfl
@[simp] theorem State.setHart_msgs (s : State) (h : Nat) (v : Hart) : (s.setHart h v).msgs = s.msgs := rfl
@[simp] theorem State.setHart_walks (s : State) (h : Nat) (v : Hart) : (s.setHart h v).walks = s.walks := rfl
@[simp] theorem State.setHart_dies (s : State) (h : Nat) (v : Hart) : (s.setHart h v).dies = s.dies := rfl
@[simp] theorem State.setHart_dieLinks (s : State) (h : Nat) (v : Hart) : (s.setHart h v).dieLinks = s.dieLinks := rfl
@[simp] theorem State.setHart_netDown (s : State) (h : Nat) (v : Hart) : (s.setHart h v).netDown = s.netDown := rfl
@[simp] theorem State.setHart_ladleInc (s : State) (h : Nat) (v : Hart) : (s.setHart h v).ladleInc = s.ladleInc := rfl
@[simp] theorem State.setHart_ladleDeaths (s : State) (h : Nat) (v : Hart) : (s.setHart h v).ladleDeaths = s.ladleDeaths := rfl
@[simp] theorem State.setHart_rtu (s : State) (h : Nat) (v : Hart) : (s.setHart h v).rtu = s.rtu := rfl
@[simp] theorem State.setHart_disp (s : State) (h : Nat) (v : Hart) : (s.setHart h v).disp = s.disp := rfl
@[simp] theorem State.setHart_heap (s : State) (h : Nat) (v : Hart) : (s.setHart h v).heap = s.heap := rfl
@[simp] theorem State.setHart_slotMap (s : State) (h : Nat) (v : Hart) : (s.setHart h v).slotMap = s.slotMap := rfl
@[simp] theorem State.setHart_ports (s : State) (h : Nat) (v : Hart) : (s.setHart h v).ports = s.ports := rfl
@[simp] theorem State.setHart_launchPorts (s : State) (h : Nat) (v : Hart) : (s.setHart h v).launchPorts = s.launchPorts := rfl
@[simp] theorem State.setHart_hostReqs (s : State) (h : Nat) (v : Hart) : (s.setHart h v).hostReqs = s.hostReqs := rfl
@[simp] theorem State.setHart_hostOut (s : State) (h : Nat) (v : Hart) : (s.setHart h v).hostOut = s.hostOut := rfl
@[simp] theorem State.setHart_power (s : State) (h : Nat) (v : Hart) : (s.setHart h v).power = s.power := rfl
@[simp] theorem State.setHart_corrected (s : State) (h : Nat) (v : Hart) : (s.setHart h v).corrected = s.corrected := rfl

/-! ## modHart -/

@[simp] theorem State.modHart_grade (s : State) (h : Nat) (f : Hart → Hart) : (s.modHart h f).grade = s.grade := rfl
@[simp] theorem State.modHart_cur (s : State) (h : Nat) (f : Hart → Hart) : (s.modHart h f).cur = s.cur := rfl
@[simp] theorem State.modHart_agenda (s : State) (h : Nat) (f : Hart → Hart) : (s.modHart h f).agenda = s.agenda := rfl
@[simp] theorem State.modHart_cycle (s : State) (h : Nat) (f : Hart → Hart) : (s.modHart h f).cycle = s.cycle := rfl
@[simp] theorem State.modHart_free (s : State) (h : Nat) (f : Hart → Hart) : (s.modHart h f).free = s.free := rfl
@[simp] theorem State.modHart_nextId (s : State) (h : Nat) (f : Hart → Hart) : (s.modHart h f).nextId = s.nextId := rfl
@[simp] theorem State.modHart_halted (s : State) (h : Nat) (f : Hart → Hart) : (s.modHart h f).halted = s.halted := rfl
@[simp] theorem State.modHart_haltCycles (s : State) (h : Nat) (f : Hart → Hart) : (s.modHart h f).haltCycles = s.haltCycles := rfl
@[simp] theorem State.modHart_mem (s : State) (h : Nat) (f : Hart → Hart) : (s.modHart h f).mem = s.mem := rfl
@[simp] theorem State.modHart_poison (s : State) (h : Nat) (f : Hart → Hart) : (s.modHart h f).poison = s.poison := rfl
@[simp] theorem State.modHart_lineKeys (s : State) (h : Nat) (f : Hart → Hart) : (s.modHart h f).lineKeys = s.lineKeys := rfl
@[simp] theorem State.modHart_frames (s : State) (h : Nat) (f : Hart → Hart) : (s.modHart h f).frames = s.frames := rfl
@[simp] theorem State.modHart_retags (s : State) (h : Nat) (f : Hart → Hart) : (s.modHart h f).retags = s.retags := rfl
@[simp] theorem State.modHart_quads (s : State) (h : Nat) (f : Hart → Hart) : (s.modHart h f).quads = s.quads := rfl
@[simp] theorem State.modHart_homes (s : State) (h : Nat) (f : Hart → Hart) : (s.modHart h f).homes = s.homes := rfl
@[simp] theorem State.modHart_slotRegs (s : State) (h : Nat) (f : Hart → Hart) : (s.modHart h f).slotRegs = s.slotRegs := rfl
@[simp] theorem State.modHart_tileRegs (s : State) (h : Nat) (f : Hart → Hart) : (s.modHart h f).tileRegs = s.tileRegs := rfl
@[simp] theorem State.modHart_fills (s : State) (h : Nat) (f : Hart → Hart) : (s.modHart h f).fills = s.fills := rfl
@[simp] theorem State.modHart_msgs (s : State) (h : Nat) (f : Hart → Hart) : (s.modHart h f).msgs = s.msgs := rfl
@[simp] theorem State.modHart_walks (s : State) (h : Nat) (f : Hart → Hart) : (s.modHart h f).walks = s.walks := rfl
@[simp] theorem State.modHart_dies (s : State) (h : Nat) (f : Hart → Hart) : (s.modHart h f).dies = s.dies := rfl
@[simp] theorem State.modHart_dieLinks (s : State) (h : Nat) (f : Hart → Hart) : (s.modHart h f).dieLinks = s.dieLinks := rfl
@[simp] theorem State.modHart_netDown (s : State) (h : Nat) (f : Hart → Hart) : (s.modHart h f).netDown = s.netDown := rfl
@[simp] theorem State.modHart_ladleInc (s : State) (h : Nat) (f : Hart → Hart) : (s.modHart h f).ladleInc = s.ladleInc := rfl
@[simp] theorem State.modHart_ladleDeaths (s : State) (h : Nat) (f : Hart → Hart) : (s.modHart h f).ladleDeaths = s.ladleDeaths := rfl
@[simp] theorem State.modHart_rtu (s : State) (h : Nat) (f : Hart → Hart) : (s.modHart h f).rtu = s.rtu := rfl
@[simp] theorem State.modHart_disp (s : State) (h : Nat) (f : Hart → Hart) : (s.modHart h f).disp = s.disp := rfl
@[simp] theorem State.modHart_heap (s : State) (h : Nat) (f : Hart → Hart) : (s.modHart h f).heap = s.heap := rfl
@[simp] theorem State.modHart_slotMap (s : State) (h : Nat) (f : Hart → Hart) : (s.modHart h f).slotMap = s.slotMap := rfl
@[simp] theorem State.modHart_ports (s : State) (h : Nat) (f : Hart → Hart) : (s.modHart h f).ports = s.ports := rfl
@[simp] theorem State.modHart_launchPorts (s : State) (h : Nat) (f : Hart → Hart) : (s.modHart h f).launchPorts = s.launchPorts := rfl
@[simp] theorem State.modHart_hostReqs (s : State) (h : Nat) (f : Hart → Hart) : (s.modHart h f).hostReqs = s.hostReqs := rfl
@[simp] theorem State.modHart_hostOut (s : State) (h : Nat) (f : Hart → Hart) : (s.modHart h f).hostOut = s.hostOut := rfl
@[simp] theorem State.modHart_power (s : State) (h : Nat) (f : Hart → Hart) : (s.modHart h f).power = s.power := rfl
@[simp] theorem State.modHart_corrected (s : State) (h : Nat) (f : Hart → Hart) : (s.modHart h f).corrected = s.corrected := rfl

/-! ## modMe -/

@[simp] theorem State.modMe_grade (s : State) (f : Hart → Hart) : (s.modMe f).grade = s.grade := rfl
@[simp] theorem State.modMe_cur (s : State) (f : Hart → Hart) : (s.modMe f).cur = s.cur := rfl
@[simp] theorem State.modMe_agenda (s : State) (f : Hart → Hart) : (s.modMe f).agenda = s.agenda := rfl
@[simp] theorem State.modMe_cycle (s : State) (f : Hart → Hart) : (s.modMe f).cycle = s.cycle := rfl
@[simp] theorem State.modMe_free (s : State) (f : Hart → Hart) : (s.modMe f).free = s.free := rfl
@[simp] theorem State.modMe_nextId (s : State) (f : Hart → Hart) : (s.modMe f).nextId = s.nextId := rfl
@[simp] theorem State.modMe_halted (s : State) (f : Hart → Hart) : (s.modMe f).halted = s.halted := rfl
@[simp] theorem State.modMe_haltCycles (s : State) (f : Hart → Hart) : (s.modMe f).haltCycles = s.haltCycles := rfl
@[simp] theorem State.modMe_mem (s : State) (f : Hart → Hart) : (s.modMe f).mem = s.mem := rfl
@[simp] theorem State.modMe_poison (s : State) (f : Hart → Hart) : (s.modMe f).poison = s.poison := rfl
@[simp] theorem State.modMe_lineKeys (s : State) (f : Hart → Hart) : (s.modMe f).lineKeys = s.lineKeys := rfl
@[simp] theorem State.modMe_frames (s : State) (f : Hart → Hart) : (s.modMe f).frames = s.frames := rfl
@[simp] theorem State.modMe_retags (s : State) (f : Hart → Hart) : (s.modMe f).retags = s.retags := rfl
@[simp] theorem State.modMe_quads (s : State) (f : Hart → Hart) : (s.modMe f).quads = s.quads := rfl
@[simp] theorem State.modMe_homes (s : State) (f : Hart → Hart) : (s.modMe f).homes = s.homes := rfl
@[simp] theorem State.modMe_slotRegs (s : State) (f : Hart → Hart) : (s.modMe f).slotRegs = s.slotRegs := rfl
@[simp] theorem State.modMe_tileRegs (s : State) (f : Hart → Hart) : (s.modMe f).tileRegs = s.tileRegs := rfl
@[simp] theorem State.modMe_fills (s : State) (f : Hart → Hart) : (s.modMe f).fills = s.fills := rfl
@[simp] theorem State.modMe_msgs (s : State) (f : Hart → Hart) : (s.modMe f).msgs = s.msgs := rfl
@[simp] theorem State.modMe_walks (s : State) (f : Hart → Hart) : (s.modMe f).walks = s.walks := rfl
@[simp] theorem State.modMe_dies (s : State) (f : Hart → Hart) : (s.modMe f).dies = s.dies := rfl
@[simp] theorem State.modMe_dieLinks (s : State) (f : Hart → Hart) : (s.modMe f).dieLinks = s.dieLinks := rfl
@[simp] theorem State.modMe_netDown (s : State) (f : Hart → Hart) : (s.modMe f).netDown = s.netDown := rfl
@[simp] theorem State.modMe_ladleInc (s : State) (f : Hart → Hart) : (s.modMe f).ladleInc = s.ladleInc := rfl
@[simp] theorem State.modMe_ladleDeaths (s : State) (f : Hart → Hart) : (s.modMe f).ladleDeaths = s.ladleDeaths := rfl
@[simp] theorem State.modMe_rtu (s : State) (f : Hart → Hart) : (s.modMe f).rtu = s.rtu := rfl
@[simp] theorem State.modMe_disp (s : State) (f : Hart → Hart) : (s.modMe f).disp = s.disp := rfl
@[simp] theorem State.modMe_heap (s : State) (f : Hart → Hart) : (s.modMe f).heap = s.heap := rfl
@[simp] theorem State.modMe_slotMap (s : State) (f : Hart → Hart) : (s.modMe f).slotMap = s.slotMap := rfl
@[simp] theorem State.modMe_ports (s : State) (f : Hart → Hart) : (s.modMe f).ports = s.ports := rfl
@[simp] theorem State.modMe_launchPorts (s : State) (f : Hart → Hart) : (s.modMe f).launchPorts = s.launchPorts := rfl
@[simp] theorem State.modMe_hostReqs (s : State) (f : Hart → Hart) : (s.modMe f).hostReqs = s.hostReqs := rfl
@[simp] theorem State.modMe_hostOut (s : State) (f : Hart → Hart) : (s.modMe f).hostOut = s.hostOut := rfl
@[simp] theorem State.modMe_power (s : State) (f : Hart → Hart) : (s.modMe f).power = s.power := rfl
@[simp] theorem State.modMe_corrected (s : State) (f : Hart → Hart) : (s.modMe f).corrected = s.corrected := rfl

/-! ## setQuad -/

@[simp] theorem State.setQuad_grade (s : State) (q : Nat) (v : Quad) : (s.setQuad q v).grade = s.grade := rfl
@[simp] theorem State.setQuad_cur (s : State) (q : Nat) (v : Quad) : (s.setQuad q v).cur = s.cur := rfl
@[simp] theorem State.setQuad_agenda (s : State) (q : Nat) (v : Quad) : (s.setQuad q v).agenda = s.agenda := rfl
@[simp] theorem State.setQuad_cycle (s : State) (q : Nat) (v : Quad) : (s.setQuad q v).cycle = s.cycle := rfl
@[simp] theorem State.setQuad_free (s : State) (q : Nat) (v : Quad) : (s.setQuad q v).free = s.free := rfl
@[simp] theorem State.setQuad_nextId (s : State) (q : Nat) (v : Quad) : (s.setQuad q v).nextId = s.nextId := rfl
@[simp] theorem State.setQuad_halted (s : State) (q : Nat) (v : Quad) : (s.setQuad q v).halted = s.halted := rfl
@[simp] theorem State.setQuad_haltCycles (s : State) (q : Nat) (v : Quad) : (s.setQuad q v).haltCycles = s.haltCycles := rfl
@[simp] theorem State.setQuad_mem (s : State) (q : Nat) (v : Quad) : (s.setQuad q v).mem = s.mem := rfl
@[simp] theorem State.setQuad_poison (s : State) (q : Nat) (v : Quad) : (s.setQuad q v).poison = s.poison := rfl
@[simp] theorem State.setQuad_lineKeys (s : State) (q : Nat) (v : Quad) : (s.setQuad q v).lineKeys = s.lineKeys := rfl
@[simp] theorem State.setQuad_frames (s : State) (q : Nat) (v : Quad) : (s.setQuad q v).frames = s.frames := rfl
@[simp] theorem State.setQuad_retags (s : State) (q : Nat) (v : Quad) : (s.setQuad q v).retags = s.retags := rfl
@[simp] theorem State.setQuad_harts (s : State) (q : Nat) (v : Quad) : (s.setQuad q v).harts = s.harts := rfl
@[simp] theorem State.setQuad_homes (s : State) (q : Nat) (v : Quad) : (s.setQuad q v).homes = s.homes := rfl
@[simp] theorem State.setQuad_slotRegs (s : State) (q : Nat) (v : Quad) : (s.setQuad q v).slotRegs = s.slotRegs := rfl
@[simp] theorem State.setQuad_tileRegs (s : State) (q : Nat) (v : Quad) : (s.setQuad q v).tileRegs = s.tileRegs := rfl
@[simp] theorem State.setQuad_fills (s : State) (q : Nat) (v : Quad) : (s.setQuad q v).fills = s.fills := rfl
@[simp] theorem State.setQuad_msgs (s : State) (q : Nat) (v : Quad) : (s.setQuad q v).msgs = s.msgs := rfl
@[simp] theorem State.setQuad_walks (s : State) (q : Nat) (v : Quad) : (s.setQuad q v).walks = s.walks := rfl
@[simp] theorem State.setQuad_dies (s : State) (q : Nat) (v : Quad) : (s.setQuad q v).dies = s.dies := rfl
@[simp] theorem State.setQuad_dieLinks (s : State) (q : Nat) (v : Quad) : (s.setQuad q v).dieLinks = s.dieLinks := rfl
@[simp] theorem State.setQuad_netDown (s : State) (q : Nat) (v : Quad) : (s.setQuad q v).netDown = s.netDown := rfl
@[simp] theorem State.setQuad_ladleInc (s : State) (q : Nat) (v : Quad) : (s.setQuad q v).ladleInc = s.ladleInc := rfl
@[simp] theorem State.setQuad_ladleDeaths (s : State) (q : Nat) (v : Quad) : (s.setQuad q v).ladleDeaths = s.ladleDeaths := rfl
@[simp] theorem State.setQuad_rtu (s : State) (q : Nat) (v : Quad) : (s.setQuad q v).rtu = s.rtu := rfl
@[simp] theorem State.setQuad_disp (s : State) (q : Nat) (v : Quad) : (s.setQuad q v).disp = s.disp := rfl
@[simp] theorem State.setQuad_heap (s : State) (q : Nat) (v : Quad) : (s.setQuad q v).heap = s.heap := rfl
@[simp] theorem State.setQuad_slotMap (s : State) (q : Nat) (v : Quad) : (s.setQuad q v).slotMap = s.slotMap := rfl
@[simp] theorem State.setQuad_ports (s : State) (q : Nat) (v : Quad) : (s.setQuad q v).ports = s.ports := rfl
@[simp] theorem State.setQuad_launchPorts (s : State) (q : Nat) (v : Quad) : (s.setQuad q v).launchPorts = s.launchPorts := rfl
@[simp] theorem State.setQuad_hostReqs (s : State) (q : Nat) (v : Quad) : (s.setQuad q v).hostReqs = s.hostReqs := rfl
@[simp] theorem State.setQuad_hostOut (s : State) (q : Nat) (v : Quad) : (s.setQuad q v).hostOut = s.hostOut := rfl
@[simp] theorem State.setQuad_power (s : State) (q : Nat) (v : Quad) : (s.setQuad q v).power = s.power := rfl
@[simp] theorem State.setQuad_corrected (s : State) (q : Nat) (v : Quad) : (s.setQuad q v).corrected = s.corrected := rfl

/-! ## modQuad -/

@[simp] theorem State.modQuad_grade (s : State) (q : Nat) (f : Quad → Quad) : (s.modQuad q f).grade = s.grade := rfl
@[simp] theorem State.modQuad_cur (s : State) (q : Nat) (f : Quad → Quad) : (s.modQuad q f).cur = s.cur := rfl
@[simp] theorem State.modQuad_agenda (s : State) (q : Nat) (f : Quad → Quad) : (s.modQuad q f).agenda = s.agenda := rfl
@[simp] theorem State.modQuad_cycle (s : State) (q : Nat) (f : Quad → Quad) : (s.modQuad q f).cycle = s.cycle := rfl
@[simp] theorem State.modQuad_free (s : State) (q : Nat) (f : Quad → Quad) : (s.modQuad q f).free = s.free := rfl
@[simp] theorem State.modQuad_nextId (s : State) (q : Nat) (f : Quad → Quad) : (s.modQuad q f).nextId = s.nextId := rfl
@[simp] theorem State.modQuad_halted (s : State) (q : Nat) (f : Quad → Quad) : (s.modQuad q f).halted = s.halted := rfl
@[simp] theorem State.modQuad_haltCycles (s : State) (q : Nat) (f : Quad → Quad) : (s.modQuad q f).haltCycles = s.haltCycles := rfl
@[simp] theorem State.modQuad_mem (s : State) (q : Nat) (f : Quad → Quad) : (s.modQuad q f).mem = s.mem := rfl
@[simp] theorem State.modQuad_poison (s : State) (q : Nat) (f : Quad → Quad) : (s.modQuad q f).poison = s.poison := rfl
@[simp] theorem State.modQuad_lineKeys (s : State) (q : Nat) (f : Quad → Quad) : (s.modQuad q f).lineKeys = s.lineKeys := rfl
@[simp] theorem State.modQuad_frames (s : State) (q : Nat) (f : Quad → Quad) : (s.modQuad q f).frames = s.frames := rfl
@[simp] theorem State.modQuad_retags (s : State) (q : Nat) (f : Quad → Quad) : (s.modQuad q f).retags = s.retags := rfl
@[simp] theorem State.modQuad_harts (s : State) (q : Nat) (f : Quad → Quad) : (s.modQuad q f).harts = s.harts := rfl
@[simp] theorem State.modQuad_homes (s : State) (q : Nat) (f : Quad → Quad) : (s.modQuad q f).homes = s.homes := rfl
@[simp] theorem State.modQuad_slotRegs (s : State) (q : Nat) (f : Quad → Quad) : (s.modQuad q f).slotRegs = s.slotRegs := rfl
@[simp] theorem State.modQuad_tileRegs (s : State) (q : Nat) (f : Quad → Quad) : (s.modQuad q f).tileRegs = s.tileRegs := rfl
@[simp] theorem State.modQuad_fills (s : State) (q : Nat) (f : Quad → Quad) : (s.modQuad q f).fills = s.fills := rfl
@[simp] theorem State.modQuad_msgs (s : State) (q : Nat) (f : Quad → Quad) : (s.modQuad q f).msgs = s.msgs := rfl
@[simp] theorem State.modQuad_walks (s : State) (q : Nat) (f : Quad → Quad) : (s.modQuad q f).walks = s.walks := rfl
@[simp] theorem State.modQuad_dies (s : State) (q : Nat) (f : Quad → Quad) : (s.modQuad q f).dies = s.dies := rfl
@[simp] theorem State.modQuad_dieLinks (s : State) (q : Nat) (f : Quad → Quad) : (s.modQuad q f).dieLinks = s.dieLinks := rfl
@[simp] theorem State.modQuad_netDown (s : State) (q : Nat) (f : Quad → Quad) : (s.modQuad q f).netDown = s.netDown := rfl
@[simp] theorem State.modQuad_ladleInc (s : State) (q : Nat) (f : Quad → Quad) : (s.modQuad q f).ladleInc = s.ladleInc := rfl
@[simp] theorem State.modQuad_ladleDeaths (s : State) (q : Nat) (f : Quad → Quad) : (s.modQuad q f).ladleDeaths = s.ladleDeaths := rfl
@[simp] theorem State.modQuad_rtu (s : State) (q : Nat) (f : Quad → Quad) : (s.modQuad q f).rtu = s.rtu := rfl
@[simp] theorem State.modQuad_disp (s : State) (q : Nat) (f : Quad → Quad) : (s.modQuad q f).disp = s.disp := rfl
@[simp] theorem State.modQuad_heap (s : State) (q : Nat) (f : Quad → Quad) : (s.modQuad q f).heap = s.heap := rfl
@[simp] theorem State.modQuad_slotMap (s : State) (q : Nat) (f : Quad → Quad) : (s.modQuad q f).slotMap = s.slotMap := rfl
@[simp] theorem State.modQuad_ports (s : State) (q : Nat) (f : Quad → Quad) : (s.modQuad q f).ports = s.ports := rfl
@[simp] theorem State.modQuad_launchPorts (s : State) (q : Nat) (f : Quad → Quad) : (s.modQuad q f).launchPorts = s.launchPorts := rfl
@[simp] theorem State.modQuad_hostReqs (s : State) (q : Nat) (f : Quad → Quad) : (s.modQuad q f).hostReqs = s.hostReqs := rfl
@[simp] theorem State.modQuad_hostOut (s : State) (q : Nat) (f : Quad → Quad) : (s.modQuad q f).hostOut = s.hostOut := rfl
@[simp] theorem State.modQuad_power (s : State) (q : Nat) (f : Quad → Quad) : (s.modQuad q f).power = s.power := rfl
@[simp] theorem State.modQuad_corrected (s : State) (q : Nat) (f : Quad → Quad) : (s.modQuad q f).corrected = s.corrected := rfl

/-! ## setHome -/

@[simp] theorem State.setHome_grade (s : State) (h : Nat) (v : Home) : (s.setHome h v).grade = s.grade := rfl
@[simp] theorem State.setHome_cur (s : State) (h : Nat) (v : Home) : (s.setHome h v).cur = s.cur := rfl
@[simp] theorem State.setHome_agenda (s : State) (h : Nat) (v : Home) : (s.setHome h v).agenda = s.agenda := rfl
@[simp] theorem State.setHome_cycle (s : State) (h : Nat) (v : Home) : (s.setHome h v).cycle = s.cycle := rfl
@[simp] theorem State.setHome_free (s : State) (h : Nat) (v : Home) : (s.setHome h v).free = s.free := rfl
@[simp] theorem State.setHome_nextId (s : State) (h : Nat) (v : Home) : (s.setHome h v).nextId = s.nextId := rfl
@[simp] theorem State.setHome_halted (s : State) (h : Nat) (v : Home) : (s.setHome h v).halted = s.halted := rfl
@[simp] theorem State.setHome_haltCycles (s : State) (h : Nat) (v : Home) : (s.setHome h v).haltCycles = s.haltCycles := rfl
@[simp] theorem State.setHome_mem (s : State) (h : Nat) (v : Home) : (s.setHome h v).mem = s.mem := rfl
@[simp] theorem State.setHome_poison (s : State) (h : Nat) (v : Home) : (s.setHome h v).poison = s.poison := rfl
@[simp] theorem State.setHome_lineKeys (s : State) (h : Nat) (v : Home) : (s.setHome h v).lineKeys = s.lineKeys := rfl
@[simp] theorem State.setHome_frames (s : State) (h : Nat) (v : Home) : (s.setHome h v).frames = s.frames := rfl
@[simp] theorem State.setHome_retags (s : State) (h : Nat) (v : Home) : (s.setHome h v).retags = s.retags := rfl
@[simp] theorem State.setHome_harts (s : State) (h : Nat) (v : Home) : (s.setHome h v).harts = s.harts := rfl
@[simp] theorem State.setHome_quads (s : State) (h : Nat) (v : Home) : (s.setHome h v).quads = s.quads := rfl
@[simp] theorem State.setHome_slotRegs (s : State) (h : Nat) (v : Home) : (s.setHome h v).slotRegs = s.slotRegs := rfl
@[simp] theorem State.setHome_tileRegs (s : State) (h : Nat) (v : Home) : (s.setHome h v).tileRegs = s.tileRegs := rfl
@[simp] theorem State.setHome_fills (s : State) (h : Nat) (v : Home) : (s.setHome h v).fills = s.fills := rfl
@[simp] theorem State.setHome_msgs (s : State) (h : Nat) (v : Home) : (s.setHome h v).msgs = s.msgs := rfl
@[simp] theorem State.setHome_walks (s : State) (h : Nat) (v : Home) : (s.setHome h v).walks = s.walks := rfl
@[simp] theorem State.setHome_dies (s : State) (h : Nat) (v : Home) : (s.setHome h v).dies = s.dies := rfl
@[simp] theorem State.setHome_dieLinks (s : State) (h : Nat) (v : Home) : (s.setHome h v).dieLinks = s.dieLinks := rfl
@[simp] theorem State.setHome_netDown (s : State) (h : Nat) (v : Home) : (s.setHome h v).netDown = s.netDown := rfl
@[simp] theorem State.setHome_ladleInc (s : State) (h : Nat) (v : Home) : (s.setHome h v).ladleInc = s.ladleInc := rfl
@[simp] theorem State.setHome_ladleDeaths (s : State) (h : Nat) (v : Home) : (s.setHome h v).ladleDeaths = s.ladleDeaths := rfl
@[simp] theorem State.setHome_rtu (s : State) (h : Nat) (v : Home) : (s.setHome h v).rtu = s.rtu := rfl
@[simp] theorem State.setHome_disp (s : State) (h : Nat) (v : Home) : (s.setHome h v).disp = s.disp := rfl
@[simp] theorem State.setHome_heap (s : State) (h : Nat) (v : Home) : (s.setHome h v).heap = s.heap := rfl
@[simp] theorem State.setHome_slotMap (s : State) (h : Nat) (v : Home) : (s.setHome h v).slotMap = s.slotMap := rfl
@[simp] theorem State.setHome_ports (s : State) (h : Nat) (v : Home) : (s.setHome h v).ports = s.ports := rfl
@[simp] theorem State.setHome_launchPorts (s : State) (h : Nat) (v : Home) : (s.setHome h v).launchPorts = s.launchPorts := rfl
@[simp] theorem State.setHome_hostReqs (s : State) (h : Nat) (v : Home) : (s.setHome h v).hostReqs = s.hostReqs := rfl
@[simp] theorem State.setHome_hostOut (s : State) (h : Nat) (v : Home) : (s.setHome h v).hostOut = s.hostOut := rfl
@[simp] theorem State.setHome_power (s : State) (h : Nat) (v : Home) : (s.setHome h v).power = s.power := rfl
@[simp] theorem State.setHome_corrected (s : State) (h : Nat) (v : Home) : (s.setHome h v).corrected = s.corrected := rfl

/-! ## modHome -/

@[simp] theorem State.modHome_grade (s : State) (h : Nat) (f : Home → Home) : (s.modHome h f).grade = s.grade := rfl
@[simp] theorem State.modHome_cur (s : State) (h : Nat) (f : Home → Home) : (s.modHome h f).cur = s.cur := rfl
@[simp] theorem State.modHome_agenda (s : State) (h : Nat) (f : Home → Home) : (s.modHome h f).agenda = s.agenda := rfl
@[simp] theorem State.modHome_cycle (s : State) (h : Nat) (f : Home → Home) : (s.modHome h f).cycle = s.cycle := rfl
@[simp] theorem State.modHome_free (s : State) (h : Nat) (f : Home → Home) : (s.modHome h f).free = s.free := rfl
@[simp] theorem State.modHome_nextId (s : State) (h : Nat) (f : Home → Home) : (s.modHome h f).nextId = s.nextId := rfl
@[simp] theorem State.modHome_halted (s : State) (h : Nat) (f : Home → Home) : (s.modHome h f).halted = s.halted := rfl
@[simp] theorem State.modHome_haltCycles (s : State) (h : Nat) (f : Home → Home) : (s.modHome h f).haltCycles = s.haltCycles := rfl
@[simp] theorem State.modHome_mem (s : State) (h : Nat) (f : Home → Home) : (s.modHome h f).mem = s.mem := rfl
@[simp] theorem State.modHome_poison (s : State) (h : Nat) (f : Home → Home) : (s.modHome h f).poison = s.poison := rfl
@[simp] theorem State.modHome_lineKeys (s : State) (h : Nat) (f : Home → Home) : (s.modHome h f).lineKeys = s.lineKeys := rfl
@[simp] theorem State.modHome_frames (s : State) (h : Nat) (f : Home → Home) : (s.modHome h f).frames = s.frames := rfl
@[simp] theorem State.modHome_retags (s : State) (h : Nat) (f : Home → Home) : (s.modHome h f).retags = s.retags := rfl
@[simp] theorem State.modHome_harts (s : State) (h : Nat) (f : Home → Home) : (s.modHome h f).harts = s.harts := rfl
@[simp] theorem State.modHome_quads (s : State) (h : Nat) (f : Home → Home) : (s.modHome h f).quads = s.quads := rfl
@[simp] theorem State.modHome_slotRegs (s : State) (h : Nat) (f : Home → Home) : (s.modHome h f).slotRegs = s.slotRegs := rfl
@[simp] theorem State.modHome_tileRegs (s : State) (h : Nat) (f : Home → Home) : (s.modHome h f).tileRegs = s.tileRegs := rfl
@[simp] theorem State.modHome_fills (s : State) (h : Nat) (f : Home → Home) : (s.modHome h f).fills = s.fills := rfl
@[simp] theorem State.modHome_msgs (s : State) (h : Nat) (f : Home → Home) : (s.modHome h f).msgs = s.msgs := rfl
@[simp] theorem State.modHome_walks (s : State) (h : Nat) (f : Home → Home) : (s.modHome h f).walks = s.walks := rfl
@[simp] theorem State.modHome_dies (s : State) (h : Nat) (f : Home → Home) : (s.modHome h f).dies = s.dies := rfl
@[simp] theorem State.modHome_dieLinks (s : State) (h : Nat) (f : Home → Home) : (s.modHome h f).dieLinks = s.dieLinks := rfl
@[simp] theorem State.modHome_netDown (s : State) (h : Nat) (f : Home → Home) : (s.modHome h f).netDown = s.netDown := rfl
@[simp] theorem State.modHome_ladleInc (s : State) (h : Nat) (f : Home → Home) : (s.modHome h f).ladleInc = s.ladleInc := rfl
@[simp] theorem State.modHome_ladleDeaths (s : State) (h : Nat) (f : Home → Home) : (s.modHome h f).ladleDeaths = s.ladleDeaths := rfl
@[simp] theorem State.modHome_rtu (s : State) (h : Nat) (f : Home → Home) : (s.modHome h f).rtu = s.rtu := rfl
@[simp] theorem State.modHome_disp (s : State) (h : Nat) (f : Home → Home) : (s.modHome h f).disp = s.disp := rfl
@[simp] theorem State.modHome_heap (s : State) (h : Nat) (f : Home → Home) : (s.modHome h f).heap = s.heap := rfl
@[simp] theorem State.modHome_slotMap (s : State) (h : Nat) (f : Home → Home) : (s.modHome h f).slotMap = s.slotMap := rfl
@[simp] theorem State.modHome_ports (s : State) (h : Nat) (f : Home → Home) : (s.modHome h f).ports = s.ports := rfl
@[simp] theorem State.modHome_launchPorts (s : State) (h : Nat) (f : Home → Home) : (s.modHome h f).launchPorts = s.launchPorts := rfl
@[simp] theorem State.modHome_hostReqs (s : State) (h : Nat) (f : Home → Home) : (s.modHome h f).hostReqs = s.hostReqs := rfl
@[simp] theorem State.modHome_hostOut (s : State) (h : Nat) (f : Home → Home) : (s.modHome h f).hostOut = s.hostOut := rfl
@[simp] theorem State.modHome_power (s : State) (h : Nat) (f : Home → Home) : (s.modHome h f).power = s.power := rfl
@[simp] theorem State.modHome_corrected (s : State) (h : Nat) (f : Home → Home) : (s.modHome h f).corrected = s.corrected := rfl

/-! ## modPort -/

@[simp] theorem State.modPort_grade (s : State) (p : Nat) (f : Port → Port) : (s.modPort p f).grade = s.grade := rfl
@[simp] theorem State.modPort_cur (s : State) (p : Nat) (f : Port → Port) : (s.modPort p f).cur = s.cur := rfl
@[simp] theorem State.modPort_agenda (s : State) (p : Nat) (f : Port → Port) : (s.modPort p f).agenda = s.agenda := rfl
@[simp] theorem State.modPort_cycle (s : State) (p : Nat) (f : Port → Port) : (s.modPort p f).cycle = s.cycle := rfl
@[simp] theorem State.modPort_free (s : State) (p : Nat) (f : Port → Port) : (s.modPort p f).free = s.free := rfl
@[simp] theorem State.modPort_nextId (s : State) (p : Nat) (f : Port → Port) : (s.modPort p f).nextId = s.nextId := rfl
@[simp] theorem State.modPort_halted (s : State) (p : Nat) (f : Port → Port) : (s.modPort p f).halted = s.halted := rfl
@[simp] theorem State.modPort_haltCycles (s : State) (p : Nat) (f : Port → Port) : (s.modPort p f).haltCycles = s.haltCycles := rfl
@[simp] theorem State.modPort_mem (s : State) (p : Nat) (f : Port → Port) : (s.modPort p f).mem = s.mem := rfl
@[simp] theorem State.modPort_poison (s : State) (p : Nat) (f : Port → Port) : (s.modPort p f).poison = s.poison := rfl
@[simp] theorem State.modPort_lineKeys (s : State) (p : Nat) (f : Port → Port) : (s.modPort p f).lineKeys = s.lineKeys := rfl
@[simp] theorem State.modPort_frames (s : State) (p : Nat) (f : Port → Port) : (s.modPort p f).frames = s.frames := rfl
@[simp] theorem State.modPort_retags (s : State) (p : Nat) (f : Port → Port) : (s.modPort p f).retags = s.retags := rfl
@[simp] theorem State.modPort_harts (s : State) (p : Nat) (f : Port → Port) : (s.modPort p f).harts = s.harts := rfl
@[simp] theorem State.modPort_quads (s : State) (p : Nat) (f : Port → Port) : (s.modPort p f).quads = s.quads := rfl
@[simp] theorem State.modPort_homes (s : State) (p : Nat) (f : Port → Port) : (s.modPort p f).homes = s.homes := rfl
@[simp] theorem State.modPort_slotRegs (s : State) (p : Nat) (f : Port → Port) : (s.modPort p f).slotRegs = s.slotRegs := rfl
@[simp] theorem State.modPort_tileRegs (s : State) (p : Nat) (f : Port → Port) : (s.modPort p f).tileRegs = s.tileRegs := rfl
@[simp] theorem State.modPort_fills (s : State) (p : Nat) (f : Port → Port) : (s.modPort p f).fills = s.fills := rfl
@[simp] theorem State.modPort_msgs (s : State) (p : Nat) (f : Port → Port) : (s.modPort p f).msgs = s.msgs := rfl
@[simp] theorem State.modPort_walks (s : State) (p : Nat) (f : Port → Port) : (s.modPort p f).walks = s.walks := rfl
@[simp] theorem State.modPort_dies (s : State) (p : Nat) (f : Port → Port) : (s.modPort p f).dies = s.dies := rfl
@[simp] theorem State.modPort_dieLinks (s : State) (p : Nat) (f : Port → Port) : (s.modPort p f).dieLinks = s.dieLinks := rfl
@[simp] theorem State.modPort_netDown (s : State) (p : Nat) (f : Port → Port) : (s.modPort p f).netDown = s.netDown := rfl
@[simp] theorem State.modPort_ladleInc (s : State) (p : Nat) (f : Port → Port) : (s.modPort p f).ladleInc = s.ladleInc := rfl
@[simp] theorem State.modPort_ladleDeaths (s : State) (p : Nat) (f : Port → Port) : (s.modPort p f).ladleDeaths = s.ladleDeaths := rfl
@[simp] theorem State.modPort_rtu (s : State) (p : Nat) (f : Port → Port) : (s.modPort p f).rtu = s.rtu := rfl
@[simp] theorem State.modPort_disp (s : State) (p : Nat) (f : Port → Port) : (s.modPort p f).disp = s.disp := rfl
@[simp] theorem State.modPort_heap (s : State) (p : Nat) (f : Port → Port) : (s.modPort p f).heap = s.heap := rfl
@[simp] theorem State.modPort_slotMap (s : State) (p : Nat) (f : Port → Port) : (s.modPort p f).slotMap = s.slotMap := rfl
@[simp] theorem State.modPort_launchPorts (s : State) (p : Nat) (f : Port → Port) : (s.modPort p f).launchPorts = s.launchPorts := rfl
@[simp] theorem State.modPort_hostReqs (s : State) (p : Nat) (f : Port → Port) : (s.modPort p f).hostReqs = s.hostReqs := rfl
@[simp] theorem State.modPort_hostOut (s : State) (p : Nat) (f : Port → Port) : (s.modPort p f).hostOut = s.hostOut := rfl
@[simp] theorem State.modPort_power (s : State) (p : Nat) (f : Port → Port) : (s.modPort p f).power = s.power := rfl
@[simp] theorem State.modPort_corrected (s : State) (p : Nat) (f : Port → Port) : (s.modPort p f).corrected = s.corrected := rfl

/-! ## modRtu -/

@[simp] theorem State.modRtu_grade (s : State) (f : Rtu → Rtu) : (s.modRtu f).grade = s.grade := rfl
@[simp] theorem State.modRtu_cur (s : State) (f : Rtu → Rtu) : (s.modRtu f).cur = s.cur := rfl
@[simp] theorem State.modRtu_agenda (s : State) (f : Rtu → Rtu) : (s.modRtu f).agenda = s.agenda := rfl
@[simp] theorem State.modRtu_cycle (s : State) (f : Rtu → Rtu) : (s.modRtu f).cycle = s.cycle := rfl
@[simp] theorem State.modRtu_free (s : State) (f : Rtu → Rtu) : (s.modRtu f).free = s.free := rfl
@[simp] theorem State.modRtu_nextId (s : State) (f : Rtu → Rtu) : (s.modRtu f).nextId = s.nextId := rfl
@[simp] theorem State.modRtu_halted (s : State) (f : Rtu → Rtu) : (s.modRtu f).halted = s.halted := rfl
@[simp] theorem State.modRtu_haltCycles (s : State) (f : Rtu → Rtu) : (s.modRtu f).haltCycles = s.haltCycles := rfl
@[simp] theorem State.modRtu_mem (s : State) (f : Rtu → Rtu) : (s.modRtu f).mem = s.mem := rfl
@[simp] theorem State.modRtu_poison (s : State) (f : Rtu → Rtu) : (s.modRtu f).poison = s.poison := rfl
@[simp] theorem State.modRtu_lineKeys (s : State) (f : Rtu → Rtu) : (s.modRtu f).lineKeys = s.lineKeys := rfl
@[simp] theorem State.modRtu_frames (s : State) (f : Rtu → Rtu) : (s.modRtu f).frames = s.frames := rfl
@[simp] theorem State.modRtu_retags (s : State) (f : Rtu → Rtu) : (s.modRtu f).retags = s.retags := rfl
@[simp] theorem State.modRtu_harts (s : State) (f : Rtu → Rtu) : (s.modRtu f).harts = s.harts := rfl
@[simp] theorem State.modRtu_quads (s : State) (f : Rtu → Rtu) : (s.modRtu f).quads = s.quads := rfl
@[simp] theorem State.modRtu_homes (s : State) (f : Rtu → Rtu) : (s.modRtu f).homes = s.homes := rfl
@[simp] theorem State.modRtu_slotRegs (s : State) (f : Rtu → Rtu) : (s.modRtu f).slotRegs = s.slotRegs := rfl
@[simp] theorem State.modRtu_tileRegs (s : State) (f : Rtu → Rtu) : (s.modRtu f).tileRegs = s.tileRegs := rfl
@[simp] theorem State.modRtu_fills (s : State) (f : Rtu → Rtu) : (s.modRtu f).fills = s.fills := rfl
@[simp] theorem State.modRtu_msgs (s : State) (f : Rtu → Rtu) : (s.modRtu f).msgs = s.msgs := rfl
@[simp] theorem State.modRtu_walks (s : State) (f : Rtu → Rtu) : (s.modRtu f).walks = s.walks := rfl
@[simp] theorem State.modRtu_dies (s : State) (f : Rtu → Rtu) : (s.modRtu f).dies = s.dies := rfl
@[simp] theorem State.modRtu_dieLinks (s : State) (f : Rtu → Rtu) : (s.modRtu f).dieLinks = s.dieLinks := rfl
@[simp] theorem State.modRtu_netDown (s : State) (f : Rtu → Rtu) : (s.modRtu f).netDown = s.netDown := rfl
@[simp] theorem State.modRtu_ladleInc (s : State) (f : Rtu → Rtu) : (s.modRtu f).ladleInc = s.ladleInc := rfl
@[simp] theorem State.modRtu_ladleDeaths (s : State) (f : Rtu → Rtu) : (s.modRtu f).ladleDeaths = s.ladleDeaths := rfl
@[simp] theorem State.modRtu_disp (s : State) (f : Rtu → Rtu) : (s.modRtu f).disp = s.disp := rfl
@[simp] theorem State.modRtu_heap (s : State) (f : Rtu → Rtu) : (s.modRtu f).heap = s.heap := rfl
@[simp] theorem State.modRtu_slotMap (s : State) (f : Rtu → Rtu) : (s.modRtu f).slotMap = s.slotMap := rfl
@[simp] theorem State.modRtu_ports (s : State) (f : Rtu → Rtu) : (s.modRtu f).ports = s.ports := rfl
@[simp] theorem State.modRtu_launchPorts (s : State) (f : Rtu → Rtu) : (s.modRtu f).launchPorts = s.launchPorts := rfl
@[simp] theorem State.modRtu_hostReqs (s : State) (f : Rtu → Rtu) : (s.modRtu f).hostReqs = s.hostReqs := rfl
@[simp] theorem State.modRtu_hostOut (s : State) (f : Rtu → Rtu) : (s.modRtu f).hostOut = s.hostOut := rfl
@[simp] theorem State.modRtu_power (s : State) (f : Rtu → Rtu) : (s.modRtu f).power = s.power := rfl
@[simp] theorem State.modRtu_corrected (s : State) (f : Rtu → Rtu) : (s.modRtu f).corrected = s.corrected := rfl

/-! ## modDisp -/

@[simp] theorem State.modDisp_grade (s : State) (f : Disp → Disp) : (s.modDisp f).grade = s.grade := rfl
@[simp] theorem State.modDisp_cur (s : State) (f : Disp → Disp) : (s.modDisp f).cur = s.cur := rfl
@[simp] theorem State.modDisp_agenda (s : State) (f : Disp → Disp) : (s.modDisp f).agenda = s.agenda := rfl
@[simp] theorem State.modDisp_cycle (s : State) (f : Disp → Disp) : (s.modDisp f).cycle = s.cycle := rfl
@[simp] theorem State.modDisp_free (s : State) (f : Disp → Disp) : (s.modDisp f).free = s.free := rfl
@[simp] theorem State.modDisp_nextId (s : State) (f : Disp → Disp) : (s.modDisp f).nextId = s.nextId := rfl
@[simp] theorem State.modDisp_halted (s : State) (f : Disp → Disp) : (s.modDisp f).halted = s.halted := rfl
@[simp] theorem State.modDisp_haltCycles (s : State) (f : Disp → Disp) : (s.modDisp f).haltCycles = s.haltCycles := rfl
@[simp] theorem State.modDisp_mem (s : State) (f : Disp → Disp) : (s.modDisp f).mem = s.mem := rfl
@[simp] theorem State.modDisp_poison (s : State) (f : Disp → Disp) : (s.modDisp f).poison = s.poison := rfl
@[simp] theorem State.modDisp_lineKeys (s : State) (f : Disp → Disp) : (s.modDisp f).lineKeys = s.lineKeys := rfl
@[simp] theorem State.modDisp_frames (s : State) (f : Disp → Disp) : (s.modDisp f).frames = s.frames := rfl
@[simp] theorem State.modDisp_retags (s : State) (f : Disp → Disp) : (s.modDisp f).retags = s.retags := rfl
@[simp] theorem State.modDisp_harts (s : State) (f : Disp → Disp) : (s.modDisp f).harts = s.harts := rfl
@[simp] theorem State.modDisp_quads (s : State) (f : Disp → Disp) : (s.modDisp f).quads = s.quads := rfl
@[simp] theorem State.modDisp_homes (s : State) (f : Disp → Disp) : (s.modDisp f).homes = s.homes := rfl
@[simp] theorem State.modDisp_slotRegs (s : State) (f : Disp → Disp) : (s.modDisp f).slotRegs = s.slotRegs := rfl
@[simp] theorem State.modDisp_tileRegs (s : State) (f : Disp → Disp) : (s.modDisp f).tileRegs = s.tileRegs := rfl
@[simp] theorem State.modDisp_fills (s : State) (f : Disp → Disp) : (s.modDisp f).fills = s.fills := rfl
@[simp] theorem State.modDisp_msgs (s : State) (f : Disp → Disp) : (s.modDisp f).msgs = s.msgs := rfl
@[simp] theorem State.modDisp_walks (s : State) (f : Disp → Disp) : (s.modDisp f).walks = s.walks := rfl
@[simp] theorem State.modDisp_dies (s : State) (f : Disp → Disp) : (s.modDisp f).dies = s.dies := rfl
@[simp] theorem State.modDisp_dieLinks (s : State) (f : Disp → Disp) : (s.modDisp f).dieLinks = s.dieLinks := rfl
@[simp] theorem State.modDisp_netDown (s : State) (f : Disp → Disp) : (s.modDisp f).netDown = s.netDown := rfl
@[simp] theorem State.modDisp_ladleInc (s : State) (f : Disp → Disp) : (s.modDisp f).ladleInc = s.ladleInc := rfl
@[simp] theorem State.modDisp_ladleDeaths (s : State) (f : Disp → Disp) : (s.modDisp f).ladleDeaths = s.ladleDeaths := rfl
@[simp] theorem State.modDisp_rtu (s : State) (f : Disp → Disp) : (s.modDisp f).rtu = s.rtu := rfl
@[simp] theorem State.modDisp_heap (s : State) (f : Disp → Disp) : (s.modDisp f).heap = s.heap := rfl
@[simp] theorem State.modDisp_slotMap (s : State) (f : Disp → Disp) : (s.modDisp f).slotMap = s.slotMap := rfl
@[simp] theorem State.modDisp_ports (s : State) (f : Disp → Disp) : (s.modDisp f).ports = s.ports := rfl
@[simp] theorem State.modDisp_launchPorts (s : State) (f : Disp → Disp) : (s.modDisp f).launchPorts = s.launchPorts := rfl
@[simp] theorem State.modDisp_hostReqs (s : State) (f : Disp → Disp) : (s.modDisp f).hostReqs = s.hostReqs := rfl
@[simp] theorem State.modDisp_hostOut (s : State) (f : Disp → Disp) : (s.modDisp f).hostOut = s.hostOut := rfl
@[simp] theorem State.modDisp_power (s : State) (f : Disp → Disp) : (s.modDisp f).power = s.power := rfl
@[simp] theorem State.modDisp_corrected (s : State) (f : Disp → Disp) : (s.modDisp f).corrected = s.corrected := rfl

/-! ## send -/

@[simp] theorem State.send_grade (s : State) (m : Msg) : (s.send m).grade = s.grade := rfl
@[simp] theorem State.send_cur (s : State) (m : Msg) : (s.send m).cur = s.cur := rfl
@[simp] theorem State.send_agenda (s : State) (m : Msg) : (s.send m).agenda = s.agenda := rfl
@[simp] theorem State.send_cycle (s : State) (m : Msg) : (s.send m).cycle = s.cycle := rfl
@[simp] theorem State.send_free (s : State) (m : Msg) : (s.send m).free = s.free := rfl
@[simp] theorem State.send_halted (s : State) (m : Msg) : (s.send m).halted = s.halted := rfl
@[simp] theorem State.send_haltCycles (s : State) (m : Msg) : (s.send m).haltCycles = s.haltCycles := rfl
@[simp] theorem State.send_mem (s : State) (m : Msg) : (s.send m).mem = s.mem := rfl
@[simp] theorem State.send_poison (s : State) (m : Msg) : (s.send m).poison = s.poison := rfl
@[simp] theorem State.send_lineKeys (s : State) (m : Msg) : (s.send m).lineKeys = s.lineKeys := rfl
@[simp] theorem State.send_frames (s : State) (m : Msg) : (s.send m).frames = s.frames := rfl
@[simp] theorem State.send_retags (s : State) (m : Msg) : (s.send m).retags = s.retags := rfl
@[simp] theorem State.send_harts (s : State) (m : Msg) : (s.send m).harts = s.harts := rfl
@[simp] theorem State.send_quads (s : State) (m : Msg) : (s.send m).quads = s.quads := rfl
@[simp] theorem State.send_homes (s : State) (m : Msg) : (s.send m).homes = s.homes := rfl
@[simp] theorem State.send_slotRegs (s : State) (m : Msg) : (s.send m).slotRegs = s.slotRegs := rfl
@[simp] theorem State.send_tileRegs (s : State) (m : Msg) : (s.send m).tileRegs = s.tileRegs := rfl
@[simp] theorem State.send_fills (s : State) (m : Msg) : (s.send m).fills = s.fills := rfl
@[simp] theorem State.send_walks (s : State) (m : Msg) : (s.send m).walks = s.walks := rfl
@[simp] theorem State.send_dies (s : State) (m : Msg) : (s.send m).dies = s.dies := rfl
@[simp] theorem State.send_dieLinks (s : State) (m : Msg) : (s.send m).dieLinks = s.dieLinks := rfl
@[simp] theorem State.send_netDown (s : State) (m : Msg) : (s.send m).netDown = s.netDown := rfl
@[simp] theorem State.send_ladleInc (s : State) (m : Msg) : (s.send m).ladleInc = s.ladleInc := rfl
@[simp] theorem State.send_ladleDeaths (s : State) (m : Msg) : (s.send m).ladleDeaths = s.ladleDeaths := rfl
@[simp] theorem State.send_rtu (s : State) (m : Msg) : (s.send m).rtu = s.rtu := rfl
@[simp] theorem State.send_disp (s : State) (m : Msg) : (s.send m).disp = s.disp := rfl
@[simp] theorem State.send_heap (s : State) (m : Msg) : (s.send m).heap = s.heap := rfl
@[simp] theorem State.send_slotMap (s : State) (m : Msg) : (s.send m).slotMap = s.slotMap := rfl
@[simp] theorem State.send_ports (s : State) (m : Msg) : (s.send m).ports = s.ports := rfl
@[simp] theorem State.send_launchPorts (s : State) (m : Msg) : (s.send m).launchPorts = s.launchPorts := rfl
@[simp] theorem State.send_hostReqs (s : State) (m : Msg) : (s.send m).hostReqs = s.hostReqs := rfl
@[simp] theorem State.send_hostOut (s : State) (m : Msg) : (s.send m).hostOut = s.hostOut := rfl
@[simp] theorem State.send_power (s : State) (m : Msg) : (s.send m).power = s.power := rfl
@[simp] theorem State.send_corrected (s : State) (m : Msg) : (s.send m).corrected = s.corrected := rfl

/-! ## askHost -/

@[simp] theorem State.askHost_grade (s : State) (r : HostReq) : (s.askHost r).grade = s.grade := rfl
@[simp] theorem State.askHost_cur (s : State) (r : HostReq) : (s.askHost r).cur = s.cur := rfl
@[simp] theorem State.askHost_agenda (s : State) (r : HostReq) : (s.askHost r).agenda = s.agenda := rfl
@[simp] theorem State.askHost_cycle (s : State) (r : HostReq) : (s.askHost r).cycle = s.cycle := rfl
@[simp] theorem State.askHost_free (s : State) (r : HostReq) : (s.askHost r).free = s.free := rfl
@[simp] theorem State.askHost_halted (s : State) (r : HostReq) : (s.askHost r).halted = s.halted := rfl
@[simp] theorem State.askHost_haltCycles (s : State) (r : HostReq) : (s.askHost r).haltCycles = s.haltCycles := rfl
@[simp] theorem State.askHost_mem (s : State) (r : HostReq) : (s.askHost r).mem = s.mem := rfl
@[simp] theorem State.askHost_poison (s : State) (r : HostReq) : (s.askHost r).poison = s.poison := rfl
@[simp] theorem State.askHost_lineKeys (s : State) (r : HostReq) : (s.askHost r).lineKeys = s.lineKeys := rfl
@[simp] theorem State.askHost_frames (s : State) (r : HostReq) : (s.askHost r).frames = s.frames := rfl
@[simp] theorem State.askHost_retags (s : State) (r : HostReq) : (s.askHost r).retags = s.retags := rfl
@[simp] theorem State.askHost_harts (s : State) (r : HostReq) : (s.askHost r).harts = s.harts := rfl
@[simp] theorem State.askHost_quads (s : State) (r : HostReq) : (s.askHost r).quads = s.quads := rfl
@[simp] theorem State.askHost_homes (s : State) (r : HostReq) : (s.askHost r).homes = s.homes := rfl
@[simp] theorem State.askHost_slotRegs (s : State) (r : HostReq) : (s.askHost r).slotRegs = s.slotRegs := rfl
@[simp] theorem State.askHost_tileRegs (s : State) (r : HostReq) : (s.askHost r).tileRegs = s.tileRegs := rfl
@[simp] theorem State.askHost_fills (s : State) (r : HostReq) : (s.askHost r).fills = s.fills := rfl
@[simp] theorem State.askHost_msgs (s : State) (r : HostReq) : (s.askHost r).msgs = s.msgs := rfl
@[simp] theorem State.askHost_walks (s : State) (r : HostReq) : (s.askHost r).walks = s.walks := rfl
@[simp] theorem State.askHost_dies (s : State) (r : HostReq) : (s.askHost r).dies = s.dies := rfl
@[simp] theorem State.askHost_dieLinks (s : State) (r : HostReq) : (s.askHost r).dieLinks = s.dieLinks := rfl
@[simp] theorem State.askHost_netDown (s : State) (r : HostReq) : (s.askHost r).netDown = s.netDown := rfl
@[simp] theorem State.askHost_ladleInc (s : State) (r : HostReq) : (s.askHost r).ladleInc = s.ladleInc := rfl
@[simp] theorem State.askHost_ladleDeaths (s : State) (r : HostReq) : (s.askHost r).ladleDeaths = s.ladleDeaths := rfl
@[simp] theorem State.askHost_rtu (s : State) (r : HostReq) : (s.askHost r).rtu = s.rtu := rfl
@[simp] theorem State.askHost_disp (s : State) (r : HostReq) : (s.askHost r).disp = s.disp := rfl
@[simp] theorem State.askHost_heap (s : State) (r : HostReq) : (s.askHost r).heap = s.heap := rfl
@[simp] theorem State.askHost_slotMap (s : State) (r : HostReq) : (s.askHost r).slotMap = s.slotMap := rfl
@[simp] theorem State.askHost_ports (s : State) (r : HostReq) : (s.askHost r).ports = s.ports := rfl
@[simp] theorem State.askHost_launchPorts (s : State) (r : HostReq) : (s.askHost r).launchPorts = s.launchPorts := rfl
@[simp] theorem State.askHost_hostOut (s : State) (r : HostReq) : (s.askHost r).hostOut = s.hostOut := rfl
@[simp] theorem State.askHost_power (s : State) (r : HostReq) : (s.askHost r).power = s.power := rfl
@[simp] theorem State.askHost_corrected (s : State) (r : HostReq) : (s.askHost r).corrected = s.corrected := rfl

/-! ## toHost -/

@[simp] theorem State.toHost_grade (s : State) (o : HostOut) : (s.toHost o).grade = s.grade := rfl
@[simp] theorem State.toHost_cur (s : State) (o : HostOut) : (s.toHost o).cur = s.cur := rfl
@[simp] theorem State.toHost_agenda (s : State) (o : HostOut) : (s.toHost o).agenda = s.agenda := rfl
@[simp] theorem State.toHost_cycle (s : State) (o : HostOut) : (s.toHost o).cycle = s.cycle := rfl
@[simp] theorem State.toHost_free (s : State) (o : HostOut) : (s.toHost o).free = s.free := rfl
@[simp] theorem State.toHost_nextId (s : State) (o : HostOut) : (s.toHost o).nextId = s.nextId := rfl
@[simp] theorem State.toHost_halted (s : State) (o : HostOut) : (s.toHost o).halted = s.halted := rfl
@[simp] theorem State.toHost_haltCycles (s : State) (o : HostOut) : (s.toHost o).haltCycles = s.haltCycles := rfl
@[simp] theorem State.toHost_mem (s : State) (o : HostOut) : (s.toHost o).mem = s.mem := rfl
@[simp] theorem State.toHost_poison (s : State) (o : HostOut) : (s.toHost o).poison = s.poison := rfl
@[simp] theorem State.toHost_lineKeys (s : State) (o : HostOut) : (s.toHost o).lineKeys = s.lineKeys := rfl
@[simp] theorem State.toHost_frames (s : State) (o : HostOut) : (s.toHost o).frames = s.frames := rfl
@[simp] theorem State.toHost_retags (s : State) (o : HostOut) : (s.toHost o).retags = s.retags := rfl
@[simp] theorem State.toHost_harts (s : State) (o : HostOut) : (s.toHost o).harts = s.harts := rfl
@[simp] theorem State.toHost_quads (s : State) (o : HostOut) : (s.toHost o).quads = s.quads := rfl
@[simp] theorem State.toHost_homes (s : State) (o : HostOut) : (s.toHost o).homes = s.homes := rfl
@[simp] theorem State.toHost_slotRegs (s : State) (o : HostOut) : (s.toHost o).slotRegs = s.slotRegs := rfl
@[simp] theorem State.toHost_tileRegs (s : State) (o : HostOut) : (s.toHost o).tileRegs = s.tileRegs := rfl
@[simp] theorem State.toHost_fills (s : State) (o : HostOut) : (s.toHost o).fills = s.fills := rfl
@[simp] theorem State.toHost_msgs (s : State) (o : HostOut) : (s.toHost o).msgs = s.msgs := rfl
@[simp] theorem State.toHost_walks (s : State) (o : HostOut) : (s.toHost o).walks = s.walks := rfl
@[simp] theorem State.toHost_dies (s : State) (o : HostOut) : (s.toHost o).dies = s.dies := rfl
@[simp] theorem State.toHost_dieLinks (s : State) (o : HostOut) : (s.toHost o).dieLinks = s.dieLinks := rfl
@[simp] theorem State.toHost_netDown (s : State) (o : HostOut) : (s.toHost o).netDown = s.netDown := rfl
@[simp] theorem State.toHost_ladleInc (s : State) (o : HostOut) : (s.toHost o).ladleInc = s.ladleInc := rfl
@[simp] theorem State.toHost_ladleDeaths (s : State) (o : HostOut) : (s.toHost o).ladleDeaths = s.ladleDeaths := rfl
@[simp] theorem State.toHost_rtu (s : State) (o : HostOut) : (s.toHost o).rtu = s.rtu := rfl
@[simp] theorem State.toHost_disp (s : State) (o : HostOut) : (s.toHost o).disp = s.disp := rfl
@[simp] theorem State.toHost_heap (s : State) (o : HostOut) : (s.toHost o).heap = s.heap := rfl
@[simp] theorem State.toHost_slotMap (s : State) (o : HostOut) : (s.toHost o).slotMap = s.slotMap := rfl
@[simp] theorem State.toHost_ports (s : State) (o : HostOut) : (s.toHost o).ports = s.ports := rfl
@[simp] theorem State.toHost_launchPorts (s : State) (o : HostOut) : (s.toHost o).launchPorts = s.launchPorts := rfl
@[simp] theorem State.toHost_hostReqs (s : State) (o : HostOut) : (s.toHost o).hostReqs = s.hostReqs := rfl
@[simp] theorem State.toHost_power (s : State) (o : HostOut) : (s.toHost o).power = s.power := rfl
@[simp] theorem State.toHost_corrected (s : State) (o : HostOut) : (s.toHost o).corrected = s.corrected := rfl

/-! ## setSlot -/

@[simp] theorem State.setSlot_grade (s : State) (r : SlotRegs) : (s.setSlot r).grade = s.grade := rfl
@[simp] theorem State.setSlot_cur (s : State) (r : SlotRegs) : (s.setSlot r).cur = s.cur := rfl
@[simp] theorem State.setSlot_agenda (s : State) (r : SlotRegs) : (s.setSlot r).agenda = s.agenda := rfl
@[simp] theorem State.setSlot_cycle (s : State) (r : SlotRegs) : (s.setSlot r).cycle = s.cycle := rfl
@[simp] theorem State.setSlot_free (s : State) (r : SlotRegs) : (s.setSlot r).free = s.free := rfl
@[simp] theorem State.setSlot_nextId (s : State) (r : SlotRegs) : (s.setSlot r).nextId = s.nextId := rfl
@[simp] theorem State.setSlot_halted (s : State) (r : SlotRegs) : (s.setSlot r).halted = s.halted := rfl
@[simp] theorem State.setSlot_haltCycles (s : State) (r : SlotRegs) : (s.setSlot r).haltCycles = s.haltCycles := rfl
@[simp] theorem State.setSlot_mem (s : State) (r : SlotRegs) : (s.setSlot r).mem = s.mem := rfl
@[simp] theorem State.setSlot_poison (s : State) (r : SlotRegs) : (s.setSlot r).poison = s.poison := rfl
@[simp] theorem State.setSlot_lineKeys (s : State) (r : SlotRegs) : (s.setSlot r).lineKeys = s.lineKeys := rfl
@[simp] theorem State.setSlot_frames (s : State) (r : SlotRegs) : (s.setSlot r).frames = s.frames := rfl
@[simp] theorem State.setSlot_retags (s : State) (r : SlotRegs) : (s.setSlot r).retags = s.retags := rfl
@[simp] theorem State.setSlot_harts (s : State) (r : SlotRegs) : (s.setSlot r).harts = s.harts := rfl
@[simp] theorem State.setSlot_quads (s : State) (r : SlotRegs) : (s.setSlot r).quads = s.quads := rfl
@[simp] theorem State.setSlot_homes (s : State) (r : SlotRegs) : (s.setSlot r).homes = s.homes := rfl
@[simp] theorem State.setSlot_tileRegs (s : State) (r : SlotRegs) : (s.setSlot r).tileRegs = s.tileRegs := rfl
@[simp] theorem State.setSlot_fills (s : State) (r : SlotRegs) : (s.setSlot r).fills = s.fills := rfl
@[simp] theorem State.setSlot_msgs (s : State) (r : SlotRegs) : (s.setSlot r).msgs = s.msgs := rfl
@[simp] theorem State.setSlot_walks (s : State) (r : SlotRegs) : (s.setSlot r).walks = s.walks := rfl
@[simp] theorem State.setSlot_dies (s : State) (r : SlotRegs) : (s.setSlot r).dies = s.dies := rfl
@[simp] theorem State.setSlot_dieLinks (s : State) (r : SlotRegs) : (s.setSlot r).dieLinks = s.dieLinks := rfl
@[simp] theorem State.setSlot_netDown (s : State) (r : SlotRegs) : (s.setSlot r).netDown = s.netDown := rfl
@[simp] theorem State.setSlot_ladleInc (s : State) (r : SlotRegs) : (s.setSlot r).ladleInc = s.ladleInc := rfl
@[simp] theorem State.setSlot_ladleDeaths (s : State) (r : SlotRegs) : (s.setSlot r).ladleDeaths = s.ladleDeaths := rfl
@[simp] theorem State.setSlot_rtu (s : State) (r : SlotRegs) : (s.setSlot r).rtu = s.rtu := rfl
@[simp] theorem State.setSlot_disp (s : State) (r : SlotRegs) : (s.setSlot r).disp = s.disp := rfl
@[simp] theorem State.setSlot_heap (s : State) (r : SlotRegs) : (s.setSlot r).heap = s.heap := rfl
@[simp] theorem State.setSlot_slotMap (s : State) (r : SlotRegs) : (s.setSlot r).slotMap = s.slotMap := rfl
@[simp] theorem State.setSlot_ports (s : State) (r : SlotRegs) : (s.setSlot r).ports = s.ports := rfl
@[simp] theorem State.setSlot_launchPorts (s : State) (r : SlotRegs) : (s.setSlot r).launchPorts = s.launchPorts := rfl
@[simp] theorem State.setSlot_hostReqs (s : State) (r : SlotRegs) : (s.setSlot r).hostReqs = s.hostReqs := rfl
@[simp] theorem State.setSlot_hostOut (s : State) (r : SlotRegs) : (s.setSlot r).hostOut = s.hostOut := rfl
@[simp] theorem State.setSlot_power (s : State) (r : SlotRegs) : (s.setSlot r).power = s.power := rfl
@[simp] theorem State.setSlot_corrected (s : State) (r : SlotRegs) : (s.setSlot r).corrected = s.corrected := rfl

/-! ## vset -/

@[simp] theorem State.vset_grade (s : State) (n : Reg) (l : Line) : (s.vset n l).grade = s.grade := rfl
@[simp] theorem State.vset_cur (s : State) (n : Reg) (l : Line) : (s.vset n l).cur = s.cur := rfl
@[simp] theorem State.vset_agenda (s : State) (n : Reg) (l : Line) : (s.vset n l).agenda = s.agenda := rfl
@[simp] theorem State.vset_cycle (s : State) (n : Reg) (l : Line) : (s.vset n l).cycle = s.cycle := rfl
@[simp] theorem State.vset_free (s : State) (n : Reg) (l : Line) : (s.vset n l).free = s.free := rfl
@[simp] theorem State.vset_nextId (s : State) (n : Reg) (l : Line) : (s.vset n l).nextId = s.nextId := rfl
@[simp] theorem State.vset_halted (s : State) (n : Reg) (l : Line) : (s.vset n l).halted = s.halted := rfl
@[simp] theorem State.vset_haltCycles (s : State) (n : Reg) (l : Line) : (s.vset n l).haltCycles = s.haltCycles := rfl
@[simp] theorem State.vset_mem (s : State) (n : Reg) (l : Line) : (s.vset n l).mem = s.mem := rfl
@[simp] theorem State.vset_poison (s : State) (n : Reg) (l : Line) : (s.vset n l).poison = s.poison := rfl
@[simp] theorem State.vset_lineKeys (s : State) (n : Reg) (l : Line) : (s.vset n l).lineKeys = s.lineKeys := rfl
@[simp] theorem State.vset_frames (s : State) (n : Reg) (l : Line) : (s.vset n l).frames = s.frames := rfl
@[simp] theorem State.vset_retags (s : State) (n : Reg) (l : Line) : (s.vset n l).retags = s.retags := rfl
@[simp] theorem State.vset_harts (s : State) (n : Reg) (l : Line) : (s.vset n l).harts = s.harts := rfl
@[simp] theorem State.vset_quads (s : State) (n : Reg) (l : Line) : (s.vset n l).quads = s.quads := rfl
@[simp] theorem State.vset_homes (s : State) (n : Reg) (l : Line) : (s.vset n l).homes = s.homes := rfl
@[simp] theorem State.vset_tileRegs (s : State) (n : Reg) (l : Line) : (s.vset n l).tileRegs = s.tileRegs := rfl
@[simp] theorem State.vset_fills (s : State) (n : Reg) (l : Line) : (s.vset n l).fills = s.fills := rfl
@[simp] theorem State.vset_msgs (s : State) (n : Reg) (l : Line) : (s.vset n l).msgs = s.msgs := rfl
@[simp] theorem State.vset_walks (s : State) (n : Reg) (l : Line) : (s.vset n l).walks = s.walks := rfl
@[simp] theorem State.vset_dies (s : State) (n : Reg) (l : Line) : (s.vset n l).dies = s.dies := rfl
@[simp] theorem State.vset_dieLinks (s : State) (n : Reg) (l : Line) : (s.vset n l).dieLinks = s.dieLinks := rfl
@[simp] theorem State.vset_netDown (s : State) (n : Reg) (l : Line) : (s.vset n l).netDown = s.netDown := rfl
@[simp] theorem State.vset_ladleInc (s : State) (n : Reg) (l : Line) : (s.vset n l).ladleInc = s.ladleInc := rfl
@[simp] theorem State.vset_ladleDeaths (s : State) (n : Reg) (l : Line) : (s.vset n l).ladleDeaths = s.ladleDeaths := rfl
@[simp] theorem State.vset_rtu (s : State) (n : Reg) (l : Line) : (s.vset n l).rtu = s.rtu := rfl
@[simp] theorem State.vset_disp (s : State) (n : Reg) (l : Line) : (s.vset n l).disp = s.disp := rfl
@[simp] theorem State.vset_heap (s : State) (n : Reg) (l : Line) : (s.vset n l).heap = s.heap := rfl
@[simp] theorem State.vset_slotMap (s : State) (n : Reg) (l : Line) : (s.vset n l).slotMap = s.slotMap := rfl
@[simp] theorem State.vset_ports (s : State) (n : Reg) (l : Line) : (s.vset n l).ports = s.ports := rfl
@[simp] theorem State.vset_launchPorts (s : State) (n : Reg) (l : Line) : (s.vset n l).launchPorts = s.launchPorts := rfl
@[simp] theorem State.vset_hostReqs (s : State) (n : Reg) (l : Line) : (s.vset n l).hostReqs = s.hostReqs := rfl
@[simp] theorem State.vset_hostOut (s : State) (n : Reg) (l : Line) : (s.vset n l).hostOut = s.hostOut := rfl
@[simp] theorem State.vset_power (s : State) (n : Reg) (l : Line) : (s.vset n l).power = s.power := rfl
@[simp] theorem State.vset_corrected (s : State) (n : Reg) (l : Line) : (s.vset n l).corrected = s.corrected := rfl

/-! ## gset -/

@[simp] theorem State.gset_grade (s : State) (n : Reg) (g : Region) : (s.gset n g).grade = s.grade := rfl
@[simp] theorem State.gset_cur (s : State) (n : Reg) (g : Region) : (s.gset n g).cur = s.cur := rfl
@[simp] theorem State.gset_agenda (s : State) (n : Reg) (g : Region) : (s.gset n g).agenda = s.agenda := rfl
@[simp] theorem State.gset_cycle (s : State) (n : Reg) (g : Region) : (s.gset n g).cycle = s.cycle := rfl
@[simp] theorem State.gset_free (s : State) (n : Reg) (g : Region) : (s.gset n g).free = s.free := rfl
@[simp] theorem State.gset_nextId (s : State) (n : Reg) (g : Region) : (s.gset n g).nextId = s.nextId := rfl
@[simp] theorem State.gset_halted (s : State) (n : Reg) (g : Region) : (s.gset n g).halted = s.halted := rfl
@[simp] theorem State.gset_haltCycles (s : State) (n : Reg) (g : Region) : (s.gset n g).haltCycles = s.haltCycles := rfl
@[simp] theorem State.gset_mem (s : State) (n : Reg) (g : Region) : (s.gset n g).mem = s.mem := rfl
@[simp] theorem State.gset_poison (s : State) (n : Reg) (g : Region) : (s.gset n g).poison = s.poison := rfl
@[simp] theorem State.gset_lineKeys (s : State) (n : Reg) (g : Region) : (s.gset n g).lineKeys = s.lineKeys := rfl
@[simp] theorem State.gset_frames (s : State) (n : Reg) (g : Region) : (s.gset n g).frames = s.frames := rfl
@[simp] theorem State.gset_retags (s : State) (n : Reg) (g : Region) : (s.gset n g).retags = s.retags := rfl
@[simp] theorem State.gset_harts (s : State) (n : Reg) (g : Region) : (s.gset n g).harts = s.harts := rfl
@[simp] theorem State.gset_quads (s : State) (n : Reg) (g : Region) : (s.gset n g).quads = s.quads := rfl
@[simp] theorem State.gset_homes (s : State) (n : Reg) (g : Region) : (s.gset n g).homes = s.homes := rfl
@[simp] theorem State.gset_tileRegs (s : State) (n : Reg) (g : Region) : (s.gset n g).tileRegs = s.tileRegs := rfl
@[simp] theorem State.gset_fills (s : State) (n : Reg) (g : Region) : (s.gset n g).fills = s.fills := rfl
@[simp] theorem State.gset_msgs (s : State) (n : Reg) (g : Region) : (s.gset n g).msgs = s.msgs := rfl
@[simp] theorem State.gset_walks (s : State) (n : Reg) (g : Region) : (s.gset n g).walks = s.walks := rfl
@[simp] theorem State.gset_dies (s : State) (n : Reg) (g : Region) : (s.gset n g).dies = s.dies := rfl
@[simp] theorem State.gset_dieLinks (s : State) (n : Reg) (g : Region) : (s.gset n g).dieLinks = s.dieLinks := rfl
@[simp] theorem State.gset_netDown (s : State) (n : Reg) (g : Region) : (s.gset n g).netDown = s.netDown := rfl
@[simp] theorem State.gset_ladleInc (s : State) (n : Reg) (g : Region) : (s.gset n g).ladleInc = s.ladleInc := rfl
@[simp] theorem State.gset_ladleDeaths (s : State) (n : Reg) (g : Region) : (s.gset n g).ladleDeaths = s.ladleDeaths := rfl
@[simp] theorem State.gset_rtu (s : State) (n : Reg) (g : Region) : (s.gset n g).rtu = s.rtu := rfl
@[simp] theorem State.gset_disp (s : State) (n : Reg) (g : Region) : (s.gset n g).disp = s.disp := rfl
@[simp] theorem State.gset_heap (s : State) (n : Reg) (g : Region) : (s.gset n g).heap = s.heap := rfl
@[simp] theorem State.gset_slotMap (s : State) (n : Reg) (g : Region) : (s.gset n g).slotMap = s.slotMap := rfl
@[simp] theorem State.gset_ports (s : State) (n : Reg) (g : Region) : (s.gset n g).ports = s.ports := rfl
@[simp] theorem State.gset_launchPorts (s : State) (n : Reg) (g : Region) : (s.gset n g).launchPorts = s.launchPorts := rfl
@[simp] theorem State.gset_hostReqs (s : State) (n : Reg) (g : Region) : (s.gset n g).hostReqs = s.hostReqs := rfl
@[simp] theorem State.gset_hostOut (s : State) (n : Reg) (g : Region) : (s.gset n g).hostOut = s.hostOut := rfl
@[simp] theorem State.gset_power (s : State) (n : Reg) (g : Region) : (s.gset n g).power = s.power := rfl
@[simp] theorem State.gset_corrected (s : State) (n : Reg) (g : Region) : (s.gset n g).corrected = s.corrected := rfl

/-! ## hset -/

@[simp] theorem State.hset_grade (s : State) (n : Reg) (l : Line) : (s.hset n l).grade = s.grade := rfl
@[simp] theorem State.hset_cur (s : State) (n : Reg) (l : Line) : (s.hset n l).cur = s.cur := rfl
@[simp] theorem State.hset_agenda (s : State) (n : Reg) (l : Line) : (s.hset n l).agenda = s.agenda := rfl
@[simp] theorem State.hset_cycle (s : State) (n : Reg) (l : Line) : (s.hset n l).cycle = s.cycle := rfl
@[simp] theorem State.hset_free (s : State) (n : Reg) (l : Line) : (s.hset n l).free = s.free := rfl
@[simp] theorem State.hset_nextId (s : State) (n : Reg) (l : Line) : (s.hset n l).nextId = s.nextId := rfl
@[simp] theorem State.hset_halted (s : State) (n : Reg) (l : Line) : (s.hset n l).halted = s.halted := rfl
@[simp] theorem State.hset_haltCycles (s : State) (n : Reg) (l : Line) : (s.hset n l).haltCycles = s.haltCycles := rfl
@[simp] theorem State.hset_mem (s : State) (n : Reg) (l : Line) : (s.hset n l).mem = s.mem := rfl
@[simp] theorem State.hset_poison (s : State) (n : Reg) (l : Line) : (s.hset n l).poison = s.poison := rfl
@[simp] theorem State.hset_lineKeys (s : State) (n : Reg) (l : Line) : (s.hset n l).lineKeys = s.lineKeys := rfl
@[simp] theorem State.hset_frames (s : State) (n : Reg) (l : Line) : (s.hset n l).frames = s.frames := rfl
@[simp] theorem State.hset_retags (s : State) (n : Reg) (l : Line) : (s.hset n l).retags = s.retags := rfl
@[simp] theorem State.hset_harts (s : State) (n : Reg) (l : Line) : (s.hset n l).harts = s.harts := rfl
@[simp] theorem State.hset_quads (s : State) (n : Reg) (l : Line) : (s.hset n l).quads = s.quads := rfl
@[simp] theorem State.hset_homes (s : State) (n : Reg) (l : Line) : (s.hset n l).homes = s.homes := rfl
@[simp] theorem State.hset_tileRegs (s : State) (n : Reg) (l : Line) : (s.hset n l).tileRegs = s.tileRegs := rfl
@[simp] theorem State.hset_fills (s : State) (n : Reg) (l : Line) : (s.hset n l).fills = s.fills := rfl
@[simp] theorem State.hset_msgs (s : State) (n : Reg) (l : Line) : (s.hset n l).msgs = s.msgs := rfl
@[simp] theorem State.hset_walks (s : State) (n : Reg) (l : Line) : (s.hset n l).walks = s.walks := rfl
@[simp] theorem State.hset_dies (s : State) (n : Reg) (l : Line) : (s.hset n l).dies = s.dies := rfl
@[simp] theorem State.hset_dieLinks (s : State) (n : Reg) (l : Line) : (s.hset n l).dieLinks = s.dieLinks := rfl
@[simp] theorem State.hset_netDown (s : State) (n : Reg) (l : Line) : (s.hset n l).netDown = s.netDown := rfl
@[simp] theorem State.hset_ladleInc (s : State) (n : Reg) (l : Line) : (s.hset n l).ladleInc = s.ladleInc := rfl
@[simp] theorem State.hset_ladleDeaths (s : State) (n : Reg) (l : Line) : (s.hset n l).ladleDeaths = s.ladleDeaths := rfl
@[simp] theorem State.hset_rtu (s : State) (n : Reg) (l : Line) : (s.hset n l).rtu = s.rtu := rfl
@[simp] theorem State.hset_disp (s : State) (n : Reg) (l : Line) : (s.hset n l).disp = s.disp := rfl
@[simp] theorem State.hset_heap (s : State) (n : Reg) (l : Line) : (s.hset n l).heap = s.heap := rfl
@[simp] theorem State.hset_slotMap (s : State) (n : Reg) (l : Line) : (s.hset n l).slotMap = s.slotMap := rfl
@[simp] theorem State.hset_ports (s : State) (n : Reg) (l : Line) : (s.hset n l).ports = s.ports := rfl
@[simp] theorem State.hset_launchPorts (s : State) (n : Reg) (l : Line) : (s.hset n l).launchPorts = s.launchPorts := rfl
@[simp] theorem State.hset_hostReqs (s : State) (n : Reg) (l : Line) : (s.hset n l).hostReqs = s.hostReqs := rfl
@[simp] theorem State.hset_hostOut (s : State) (n : Reg) (l : Line) : (s.hset n l).hostOut = s.hostOut := rfl
@[simp] theorem State.hset_power (s : State) (n : Reg) (l : Line) : (s.hset n l).power = s.power := rfl
@[simp] theorem State.hset_corrected (s : State) (n : Reg) (l : Line) : (s.hset n l).corrected = s.corrected := rfl

/-! ## setPoison -/

@[simp] theorem State.setPoison_grade (s : State) (a : Nat) : (s.setPoison a).grade = s.grade := rfl
@[simp] theorem State.setPoison_cur (s : State) (a : Nat) : (s.setPoison a).cur = s.cur := rfl
@[simp] theorem State.setPoison_agenda (s : State) (a : Nat) : (s.setPoison a).agenda = s.agenda := rfl
@[simp] theorem State.setPoison_cycle (s : State) (a : Nat) : (s.setPoison a).cycle = s.cycle := rfl
@[simp] theorem State.setPoison_free (s : State) (a : Nat) : (s.setPoison a).free = s.free := rfl
@[simp] theorem State.setPoison_nextId (s : State) (a : Nat) : (s.setPoison a).nextId = s.nextId := rfl
@[simp] theorem State.setPoison_halted (s : State) (a : Nat) : (s.setPoison a).halted = s.halted := rfl
@[simp] theorem State.setPoison_haltCycles (s : State) (a : Nat) : (s.setPoison a).haltCycles = s.haltCycles := rfl
@[simp] theorem State.setPoison_mem (s : State) (a : Nat) : (s.setPoison a).mem = s.mem := rfl
@[simp] theorem State.setPoison_lineKeys (s : State) (a : Nat) : (s.setPoison a).lineKeys = s.lineKeys := rfl
@[simp] theorem State.setPoison_frames (s : State) (a : Nat) : (s.setPoison a).frames = s.frames := rfl
@[simp] theorem State.setPoison_retags (s : State) (a : Nat) : (s.setPoison a).retags = s.retags := rfl
@[simp] theorem State.setPoison_harts (s : State) (a : Nat) : (s.setPoison a).harts = s.harts := rfl
@[simp] theorem State.setPoison_quads (s : State) (a : Nat) : (s.setPoison a).quads = s.quads := rfl
@[simp] theorem State.setPoison_homes (s : State) (a : Nat) : (s.setPoison a).homes = s.homes := rfl
@[simp] theorem State.setPoison_slotRegs (s : State) (a : Nat) : (s.setPoison a).slotRegs = s.slotRegs := rfl
@[simp] theorem State.setPoison_tileRegs (s : State) (a : Nat) : (s.setPoison a).tileRegs = s.tileRegs := rfl
@[simp] theorem State.setPoison_fills (s : State) (a : Nat) : (s.setPoison a).fills = s.fills := rfl
@[simp] theorem State.setPoison_msgs (s : State) (a : Nat) : (s.setPoison a).msgs = s.msgs := rfl
@[simp] theorem State.setPoison_walks (s : State) (a : Nat) : (s.setPoison a).walks = s.walks := rfl
@[simp] theorem State.setPoison_dies (s : State) (a : Nat) : (s.setPoison a).dies = s.dies := rfl
@[simp] theorem State.setPoison_dieLinks (s : State) (a : Nat) : (s.setPoison a).dieLinks = s.dieLinks := rfl
@[simp] theorem State.setPoison_netDown (s : State) (a : Nat) : (s.setPoison a).netDown = s.netDown := rfl
@[simp] theorem State.setPoison_ladleInc (s : State) (a : Nat) : (s.setPoison a).ladleInc = s.ladleInc := rfl
@[simp] theorem State.setPoison_ladleDeaths (s : State) (a : Nat) : (s.setPoison a).ladleDeaths = s.ladleDeaths := rfl
@[simp] theorem State.setPoison_rtu (s : State) (a : Nat) : (s.setPoison a).rtu = s.rtu := rfl
@[simp] theorem State.setPoison_disp (s : State) (a : Nat) : (s.setPoison a).disp = s.disp := rfl
@[simp] theorem State.setPoison_heap (s : State) (a : Nat) : (s.setPoison a).heap = s.heap := rfl
@[simp] theorem State.setPoison_slotMap (s : State) (a : Nat) : (s.setPoison a).slotMap = s.slotMap := rfl
@[simp] theorem State.setPoison_ports (s : State) (a : Nat) : (s.setPoison a).ports = s.ports := rfl
@[simp] theorem State.setPoison_launchPorts (s : State) (a : Nat) : (s.setPoison a).launchPorts = s.launchPorts := rfl
@[simp] theorem State.setPoison_hostReqs (s : State) (a : Nat) : (s.setPoison a).hostReqs = s.hostReqs := rfl
@[simp] theorem State.setPoison_hostOut (s : State) (a : Nat) : (s.setPoison a).hostOut = s.hostOut := rfl
@[simp] theorem State.setPoison_power (s : State) (a : Nat) : (s.setPoison a).power = s.power := rfl
@[simp] theorem State.setPoison_corrected (s : State) (a : Nat) : (s.setPoison a).corrected = s.corrected := rfl

/-! ## clearPoison -/

@[simp] theorem State.clearPoison_grade (s : State) (a : Nat) : (s.clearPoison a).grade = s.grade := rfl
@[simp] theorem State.clearPoison_cur (s : State) (a : Nat) : (s.clearPoison a).cur = s.cur := rfl
@[simp] theorem State.clearPoison_agenda (s : State) (a : Nat) : (s.clearPoison a).agenda = s.agenda := rfl
@[simp] theorem State.clearPoison_cycle (s : State) (a : Nat) : (s.clearPoison a).cycle = s.cycle := rfl
@[simp] theorem State.clearPoison_free (s : State) (a : Nat) : (s.clearPoison a).free = s.free := rfl
@[simp] theorem State.clearPoison_nextId (s : State) (a : Nat) : (s.clearPoison a).nextId = s.nextId := rfl
@[simp] theorem State.clearPoison_halted (s : State) (a : Nat) : (s.clearPoison a).halted = s.halted := rfl
@[simp] theorem State.clearPoison_haltCycles (s : State) (a : Nat) : (s.clearPoison a).haltCycles = s.haltCycles := rfl
@[simp] theorem State.clearPoison_mem (s : State) (a : Nat) : (s.clearPoison a).mem = s.mem := rfl
@[simp] theorem State.clearPoison_lineKeys (s : State) (a : Nat) : (s.clearPoison a).lineKeys = s.lineKeys := rfl
@[simp] theorem State.clearPoison_frames (s : State) (a : Nat) : (s.clearPoison a).frames = s.frames := rfl
@[simp] theorem State.clearPoison_retags (s : State) (a : Nat) : (s.clearPoison a).retags = s.retags := rfl
@[simp] theorem State.clearPoison_harts (s : State) (a : Nat) : (s.clearPoison a).harts = s.harts := rfl
@[simp] theorem State.clearPoison_quads (s : State) (a : Nat) : (s.clearPoison a).quads = s.quads := rfl
@[simp] theorem State.clearPoison_homes (s : State) (a : Nat) : (s.clearPoison a).homes = s.homes := rfl
@[simp] theorem State.clearPoison_slotRegs (s : State) (a : Nat) : (s.clearPoison a).slotRegs = s.slotRegs := rfl
@[simp] theorem State.clearPoison_tileRegs (s : State) (a : Nat) : (s.clearPoison a).tileRegs = s.tileRegs := rfl
@[simp] theorem State.clearPoison_fills (s : State) (a : Nat) : (s.clearPoison a).fills = s.fills := rfl
@[simp] theorem State.clearPoison_msgs (s : State) (a : Nat) : (s.clearPoison a).msgs = s.msgs := rfl
@[simp] theorem State.clearPoison_walks (s : State) (a : Nat) : (s.clearPoison a).walks = s.walks := rfl
@[simp] theorem State.clearPoison_dies (s : State) (a : Nat) : (s.clearPoison a).dies = s.dies := rfl
@[simp] theorem State.clearPoison_dieLinks (s : State) (a : Nat) : (s.clearPoison a).dieLinks = s.dieLinks := rfl
@[simp] theorem State.clearPoison_netDown (s : State) (a : Nat) : (s.clearPoison a).netDown = s.netDown := rfl
@[simp] theorem State.clearPoison_ladleInc (s : State) (a : Nat) : (s.clearPoison a).ladleInc = s.ladleInc := rfl
@[simp] theorem State.clearPoison_ladleDeaths (s : State) (a : Nat) : (s.clearPoison a).ladleDeaths = s.ladleDeaths := rfl
@[simp] theorem State.clearPoison_rtu (s : State) (a : Nat) : (s.clearPoison a).rtu = s.rtu := rfl
@[simp] theorem State.clearPoison_disp (s : State) (a : Nat) : (s.clearPoison a).disp = s.disp := rfl
@[simp] theorem State.clearPoison_heap (s : State) (a : Nat) : (s.clearPoison a).heap = s.heap := rfl
@[simp] theorem State.clearPoison_slotMap (s : State) (a : Nat) : (s.clearPoison a).slotMap = s.slotMap := rfl
@[simp] theorem State.clearPoison_ports (s : State) (a : Nat) : (s.clearPoison a).ports = s.ports := rfl
@[simp] theorem State.clearPoison_launchPorts (s : State) (a : Nat) : (s.clearPoison a).launchPorts = s.launchPorts := rfl
@[simp] theorem State.clearPoison_hostReqs (s : State) (a : Nat) : (s.clearPoison a).hostReqs = s.hostReqs := rfl
@[simp] theorem State.clearPoison_hostOut (s : State) (a : Nat) : (s.clearPoison a).hostOut = s.hostOut := rfl
@[simp] theorem State.clearPoison_power (s : State) (a : Nat) : (s.clearPoison a).power = s.power := rfl
@[simp] theorem State.clearPoison_corrected (s : State) (a : Nat) : (s.clearPoison a).corrected = s.corrected := rfl

/-! ## wx -/

@[simp] theorem State.wx_grade (s : State) (r : Reg) (v : Word) : (s.wx r v).grade = s.grade := rfl
@[simp] theorem State.wx_cur (s : State) (r : Reg) (v : Word) : (s.wx r v).cur = s.cur := rfl
@[simp] theorem State.wx_agenda (s : State) (r : Reg) (v : Word) : (s.wx r v).agenda = s.agenda := rfl
@[simp] theorem State.wx_cycle (s : State) (r : Reg) (v : Word) : (s.wx r v).cycle = s.cycle := rfl
@[simp] theorem State.wx_free (s : State) (r : Reg) (v : Word) : (s.wx r v).free = s.free := rfl
@[simp] theorem State.wx_nextId (s : State) (r : Reg) (v : Word) : (s.wx r v).nextId = s.nextId := rfl
@[simp] theorem State.wx_halted (s : State) (r : Reg) (v : Word) : (s.wx r v).halted = s.halted := rfl
@[simp] theorem State.wx_haltCycles (s : State) (r : Reg) (v : Word) : (s.wx r v).haltCycles = s.haltCycles := rfl
@[simp] theorem State.wx_mem (s : State) (r : Reg) (v : Word) : (s.wx r v).mem = s.mem := rfl
@[simp] theorem State.wx_poison (s : State) (r : Reg) (v : Word) : (s.wx r v).poison = s.poison := rfl
@[simp] theorem State.wx_lineKeys (s : State) (r : Reg) (v : Word) : (s.wx r v).lineKeys = s.lineKeys := rfl
@[simp] theorem State.wx_frames (s : State) (r : Reg) (v : Word) : (s.wx r v).frames = s.frames := rfl
@[simp] theorem State.wx_retags (s : State) (r : Reg) (v : Word) : (s.wx r v).retags = s.retags := rfl
@[simp] theorem State.wx_quads (s : State) (r : Reg) (v : Word) : (s.wx r v).quads = s.quads := rfl
@[simp] theorem State.wx_homes (s : State) (r : Reg) (v : Word) : (s.wx r v).homes = s.homes := rfl
@[simp] theorem State.wx_slotRegs (s : State) (r : Reg) (v : Word) : (s.wx r v).slotRegs = s.slotRegs := rfl
@[simp] theorem State.wx_tileRegs (s : State) (r : Reg) (v : Word) : (s.wx r v).tileRegs = s.tileRegs := rfl
@[simp] theorem State.wx_fills (s : State) (r : Reg) (v : Word) : (s.wx r v).fills = s.fills := rfl
@[simp] theorem State.wx_msgs (s : State) (r : Reg) (v : Word) : (s.wx r v).msgs = s.msgs := rfl
@[simp] theorem State.wx_walks (s : State) (r : Reg) (v : Word) : (s.wx r v).walks = s.walks := rfl
@[simp] theorem State.wx_dies (s : State) (r : Reg) (v : Word) : (s.wx r v).dies = s.dies := rfl
@[simp] theorem State.wx_dieLinks (s : State) (r : Reg) (v : Word) : (s.wx r v).dieLinks = s.dieLinks := rfl
@[simp] theorem State.wx_netDown (s : State) (r : Reg) (v : Word) : (s.wx r v).netDown = s.netDown := rfl
@[simp] theorem State.wx_ladleInc (s : State) (r : Reg) (v : Word) : (s.wx r v).ladleInc = s.ladleInc := rfl
@[simp] theorem State.wx_ladleDeaths (s : State) (r : Reg) (v : Word) : (s.wx r v).ladleDeaths = s.ladleDeaths := rfl
@[simp] theorem State.wx_rtu (s : State) (r : Reg) (v : Word) : (s.wx r v).rtu = s.rtu := rfl
@[simp] theorem State.wx_disp (s : State) (r : Reg) (v : Word) : (s.wx r v).disp = s.disp := rfl
@[simp] theorem State.wx_heap (s : State) (r : Reg) (v : Word) : (s.wx r v).heap = s.heap := rfl
@[simp] theorem State.wx_slotMap (s : State) (r : Reg) (v : Word) : (s.wx r v).slotMap = s.slotMap := rfl
@[simp] theorem State.wx_ports (s : State) (r : Reg) (v : Word) : (s.wx r v).ports = s.ports := rfl
@[simp] theorem State.wx_launchPorts (s : State) (r : Reg) (v : Word) : (s.wx r v).launchPorts = s.launchPorts := rfl
@[simp] theorem State.wx_hostReqs (s : State) (r : Reg) (v : Word) : (s.wx r v).hostReqs = s.hostReqs := rfl
@[simp] theorem State.wx_hostOut (s : State) (r : Reg) (v : Word) : (s.wx r v).hostOut = s.hostOut := rfl
@[simp] theorem State.wx_power (s : State) (r : Reg) (v : Word) : (s.wx r v).power = s.power := rfl
@[simp] theorem State.wx_corrected (s : State) (r : Reg) (v : Word) : (s.wx r v).corrected = s.corrected := rfl

/-! ## A hart: retire -/

@[simp] theorem Hart.retire_status (h : Hart) : (h.retire).status = h.status := rfl
@[simp] theorem Hart.retire_mode (h : Hart) : (h.retire).mode = h.mode := rfl
@[simp] theorem Hart.retire_npc (h : Hart) : (h.retire).npc = h.npc := rfl
@[simp] theorem Hart.retire_ir (h : Hart) : (h.retire).ir = h.ir := rfl
@[simp] theorem Hart.retire_x (h : Hart) : (h.retire).x = h.x := rfl
@[simp] theorem Hart.retire_k (h : Hart) : (h.retire).k = h.k := rfl
@[simp] theorem Hart.retire_b (h : Hart) : (h.retire).b = h.b := rfl
@[simp] theorem Hart.retire_q (h : Hart) : (h.retire).q = h.q := rfl
@[simp] theorem Hart.retire_priv (h : Hart) : (h.retire).priv = h.priv := rfl
@[simp] theorem Hart.retire_dev (h : Hart) : (h.retire).dev = h.dev := rfl
@[simp] theorem Hart.retire_pts (h : Hart) : (h.retire).pts = h.pts := rfl
@[simp] theorem Hart.retire_task (h : Hart) : (h.retire).task = h.task := rfl
@[simp] theorem Hart.retire_ctx (h : Hart) : (h.retire).ctx = h.ctx := rfl
@[simp] theorem Hart.retire_slot (h : Hart) : (h.retire).slot = h.slot := rfl
@[simp] theorem Hart.retire_fstat (h : Hart) : (h.retire).fstat = h.fstat := rfl
@[simp] theorem Hart.retire_ackTime (h : Hart) : (h.retire).ackTime = h.ackTime := rfl
@[simp] theorem Hart.retire_unacked (h : Hart) : (h.retire).unacked = h.unacked := rfl
@[simp] theorem Hart.retire_postedPorts (h : Hart) : (h.retire).postedPorts = h.postedPorts := rfl
@[simp] theorem Hart.retire_tokens (h : Hart) : (h.retire).tokens = h.tokens := rfl
@[simp] theorem Hart.retire_sb (h : Hart) : (h.retire).sb = h.sb := rfl
@[simp] theorem Hart.retire_tlb (h : Hart) : (h.retire).tlb = h.tlb := rfl
@[simp] theorem Hart.retire_l1 (h : Hart) : (h.retire).l1 = h.l1 := rfl
@[simp] theorem Hart.retire_resv (h : Hart) : (h.retire).resv = h.resv := rfl
@[simp] theorem Hart.retire_ld (h : Hart) : (h.retire).ld = h.ld := rfl
@[simp] theorem Hart.retire_st (h : Hart) : (h.retire).st = h.st := rfl
@[simp] theorem Hart.retire_mail (h : Hart) : (h.retire).mail = h.mail := rfl
@[simp] theorem Hart.retire_mailLost (h : Hart) : (h.retire).mailLost = h.mailLost := rfl
@[simp] theorem Hart.retire_tfq (h : Hart) : (h.retire).tfq = h.tfq := rfl
@[simp] theorem Hart.retire_wdPending (h : Hart) : (h.retire).wdPending = h.wdPending := rfl
@[simp] theorem Hart.retire_mpoison (h : Hart) : (h.retire).mpoison = h.mpoison := rfl
@[simp] theorem Hart.retire_vwait (h : Hart) : (h.retire).vwait = h.vwait := rfl
@[simp] theorem Hart.retire_xwait (h : Hart) : (h.retire).xwait = h.xwait := rfl
@[simp] theorem Hart.retire_fmt (h : Hart) : (h.retire).fmt = h.fmt := rfl
@[simp] theorem Hart.retire_ucode (h : Hart) : (h.retire).ucode = h.ucode := rfl
@[simp] theorem Hart.retire_ust (h : Hart) : (h.retire).ust = h.ust := rfl
@[simp] theorem Hart.retire_lane (h : Hart) : (h.retire).lane = h.lane := rfl
@[simp] theorem Hart.retire_win (h : Hart) : (h.retire).win = h.win := rfl
@[simp] theorem Hart.retire_startTraps (h : Hart) : (h.retire).startTraps = h.startTraps := rfl
@[simp] theorem Hart.retire_trace (h : Hart) : (h.retire).trace = h.trace := rfl
@[simp] theorem Hart.retire_stopReq (h : Hart) : (h.retire).stopReq = h.stopReq := rfl
@[simp] theorem Hart.retire_cycOff (h : Hart) : (h.retire).cycOff = h.cycOff := rfl
@[simp] theorem Hart.retire_parkedCycles (h : Hart) : (h.retire).parkedCycles = h.parkedCycles := rfl
@[simp] theorem Hart.retire_inc (h : Hart) : (h.retire).inc = h.inc := rfl
@[simp] theorem Hart.retire_deaths (h : Hart) : (h.retire).deaths = h.deaths := rfl
@[simp] theorem Hart.retire_driftAt (h : Hart) : (h.retire).driftAt = h.driftAt := rfl
@[simp] theorem Hart.retire_icache (h : Hart) : (h.retire).icache = h.icache := rfl

/-! ## A hart: wx -/

@[simp] theorem Hart.wx_status (h : Hart) (r : Reg) (v : Word) : (h.wx r v).status = h.status := by unfold Hart.wx; split <;> rfl
@[simp] theorem Hart.wx_mode (h : Hart) (r : Reg) (v : Word) : (h.wx r v).mode = h.mode := by unfold Hart.wx; split <;> rfl
@[simp] theorem Hart.wx_pc (h : Hart) (r : Reg) (v : Word) : (h.wx r v).pc = h.pc := by unfold Hart.wx; split <;> rfl
@[simp] theorem Hart.wx_npc (h : Hart) (r : Reg) (v : Word) : (h.wx r v).npc = h.npc := by unfold Hart.wx; split <;> rfl
@[simp] theorem Hart.wx_ir (h : Hart) (r : Reg) (v : Word) : (h.wx r v).ir = h.ir := by unfold Hart.wx; split <;> rfl
@[simp] theorem Hart.wx_k (h : Hart) (r : Reg) (v : Word) : (h.wx r v).k = h.k := by unfold Hart.wx; split <;> rfl
@[simp] theorem Hart.wx_b (h : Hart) (r : Reg) (v : Word) : (h.wx r v).b = h.b := by unfold Hart.wx; split <;> rfl
@[simp] theorem Hart.wx_q (h : Hart) (r : Reg) (v : Word) : (h.wx r v).q = h.q := by unfold Hart.wx; split <;> rfl
@[simp] theorem Hart.wx_priv (h : Hart) (r : Reg) (v : Word) : (h.wx r v).priv = h.priv := by unfold Hart.wx; split <;> rfl
@[simp] theorem Hart.wx_dev (h : Hart) (r : Reg) (v : Word) : (h.wx r v).dev = h.dev := by unfold Hart.wx; split <;> rfl
@[simp] theorem Hart.wx_pts (h : Hart) (r : Reg) (v : Word) : (h.wx r v).pts = h.pts := by unfold Hart.wx; split <;> rfl
@[simp] theorem Hart.wx_task (h : Hart) (r : Reg) (v : Word) : (h.wx r v).task = h.task := by unfold Hart.wx; split <;> rfl
@[simp] theorem Hart.wx_ctx (h : Hart) (r : Reg) (v : Word) : (h.wx r v).ctx = h.ctx := by unfold Hart.wx; split <;> rfl
@[simp] theorem Hart.wx_slot (h : Hart) (r : Reg) (v : Word) : (h.wx r v).slot = h.slot := by unfold Hart.wx; split <;> rfl
@[simp] theorem Hart.wx_fstat (h : Hart) (r : Reg) (v : Word) : (h.wx r v).fstat = h.fstat := by unfold Hart.wx; split <;> rfl
@[simp] theorem Hart.wx_ackTime (h : Hart) (r : Reg) (v : Word) : (h.wx r v).ackTime = h.ackTime := by unfold Hart.wx; split <;> rfl
@[simp] theorem Hart.wx_unacked (h : Hart) (r : Reg) (v : Word) : (h.wx r v).unacked = h.unacked := by unfold Hart.wx; split <;> rfl
@[simp] theorem Hart.wx_postedPorts (h : Hart) (r : Reg) (v : Word) : (h.wx r v).postedPorts = h.postedPorts := by unfold Hart.wx; split <;> rfl
@[simp] theorem Hart.wx_tokens (h : Hart) (r : Reg) (v : Word) : (h.wx r v).tokens = h.tokens := by unfold Hart.wx; split <;> rfl
@[simp] theorem Hart.wx_sb (h : Hart) (r : Reg) (v : Word) : (h.wx r v).sb = h.sb := by unfold Hart.wx; split <;> rfl
@[simp] theorem Hart.wx_tlb (h : Hart) (r : Reg) (v : Word) : (h.wx r v).tlb = h.tlb := by unfold Hart.wx; split <;> rfl
@[simp] theorem Hart.wx_l1 (h : Hart) (r : Reg) (v : Word) : (h.wx r v).l1 = h.l1 := by unfold Hart.wx; split <;> rfl
@[simp] theorem Hart.wx_resv (h : Hart) (r : Reg) (v : Word) : (h.wx r v).resv = h.resv := by unfold Hart.wx; split <;> rfl
@[simp] theorem Hart.wx_ld (h : Hart) (r : Reg) (v : Word) : (h.wx r v).ld = h.ld := by unfold Hart.wx; split <;> rfl
@[simp] theorem Hart.wx_st (h : Hart) (r : Reg) (v : Word) : (h.wx r v).st = h.st := by unfold Hart.wx; split <;> rfl
@[simp] theorem Hart.wx_partials (h : Hart) (r : Reg) (v : Word) : (h.wx r v).partials = h.partials := by unfold Hart.wx; split <;> rfl
@[simp] theorem Hart.wx_entering (h : Hart) (r : Reg) (v : Word) : (h.wx r v).entering = h.entering := by unfold Hart.wx; split <;> rfl
@[simp] theorem Hart.wx_mail (h : Hart) (r : Reg) (v : Word) : (h.wx r v).mail = h.mail := by unfold Hart.wx; split <;> rfl
@[simp] theorem Hart.wx_mailLost (h : Hart) (r : Reg) (v : Word) : (h.wx r v).mailLost = h.mailLost := by unfold Hart.wx; split <;> rfl
@[simp] theorem Hart.wx_tfq (h : Hart) (r : Reg) (v : Word) : (h.wx r v).tfq = h.tfq := by unfold Hart.wx; split <;> rfl
@[simp] theorem Hart.wx_wdPending (h : Hart) (r : Reg) (v : Word) : (h.wx r v).wdPending = h.wdPending := by unfold Hart.wx; split <;> rfl
@[simp] theorem Hart.wx_mpoison (h : Hart) (r : Reg) (v : Word) : (h.wx r v).mpoison = h.mpoison := by unfold Hart.wx; split <;> rfl
@[simp] theorem Hart.wx_vwait (h : Hart) (r : Reg) (v : Word) : (h.wx r v).vwait = h.vwait := by unfold Hart.wx; split <;> rfl
@[simp] theorem Hart.wx_xwait (h : Hart) (r : Reg) (v : Word) : (h.wx r v).xwait = h.xwait := by unfold Hart.wx; split <;> rfl
@[simp] theorem Hart.wx_fmt (h : Hart) (r : Reg) (v : Word) : (h.wx r v).fmt = h.fmt := by unfold Hart.wx; split <;> rfl
@[simp] theorem Hart.wx_ucode (h : Hart) (r : Reg) (v : Word) : (h.wx r v).ucode = h.ucode := by unfold Hart.wx; split <;> rfl
@[simp] theorem Hart.wx_ust (h : Hart) (r : Reg) (v : Word) : (h.wx r v).ust = h.ust := by unfold Hart.wx; split <;> rfl
@[simp] theorem Hart.wx_lane (h : Hart) (r : Reg) (v : Word) : (h.wx r v).lane = h.lane := by unfold Hart.wx; split <;> rfl
@[simp] theorem Hart.wx_win (h : Hart) (r : Reg) (v : Word) : (h.wx r v).win = h.win := by unfold Hart.wx; split <;> rfl
@[simp] theorem Hart.wx_startTraps (h : Hart) (r : Reg) (v : Word) : (h.wx r v).startTraps = h.startTraps := by unfold Hart.wx; split <;> rfl
@[simp] theorem Hart.wx_trace (h : Hart) (r : Reg) (v : Word) : (h.wx r v).trace = h.trace := by unfold Hart.wx; split <;> rfl
@[simp] theorem Hart.wx_stopReq (h : Hart) (r : Reg) (v : Word) : (h.wx r v).stopReq = h.stopReq := by unfold Hart.wx; split <;> rfl
@[simp] theorem Hart.wx_cycOff (h : Hart) (r : Reg) (v : Word) : (h.wx r v).cycOff = h.cycOff := by unfold Hart.wx; split <;> rfl
@[simp] theorem Hart.wx_instret (h : Hart) (r : Reg) (v : Word) : (h.wx r v).instret = h.instret := by unfold Hart.wx; split <;> rfl
@[simp] theorem Hart.wx_parkedCycles (h : Hart) (r : Reg) (v : Word) : (h.wx r v).parkedCycles = h.parkedCycles := by unfold Hart.wx; split <;> rfl
@[simp] theorem Hart.wx_inc (h : Hart) (r : Reg) (v : Word) : (h.wx r v).inc = h.inc := by unfold Hart.wx; split <;> rfl
@[simp] theorem Hart.wx_deaths (h : Hart) (r : Reg) (v : Word) : (h.wx r v).deaths = h.deaths := by unfold Hart.wx; split <;> rfl
@[simp] theorem Hart.wx_driftAt (h : Hart) (r : Reg) (v : Word) : (h.wx r v).driftAt = h.driftAt := by unfold Hart.wx; split <;> rfl
@[simp] theorem Hart.wx_icache (h : Hart) (r : Reg) (v : Word) : (h.wx r v).icache = h.icache := by unfold Hart.wx; split <;> rfl

/-! ## A hart: wk -/

@[simp] theorem Hart.wk_status (h : Hart) (n : Nat) (v : Word) : (h.wk n v).status = h.status := by unfold Hart.wk; split <;> rfl
@[simp] theorem Hart.wk_mode (h : Hart) (n : Nat) (v : Word) : (h.wk n v).mode = h.mode := by unfold Hart.wk; split <;> rfl
@[simp] theorem Hart.wk_pc (h : Hart) (n : Nat) (v : Word) : (h.wk n v).pc = h.pc := by unfold Hart.wk; split <;> rfl
@[simp] theorem Hart.wk_npc (h : Hart) (n : Nat) (v : Word) : (h.wk n v).npc = h.npc := by unfold Hart.wk; split <;> rfl
@[simp] theorem Hart.wk_ir (h : Hart) (n : Nat) (v : Word) : (h.wk n v).ir = h.ir := by unfold Hart.wk; split <;> rfl
@[simp] theorem Hart.wk_x (h : Hart) (n : Nat) (v : Word) : (h.wk n v).x = h.x := by unfold Hart.wk; split <;> rfl
@[simp] theorem Hart.wk_b (h : Hart) (n : Nat) (v : Word) : (h.wk n v).b = h.b := by unfold Hart.wk; split <;> rfl
@[simp] theorem Hart.wk_q (h : Hart) (n : Nat) (v : Word) : (h.wk n v).q = h.q := by unfold Hart.wk; split <;> rfl
@[simp] theorem Hart.wk_priv (h : Hart) (n : Nat) (v : Word) : (h.wk n v).priv = h.priv := by unfold Hart.wk; split <;> rfl
@[simp] theorem Hart.wk_dev (h : Hart) (n : Nat) (v : Word) : (h.wk n v).dev = h.dev := by unfold Hart.wk; split <;> rfl
@[simp] theorem Hart.wk_pts (h : Hart) (n : Nat) (v : Word) : (h.wk n v).pts = h.pts := by unfold Hart.wk; split <;> rfl
@[simp] theorem Hart.wk_task (h : Hart) (n : Nat) (v : Word) : (h.wk n v).task = h.task := by unfold Hart.wk; split <;> rfl
@[simp] theorem Hart.wk_ctx (h : Hart) (n : Nat) (v : Word) : (h.wk n v).ctx = h.ctx := by unfold Hart.wk; split <;> rfl
@[simp] theorem Hart.wk_slot (h : Hart) (n : Nat) (v : Word) : (h.wk n v).slot = h.slot := by unfold Hart.wk; split <;> rfl
@[simp] theorem Hart.wk_fstat (h : Hart) (n : Nat) (v : Word) : (h.wk n v).fstat = h.fstat := by unfold Hart.wk; split <;> rfl
@[simp] theorem Hart.wk_ackTime (h : Hart) (n : Nat) (v : Word) : (h.wk n v).ackTime = h.ackTime := by unfold Hart.wk; split <;> rfl
@[simp] theorem Hart.wk_unacked (h : Hart) (n : Nat) (v : Word) : (h.wk n v).unacked = h.unacked := by unfold Hart.wk; split <;> rfl
@[simp] theorem Hart.wk_postedPorts (h : Hart) (n : Nat) (v : Word) : (h.wk n v).postedPorts = h.postedPorts := by unfold Hart.wk; split <;> rfl
@[simp] theorem Hart.wk_tokens (h : Hart) (n : Nat) (v : Word) : (h.wk n v).tokens = h.tokens := by unfold Hart.wk; split <;> rfl
@[simp] theorem Hart.wk_sb (h : Hart) (n : Nat) (v : Word) : (h.wk n v).sb = h.sb := by unfold Hart.wk; split <;> rfl
@[simp] theorem Hart.wk_tlb (h : Hart) (n : Nat) (v : Word) : (h.wk n v).tlb = h.tlb := by unfold Hart.wk; split <;> rfl
@[simp] theorem Hart.wk_l1 (h : Hart) (n : Nat) (v : Word) : (h.wk n v).l1 = h.l1 := by unfold Hart.wk; split <;> rfl
@[simp] theorem Hart.wk_resv (h : Hart) (n : Nat) (v : Word) : (h.wk n v).resv = h.resv := by unfold Hart.wk; split <;> rfl
@[simp] theorem Hart.wk_ld (h : Hart) (n : Nat) (v : Word) : (h.wk n v).ld = h.ld := by unfold Hart.wk; split <;> rfl
@[simp] theorem Hart.wk_st (h : Hart) (n : Nat) (v : Word) : (h.wk n v).st = h.st := by unfold Hart.wk; split <;> rfl
@[simp] theorem Hart.wk_partials (h : Hart) (n : Nat) (v : Word) : (h.wk n v).partials = h.partials := by unfold Hart.wk; split <;> rfl
@[simp] theorem Hart.wk_entering (h : Hart) (n : Nat) (v : Word) : (h.wk n v).entering = h.entering := by unfold Hart.wk; split <;> rfl
@[simp] theorem Hart.wk_mail (h : Hart) (n : Nat) (v : Word) : (h.wk n v).mail = h.mail := by unfold Hart.wk; split <;> rfl
@[simp] theorem Hart.wk_mailLost (h : Hart) (n : Nat) (v : Word) : (h.wk n v).mailLost = h.mailLost := by unfold Hart.wk; split <;> rfl
@[simp] theorem Hart.wk_tfq (h : Hart) (n : Nat) (v : Word) : (h.wk n v).tfq = h.tfq := by unfold Hart.wk; split <;> rfl
@[simp] theorem Hart.wk_wdPending (h : Hart) (n : Nat) (v : Word) : (h.wk n v).wdPending = h.wdPending := by unfold Hart.wk; split <;> rfl
@[simp] theorem Hart.wk_mpoison (h : Hart) (n : Nat) (v : Word) : (h.wk n v).mpoison = h.mpoison := by unfold Hart.wk; split <;> rfl
@[simp] theorem Hart.wk_vwait (h : Hart) (n : Nat) (v : Word) : (h.wk n v).vwait = h.vwait := by unfold Hart.wk; split <;> rfl
@[simp] theorem Hart.wk_xwait (h : Hart) (n : Nat) (v : Word) : (h.wk n v).xwait = h.xwait := by unfold Hart.wk; split <;> rfl
@[simp] theorem Hart.wk_fmt (h : Hart) (n : Nat) (v : Word) : (h.wk n v).fmt = h.fmt := by unfold Hart.wk; split <;> rfl
@[simp] theorem Hart.wk_ucode (h : Hart) (n : Nat) (v : Word) : (h.wk n v).ucode = h.ucode := by unfold Hart.wk; split <;> rfl
@[simp] theorem Hart.wk_ust (h : Hart) (n : Nat) (v : Word) : (h.wk n v).ust = h.ust := by unfold Hart.wk; split <;> rfl
@[simp] theorem Hart.wk_lane (h : Hart) (n : Nat) (v : Word) : (h.wk n v).lane = h.lane := by unfold Hart.wk; split <;> rfl
@[simp] theorem Hart.wk_win (h : Hart) (n : Nat) (v : Word) : (h.wk n v).win = h.win := by unfold Hart.wk; split <;> rfl
@[simp] theorem Hart.wk_startTraps (h : Hart) (n : Nat) (v : Word) : (h.wk n v).startTraps = h.startTraps := by unfold Hart.wk; split <;> rfl
@[simp] theorem Hart.wk_trace (h : Hart) (n : Nat) (v : Word) : (h.wk n v).trace = h.trace := by unfold Hart.wk; split <;> rfl
@[simp] theorem Hart.wk_stopReq (h : Hart) (n : Nat) (v : Word) : (h.wk n v).stopReq = h.stopReq := by unfold Hart.wk; split <;> rfl
@[simp] theorem Hart.wk_cycOff (h : Hart) (n : Nat) (v : Word) : (h.wk n v).cycOff = h.cycOff := by unfold Hart.wk; split <;> rfl
@[simp] theorem Hart.wk_instret (h : Hart) (n : Nat) (v : Word) : (h.wk n v).instret = h.instret := by unfold Hart.wk; split <;> rfl
@[simp] theorem Hart.wk_parkedCycles (h : Hart) (n : Nat) (v : Word) : (h.wk n v).parkedCycles = h.parkedCycles := by unfold Hart.wk; split <;> rfl
@[simp] theorem Hart.wk_inc (h : Hart) (n : Nat) (v : Word) : (h.wk n v).inc = h.inc := by unfold Hart.wk; split <;> rfl
@[simp] theorem Hart.wk_deaths (h : Hart) (n : Nat) (v : Word) : (h.wk n v).deaths = h.deaths := by unfold Hart.wk; split <;> rfl
@[simp] theorem Hart.wk_driftAt (h : Hart) (n : Nat) (v : Word) : (h.wk n v).driftAt = h.driftAt := by unfold Hart.wk; split <;> rfl
@[simp] theorem Hart.wk_icache (h : Hart) (n : Nat) (v : Word) : (h.wk n v).icache = h.icache := by unfold Hart.wk; split <;> rfl

/-! ## A hart: raise -/

@[simp] theorem Hart.raise_status (h : Hart) (t : Nat) : (h.raise t).status = h.status := rfl
@[simp] theorem Hart.raise_mode (h : Hart) (t : Nat) : (h.raise t).mode = h.mode := rfl
@[simp] theorem Hart.raise_pc (h : Hart) (t : Nat) : (h.raise t).pc = h.pc := rfl
@[simp] theorem Hart.raise_npc (h : Hart) (t : Nat) : (h.raise t).npc = h.npc := rfl
@[simp] theorem Hart.raise_ir (h : Hart) (t : Nat) : (h.raise t).ir = h.ir := rfl
@[simp] theorem Hart.raise_x (h : Hart) (t : Nat) : (h.raise t).x = h.x := rfl
@[simp] theorem Hart.raise_k (h : Hart) (t : Nat) : (h.raise t).k = h.k := rfl
@[simp] theorem Hart.raise_b (h : Hart) (t : Nat) : (h.raise t).b = h.b := rfl
@[simp] theorem Hart.raise_q (h : Hart) (t : Nat) : (h.raise t).q = h.q := rfl
@[simp] theorem Hart.raise_priv (h : Hart) (t : Nat) : (h.raise t).priv = h.priv := rfl
@[simp] theorem Hart.raise_dev (h : Hart) (t : Nat) : (h.raise t).dev = h.dev := rfl
@[simp] theorem Hart.raise_task (h : Hart) (t : Nat) : (h.raise t).task = h.task := rfl
@[simp] theorem Hart.raise_ctx (h : Hart) (t : Nat) : (h.raise t).ctx = h.ctx := rfl
@[simp] theorem Hart.raise_slot (h : Hart) (t : Nat) : (h.raise t).slot = h.slot := rfl
@[simp] theorem Hart.raise_fstat (h : Hart) (t : Nat) : (h.raise t).fstat = h.fstat := rfl
@[simp] theorem Hart.raise_ackTime (h : Hart) (t : Nat) : (h.raise t).ackTime = h.ackTime := rfl
@[simp] theorem Hart.raise_unacked (h : Hart) (t : Nat) : (h.raise t).unacked = h.unacked := rfl
@[simp] theorem Hart.raise_postedPorts (h : Hart) (t : Nat) : (h.raise t).postedPorts = h.postedPorts := rfl
@[simp] theorem Hart.raise_tokens (h : Hart) (t : Nat) : (h.raise t).tokens = h.tokens := rfl
@[simp] theorem Hart.raise_sb (h : Hart) (t : Nat) : (h.raise t).sb = h.sb := rfl
@[simp] theorem Hart.raise_tlb (h : Hart) (t : Nat) : (h.raise t).tlb = h.tlb := rfl
@[simp] theorem Hart.raise_l1 (h : Hart) (t : Nat) : (h.raise t).l1 = h.l1 := rfl
@[simp] theorem Hart.raise_resv (h : Hart) (t : Nat) : (h.raise t).resv = h.resv := rfl
@[simp] theorem Hart.raise_ld (h : Hart) (t : Nat) : (h.raise t).ld = h.ld := rfl
@[simp] theorem Hart.raise_st (h : Hart) (t : Nat) : (h.raise t).st = h.st := rfl
@[simp] theorem Hart.raise_partials (h : Hart) (t : Nat) : (h.raise t).partials = h.partials := rfl
@[simp] theorem Hart.raise_entering (h : Hart) (t : Nat) : (h.raise t).entering = h.entering := rfl
@[simp] theorem Hart.raise_mail (h : Hart) (t : Nat) : (h.raise t).mail = h.mail := rfl
@[simp] theorem Hart.raise_mailLost (h : Hart) (t : Nat) : (h.raise t).mailLost = h.mailLost := rfl
@[simp] theorem Hart.raise_tfq (h : Hart) (t : Nat) : (h.raise t).tfq = h.tfq := rfl
@[simp] theorem Hart.raise_wdPending (h : Hart) (t : Nat) : (h.raise t).wdPending = h.wdPending := rfl
@[simp] theorem Hart.raise_mpoison (h : Hart) (t : Nat) : (h.raise t).mpoison = h.mpoison := rfl
@[simp] theorem Hart.raise_vwait (h : Hart) (t : Nat) : (h.raise t).vwait = h.vwait := rfl
@[simp] theorem Hart.raise_xwait (h : Hart) (t : Nat) : (h.raise t).xwait = h.xwait := rfl
@[simp] theorem Hart.raise_fmt (h : Hart) (t : Nat) : (h.raise t).fmt = h.fmt := rfl
@[simp] theorem Hart.raise_ucode (h : Hart) (t : Nat) : (h.raise t).ucode = h.ucode := rfl
@[simp] theorem Hart.raise_ust (h : Hart) (t : Nat) : (h.raise t).ust = h.ust := rfl
@[simp] theorem Hart.raise_lane (h : Hart) (t : Nat) : (h.raise t).lane = h.lane := rfl
@[simp] theorem Hart.raise_win (h : Hart) (t : Nat) : (h.raise t).win = h.win := rfl
@[simp] theorem Hart.raise_startTraps (h : Hart) (t : Nat) : (h.raise t).startTraps = h.startTraps := rfl
@[simp] theorem Hart.raise_trace (h : Hart) (t : Nat) : (h.raise t).trace = h.trace := rfl
@[simp] theorem Hart.raise_stopReq (h : Hart) (t : Nat) : (h.raise t).stopReq = h.stopReq := rfl
@[simp] theorem Hart.raise_cycOff (h : Hart) (t : Nat) : (h.raise t).cycOff = h.cycOff := rfl
@[simp] theorem Hart.raise_instret (h : Hart) (t : Nat) : (h.raise t).instret = h.instret := rfl
@[simp] theorem Hart.raise_parkedCycles (h : Hart) (t : Nat) : (h.raise t).parkedCycles = h.parkedCycles := rfl
@[simp] theorem Hart.raise_inc (h : Hart) (t : Nat) : (h.raise t).inc = h.inc := rfl
@[simp] theorem Hart.raise_deaths (h : Hart) (t : Nat) : (h.raise t).deaths = h.deaths := rfl
@[simp] theorem Hart.raise_driftAt (h : Hart) (t : Nat) : (h.raise t).driftAt = h.driftAt := rfl
@[simp] theorem Hart.raise_icache (h : Hart) (t : Nat) : (h.raise t).icache = h.icache := rfl

/-! ## A hart: setToken -/

@[simp] theorem Hart.setToken_status (h : Hart) (n : Nat) (t : Token) : (h.setToken n t).status = h.status := rfl
@[simp] theorem Hart.setToken_mode (h : Hart) (n : Nat) (t : Token) : (h.setToken n t).mode = h.mode := rfl
@[simp] theorem Hart.setToken_pc (h : Hart) (n : Nat) (t : Token) : (h.setToken n t).pc = h.pc := rfl
@[simp] theorem Hart.setToken_npc (h : Hart) (n : Nat) (t : Token) : (h.setToken n t).npc = h.npc := rfl
@[simp] theorem Hart.setToken_ir (h : Hart) (n : Nat) (t : Token) : (h.setToken n t).ir = h.ir := rfl
@[simp] theorem Hart.setToken_x (h : Hart) (n : Nat) (t : Token) : (h.setToken n t).x = h.x := rfl
@[simp] theorem Hart.setToken_k (h : Hart) (n : Nat) (t : Token) : (h.setToken n t).k = h.k := rfl
@[simp] theorem Hart.setToken_b (h : Hart) (n : Nat) (t : Token) : (h.setToken n t).b = h.b := rfl
@[simp] theorem Hart.setToken_q (h : Hart) (n : Nat) (t : Token) : (h.setToken n t).q = h.q := rfl
@[simp] theorem Hart.setToken_priv (h : Hart) (n : Nat) (t : Token) : (h.setToken n t).priv = h.priv := rfl
@[simp] theorem Hart.setToken_dev (h : Hart) (n : Nat) (t : Token) : (h.setToken n t).dev = h.dev := rfl
@[simp] theorem Hart.setToken_pts (h : Hart) (n : Nat) (t : Token) : (h.setToken n t).pts = h.pts := rfl
@[simp] theorem Hart.setToken_task (h : Hart) (n : Nat) (t : Token) : (h.setToken n t).task = h.task := rfl
@[simp] theorem Hart.setToken_ctx (h : Hart) (n : Nat) (t : Token) : (h.setToken n t).ctx = h.ctx := rfl
@[simp] theorem Hart.setToken_slot (h : Hart) (n : Nat) (t : Token) : (h.setToken n t).slot = h.slot := rfl
@[simp] theorem Hart.setToken_fstat (h : Hart) (n : Nat) (t : Token) : (h.setToken n t).fstat = h.fstat := rfl
@[simp] theorem Hart.setToken_ackTime (h : Hart) (n : Nat) (t : Token) : (h.setToken n t).ackTime = h.ackTime := rfl
@[simp] theorem Hart.setToken_unacked (h : Hart) (n : Nat) (t : Token) : (h.setToken n t).unacked = h.unacked := rfl
@[simp] theorem Hart.setToken_postedPorts (h : Hart) (n : Nat) (t : Token) : (h.setToken n t).postedPorts = h.postedPorts := rfl
@[simp] theorem Hart.setToken_sb (h : Hart) (n : Nat) (t : Token) : (h.setToken n t).sb = h.sb := rfl
@[simp] theorem Hart.setToken_tlb (h : Hart) (n : Nat) (t : Token) : (h.setToken n t).tlb = h.tlb := rfl
@[simp] theorem Hart.setToken_l1 (h : Hart) (n : Nat) (t : Token) : (h.setToken n t).l1 = h.l1 := rfl
@[simp] theorem Hart.setToken_resv (h : Hart) (n : Nat) (t : Token) : (h.setToken n t).resv = h.resv := rfl
@[simp] theorem Hart.setToken_ld (h : Hart) (n : Nat) (t : Token) : (h.setToken n t).ld = h.ld := rfl
@[simp] theorem Hart.setToken_st (h : Hart) (n : Nat) (t : Token) : (h.setToken n t).st = h.st := rfl
@[simp] theorem Hart.setToken_partials (h : Hart) (n : Nat) (t : Token) : (h.setToken n t).partials = h.partials := rfl
@[simp] theorem Hart.setToken_entering (h : Hart) (n : Nat) (t : Token) : (h.setToken n t).entering = h.entering := rfl
@[simp] theorem Hart.setToken_mail (h : Hart) (n : Nat) (t : Token) : (h.setToken n t).mail = h.mail := rfl
@[simp] theorem Hart.setToken_mailLost (h : Hart) (n : Nat) (t : Token) : (h.setToken n t).mailLost = h.mailLost := rfl
@[simp] theorem Hart.setToken_tfq (h : Hart) (n : Nat) (t : Token) : (h.setToken n t).tfq = h.tfq := rfl
@[simp] theorem Hart.setToken_wdPending (h : Hart) (n : Nat) (t : Token) : (h.setToken n t).wdPending = h.wdPending := rfl
@[simp] theorem Hart.setToken_mpoison (h : Hart) (n : Nat) (t : Token) : (h.setToken n t).mpoison = h.mpoison := rfl
@[simp] theorem Hart.setToken_vwait (h : Hart) (n : Nat) (t : Token) : (h.setToken n t).vwait = h.vwait := rfl
@[simp] theorem Hart.setToken_xwait (h : Hart) (n : Nat) (t : Token) : (h.setToken n t).xwait = h.xwait := rfl
@[simp] theorem Hart.setToken_fmt (h : Hart) (n : Nat) (t : Token) : (h.setToken n t).fmt = h.fmt := rfl
@[simp] theorem Hart.setToken_ucode (h : Hart) (n : Nat) (t : Token) : (h.setToken n t).ucode = h.ucode := rfl
@[simp] theorem Hart.setToken_ust (h : Hart) (n : Nat) (t : Token) : (h.setToken n t).ust = h.ust := rfl
@[simp] theorem Hart.setToken_lane (h : Hart) (n : Nat) (t : Token) : (h.setToken n t).lane = h.lane := rfl
@[simp] theorem Hart.setToken_win (h : Hart) (n : Nat) (t : Token) : (h.setToken n t).win = h.win := rfl
@[simp] theorem Hart.setToken_startTraps (h : Hart) (n : Nat) (t : Token) : (h.setToken n t).startTraps = h.startTraps := rfl
@[simp] theorem Hart.setToken_trace (h : Hart) (n : Nat) (t : Token) : (h.setToken n t).trace = h.trace := rfl
@[simp] theorem Hart.setToken_stopReq (h : Hart) (n : Nat) (t : Token) : (h.setToken n t).stopReq = h.stopReq := rfl
@[simp] theorem Hart.setToken_cycOff (h : Hart) (n : Nat) (t : Token) : (h.setToken n t).cycOff = h.cycOff := rfl
@[simp] theorem Hart.setToken_instret (h : Hart) (n : Nat) (t : Token) : (h.setToken n t).instret = h.instret := rfl
@[simp] theorem Hart.setToken_parkedCycles (h : Hart) (n : Nat) (t : Token) : (h.setToken n t).parkedCycles = h.parkedCycles := rfl
@[simp] theorem Hart.setToken_inc (h : Hart) (n : Nat) (t : Token) : (h.setToken n t).inc = h.inc := rfl
@[simp] theorem Hart.setToken_deaths (h : Hart) (n : Nat) (t : Token) : (h.setToken n t).deaths = h.deaths := rfl
@[simp] theorem Hart.setToken_driftAt (h : Hart) (n : Nat) (t : Token) : (h.setToken n t).driftAt = h.driftAt := rfl
@[simp] theorem Hart.setToken_icache (h : Hart) (n : Nat) (t : Token) : (h.setToken n t).icache = h.icache := rfl

/-! ## A hart: addFail -/

@[simp] theorem Hart.addFail_status (h : Hart) (bit target : Nat) (count : Bool) : (h.addFail bit target count).status = h.status := rfl
@[simp] theorem Hart.addFail_mode (h : Hart) (bit target : Nat) (count : Bool) : (h.addFail bit target count).mode = h.mode := rfl
@[simp] theorem Hart.addFail_pc (h : Hart) (bit target : Nat) (count : Bool) : (h.addFail bit target count).pc = h.pc := rfl
@[simp] theorem Hart.addFail_npc (h : Hart) (bit target : Nat) (count : Bool) : (h.addFail bit target count).npc = h.npc := rfl
@[simp] theorem Hart.addFail_ir (h : Hart) (bit target : Nat) (count : Bool) : (h.addFail bit target count).ir = h.ir := rfl
@[simp] theorem Hart.addFail_x (h : Hart) (bit target : Nat) (count : Bool) : (h.addFail bit target count).x = h.x := rfl
@[simp] theorem Hart.addFail_k (h : Hart) (bit target : Nat) (count : Bool) : (h.addFail bit target count).k = h.k := rfl
@[simp] theorem Hart.addFail_b (h : Hart) (bit target : Nat) (count : Bool) : (h.addFail bit target count).b = h.b := rfl
@[simp] theorem Hart.addFail_q (h : Hart) (bit target : Nat) (count : Bool) : (h.addFail bit target count).q = h.q := rfl
@[simp] theorem Hart.addFail_priv (h : Hart) (bit target : Nat) (count : Bool) : (h.addFail bit target count).priv = h.priv := rfl
@[simp] theorem Hart.addFail_dev (h : Hart) (bit target : Nat) (count : Bool) : (h.addFail bit target count).dev = h.dev := rfl
@[simp] theorem Hart.addFail_pts (h : Hart) (bit target : Nat) (count : Bool) : (h.addFail bit target count).pts = h.pts := rfl
@[simp] theorem Hart.addFail_task (h : Hart) (bit target : Nat) (count : Bool) : (h.addFail bit target count).task = h.task := rfl
@[simp] theorem Hart.addFail_ctx (h : Hart) (bit target : Nat) (count : Bool) : (h.addFail bit target count).ctx = h.ctx := rfl
@[simp] theorem Hart.addFail_slot (h : Hart) (bit target : Nat) (count : Bool) : (h.addFail bit target count).slot = h.slot := rfl
@[simp] theorem Hart.addFail_ackTime (h : Hart) (bit target : Nat) (count : Bool) : (h.addFail bit target count).ackTime = h.ackTime := rfl
@[simp] theorem Hart.addFail_unacked (h : Hart) (bit target : Nat) (count : Bool) : (h.addFail bit target count).unacked = h.unacked := rfl
@[simp] theorem Hart.addFail_postedPorts (h : Hart) (bit target : Nat) (count : Bool) : (h.addFail bit target count).postedPorts = h.postedPorts := rfl
@[simp] theorem Hart.addFail_tokens (h : Hart) (bit target : Nat) (count : Bool) : (h.addFail bit target count).tokens = h.tokens := rfl
@[simp] theorem Hart.addFail_sb (h : Hart) (bit target : Nat) (count : Bool) : (h.addFail bit target count).sb = h.sb := rfl
@[simp] theorem Hart.addFail_tlb (h : Hart) (bit target : Nat) (count : Bool) : (h.addFail bit target count).tlb = h.tlb := rfl
@[simp] theorem Hart.addFail_l1 (h : Hart) (bit target : Nat) (count : Bool) : (h.addFail bit target count).l1 = h.l1 := rfl
@[simp] theorem Hart.addFail_resv (h : Hart) (bit target : Nat) (count : Bool) : (h.addFail bit target count).resv = h.resv := rfl
@[simp] theorem Hart.addFail_ld (h : Hart) (bit target : Nat) (count : Bool) : (h.addFail bit target count).ld = h.ld := rfl
@[simp] theorem Hart.addFail_st (h : Hart) (bit target : Nat) (count : Bool) : (h.addFail bit target count).st = h.st := rfl
@[simp] theorem Hart.addFail_partials (h : Hart) (bit target : Nat) (count : Bool) : (h.addFail bit target count).partials = h.partials := rfl
@[simp] theorem Hart.addFail_entering (h : Hart) (bit target : Nat) (count : Bool) : (h.addFail bit target count).entering = h.entering := rfl
@[simp] theorem Hart.addFail_mail (h : Hart) (bit target : Nat) (count : Bool) : (h.addFail bit target count).mail = h.mail := rfl
@[simp] theorem Hart.addFail_mailLost (h : Hart) (bit target : Nat) (count : Bool) : (h.addFail bit target count).mailLost = h.mailLost := rfl
@[simp] theorem Hart.addFail_tfq (h : Hart) (bit target : Nat) (count : Bool) : (h.addFail bit target count).tfq = h.tfq := rfl
@[simp] theorem Hart.addFail_wdPending (h : Hart) (bit target : Nat) (count : Bool) : (h.addFail bit target count).wdPending = h.wdPending := rfl
@[simp] theorem Hart.addFail_mpoison (h : Hart) (bit target : Nat) (count : Bool) : (h.addFail bit target count).mpoison = h.mpoison := rfl
@[simp] theorem Hart.addFail_vwait (h : Hart) (bit target : Nat) (count : Bool) : (h.addFail bit target count).vwait = h.vwait := rfl
@[simp] theorem Hart.addFail_xwait (h : Hart) (bit target : Nat) (count : Bool) : (h.addFail bit target count).xwait = h.xwait := rfl
@[simp] theorem Hart.addFail_fmt (h : Hart) (bit target : Nat) (count : Bool) : (h.addFail bit target count).fmt = h.fmt := rfl
@[simp] theorem Hart.addFail_ucode (h : Hart) (bit target : Nat) (count : Bool) : (h.addFail bit target count).ucode = h.ucode := rfl
@[simp] theorem Hart.addFail_ust (h : Hart) (bit target : Nat) (count : Bool) : (h.addFail bit target count).ust = h.ust := rfl
@[simp] theorem Hart.addFail_lane (h : Hart) (bit target : Nat) (count : Bool) : (h.addFail bit target count).lane = h.lane := rfl
@[simp] theorem Hart.addFail_win (h : Hart) (bit target : Nat) (count : Bool) : (h.addFail bit target count).win = h.win := rfl
@[simp] theorem Hart.addFail_startTraps (h : Hart) (bit target : Nat) (count : Bool) : (h.addFail bit target count).startTraps = h.startTraps := rfl
@[simp] theorem Hart.addFail_trace (h : Hart) (bit target : Nat) (count : Bool) : (h.addFail bit target count).trace = h.trace := rfl
@[simp] theorem Hart.addFail_stopReq (h : Hart) (bit target : Nat) (count : Bool) : (h.addFail bit target count).stopReq = h.stopReq := rfl
@[simp] theorem Hart.addFail_cycOff (h : Hart) (bit target : Nat) (count : Bool) : (h.addFail bit target count).cycOff = h.cycOff := rfl
@[simp] theorem Hart.addFail_instret (h : Hart) (bit target : Nat) (count : Bool) : (h.addFail bit target count).instret = h.instret := rfl
@[simp] theorem Hart.addFail_parkedCycles (h : Hart) (bit target : Nat) (count : Bool) : (h.addFail bit target count).parkedCycles = h.parkedCycles := rfl
@[simp] theorem Hart.addFail_inc (h : Hart) (bit target : Nat) (count : Bool) : (h.addFail bit target count).inc = h.inc := rfl
@[simp] theorem Hart.addFail_deaths (h : Hart) (bit target : Nat) (count : Bool) : (h.addFail bit target count).deaths = h.deaths := rfl
@[simp] theorem Hart.addFail_driftAt (h : Hart) (bit target : Nat) (count : Bool) : (h.addFail bit target count).driftAt = h.driftAt := rfl
@[simp] theorem Hart.addFail_icache (h : Hart) (bit target : Nat) (count : Bool) : (h.addFail bit target count).icache = h.icache := rfl

@[simp] theorem Hart.retire_pc (h : Hart) : h.retire.pc = h.npc := rfl
@[simp] theorem Hart.retire_instret (h : Hart) : h.retire.instret = h.instret + 1 := rfl
@[simp] theorem Hart.retire_partials (h : Hart) : h.retire.partials = [] := rfl
@[simp] theorem Hart.retire_entering (h : Hart) : h.retire.entering = [] := rfl
@[simp] theorem Hart.raise_pts (h : Hart) (t : Nat) : (h.raise t).pts = max h.pts t := rfl

end Sys2Proof.Machine
end

