-- ==== Sys2Proof/Laws/Store.lean ====
section
/-! SUPPORT. Sparse maps and the bytes of memory: reading after writing, and that every operation keeps the canonical form. -/

namespace Sys2Proof

namespace Store

variable {α : Type}

@[simp] theorem get_put_self (d : α) (m : List (Nat × α)) (k : Nat) (v : α) : get d (put m k v) k = v := by
  induction m with
  | nil => simp [put, get]
  | cons e r ih =>
    obtain ⟨k', v'⟩ := e
    unfold put
    split
    · simp [get]
    · split
      · simp [get]
      · rename_i h1 h2
        simp [get, h2, ih]

theorem get_put_ne (d : α) (m : List (Nat × α)) {j k : Nat} (v : α) (h : j ≠ k) : get d (put m k v) j = get d m j := by
  induction m with
  | nil => simp [put, get, h]
  | cons e r ih =>
    obtain ⟨k', v'⟩ := e
    unfold put
    split
    · simp [get, h]
    · split
      · rename_i h2
        subst h2
        simp [get, h]
      · simp [get, ih]

@[simp] theorem find?_put_self (m : List (Nat × α)) (k : Nat) (v : α) : find? (put m k v) k = some v := by
  induction m with
  | nil => simp [put, find?]
  | cons e r ih =>
    obtain ⟨k', v'⟩ := e
    unfold put
    split
    · simp [find?]
    · split
      · simp [find?]
      · rename_i h1 h2
        simp [find?, h2, ih]

theorem find?_put_ne (m : List (Nat × α)) {j k : Nat} (v : α) (h : j ≠ k) : find? (put m k v) j = find? m j := by
  induction m with
  | nil => simp [put, find?, h]
  | cons e r ih =>
    obtain ⟨k', v'⟩ := e
    unfold put
    split
    · simp [find?, h]
    · split
      · rename_i h2
        subst h2
        simp [find?, h]
      · simp [find?, ih]

@[simp] theorem put_put (m : List (Nat × α)) (k : Nat) (v w : α) : put (put m k v) k w = put m k w := by
  induction m with
  | nil => simp [put]
  | cons e r ih =>
    obtain ⟨k', v'⟩ := e
    by_cases h1 : k < k'
    · simp [put, h1]
    · by_cases h2 : k = k'
      · subst h2; simp [put]
      · simp [put, h1, h2, ih]

theorem sortedAbove_some (b : Nat) (m : List (Nat × α)) :
    sortedAbove (some b) m = true ↔ (∀ e ∈ m, b < e.1) ∧ Rising m := by
  induction m generalizing b with
  | nil => simp [sortedAbove, Rising]
  | cons e r ih =>
    obtain ⟨k, v⟩ := e
    simp only [sortedAbove, Bool.and_eq_true, decide_eq_true_eq, ih, Rising, List.mem_cons, forall_eq_or_imp,
      List.pairwise_cons]
    constructor
    · rintro ⟨h1, h2, h3⟩
      exact ⟨⟨h1, fun e he => Nat.lt_trans h1 (h2 e he)⟩, h2, h3⟩
    · rintro ⟨⟨h1, h2⟩, h3, h4⟩
      exact ⟨h1, h3, h4⟩

theorem sortedAbove_none (m : List (Nat × α)) : sortedAbove none m = true ↔ Rising m := by
  cases m with
  | nil => simp [sortedAbove, Rising]
  | cons e r =>
    obtain ⟨k, v⟩ := e
    simp [sortedAbove, sortedAbove_some, Rising]

theorem wf_iff [DecidableEq α] (d : α) (m : List (Nat × α)) : wf d m = true ↔ Rising m ∧ ∀ e ∈ m, e.2 ≠ d := by
  simp [wf, sortedAbove_none]

theorem mem_put {m : List (Nat × α)} {k : Nat} {v : α} {e : Nat × α} (h : e ∈ put m k v) : e = (k, v) ∨ e ∈ m := by
  induction m with
  | nil => simpa [put] using h
  | cons f r ih =>
    obtain ⟨k', v'⟩ := f
    unfold put at h
    split at h
    · simpa using h
    · split at h
      · simp only [List.mem_cons] at h ⊢
        tauto
      · simp only [List.mem_cons] at h ⊢
        rcases h with h | h
        · tauto
        · have := ih h; tauto

theorem rising_put {m : List (Nat × α)} (h : Rising m) (k : Nat) (v : α) : Rising (put m k v) := by
  induction m with
  | nil => simp [put, Rising]
  | cons e r ih =>
    obtain ⟨k', v'⟩ := e
    have hr : Rising r := (List.pairwise_cons.mp h).2
    have ha : ∀ x ∈ r, k' < x.1 := (List.pairwise_cons.mp h).1
    unfold put
    split
    · rename_i h1
      refine List.pairwise_cons.mpr ⟨?_, h⟩
      intro x hx
      simp only [List.mem_cons] at hx
      rcases hx with rfl | hx
      · exact h1
      · exact Nat.lt_trans h1 (ha x hx)
    · split
      · rename_i h2
        subst h2
        exact List.pairwise_cons.mpr ⟨ha, hr⟩
      · rename_i h1 h2
        refine List.pairwise_cons.mpr ⟨?_, ih hr⟩
        intro x hx
        rcases mem_put hx with rfl | hx
        · show k' < k
          omega
        · exact ha x hx

theorem del_sublist (m : List (Nat × α)) (k : Nat) : (del m k).Sublist m := by
  induction m with
  | nil => simp [del]
  | cons e r ih =>
    obtain ⟨k', v'⟩ := e
    unfold del
    split
    · exact List.sublist_cons_self _ _
    · exact ih.cons_cons _

theorem rising_sublist {m n : List (Nat × α)} (h : Rising n) (hs : m.Sublist n) : Rising m := h.sublist hs

/-- `set` keeps the canonical form. -/
theorem wf_set [DecidableEq α] (d : α) {m : List (Nat × α)} (h : wf d m = true) (k : Nat) (v : α) :
    wf d (set d m k v) = true := by
  rw [wf_iff] at h ⊢
  unfold set
  split
  · exact ⟨rising_sublist h.1 (del_sublist m k), fun e he => h.2 e ((del_sublist m k).subset he)⟩
  · rename_i hv
    refine ⟨rising_put h.1 k v, fun e he => ?_⟩
    rcases mem_put he with rfl | he
    · exact hv
    · exact h.2 e he

theorem get_eq_default (d : α) {m : List (Nat × α)} {k : Nat} (h : ∀ e ∈ m, e.1 ≠ k) : get d m k = d := by
  induction m with
  | nil => rfl
  | cons e r ih =>
    obtain ⟨k', v'⟩ := e
    have h1 : k ≠ k' := fun hh => h (k', v') (by simp) hh.symm
    rw [get, if_neg h1]
    exact ih (fun e he => h e (by simp [he]))

theorem get_del_self (d : α) {m : List (Nat × α)} (h : Rising m) (k : Nat) : get d (del m k) k = d := by
  induction m with
  | nil => rfl
  | cons e r ih =>
    obtain ⟨k', v'⟩ := e
    have ha : ∀ x ∈ r, k' < x.1 := (List.pairwise_cons.mp h).1
    unfold del
    split
    · rename_i hk
      subst hk
      exact get_eq_default d (fun e he => by have := ha e he; omega)
    · rename_i hk
      rw [get, if_neg hk]
      exact ih (List.pairwise_cons.mp h).2

theorem get_del_ne (d : α) (m : List (Nat × α)) {j k : Nat} (h : j ≠ k) : get d (del m k) j = get d m j := by
  induction m with
  | nil => rfl
  | cons e r ih =>
    obtain ⟨k', v'⟩ := e
    unfold del
    split
    · rename_i hk
      subst hk
      simp [get, h]
    · simp [get, ih]

/-- Reading what `set` wrote. -/
theorem get_set_self [DecidableEq α] (d : α) {m : List (Nat × α)} (h : Rising m) (k : Nat) (v : α) :
    get d (set d m k v) k = v := by
  unfold set
  split
  · rename_i hv
    rw [get_del_self d h k, hv]
  · simp

/-- `set` leaves every other key alone. -/
theorem get_set_ne [DecidableEq α] (d : α) (m : List (Nat × α)) {j k : Nat} (v : α) (h : j ≠ k) :
    get d (set d m k v) j = get d m j := by
  unfold set
  split
  · exact get_del_ne d m h
  · exact get_put_ne d m v h

theorem get_append (d : α) (m n : List (Nat × α)) (k : Nat) :
    get d (m ++ n) k = if m.any (fun e => e.1 == k) then get d m k else get d n k := by
  induction m with
  | nil => simp
  | cons e r ih =>
    obtain ⟨k', v'⟩ := e
    by_cases h : k = k'
    · subst h; simp [get]
    · have h' : k' ≠ k := fun hh => h hh.symm
      rw [List.cons_append, get, if_neg h, ih, get, if_neg h, List.any_cons, beq_eq_false_iff_ne.mpr h', Bool.false_or]

theorem get_filter (d : α) (m : List (Nat × α)) (p : Nat → Bool) (k : Nat) :
    get d (m.filter (fun e => p e.1)) k = if p k then get d m k else d := by
  induction m with
  | nil => simp [get]
  | cons e r ih =>
    obtain ⟨k', v'⟩ := e
    by_cases hk : p k'
    · by_cases h : k = k'
      · subst h; simp [get, hk]
      · simp [hk, get, h, ih]
    · by_cases h : k = k'
      · subst h; simp [hk, ih]
      · simp [hk, get, h, ih]

end Store

namespace Machine

/-! ## The bytes of memory -/

theorem mem_cellsOf {a : Nat} {bs : List Byte} {e : Host.Cell} (h : e ∈ cellsOf a bs) :
    a ≤ e.1 ∧ e.1 < a + bs.length ∧ e.2 ≠ 0 := by
  induction bs generalizing a with
  | nil => simp [cellsOf] at h
  | cons b r ih =>
    unfold cellsOf at h
    split at h
    · have := ih h
      simp only [List.length_cons]
      refine ⟨by omega, by omega, this.2.2⟩
    · rename_i hb
      simp only [List.mem_cons] at h
      rcases h with rfl | h
      · simp only [List.length_cons]
        exact ⟨Nat.le_refl _, by omega, hb⟩
      · have := ih h
        simp only [List.length_cons]
        refine ⟨by omega, by omega, this.2.2⟩

theorem rising_cellsOf (a : Nat) (bs : List Byte) : Store.Rising (cellsOf a bs) := by
  induction bs generalizing a with
  | nil => simp [cellsOf, Store.Rising]
  | cons b r ih =>
    unfold cellsOf
    split
    · exact ih _
    · refine List.pairwise_cons.mpr ⟨fun e he => ?_, ih _⟩
      have := (mem_cellsOf he).1
      show a < e.1
      omega

/-- What the cells of a string of bytes read as. -/
theorem get_cellsOf (a : Nat) (bs : List Byte) (k : Nat) :
    Store.get 0 (cellsOf a bs) k = if a ≤ k then bs.getD (k - a) 0 else 0 := by
  induction bs generalizing a with
  | nil => simp [cellsOf, Store.get]
  | cons b r ih =>
    unfold cellsOf
    by_cases hb : b = 0
    · rw [if_pos hb, ih]
      subst hb
      by_cases h1 : a + 1 ≤ k
      · rw [if_pos h1, if_pos (by omega)]
        obtain ⟨j, rfl⟩ : ∃ j, k = a + 1 + j := ⟨k - (a + 1), by omega⟩
        have : a + 1 + j - a = j + 1 := by omega
        simp [this]
      · rw [if_neg h1]
        by_cases h2 : a ≤ k
        · have : k - a = 0 := by omega
          simp [this]
        · simp [h2]
    · rw [if_neg hb, Store.get]
      by_cases h : k = a
      · subst h; simp
      · rw [if_neg h, ih]
        by_cases h1 : a + 1 ≤ k
        · rw [if_pos h1, if_pos (by omega)]
          obtain ⟨j, rfl⟩ : ∃ j, k = a + 1 + j := ⟨k - (a + 1), by omega⟩
          have : a + 1 + j - a = j + 1 := by omega
          simp [this]
        · rw [if_neg h1, if_neg (by omega)]

/-- A write keeps the canonical form. -/
theorem cellWrite_wf {m : List Host.Cell} (h : Memory.wf m = true) (a : Nat) (bs : List Byte) :
    Memory.wf (cellWrite m a bs) = true := by
  unfold Memory.wf at h ⊢
  rw [Store.wf_iff] at h ⊢
  obtain ⟨hs, hn⟩ := h
  unfold cellWrite
  constructor
  · refine List.pairwise_append.mpr ⟨List.pairwise_append.mpr ⟨?_, rising_cellsOf a bs, ?_⟩, ?_, ?_⟩
    · exact hs.sublist List.filter_sublist
    · intro x hx y hy
      have h1 := (List.mem_filter.mp hx).2
      have h2 := (mem_cellsOf hy).1
      simp only [decide_eq_true_eq] at h1
      omega
    · exact hs.sublist List.filter_sublist
    · intro x hx y hy
      have h2 := (List.mem_filter.mp hy).2
      simp only [decide_eq_true_eq] at h2
      rcases List.mem_append.mp hx with hx | hx
      · have h1 := (List.mem_filter.mp hx).2
        simp only [decide_eq_true_eq] at h1
        omega
      · have h1 := (mem_cellsOf hx).2.1
        omega
  · intro e he
    rcases List.mem_append.mp he with he | he
    · rcases List.mem_append.mp he with he | he
      · exact hn e (List.mem_filter.mp he).1
      · exact (mem_cellsOf he).2.2
    · exact hn e (List.mem_filter.mp he).1

/-- Reading after writing: the bytes written where they were written, the old ones elsewhere. -/
theorem get_cellWrite (m : List Host.Cell) (a : Nat) (bs : List Byte) (k : Nat) :
    Store.get 0 (cellWrite m a bs) k = if a ≤ k ∧ k < a + bs.length then bs.getD (k - a) 0 else Store.get 0 m k := by
  unfold cellWrite
  rw [Store.get_append, Store.get_append, Store.get_filter 0 m (fun j => decide (j < a)),
    Store.get_filter 0 m (fun j => decide (a + bs.length ≤ j)), get_cellsOf]
  have hlo : ∀ p : Bool, (m.filter (fun c => decide (c.1 < a))).any (fun e => e.1 == k) = p → a ≤ k → p = false := by
    intro p hp hk
    rw [← hp, List.any_eq_false]
    intro e he
    have := (List.mem_filter.mp he).2
    simp only [decide_eq_true_eq] at this
    simp only [beq_iff_eq]
    omega
  by_cases h1 : k < a
  · have hc : (cellsOf a bs).any (fun e => e.1 == k) = false := by
      rw [List.any_eq_false]
      intro e he
      have := (mem_cellsOf he).1
      simp only [beq_iff_eq]
      omega
    rw [if_neg (show ¬(a ≤ k ∧ k < a + bs.length) by omega)]
    simp only [List.any_append, hc, Bool.or_false, h1, decide_true, if_true]
    split
    · rfl
    · rename_i hn
      rw [if_neg (show ¬(decide (a + bs.length ≤ k) = true) by simp; omega)]
      symm
      apply Store.get_eq_default
      intro e he hk
      apply hn
      rw [List.any_eq_true]
      exact ⟨e, List.mem_filter.mpr ⟨he, by simp [hk, h1]⟩, by simp [hk]⟩
  · have hl : (m.filter (fun c => decide (c.1 < a))).any (fun e => e.1 == k) = false := hlo _ rfl (by omega)
    by_cases h2 : k < a + bs.length
    · rw [if_pos (show a ≤ k ∧ k < a + bs.length from ⟨by omega, h2⟩)]
      simp only [List.any_append, hl, Bool.false_or]
      split
      · simp [show a ≤ k by omega]
      · rename_i hn
        rw [if_neg (show ¬(decide (a + bs.length ≤ k) = true) by simp; omega)]
        have h3 := get_cellsOf a bs k
        rw [if_pos (show a ≤ k by omega)] at h3
        rw [← h3]
        symm
        apply Store.get_eq_default
        intro e he hk
        apply hn
        rw [List.any_eq_true]
        exact ⟨e, he, by simp [hk]⟩
    · have hc : (cellsOf a bs).any (fun e => e.1 == k) = false := by
        rw [List.any_eq_false]
        intro e he
        have := (mem_cellsOf he).2.1
        simp only [beq_iff_eq]
        omega
      rw [if_neg (show ¬(a ≤ k ∧ k < a + bs.length) by omega)]
      simp [hl, hc, show a + bs.length ≤ k by omega]

/-- The bytes read are those that each address reads as. -/
theorem cellBytes_eq {m : List Host.Cell} (h : Store.Rising m) (a n : Nat) :
    cellBytes m a n = (List.range n).map (fun i => Store.get 0 m (a + i)) := by
  induction m generalizing a n with
  | nil => simp [cellBytes, Store.get, List.map_const']
  | cons e r ih =>
    obtain ⟨k, v⟩ := e
    have hr : Store.Rising r := (List.pairwise_cons.mp h).2
    have ha : ∀ x ∈ r, k < x.1 := (List.pairwise_cons.mp h).1
    unfold cellBytes
    split
    · rename_i hn; subst hn; simp
    · split
      · rename_i h1 h2
        rw [ih hr]
        apply List.map_congr_left
        intro i _
        rw [Store.get, if_neg (by omega)]
      · split
        · rename_i h1 h2 h3
          symm
          rw [List.eq_replicate_iff]
          refine ⟨by simp, fun b hb => ?_⟩
          obtain ⟨i, hi, rfl⟩ := List.mem_map.mp hb
          have hi' := List.mem_range.mp hi
          rw [Store.get, if_neg (by omega)]
          exact Store.get_eq_default 0 (fun e he => by have := ha e he; omega)
        · rename_i h1 h2 h3
          rw [ih hr]
          obtain ⟨p, rfl⟩ : ∃ p, k = a + p := ⟨k - a, by omega⟩
          obtain ⟨q, rfl⟩ : ∃ q, n = p + 1 + q := ⟨n - (p + 1), by omega⟩
          rw [show a + p - a = p by omega, show p + 1 + q - p - 1 = q by omega, List.range_add, List.range_succ]
          simp only [List.map_append, List.map_map, List.map_cons, List.map_nil, List.append_assoc, List.cons_append,
            List.nil_append]
          congr 1
          · symm
            rw [List.eq_replicate_iff]
            refine ⟨by simp, fun b hb => ?_⟩
            obtain ⟨i, hi, rfl⟩ := List.mem_map.mp hb
            have hi' := List.mem_range.mp hi
            rw [Store.get, if_neg (by omega)]
            exact Store.get_eq_default 0 (fun e he => by have := ha e he; omega)
          · congr 1
            · simp [Store.get]
            · apply List.map_congr_left
              intro i _
              simp only [Function.comp_apply]
              rw [Store.get, if_neg (by omega)]
              congr 1
              omega

end Machine

end Sys2Proof
end

