-- ==== Sys2Proof/Laws/Ins.lean ====
section
/-! SUPPORT. What an instruction does around its body: when the registers it names are free, it completes with its body. -/

namespace Sys2Proof.Machine

open Sys2Proof.Safety

/-! ## The current hart -/

@[simp] theorem State.hart_setHart (s : State) (h : Nat) (v : Hart) : (s.setHart h v).hart h = v := by
  simp [State.hart, State.setHart]

theorem State.hart_setHart_ne (s : State) {g h : Nat} (v : Hart) (hn : g ≠ h) : (s.setHart h v).hart g = s.hart g := by
  simp [State.hart, State.setHart, Store.get_put_ne _ _ _ hn]

@[simp] theorem State.hart_modHart (s : State) (h : Nat) (f : Hart → Hart) : (s.modHart h f).hart h = f (s.hart h) := by
  simp [State.modHart]

theorem State.hart_modHart_ne (s : State) {g h : Nat} (f : Hart → Hart) (hn : g ≠ h) : (s.modHart h f).hart g = s.hart g := by
  simp [State.modHart, State.hart_setHart_ne _ _ hn]

@[simp] theorem State.setHart_setHart (s : State) (h : Nat) (v w : Hart) : (s.setHart h v).setHart h w = s.setHart h w := by
  simp [State.setHart]

@[simp] theorem State.modHart_modHart (s : State) (h : Nat) (f g : Hart → Hart) :
    (s.modHart h f).modHart h g = s.modHart h (fun x => g (f x)) := by
  simp [State.modHart]

@[simp] theorem State.me_modMe (s : State) (f : Hart → Hart) : (s.modMe f).me = f s.me := by
  simp [State.modMe, State.me]

@[simp] theorem State.modMe_modMe (s : State) (f g : Hart → Hart) : (s.modMe f).modMe g = s.modMe (fun x => g (f x)) := by
  simp [State.modMe]

theorem State.hart_modMe_ne (s : State) {g : Nat} (f : Hart → Hart) (hn : g ≠ s.cur) : (s.modMe f).hart g = s.hart g :=
  State.hart_modHart_ne s f hn

@[simp] theorem State.rx_modMe (s : State) (f : Hart → Hart) (r : Reg) : (s.modMe f).rx r = (f s.me).rx r := by
  simp [State.rx]

theorem State.wx_eq (s : State) (r : Reg) (v : Word) : s.wx r v = s.modMe (·.wx r v) := rfl

/-! ## Integer registers -/

@[simp] theorem Hart.rx_zero (h : Hart) : h.rx 0 = 0 := rfl

@[simp] theorem Hart.wx_zero (h : Hart) (v : Word) : h.wx 0 v = h := rfl

theorem Hart.rx_wx_ne (h : Hart) {r d : Reg} (v : Word) (hn : r ≠ d) : (h.wx d v).rx r = h.rx r := by
  unfold Hart.wx
  split
  · rfl
  · unfold Hart.rx
    split
    · rfl
    · exact Store.get_set_ne 0 h.x v (fun e => hn (BitVec.eq_of_toNat_eq e))

theorem Hart.rx_wx_self {h : Hart} (hs : Store.Rising h.x) {d : Reg} (v : Word) (hd : d ≠ 0) : (h.wx d v).rx d = v := by
  unfold Hart.wx Hart.rx
  rw [if_neg hd, if_neg hd]
  exact Store.get_set_self 0 hs _ _

/-! ## `ins` -/

theorem Hart.join_plain {h : Hart} {ns : List Nat} (hp : ∀ n ∈ ns, (h.token n).unjoined = false) : h.join ns = h := by
  unfold Hart.join
  induction ns with
  | nil => rfl
  | cons n r ih =>
    have h1 : (h.token n).unjoined = false := hp n (by simp)
    simp only [List.foldl_cons, h1]
    exact ih (fun n hn => hp n (by simp [hn]))

theorem Hart.joined_plain {old : Hart} {ns : List Nat} (hp : ∀ n ∈ ns, (old.token n).unjoined = false) (h : Hart) (c : Nat) :
    h.joined old c ns = h := by
  unfold Hart.joined
  induction ns generalizing h with
  | nil => rfl
  | cons n r ih =>
    have h1 : (old.token n).unjoined = false := hp n (by simp)
    have h2 : Hart.joined1 old c h n = h := by simp [Hart.joined1, h1]
    rw [List.foldl_cons, h2]
    exact ih (fun n hn => hp n (by simp [hn])) h

theorem State.modMe_congr (s : State) {f g : Hart → Hart} (h : f s.me = g s.me) : s.modMe f = s.modMe g := by
  simp only [State.modMe, State.modHart]
  rw [show s.hart s.cur = s.me from rfl, h]

theorem State.Free.ready {s : State} {xs vs : List Reg} (hf : s.Free xs vs) : s.me.notReady xs vs = false := by
  unfold Hart.notReady
  rw [Bool.or_eq_false_iff, List.any_eq_false, List.any_eq_false]
  refine ⟨fun n h => ?_, fun n h => ?_⟩
  · obtain ⟨h1, h2⟩ := List.mem_filter.mp h
    obtain ⟨r, hr, rfl⟩ := List.mem_map.mp h1
    have h3 : r ≠ 0 := fun e => by rw [e] at h2; simp at h2
    simp [(hf.2.1 r hr h3).1]
  · obtain ⟨r, hr, rfl⟩ := List.mem_map.mp h
    simp [hf.2.2 r hr]

/-- What `ins` answers when the registers it names are free. -/
theorem ins_free {s : State} {xs vs : List Reg} (hf : s.Free xs vs) (body : State → Act Unit) :
    ins xs vs body s = match body s with
      | .ok _ t => .next (t.modMe Hart.retire)
      | .stall t => .next t
      | .trap c v t => .next (t.trapFrom s.me.pts c v) := by
  have e1 : s.me.notReady xs vs = false := hf.ready
  obtain ⟨h0, hx, hv⟩ := hf
  have hn : ∀ n ∈ (xs.map (·.toNat)).filter (· != 0),
      s.me.xBusy n = false ∧ (s.me.token n).unjoined = false ∧ (s.me.token n).fpend = false := by
    intro n hn
    obtain ⟨h1, h2⟩ := List.mem_filter.mp hn
    obtain ⟨r, hr, rfl⟩ := List.mem_map.mp h1
    refine hx r hr ?_
    rintro rfl
    simp at h2
  have e2 : ((xs.map (·.toNat)).filter (· != 0)).find? (fun n => (s.me.token n).fpend) = none := by
    rw [List.find?_eq_none]
    intro n h
    simp [(hn n h).2.2]
  have e3 : s.modMe (·.join ((xs.map (·.toNat)).filter (· != 0))) = s := by
    have e0 : s.me.join ((xs.map (·.toNat)).filter (· != 0)) = s.me := Hart.join_plain (fun n h => (hn n h).2.1)
    rw [State.modMe_congr s (g := fun h => h) e0]
    exact h0
  unfold ins
  simp only [e1, e2, e3, Bool.false_eq_true, if_false]
  have e4 : ∀ c h, Hart.joined h s.me c ((xs.map (·.toNat)).filter (· != 0)) = h :=
    fun c h => Hart.joined_plain (fun n hh => (hn n hh).2.1) h c
  cases body s <;> simp [e4]

/-- An instruction that names free registers and whose body completes, completes. -/
theorem ins_ok {s t : State} {xs vs : List Reg} (hf : s.Free xs vs) {body : State → Act Unit}
    (hb : body s = .ok () t) : ins xs vs body s = .next (t.modMe Hart.retire) := by
  rw [ins_free hf, hb]

/-- An instruction that names free registers and whose body waits, waits. -/
theorem ins_stall {s t : State} {xs vs : List Reg} (hf : s.Free xs vs) {body : State → Act Unit}
    (hb : body s = .stall t) : ins xs vs body s = .next t := by
  rw [ins_free hf, hb]

/-- An instruction that names free registers and whose body only writes one register. -/
theorem ins_writes {s : State} {xs vs : List Reg} (hf : s.Free xs vs) {body : State → Act Unit} {d : Reg} {v : Word}
    (hb : body s = .ok () (s.wx d v)) : ins xs vs body s = .next (s.modMe (fun h => (h.wx d v).retire)) := by
  rw [ins_ok hf hb, State.wx_eq, State.modMe_modMe]

theorem State.trapFrom_self (s : State) (c : Nat) (v : Word) : s.trapFrom s.me.pts c v = s.trap c v := by
  unfold State.trapFrom State.trap
  split
  · rfl
  · rw [State.modMe_modMe]
    exact State.modMe_congr _ rfl

/-- A trap of the body is the instruction's, at the state that the body leaves, with the clock as it was. -/
theorem ins_trapFrom {s u : State} {xs vs : List Reg} (hf : s.Free xs vs) {body : State → Act Unit} {c : Nat} {v : Word}
    (hb : body s = .trap c v u) : ins xs vs body s = .next (u.trapFrom s.me.pts c v) := by
  rw [ins_free hf, hb]

/-- An instruction that names free registers and whose body traps before it has changed anything, traps. -/
theorem ins_trap {s : State} {xs vs : List Reg} (hf : s.Free xs vs) {body : State → Act Unit} {c : Nat} {v : Word}
    (hb : body s = .trap c v s) : ins xs vs body s = .next (s.trap c v) := by
  rw [ins_free hf, hb]
  exact congrArg _ (s.trapFrom_self c v)

/-- A privileged instruction below its lowest mode is an illegal instruction. -/
theorem atLeast_low {s : State} {lowest : Mode} (h : s.me.mode.code < lowest.code) (body : State → Act Unit) :
    atLeast lowest body s = illegal s := by
  unfold atLeast
  rw [if_pos h]

/-- From its lowest mode on it has its own effect. -/
theorem atLeast_ok {s : State} {lowest : Mode} (h : ¬ s.me.mode.code < lowest.code) (body : State → Act Unit) :
    atLeast lowest body s = body s := by
  unfold atLeast
  rw [if_neg h]

/-- An instruction whose lazily filled registers are resident too. -/
theorem filled_ok {s : State} {codes : List Nat} (hr : s.Resident codes) : s.filled codes = .ok () s := by
  have h : codes.filter (fun c => !s.resident c) = [] := by
    rw [List.filter_eq_nil_iff]
    intro c hc
    simp [hr c hc]
  unfold State.filled
  rw [h]
  cases s.me.ctx <;> simp

theorem insL_free {s : State} {xs vs : List Reg} {codes : List Nat} (hf : s.Free xs vs)
    (hr : s.Resident (vs.map codeV ++ codes)) (body : State → Act Unit) : insL xs vs codes body s = ins xs vs body s := by
  unfold insL
  rw [hf.ready, filled_ok hr]
  rfl

/-- The three of `ins` for an instruction whose lazily filled registers are resident. -/
theorem insL_ok {s t : State} {xs vs : List Reg} {codes : List Nat} (hf : s.Free xs vs) (hr : s.Resident (vs.map codeV ++ codes))
    {body : State → Act Unit} (hb : body s = .ok () t) : insL xs vs codes body s = .next (t.modMe Hart.retire) := by
  rw [insL_free hf hr, ins_ok hf hb]

theorem insL_trap {s : State} {xs vs : List Reg} {codes : List Nat} (hf : s.Free xs vs) (hr : s.Resident (vs.map codeV ++ codes))
    {body : State → Act Unit} {c : Nat} {v : Word} (hb : body s = .trap c v s) : insL xs vs codes body s = .next (s.trap c v) := by
  rw [insL_free hf hr, ins_trap hf hb]

theorem insL_writes {s : State} {xs vs : List Reg} {codes : List Nat} (hf : s.Free xs vs) (hr : s.Resident (vs.map codeV ++ codes))
    {body : State → Act Unit} {d : Reg} {v : Word} (hb : body s = .ok () (s.wx d v)) :
    insL xs vs codes body s = .next (s.modMe (fun h => (h.wx d v).retire)) := by
  rw [insL_free hf hr, ins_writes hf hb]

theorem State.Free.mono {s : State} {xs vs xs' vs' : List Reg} (hf : s.Free xs vs) (hx : ∀ r ∈ xs', r ∈ xs) (hv : ∀ r ∈ vs', r ∈ vs) :
    s.Free xs' vs' := ⟨hf.1, fun r h => hf.2.1 r (hx r h), fun r h => hf.2.2 r (hv r h)⟩

theorem State.Resident.mono {s : State} {cs cs' : List Nat} (h : s.Resident cs) (hc : ∀ c ∈ cs', c ∈ cs) : s.Resident cs' :=
  fun c hm => h c (hc c hm)

theorem State.here_of_modMe (s : State) (f : Hart → Hart) : (s.modMe f).here = s.modMe f := by
  simp [State.here]

@[simp] theorem State.here_me (s : State) : s.here.me = s.me := by simp [State.here]

@[simp] theorem State.here_modMe (s : State) (f : Hart → Hart) : s.here.modMe f = s.modMe f := by simp [State.here]

@[simp] theorem State.here_rx (s : State) (r : Reg) : s.here.rx r = s.rx r := by simp [State.rx]

@[simp] theorem State.here_wx (s : State) (r : Reg) (v : Word) : s.here.wx r v = s.wx r v := by simp [State.wx]

end Sys2Proof.Machine
end

