-- ==== Sys2Proof/Laws/Memory.lean ====
section
/-! SUPPORT. The bytes of memory: reading after writing, and the canonical form. -/

namespace Sys2Proof.Machine

theorem insertNat_mem (l : List Nat) (k j : Nat) : j ∈ insertNat l k ↔ j = k ∨ j ∈ l := by
  induction l with
  | nil => simp [insertNat]
  | cons x r ih =>
    unfold insertNat
    split
    · simp
    · split
      · rename_i h; subst h; simp
      · simp [ih]; tauto

/-- A line is given its own bytes: no address reads otherwise, and it carries no noise any more (R55). -/
theorem State.settleNoise_byteAt (s : State) (l n : Nat) :
    (∀ b, (s.settleNoise l n).byteAt b = s.byteAt b) ∧
    (∀ b, l ≤ lineNo b → lineNo b < l + n → (s.settleNoise l n).noiseOf b = none) ∧
    (∀ b, s.noiseOf b = none → (s.settleNoise l n).noiseOf b = none) := by
  induction n generalizing s l with
  | zero => exact ⟨fun b => rfl, fun b h1 h2 => by omega, fun b h => h⟩
  | succ n ih =>
    unfold State.settleNoise
    have hsame : ∀ (s : State) (b : Nat), lineNo b = l → s.noiseOf b = s.noiseOf (64 * l) := by
      intro s b hb
      unfold lineNo at hb
      have hh : b < Config.hbmBytes ↔ 64 * l < Config.hbmBytes := by unfold Config.hbmBytes; omega
      have hf : b / 0x200000 = 64 * l / 0x200000 := by omega
      unfold State.noiseOf State.keyOf
      simp only [hf, show lineNo b = l from hb, show lineNo (64 * l) = l by unfold lineNo; omega]
      split
      · rfl
      · exact if_congr hh rfl rfl
    cases hn : s.noiseOf (64 * l) with
    | none =>
      obtain ⟨h1, h2, h3⟩ := ih s (l + 1)
      refine ⟨h1, fun b hb hb2 => ?_, h3⟩
      by_cases hl : lineNo b = l
      · exact h3 b ((hsame s b hl).trans hn)
      · exact h2 b (by omega) (by omega)
    | some k =>
      simp only
      generalize hbs : (List.range 64).map (fun i => Config.cipherByte k (64 * l + i)) = bs
      have hlen : bs.length = 64 := by rw [← hbs]; simp
      have hnz : ∀ b, State.noiseOf
            { s with mem := cellWrite s.mem (64 * l) bs, lineKeys := Store.put s.lineKeys l (s.keyOf (64 * l)) } b
          = if lineNo b = l then none else s.noiseOf b := by
        intro b
        by_cases hl : lineNo b = l
        · rw [if_pos hl]
          have hk : s.keyOf (64 * l) = s.keyOf b := by
            unfold lineNo at hl
            unfold State.keyOf
            rw [show 64 * l / 0x200000 = b / 0x200000 by omega]
          simp only [State.noiseOf, hl, Store.find?_put_self, Option.getD_some, hk]
          split
          · rfl
          · split
            · exact if_pos rfl
            · rfl
        · rw [if_neg hl]
          simp only [State.noiseOf, Store.find?_put_ne s.lineKeys (s.keyOf (64 * l)) hl]
          rfl
      obtain ⟨h1, h2, h3⟩ :=
        ih { s with mem := cellWrite s.mem (64 * l) bs, lineKeys := Store.put s.lineKeys l (s.keyOf (64 * l)) } (l + 1)
      refine ⟨fun b => ?_, fun b hb hb2 => ?_, fun b h => ?_⟩
      · rw [h1 b]
        unfold State.byteAt
        rw [hnz b]
        by_cases hl : lineNo b = l
        · rw [if_pos hl, hsame s b hl, hn]
          simp only
          unfold lineNo at hl
          rw [get_cellWrite, if_pos (by omega), ← hbs]
          rw [List.getD_eq_getElem _ _ (by simp; omega)]
          simp only [List.getElem_map, List.getElem_range]
          congr 1
          omega
        · rw [if_neg hl]
          cases s.noiseOf b with
          | some j => rfl
          | none =>
            simp only
            unfold lineNo at hl
            rw [get_cellWrite, if_neg (by omega)]
      · by_cases hl : lineNo b = l
        · exact h3 b (by rw [hnz, if_pos hl])
        · exact h2 b (by omega) (by omega)
      · exact h3 b (by rw [hnz]; split <;> simp [h])

theorem State.settleNoise_wf (s : State) (l n : Nat) (h : Memory.wf s.mem = true) :
    Memory.wf (s.settleNoise l n).mem = true := by
  induction n generalizing s l with
  | zero => exact h
  | succ n ih =>
    unfold State.settleNoise
    split
    · exact ih _ _ h
    · exact ih _ _ (cellWrite_wf h _ _)

/-- Writing keeps the canonical form. -/
theorem State.writeBytes_wf (s : State) (a : Nat) (bs : List Byte) (h : Memory.wf s.mem = true) :
    Memory.wf (s.writeBytes a bs).mem = true := by
  unfold State.writeBytes
  apply cellWrite_wf
  split
  · exact h
  · exact s.settleNoise_wf _ _ h

/-- Reading after writing: the bytes written where they were written, the old ones elsewhere. -/
theorem State.byteAt_writeBytes (s : State) (a : Nat) (bs : List Byte) (b : Nat) :
    (s.writeBytes a bs).byteAt b = if a ≤ b ∧ b < a + bs.length then bs.getD (b - a) 0 else s.byteAt b := by
  unfold State.writeBytes
  by_cases hr : s.retags = 0
  · simp only [if_pos hr]
    have hz : ∀ b, s.noiseOf b = none := fun b => by simp [State.noiseOf, hr]
    have hz' : ∀ m, State.noiseOf { s with mem := m } b = none := fun m => by simp [State.noiseOf, hr]
    simp only [State.byteAt, hz, hz', get_cellWrite]
  · simp only [if_neg hr]
    obtain ⟨h1, h2, h3⟩ := s.settleNoise_byteAt (lineNo a) (lineNo (a + bs.length + 63) - lineNo a)
    generalize s.settleNoise (lineNo a) (lineNo (a + bs.length + 63) - lineNo a) = u at h1 h2 h3
    have hm : ∀ m, State.noiseOf { u with mem := m } b = u.noiseOf b := fun m => rfl
    rw [← h1 b]
    unfold State.byteAt
    rw [hm]
    by_cases hb : a ≤ b ∧ b < a + bs.length
    · rw [if_pos hb, h2 b (by unfold lineNo; omega) (by unfold lineNo; omega)]
      simp only
      rw [get_cellWrite, if_pos hb]
    · rw [if_neg hb]
      cases u.noiseOf b with
      | some j => rfl
      | none => simp only; rw [get_cellWrite, if_neg hb]

@[simp] theorem State.writeBytes_poison (s : State) (a : Nat) (bs : List Byte) : (s.writeBytes a bs).poison = s.poison := by
  have h : ∀ (n l : Nat) (s : State), (s.settleNoise l n).poison = s.poison := by
    intro n
    induction n with
    | zero => intro l s; rfl
    | succ n ih =>
      intro l s
      unfold State.settleNoise
      split
      · exact ih _ _
      · exact ih _ _
  unfold State.writeBytes
  split <;> simp [h]

/-- What a read of several bytes reads, byte by byte. -/
theorem State.readBytes_eq (s : State) (h : Memory.wf s.mem = true) (a n : Nat) :
    s.readBytes a n = (List.range n).map (fun i => s.byteAt (a + i)) := by
  unfold State.readBytes
  split
  · rename_i hr
    rw [cellBytes_eq (((Store.wf_iff 0 s.mem).mp h).1)]
    have hz : ∀ b, s.noiseOf b = none := fun b => by simp [State.noiseOf, hr]
    simp [State.byteAt, hz]
  · rfl

theorem State.readBytes_length (s : State) (h : Memory.wf s.mem = true) (a n : Nat) : (s.readBytes a n).length = n := by
  rw [s.readBytes_eq h]; simp

/-- A number reads back as it was written. -/
theorem State.readNat_writeNat (s : State) (h : Memory.wf s.mem = true) (a n v : Nat) :
    (s.writeNat a n v).readNat a n = v % 2 ^ (8 * n) := by
  unfold State.readNat State.writeNat
  rw [State.readBytes_eq _ (State.writeBytes_wf _ _ _ h), ← ofBytes_bytesOf]
  congr 1
  apply List.ext_getElem (by simp)
  intro i h1 h2
  simp only [List.getElem_map, List.getElem_range]
  rw [State.byteAt_writeBytes, if_pos (by simp at h1 ⊢; omega), Nat.add_sub_cancel_left, List.getD_eq_getElem]

/-- The bytes of memory after some bytes of one line are written (home writes, vault stores): those under the mask are the new ones. -/
theorem State.byteAt_putLine (s : State) (h : Memory.wf s.mem = true) (line : Nat) (mask : BitVec 64) (d : Line) (b : Nat) :
    (s.putLine line mask d).byteAt b =
      if line ≤ b ∧ b < line + 64 ∧ mask.getLsbD (b - line) = true then BitVec.ofNat 8 (lineGet d (b - line) 1)
      else s.byteAt b := by
  have hp : ∀ (t : State) (b : Nat), (t.clearPoison line).byteAt b = t.byteAt b := fun t b => rfl
  have h0 : (s.putLine line mask d).byteAt b = (s.writeLine line (lineMerge mask (s.readLine line) d)).byteAt b := by
    unfold State.putLine
    split
    · exact hp _ _
    · rfl
  rw [h0]
  unfold State.writeLine State.writeNat
  rw [State.byteAt_writeBytes]
  simp only [bytesOf_length]
  by_cases hb : line ≤ b ∧ b < line + 64
  · rw [if_pos hb, bytesOf_getD _ _ _ _ (by omega)]
    have hl := lineMerge_byte mask (s.readLine line) d (b - line) (by omega)
    have hg : ∀ l : Line, BitVec.ofNat 8 (l.toNat / 2 ^ (8 * (b - line))) = BitVec.ofNat 8 (lineGet l (b - line) 1) := by
      intro l
      apply BitVec.eq_of_toNat_eq
      simp [lineGet, natBits]
    rw [hg, hl]
    by_cases hm : mask.getLsbD (b - line) = true
    · rw [if_pos hm, if_pos ⟨hb.1, hb.2, hm⟩]
    · rw [if_neg hm, if_neg (by tauto)]
      have hr : (s.readLine line).toNat = s.readNat line 64 := by
        unfold State.readLine
        rw [BitVec.toNat_ofNat]
        apply Nat.mod_eq_of_lt
        have := ofBytes_lt (s.readBytes line 64)
        rw [s.readBytes_length h] at this
        exact this
      unfold lineGet
      rw [hr, State.readNat, Nat.mul_one, natBits_ofBytes, s.readBytes_eq h]
      rw [List.getD_eq_getElem _ _ (by simp; omega)]
      simp only [List.getElem_map, List.getElem_range]
      rw [BitVec.ofNat_toNat, BitVec.setWidth_eq]
      congr 1
      omega
  · rw [if_neg hb, if_neg (by tauto)]

theorem State.putLine_wf (s : State) (line : Nat) (mask : BitVec 64) (d : Line) (h : Memory.wf s.mem = true) :
    Memory.wf (s.putLine line mask d).mem = true := by
  unfold State.putLine
  split
  · exact s.writeBytes_wf _ _ h
  · exact s.writeBytes_wf _ _ h

end Sys2Proof.Machine
end

