-- ==== Sys2Proof/Laws/Vault.lean ====
section
/-! SUPPORT. What a store at a vault does: the bytes, the vault's clock, and, of any hart, only its reservation and its watch. -/

namespace Sys2Proof.Machine

theorem Store.get_map {α : Type} (d : α) (m : List (Nat × α)) (f : α → α) (hd : f d = d) (k : Nat) :
    Store.get d (m.map (fun e => (e.1, f e.2))) k = f (Store.get d m k) := by
  induction m with
  | nil => simp [Store.get, hd]
  | cons e r ih =>
    simp only [List.map_cons, Store.get]
    split
    · rfl
    · exact ih

theorem State.clearResv_hart (s : State) (unit k : Nat) :
    (s.clearResv unit).hart k = if (s.hart k).resv = some { vault := true, key := unit } then { s.hart k with resv := none } else s.hart k := by
  unfold State.clearResv State.hart
  have h : (s.harts.map (fun e => if e.2.resv = some { vault := true, key := unit } then (e.1, { e.2 with resv := none }) else e))
      = s.harts.map (fun e : Nat × Hart => (e.1, (fun h : Hart => if h.resv = some { vault := true, key := unit } then { h with resv := none } else h) e.2)) := by
    apply List.map_congr_left
    intro e _
    split <;> simp_all
  simp only [h]
  exact Store.get_map {} s.harts (fun h : Hart => if h.resv = some { vault := true, key := unit } then { h with resv := none } else h) rfl k

theorem State.answerWatches_hart (s : State) (q unit t k : Nat) :
    ∃ l, (s.answerWatches q unit t).hart k = { s.hart k with ld := l } := by
  have hfold : ∀ (ws : List Watch) (s : State), ∃ l, (ws.foldl (fun s w => s.modHart w.hart (fun h =>
      { h with ld := h.ld.map (fun p => if p.kind = .watch then { p with done := true, time := some t } else p) })) s).hart k
        = { s.hart k with ld := l } := by
    intro ws
    induction ws with
    | nil => intro s; exact ⟨(s.hart k).ld, rfl⟩
    | cons w r ih =>
      intro s
      obtain ⟨l, hl⟩ := ih (s.modHart w.hart (fun h =>
        { h with ld := h.ld.map (fun p => if p.kind = .watch then { p with done := true, time := some t } else p) }))
      refine ⟨l, ?_⟩
      rw [List.foldl_cons, hl]
      by_cases h : k = w.hart
      · subst h; rw [State.hart_modHart]
      · rw [State.hart_modHart_ne _ _ h]
  unfold State.answerWatches
  simp only
  split
  · exact ⟨(s.hart k).ld, rfl⟩
  · exact hfold _ _

theorem State.answerWatches_byteAt (s : State) (q unit t b : Nat) : (s.answerWatches q unit t).byteAt b = s.byteAt b := by
  have hfold : ∀ (ws : List Watch) (s : State), (ws.foldl (fun s w => s.modHart w.hart (fun h =>
      { h with ld := h.ld.map (fun p => if p.kind = .watch then { p with done := true, time := some t } else p) })) s).byteAt b
        = s.byteAt b := by
    intro ws
    induction ws with
    | nil => intro s; rfl
    | cons w r ih => intro s; rw [List.foldl_cons, ih]; rfl
  unfold State.answerWatches
  simp only
  split
  · rfl
  · rw [hfold]; rfl

theorem State.putLine_harts (s : State) (line : Nat) (mask : BitVec 64) (d : Line) : (s.putLine line mask d).harts = s.harts := by
  have h : ∀ (n l : Nat) (s : State), (s.settleNoise l n).harts = s.harts := by
    intro n
    induction n with
    | zero => intro l s; rfl
    | succ n ih =>
      intro l s
      unfold State.settleNoise
      split
      · exact ih _ _
      · exact ih _ _
  have h2 : ∀ a bs, (s.writeBytes a bs).harts = s.harts := by
    intro a bs
    unfold State.writeBytes
    split <;> simp [h]
  unfold State.putLine
  split
  · exact h2 _ _
  · exact h2 _ _

/-- A store at a vault leaves every hart as it was, but for its reservation on the unit and the answer to its watch. -/
theorem State.vaultStore_hart (s : State) (q addr : Nat) (mask : BitVec 64) (d : Line) (clk k : Nat) :
    ∃ r l, (s.vaultStore q addr mask d clk).2.hart k = { s.hart k with resv := r, ld := l } := by
  unfold State.vaultStore
  simp only
  generalize ht : (max (s.quad q).vclk clk + 1) = t
  obtain ⟨l, hl⟩ := State.answerWatches_hart
    (((s.putLine (addr / 64 * 64) mask d).modQuad q (fun x => { x with vclk := t })).clearResv (addr / 64 * 64)) q (addr / 64 * 64) t k
  have h0 : ((s.putLine (addr / 64 * 64) mask d).modQuad q (fun x => { x with vclk := t })).hart k = s.hart k := by
    show Store.get {} (s.putLine (addr / 64 * 64) mask d).harts k = _
    rw [State.putLine_harts]; rfl
  rw [hl, State.clearResv_hart, h0]
  split
  · exact ⟨none, l, rfl⟩
  · exact ⟨_, l, rfl⟩

/-- The bytes after a store at a vault. -/
theorem State.vaultStore_byteAt (s : State) (h : Memory.wf s.mem = true) (q addr : Nat) (mask : BitVec 64) (d : Line) (clk b : Nat) :
    (s.vaultStore q addr mask d clk).2.byteAt b =
      if addr / 64 * 64 ≤ b ∧ b < addr / 64 * 64 + 64 ∧ mask.getLsbD (b - addr / 64 * 64) = true
      then BitVec.ofNat 8 (lineGet d (b - addr / 64 * 64) 1) else s.byteAt b := by
  unfold State.vaultStore
  simp only
  rw [State.answerWatches_byteAt, ← State.byteAt_putLine s h]
  rfl

@[simp] theorem State.vaultPut_time (s : State) (q addr n v clk : Nat) :
    (s.vaultPut q addr n v clk).1 = max (s.quad q).vclk clk + 1 := rfl

theorem State.vaultPut_hart (s : State) (q addr n v clk k : Nat) :
    ∃ r l, (s.vaultPut q addr n v clk).2.hart k = { s.hart k with resv := r, ld := l } := s.vaultStore_hart _ _ _ _ _ _

/-- The bytes after a write of `n` bytes inside one unit of a vault. -/
theorem State.vaultPut_byteAt (s : State) (h : Memory.wf s.mem = true) (q addr n v clk b : Nat) (hn : addr % 64 + n ≤ 64) :
    (s.vaultPut q addr n v clk).2.byteAt b =
      if addr ≤ b ∧ b < addr + n then BitVec.ofNat 8 (v / 2 ^ (8 * (b - addr))) else s.byteAt b := by
  unfold State.vaultPut
  rw [State.vaultStore_byteAt s h, byteMask_getLsbD _ _ _ hn]
  by_cases hb : addr ≤ b ∧ b < addr + n
  · rw [if_pos hb, if_pos ⟨by omega, by omega, by simp; omega⟩]
    apply BitVec.eq_of_toNat_eq
    have hk : b - addr / 64 * 64 < 64 := by omega
    generalize hj : b - addr / 64 * 64 = j at hk
    have he : 8 * j = 8 * (addr % 64) + 8 * (b - addr) := by omega
    simp only [lineGet, natBits, BitVec.toNat_ofNat, Nat.mul_one, Nat.mod_mod]
    apply Nat.eq_of_testBit_eq
    intro i
    simp only [Nat.testBit_mod_two_pow, ← Nat.shiftRight_eq_div_pow, Nat.testBit_shiftRight]
    by_cases hi : i < 8
    · simp only [hi, decide_true, Bool.true_and, show 8 * j + i < 512 by omega]
      rw [Nat.mul_comm, Nat.testBit_two_pow_mul]
      simp [show 8 * (addr % 64) ≤ 8 * j + i by omega, show 8 * j + i - 8 * (addr % 64) = 8 * (b - addr) + i by omega]
    · simp [hi]
  · rw [if_neg hb, if_neg (by simp; omega)]

theorem State.vaultPut_cur (s : State) (q addr n v clk : Nat) : (s.vaultPut q addr n v clk).2.cur = s.cur := by
  have h : ∀ (n l : Nat) (s : State), (s.settleNoise l n).cur = s.cur := by
    intro n
    induction n with
    | zero => intro l s; rfl
    | succ n ih =>
      intro l s
      unfold State.settleNoise
      split
      · exact ih _ _
      · exact ih _ _
  have h2 : ∀ a bs, (s.writeBytes a bs).cur = s.cur := by
    intro a bs
    unfold State.writeBytes
    split <;> simp [h]
  have h3 : ∀ line mask d, (s.putLine line mask d).cur = s.cur := by
    intro line mask d
    unfold State.putLine
    split
    · exact h2 _ _
    · exact h2 _ _
  have hfold : ∀ (t : Nat) (ws : List Watch) (s : State), (ws.foldl (fun s w => s.modHart w.hart (fun h =>
      { h with ld := h.ld.map (fun p => if p.kind = .watch then { p with done := true, time := some t } else p) })) s).cur
        = s.cur := by
    intro t ws
    induction ws with
    | nil => intro s; rfl
    | cons w r ih => intro s; rw [List.foldl_cons, ih]; rfl
  have h4 : ∀ (u : State) (q unit t : Nat), (u.answerWatches q unit t).cur = u.cur := by
    intro u q unit t
    unfold State.answerWatches
    simp only
    split
    · rfl
    · rw [hfold]; rfl
  exact (h4 _ _ _ _).trans (h3 _ _ _)

theorem State.vaultPut_me (s : State) (q addr n v clk : Nat) :
    ∃ r l, (s.vaultPut q addr n v clk).2.me = { s.me with resv := r, ld := l } := by
  unfold State.me
  rw [State.vaultPut_cur]
  exact s.vaultPut_hart _ _ _ _ _ _

theorem lineGet_lineSet (l : Line) (off n v : Nat) (h : off + n ≤ 64) : lineGet (lineSet l off n v) off n = v % 2 ^ (8 * n) := by
  apply Nat.eq_of_testBit_eq
  intro i
  simp only [lineGet, lineSet, natBits_testBit, BitVec.toNat_ofNat, Nat.testBit_mod_two_pow, natSetBits_testBit]
  by_cases hi : i < 8 * n
  · simp [hi, show 8 * off + i < 512 by omega, show 8 * off + i < 8 * off + 8 * n by omega]
  · simp [hi]

theorem lineGet_lineSet_ne (l : Line) (off n v off2 n2 : Nat) (h : off2 + n2 ≤ off ∨ off + n ≤ off2) (h2 : off2 + n2 ≤ 64) :
    lineGet (lineSet l off n v) off2 n2 = lineGet l off2 n2 := by
  apply Nat.eq_of_testBit_eq
  intro i
  simp only [lineGet, lineSet, natBits_testBit, BitVec.toNat_ofNat, Nat.testBit_mod_two_pow, natSetBits_testBit]
  by_cases hi : i < 8 * n2
  · simp [hi, show 8 * off2 + i < 512 by omega]
    intro a b; omega
  · simp [hi]
theorem State.answerWatches_mem (s : State) (q unit t : Nat) : (s.answerWatches q unit t).mem = s.mem := by
  have hfold : ∀ (ws : List Watch) (s : State), (ws.foldl (fun s w => s.modHart w.hart (fun h =>
      { h with ld := h.ld.map (fun p => if p.kind = .watch then { p with done := true, time := some t } else p) })) s).mem
        = s.mem := by
    intro ws
    induction ws with
    | nil => intro s; rfl
    | cons w r ih => intro s; rw [List.foldl_cons, ih]; rfl
  unfold State.answerWatches
  simp only
  split
  · rfl
  · rw [hfold]; rfl

theorem State.vaultStore_wf (s : State) (h : Memory.wf s.mem = true) (q addr : Nat) (mask : BitVec 64) (d : Line) (clk : Nat) :
    Memory.wf (s.vaultStore q addr mask d clk).2.mem = true := by
  unfold State.vaultStore
  simp only
  rw [State.answerWatches_mem]
  exact State.putLine_wf s _ _ _ h

/-- A whole line reads back from a vault as it was stored. -/
theorem State.readLine_vaultStore (s : State) (h : Memory.wf s.mem = true) (q addr : Nat) (d : Line) (clk : Nat)
    (ha : addr % 64 = 0) : (s.vaultStore q addr (BitVec.allOnes 64) d clk).2.readLine addr = d := by
  have hb : (s.vaultStore q addr (BitVec.allOnes 64) d clk).2.readBytes addr 64 = bytesOf 64 d.toNat := by
    rw [State.readBytes_eq _ (s.vaultStore_wf h _ _ _ _ _)]
    have hl : ∀ n v, (bytesOf n v).length = n := by
      intro n
      induction n with
      | zero => intro v; rfl
      | succ n ih => intro v; simp [bytesOf, ih]
    apply List.ext_getElem (by simp [hl])
    intro i h1 h2
    have hi : i < 64 := by simpa using h1
    refine Eq.trans ?_ (List.getD_eq_getElem _ 0 h2)
    rw [bytesOf_getD _ _ _ _ hi]
    simp only [List.getElem_map, List.getElem_range]
    rw [State.vaultStore_byteAt s h, if_pos ⟨by omega, by omega, by rw [show addr + i - addr / 64 * 64 = i by omega]; rw [BitVec.getLsbD_allOnes]; simp [hi]⟩, show addr + i - addr / 64 * 64 = i by omega]
    apply BitVec.eq_of_toNat_eq
    simp [lineGet, natBits]
  unfold State.readLine State.readNat
  rw [hb, ofBytes_bytesOf]
  apply BitVec.eq_of_toNat_eq
  rw [BitVec.toNat_ofNat, Nat.mod_mod]
  exact Nat.mod_eq_of_lt d.isLt

/-- The fields of a barrier object read back as they were set. -/
theorem Barrier.ofLine_toLine (o : Barrier) (l : Line) : Barrier.ofLine (o.toLine l) =
    { config := o.config % 2 ^ 32, arrived := o.arrived % 2 ^ 16, phase := o.phase % 2 ^ 64, pending := o.pending % 2 ^ 32,
      expected := o.expected % 2 ^ 32, combine := o.combine % 2 ^ 64, released := o.released % 2 ^ 64, time := o.time % 2 ^ 64,
      done := o.done % 2 ^ 64, fail := o.fail % 2 ^ 32 } := by
  simp only [Barrier.ofLine, Barrier.toLine]
  simp [lineGet_lineSet, lineGet_lineSet_ne]
end Sys2Proof.Machine
end

