-- ==== Sys2Proof/Laws/Vector.lean ====
section
/-! SUPPORT. What an instruction that a repetition lane can issue too does when the hart runs it: with its registers free and resident it
completes with its body; and the two ways in which a body writes a vector register. -/

namespace Sys2Proof.Machine

theorem State.VReady.mono {s : State} {xs vs xs' vs' : List Reg} {ks ks' : List Nat} (h : s.VReady xs vs ks) (h1 : ∀ r ∈ xs', r ∈ xs)
    (h2 : ∀ r ∈ vs', r ∈ vs) (h3 : ∀ k ∈ ks', k ∈ ks) : s.VReady xs' vs' ks' := by
  refine ⟨h.1.mono h1 h2, ?_, ?_⟩
  · refine h.2.1.mono ?_
    intro c hc
    obtain ⟨r, hr, rfl⟩ := List.mem_map.mp hc
    exact List.mem_map.mpr ⟨r, h2 r hr, rfl⟩
  · have h4 := h.2.2
    unfold Hart.laneHolds at *
    cases ha : s.me.lane.active
    · simp
    · simp only [ha, Bool.true_and, List.any_nil, Bool.or_false, List.any_eq_false] at h4 ⊢
      exact fun k hk' => h4 k (h3 k hk')

theorem Issue.held_no {s : State} {i : Issue} {ks : List Nat} (hv : s.VReady i.xs i.vs ks) (ht : i.ts = [])
    (hk : ∀ k ∈ i.ks.map (·.toNat) ++ (if i.masked then [s.me.maskNo] else []), k ∈ ks) :
    s.me.laneHolds (i.ks.map (·.toNat) ++ (if i.masked then [s.me.maskNo] else [])) i.ts = false := by
  rw [ht]
  exact (hv.mono (fun _ h => h) (fun _ h => h) hk).2.2

/-- An instruction of the vector unit that can execute completes with its body. -/
theorem Issue.run_ok {s t : State} {i : Issue} {ks : List Nat} (hv : s.VReady i.xs i.vs ks) (hc : i.codes = []) (ht : i.ts = [])
    (hk : ∀ k ∈ i.ks.map (·.toNat) ++ (if i.masked then [s.me.maskNo] else []), k ∈ ks) (hb : i.body s = .ok () t) :
    i.run s = .next (t.modMe Hart.retire) := by
  unfold Issue.run
  rw [Issue.held_no hv ht hk]
  exact insL_ok hv.1 (by rw [hc]; simpa using hv.2.1) hb

/-- Or traps with it, when the body has changed nothing before. -/
theorem Issue.run_trap {s : State} {i : Issue} {ks : List Nat} {c : Nat} {v : Word} (hv : s.VReady i.xs i.vs ks) (hc : i.codes = [])
    (ht : i.ts = []) (hk : ∀ k ∈ i.ks.map (·.toNat) ++ (if i.masked then [s.me.maskNo] else []), k ∈ ks)
    (hb : i.body s = .trap c v s) : i.run s = .next (s.trap c v) := by
  unfold Issue.run
  rw [Issue.held_no hv ht hk]
  exact insL_trap hv.1 (by rw [hc]; simpa using hv.2.1) hb

theorem State.vput_eq (s : State) (d : Reg) (l : Line) (fl : Nat) (r : Bool) : s.vput d l fl r = .ok () (s.vdone d l fl r) := rfl

theorem State.vmap_eq (s : State) (t : VTy) (d : Reg) (r : Bool) (f : Nat → Nat × Nat) :
    s.vmap t d r f = .ok () (s.vdone d (s.laneLine t d f) (s.laneFlags t d f) r) := rfl

end Sys2Proof.Machine
end

