-- ==== Sys2Proof/Machine/Otbas.lean ====
section
/-! DEFINITION. What the assembler otbas makes of a pseudo-instruction (R333) and of an instruction (R332): the part of the
assembly language that names instructions and records. The text of a source file (R331, R334) is no part of the model. -/

namespace Sys2Proof.Machine

/-- The pseudo-instructions of R333; `la` is `li` of an absolute value. Offsets are without their bit 0. -/
inductive Pseudo
  | nop
  | mv (xd xa : Reg)
  | not (xd xa : Reg)
  | neg (xd xa : Reg)
  | seqz (xd xa : Reg)
  | snez (xd xa : Reg)
  | j (off : BitVec 20)
  | jr (xa : Reg)
  | ret
  | beqz (xa : Reg) (off : BitVec 12)
  | bnez (xa : Reg) (off : BitVec 12)
  | bltz (xa : Reg) (off : BitVec 12)
  | bgez (xa : Reg) (off : BitVec 12)
  | blez (xa : Reg) (off : BitVec 12)
  | bgtz (xa : Reg) (off : BitVec 12)
  | bgt (xa xb : Reg) (off : BitVec 12)
  | ble (xa xb : Reg) (off : BitVec 12)
  | bgtu (xa xb : Reg) (off : BitVec 12)
  | bleu (xa xb : Reg) (off : BitVec 12)
  | csrr (xd : Reg) (csr : BitVec 12)
  | csrw (csr : BitVec 12) (xa : Reg)
  | fenceFull (scope : Scope)
  | fenceAcquire (scope : Scope)
  | fenceRelease (scope : Scope)
  | li (xd : Reg) (v : Word)
  | liQuads (xd : Reg)
  | liGrade (xd : Reg)
  deriving DecidableEq, Repr

/-- A computation with a register and an immediate. -/
def alui (op : AluRI) (rd rs1 : Reg) (imm : BitVec 12) : Instr := .integerAlu (.ri op rd rs1 imm)

/-- A conditional branch. -/
def branchTo (c : Cond) (a b : Reg) (off : BitVec 12) : Instr := .controlTransfer (.branch c a b off)

/-- R333's `li xd, v`. Each round takes 12 bits off v, so six rounds reach the 32-bit case from 64 bits. -/
def liSeq (xd : Reg) : Nat → Int → List Instr
  | 0, _ => []
  | n + 1, v =>
    let lo := BitVec.ofInt 12 v
    let hi := (v - lo.toInt) / 4096
    let low (op : AluRI) := if lo = 0 then [] else [alui op xd xd lo]
    if -2048 ≤ v && v < 2048 then [alui .addi xd 0 (BitVec.ofInt 12 v)]
    else if -2147483648 ≤ v && v < 2147483648 then .integerAlu (.lui xd (BitVec.ofInt 20 hi)) :: low .addiw
    else liSeq xd n hi ++ [.integerAlu (.sh .slli xd xd 12)] ++ low .addi

/-- The instructions of a pseudo-instruction (R333). -/
def Pseudo.expand : Pseudo → List Instr
  | .nop => [alui .addi 0 0 0]
  | .mv d a => [alui .addi d a 0]
  | .not d a => [alui .xori d a (-1)]
  | .neg d a => [.integerAlu (.rr .sub d 0 a)]
  | .seqz d a => [alui .sltiu d a 1]
  | .snez d a => [.integerAlu (.rr .sltu d 0 a)]
  | .j off => [.controlTransfer (.jal 0 off)]
  | .jr a => [.controlTransfer (.jalr 0 a 0)]
  | .ret => [.controlTransfer (.jalr 0 1 0)]
  | .beqz a off => [branchTo .eq a 0 off]
  | .bnez a off => [branchTo .ne a 0 off]
  | .bltz a off => [branchTo .lt a 0 off]
  | .bgez a off => [branchTo .ge a 0 off]
  | .blez a off => [branchTo .ge 0 a off]
  | .bgtz a off => [branchTo .lt 0 a off]
  | .bgt a b off => [branchTo .lt b a off]
  | .ble a b off => [branchTo .ge b a off]
  | .bgtu a b off => [branchTo .ltu b a off]
  | .bleu a b off => [branchTo .geu b a off]
  | .csrr d c => [Sys2Proof.csrInstr .rs c (.reg 0) d]
  | .csrw c a => [Sys2Proof.csrInstr .rw c (.reg a) 0]
  | .fenceFull s => [.fencesFull 0 s]
  | .fenceAcquire s => [.fencesAcquire 0 s]
  | .fenceRelease s => [.fencesRelease 0 s]
  | .li d v => liSeq d 6 v.toInt
  | .liQuads d => [Sys2Proof.csrInstr .rs 0x80C (.reg 0) d, alui .andi d d 0x3FF]
  | .liGrade d => [Sys2Proof.csrInstr .rs 0x80C (.reg 0) d, .integerAlu (.sh .srli d d 16), alui .andi d d 1]

/-- The record that otbas writes for an instruction without a prefix (R332): native, or of kind 2 with its target for a branch
to a label, whose template has a zero offset; every register operand as written in the template. -/
def otbasRecord (i : Instr) (target : Option Nat) : Option VRec :=
  match encode i, roles i with
  | some (_, w), some rs => some
    { w := w, kind := if target.isSome then 2 else 0, ty := 0, rsv := 0, target := target.getD 0,
      ops := (List.range 4).map (fun f => if rs.any (fun r => r.field == f) then 0x80000000 else 0xFFFFFFFF) }
  | _, _ => none

/-- The 32 bytes of a record (R97). -/
def VRec.bytes (r : VRec) : List Byte :=
  bytesOf 8 r.w.toNat ++ bytesOf 1 r.kind ++ bytesOf 1 r.ty ++ bytesOf 2 r.rsv ++ bytesOf 4 r.target
    ++ r.ops.flatMap (bytesOf 4)

end Sys2Proof.Machine
end

