-- ==== Sys2Proof/Tests/Slice0.lean ====
section
/-! SUPPORT. Tests: words written out from the encodings of the spec, ill-formed instructions that the check refuses, states and operands
that meet the premises of the statements (`witness_…`), and single instructions on small states. -/

namespace Sys2Proof.Tests

open Sys2Proof.Machine

set_option Elab.async false
set_option exponentiation.threshold 1100
set_option maxRecDepth 40000

/-! ## Small states -/

/-- A machine whose hart 0 runs, with nothing else in it. -/
def st (h : Hart) : State := { rtu := { boot := .released }, harts := [(0, h)] }

/-- A hart in a mode with some registers. -/
def hx (md : Mode) (x : List (Nat × Word)) : Hart := { status := .running, mode := md, pc := 0x1000, npc := 0x1004, x := x }

/-- The pc, a register, and the trap registers after a meaning answers a next state. -/
def pcOf (r : Result) : Option Word := match r with
  | .next t => some t.me.pc
  | _ => none
def xOf (r : Result) (n : Reg) : Option Word := match r with
  | .next t => some (t.me.rx n)
  | _ => none

/-- What an access answers. -/
def okV {α : Type} (a : Act α) : Option α := match a with
  | .ok v _ => some v
  | _ => none

theorem free_plain {s : State} {xs vs : List Reg} (h : s.here = s ∧ s.me.tokens = [] ∧ s.me.xwait = [] ∧ s.me.vwait = [] ∧
    s.me.lane.active = false) : s.Free xs vs := by
  obtain ⟨h0, h1, h2, h3, h4⟩ := h
  have ht : ∀ n, s.me.token n = {} := fun n => by simp [Hart.token, h1, Store.get]
  refine ⟨h0, fun r _ _ => ⟨?_, ?_, ?_⟩, fun r _ => ?_⟩
  · simp [Hart.xBusy, ht, h2, h4]
  · rw [ht]
  · rw [ht]
  · simp [Hart.vBusy, h3, h4]

/-- For a state written out, the premise holds by computation. -/
theorem plain_st (h : Hart) (s : State) (e : s.harts = [(0, h)]) (c : s.cur = 0) (h1 : h.tokens = []) (h2 : h.xwait = [])
    (h3 : h.vwait = []) (h4 : h.lane.active = false) (xs vs : List Reg) : s.Free xs vs := by
  have hm : s.me = h := by simp [State.me, State.hart, e, c, Store.get]
  refine free_plain ⟨?_, by rw [hm, h1], by rw [hm, h2], by rw [hm, h3], by rw [hm, h4]⟩
  unfold State.here State.modMe State.modHart State.setHart
  rw [show s.hart s.cur = h from hm, c, e]
  cases s; simp_all [Store.put]

theorem free_st {md : Mode} {x : List (Nat × Word)} {xs vs : List Reg} : (st (hx md x)).Free xs vs :=
  plain_st _ _ rfl rfl rfl rfl rfl rfl _ _

/-- A handle register: base, format, dimension count, extents and strides of a dense tensor. -/
def hand (base fmt dims e0 e1 s0 s1 : Nat) : Line :=
  BitVec.ofNat 512 (base + fmt * 2 ^ 72 + dims * 2 ^ 80 + e0 * 2 ^ 128 + e1 * 2 ^ 160 + s0 * 2 ^ 256 + s1 * 2 ^ 320)

/-- A state with region and handle registers of the hart. -/
def stR (h : Hart) (g : List (Nat × Region)) (hs : List (Nat × Line)) : State :=
  { st h with slotRegs := [(1, { g := g, h := hs })] }

/-- One box of one dimension. -/
def box1 (lo hi : Int) : Region := { d := 1, boxes := [[(lo, hi)]] }

/-! A tenant, address space 5, on quad 0: its tables map 2^36 to the frame at 2^30 with the physical home of each line; vault block 0 of
quad 0 is its data; hart 0 runs its task 3 in context 1. -/

def tenant5 : Tenant :=
  { owner := 2, floor := 0, flags := 0, reserve := 0, cap := 4, pendingCap := 0, argSlots := 0, slack := 0, root := 0x1000,
    homing := 0x3000, argPool := 0, counters := 0 }

def tcb0 : Tcb :=
  { entry := 0x10000000, absorb := 0, arg := 0, gangLevel := 0, gangLog := 0, flags := 0, budget := 1, stage := 0, succ := 0,
    succCount := 0, prodCount := 0, prod := 0, rdWin := 0, wrWin := 0 }

def task5 (addr state : Nat) : Task :=
  { addr := addr, asid := 5, die := 0, tcb := tcb0, state := state, count := 0, demand := 1, deadline := 0, cls := 0, relTime := 0,
    launch := none, members := [{ hart := 0, ctx := 1, slot := 0, rank := 0 }] }

def disp5 : Disp :=
  { tenants := [(5, tenant5)], contexts := [(1, { asid := 5, image := 0x50000000, quad := 0 })], nextCtx := 2,
    tasks := [(3, task5 0x1000000040 4)], nextSub := 4 }

/-- The tables, a homing entry, and a task control block at 2^36. -/
def mem5 : List Host.Cell :=
  [(0x1000, 0x01), (0x1001, 0x08), (0x2200, 0xd7), (0x2203, 0x10), (0x2207, 0x10), (0x3000, 3), (0x40000003, 0x10),
    (0x40000028, 1)]

def h5 (x : List (Nat × Word)) : Hart :=
  { hx .u x with
    task := some 3, ctx := some 1,
    tlb := [{ asid := 5, vpn := 0x40, level := 2, pte := 0x10000000100000d7, homing := 3 }] }

/-- The state, with more bytes of memory behind `mem5`. -/
def st5 (h : Hart) (m : List Host.Cell) : State :=
  { rtu := { boot := .released, keys := [(0, 1), (2, 3)] }, harts := [(0, h)], disp := disp5, mem := mem5 ++ m,
    frames := [(0x200, { slot := 2 }), (0x280, { slot := 2, image := true })], quads := [(0, { blocks := [(0, { asid := 5, kind := .data })] })],
    heap := [(1, { owner := 2, hash := 0, svn := 0, len := 0, starts := [true] })], slotMap := [(1280, 1)] }

theorem free_st5 {h : Hart} {m : List Host.Cell} (h1 : h.tokens = []) (h2 : h.xwait = []) (h3 : h.vwait = [])
    (h4 : h.lane.active = false) {xs vs : List Reg} : (st5 h m).Free xs vs := plain_st h _ rfl rfl h1 h2 h3 h4 xs vs

/-- A line that the hart owns, with the home of the line at address 0x40 in M-mode. -/
def line40 : L1Line := { st := .owned, kind := .hbm, wts := 3, rts := 7, data := 0x1122334455667788 }
def p40 : Place := { kind := .hbm, addr := 0x40, home := (st {}).physHome 0x40 }
def sL1 : State := st { hx .m [(1, 0x40), (2, 9)] with l1 := [(l1Key 1 p40.home, line40)] }

/-- A place in the vault of quad 0. -/
def pV : Place := { kind := .vault, addr := vaultAddr 0 0, home := 0 }

/-- A hart that has stores buffered. -/
def sb1 : SbEntry := { place := p40, mask := 1, data := 0xff, asid := 0 }
def sSb (n : Nat) : State := st { hx .m [(1, 0x40)] with sb := List.replicate n sb1 }

theorem free_sL1 {xs vs : List Reg} : sL1.Free xs vs := plain_st _ _ rfl rfl rfl rfl rfl rfl _ _
theorem free_sSb {n : Nat} {xs vs : List Reg} : (sSb n).Free xs vs := plain_st _ _ rfl rfl rfl rfl rfl rfl _ _

/-- The bytes 0x40 to 0x4f excluded. -/
def sEx : State := stR { hx .u [(1, 0x40)] with win := { excl := [(1, box1 0 16)] } } [] [(1, hand 0x40 0 1 16 0 1 0)]

theorem free_sEx {xs vs : List Reg} : sEx.Free xs vs := plain_st _ _ rfl rfl rfl rfl rfl rfl _ _

/-- A copy of hart 0's task, with token 6. -/
def xfer (phase : XPhase) : Transfer :=
  { id := 9, hart := 0, quad := 0, slot := 0, ctx := some 1, task := some 3, asid := 5, kind := .copy, reg := 6, region := {},
    src := .absent, dst := .absent, phase := phase }

/-- A task of stage 1, whose ring at unit 1 holds nothing, holds a slot, or has ended. -/
def ring1 (flags pub : Byte) : List Host.Cell :=
  [(vaultAddr 0 64, 2), (vaultAddr 0 64 + 3, 0x80), (vaultAddr 0 64 + 4, flags), (vaultAddr 0 64 + 0x18, pub)]
def taskSt : Task := { task5 0x1000000040 4 with tcb := { tcb0 with flags := 4, stage := 1 } }
def sStage (m : List Host.Cell) : State :=
  { st5 (h5 []) m with
    disp := { disp5 with tenants := [(5, { tenant5 with stages := [(1, { min := 1, max := 4, ring := 0x7e0000000040 })] })],
                         tasks := [(3, taskSt)] } }

/-- A full audit log. -/
def auditFull : Rtu := { seq := 4095, segments := [{ idx := 1, final := 0 }] }

def hreq (r : HostReq) : State := { rtu := { boot := .released }, hostReqs := [(7, r)] }

/-- The task has a transfer in flight. -/
def sBusy : State := { st5 (h5 []) [] with quads := [(0, { transfers := [xfer .moving] })] }

/-! ## Decoding: every constructor's word, as the chapters print it or written out from their tables -/

/-- The decoder reads the instruction from the word. -/
def Reads (nbits w : Nat) (i : Instr) : Prop := decodeTableWord nbits w = some i

/-- Words of the base (R308, R325). -/
theorem test_words_base_1 :
    Reads 32 0x010002B7 (.integerAlu (.lui 5 0x1000)) ∧
    Reads 32 0x00C29293 (.integerAlu (.sh .slli 5 5 12)) ∧
    Reads 32 0x00000073 (.ecallEnvironment false) ∧
    Reads 32 0x00100073 (.ecallEnvironment true) ∧
    Reads 32 0x34129373 (.csrWrite .rw 0x341 (.reg 5) 6) ∧
    Reads 32 0x5C129073 (.budgetWrite .rw (.reg 5) 0) ∧
    Reads 32 0x5C02A373 (.driftWrite .rs (.reg 5) 6) ∧
    Reads 32 0x80345073 (.leaseWrite .rw (.imm 8) 0) ∧
    Reads 32 0x8000F1F3 (.rmodeWrite .rc (.imm 1) 3) ∧
    Reads 32 0x80929073 (.trcfgWrite .rw (.reg 5) 0) ∧
    Reads 32 0x5C505073 (.xfctlResume .rw (.imm 0) 0) ∧
    Reads 32 0x5C50D073 (.xfctlFail .rw (.imm 1) 0) ∧
    Reads 32 0xFF813083 (.load .ld 1 2 0xff8) ∧
    Reads 32 0xFE112E23 (.store .sw 1 2 0xffc) ∧
    Reads 32 0x063130AF (.amo .add true true true 1 2 3) ∧
    Reads 32 0x140120AF (.lr false true false 1 2) :=
  ⟨rfl, rfl, rfl, rfl, rfl, rfl, rfl, rfl, rfl, rfl, rfl, rfl, rfl, rfl, rfl, rfl⟩

/-- Words of the base (R308, R325). -/
theorem test_words_base_2 :
    Reads 32 0x1A3130AF (.sc true false true 1 2 3) ∧
    Reads 32 0x2841C12F (.amocasQ false false 2 3 4) ∧
    Reads 32 0x283120AF (.amo .cas false false false 1 2 3) ∧
    Reads 32 0x10500073 (.wfi) ∧
    Reads 32 0x10200073 (.sret) ∧
    Reads 32 0x30200073 (.mret) ∧
    Reads 32 0x12310073 (.sfenceVma 2 3) ∧
    Reads 32 0x0FF0000F (.fence 0 15 15 0 0) ∧
    Reads 32 0x8330000F (.fenceTso 0 0) ∧
    Reads 32 0x0000100F (.fenceI 0 0 0) ∧
    Reads 32 0x403100B3 (.integerAlu (.rr .sub 1 2 3)) ∧
    Reads 32 0x7FF10093 (.integerAlu (.ri .addi 1 2 0x7ff)) ∧
    Reads 32 0x60211093 (.integerAlu (.un .cpop 1 2)) ∧
    Reads 32 0x080140BB (.integerAlu (.un .zexth 1 2)) ∧
    Reads 32 0xFE208EE3 (.controlTransfer (.branch .eq 1 2 0xffe)) ∧
    Reads 32 0xFF9FF0EF (.controlTransfer (.jal 1 0xffffc)) :=
  ⟨rfl, rfl, rfl, rfl, rfl, rfl, rfl, rfl, rfl, rfl, rfl, rfl, rfl, rfl, rfl, rfl⟩

/-- Words of the base (R308, R325). -/
theorem test_words_base_3 :
    Reads 32 0x004280E7 (.controlTransfer (.jalr 1 5 4)) :=
  rfl

/-- Words of custom-0 (R318). -/
theorem test_words_task_1 :
    Reads 32 0x0200000B (.tyield) ∧
    Reads 32 0x0405850B (.tspawn 10 11) ∧
    Reads 32 0x0415850B (.tspawnN 10 11) ∧
    Reads 32 0x0605850B (.tcancel 10 11) ∧
    Reads 32 0x0805850B (.tstat 10 11) ∧
    Reads 32 0x0A00050B (.twdchk 10) ∧
    Reads 32 0x0C00050B (.tbudget 10) ∧
    Reads 32 0x0E00050B (.tself 10) ∧
    Reads 32 0x1000050B (.drank 10) ∧
    Reads 32 0x1200050B (.dsize 10) ∧
    Reads 32 0x00B5108B (.bbind 1 10 11) ∧
    Reads 32 0x0206108B (.barrive 1 12) ∧
    Reads 32 0x0410150B (.bwait 10 1) ∧
    Reads 32 0x0616150B (.bsync 10 1 12) ∧
    Reads 32 0x0806108B (.bexpect 1 12) ∧
    Reads 32 0x0A10150B (.btest 10 1) :=
  ⟨rfl, rfl, rfl, rfl, rfl, rfl, rfl, rfl, rfl, rfl, rfl, rfl, rfl, rfl, rfl, rfl⟩

/-- Words of custom-0 (R318). -/
theorem test_words_task_2 :
    Reads 32 0x0C00108B (.bunbind 1) ∧
    Reads 32 0x00C5A50B (.msend 10 11 12) ∧
    Reads 32 0x0205A50B (.mrecv 10 11) ∧
    Reads 32 0x0400250B (.mpoll 10) ∧
    Reads 32 0x0600250B (.mwait 10) ∧
    Reads 32 0x0800250B (.mhdr 10) ∧
    Reads 32 0x0000350B (.clkrd 10) ∧
    Reads 32 0x0205B00B (.clkadv 11) ∧
    Reads 32 0x0405B50B (.lwait 10 11) ∧
    Reads 32 0x0205400B (.trmark 10) ∧
    Reads 32 0x0400400B (.trtrig) ∧
    Reads 32 0x00C5D50B (.ctxpre 10 11 12) ∧
    Reads 32 0x0205D50B (.ctxrel 10 11) ∧
    Reads 32 0x04C5D50B (.mcset 10 11 12) ∧
    Reads 32 0x06C5D50B (.audapp 10 11 12) ∧
    Reads 32 0x0000000B (.tretire 0) :=
  ⟨rfl, rfl, rfl, rfl, rfl, rfl, rfl, rfl, rfl, rfl, rfl, rfl, rfl, rfl, rfl, rfl⟩

/-- Words of custom-0 (R318). -/
theorem test_words_task_3 :
    Reads 32 0x0005000B (.tretire 10) ∧
    Reads 32 0x0010000B (.tretireA 0) ∧
    Reads 32 0x0015000B (.tretireA 10) ∧
    Reads 32 0x0A40350B (.fencesRelease 10 .package) ∧
    Reads 32 0x0630300B (.fencesFull 0 .die) ∧
    Reads 32 0x0850300B (.fencesAcquire 0 .system) ∧
    Reads 32 0x0135C00B (.repb 11 3 2) :=
  ⟨rfl, rfl, rfl, rfl, rfl, rfl, rfl⟩

/-- Words of W64 class 011 (R322). -/
theorem test_words_task_long :
    Reads 64 0x000080000005B53F (.tspawnOff 10 11 128) ∧
    Reads 64 0x000080004005B53F (.tspawnNOff 10 11 128) ∧
    Reads 64 0x009020010005303F (.bbindI 0 10 36896) ∧
    Reads 64 0x00800002000030BF (.bexpectI 1 32768) ∧
    Reads 64 0x000007031AC5B53F (.msendI 10 11 12 13 7) ∧
    Reads 64 0x000040040005B53F (.lwaitOff 10 11 64) ∧
    Reads 64 0x000040050005B03F (.clkadvOff 11 64) ∧
    Reads 64 0x000123060000303F (.trmarkI 291) :=
  ⟨rfl, rfl, rfl, rfl, rfl, rfl, rfl, rfl⟩

/-- Words of custom-1 (R319). -/
theorem test_words_region_1 :
    Reads 32 0x002000AB (.rgnil 1 2) ∧
    Reads 32 0x0201812B (.rgfull 2 3) ∧
    Reads 32 0x04B500AB (.rgpt 1 10 11) ∧
    Reads 32 0x063100AB (.rgclip 1 2 3) ∧
    Reads 32 0x083100AB (.rguni 1 2 3) ∧
    Reads 32 0x0A3100AB (.rgint 1 2 3) ∧
    Reads 32 0x0C3100AB (.rgsub 1 2 3) ∧
    Reads 32 0x0EB100AB (.rgdil 1 2 11) ∧
    Reads 32 0x10B100AB (.rgshf 1 2 11) ∧
    Reads 32 0x12B100AB (.rgprj 1 2 11) ∧
    Reads 32 0x14B100AB (.rgxpd 1 2 11) ∧
    Reads 32 0x16B100AB (.rglat 1 2 11) ∧
    Reads 32 0x18B100AB (.rgcut 1 2 11) ∧
    Reads 32 0x1AB100AB (.rgspl 1 2 11) ∧
    Reads 32 0x1C0100AB (.rgbbox 1 2) ∧
    Reads 32 0x1E0100AB (.rgmv 1 2) :=
  ⟨rfl, rfl, rfl, rfl, rfl, rfl, rfl, rfl, rfl, rfl, rfl, rfl, rfl, rfl, rfl, rfl⟩

/-- Words of custom-1 (R319). -/
theorem test_words_region_2 :
    Reads 32 0x200100AB (.rgcan 1 2) ∧
    Reads 32 0x220500AB (.rgld 1 10) ∧
    Reads 32 0x240500AB (.rgst 1 10) ∧
    Reads 32 0x2601052B (.rgcnt 10 2) ∧
    Reads 32 0x2801052B (.rgnbx 10 2) ∧
    Reads 32 0x2A31052B (.rgtst 10 2 3) ∧
    Reads 32 0x2C31052B (.rgeq 10 2 3) ∧
    Reads 32 0x2E31052B (.rgsubs 10 2 3) ∧
    Reads 32 0x30B1052B (.rgget 10 2 11) ∧
    Reads 32 0x040510AB (.rgldImm 1 10 64) ∧
    Reads 32 0x040520AB (.rgstImm 1 10 64) :=
  ⟨rfl, rfl, rfl, rfl, rfl, rfl, rfl, rfl, rfl, rfl, rfl⟩

/-- Words of W64 class 010 (R379). -/
theorem test_words_region_long :
    Reads 64 0x00100011000520BF (.rgldW64 1 10 4096) ∧
    Reads 64 0x00004107000120BF (.rgdilI 1 2 0x000041) ∧
    Reads 64 0x000FC108000120BF (.rgshfI 1 2 0x000FC1) ∧
    Reads 64 0x0000010B0001A23F (.rglatI 4 3 0x000001) ∧
    Reads 64 0x000041180001253F (.rggetI 10 2 65) ∧
    Reads 64 0x0000410240B520BF (.rgptI 1 10 11 1 0x41) ∧
    Reads 64 0x00000509000120BF (.rgprjI 1 2 5) ∧
    Reads 64 0x0102030A000120BF (.rgxpdI 1 2 0x10203) ∧
    Reads 64 0x0102030C000120BF (.rgcutI 1 2 0x10203) ∧
    Reads 64 0x0000210D000120BF (.rgsplI 1 2 0x21) ∧
    Reads 64 0xFFFFE012000520BF (.rgstW64 1 10 0xffffe0) :=
  ⟨rfl, rfl, rfl, rfl, rfl, rfl, rfl, rfl, rfl, rfl, rfl⟩

/-- Words of custom-3 (R321). -/
theorem test_words_transfer_1 :
    Reads 32 0x0005817B (.hld 2 11) ∧
    Reads 32 0x0205817B (.hst 2 11) ∧
    Reads 32 0x04B1057B (.hget 10 2 11) ∧
    Reads 32 0x06B5017B (.hsetx 2 10 11) ∧
    Reads 32 0x084086FB (.copy 13 1 4) ∧
    Reads 32 0x0A40807B (.copyb 0 1 4) ∧
    Reads 32 0x0C40857B (.copyn 10 1 4) ∧
    Reads 32 0x0E4086FB (.getx 13 1 4) ∧
    Reads 32 0x104086FB (.putx 13 1 4) ∧
    Reads 32 0x124086FB (.getr 13 1 4) ∧
    Reads 32 0x144086FB (.putr 13 1 4) ∧
    Reads 32 0x1640807B (.pref 1 4) ∧
    Reads 32 0x184086FB (.flushr 13 1 4) ∧
    Reads 32 0x1A4086FB (.waitg 13 1 4) ∧
    Reads 32 0x1C06857B (.tktest 10 13) ∧
    Reads 32 0x1EB500FB (.qbind 1 10 11) :=
  ⟨rfl, rfl, rfl, rfl, rfl, rfl, rfl, rfl, rfl, rfl, rfl, rfl, rfl, rfl, rfl, rfl⟩

/-- Words of custom-3 (R321). -/
theorem test_words_transfer_2 :
    Reads 32 0x2000857B (.qacq 10 1) ∧
    Reads 32 0x22B500FB (.qpub 1 10 11) ∧
    Reads 32 0x2400857B (.qtake 10 1) ∧
    Reads 32 0x260500FB (.qfree 1 10) ∧
    Reads 32 0x280000FB (.qeos 1) ∧
    Reads 32 0x2A00857B (.qstat 10 1) ∧
    Reads 32 0x2C4086FB (.ldsub 13 1 4) ∧
    Reads 32 0x2E4086FB (.lddrn 13 1 4) ∧
    Reads 32 0x3006857B (.ldcan 10 13) ∧
    Reads 32 0x084096FB (.copyClip 13 1 4) ∧
    Reads 32 0x0405B17B (.hstImm 2 11 64) ∧
    Reads 32 0x0405A17B (.hldImm 2 11 64) ∧
    Reads 32 0x0A40907B (.copybClip 0 1 4) ∧
    Reads 32 0x0C40957B (.copynClip 10 1 4) ∧
    Reads 32 0x0E4096FB (.getxClip 13 1 4) ∧
    Reads 32 0x104096FB (.putxClip 13 1 4) :=
  ⟨rfl, rfl, rfl, rfl, rfl, rfl, rfl, rfl, rfl, rfl, rfl, rfl, rfl, rfl, rfl, rfl⟩

/-- Words of custom-3 (R321). -/
theorem test_words_transfer_3 :
    Reads 32 0x124096FB (.getrClip 13 1 4) ∧
    Reads 32 0x144096FB (.putrClip 13 1 4) :=
  ⟨rfl, rfl⟩

/-- Words of W64 class 001 (R404, R422). -/
theorem test_words_transfer_long :
    Reads 64 0x001000000005913F (.hldW64 2 11 4096) ∧
    Reads 64 0x000000040E4096BF (.copyW64 false 13 1 4 7 0) ∧
    Reads 64 0x0000C0050A01103F (.copybW64 false 0 2 0 5 0x0000C0) ∧
    Reads 64 0xFFFFC0010005913F (.hstW64 2 11 0xffffc0) ∧
    Reads 64 0x000007020001153F (.hgetI 10 2 7) ∧
    Reads 64 0x000006030005113F (.hsetxI 2 10 6) ∧
    Reads 64 0x000000064E0096BF (.copynW64 true 13 1 0 7 0) ∧
    Reads 64 0x000800070E4096BF (.getxW64 false 13 1 4 7 0x800) ∧
    Reads 64 0x000800084E4096BF (.putxW64 true 13 1 4 7 0x800) ∧
    Reads 64 0x000083090E2096BF (.getrW64 false 13 1 2 7 0x83) ∧
    Reads 64 0x0001030A044096BF (.putrW64 false 13 1 4 2 0x103) :=
  ⟨rfl, rfl, rfl, rfl, rfl, rfl, rfl, rfl, rfl, rfl, rfl⟩

/-- Words of custom-2 (R320, R427). -/
theorem test_words_vector_1 :
    Reads 32 0x0002E0DB (.vld .f32 1 5) ∧
    Reads 32 0x1220E1DB (.vadd .f32 3 1 2) ∧
    Reads 32 0x000560DB (.vld .f32 1 10) ∧
    Reads 32 0x0235605B (.vst .f32 3 10) ∧
    Reads 32 0x083560DB (.vgath .f32 1 10 3) ∧
    Reads 32 0x0A3560DB (.vscat .f32 1 10 3) ∧
    Reads 32 0x0C0560DB (.vbcast .f32 1 10) ∧
    Reads 32 0x0E01655B (.vmvx .f32 10 2) ∧
    Reads 32 0x100160DB (.vmvv .f32 1 2) ∧
    Reads 32 0x123160DB (.vadd .f32 1 2 3) ∧
    Reads 32 0x143160DB (.vsub .f32 1 2 3) ∧
    Reads 32 0x163160DB (.vmul .f32 1 2 3) ∧
    Reads 32 0x183160DB (.vfma .f32 1 2 3) ∧
    Reads 32 0x1A3160DB (.vfms .f32 1 2 3) ∧
    Reads 32 0x1C3160DB (.vmin .f32 1 2 3) ∧
    Reads 32 0x1E3160DB (.vmax .f32 1 2 3) :=
  ⟨rfl, rfl, rfl, rfl, rfl, rfl, rfl, rfl, rfl, rfl, rfl, rfl, rfl, rfl, rfl, rfl⟩

/-- Words of custom-2 (R320, R427). -/
theorem test_words_vector_2 :
    Reads 32 0x200160DB (.vabs .f32 1 2) ∧
    Reads 32 0x220160DB (.vneg .f32 1 2) ∧
    Reads 32 0x243120DB (.vand .i32 1 2 3) ∧
    Reads 32 0x263120DB (.vor .i32 1 2 3) ∧
    Reads 32 0x283120DB (.vxor .i32 1 2 3) ∧
    Reads 32 0x2A3120DB (.vsll .i32 1 2 3) ∧
    Reads 32 0x2C3120DB (.vsrl .i32 1 2 3) ∧
    Reads 32 0x2E3120DB (.vsra .i32 1 2 3) ∧
    Reads 32 0x323160DB (.vsel .f32 1 2 3) ∧
    Reads 32 0x360160DB (.vrsum .f32 1 2) ∧
    Reads 32 0x380160DB (.vrmax .f32 1 2) ∧
    Reads 32 0x3A0160DB (.vrmin .f32 1 2) ∧
    Reads 32 0x3C0160DB (.vexp2 .f32 1 2) ∧
    Reads 32 0x3E0160DB (.vlog2 .f32 1 2) ∧
    Reads 32 0x400160DB (.vrcp .f32 1 2) ∧
    Reads 32 0x420160DB (.vrsqrt .f32 1 2) :=
  ⟨rfl, rfl, rfl, rfl, rfl, rfl, rfl, rfl, rfl, rfl, rfl, rfl, rfl, rfl, rfl, rfl⟩

/-- Words of custom-2 (R320, R427). -/
theorem test_words_vector_3 :
    Reads 32 0x440160DB (.vsqrt .f32 1 2) ∧
    Reads 32 0x463160DB (.vdot .f32 1 2 3) ∧
    Reads 32 0x483160DB (.vperm .f32 1 2 3) ∧
    Reads 32 0x4C0160DB (.vcompr .f32 1 2) ∧
    Reads 32 0x4E0160DB (.vexpnd .f32 1 2) ∧
    Reads 32 0x500020DB (.viota .i32 1) ∧
    Reads 32 0x5201655B (.vztst .f32 10 2) ∧
    Reads 32 0x543160DB (.vscl .f32 false 1 2 3) ∧
    Reads 32 0x5801805B (.vmask 3) ∧
    Reads 32 0x5A3100DB (.kand 1 2 3) ∧
    Reads 32 0x5C3100DB (.kor 1 2 3) ∧
    Reads 32 0x5E0100DB (.knot 1 2) ∧
    Reads 32 0x92C0E1DB (.vaddVx .f32 3 1 12) ∧
    Reads 32 0x355160DB (.vcvt .f32 1 2 21) ∧
    Reads 32 0xCAB160DB (.vslideVx .f32 1 2 11) ∧
    Reads 32 0x600500DB (.kmvToMask 1 10) :=
  ⟨rfl, rfl, rfl, rfl, rfl, rfl, rfl, rfl, rfl, rfl, rfl, rfl, rfl, rfl, rfl, rfl⟩

/-- Words of custom-2 (R320, R427). -/
theorem test_words_vector_4 :
    Reads 32 0x6011055B (.kmvFromMask 10 2) ∧
    Reads 32 0x94B160DB (.vsubVx .f32 1 2 11) ∧
    Reads 32 0x96B160DB (.vmulVx .f32 1 2 11) ∧
    Reads 32 0x98B160DB (.vfmaVx .f32 1 2 11) ∧
    Reads 32 0x9AB160DB (.vfmsVx .f32 1 2 11) ∧
    Reads 32 0x9CB160DB (.vminVx .f32 1 2 11) ∧
    Reads 32 0x9EB160DB (.vmaxVx .f32 1 2 11) ∧
    Reads 32 0xB2B160DB (.vselVx .f32 1 2 11) ∧
    Reads 32 0xA4B110DB (.vandVx .i16 1 2 11) ∧
    Reads 32 0xA6B110DB (.vorVx .i16 1 2 11) ∧
    Reads 32 0xA8B110DB (.vxorVx .i16 1 2 11) ∧
    Reads 32 0xAAB110DB (.vsllVx .i16 1 2 11) ∧
    Reads 32 0xACB110DB (.vsrlVx .i16 1 2 11) ∧
    Reads 32 0xAEB110DB (.vsraVx .i16 1 2 11) :=
  ⟨rfl, rfl, rfl, rfl, rfl, rfl, rfl, rfl, rfl, rfl, rfl, rfl, rfl, rfl⟩

/-- Words of W64 class 100 (R322, R427). -/
theorem test_words_vector_long :
    Reads 64 0xC00040000002C13F (.vldOff .f32 2 5 64) ∧
    Reads 64 0xC00080010032C03F (.vstOff .f32 3 5 128) ∧
    Reads 64 0xC0000002160540BF (.vlds .f32 1 10 11 0) ∧
    Reads 64 0xC00000031635403F (.vsts .f32 3 10 11 0) ∧
    Reads 64 0xC0000018043140BF (.vcmp .f32 false 1 2 3 2) ∧
    Reads 64 0xE000002B143140BF (.vqnt 0 false 0 1 2 3 10) ∧
    Reads 64 0x40000304003540BF (.vgathOff .i32 1 10 3 3) ∧
    Reads 64 0x40000305003540BF (.vscatOff .i32 1 10 3 3) ∧
    Reads 64 0x20001F070001453F (.vmvxLane .i16 10 2 31) ∧
    Reads 64 0xE000011A405140BF (.vcvtW64 .fp8 1 1 2 5 1) ∧
    Reads 64 0xDFFFFF25000140BF (.vslideI .f32 1 2 0x1fffff) ∧
    Reads 64 0xE000006A40B140BF (.vsclVx .fp8 true 1 2 11) :=
  ⟨rfl, rfl, rfl, rfl, rfl, rfl, rfl, rfl, rfl, rfl, rfl, rfl⟩

/-- Words of W64 class 000 (R451). -/
theorem test_words_matrix_1 :
    Reads 64 0x000000000005003F (.mfmt 10) ∧
    Reads 64 0x0000000100B5003F (.mupld 10 11) ∧
    Reads 64 0x0000000B0000003F (.msync) ∧
    Reads 64 0x01FC7F023E40003F (.mma false 0 0 4 31 127 127) ∧
    Reads 64 0x07FEFF033E40003F (.mmag false 0 0 4 31 511 767) ∧
    Reads 64 0x01FC7F043E40003F (.mrec false 0 0 4 31 127 127) ∧
    Reads 64 0x000003050000013F (.mzero 2 3) ∧
    Reads 64 0x000001060000043F (.mtzero 8 1) ∧
    Reads 64 0x000001070000043F (.mtmov 8 0 1) ∧
    Reads 64 0x000007080001853F (.mztst 10 3 7) ∧
    Reads 64 0x00000009400100BF (.mtrn 1 1 2) ∧
    Reads 64 0x0000000A400001BF (.mrel true 3) ∧
    Reads 64 0x0001850C000100BF (.mext 1 2 5 3) ∧
    Reads 64 0x0001850D0000813F (.mins 2 1 5 3) ∧
    Reads 64 0x0000000E400300BF (.mlda 1 1 6) ∧
    Reads 64 0x0000000F0000043F (.msta 0 8 0) :=
  ⟨rfl, rfl, rfl, rfl, rfl, rfl, rfl, rfl, rfl, rfl, rfl, rfl, rfl, rfl, rfl, rfl⟩

/-- Words of W64 class 000 (R451). -/
theorem test_words_matrix_2 :
    Reads 64 0x0000091014F0013F (.mqnt 0 2 0 15 10 1 1) ∧
    Reads 64 0x000000110007003F (.mscl 0 0 14) ∧
    Reads 64 0x000000124007003F (.mbias 1 0 14) ∧
    Reads 64 0x000000130000003F (.mapplyRelu 0) ∧
    Reads 64 0x00000014000084BF (.mred 0 9 1 0) ∧
    Reads 64 0x00000113000001BF (.mapplyMicro 3) :=
  ⟨rfl, rfl, rfl, rfl, rfl, rfl⟩

/-! ## Ill-formed instructions: one for each check -/

theorem test_ill_csr_rows :
    ¬WellFormed (.csrWrite .rw 0x5C1 (.reg 1) 0) ∧ ¬WellFormed (.csrWrite .rs 0x800 (.imm 1) 0) ∧
    ¬WellFormed (.csrWrite .rw 0x5C5 (.imm 0) 0) ∧ ¬WellFormed (.csrWrite .rc 0x5C5 (.reg 3) 0) ∧
    ¬WellFormed (.budgetWrite .rs (.reg 0) 1) ∧ ¬WellFormed (.trcfgWrite .rc (.imm 0) 1) ∧
    ¬WellFormed (.xfctlResume .rw (.imm 1) 0) ∧ ¬WellFormed (.xfctlFail .rw (.reg 5) 0) := by
  refine ⟨?_, ?_, ?_, ?_, ?_, ?_, ?_, ?_⟩ <;> exact Bool.false_ne_true

theorem test_ill_base :
    ¬WellFormed (.amocasQ false false 1 2 4) ∧ ¬WellFormed (.amocasQ false false 2 2 3) ∧
    ¬WellFormed (.fence 8 3 3 0 0) ∧ ¬WellFormed (.integerAlu (.sh .slliw 1 2 32)) := by
  refine ⟨?_, ?_, ?_, ?_⟩ <;> exact Bool.false_ne_true

theorem test_ill_register_files :
    ¬WellFormed (.bbind 8 1 2) ∧ ¬WellFormed (.bexpectI 8 0) ∧ ¬WellFormed (.rgfull 16 1) ∧ ¬WellFormed (.rguni 1 2 16) ∧
    ¬WellFormed (.rgcnt 1 16) ∧ ¬WellFormed (.hld 16 1) ∧ ¬WellFormed (.hget 1 16 2) ∧ ¬WellFormed (.copy 1 2 15) ∧
    ¬WellFormed (.getx 1 2 14) ∧ ¬WellFormed (.copyb 8 1 2) ∧ ¬WellFormed (.pref 16 1) ∧ ¬WellFormed (.qeos 8) ∧
    ¬WellFormed (.vmask 8) ∧ ¬WellFormed (.kand 1 2 8) ∧ ¬WellFormed (.kmvToMask 8 1) ∧ ¬WellFormed (.mrel true 8) := by
  refine ⟨?_, ?_, ?_, ?_, ?_, ?_, ?_, ?_, ?_, ?_, ?_, ?_, ?_, ?_, ?_, ?_⟩ <;> exact Bool.false_ne_true

theorem test_ill_regions :
    ¬WellFormed (.rgnil 1 0) ∧ ¬WellFormed (.rgnil 1 5) ∧ ¬WellFormed (.rgptI 1 2 3 0 0x40) ∧
    ¬WellFormed (.rgprjI 1 2 0x10) ∧ ¬WellFormed (.rgsplI 1 2 0x100) ∧ ¬WellFormed (.rggetI 1 2 69) := by
  refine ⟨?_, ?_, ?_, ?_, ?_, ?_⟩ <;> exact Bool.false_ne_true

/-- Both tile ends; a tile end that GETX and PUTX lack; a row with no tile end; GROUP without MC; MC with an index; a row beyond
the fields; the destination field of COPYN. -/
theorem test_ill_transfers :
    ¬WellFormed (.copyW64 false 1 2 3 4 0x180) ∧ ¬WellFormed (.getxW64 false 1 2 3 4 0x100) ∧
    ¬WellFormed (.putxW64 false 1 2 3 4 0x080) ∧ ¬WellFormed (.copyW64 false 1 2 3 4 0x001) ∧
    ¬WellFormed (.copyW64 false 1 2 3 4 0x400) ∧ ¬WellFormed (.getxW64 false 1 2 3 4 0x200) ∧
    ¬WellFormed (.getrW64 false 1 2 3 4 0x200) ∧ ¬WellFormed (.copynW64 false 1 2 3 4 0) ∧
    ¬WellFormed (.copybW64 false 0 1 16 3 0) ∧ ¬WellFormed (.copyW64 false 1 2 3 4 0x400000) := by
  refine ⟨?_, ?_, ?_, ?_, ?_, ?_, ?_, ?_, ?_, ?_⟩ <;> exact Bool.false_ne_true

/-- Types and lanes that an operation does not take; conditions, conversions and formats that do not exist. -/
theorem test_ill_vectors :
    ¬WellFormed (.vadd .fp8 1 2 3) ∧ ¬WellFormed (.vmvxLane .i32 1 2 16) ∧ ¬WellFormed (.vsll .f32 1 2 3) ∧
    ¬WellFormed (.viota .f16 1) ∧ ¬WellFormed (.vcmp .i8 false 1 2 3 8) ∧ ¬WellFormed (.vcmp .fp8 false 1 2 3 0) ∧
    ¬WellFormed (.vcvt .f32 1 2 6) ∧ ¬WellFormed (.vcvtW64 .i8 1 1 2 1 0) ∧ ¬WellFormed (.vcvtW64 .f32 0 1 2 12 0) ∧
    ¬WellFormed (.vexp2 .i32 1 2) ∧ ¬WellFormed (.vscl .i32 false 1 2 3) ∧ ¬WellFormed (.vscl .f32 true 1 2 3) ∧
    ¬WellFormed (.vqnt 3 false 0 1 2 3 4) ∧ ¬WellFormed (.vqnt 0 false 2 1 2 3 4) := by
  refine ⟨?_, ?_, ?_, ?_, ?_, ?_, ?_, ?_, ?_, ?_, ?_, ?_, ?_, ?_⟩ <;> exact Bool.false_ne_true

/-- Spans that leave their file; sizes, formats and rows out of range. -/
theorem test_ill_matrix :
    ¬WellFormed (.mma false 0 15 0 0 255 127) ∧ ¬WellFormed (.mma false 7 0 0 0 255 127) ∧
    ¬WellFormed (.mma false 0 0 0 0 256 127) ∧ ¬WellFormed (.mmag false 0 0 0 0 0 768) ∧ ¬WellFormed (.mzero 7 1) ∧
    ¬WellFormed (.mtmov 15 0 1) ∧ ¬WellFormed (.mztst 1 2 1) ∧ ¬WellFormed (.mtrn 3 1 2) ∧ ¬WellFormed (.mext 1 8 0 0) ∧
    ¬WellFormed (.mlda 0 1 15) ∧ ¬WellFormed (.msta 3 1 1) ∧ ¬WellFormed (.mqnt 0 2 0 2 10 0 0) ∧
    ¬WellFormed (.mqnt 0 2 0 3 10 5 0) ∧ ¬WellFormed (.mscl 3 0 1) ∧ ¬WellFormed (.mbias 2 0 1) ∧
    ¬WellFormed (.mapplyRelu 8) ∧ ¬WellFormed (.mred 0 1 2 127) := by
  refine ⟨?_, ?_, ?_, ?_, ?_, ?_, ?_, ?_, ?_, ?_, ?_, ?_, ?_, ?_, ?_, ?_, ?_⟩ <;> exact Bool.false_ne_true

/-! ## What the statements assume can be met: the base instructions

Each theorem shows states and operands that meet the premises of the clauses of one statement, in their order. -/

theorem witness_IntegerComputations :
    (st (hx .u [(1, 5)])).Free (aluRegs (.lui 3 0x12345)) [] ∧ (st (hx .u [(1, 5)])).Free (aluRegs (.lui 0 0x12345)) [] ∧
      (aluEval (st (hx .u [(1, 5)])) (.lui 0 0x12345)).1 = 0 := ⟨free_st, free_st, rfl⟩

theorem witness_ControlTransfers :
    ((st (hx .u [(1, 5)])).Free [1, 2] [] ∧ Cond.holds .eq ((st (hx .u [(1, 5)])).rx 1) ((st (hx .u [(1, 5)])).rx 2) = false) ∧
    ((st (hx .u [(1, 5)])).Free [1, 1] [] ∧ Cond.holds .eq ((st (hx .u [(1, 5)])).rx 1) ((st (hx .u [(1, 5)])).rx 1) = true) ∧
    (st (hx .u [(1, 5)])).Free [1] [] ∧ (st (hx .u [(1, 5)])).Free [1, 2] [] :=
  ⟨⟨free_st, rfl⟩, ⟨free_st, rfl⟩, free_st, free_st⟩

theorem witness_LoadsAndStores :
    (sL1.Free [3, 1] [] ∧ okV (sL1.load (sL1.ea 1 0#12) (LoadWidth.bytes .ld)) = some 0x1122334455667788) ∧
    (sEx.Free [3, 1] [] ∧ sEx.excluded (sEx.ea 1 15#12).toNat 1 = true ∧ sEx.excluded (sEx.ea 1 16#12).toNat 1 = false) ∧
    (sL1.excluded (sL1.ea 1 1#12).toNat 8 = false ∧ (sL1.ea 1 1#12).toNat % 8 ≠ 0) ∧
    ((sSb 1).me.forward 0x40 1 = some (some 0xff)) ∧
    (sL1.me.forward 0x40 8 = none ∧ p40.kind = .hbm ∧ sL1.me.l1At (l1Key (lineNo p40.addr) p40.home) = some line40 ∧
      line40.st = .owned ∧ line40.poison = false ∧ sL1.fits (dieOf sL1.cur) (max line40.rts (max sL1.me.pts line40.wts)) = true) ∧
    (sL1.me.forward pV.addr 8 = none ∧ pV.kind = .vault ∧ sL1.deadRoute (dieOf sL1.cur) (dieOfQuad pV.home) = none ∧
      sL1.poisoned pV.addr = false ∧ sL1.vaultPosted sL1.cur pV.addr 8 = false) ∧
    (sL1.me.forward (vaultAddr 160 0) 8 = none ∧
      ({ sL1 with dieLinks := [(0, { down := true })] } : State).deadRoute (dieOf sL1.cur) (dieOfQuad 160) = some 1) ∧
    (sL1.Free [2, 1] [] ∧ (sL1.ea 1 0#12).toNat % 8 = 0 ∧ sL1.resolve .store (sL1.ea 1 0#12).toNat = .ok p40 sL1 ∧
      p40.kind ≠ .hostNC ∧ sL1.me.sb.length < 16) ∧
    ((sSb 15).me.sb.length < 16 ∧ (sSb 16).Free [2, 1] [] ∧ (sSb 16).resolve .store 0x40 = .ok p40 (sSb 16) ∧
      16 ≤ (sSb 16).me.sb.length) :=
  ⟨⟨free_sL1, by decide +kernel⟩, ⟨free_sEx, by decide +kernel, by decide +kernel⟩, ⟨rfl, by decide⟩, rfl, ⟨rfl, rfl, by decide +kernel, rfl, rfl, by decide +kernel⟩, ⟨rfl, rfl, rfl, rfl, rfl⟩, ⟨rfl, rfl⟩,
    ⟨free_sL1, by decide, rfl, by decide, by decide⟩, by decide, free_sSb, rfl, by decide⟩

theorem witness_Atomics :
    (sSb 1).Free [3, 1, 2] [] ∧ (sSb 1).amoAddr ((sSb 1).rx 1) 8 6 .store = .ok p40 (sSb 1) ∧ (sSb 1).me.sb ≠ [] ∧
    (sL1.Free [3, 1, 2] [] ∧ sL1.amoAddr (sL1.rx 1) 8 6 .store = .ok p40 sL1 ∧ sL1.me.sb = [] ∧ sL1.me.unacked = 0 ∧
      (∃ u, (sL1.releasedBy true).amoPlace p40 (sL1.rx 1) 8 .add (sL1.rx 2).toNat (sL1.rx 3).toNat = .ok 0x1122334455667788 u) ∧
      (∃ u, (sL1.releasedBy true).amoPlace p40 (sL1.rx 1) 8 .cas (sL1.rx 2).toNat (sL1.rx 3).toNat = .ok 0x1122334455667788 u)) ∧
    (sL1.amoAddr (sL1.rx 1) 16 6 .store = .ok p40 sL1 ∧ sL1.Free ([1] ++ pairRegs 2 ++ pairRegs 0) [] ∧
      ∃ old u, (sL1.releasedBy false).amoPlace p40 (sL1.rx 1) 16 .cas (pairOf sL1 2) (pairOf sL1 0) = .ok old u) ∧
    (sL1.amoAddr (sL1.rx 1) 8 4 .load = .ok p40 sL1 ∧ ∃ old u, (sL1.releasedBy false).lrPlace p40 (sL1.rx 1) 8 = .ok old u ∧
      u.me.resv ≠ none) ∧
    (∃ u, (sL1.releasedBy false).scPlace p40 (sL1.rx 1) 8 5 = .ok 1 u) ∧
    (p40.kind = .hbm ∧ dieOfHome p40.home = dieOf sL1.cur ∧ sL1.me.l1At (l1Key (lineNo p40.addr) p40.home) = some line40 ∧
      line40.st = .owned ∧ line40.poison = false) ∧
    (Safety.MemOk sL1 ∧ pV.addr % 64 + 8 ≤ 64) ∧ sL1.me.unanswered (l1Key (lineNo p40.addr) p40.home) ∧
    sL1.fits (dieOf sL1.cur) (max sL1.me.pts (line40.rts + 1)) = true ∧
    ({ sL1.me with resv := some { vault := false, key := l1Key 1 p40.home } } : Hart).resv
      = some { vault := false, key := l1Key (lineNo p40.addr) p40.home } :=
  ⟨free_sSb, rfl, by decide, ⟨free_sL1, rfl, rfl, rfl, ⟨_, rfl⟩, _, rfl⟩, ⟨rfl, free_sL1, _, _, rfl⟩, ⟨rfl, _, _, rfl, by decide⟩,
    ⟨_, rfl⟩, ⟨rfl, by decide +kernel, by decide +kernel, rfl, rfl⟩, ⟨rfl, by decide⟩, by (intro p h; cases h), by decide +kernel, by decide +kernel⟩

/-- A hart in S-mode that has posted nothing to the host, and one that waits for an acknowledgement. -/
theorem witness_Fences :
    (sL1.Free [] [] ∧ sL1.me.sb = [] ∧ sL1.unperformed = false) ∧ ((sSb 1).Free [] [] ∧ (sSb 1).me.sb ≠ []) ∧
    (scopeCode .die < 4) ∧ (sL1.Free [3] [] ∧ sL1.me.unacked = 0 ∧ sL1.me.postedPorts = [] ∧ sL1.hostReqs = []) ∧
    ((st { hx .u [] with unacked := 1 }).me.unacked ≠ 0) ∧
    ((st (hx .s [(2, 7)])).Free [1, 2] [] ∧ (st (hx .s [(2, 7)])).me.mode ≠ .u ∧
      (st (hx .s [(2, 7)])).me.priv.mstatus.getLsbD 20 = false ∧
      (st (hx .s [(2, 7)])).allTransfers = [] ∧ fenceAsid (st (hx .s [(2, 7)])) 2 = some 7) ∧
    (st (hx .m [])).Free [0, 0] [] ∧ (st { hx .m [] with priv := { mstatus := 0x100000 } }).me.mode = .m ∧
    ({ sBusy with harts := [(0, hx .m [])] } : State).allTransfers.any (sBusy.holdsPage · none none) = true ∧
    ((st (hx .u [])).Free [1, 2] [] ∧ (st (hx .u [])).me.mode = .u) :=
  ⟨⟨free_sL1, rfl, rfl⟩, ⟨free_sSb, by decide⟩, by decide, ⟨free_sL1, rfl, rfl, rfl⟩, by decide,
    ⟨free_st, by decide, rfl, rfl, rfl⟩, free_st, rfl, by decide +kernel, free_st, rfl⟩

/-- A hart with a pending interrupt, one without, in each mode. -/
theorem witness_WaitAndReturns :
    ((st { hx .s [] with priv := { mip := 2 } }).Free [] [] ∧ (st { hx .s [] with priv := { mip := 2 } }).me.mode ≠ .u ∧
      (st { hx .s [] with priv := { mip := 2 } }).me.pending ≠ 0) ∧
    ((st (hx .s [])).Free [] [] ∧ (st (hx .s [])).me.pending = 0 ∧ (st (hx .s [])).me.mode ≠ .u) ∧
    ((st (hx .m [])).Free [] [] ∧ (st (hx .m [])).me.mode = .m) ∧
    ((st (hx .u [])).Free [] [] ∧ (st (hx .u [])).me.mode = .u ∧ (st (hx .u [])).me.mode ≠ .m) :=
  ⟨⟨plain_st _ _ rfl rfl rfl rfl rfl rfl _ _, by decide, by decide⟩, ⟨free_st, rfl, by decide⟩, ⟨free_st, rfl⟩, free_st, rfl, by decide⟩

/-! ## CSRs, traps, barriers, messages, the clock -/

theorem witness_CsrAccess :
    (st (hx .u [(1, 3)])).Free (2 :: (CsrSrc.reg 1).regs) [] ∧
    (st (hx .u [])).me.csrReadable 0x300 = false ∧ (csrWrites .rw (.reg 1) = true ∧ csrReadOnly 0xc00 = true) ∧
    ((st (hx .m [])).me.csrReadable 0x300 = true ∧ csrWrites .rs (.reg 0) = false) ∧
    (csrWrites .rs (.reg 1) = true ∧ csrReadOnly 0x300 = false ∧ (0x300#12 ≠ 0x5C5 ∧ 0x300#12 ≠ 0xB00 ∧ 0x300#12 ≠ 0xB02)) :=
  ⟨free_st, by decide, by decide, by decide, by decide⟩

def tf1 : TfRec := { cause := 13, asid := 5, hart := 0, hslot := 0, copy := 0, tkind := 0, treg := 1, va := 0, transfer := 9 }
def sTf : State := st { hx .s [(1, 1)] with tfq := [tf1] }
theorem free_sTf {xs vs : List Reg} : sTf.Free xs vs := plain_st _ _ rfl rfl rfl rfl rfl rfl _ _

theorem witness_DeviceCsrWrites :
    ((st (hx .s [(1, 255), (2, 256), (3, 4096), (4, 4097)])).Free (5 :: (CsrSrc.reg 1).regs) [] ∧
      (st (hx .s [])).me.mode ≠ .u ∧
      ((st (hx .s [(1, 255), (2, 256), (3, 4096), (4, 4097)])).csrSrc (.reg 1)).toNat < 256 ∧
      256 ≤ ((st (hx .s [(1, 255), (2, 256), (3, 4096), (4, 4097)])).csrSrc (.reg 2)).toNat ∧
      ((st (hx .s [(1, 255), (2, 256), (3, 4096), (4, 4097)])).csrSrc (.reg 3)).toNat ≤ 4096 ∧
      4096 < ((st (hx .s [(1, 255), (2, 256), (3, 4096), (4, 4097)])).csrSrc (.reg 4)).toNat) ∧
    ((st (hx .u [])).Free (5 :: (CsrSrc.reg 1).regs) [] ∧ (st (hx .u [])).me.mode = .u) ∧
    (sTf.Free (5 :: (CsrSrc.reg 1).regs) [] ∧ sTf.me.mode ≠ .u ∧ sTf.me.tfq = tf1 :: [] ∧ (sTf.csrSrc (.reg 1)).getLsbD 0 = true ∧
      (sTf.csrSrc (.reg 2)).getLsbD 0 = false) ∧
    (st (hx .s [])).me.tfq = [] :=
  ⟨⟨free_st, by decide, by decide, by decide, by decide, by decide⟩, ⟨free_st, rfl⟩, ⟨free_sTf, by decide, rfl, by decide, by decide⟩,
    rfl⟩

theorem witness_TakingAnException :
    ((st (hx .u [])).me.mode ≠ .m ∧ (st (hx .u [])).me.priv.medeleg.getLsbD 24 = true) ∧
    ((st (hx .u [])).me.priv.medeleg.getLsbD 2 = false) ∧ (st (hx .m [])).me.mode = .m ∧ 31 < 64 :=
  ⟨⟨by decide, by decide⟩, by decide, rfl, by decide⟩

/-- Barrier objects at units 1 and 2 of the vault of quad 0: the first expects two arrivals, the second one; both initialised. -/
def barMem : List Host.Cell :=
  [(vaultAddr 0 64, 2), (vaultAddr 0 64 + 3, 0x80), (vaultAddr 0 128, 1), (vaultAddr 0 128 + 3, 0x80)]
def bb (unit phase : Nat) (arrived : Bool) : BBind := { bound := true, quad := 0, unit := unit, phase := phase, arrived := arrived }
def sBar (x : List (Nat × Word)) (b : BBind) (m : List Host.Cell) : State := st5 { h5 x with b := [(4, b)] } m
theorem free_sBar {x b m} {xs vs : List Reg} : (sBar x b m).Free xs vs := free_st5 rfl rfl rfl rfl

/-- A register with the address of unit 1, the config of two arrivals, and one that is not allowed. -/
def xBar : List (Nat × Word) := [(1, 0x7e0000000040), (2, 2), (3, 0x7e0000000041), (5, 0x7000), (6, 0x7e0000800000), (7, 0x7e0000000080)]

theorem witness_BarrierBinding :
    (sBar xBar {} barMem).Free [1, 2] [] ∧
    (((sBar xBar {} barMem).me.bind 4).arrived = false ∧ configOk (BitVec.toNat 2#16) = true ∧
      (sBar xBar {} barMem).rx 2 = zx (2 : BitVec 16) ∧ ((sBar xBar {} barMem).rx 1).toNat % 64 = 0 ∧
      (sBar xBar {} barMem).unitAt ((sBar xBar {} barMem).rx 1).toNat = some (0, 1, false) ∧
      (sBar xBar {} barMem).unitFault 0 1 .store = none) ∧
    (sBar xBar {} barMem).localQuiet = .ok () (sBar xBar {} barMem) ∧
    ((Barrier.ofLine ((sBar xBar {} barMem).unitLine 0 1)).init = true ∧
      natBits (Barrier.ofLine ((sBar xBar {} barMem).unitLine 0 1)).config 0 16 = (2#16).toNat ∧
      natBits (Barrier.ofLine ((sBar xBar {} barMem).unitLine 0 2)).config 0 16 ≠ (2#16).toNat ∧
      (Barrier.ofLine ((sBar xBar {} barMem).unitLine 0 3)).init = false) ∧
    ((sBar xBar (bb 1 0 true) barMem).me.bind 4).arrived = true ∧ configOk ((sBar xBar {} barMem).rx 5).toNat = false ∧
    ((sBar xBar {} barMem).rx 3).toNat % 64 ≠ 0 ∧ (sBar xBar {} barMem).unitAt ((sBar xBar {} barMem).rx 6).toNat = none :=
  ⟨free_sBar, by decide +kernel, rfl, by decide +kernel, by decide +kernel, by decide +kernel, by decide +kernel, by decide +kernel⟩

/-- A phase that has passed, with and without a failure; one that two have passed. -/
def passed (fail : Byte) : List Host.Cell :=
  [(vaultAddr 0 64, 2), (vaultAddr 0 64 + 3, 0x80), (vaultAddr 0 64 + 8, 2), (vaultAddr 0 64 + 0x38, fail)]

theorem witness_BarrierUpdates :
    ((sBar xBar {} barMem).Free [1] [] ∧ ((sBar xBar {} barMem).me.bind 4).bound = false) ∧
    ((sBar xBar (bb 1 0 false) barMem).me.bind 4 = bb 1 0 false ∧ (sBar xBar (bb 1 0 false) barMem).unitFault 0 1 .store = none ∧
      (Barrier.ofLine ((sBar xBar (bb 1 0 false) barMem).unitLine 0 1)).init = true ∧
      (Barrier.ofLine ((sBar xBar (bb 1 0 false) barMem).unitLine 0 1)).arrived
        < (Barrier.ofLine ((sBar xBar (bb 1 0 false) barMem).unitLine 0 1)).exp ∧
      (Barrier.ofLine ((sBar xBar (bb 3 0 false) barMem).unitLine 0 3)).init = false) ∧
    (sBar xBar (bb 1 0 false) barMem).releasePackage = .ok () (sBar xBar (bb 1 0 false) barMem) ∧
    (((sBar xBar {} barMem).rx 2).toNat < 2 ^ 32 ∧ 2 ^ 32 ≤ ((sBar xBar {} barMem).rx 1).toNat) ∧
    ((Barrier.ofLine ((sBar xBar (bb 1 0 true) barMem).unitLine 0 1)).phase ≤ (bb 1 0 true).phase ∧
      (sBar xBar (bb 1 0 true) barMem).unitFault 0 1 .load = none) ∧
    ((Barrier.ofLine ((sBar xBar (bb 1 1 true) (passed 0)).unitLine 0 1)).phase = (bb 1 1 true).phase + 1 ∧
      (Barrier.ofLine ((sBar xBar (bb 1 1 true) (passed 0)).unitLine 0 1)).failed = false ∧
      (Barrier.ofLine ((sBar xBar (bb 1 1 true) (passed 0)).unitLine 0 1)).expected = 0 ∧
      (Barrier.ofLine ((sBar xBar (bb 1 1 true) (passed 2)).unitLine 0 1)).failed = true ∧ (bb 1 1 true).fseen = false) ∧
    ((bb 1 0 true).phase + 1 < (Barrier.ofLine ((sBar xBar (bb 1 0 true) (passed 0)).unitLine 0 1)).phase) ∧
    (Safety.MemOk (sBar xBar (bb 2 0 false) barMem) ∧
      (Barrier.ofLine ((sBar xBar (bb 2 0 false) barMem).unitLine 0 2)).init = true ∧
      (Barrier.ofLine ((sBar xBar (bb 2 0 false) barMem).unitLine 0 2)).arrived + 1
        = (Barrier.ofLine ((sBar xBar (bb 2 0 false) barMem).unitLine 0 2)).exp ∧
      (Barrier.ofLine ((sBar xBar (bb 2 0 false) barMem).unitLine 0 2)).expected = 0 ∧
      (Barrier.ofLine ((sBar xBar (bb 2 0 false) barMem).unitLine 0 2)).failing = false ∧
      max ((sBar xBar (bb 2 0 false) barMem).quad 0).vclk (sBar xBar (bb 2 0 false) barMem).me.pts + 1 < 2 ^ 64 ∧
      (Barrier.ofLine ((sBar xBar (bb 2 0 false) barMem).unitLine 0 2)).combined ((sBar xBar (bb 2 0 false) barMem).rx 1).toNat < 2 ^ 64) ∧
    (sBar xBar (bb 1 0 true) barMem).localQuiet = .ok () (sBar xBar (bb 1 0 true) barMem) ∧
    ∃ u, (st { hx .u [] with sb := [{ sb1 with place := pV }] }).localQuiet = .stall u :=
  ⟨⟨free_sBar, rfl⟩, by decide +kernel, rfl, by decide +kernel, by decide +kernel, by decide +kernel, by decide +kernel,
    by unfold Safety.MemOk; decide +kernel, rfl, _, rfl⟩

def mail1 : Mail := { hdr := 0x1003, p0 := 1, p1 := 2, time := 9 }
def sMail (x : List (Nat × Word)) (n : Nat) : State := st { hx .m x with mail := List.replicate n mail1 }
theorem free_sMail {x n} {xs vs : List Reg} : (sMail x n).Free xs vs := plain_st _ _ rfl rfl rfl rfl rfl rfl _ _

/-- A line held shared, and a watch that has been answered. -/
def sSh : State := st { hx .m [(1, 0x40)] with l1 := [(l1Key 1 p40.home, { line40 with st := .shared })] }
def pendW : Pend := { kind := .watch, key := 0, done := true, time := some 4 }

theorem witness_MessagesAndClock :
    ((sMail [(1, 0)] 1).Free [3, 1, 2] [] ∧ (sMail [(1, 0)] 1).me.task = none) ∧
    ((sMail [(1, 0)] 1).releasePackage = .ok () (sMail [(1, 0)] 1)) ∧
    ((st5 (h5 []) []).me.task ≠ none ∧ (2 ^ 12 ≤ ((st5 (h5 [(1, 4096)]) []).rx 1).toNat) ∧
      ((st5 (h5 []) []).rx 1).toNat < 2 ^ 12 ∧ ((st5 (h5 []) []).rx 1).toNat / 4 % 256 < 160 ∧
      (st5 (h5 []) []).quadPresent (quadOf ((st5 (h5 []) []).rx 1).toNat) = true ∧
      { st5 (h5 []) [] with grade := .ubk2304 }.quadPresent (quadOf 576) = false ∧
      (st5 (h5 []) []).contextOn ((st5 (h5 []) []).asidOf 0) (quadOf ((st5 (h5 []) []).rx 1).toNat) = some 1 ∧
      (st5 (h5 []) []).mailCount 1 0 < 12 ∧ 12 ≤ (st5 { h5 [] with mail := List.replicate 12 mail1 } []).mailCount 1 0) ∧
    (((sMail [(1, 0x20)] 0).rx 1).toNat % 32 = 0 ∧ ((sMail [(1, 0x21)] 0).rx 1).toNat % 32 ≠ 0 ∧ (sMail [(1, 0x20)] 0).me.mail = [] ∧
      (sMail [(1, 0x40)] 2).me.mail = mail1 :: [mail1]) ∧
    ((sMail [(1, 0x40)] 2).resolve .store 0x40 = .ok p40 (sMail [(1, 0x40)] 2) ∧
      okV ((sMail [(1, 0x40)] 2).storeWords 0x40 (bytesOf 32 mail1.number)) = some ()) ∧
    (sSh.resolve .load (sSh.ea 1 0#24).toNat = .ok p40 sSh ∧
      sSh.me.l1At (l1Key (lineNo p40.addr) p40.home) = some { line40 with st := .shared }) ∧
    (∃ c v, (sMail [(1, 0x1000000000000)] 0).resolve .load 0x1000000000000 = .trap c v (sMail [(1, 0x1000000000000)] 0)) ∧
    (sL1.Free [3, 1] [] ∧ sL1.excluded (sL1.ea 1 0#24).toNat 8 = false ∧ (sL1.ea 1 0#24).toNat % 8 = 0 ∧ (sL1.ea 1 1#24).toNat % 8 ≠ 0 ∧
      sL1.resolve .load (sL1.ea 1 0#24).toNat = .ok p40 sL1 ∧ sL1.me.forward p40.addr 8 = none ∧
      okV (sL1.giveUpRenewal.loadPlace p40 (sL1.ea 1 0#24) 8) = some 0x1122334455667788) ∧
    (∃ p, (st5 (h5 xBar) []).resolve .load 0x7e0000000040 = .ok p (st5 (h5 xBar) []) ∧ p.kind = .vault ∧
      (st5 (h5 xBar) []).deadRoute (dieOf 0) (dieOfQuad p.home) = none ∧ (st5 (h5 xBar) []).me.ld = none ∧
      ((st5 (h5 xBar) []).quad p.home).watches.length < 16 ∧ (st5 (h5 xBar) []).poisoned p.addr = false ∧
      (st5 (h5 xBar) []).vaultPosted 0 p.addr 8 = false) ∧
    ((st5 { h5 xBar with ld := some pendW } []).me.ld = some pendW ∧ pendW.kind = .watch ∧ pendW.done = true ∧ pendW.time = some 4) :=
  ⟨⟨free_sMail, rfl⟩, rfl, by decide +kernel, by decide +kernel, ⟨rfl, by decide +kernel⟩, ⟨rfl, by decide +kernel⟩, ⟨_, _, rfl⟩,
    ⟨free_sL1, rfl, by decide, by decide, rfl, rfl, by decide +kernel⟩, ⟨_, rfl, rfl, rfl, rfl, by decide, rfl, rfl⟩, rfl, rfl, rfl, rfl⟩

/-! ## Tasks -/

theorem witness_TaskValues :
    ((st (hx .u [])).Free [1] [] ∧ (st (hx .u [])).me.task = none) ∧
    ((st5 (h5 []) []).Free [1] [] ∧ (st5 (h5 []) []).me.task = some 3 ∧ (st5 (h5 []) []).task 3 = some (task5 0x1000000040 4)) :=
  ⟨⟨free_st, rfl⟩, free_st5 rfl rfl rfl rfl, rfl, rfl⟩

/-- The state with 65,536 tasks on die 0. -/
def sFull : State := { st5 (h5 []) [] with disp := { disp5 with tasks := List.replicate 65536 (3, task5 0x1000000040 4) } }

theorem full_die (n : Nat) :
    ((List.replicate n (3, task5 0x1000000040 4)).filter (fun t : Nat × Task => t.2.die == 0)).length = n := by
  induction n with
  | zero => rfl
  | succ n ih => rw [List.replicate_succ, List.filter_cons_of_pos (by rfl), List.length_cons, ih]

/-- The 128 bytes of the task control block at 2^36. -/
def tcbBytes : List Byte := (List.range 128).map (fun i => if i = 3 then 0x10 else if i = 0x28 then 1 else 0)

theorem witness_Spawning :
    ((st (hx .u [])).Free [1, 2] [] ∧ (st (hx .u [])).me.task = none ∧ (st (hx .u [])).releasePackage = .ok () (st (hx .u []))) ∧
    ((st5 (h5 []) []).Free [1, 2] [] ∧ (st5 (h5 []) []).releasePackage = .ok () (st5 (h5 []) []) ∧ (st5 (h5 []) []).me.task = some 3 ∧
      (st5 (h5 []) []).me.ctx = some 1 ∧ (st5 (h5 []) []).task 3 = some (task5 0x1000000040 4)) ∧
    (0x1000000001 % 64 ≠ 0 ∧ (st5 (h5 []) []).tcbPlace 5 .store 0 = none) ∧
    (0x1000000000 % 64 = 0 ∧ (st5 (h5 []) []).tcbPlace 5 .store 0x1000000000 ≠ none ∧
      (st5 (h5 []) []).tcbPlace 5 .store 0x1000000040 ≠ none ∧
      ((st5 (h5 []) []).readTcb 5 0x1000000000 0).map (fun r => decide (r.1 = tcbBytes ∧ r.2.2.tcbCheck 5 0x1000000000 r.1 = 0 ∧
        (r.2.2.disp.tasks.filter (fun t => t.2.die == 0)).length < 65536 ∧ bytesAt r.1 0x18 2 = 0)) = some true ∧
      ((st5 (h5 []) []).readTcb 5 0x1000000080 0).map (fun r => r.2.2.tcbCheck 5 0x1000000080 r.1) = some 4) :=
  ⟨⟨free_st, rfl, rfl⟩, ⟨free_st5 rfl rfl rfl rfl, rfl, rfl, rfl, rfl⟩, by decide +kernel, by decide +kernel⟩

/-- With the die full, what the submission reads passes its checks too. -/
theorem witness_Spawning_full : (sFull.disp.tasks.filter (fun t => t.2.die == 0)).length = 65536 := full_die 65536

/-- A task whose register 6 holds the failure of a transfer. -/
def sFail : State := st5 { h5 [] with tokens := [(6, { unjoined := true, fpend := true, status := 6 })] } []

/-- A task whose result word is stored already. -/
def sResult : State := st5 { h5 [(1, 7)] with partials := [(2 ^ 81, 0)] } []

theorem witness_TaskEnd :
    ((st (hx .u [])).Free [] [] ∧ (st (hx .u [])).me.task = none) ∧
    (sBusy.me.task = some 3 ∧ sBusy.me.mode = .u ∧ sBusy.agentsDone 3 = false) ∧
    ((st5 (h5 []) []).me.mode = .u ∧ ∃ u v, (st5 (h5 []) []).joinAgents 3 = .ok () u ∧ u.releaseSystem = .ok () v ∧
      u.me.dev.dmrLevel = 0) ∧
    (∃ u w v, sResult.joinAgents 3 = .ok () u ∧
      u.once (2 ^ 81) (fun u => (u.store (BitVec.ofNat 64 ((task5 0x1000000040 4).addr + 0x60)) 8 (u.rx 1).toNat).andThen fun _ x =>
        .ok 0 x) = .ok 0 w ∧ w.releaseSystem = .ok () v) ∧
    ({ dev := { dmrLevel := 1, dmrRank := 1 } } : Hart).dev.dmrRank ≠ 0 ∧
    (sFail.me.task = some 3 ∧ sFail.me.mode = .u ∧ sFail.agentsDone 3 = true ∧
      (List.range 32).find? (fun n => (sFail.me.token n).fpend) = some 6) ∧
    ((st5 (h5 []) []).task 3 = some (task5 0x1000000040 4) ∧
      (task5 0x1000000040 4).members = [{ hart := 0, ctx := 1, slot := 0, rank := 0 }] ∧ (st5 (h5 []) []).cur = 0) :=
  ⟨⟨free_st, rfl⟩, by decide +kernel, ⟨rfl, _, _, rfl, rfl, rfl⟩, ⟨_, _, _, rfl, rfl, rfl⟩, by decide, by decide +kernel, rfl, rfl, rfl⟩

/-- Tasks of address space 0 as a supervisor names them: not dispatched, suspended, and ending. -/
def sSup (t : Task) : State := { st (hx .m [(1, 0x40), (2, 0x48)]) with disp := { tasks := [(3, t)] } }
theorem free_sSup {t} {xs vs : List Reg} : (sSup t).Free xs vs := plain_st _ _ rfl rfl rfl rfl rfl rfl _ _

theorem witness_TaskCancel :
    ((sSup (task5 0x40 1)).Free [3, 1] [] ∧ (sSup (task5 0x40 1)).me.task = none ∧
      (sSup (task5 0x40 1)).loadFaults ((sSup (task5 0x40 1)).rx 1) = .ok () (sSup (task5 0x40 1))) ∧
    ((sSup { task5 0x40 1 with asid := 0 }).heldTask 0 0x40 = some (3, { task5 0x40 1 with asid := 0 }) ∧
      (task5 0x40 1).ending = none ∧ (task5 0x40 1).state = 1) ∧
    ((sSup { task5 0x40 5 with asid := 0 }).heldTask 0 0x40 = some (3, { task5 0x40 5 with asid := 0 }) ∧ (task5 0x40 5).state = 5) ∧
    (({ task5 0x40 4 with ending := some 8 } : Task).ending ≠ none) ∧
    ((st5 (h5 [(1, 0x1000000040)]) []).task 3).map (·.addr) = some ((st5 (h5 [(1, 0x1000000040)]) []).rx 1).toNat ∧
    (st5 (h5 [(1, 0x1000000040)]) []).agentsDone 3 = true ∧ (okV (st5 (h5 [(1, 0x1000000040)]) []).releaseSystem) = some () ∧
    okV ((st5 (h5 [(1, 0x1000000040)]) []).loadFaults 0x1000000040) = some () ∧
    ((sSup (task5 0x40 1)).heldTask 0 0x40 = none ∧ (sSup (task5 0x40 1)).tcbPlace 0 .load (0x40 + 0x58) = none) :=
  ⟨⟨free_sSup, rfl, rfl⟩, ⟨rfl, rfl, rfl⟩, ⟨rfl, rfl⟩, by decide, by decide +kernel, by decide +kernel, by decide +kernel, by decide +kernel,
    by decide +kernel⟩

def bits (n : Nat) (x : List (Nat × Word)) (disp : Disp) : State := { st (hx (if n = 0 then .u else if n = 1 then .s else .m) x) with
    disp := disp, frames := [(0, { supw := true })] }
theorem free_bits {n x d} {xs vs : List Reg} : (bits n x d).Free xs vs := plain_st _ _ rfl rfl rfl rfl rfl rfl _ _
def d6 : Disp := { contexts := [(7, { asid := 5, image := 0x50000000, quad := 0 }), (8, { asid := 5, image := 0, quad := 1, release := some {} })] }

theorem witness_ContextInstructions :
    ((st (hx .s [])).Free [] [] ∧ (st (hx .s [])).me.mode ≠ .u ∧ (st (hx .u [])).me.mode = .u ∧ (st (hx .u [])).me.task = none) ∧
    ((sStage []).me.task = some 3 ∧ (sStage []).task 3 = some taskSt ∧ (sStage []).pendingMove 0 = none ∧
      ((sStage []).stageOf taskSt).bind ((sStage []).stageRing 5) = none) ∧
    ((((sStage (ring1 0 0)).stageOf taskSt).bind ((sStage (ring1 0 0)).stageRing 5)).map (fun r => (r.published, r.eos))
        = some (0, false) ∧
      (((sStage (ring1 0 1)).stageOf taskSt).bind ((sStage (ring1 0 1)).stageRing 5)).map (fun r => (r.published, r.eos))
        = some (1, false) ∧
      (((sStage (ring1 1 0)).stageOf taskSt).bind ((sStage (ring1 1 0)).stageRing 5)).map (fun r => (r.published, r.eos))
        = some (0, true)) ∧
    ((bits 1 [] d6).Free [1, 2, 3] [] ∧ (bits 0 [] d6).me.mode = .u ∧ (bits 1 [] d6).me.mode ≠ .m ∧ (bits 1 [] d6).context 0 = none) ∧
    ((bits 1 [(1, 7), (2, 3)] d6).context 7 = some { asid := 5, image := 0x50000000, quad := 0 } ∧
      ({ asid := 5, image := 0x50000000, quad := 0 } : Context).live = true ∧ 2 < ((bits 1 [(1, 7), (2, 3)] d6).rx 2).toNat ∧
      ((bits 1 [(2, 2)] d6).rx 2).toNat = 2 ∧ (bits 1 [] d6).tasksOn 7 = [] ∧ Store.find? (bits 1 [] d6).me.partials (2 ^ 83) = none) ∧
    ((bits 1 [(2, 2 ^ 60)] d6).superBytes ((bits 1 [(2, 2 ^ 60)] d6).rx 2).toNat 80 = none ∧
      ((bits 1 [(2, 2 ^ 60)] d6).rx 2).toNat % 8 = 0 ∧ natBits ((bits 1 [(1, 0x1000)] d6).rx 1).toNat 12 4 ≠ 0 ∧
      natBits ((bits 1 [] d6).rx 1).toNat 12 4 = 0 ∧ ((bits 1 [] d6).rx 1).toNat / 2 ^ 32 = 0 ∧ Store.find? d6.mcast 0 = none ∧
      (bits 1 [] d6).groupBusy 0 = false ∧
      (∀ q, q < 640 → (BitVec.ofNat 640 1).getLsbD q = true → (bits 1 [] d6).quadPresent q = true ∧
        ((bits 1 [] d6).liveContexts 5).any (fun c => c.2.quad == q) = true) ∧
      ({ bits 1 [] d6 with quads := [(0, { transfers := [{ xfer .moving with mc := some 4 }] })] } : State).groupBusy 4 = true) ∧
    ((bits 2 [(2, 1)] d6).me.mode = .m ∧ ((bits 2 [(2, 1)] d6).rx 2).toNat % 8 ≠ 0 ∧ (bits 2 [] d6).rtu.auditFull = false ∧
      ({ seq := 4095, segments := [{ idx := 1, final := 0 }] } : Rtu).auditFull = true ∧
      ∃ p, (bits 2 [] d6).physPlace { mode := .m, asid := 0, bare := true, root := 0 } .load ((bits 2 [] d6).rx 2).toNat = .ok p ∧
        p.kind = .hbm ∧ (bits 2 [] d6).rangePoisoned ((bits 2 [] d6).rx 2).toNat 24 = false) ∧
    (∃ x, (bits 1 [(1, 8)] d6).context ((bits 1 [(1, 8)] d6).rx 1).toNat = some x ∧ x.live = false ∧ x.release ≠ none) ∧
    ((st (hx .u [])).me.dev.trcfg.getLsbD 0 = false ∧ fld (0x401#64) 10 2 = 1 ∧ fld (0xc01#64) 10 2 = 3 ∧ fld (0#64) 10 2 ≠ 1) ∧
    (({ dev := { trcfg := 1 } } : Hart).dev.trcfg.getLsbD 0 = true ∧ ({ dev := { trcfg := 1 } } : Hart).dev.trcfg.getLsbD 8 = false ∧
      (fld ({ dev := { trcfg := 1 } } : Hart).dev.trcfg 23 9).toNat = 0) :=
  ⟨⟨free_st, by decide, rfl, rfl⟩, by decide +kernel, by decide +kernel, ⟨free_bits, by decide +kernel⟩, by decide +kernel,
    by decide +kernel, ⟨rfl, by decide +kernel, rfl, rfl, _, rfl, rfl, rfl⟩, ⟨_, rfl, rfl, by decide⟩, by decide +kernel, by decide +kernel⟩

/-- With an empty mask at an address that can be read, the bytes of the mask are 0. -/
theorem witness_ContextInstructions_mask :
    (bits 1 [] d6).superBytes ((bits 1 [] d6).rx 2).toNat 80 = some (List.replicate 80 0) ∧
    BitVec.ofNat 640 (ofBytes (List.replicate 80 0)) = 0 := by decide +kernel

/-! ## Regions, handles, transfers, rings -/

/-- Coordinates at the edges of boxes that overlap, one beyond a bound that is clamped. -/
theorem witness_RegionResult :
    ((∀ b ∈ [[(0, 4)], [(3, 9)], [(20, 2 ^ 40)]], b.length = [((1, 0) : Nat × Nat)].length) ∧
      [(3 : Int)].length = [((1, 0) : Nat × Nat)].length ∧ onLattice [(1, 1)] [3] = true) ∧
    (8 < (canon ((List.range 9).map (fun i => [((4 * i : Nat), (4 * i + 1 : Nat))])) [(0, 0)]).length) := by decide +kernel

/-- Register 1 a region of one dimension, 2 of two, 3 INEXACT, 4 on a lattice of step 2, 5 on its other class; handle 1 of one
dimension, handle 2 with none. -/
def sReg : State :=
  stR (hx .m [(1, 1), (2, 4), (3, 8)])
    [(1, box1 0 16), (2, { d := 2, boxes := [[(0, 2), (0, 2)]], lat := [(0, 0), (0, 0)] }), (3, { box1 0 16 with inexact := true }),
      (4, { box1 0 16 with lat := [(1, 0)] }), (5, { box1 0 16 with lat := [(1, 1)] }), (6, { d := 4, lat := List.replicate 4 (0, 0) })]
    [(1, hand 0x1000 0 1 16 0 1 0), (2, 0)]
theorem free_sReg {xs vs : List Reg} : sReg.Free xs vs := plain_st _ _ rfl rfl rfl rfl rfl rfl _ _
theorem res_sReg {cs : List Nat} : sReg.Resident cs := fun _ _ => rfl

theorem witness_RegionAlgebra :
    ((2 : Reg) ≠ 1 ∧ sReg.resident (codeG 2) = true) ∧ (sReg.Free [] [] ∧ sReg.Resident [codeH 1]) ∧
    ((Handle.ofLine (sReg.hget 2)).count = none ∧ (Handle.ofLine (sReg.hget 1)).count = some 1) ∧
    (sReg.Free [1, 2] [] ∧ sReg.Resident [codeG 1, codeG 2]) ∧
    ((Handle.ofLine (sReg.hget 1)).count = some (sReg.gget 1).d ∧ (Handle.ofLine (sReg.hget 1)).count ≠ some (sReg.gget 2).d) ∧
    ((sReg.gget 1).d = (sReg.gget 3).d ∧ (sReg.gget 1).lat = (sReg.gget 3).lat ∧ (sReg.gget 3).inexact = true ∧
      (sReg.gget 1).inexact = false) ∧
    ((sReg.gget 1).d ≠ (sReg.gget 2).d ∧ (sReg.gget 1).lat ≠ (sReg.gget 4).lat) ∧
    (combineAll (sReg.gget 1).lat (sReg.gget 4).lat = some [(1, 0)] ∧ combineAll (sReg.gget 4).lat (sReg.gget 5).lat = none) :=
  ⟨⟨by decide, rfl⟩, ⟨free_sReg, res_sReg⟩, by decide +kernel, ⟨free_sReg, res_sReg⟩, by decide +kernel, by decide +kernel,
    by decide +kernel, by decide +kernel⟩

/-- Masks, dimensions and steps at the ends of their ranges. -/
theorem witness_RegionReshaping :
    (sReg.Free [2] [] ∧ sReg.Resident [codeG 1]) ∧ ((sReg.gget 1).dense = true ∧ (sReg.gget 4).dense = false) ∧
    ((sReg.rx 4).toNat = 0 ∧ 2 ^ (sReg.gget 2).d ≤ (sReg.rx 2).toNat ∧ (sReg.rx 1).toNat ≠ 0 ∧ (sReg.rx 1).toNat < 2 ^ (sReg.gget 2).d) ∧
    ((3#24).toNat ≠ 0 ∧ (3#24).toNat < 2 ^ (sReg.gget 2).d) ∧ (3 < (sReg.gget 6).d ∧ (sReg.gget 2).d ≤ 3) ∧
    (natBits (2#24).toNat 0 2 ≤ (sReg.gget 2).d) ∧
    (combineAll (sReg.gget 1).lat ((List.range 1).map (fun i => (natBits (field6 (1#24) i) 0 3, natBits (field6 (1#24) i) 3 3))) = some [(1, 0)] ∧
      (List.range 1).all (fun i => decide (natBits (field6 (1#24) i) 3 3 < 2 ^ natBits (field6 (1#24) i) 0 3)) = true) ∧
    ((List.range 1).all (fun i => natBits (field16 (1#64) i) 3 5 == 0 && !natBit (field16 (1#64) i) 15 &&
        decide (natBits (field16 (1#64) i) 8 7 < 2 ^ natBits (field16 (1#64) i) 0 3)) = true ∧
      combineAll (sReg.gget 4).lat ((List.range 1).map (fun i => (natBits (field16 (1#64) i) 0 3, natBits (field16 (1#64) i) 8 7))) = some [(1, 0)] ∧
      combineAll (sReg.gget 5).lat ((List.range 1).map (fun i => (natBits (field16 (1#64) i) 0 3, natBits (field16 (1#64) i) 8 7))) = none) ∧
    (natBits (sReg.rx 3).toNat 3 29 ≠ 0 ∧ (sReg.gget 1).d ≤ natBits (sReg.rx 1).toNat 0 2 ∧ natBits (sReg.rx 1).toNat 3 29 = 0 ∧
      natBits (sReg.rx 1).toNat 0 2 < (sReg.gget 2).d) ∧
    (natBits (0#24).toNat 0 2 < (sReg.gget 1).d) ∧ ((sReg.gget 7).boxes = [] ∧ (sReg.gget 1).boxes ≠ []) ∧
    ((sReg.gget 1).d ≠ (sReg.gget 2).d ∧ (sReg.gget 1).d = (sReg.gget 3).d) :=
  ⟨⟨free_sReg, res_sReg⟩, by decide +kernel⟩

/-- A region's image at the start of a vault block that the hart reaches, behind it an image with a reserved bit set. -/
def imgMem : List Host.Cell := cellsOf (vaultAddr 0 0) (box1 0 4).image ++ [(vaultAddr 0 0x200 + 2, 0xff)]
def xImg : List (Nat × Word) := [(1, 0x7e0000000000), (2, 0x7e0000000010), (3, 0x7e0000000200), (4, 0x7e0000000020)]
def sImg : State := { st5 (h5 xImg) imgMem with slotRegs := [(8, { g := [(1, box1 0 4)], h := [(1, 0)] })] }
theorem free_sImg {xs vs : List Reg} : sImg.Free xs vs := plain_st _ _ rfl rfl rfl rfl rfl rfl _ _

/-- The excluded bytes of `sEx`, at an address of RGLD. -/
theorem witness_RegionAndHandleMemory :
    ((sReg.Free [1, 2] [] ∧ sReg.Resident [codeH 1]) ∧ 7 < 8) ∧ (sImg.Free [1] [] ∧ sImg.Resident []) ∧
    (sEx.excluded (sEx.rx 1).toNat 288 = true ∧ sEx.excluded (sEx.rx 1).toNat 64 = true ∧ sEx.Free [1] [] ∧ sEx.Resident []) ∧
    (sImg.excluded (sImg.rx 1).toNat 288 = false ∧ (sImg.rx 1).toNat % 32 = 0 ∧ (sImg.rx 2).toNat % 32 ≠ 0 ∧ (sImg.rx 4).toNat % 64 ≠ 0 ∧
      (sImg.rx 1).toNat % 64 = 0) ∧
    (∃ vs u, sImg.loadList (wordPieces (sImg.rx 1).toNat 288) = .ok vs u) ∧
    (∃ vs u, sImg.loadList (wordPieces (sImg.rx 1).toNat 64) = .ok vs u) ∧
    (Region.ofImage (box1 0 4).image = some (box1 0 4) ∧ Region.ofImage ((0 :: 0 :: 0xff :: List.replicate 285 0)) = none) ∧
    (sImg.Resident [codeG 1] ∧ sImg.Resident [codeH 1]) ∧
    (∃ u, sImg.storeBytes (sImg.rx 1).toNat (sImg.gget 1).image = .ok () u) ∧
    okV (sImg.storeWords (sImg.rx 1).toNat (bytesOf 64 (sImg.hget 1).toNat)) = some () :=
  ⟨⟨⟨free_sReg, res_sReg⟩, by decide⟩, ⟨free_sImg, fun _ h => nomatch h⟩,
    ⟨by decide +kernel, by decide +kernel, free_sEx, fun _ h => nomatch h⟩, by decide +kernel, ⟨_, _, rfl⟩, ⟨_, _, rfl⟩,
    by decide +kernel, by unfold State.Resident; decide +kernel, ⟨_, rfl⟩, by decide +kernel⟩

/-! ## Transfers and rings -/

/-- Regions of one and of two dimensions and one that is INEXACT; handles: a destination, a source, one of a format that does not exist,
one in the supervisor's half. The windows of the task cover nothing. -/
def slotX : SlotRegs :=
  { g := [(1, box1 0 16), (2, { d := 2, boxes := [[(0, 2), (0, 2)]], lat := [(0, 0), (0, 0)] }), (3, { box1 0 16 with inexact := true }),
      (4, box1 0 8)],
    h := [(1, hand 0x1000001000 0 1 16 0 1 0), (2, hand 0x1000002000 0 1 16 0 1 0), (3, hand 0x1000001000 12 1 16 0 1 0),
      (4, hand 0x1000001000 0 1 16 0 1 0)] }
def sXfer (h : Hart) (ts : List Transfer) : State :=
  { st5 h [] with slotRegs := [(8, slotX)], quads := [(0, { transfers := ts, blocks := [(0, { asid := 5, kind := .data })] })] }
def sX0 : State := sXfer (h5 []) []
def sXw : State := sXfer { h5 [] with win := { rd := some [none], wr := some [none] } } []
def cp (d g b : Reg) : XSpec := .c32 .copy false d g b
theorem free_sXfer {h : Hart} {ts} (h1 : h.tokens = []) (h2 : h.xwait = []) (h3 : h.vwait = []) (h4 : h.lane.active = false)
    {xs vs : List Reg} : (sXfer h ts).Free xs vs := plain_st h _ rfl rfl h1 h2 h3 h4 xs vs

theorem witness_TransferIssue :
    (TransferForm (.copy 6 1 1) (cp 6 1 1) ∧ sX0.Free [6] [] ∧ sX0.Resident ((cp 6 1 1).issue sX0).codes ∧
      sX0.me.laneHolds [] ((cp 6 1 1).issue sX0).ts = false) ∧
    (TransferForm (.copy 0 1 1) (cp 0 1 1) ∧ (cp 0 1 1).kind ≠ .copyb ∧ (cp 0 1 1).d = 0) ∧
    ((cp 6 2 1).trap ((cp 6 2 1).build sX0) sX0 = some (30, handleMismatch 2 1)) ∧
    ((cp 6 1 1).trap ((cp 6 1 1).build sX0) sX0 = none ∧ (cp 6 1 1).status ((cp 6 1 1).build sX0) sX0 = none ∧
      (sX0.inFlight sX0.cur).length < 32) ∧ sX0.localQuiet = .ok () sX0 ∧
    (32 ≤ ((sXfer (h5 []) (List.replicate 32 (xfer .moving))).inFlight 0).length ∧
      (cp 6 1 1).trap ((cp 6 1 1).build (sXfer (h5 []) (List.replicate 32 (xfer .moving)))) (sXfer (h5 []) (List.replicate 32 (xfer .moving)))
        = none ∧
      (cp 6 1 1).status ((cp 6 1 1).build (sXfer (h5 []) (List.replicate 32 (xfer .moving)))) (sXfer (h5 []) (List.replicate 32 (xfer .moving)))
        = none) ∧
    ((cp 6 1 3).trap ((cp 6 1 3).build sX0) sX0 = none ∧ (cp 6 1 3).status ((cp 6 1 3).build sX0) sX0 = some xsBadHandle) :=
  ⟨⟨.copy _ _ _, free_sXfer rfl rfl rfl rfl, by unfold State.Resident; decide +kernel, rfl⟩, ⟨.copy _ _ _, by decide, rfl⟩,
    by decide +kernel, by decide +kernel, rfl, by decide +kernel, by decide +kernel⟩

/-- A copy whose destination has other dims; one whose source has; a COPYB and a subscription without a binding; FLUSHR; an INEXACT
region; bytes outside the windows; a handle that is not well formed. -/
theorem witness_TransferChecks :
    (((cp 6 2 1).build sX0).dst.handleOf = some (Handle.ofLine (slotX.h.map (·.2))[0]) ∧
      (Handle.ofLine (slotX.h.map (·.2))[0]).dims ≠ ((cp 6 2 1).build sX0).region.d) ∧
    ((({ cp 6 2 1 with dst := .none } : XSpec).build sX0).dst.handleOf = none ∧
      (({ cp 6 2 1 with dst := .none } : XSpec).build sX0).src.handleOf = some (Handle.ofLine (slotX.h.map (·.2))[1]) ∧
      (Handle.ofLine (slotX.h.map (·.2))[1]).dims ≠ (({ cp 6 2 1 with dst := .none } : XSpec).build sX0).region.d) ∧
    ((XSpec.c32 .copyb false 2 1 1).kind = .copyb ∧ ((XSpec.c32 .copyb false 2 1 1).build sX0).bar.bound = false) ∧
    (((XSpec.mk .ldsub 6 1 .none (.h 1) none false 0 none).build sX0).ring.bound = false ∧
      ((XSpec.mk .lddrn 6 1 (.h 1) .none none false 0 none).build sX0).ring.bound = false ∧
      (XSpec.mk .flushr 6 1 .none (.h 1) none false 0 none).kind = .flushr) ∧
    ((cp 6 3 1).kind ≠ .flushr ∧ ((cp 6 3 1).build sX0).region.inexact = true) ∧
    (((cp 6 1 1).build sXw).region.inexact = false ∧ sXw.outside ((cp 6 1 1).build sXw) = true ∧
      sX0.outside ((cp 6 1 1).build sX0) = false) ∧
    (((cp 6 1 3).build sX0).dst.wf = false) := by decide +kernel

/-- Tokens: in flight, completed and not joined; a subscription in flight and one done; a copy in flight that WAITG covers. -/
def tokH (t : Token) : Hart := { h5 [] with tokens := [(6, t)] }
def sub (phase : XPhase) : Transfer := { xfer phase with kind := .ldsub }
def sCov : State := sXfer (h5 []) [{ (cp 6 1 1).build sX0 with id := 9 }]

theorem witness_TransferTokens :
    ((cp 6 1 1).src = .h 2) ∧
    (((cp 6 1 1).build sX0).kind ≠ .copyb ∧ ((cp 6 1 1).build sX0).kind.indexed = false ∧ ((cp 6 1 1).build sX0).kind.stream = false ∧
      0 < ((cp 6 1 1).build sX0).reg ∧ ((cp 31 1 1).build sX0).reg < 32) ∧
    (Store.Rising sX0.me.x ∧ Store.Rising sX0.me.tokens) ∧
    (sX0.Free [6] [] ∧ sX0.Resident [codeG 1, codeH 1] ∧ (Handle.ofLine (sX0.hget 1)).dims ≠ (sX0.gget 2).d ∧
      (Handle.ofLine (sX0.hget 1)).dims = (sX0.gget 1).d ∧ sX0.covered (sX0.gget 1) (Handle.ofLine (sX0.hget 1)) = []) ∧
    (((sCov.covered (sCov.gget 1) (Handle.ofLine (sCov.hget 1))).any (fun t => t.phase != .done)) = true) ∧
    ((sXfer (tokH { pending := true }) []).me.token 6 = { pending := true } ∧
      (sXfer (tokH { unjoined := true }) []).me.xBusy 6 = false ∧ ((sXfer (tokH { unjoined := true }) []).me.token 6).unjoined = true ∧
      (sX0.me.token 6).unjoined = false ∧ (sXfer (tokH { pending := true }) []).me.xBusy 6 = true) ∧
    (overHandle (sX0.gget 2) (Handle.ofLine (sX0.hget 1)) = false) ∧
    (sX0.transfer (sX0.me.token 6).transfer = none ∧
      (sXfer (tokH { pending := true, transfer := 9 }) [sub .moving]).transfer 9 = some (sub .moving) ∧
      (sub .moving).kind.stream = true ∧ (sXfer (tokH { pending := true, transfer := 9 }) [sub .moving]).issuedHere (sub .moving) = true ∧ (sub .done).phase = .done ∧ (xfer .moving).kind.stream = false) :=
  ⟨rfl, by decide +kernel, ⟨List.Pairwise.nil, List.Pairwise.nil⟩, ⟨free_sXfer rfl rfl rfl rfl, by unfold State.Resident; decide +kernel, by decide +kernel⟩,
    by decide +kernel, by decide +kernel, by decide +kernel, by decide +kernel⟩

/-- A ring of two slots of 64 bytes at unit 1, with ACQ, TAKE, the published slots and the flags. -/
def ringMem (acq take pub flags : Byte) : List Host.Cell :=
  cellsOf (vaultAddr 0 64) [2, 0, 0, 0x80, flags, 0, 0, 0, acq, 0, 0, 0, take, 0, 0, 0, 0, 0, 0, 0, 0, 0, 0, 0, pub]
def qb (role : Nat) : QBind := { bound := true, role := role, quad := 0, unit := 1, config := 2 }
def xRing : List (Nat × Word) :=
  [(1, 0x7e00000000c0), (2, 64), (3, 65), (5, 0x7e0000000080), (6, 0x200000002), (7, 0x300000002), (8, 0x7e0000000040), (9, 1),
    (10, 3), (11, 0x7e0000000200)]
def sQ (role : Nat) (m : List Host.Cell) : State := st5 { h5 xRing with q := [(4, qb role)] } m
theorem free_sQ {r m} {xs vs : List Reg} : (sQ r m).Free xs vs := free_st5 rfl rfl rfl rfl

theorem ring_reachable (u : Nat) (acc : Access)
    (h : u = (qb 2).unit ∨ (∃ k, k < (qb 2).at_.count ∧ u = slotUnit (qb 2).at_ k)) : (sQ 2 (ringMem 0 0 0 0)).unitFault (qb 2).quad u acc = none := by
  have hc : (qb 2).at_.count = 2 := by decide
  rw [hc] at h
  obtain rfl | ⟨k, hk, rfl⟩ := h
  · cases acc <;> decide +kernel
  · interval_cases k <;> cases acc <;> decide +kernel

theorem witness_RingInstructions :
    ((sQ 2 []).Free [1] [] ∧ ((sQ 2 []).me.ringBind 5).bound = false ∧ ((sQ 1 []).me.ringBind 4).role = 1 ∧
      ((sQ 0 []).me.ringBind 4).role = 0) ∧
    (qb 2 = (sQ 2 (ringMem 0 0 0 0)).me.ringBind 4 ∧ (qb 2).bound = true ∧ 0 < (qb 2).at_.count) ∧
    (sQ 2 (ringMem 0 0 0 0)).localQuiet = .ok () (sQ 2 (ringMem 0 0 0 0)) ∧
    (((sQ 2 (ringMem 0 0 0 1)).ring (qb 2).at_).eos = true ∧ ((sQ 2 (ringMem 2 0 0 0)).ring (qb 2).at_).eos = false ∧
      (qb 2).at_.count ≤ seqSub ((sQ 2 (ringMem 2 0 0 0)).ring (qb 2).at_).acq ((sQ 2 (ringMem 2 0 0 0)).ring (qb 2).at_).free ∧
      ((sQ 2 (ringMem 1 0 0 0)).ringAcquire (qb 2).at_ 0).isSome = true) ∧
    (((sQ 2 (ringMem 1 0 1 0)).ringTake (qb 2).at_ 0).isSome = true ∧ ((sQ 2 (ringMem 1 0 0 0)).ringTake (qb 2).at_ 0).isNone = true) ∧
    ((sQ 2 (ringMem 1 0 0 0)).payloadSlot (qb 2) ((sQ 2 []).rx 5).toNat = none ∧
      (sQ 2 (ringMem 1 0 0 0)).payloadSlot (qb 2) ((sQ 2 []).rx 1).toNat = some 0 ∧
      (sQ 2 (ringMem 1 0 0 0)).canPublish (qb 2).at_ 0 ((sQ 2 []).rx 3).toNat = false ∧
      (sQ 2 (ringMem 1 0 0 0)).canPublish (qb 2).at_ 0 ((sQ 2 []).rx 2).toNat = true ∧
      (sQ 2 (ringMem 1 0 0 0)).canFree (qb 2).at_ 0 = false ∧ (sQ 2 (ringMem 1 1 0 0)).canFree (qb 2).at_ 0 = true) ∧
    ((sQ 2 (ringMem 1 0 0 0)).releasePackage = .ok () (sQ 2 (ringMem 1 0 0 0))) ∧
    (natBits ((sQ 2 []).rx 7).toNat 32 2 = 3 ∧ natBits ((sQ 2 []).rx 6).toNat 34 30 = 0 ∧ natBits ((sQ 2 []).rx 6).toNat 32 2 ≠ 3 ∧
      ringConfigOk (((sQ 2 []).rx 6).toNat % 2 ^ 32) = true ∧ ringConfigOk 0 = false ∧ ringConfigOk 64 = true ∧ ringConfigOk 65 = false ∧
      ((sQ 2 []).rx 9).toNat % 64 ≠ 0 ∧ (sQ 2 []).unitAt 0 = none) ∧
    ((sQ 2 (ringMem 0 0 0 0)).unitAt ((sQ 2 []).rx 8).toNat = some (0, 1, false) ∧
      (sQ 2 (ringMem 0 0 0 0)).unitFault 0 1 .store = none ∧ ((sQ 2 (ringMem 0 0 0 0)).ring { quad := 0, unit := 1, config := 2 }).init = true ∧
      natBits ((sQ 2 (ringMem 0 0 0 0)).ring { quad := 0, unit := 1, config := 2 }).config 0 30 = natBits (((sQ 2 []).rx 6).toNat % 2 ^ 32) 0 30 ∧
      natBits ((sQ 2 (ringMem 0 0 0 0)).ring { quad := 0, unit := 1, config := 2 }).config 0 30 ≠ natBits (((sQ 2 []).rx 10).toNat % 2 ^ 32) 0 30 ∧
      ((sQ 2 (ringMem 0 0 0 0)).ring { quad := 0, unit := 8, config := 2 }).init = false) :=
  ⟨⟨free_sQ, by decide +kernel⟩, by decide +kernel, rfl, by decide +kernel, by decide +kernel, by decide +kernel, rfl, by decide +kernel,
    by decide +kernel⟩

/-! ## The vector unit -/

/-- Vector registers 1 to 3 hold something; k1 is 0x5555 and masks. -/
def sV (x : List (Nat × Word)) : State :=
  { st { hx .m x with k := [(1, 0x5555)], dev := { vactm := 1 } } with
    slotRegs := [(1, { v := [(1, 0x3f800000), (2, 0x40000000), (3, 7)] })] }
theorem vready_sV {x xs vs ks} : (sV x).VReady xs vs ks :=
  ⟨plain_st _ _ rfl rfl rfl rfl rfl rfl _ _, fun _ _ => rfl, rfl⟩

theorem witness_LaneWise :
    (LaneForm (.vadd .f32 3 1 2) .f32 3 1 2 (opAdd .f32) true true false ∧ (sV []).VReady [] ([3, 1] ++ [2]) [(sV []).me.maskNo]) ∧
    (LaneForm (.vaddVx .f32 3 1 2) .f32 3 1 2 (opAdd .f32) true true true ∧ (sV []).VReady [2] ([3, 1] ++ []) [(sV []).me.maskNo]) ∧
    (LaneForm1 (.vabs .i8 3 1) .i8 3 1 (opAbs .i8) false true ∧ (sV []).VReady [] [3, 1] [(sV []).me.maskNo]) ∧
    ((2 : Reg) ≠ 1 ∧ (sV []).resident (codeV 2) = true) ∧ ((0 : Nat) < VTy.lanes .f32) ∧
    ({ sV [] with harts := [(0, { hx .m [] with dev := { vactm := 1 } })] } : State).activeLanes .f32 = [] :=
  ⟨⟨.vadd _ _ _ _, vready_sV⟩, ⟨.vaddVx _ _ _ _, vready_sV⟩, ⟨.vabs _ _ _, vready_sV⟩, ⟨by decide, rfl⟩, by decide, by decide +kernel⟩

theorem witness_LaneOperations :
    (255 < 2 ^ VTy.bits .i8 ∧ VTy.isInt .i8 = true) ∧
    (VTy.isFloat .f32 = true ∧ ((fmtOf .f32).unpack 0x7fc00000).isNaN = true ∧ ((fmtOf .f32).unpack 0x7f800001).signalling = true ∧
      ((fmtOf .f32).unpack 0x80000000).isNaN = false) ∧
    (((fmtOf .f32).unpack 0x80000000).isZero = true ∧ (fmtOf .f32).unpack 0xff800000 = .inf true) := by decide +kernel

/-- A vault block that holds data; an address outside the machine. -/
def sVm : State := { st5 { h5 [(1, 0x7e0000000000), (2, 8), (3, 0x600000000000)] with k := [(1, 3)], dev := { vactm := 1 } } [] with
    slotRegs := [(8, { v := [(1, 0), (2, 1)] })] }
theorem vready_sVm {xs : List Reg} : sVm.VReady xs [1, 2] [sVm.me.maskNo] ∧ sVm.VReady xs [1] [sVm.me.maskNo] :=
  ⟨⟨plain_st _ _ rfl rfl rfl rfl rfl rfl _ _, by unfold State.Resident; decide, rfl⟩,
    plain_st _ _ rfl rfl rfl rfl rfl rfl _ _, by unfold State.Resident; decide, rfl⟩

theorem witness_VectorMemory :
    (sVm.VReady [1, 2] [1] [sVm.me.maskNo] ∧ (sVm.activeLanes .i64).length = 2) ∧
    (∃ vs u, sVm.loadLines 8 ((sVm.activeLanes .i64).map (fun (k : Nat) => wrapAddr ((sVm.rx 1).toNat + (k : Int) * 8))) = .ok vs u) ∧
    (∃ c v u, sVm.loadLines 8 ((sVm.activeLanes .i64).map (fun (k : Nat) => wrapAddr ((sVm.rx 4).toNat + (k : Int) * 8))) = .trap c v u) ∧
    (∃ u, sVm.storeElems 8 true ((sVm.activeLanes .i64).map (fun (k : Nat) =>
      (wrapAddr ((sVm.rx 1).toNat + (k : Int) * 8), sVm.elem .i64 1 k))) (sVm.rx 1) = .ok () u) ∧
    (∃ c v u, sVm.storeElems 8 true ((sVm.activeLanes .i64).map (fun (k : Nat) =>
      (wrapAddr ((sVm.rx 4).toNat + (k : Int) * 8), sVm.elem .i64 1 k))) (sVm.rx 4) = .trap c v u) ∧
    (sVm.VReady [1] [1, 2] [sVm.me.maskNo]) ∧
    (∃ vs u, sVm.gatherElems 8 ((sVm.activeLanes .i64).map (fun (k : Nat) =>
      wrapAddr ((sVm.rx 1).toNat + natToInt 64 (sVm.elem .i64 2 k) * 8))) = .ok vs u) ∧
    (∃ u, sVm.storeElems 8 false ((sVm.activeLanes .i64).map (fun (k : Nat) =>
      (wrapAddr ((sVm.rx 1).toNat + natToInt 64 (sVm.elem .i64 2 k) * 8), sVm.elem .i64 1 k))) (sVm.rx 1) = .ok () u) :=
  ⟨⟨vready_sVm.2, by decide +kernel⟩, ⟨_, _, rfl⟩, ⟨_, _, _, rfl⟩, ⟨_, rfl⟩, ⟨_, _, _, rfl⟩, vready_sVm.1, ⟨_, _, rfl⟩, _, rfl⟩

theorem witness_VectorMoves :
    (∀ (xs vs : List Reg) (ks : List Nat), (sV []).VReady xs vs ks) ∧ (sV []).me.laneHolds [(sV []).me.maskNo] [] = false ∧
    ((1 : Reg) ≠ 0 ∧ Store.Rising (sV []).me.k) ∧ ((sV []).rx 1).toInt = 0 ∧ (0x1fffff#21).toInt = -1 :=
  ⟨fun _ _ _ => vready_sV, rfl, ⟨by decide, List.pairwise_singleton _ _⟩, rfl, by decide⟩

theorem witness_VectorConversionsAndReductions :
    (sV []).VReady [] [3, 1] [(sV []).me.maskNo] ∧ (sV []).VReady [] [3, 1, 2] [(sV []).me.maskNo] ∧
    (sV []).VReady [4] [3, 1, 2] [(sV []).me.maskNo] ∧ (VTy.isInt .i8 = true ∧ VTy.isInt .f32 = false) ∧
    ((Fmt.ofCode ((0x14#5).toNat % 16)).getD .i8 = .bf16 ∧ (Fmt.ofCode (6#4).toNat).getD .i8 = .f32) :=
  ⟨vready_sV, vready_sV, vready_sV, by decide, by decide⟩

/-! ## The matrix engine -/

def tkH : Hart := h5 [(1, 0x66)]
def sMx (h : Hart) (q : Quad) : State := { st5 h [] with quads := [(0, q)], slotRegs := [(8, { v := [(1, 0), (2, 0)] })] }
theorem free_sMx {h : Hart} {q} (h1 : h.tokens = []) (h2 : h.xwait = []) (h3 : h.vwait = []) (h4 : h.lane.active = false)
    {xs vs : List Reg} : (sMx h q).Free xs vs := plain_st h _ rfl rfl h1 h2 h3 h4 xs vs
def rq (hart : Nat) (op : Instr) : MReq :=
  { id := 5, hart := hart, slot := 0, ctx := 1, task := some 3, asid := 5, op := op, xa := 0, xb := 0, xc := 0, vs := 0, rmode := 0,
    seed := 0, tid := 0, clk := 0, ictx := 1 }
/-- Every tile of context 1 is resident. -/
def sEng (r : List MReq) : State := { sMx tkH { inq := r } with tileRegs := [(1, { resident := List.range 24 })] }

theorem witness_MatrixIssue :
    (MatrixForm (.mzero 0 0) (mzeroI 0 0) ∧ (sMx tkH {}).Free ((mzeroI 0 0).xs ++ (mzeroI 0 0).wx) ((mzeroI 0 0).vs ++ (mzeroI 0 0).wv) ∧
      (sMx tkH {}).Resident (((mzeroI 0 0).vs ++ (mzeroI 0 0).wv).map codeV) ∧
      (sMx tkH {}).me.laneHolds [] ((mzeroI 0 0).req (sMx tkH {})).names = false) ∧
    ((st (hx .u [])).me.task = none ∧ (sMx tkH {}).me.task ≠ none) ∧
    ((mfmtI 1).ok (sMx (h5 [(1, 0x0c00)]) {}) = false ∧ (mzeroI 0 0).ok (sMx tkH {}) = true) ∧
    (4 ≤ (sMx tkH { dq := [(0, List.replicate 4 (rq 0 (.mzero 0 0)))] }).myQueue.length ∧
      (sMx tkH { dq := [(0, List.replicate 3 (rq 0 (.mzero 0 0)))] }).myQueue.length < 4) ∧
    (sMx tkH {}).localQuiet = .ok () (sMx tkH {}) ∧
    (((sMx tkH { inq := [rq 0 (.mzero 0 0)] }).quads.any (fun q => q.2.requests.any (sMx tkH { inq := [rq 0 (.mzero 0 0)] }).mine)) = true ∧
      ((sMx tkH {}).quads.any (fun q => q.2.requests.any (sMx tkH {}).mine)) = false) ∧
    ((sMx tkH {}).me.mpoison = false ∧ (sMx { tkH with mpoison := true } {}).me.mpoison = true) :=
  ⟨⟨.mzero _ _, free_sMx rfl rfl rfl rfl, (fun _ h => nomatch h), rfl⟩, by decide, by decide +kernel, by decide +kernel, rfl,
    by decide +kernel, by decide +kernel⟩

theorem witness_MatrixChecks : MatrixForm (.mzero 7 0) (mzeroI 7 0) ∧
    (∀ z d a b k8 m n, Instr.mzero 7 0 ≠ .mma z d a b k8 m n ∧ Instr.mzero 7 0 ≠ .mmag z d a b k8 m n ∧
      Instr.mzero 7 0 ≠ .mrec z d a b k8 m n) ∧ (∀ a b, Instr.mzero 7 0 ≠ .mfmt a ∧ Instr.mzero 7 0 ≠ .mupld a b) ∧
    (mfmtI 1).ok (sMx (h5 [(1, 0x66)]) {}) = true :=
  ⟨.mzero _ _, fun _ _ _ _ _ _ _ => ⟨Instr.noConfusion, Instr.noConfusion, Instr.noConfusion⟩,
    fun _ _ => ⟨Instr.noConfusion, Instr.noConfusion⟩, by decide +kernel⟩

theorem witness_MatrixEngine :
    ((sMx tkH {}).nextAccept 0 = none) ∧
    (({ sMx tkH { dq := [(2, [rq 2 (.mzero 0 0)])] } with cycle := 1 } : State).nextAccept 0 = some (2, rq 2 (.mzero 0 0)) ∧ (rq 2 (.mzero 0 0)).gang = false ∧
      (∀ z d a b k8 m n, (rq 2 (.mzero 0 0)).op ≠ .mmag z d a b k8 m n) ∧ Store.Rising [(2, [rq 2 (.mzero 0 0)])]) ∧
    ((sEng []).quad 0).inq = [] ∧
    (((sEng [rq 0 (.mzero 0 0)]).quad 0).inq = rq 0 (.mzero 0 0) :: [] ∧ (∀ acc d, (rq 0 (.mzero 0 0)).op ≠ .mrel acc d)) ∧
    ((((rq 0 (.mzero 0 0)).writes.foldl (fun s t => s.touchTile 1 t)
        ((rq 0 (.mzero 0 0)).reads.foldl (fun s t => s.ensureTile 1 t) (sEng [rq 0 (.mzero 0 0)])))).tilesReady (rq 0 (.mzero 0 0)) = true ∧
      (sEng [rq 0 (.mzero 0 0)]).readsPoison (rq 0 (.mzero 0 0)) = false ∧
      ({ sEng [] with poison := [lineNo (tileAddr 1 16)] } : State).readsPoison (rq 0 (.mext 1 0 0 0)) = true ∧
      ({ sEng [] with fills := [(1, (4, 16))] } : State).tilesReady (rq 0 (.mext 1 0 0 0)) = false) ∧
    ((rq 0 (.mrel true 0)).op = .mrel true 0 ∧ (sEng [rq 0 (.mrel true 0)]).tilesReady (rq 0 (.mrel true 0)) = true) :=
  ⟨by decide +kernel, ⟨by decide +kernel, rfl, fun _ _ _ _ _ _ _ => Instr.noConfusion, List.pairwise_singleton _ _⟩, rfl,
    ⟨rfl, fun _ _ => Instr.noConfusion⟩, by decide +kernel, rfl, by decide +kernel⟩

theorem witness_MatrixResults :
    (Safety.MemOk (sEng []) ∧ 7 < 8 ∧ 128 ≤ 128) ∧ (16 + 7 ∈ (rq 0 (.mzero 7 0)).writes ∧ 0 < tileBytes (16 + 7)) ∧
    (3 ∈ (rq 0 (.mtzero 3 0)).writes ∧ 0 < tileBytes 3) ∧
    ((rq 0 (.mma true 7 0 1 0 127 127)).op = .mma true 7 0 1 0 127 127 ∧ (7 : Reg).toNat < 8 ∧ (127#9).toNat < 128 ∧ (127#10).toNat < 128) ∧
    ((rq 0 (.mext 1 0 0 0)).op = .mext 1 0 0 0) ∧ (0x7fc00000 < 2 ^ 32 ∧ (Fmt.f32.unpack 0x7fc00000).isNaN = true) :=
  ⟨⟨by unfold Safety.MemOk; decide +kernel, by decide, by decide⟩, by decide +kernel, by decide +kernel, ⟨rfl, by decide⟩, rfl, by decide +kernel⟩

/-! ## Repetition blocks -/

/-- REPB at 0x1000 in M-mode, with one block instruction behind it: VADD.f32 v3, v1, v2; CSRRS; or one that does not decode. -/
def sRep (x : List (Nat × Word)) (w : Word) (lane : Lane) : State :=
  { st { hx .m x with lane := lane } with mem := cellsOf 0x1004 (bytesOf 4 w.toNat) }
def wVadd : Word := ((encode (.vadd .f32 3 1 2)).map (·.2)).getD 0
def wCsr : Word := ((encode (.csrWrite .rs 0xc00 (.reg 0) 1)).map (·.2)).getD 0

/-- What a fetch of the block gives. -/
def blockOf (r : Act (Option (List (Instr × Word) × Word))) : Option (Option (List (Instr × Word) × Word)) := match r with
  | .ok b _ => some b
  | _ => none

/-- A lane that runs the block, at its start and at its end. -/
def lane1 (idx : Nat) : Lane := { active := true, block := [.vadd .f32 3 1 2, .vadd .f32 3 1 2], words := [wVadd, wVadd], rs := 2, idx := idx }
def sLane : State := { sV [] with harts := [(0, { hx .m [] with lane := lane1 0 })] }

theorem witness_RepetitionBlocks :
    ((st (hx .m [])).Free [1] [] ∧ (st (hx .m [])).me.lane.active = false ∧ (sRep [] 0 (lane1 0)).me.lane.active = true) ∧
    (blockOf (fetchBlock 1 0x1004 (sRep [] 0 {})) = some none ∧
      blockOf (fetchBlock 1 0x1004 (sRep [] wVadd {})) = some (some ([(.vadd .f32 3 1 2, wVadd)], 0x1008))) ∧
    ((sRep [] wVadd {}).rx 1 = 0 ∧ 2 ^ 32 ≤ ((sRep [(1, 0x100000000)] wVadd {}).rx 1).toNat ∧
      0 < ((sRep [(1, 0xffffffff)] wVadd {}).rx 1).toNat ∧ ((sRep [(1, 0xffffffff)] wVadd {}).rx 1).toNat < 2 ^ 32) ∧
    ((∃ x ∈ unrolled 2 2 [(.csrWrite .rs 0xc00 (.reg 0) 1, wCsr)], blockOk (sRep [] 0 {}) x.1 = false) ∧
      (∀ x ∈ unrolled 2 2 [(.vadd .f32 3 1 2, wVadd)], blockOk (sRep [] 0 {}) x.1 = true)) ∧
    ((blockTrap (sRep [] 0 {}) (unrolled 2 3 [(.vadd .f32 3 1 2, wVadd)])).1 = none ∧
      (blockTrap (sMx (h5 [(1, 0x0c00)]) {}) (unrolled 2 2 [(.mfmt 1, 0)])).1 = some (31, 0)) ∧
    ((sLane.hart 1).lane.active = false ∧ (sLane.hart 0).lane.active = true ∧ (sLane.hart 0).status.executes = true ∧
      sLane.me.lane.block[sLane.me.lane.idx]? = some (.vadd .f32 3 1 2)) ∧
    ((blockIssue sLane (iterInstr 2 0 (.vadd .f32 3 1 2))).isSome = true ∧ sLane.me.laneBusy [] [3, 1, 2] = false ∧
      ({ sLane.me with vwait := [(3, 9)] } : Hart).laneBusy [] [3, 1, 2] = true) ∧
    ((lane1 0).idx + 1 < (lane1 0).block.length ∧ (lane1 1).block.length ≤ (lane1 1).idx + 1) ∧
    ((lane1 0).last ≠ some sLane.cycle ∧ ({ lane1 0 with last := some 0 } : Lane).last = some sLane.cycle) ∧
    (∃ c v u, fetchBlock 1 0x10000000 (st5 (h5 []) []) = .trap c v u) :=
  ⟨⟨free_st, rfl, rfl⟩, by decide +kernel, by decide +kernel, by decide +kernel, by decide +kernel, by decide +kernel, by decide +kernel,
    by decide +kernel, by decide +kernel, _, _, _, rfl⟩

/-- A lane whose copy has a region and a handle of other dims. -/
def sLaneT : State := sXfer { h5 [] with lane := { lane1 0 with block := [.copy 6 2 1] } } []

/-- The issue of such an instruction traps. -/
theorem witness_RepetitionBlocks_trap : ∃ i t, blockIssue sLaneT (iterInstr 2 0 (.copy 6 2 1)) = some i ∧ sLaneT.me.mode = .u ∧
    sLaneT.me.laneBusy ((i.xs.map (·.toNat)).filter (· != 0)) (i.vs.map (·.toNat)) = false ∧
    (sLaneT.modMe (fun x => { x with dev := { x.dev with rmode := sLaneT.me.lane.rmode, vactm := sLaneT.me.lane.vactm } })).filled
      (i.vs.map codeV ++ i.codes) = .ok () t ∧ ∃ c v t', i.body t = .trap c v t' := ⟨_, _, rfl, rfl, rfl, rfl, _, _, _, rfl⟩

/-- The issue of the block's first instruction completes. -/
theorem witness_RepetitionBlocks_issue : ∃ i t, blockIssue sLane (iterInstr 2 0 (.vadd .f32 3 1 2)) = some i ∧
    ((sLane.modMe (fun x => { x with dev := { x.dev with rmode := sLane.me.lane.rmode, vactm := sLane.me.lane.vactm } })).filled
      (i.vs.map codeV ++ i.codes)).andThen (fun _ t => i.body t) = .ok () t := ⟨_, _, rfl, rfl⟩

/-! ## Calls of the supervisor and of the tenant's objects -/

/-- A supervisor hart that makes call f with arguments a0 to a4. -/
def call (f : Nat) (a : List Nat) : List (Nat × Word) :=
  (a.zipIdx.map (fun x => (10 + x.2, BitVec.ofNat 64 x.1))) ++ [(16, BitVec.ofNat 64 f), (17, 0x45564F49)]
def sC (f : Nat) (a : List Nat) (m : List Host.Cell) : State := st5 (hx .s (call f a)) m

theorem witness_EnvironmentCalls :
    ((st (hx .u [])).calling = false ∧ (sC 0 [] []).calling = true) ∧
    (SupervisorCall 0 .ownerCreate Machine.ownerCreate ∧ (sC 0 [] []).me.status.executes = true ∧ ((sC 0 [] []).rx 16).toNat = 0 ∧
      ((sC 1 [] []).rx 16).toNat ≠ 0) ∧
    (14 < ((sC 15 [] []).rx 16).toNat) ∧
    (((sC 13 [256] []).rx 16).toNat = 13 ∧ 255 < ((sC 13 [256] []).rx 10).toNat ∧ ((sC 13 [255] []).rx 10).toNat ≤ 255 ∧
      (sC 13 [255] []).me.task = none ∧ (st5 { hx .s (call 13 [255]) with task := some 3 } []).me.task = some 3) ∧
    Store.Rising (sC 0 [] []).me.x :=
  ⟨⟨rfl, by decide⟩, ⟨.ownerCreate, rfl, by decide, by decide⟩, by decide, by decide,
    .cons (fun b hb => by obtain rfl : b = (17, 0x45564F49#64) := by simpa using hb
                          decide) (List.pairwise_singleton _ _)⟩

theorem find_isSome {α : Type} : ∀ (l : List (Nat × α)) (k : Nat), k ∈ l.map (·.1) → (Store.find? l k).isSome = true
  | (a, v) :: r, k, h => by
    unfold Store.find?
    split
    · rfl
    · rename_i hne
      exact find_isSome r k (by simpa [hne] using h)

/-- Every key slot in use. -/
def allKeys : List (Nat × Nat) := (List.range 4096).map (fun i => (i, 1))
theorem allKeys_used (i : Nat) (h : i < 4096) : ({ st {} with rtu := { keys := allKeys } } : State).slotUsed i = true := by
  refine find_isSome allKeys i ?_
  rw [allKeys, List.map_map]
  exact List.mem_map.2 ⟨i, List.mem_range.2 h, rfl⟩

/-- A descriptor of tenant `asid` in a frame of owner 2. -/
def desc (asid reserve : Nat) : List Byte :=
  bytesOf 64 (asid + 2 * 2 ^ 16 + reserve * 2 ^ 64 + 2000 * 2 ^ 80 + 2 ^ 96 + 1000 * 2 ^ 128)
def sD (asid reserve : Nat) : State := sC 3 [0x40001000] (cellsOf 0x40001000 (desc asid reserve))

theorem witness_SupervisorCalls_owners :
    ((st {}).rtu.auditFull = false ∧ auditFull.auditFull = true) ∧
    (1 < 4096 ∧ (sC 0 [] []).slotUsed 1 = false ∧ ∀ j, j < 1 → (sC 0 [] []).slotUsed j = true) ∧
    ((sC 1 [0] []).arg 0 = 0 ∧ 4095 < (sC 1 [4096] []).arg 0 ∧ (sC 1 [5] []).slotUsed ((sC 1 [5] []).arg 0) = false) ∧
    (0 < (sC 1 [2] []).arg 0 ∧ (sC 1 [2] []).arg 0 ≤ 4095 ∧ (sC 1 [2] []).slotUsed ((sC 1 [2] []).arg 0) = true ∧
      ∃ c ∈ (sC 1 [2] []).disp.contexts, ∃ t, (sC 1 [2] []).tenant c.2.asid = some t ∧ t.owner = (sC 1 [2] []).arg 0) ∧
    (∀ c ∈ ({ sC 1 [2] [] with disp := {} } : State).disp.contexts, ∀ t, ({ sC 1 [2] [] with disp := {} } : State).tenant c.2.asid = some t →
      t.owner ≠ 2) ∧
    ((sC 2 [1] []).arg 0 % 0x200000 ≠ 0 ∧ (sC 2 [0x40000000, 0] []).arg 1 = 0) ∧
    ((sC 2 [0x40000000, 1, 0, 1] []).arg 0 % 0x200000 = 0 ∧ 0 < (sC 2 [0x40000000, 1, 0, 1] []).arg 1 ∧
      (sC 2 [0x40000000, 1, 0, 1] []).arg 0 + (sC 2 [0x40000000, 1, 0, 1] []).arg 1 * 0x200000 ≤ Config.hbmBytes ∧
      (sC 2 [0x40000000, 1, 0, 1] []).arg 2 ≤ 4095 ∧ (sC 2 [0x40000000, 1, 0, 1] []).slotUsed 0 = true ∧
      (sC 2 [0x40000000, 1, 0, 1] []).arg 3 = 1 ∧
      (∀ i, i < (sC 2 [0x40000000, 1, 0, 1] []).arg 1 → (((sC 2 [0x40000000, 1, 0, 1] []).frame (0x200 + i)).slot ≠ 0 ∨
        ((sC 2 [0x40000000, 1, 0, 1] []).frame (0x200 + i)).supw = true) ∧ ((sC 2 [0x40000000, 1, 0, 1] []).frame (0x200 + i)).image = false)) ∧
    (∃ i, i < (sC 2 [0, 1, 0, 1] []).arg 1 ∧ ((sC 2 [0, 1, 0, 1] []).frame i).slot = 0 ∧ ((sC 2 [0, 1, 0, 1] []).frame i).supw = false) ∧
    (∃ i, i < (sC 2 [0x50000000, 1, 0, 1] []).arg 1 ∧ ((sC 2 [0x50000000, 1, 0, 1] []).frame (0x280 + i)).image = true) :=
  ⟨by decide +kernel, by decide +kernel, by decide +kernel, ⟨by decide, by decide, by decide, _, List.mem_singleton_self _, _, rfl, by decide⟩,
    (fun _ h => nomatch h), by decide +kernel, by decide +kernel, ⟨0, by decide, by decide +kernel⟩, 0, by decide, by decide +kernel⟩

theorem witness_SupervisorCalls_tenants :
    (((sC 3 [0] []).descriptor.filter (sC 3 [0] []).descOk) = none) ∧
    (((sD 5 1).descriptor.filter (sD 5 1).descOk) = some (desc 5 1) ∧ bytesAt (desc 5 1) 0 2 = 5 ∧ ((sD 5 1).tenant 5).isSome = true ∧
      (sD 5 1).reserves 5 + (descTenant (desc 5 1)).reserve ≤ (sD 5 1).hartCount) ∧
    (((sD 6 2000).descriptor.filter (sD 6 2000).descOk) = some (desc 6 2000) ∧ (sD 6 2000).tenant 6 = none ∧
      (sD 6 2000).disp.burnt.contains 6 = false ∧ (sD 6 2000).reserves 6 + (descTenant (desc 6 2000)).reserve ≤ (sD 6 2000).hartCount) ∧
    (({ sD 6 2000 with disp := { tenants := [(7, { tenant5 with reserve := 2000 })], burnt := [6] } } : State).disp.burnt.contains 6 = true ∧
      ({ sD 6 2000 with disp := { tenants := [(7, { tenant5 with reserve := 2000 })] } } : State).hartCount
        < ({ sD 6 2000 with disp := { tenants := [(7, { tenant5 with reserve := 2000 })] } } : State).reserves 6 + (descTenant (desc 6 2000)).reserve) ∧
    ((sC 5 [0] []).arg 0 = 0 ∧ 65535 < (sC 5 [65536] []).arg 0) ∧
    (0 < (sC 5 [5] []).arg 0 ∧ (sC 5 [65535] []).arg 0 ≤ 65535 ∧ (sC 5 [6] []).tenant ((sC 5 [6] []).arg 0) = none ∧
      (sC 5 [5] []).disp.contexts.any (fun c => c.2.asid == (sC 5 [5] []).arg 0) = true ∧
      ({ sC 5 [5] [] with disp := { disp5 with contexts := [] } } : State).disp.contexts.any (fun c => c.2.asid == 5) = false ∧
      (({ sC 5 [5] [] with disp := { disp5 with contexts := [] } } : State).tenant 5).isSome = true) := by decide +kernel

/-- Image frames of owner 2 that hold no context. -/
theorem witness_SupervisorCalls_others :
    ((sC 6 [6] []).tenant ((sC 6 [6] []).arg 0) = none ∧ (sC 6 [5] []).tenant ((sC 6 [5] []).arg 0) = some tenant5) ∧
    ((sC 6 [5, 0, 640] []).quadPresent ((sC 6 [5, 0, 640] []).arg 2) = false ∧
      (sC 6 [5, 1, 0] []).imageOk tenant5 ((sC 6 [5, 1, 0] []).arg 1) = false) ∧
    ((sC 6 [5, 0x40000000, 0] []).quadPresent ((sC 6 [5, 0x40000000, 0] []).arg 2) = true ∧
      ((sC 6 [5, 0x40000000, 0] []).quad 0).outOfService = false ∧
      (sC 6 [5, 0x40000000, 0] []).imageOk tenant5 ((sC 6 [5, 0x40000000, 0] []).arg 1) = true) ∧
    (65535 < (sC 7 [65536] []).arg 0 ∧ (sC 7 [65535] []).arg 0 ≤ 65535 ∧ (sC 7 [5] []).rtu.meas3Done = false ∧
      (sC 7 [5] []).disp.contexts.any (fun c => c.2.asid == (sC 7 [5] []).arg 0) = true ∧
      (sC 7 [6] []).disp.contexts.any (fun c => c.2.asid == (sC 7 [6] []).arg 0) = false) ∧
    (1 < (sC 9 [2] []).arg 0 ∧ 32767 < (sC 9 [1, 32768] []).arg 1 ∧ (sC 9 [1, 32767] []).arg 1 ≤ 32767 ∧ (sC 9 [1, 0, 0] []).arg 2 = 0 ∧
      (sC 9 [1, 0, 1] []).arg 2 % 0x200000 ≠ 0 ∧ Config.hbmBytes ≤ (sC 9 [1, 0, Config.hbmBytes] []).arg 2) ∧
    ((sC 9 [1, 0, 0x40000000, 5, 63] []).arg 2 < Config.hbmBytes ∧ (sC 9 [1, 0, 0x40000000, 5, 63] []).arg 3 ≠ 0 ∧
      (sC 9 [1, 0, 0x40000000, 5, 63] []).arg 4 ≤ 63 ∧ (sC 9 [1, 0, 0x40000000, 5, 63] []).tenant 5 = some tenant5 ∧
      ((sC 9 [1, 0, 0x40000000, 5, 63] []).frame 0x200).slot = tenant5.owner ∧
      ((sC 9 [1, 0, 0x40000000, 5, 63] []).frame 0x200).image = false ∧ ((sC 9 [1, 0, 0x50000000, 5, 63] []).frame 0x280).image = true) ∧
    ((sC 12 [5, 0] []).arg 1 = 0 ∧ 63 < (sC 12 [5, 64] []).arg 1 ∧ (sC 12 [5, 63, 1, 4] []).arg 1 ≤ 63 ∧
      (sC 12 [5, 63, 1, 4] []).arg 2 ≤ (sC 12 [5, 63, 1, 4] []).arg 3 ∧ (sC 12 [5, 63, 1, 4] []).arg 3 ≤ tenant5.cap ∧
      ({ tenant5 with reserve := 1 } : Tenant).stages.foldl (fun n e => if e.1 = 63 then n else n + e.2.min) 1
        ≤ ({ tenant5 with reserve := 1 } : Tenant).reserve ∧
      (sC 12 [5, 63, 1, 4] []).stageBusy 5 63 = false ∧ (sStage []).stageBusy 5 1 = true) ∧
    (96 < (sC 14 [5, 0, 96, 1, 0] []).arg 2 + (sC 14 [5, 0, 96, 1, 0] []).arg 3 ∧
      (sC 14 [5, 0, 95, 1, 0] []).arg 2 + (sC 14 [5, 0, 95, 1, 0] []).arg 3 ≤ 96 ∧
      (∃ i, i < (sC 14 [5, 0, 0, 2, 0] []).arg 3 ∧ (((sC 14 [5, 0, 0, 2, 0] []).quad 0).block (65536 * (0 + i))).kind = .free) ∧
      (∀ i, i < (sC 14 [5, 0, 0, 1, 0] []).arg 3 → (((sC 14 [5, 0, 0, 1, 0] []).quad 0).block (65536 * (0 + i))).kind ≠ .free ∧
        (((sC 14 [5, 0, 0, 1, 0] []).quad 0).block (65536 * (0 + i))).asid = 5) ∧
      (∀ i, i < (sC 14 [5, 0, 1, 2, 1] []).arg 3 → (((sC 14 [5, 0, 1, 2, 1] []).quad 0).block (65536 * (1 + i))).kind = .free)) ∧
    (65535 < (sC 14 [65536] []).arg 0 ∧ 5 < (sC 14 [5, 0, 1, 1, 6] []).arg 4) ∧
    (2 ≤ (sC 14 [5, 0, 1, 1, 5] []).arg 4 ∧ (sC 14 [5, 0, 1, 1, 5] []).arg 4 ≤ 5 ∧
      (sC 14 [5, 0, 1, 1, 5] []).disp.contexts.any (fun c => c.2.asid == 5 && c.2.quad == 0 && c.2.live) = true ∧
      ((sC 14 [5, 0, 1, 1, 5] []).quad 0).stackBlock 5 (5 - 2) = none) :=
  ⟨by decide +kernel, by decide +kernel, by decide +kernel, by decide +kernel, by decide +kernel, by decide +kernel, by decide +kernel,
    ⟨by decide, by decide, ⟨1, by decide, by decide⟩, by decide +kernel⟩, by decide, by decide +kernel⟩

/-! An object of one task of one record, TRETIRE x0 (R95 to R97): its bytes, with the hash in its place. -/

def objZero : List Byte :=
  bytesOf 256 (0x314A4C42 + 1 * 2 ^ 32 + 256 * 2 ^ 64 + 0x01010101 * 2 ^ (8 * 0x30) + 3 * 2 ^ (8 * 0x34) + 1 * 2 ^ (8 * 0x38)
    + 640 * 2 ^ (8 * 0x3A) + 1 * 2 ^ (8 * 0x3C) + 0x80 * 2 ^ (8 * 0x40) + 0xC0 * 2 ^ (8 * 0x4C) + 1 * 2 ^ (8 * 0x54)
    + 1 * 2 ^ (8 * 0x84) + 1 * 2 ^ (8 * 0x90) + 0xE0 * 2 ^ (8 * 0x98)
    + 0x0010000B * 2 ^ (8 * 0xC0) + 0xFFFFFFFF * 2 ^ (8 * 0xD0) + 0x80000000 * 2 ^ (8 * 0xD4) + 0xFFFFFFFFFFFFFFFF * 2 ^ (8 * 0xD8)
    + 1 * 2 ^ (8 * 0xE8))
def obj : List Byte := objZero.take 0x10 ++ bytesOf 32 (objHash objZero).toNat ++ objZero.drop 0x30
def sO : State := sC 10 [5, 0x40020000, 255, 0x1000010000] (cellsOf 0x40020000 obj)

theorem witness_CodeCalls :
    ((sC 10 [6] []).tenant ((sC 10 [6] []).arg 0) = none ∧ 255 < (sC 10 [5, 0, 256] []).arg 2 ∧ (sC 10 [5, 0, 0, 1] []).arg 3 % 64 ≠ 0) ∧
    (sO.tenant (sO.arg 0) = some tenant5 ∧ sO.arg 2 ≤ 255 ∧ sO.arg 3 % 64 = 0 ∧ Store.find? sO.slotMap (sO.arg 0 * 256 + sO.arg 2) = none ∧
      (Store.find? sO.slotMap (5 * 256 + 0)).isSome = true) ∧
    ((sC 10 [5, 0] []).framesOf 2 ((sC 10 [5, 0] []).arg 1) 128 = false ∧ sO.framesOf 2 (sO.arg 1) 128 = true ∧
      headerOk ((sC 10 [5, 0x40020000] []).peekBytes 0x40020000 128) 0x40020000 = false ∧
      headerOk (sO.peekBytes (sO.arg 1) 128) (sO.arg 1) = true ∧ bytesAt (sO.peekBytes (sO.arg 1) 128) 8 8 = 256 ∧
      sO.framesOf 2 (sO.arg 1) 256 = true ∧ sO.rangePoisoned (sO.arg 1) 256 = false ∧ sO.peekBytes (sO.arg 1) 256 = obj) ∧
    ((objHash objZero).toNat ≠ bytesAt objZero 0x10 32 ∧ (objHash obj).toNat = bytesAt obj 0x10 32) ∧
    (sO.lookup 2 obj = none ∧ ({ sO with heap := [(9, { owner := 2, hash := objHash obj, svn := 0, len := 0, starts := [] })] } : State).lookup 2 obj
      = some 9) ∧
    (sO.windowPlaces 5 (sO.arg 3) (4608 * 1)).isSome = true ∧ (objTasks obj).length = 1 ∧
    (255 < (sC 11 [5, 256] []).arg 1 ∧ (sC 11 [5, 255] []).arg 1 ≤ 255 ∧ Store.find? (sC 11 [5, 255] []).slotMap (5 * 256 + 255) = none ∧
      Store.find? (sC 11 [5, 0] []).slotMap (5 * 256 + 0) = some 1 ∧ (sC 11 [5, 0] []).slotInUse 5 0 = true ∧
      ({ sC 11 [5, 0] [] with disp := {} } : State).slotInUse 5 0 = false) :=
  ⟨by decide +kernel, by decide +kernel, by decide +kernel, by decide +kernel, by decide +kernel, by decide +kernel, by decide +kernel,
    by decide +kernel⟩

/-- The plans that the checks of an object give, and the first check that fails. -/
def plansOf (r : Except Nat (List Planned)) : Option (List Planned) := match r with
  | .ok p => some p
  | .error _ => none

theorem witness_CodeCalls_checks : (plansOf (checkObject obj .ubk2560 0)).isSome = true ∧ (plansOf (checkObject objZero .ubk2304 0)).isSome = true ∧
    (plansOf (checkObject (objZero.take 0x30 ++ [2] ++ objZero.drop 0x31) .ubk2560 0)) = none ∧
    ((plansOf (checkObject obj .ubk2560 0)).bind (buildTranslation 2 0 obj)).isSome = true ∧
    (sO.heapRoom 0x10000).isSome = true ∧ sO.heapRoom 0x40000001 = none ∧
    sO.windowPlaces 5 0x7e0000000000 (4608 * 1) = none := by decide +kernel

/-! ## The root of trust -/

def sR (r : Rtu) : State := { rtu := r }
/-- A paused copy holds a warm reset back. -/
theorem witness_Resets :
    ((sR {}).rtu.slotCheck [] ≠ 0) ∧ (0 < 1) ∧ ((sR {}).rtu.boot ≠ .recovery) ∧ ((sR { boot := .recovery }).rtu.boot = .recovery) ∧
    ((sR {}).allTransfers.filter (·.paused) = []) ∧ ((3 : Nat) ≠ 4) := by decide +kernel

/-- A firmware slot without a payload (R47). -/
def fwSlot : List Byte := bytesOf 256 (0x57464255 + 1 * 2 ^ 32 + (Sha.sha256 []).toNat * 2 ^ (8 * 0x20))

/-- No signature of 16,224 bytes is written out here: a slot whose signature verifies passes every check. -/
theorem witness_Resets_accepted (h : Sha.slhVerify ((fwSlot.drop 0x40).take 48) (fwSlot.take 0x100) ((fwSlot.drop 0x100).take 16224) = true) :
    ({ vendorKeyHash := Sha.sha256 ((fwSlot.drop 0x40).take 48) } : Rtu).slotCheck fwSlot = 0 := by
  have h1 : (slotNat fwSlot 0 4 ≠ 0x57464255 || slotNat fwSlot 4 2 ≠ 1) = false := by decide +kernel
  have h2 : (slotNat fwSlot 6 2 ≠ 0 || slotNat fwSlot 9 7 ≠ 0 || slotNat fwSlot 0x70 0x90 ≠ 0) = false := by decide +kernel
  have h3 : ¬16777216 < slotNat fwSlot 0x10 8 := by decide +kernel
  have h6 : ¬slotNat fwSlot 8 1 < 0 := by decide +kernel
  have h7 : (Sha.sha256 (slotPayload fwSlot)).toNat = slotNat fwSlot 0x20 32 := by decide +kernel
  unfold Rtu.slotCheck
  simp only [h1, h2, h3, h, h6, h7, Bool.false_eq_true, if_false, ne_eq, not_true_eq_false, Bool.not_true]

theorem witness_MeasurementsAndFuses :
    (Store.Rising (sR {}).rtu.meas) ∧ ((sR {}).rtu.boot ≠ .released ∧ 1 < 2 ∧ 7 < 8) ∧
    ((sR { boot := .released }).rtu.boot = .released ∧ 2 ≤ 7 ∧ 7 ≤ 7) ∧
    ((sR { signing := [some 5] }).rtu.signing = some 5 :: [] ∧ (sR { signing := [none] }).rtu.signing = none :: [] ∧ (sR {}).rtu.signing = []) ∧
    ((sR { advance := some 3 }).rtu.advance.isSome = true ∧ 3 ≤ (sR { fuses := 3 }).rtu.fuses ∧ (sR { svn := 2 }).rtu.svn < 3) ∧
    ((sR { boot := .released, svn := 64, fuses := 3 }).rtu.advance = none ∧ (sR { boot := .released, svn := 64, fuses := 3 }).rtu.fuses < 64 ∧
      64 ≤ (sR { boot := .released, svn := 64, fuses := 3 }).rtu.svn ∧ 64 ≤ 64) ∧
    ((sR { advance := some 3 }).rtu.advance = some 3 ∧ (sR { advance := some 3 }).rtu.fuses ≠ 3 ∧ (sR { advance := some 3 }).allSaved = true ∧
      (sR { advance := some 3, fuses := 3 }).rtu.fuses = 3) ∧
    ((st5 (h5 []) []).allSaved = false) :=
  ⟨List.Pairwise.nil, by decide +kernel⟩

/-- A sealed segment, with a host area of k slots; segment 0 is spilled and not acknowledged. -/
def seg (i : Nat) (spilled : Bool) : Segment := { idx := i, final := 0, sealed := true, spilled := spilled }
def sSpill (k : Nat) : State := sR { overflow := some (0, 0, k), segments := [seg 0 true, seg 2 false] }

theorem witness_AuditLog :
    ((sR {}).rtu.seq % 4096 ≠ 4094 ∧ (sR { seq := 4094 }).rtu.seq % 4096 = 4094) ∧
    (hardwareKinds.contains 0x0001 = true ∧ 0xF000 < 65536 ∧ 0 < 65536 ∧ 0x8000 ≤ 0x8000) ∧
    ((sR { signing := [none] }).rtu.signing = none :: []) ∧
    ((sSpill 2).rtu.overflow = some (0, 0, 2) ∧ (sSpill 2).rtu.segments.find? (fun g => g.sealed && !g.spilled) = some (seg 2 false) ∧
      ((sSpill 2).port 0).up = true ∧ (sSpill 2).rtu.segments.any (fun o => o.spilled && o.idx + 2 == (seg 2 false).idx) = true ∧
      (sSpill 3).rtu.segments.any (fun o => o.spilled && o.idx + 3 == (seg 2 false).idx) = false) ∧
    ((sSpill 2).rtu.segments.any (fun g => g.idx == 2 && g.spilled) = false ∧ (sSpill 2).rtu.segments.any (fun g => g.idx == 0 && g.spilled) = true) ∧
    ((sR { boot := .released }).rtu.boot = .released ∧ 1 < 2 ∧ 2 ≤ 2 ∧ 0 + 2 * 278528 ≤ 2 ^ 55) := by decide +kernel

/-! ## Coherence -/

def msgS (m : Msg) (homes : List (Nat × Home)) (h : Hart) : State :=
  { rtu := { boot := .released }, harts := [(0, h)], msgs := [(7, m)], homes := homes, nextId := 8 }
def held1 (owner : Option (Nat × Nat)) (ho : Bool) : List (Nat × HomeLine) := [(1, { owner := owner, hostOwned := ho })]
/-- Home 5 holds line 1, proxy 0x3000 holds it too. -/
def homes1 (owner : Option (Nat × Nat)) (ho : Bool) : List (Nat × Home) :=
  [(5, { lines := held1 owner ho }), (0x3000, { lines := held1 owner ho })]
def rd5 : Msg := .read 0 0 5 64 0 none 16 0 0

theorem witness_HomeRequests :
    (((msgS rd5 [] {}).incOf 0 ≠ 1) ∧ (msgS rd5 [] {}).incOf 0 = 0) ∧
    ({ msgS rd5 [] {} with msgs := [(6, rd5), (7, rd5)] } : State).blocked 7 0 5 64 = true ∧ (msgS rd5 [] {}).blocked 7 0 5 64 = false ∧
    (isProxy 5 = false ∧ isProxy 0x3000 = true ∧ ((msgS rd5 [] {}).home 5).holds (lineNo 64) = false ∧
      ((msgS rd5 (homes1 none false) {}).home 5).holds (lineNo 64) = true ∧
      (((msgS rd5 (homes1 none false) {}).home 0x3000).line (lineNo 64)).hostOwned = false ∧
      (((msgS rd5 (homes1 none true) {}).home 0x3000).line (lineNo 64)).hostOwned = true) ∧
    (((msgS rd5 (homes1 none true) {}).home 5).owner (lineNo 64) = none ∧
      ((msgS rd5 (homes1 (some (9, 0)) true) {}).home 5).owner (lineNo 64) = some (9, 0) ∧ some 9 ≠ (none : Option Nat)) ∧
    ((msgS rd5 [] {}).msg 8 = none ∧ (msgS rd5 [] {}).msg 7 = some rd5) ∧
    ((msgS (.own 0 0 5 64 0 none 0) [] {}).msg 7 = some (.own 0 0 5 64 0 none 0)) ∧
    ((msgS (.write 0 0 5 64 1 0 0 0) [] {}).msg 7 = some (.write 0 0 5 64 1 0 0 0)) ∧
    ((msgS (.amo 0 0 5 64 8 .add 1 0 0 0) (homes1 none true) {}).msg 7 = some (.amo 0 0 5 64 8 .add 1 0 0 0) ∧
      ((msgS (.amo 0 0 5 64 8 .add 1 0 0 0) (homes1 none true) {}).dropMsg 7).poisoned (64 / 64 * 64) = false ∧
      (amoResult .add 8 (((msgS (.amo 0 0 5 64 8 .add 1 0 0 0) (homes1 none true) {}).dropMsg 7).readNat 64 8) 1 0).2 = true) ∧
    ((msgS (.lrRead 0 0 5 64 8 0 0) [] {}).msg 7 = some (.lrRead 0 0 5 64 8 0 0)) := by decide +kernel

/-- The clocks of a home have no premise beyond the names of its granules. -/
theorem witness_HomeClocks : ∃ g, g = (({} : Home).merge false 64).granule false 64 := ⟨_, rfl⟩

def l1s (s : L1State) : Hart := { status := .running, l1 := [(l1Key 1 5, { line40 with st := s })] }

/-- Eight owned lines in one set of an L1. -/
def fullL1 : State := { harts := [(0, { l1 := (List.range 8).map (fun i => (l1Key (128 * (i + 1)) 5, line40)) })] }

theorem witness_CoherenceReplies :
    ((msgS (.fill 5 64 0 0) [] {}).msg 7 = some (.fill 5 64 0 0)) ∧
    ((msgS (.recallMsg 5 64 0 0) [] (l1s .owned)).msg 7 = some (.recallMsg 5 64 0 0) ∧
      (((msgS (.recallMsg 5 64 0 0) [] (l1s .owned)).dropMsg 7).hart 0).surrender (l1Key (lineNo 64) 5)
        = (((l1s .owned).surrender (l1Key 1 5)).1, some line40) ∧
      ((l1s .shared).surrender (l1Key 1 5)).2 = none) ∧
    (((l1s .owned).headWants (l1Key 1 5)) = false ∧ (l1s .owned).l1At (l1Key 1 5) = some line40 ∧
      (l1s .shared).l1At (l1Key 1 5) = some { line40 with st := .shared } ∧
      (l1s .pending).l1At (l1Key 1 5) = some { line40 with st := .pending } ∧ ({} : Hart).l1At (l1Key 1 5) = none) ∧
    ((msgS (.recallReply 0 0 5 64 1 2 none false) [] {}).msg 7 = some (.recallReply 0 0 5 64 1 2 none false) ∧
      (msgS (.evict 0 1 5 64 1 2 none false) [] {}).msg 7 = some (.evict 0 1 5 64 1 2 none false) ∧ (msgS rd5 [] {}).incOf 0 ≠ 1) ∧
    ((msgS (.readReply 0 5 64 1 9 (some 3) false .hbm false 0) [] {}).msg 7 = some (.readReply 0 5 64 1 9 (some 3) false .hbm false 0) ∧
      ((({} : Hart).ld.any (fun p => p.kind == .line && p.key == l1Key (lineNo 64) 5)) = false) ∧
      ((({ ld := some { kind := .line, key := l1Key 1 5 } } : Hart).ld.any (fun p => p.kind == .line && p.key == l1Key (lineNo 64) 5)) = true) ∧
      (((l1s .shared).l1At (l1Key (lineNo 64) 5)).all (fun l => l.st != .pending)) = true) ∧
    ((msgS (.ownReply 0 5 64 1 9 none false .hbm 0) [] {}).msg 7 = some (.ownReply 0 5 64 1 9 none false .hbm 0)) ∧
    ((msgS (.ack 0 5 64 9 0 false) [] {}).msg 7 = some (.ack 0 5 64 9 0 false) ∧
      (msgS (.vaultAck 0 64 9) [] {}).msg 7 = some (.vaultAck 0 64 9)) ∧
    ((msgS (.ownReply 0 5 64 1 9 none false .hbm 0) [] {}).overtakes 7 0 5 64 = false ∧
      ({ msgS (.ownReply 0 5 64 1 9 none false .hbm 0) [] {} with msgs := [(6, .ownReply 0 5 64 1 9 none false .hbm 0),
        (7, .ownReply 0 5 64 1 9 none false .hbm 0)] } : State).overtakes 7 0 5 64 = true ∧
      ({} : State).fits 0 (max 1 9) = true ∧ ({} : State).fits 0 0x1000000 = false) ∧
    ((({} : State).l1Room 0 (l1Key 1 5)).isSome = true ∧ (fullL1.hart 0).l1At 0 = none ∧ 8 ≤ ((fullL1.hart 0).l1Set 0).length ∧
      ((fullL1.hart 0).l1Set 0).all (fun l => l.2.st == .pending) = false) ∧
    ((msgS (.fill 5 64 0 0) [] {}).fillDead 5 64 = none ∧
      (({ msgS (.fill 0x400 64 0 0) [] {} with dieLinks := [(0, { down := true })] } : State).fillDead 0x400 0).isSome = true ∧
      (({} : State).home 5).rivals false (lineNo 64) = [] ∧ (({} : State).home 5).holds (lineNo 64) = false) ∧
    ((({} : State).hart 0).driftAt + (({} : State).hart 0).dev.drift.toNat ≤ ({ cycle := 1024 } : State).cycle ∧
      ({} : State).hartPresent 0 = true ∧ ({ cycle := 1023 } : State).cycle < (({} : State).hart 0).driftAt + (({} : State).hart 0).dev.drift.toNat) ∧
    ((msgS (.ack 0 5 64 9 0 false) [] {}).overtakes 7 0 5 64 = false ∧ ({} : Hart).cachesAck (l1Key 1 5) = false) ∧
    ((msgS (.vaultWrite 0 0 (vaultAddr 0 0) 1 5 0) [] {}).msg 7 = some (.vaultWrite 0 0 (vaultAddr 0 0) 1 5 0) ∧
      (msgS (.vaultWrite 0 0 (vaultAddr 0 0) 1 5 0) [] {}).msgs.all (fun e => decide (7 ≤ e.1)) = true) ∧
    ((({ rtu := {}, homes := [(5, { held := [{ hart := 0, inc := 0, line := 64, pts := 0, w := 0, lease := 1, asid := 0 }] })] } : State).home 5).held[0]?
      = some { hart := 0, inc := 0, line := 64, pts := 0, w := 0, lease := 1, asid := 0 }) ∧
    ((({ quads := [(0, { watches := [{ unit := 64, hart := 0 }] })] } : State).quad 0).watches[0]? = some { unit := 64, hart := 0 }) ∧
    ((msgS (.hostFetch 0x3000 64 false) [] {}).msgs.find? (fun m => match m.2 with
      | .hostFetch h' l' _ => h' == 0x3000 + 0 && l' == 64 | _ => false) = some (7, .hostFetch (0x3000 + 0) 64 false)) := by decide +kernel

/-- A die whose clock has passed the limit; a line of proxy 0 that the host has asked for; requests to the host. -/
def sDue : State := { harts := [(0, { pts := 2 ^ 64 })], dies := [(1, { rebasing := true, acked := [] })] }
theorem witness_HostLines :
    (0 < 4 ∧ (sDue.die 0).rebasing = false ∧ sDue.rebaseDue 0 = true ∧ sDue.rebaseDue 2 = false) ∧
    ((sDue.die 1).rebasing = true ∧ sDue.isHome 5 = true ∧ (sDue.die 1).acked.contains 5 = false) ∧
    (({ sDue with dies := [(1, { rebasing := true, acked := List.replicate sDue.homeCount 0 })] } : State).homeCount = sDue.homeCount) ∧
    (2 ≤ 2 ∧ ((msgS rd5 (homes1 none true) {}).home (0x3000 + 0)).holds (lineNo (64 / 64 * 64)) = true ∧
      ((msgS rd5 (homes1 none true) {}).port 0).up = true ∧ ((msgS rd5 [] {}).home 0x3000).holds 1 = false) ∧
    ((({ homes := [(0x3000, { lines := [(1, { snoop := some true })] })] } : State).home (0x3000 + 0)).line (lineNo (64 / 64 * 64))).snoop = some true ∧
    (({ homes := [(0x3000, { lines := [(1, { snoop := some true })] })] } : State).leasesOver (0x3000 + 0) 64 = true) ∧
    (({ harts := [(0, { l1 := [(l1Key 1 0x3000, { line40 with st := .shared, kind := .hostC, rts := 9 })] })] } : State).leasesOver 0x3000 64 = false) ∧
    ((hreq (.amo 0 0 64 8 .add 1 0)).hostReq 7 = some (.amo 0 0 64 8 .add 1 0) ∧
      ((hreq (.amo 0 0 64 8 .add 1 0)).dropReq 7).poisoned 64 = false ∧
      ({ hreq (.amo 0 0 64 8 .add 1 0) with poison := [1] } : State).poisoned 64 = true) ∧
    ((hreq (.amoC 0 0 0 64 8 .add 1 0 0)).hostReq 7 = some (.amoC 0 0 0 64 8 .add 1 0 0) ∧
      ((hreq (.amoC 0 0 0 64 8 .add 1 0 0)).home (0x3000 + 0)).holds (lineNo (64 / 64 * 64)) = false ∧
      ((hreq (.amoC 0 0 0 64 8 .add 1 0 0)).home (0x3000 + 0)).owner (lineNo (64 / 64 * 64)) = none ∧
      ((hreq (.amoC 0 0 0 64 8 .add 1 0 0)).home (0x3000 + 0)).held = []) ∧
    ((hreq (.load 0 0 64 8)).hostReq 7 = some (.load 0 0 64 8) ∧ (hreq (.load 0 0 64 8)).poisoned 64 = false ∧
      ({ hreq (.load 0 0 64 8) with poison := [1] } : State).poisoned 64 = true ∧ (hreq (.copy 9 0)).hostReq 7 = some (.copy 9 0) ∧
      (hreq (.zlr 0 0 1)).hostReq 7 = some (.zlr 0 0 1) ∧ (hreq (.zlrLaunch 1 0)).hostReq 7 = some (.zlrLaunch 1 0)) := by decide +kernel

/-! ## Launches, apertures, links, agents, power -/

/-- A launch record: asid, kind, flags, root, arguments, their length, the completion address. -/
def rec_ (asid kind flags root args len done : Nat) : BitVec 512 :=
  BitVec.ofNat 512 (asid + kind * 2 ^ 16 + flags * 2 ^ 24 + root * 2 ^ 64 + args * 2 ^ (8 * 0x18) + len * 2 ^ (8 * 0x20) + done * 2 ^ (8 * 0x28))
def tenantL (pend slots : Nat) : Tenant := { tenant5 with pendingCap := pend, argSlots := slots, argPool := 0x1000008000 }
def launch1 (phase : LaunchPhase) (rec : BitVec 512) : Launch := { asid := 5, port := 0, record := rec, phase := phase, slotIdx := some 0 }
def sLa (t : Tenant) (ls : List (Nat × Launch)) (r : List (Nat × HostReq)) : State :=
  { st5 (h5 []) [] with
    disp := { disp5 with tenants := [(5, t)], tasks := [], launches := ls, nextLaunch := 9 }, hostReqs := r,
    launchPorts := [(5, { opened := true })] }

theorem witness_Launches_records :
    (2 ≤ 2 ∧ 65536 ≤ 65536 ∧ ((sLa (tenantL 1 1) [] []).port 0).up = true ∧ ((sLa (tenantL 1 1) [] []).launchPort 6).opened = false) ∧
    ((sLa (tenantL 1 1) [] []).rtu.boot = .released ∧ ((sLa (tenantL 1 1) [] []).launchPort 5).opened = true) ∧
    (recDone (rec_ 5 0 0 0x1000000000 0 0 1) % 32 ≠ 0 ∧ recDone (rec_ 5 0 0 0x1000000000 0 0 32) % 32 = 0 ∧
      (sLa (tenantL 1 1) [] []).tenant 5 = some (tenantL 1 1)) ∧
    ((tenantL 0 0).pendingCap ≤ (sLa (tenantL 0 0) [] []).pendingOf 5 ∧
      ((tenantL 1 1).argSlots ≠ 0 ∧ ({ tenantL 1 1 with argUsed := [0] } : Tenant).freeArg = none ∧ recLen (rec_ 5 0 0 0 0 1 0) ≠ 0)) ∧
    ((sLa (tenantL 1 1) [] []).pendingOf 5 < (tenantL 1 1).pendingCap ∧ (tenantL 1 1).freeArg.isSome = true ∧ (tenantL 1 0).argSlots = 0 ∧
      ((sLa (tenantL 1 1) [] []).disp.launches.filter (fun l => l.2.port == 0 && l.2.waiting)).length < 1024) ∧
    (badRecord (rec_ 6 0 0 0 0 0 0) 5 0 = true ∧ badRecord (rec_ 5 0 0 0x1000000000 0 0 0) 5 0 = false ∧ recLen (rec_ 5 0 0 0x1000000000 0 0 0) = 0 ∧
      (sLa (tenantL 1 1) [] []).rtu.auditFull = false ∧ auditFull.auditFull = true) := by decide +kernel

def recA : BitVec 512 := rec_ 5 0 0 0x1000000000 0x1000 64 32
def sArg : State := sLa (tenantL 1 1) [(3, launch1 .reading recA)] [(7, .args 3 0)]
def sReady : State := sLa (tenantL 1 1) [(3, launch1 .ready recA)] []

/-- Arguments that were read, poisoned or not; a launch whose turn has come, with a root that can be taken or that cannot. -/
theorem witness_Launches_submit :
    (sArg.launchAt 3 = some (launch1 .reading recA) ∧ sArg.argsReq 3 = some 7 ∧
      (sArg.dropReq 7).rangePoisoned (Config.hostBase + recArgs (launch1 .reading recA).record) (recLen (launch1 .reading recA).record) = false ∧
      ({ sArg with poison := [lineNo (Config.hostBase + 0x1000)] } : State).rangePoisoned (Config.hostBase + recArgs recA) (recLen recA) = true ∧
      (sArg.dropReq 7).tenant (launch1 .reading recA).asid = some (tenantL 1 1) ∧ (launch1 .reading recA).slotIdx = some 0 ∧
      ((sArg.dropReq 7).tenantWrite 5 ((tenantL 1 1).argPool + 4096 * 0)
        ((sArg.dropReq 7).peekBytes (Config.hostBase + recArgs recA) (recLen recA)) 0).isSome = true) ∧
    (sReady.launchAt 3 = some (launch1 .ready recA) ∧ sReady.launchTurn 3 (launch1 .ready recA) = true ∧ (launch1 .reading recA).phase ≠ .ready ∧
      (sLa (tenantL 1 1) [(2, launch1 .reading recA), (3, launch1 .ready recA)] []).launchTurn 3 (launch1 .ready recA) = false) ∧
    (sReady.prepareRoot (launch1 .ready (rec_ 5 0 0 1 0 0 0)) (tenantL 1 1) = none ∧
      (sReady.prepareRoot (launch1 .ready recA) (tenantL 1 1)).map (fun x => (x.2.submit 5 (recRoot recA) 0 (some 3) none 0).1) = some 0 ∧
      ((sLa (tenantL 1 1) [] []).submit 5 0x1000000080 0 (some 3) none 0).1 = 4) := by decide +kernel

def lEnd (ports : List Nat) (sent : Bool) : Launch := { launch1 .submitted recA with ports := ports, zlrSent := sent }

theorem witness_Launches_done :
    ((launch1 .ready recA).phase ≠ .submitted ∧ ({ launch1 .submitted recA with live := 1 } : Launch).live ≠ 0 ∧
      ({ sLa (tenantL 1 1) [] [] with harts := [(0, { h5 [] with status := .stopping, sb := [sb1] })] } : State).storesLeft 5 = true) ∧
    ((lEnd [0] false).phase = .submitted ∧ (lEnd [0] false).live = 0 ∧ (sLa (tenantL 1 1) [(3, lEnd [0] false)] []).storesLeft 5 = false ∧
      recKind (lEnd [0] false).record ≠ 1 ∧ (lEnd [0] false).ports.filter (fun p => ((sLa (tenantL 1 1) [] []).port p).up) ≠ [] ∧
      (lEnd [0] true).zlrSent = true ∧ (lEnd [] false).ports.filter (fun p => ((sLa (tenantL 1 1) [] []).port p).up) = [] ∧
      (sLa (tenantL 1 1) [] []).hostReqs.any (fun r => match r.2 with | .zlrLaunch x _ => x == 3 | _ => false) = false) ∧
    (({ sLa (tenantL 1 1) [] [] with ports := [(0, { up := false })] } : State).port 0).up = false ∧
    (recDone recA + 32 ≤ 2 ^ 55) ∧
    (recKind (rec_ 5 1 0 0x1000000000 0 0 32) = 1 ∧ (sLa (tenantL 1 1) [(2, launch1 .ready recA), (3, lEnd [0] false)] []).disp.launches.any (fun e =>
      decide (e.1 < 3) && e.2.asid == 5) = true) := by decide +kernel

/-- Port 1's page 0 is mapped to the frame at 2^30, at its physical homes. -/
def sAp (b : BootPhase) : State :=
  { st5 (h5 []) [] with rtu := { boot := b, keys := [(0, 1), (2, 3)] }, ports := [(1, { bar4 := [(0, (0x40000000, 0, 0))] })] }

theorem witness_Launches_apertures :
    (0x200000 < 0x1fffff + 2 ∧ 0x1ffffe + 2 ≤ 0x200000 ∧ ((sAp .released).port 1).up = true) ∧
    (Store.find? ((sAp .released).port 0).bar4 0 = none ∧ 64 ≤ 64 - 0 % 64) ∧
    (((sAp .released).apertureAt 1 0 0).isSome = true ∧ 0 < 64) ∧
    ((sAp .recovery).rtu.boot = .recovery ∧ 15 < 16 ∧ 16 ≤ 16) ∧ ((sAp .recovery).rtu.boot ≠ .released) ∧
    ((sAp .released).apertureRead 0 0 (linePieces 0 64 65) = none ∧ ((sAp .released).apertureRead 1 0 (linePieces 0 64 65)).isSome = true) := by
  decide +kernel

theorem witness_Links :
    (((hreq (.load 0 0 64 8)).port 0).up = true ∧ ({ ports := [(0, { up := false })] } : State).port 0 = { up := false }) ∧
    ((hreq (.load 0 0 64 8)).hostReq 6 = none ∧ (hreq (.load 0 0 64 8)).hostReq 7 = some (.load 0 0 64 8) ∧
      (hreq (.amo 0 0 64 8 .add 1 0)).hostReq 7 = some (.amo 0 0 64 8 .add 1 0) ∧
      (hreq (.amoC 0 0 0 64 8 .add 1 0 0)).hostReq 7 = some (.amoC 0 0 0 64 8 .add 1 0 0)) ∧
    ((hreq (.load 0 0 64 8)).msg 6 = none ∧ ({ msgs := [(6, .hostFetch 0x3000 64 false)] } : State).hostReq 6 = none ∧
      ({ msgs := [(6, .hostFetch 0x3000 64 false)] } : State).msg 6 = some (.hostFetch 0x3000 64 false) ∧
      (({ msgs := [(6, .hostFetch 0x3000 64 false), (8, .read 0 0 0x3000 64 0 none 16 0 0)] } : State).dropMsg 6).msgs.find? (fun m =>
        m.2.request.any (fun r => r.2 == (0x3000, 64))) = some (8, .read 0 0 0x3000 64 0 none 16 0 0)) ∧
    (({ sBusy with hostReqs := [(7, .copy 9 0)] } : State).hostReq 7 = some (.copy 9 0) ∧
      (({ sBusy with hostReqs := [(7, .copy 9 0)] } : State).dropReq 7).transfer 9 = some (xfer .moving)) ∧
    (4 ≤ 4 ∧ 3 < 4 ∧ ({ dieLinks := [(3, { down := true })] } : State).linkDown 3 = true ∧ ({} : State).linkDown 3 = false) ∧
    (15 ≤ (Store.get {} ({ dieLinks := [(3, { fails := 15 })] } : State).dieLinks 3).fails ∧
      (Store.get {} ({ dieLinks := [(3, { fails := 14 })] } : State).dieLinks 3).fails < 15) := by decide +kernel

/-- A hart whose recall is not answered, and one that has died twice; a line that the dead incarnation owns. -/
def sAg : State :=
  { rtu := { reported := [0, 0x3001] }, msgs := [(7, .recallMsg 5 64 0 0)],
    homes := [(5, { lines := [(1, { owner := some (0, 3) })] })] }

/-- A copy engine and a controller of a stack that are to be declared dead. -/
def sAgs : State := { rtu := { reported := [0x1005, 0x2007] } }

theorem witness_AgentsAndPower :
    (sAg.isAgent 0 = true ∧ sAg.deathsOf 0 < 2 ∧ sAg.awaitedAgent 0 = true ∧ sAg.awaitedAgent 1 = false ∧ sAg.isAgent 0x3002 = false ∧
      2 ≤ ({ harts := [(0, { deaths := 2 })] } : State).deathsOf 0) ∧
    (sAg.rtu.reported.contains 1 = false ∧ sAg.rtu.reported.contains 0 = true ∧ 0 < 0x1000 ∧ sAg.rtu.reported.contains 0x3001 = true) ∧
    (((sAg.home 6).lines.filter (fun l => l.2.owner.any (fun o => o.1 == 0 && o.2 != sAg.incOf 0))) = [] ∧
      ((sAg.home 5).lines.filter (fun l => l.2.owner.any (fun o => o.1 == 0 && o.2 != sAg.incOf 0))) = [(1, { owner := some (0, 3) })]) ∧
    (7 < 8 ∧ Store.Rising sAg.corrected ∧ ∃ bad n, Config.patrolErrors sAg.free 7 = (bad, n)) ∧
    (({ hot := true } : Power).hot = true ∧ ({} : Power).hot = false ∧ 2800000 * 1 < ({ samples := [2800001] } : Power).samples.sum ∧
      ({ samples := [2659999] } : Power).samples.sum < 2660000 * 1 ∧ 2660000 * 1 ≤ ({ samples := [2660000] } : Power).samples.sum ∧
      ({ samples := [2800000] } : Power).samples.sum ≤ 2800000 * 1) ∧
    (sAgs.rtu.reported.contains 0x1005 = true ∧ sAgs.rtu.reported.contains 0x2007 = true ∧ 7 < 0x1000) ∧
    (4 ≤ 4 ∧ 16 ≤ 16 ∧ 3 < 4 ∧ 15 < 16 ∧ 110 ≤ 110 ∧ 109 < 110) :=
  ⟨by decide +kernel, by decide +kernel, by decide +kernel, ⟨by decide, List.Pairwise.nil, _, _, rfl⟩, by decide +kernel, by decide +kernel, by decide⟩

/-! ## Transfers as they move, the dispatcher, starts, boundaries, contexts -/

def xMv : Transfer := { (cp 6 1 1).build sX0 with id := 9 }
def sMv (t : Transfer) : State := sXfer (h5 []) [t]
/-- A request of the port queue of quad 0; the same whose remote handle is not in a vault. -/
def xPort : Transfer := { xMv with kind := .getx, checked := false }
def sPort : State := { sXfer (h5 []) [xPort] with quads := [(0, { transfers := [xPort], portq := [9] })] }
/-- A subscription and a drain on the ring of two slots. -/
def xSub (k : XKind) (pos : Nat) (phase : XPhase) : Transfer :=
  { xMv with kind := k, region := box1 0 16, pos := pos, phase := phase, ladles := [0], ring := qb 2 }
def sSub (ts : List Transfer) (m : List Host.Cell) : State := { sQ 2 m with quads := [(0, { transfers := ts, blocks := [(0, { asid := 5, kind := .data })] })] }

theorem witness_CopyEngine :
    ((sMv (xfer .done)).nextSegment 0 = none ∧ ((sMv xMv).nextSegment 0).map (·.1) = some 0 ∧
      ((sMv xMv).ensureTiles xMv).xferActive xMv = true ∧
      (sMv { xMv with checked := false }).xferActive { xMv with checked := false } = false) ∧
    (firstSome (fun id => ((sMv xMv).transfer id).filter (fun t => !t.checked && t.phase == .moving)) (((sMv xMv).quad 0).portq.take 64) = none ∧
      firstSome (fun id => (sPort.transfer id).filter (fun t => !t.checked && t.phase == .moving)) ((sPort.quad 0).portq.take 64) = some xPort) ∧
    ((sMv xMv).transfer 8 = none ∧ (sMv xMv).transfer 9 = some xMv ∧ xMv.phase ≠ .finished ∧ xMv.kind ≠ .copyb ∧
      (sMv { xMv with phase := .finished }).transfer 9 = some { xMv with phase := .finished } ∧
      (sMv { xMv with phase := .finished, kind := .copyb }).transfer 9 = some { xMv with phase := .finished, kind := .copyb }) ∧
    ((sSub [xSub .ldsub 0 .queued] []).transfer 9 = some (xSub .ldsub 0 .queued) ∧
      (sSub [xSub .ldsub 0 .queued] []).streamRoom (xSub .ldsub 0 .queued) = true ∧
      (sSub [xSub .ldsub 0 .queued] []).allTransfers.any (fun o => decide (o.id < 9) && o.phase == .queued &&
        o.ladles.any (xSub .ldsub 0 .queued).ladles.contains && (sSub [xSub .ldsub 0 .queued] []).streamRoom o) = false ∧
      ({ sSub [] [] with ladleDeaths := [(0, 2)] } : State).streamRoom (xSub .ldsub 0 .queued) = false) ∧
    ((xSub .ldsub 0 .moving).use = none ∧ (xSub .lddrn 0 .moving).kind = .lddrn ∧
      ({ xSub .ldsub 0 .moving with use := some { slot := 0, used := 16 } } : Transfer).use.isSome = true) ∧
    ((sSub [] (ringMem 0 0 0 1)).ringStatus (xSub .ldsub 0 .moving) [(xSub .ldsub 0 .moving).ring.unit] = none ∧
      (xSub .ldsub 0 .moving).pos < (xSub .ldsub 0 .moving).region.count ∧
      ((sSub [] (ringMem 0 0 0 1)).ring (xSub .ldsub 0 .moving).ring.at_).eos = true ∧
      ((sSub [] (ringMem 2 0 0 0)).ring (xSub .ldsub 0 .moving).ring.at_).eos = false ∧
      (sSub [] (ringMem 2 0 0 0)).ringAcquire (xSub .ldsub 0 .moving).ring.at_ (xSub .ldsub 0 .moving).clk = none ∧
      (sSub [] (ringMem 2 0 0 0)).ringTake (xSub .lddrn 0 .moving).ring.at_ (xSub .lddrn 0 .moving).clk = none ∧
      (xSub .ldsub 16 .moving).region.count ≤ (xSub .ldsub 16 .moving).pos ∧ (xSub .ldsub 16 .moving).desc.getLsbD 8 = false) := by
  decide +kernel

/-- The window of send queue 0 of port 0: the first 4096 bytes of quad 0's vault, in address space 5, with counter 0. Where the table lies
is not stated. -/
def sNet : State := { st5 (h5 []) [] with mem := [(sqAddr 0 0 + 4, 5), (sqAddr 0 0 + 0x15, 0x7e), (sqAddr 0 0 + 0x19, 0x10)] }
def win0 : NetWindow := { asid := 5, base := 0x7e0000000000, len := 4096, counter := 0 }
def xNet (k : XKind) : Transfer := { xMv with kind := k, sent := true, n := 16 }

theorem sNet_window : sNet.netWindow 0 0 = win0 := by
  simp [State.netWindow, State.peekNat, State.peekBytes, sNet, st5, State.readBytes, cellBytes, ofBytes, List.replicate, win0]

theorem sNet_none (v : State) (acc : Access) : v.netPlaces 0 win0 acc 4090 8 = none := if_pos (by decide)
theorem sNet_empty (v : State) (acc : Access) : v.netPlaces 0 win0 acc 64 0 = some [] := by
  simp [State.netPlaces, NetWindow.pieces, linePieces, win0]

/-- Whatever the reading of the entry changes, a range beyond the window is refused, and an empty one inside it is not. -/
theorem witness_Network :
    (({ netDown := [3] } : State).netDown.contains 3 = true ∧ 12 ≤ 12 ∧ sNet.netDown.contains 0 = false ∧ 0 < 12) ∧
    ((sNet.netWindow 0 0).len < 4090 + 8 ∧ (sNet.netTouch 0 0 .store 4090 8).netPlaces 0 (sNet.netWindow 0 0) .store 4090 8 = none ∧
      (sNet.netTouch 0 0 .store 64 0).netPlaces 0 (sNet.netWindow 0 0) .store 64 0 = some [] ∧
      (sNet.netTouch 0 0 .load 4090 8).netPlaces 0 (sNet.netWindow 0 0) .load 4090 8 = none ∧
      (sNet.netTouch 0 0 .load 64 0).netPlaces 0 (sNet.netWindow 0 0) .load 64 0 = some []) ∧
    ((sNet.netPlaces 0 (sNet.netWindow 0 0) .store 64 8).map (·.map (·.1)) = some [8] ∧
      (sNet.netPlaces 0 (sNet.netWindow 0 0) .load 64 8).map (·.map (·.1)) = some [8]) ∧
    ((sMv (xNet .copyn)).transfer 9 = some (xNet .copyn) ∧ (xNet .copyn).phase = .moving ∧ (xNet .copyn).onNet = true ∧
      (sMv (xNet .getr)).transfer 9 = some (xNet .getr) ∧ (xNet .getr).kind = .getr) := by
  rw [sNet_window]
  exact ⟨by decide +kernel, ⟨by decide, sNet_none .., sNet_empty .., sNet_none .., sNet_empty ..⟩, ⟨by decide +kernel, by decide +kernel⟩,
    by decide +kernel⟩

/-! Tasks that wait, are ready, have a count; decrements and withdrawals. -/

def rdy (addr : Nat) : Task := { task5 addr 2 with members := [] }
def sOrd (ts : List (Nat × Task)) (decs : List Dec) (wds : List Wd) : State :=
  { st5 (h5 []) [] with disp := { disp5 with tasks := ts, decs := decs, wds := wds } }
def dec (target : Nat) : Dec := { target := target, asid := 5, producer := 0, abs := false, time := 7, sub := 2 }
def wdr (target : Nat) : Wd := { target := target, asid := 5, by_ := 2 }
def held (count demand state : Nat) : Task := { rdy 0x1000000040 with count := count, demand := demand, state := state }

theorem witness_ReadyOrder_pairing :
    (firstTask taskBefore [(3, rdy 64), (4, { rdy 128 with cls := 1 })] = some (3, rdy 64) ∧ ([(3, rdy 64)] : List (Nat × Task)) ≠ [] ∧
      ({ sOrd [] [] [] with disp := { disp5 with tasks := [], tenants := [(5, { tenant5 with reserve := 2 })] } } : State).belowReserve 5 = true) ∧
    (({ sOrd [] [] [] with halted := true } : State).dispatching = false ∧ (sOrd [] [] []).dispatching = true) ∧
    ((sOrd [] [] []).arbiterPick 0 = none ∧ 0 < 4 ∧
      ({ sOrd [(3, { rdy 64 with die := 1 })] [] [] with harts := [(0, { status := .free })] } : State).arbiterPick 0 = some 3 ∧
      (sOrd [] [] []).starved 0 = []) ∧
    ((3, rdy 64) ∈ (sOrd [(3, rdy 64)] [] []).readyOn 0) := by decide +kernel

/-- Task 7 of a tenant below its reserve, with every hart of the module held by others; task 8 may be stopped for it. -/
def ten (r : Nat) : Tenant := { tenant5 with reserve := r }
def sStarve : State :=
  { st5 (h5 []) [] with
    harts := [(0, { h5 [] with task := some 8 }), (1, hx .u []), (2, hx .u []), (3, hx .u [])],
    disp := { disp5 with tenants := [(5, ten 1), (6, ten 0)],
                         contexts := [(1, { asid := 6, image := 0x50000000, quad := 0 }), (2, { asid := 5, image := 0x50200000, quad := 0 })],
                         tasks := [(7, rdy 64), (8, { task5 128 4 with asid := 6 })] } }

theorem witness_ReadyOrder_preemption :
    (firstTask taskBefore (sStarve.starved 0)).map (·.1) = some 7 ∧
    (firstTask (fun a b => taskBefore b a) (sStarve.disp.tasks.filter (sStarve.victimOk 5 (rdy 64)))).map (·.1) = some 8 := by decide +kernel

theorem witness_ReadyOrder_counts :
    ((sOrd [] [] []).disp.decs[0]? = none ∧ (sOrd [] [dec 64] []).disp.decs[0]? = some (dec 64) ∧
      (sOrd [] [dec 64] []).tcbPlace 5 .store 64 = none ∧ ((sOrd [] [] []).tcbPlace 5 .store 0x1000000040).isSome = true ∧
      ((sOrd [(3, held 2 1 1)] [] []).heldTask 5 0x1000000040).isSome = true ∧ (sOrd [] [] []).heldTask 5 64 = none) ∧
    ((sOrd [(3, held 0 1 1)] [] []).task 3 = some (held 0 1 1) ∧ (held 0 1 1).ending = none ∧ (held 0 1 1).count = 0 ∧
      (held 1 1 1).count = 1 ∧ (held 1 1 1).state = 1 ∧ 1 < (held 2 1 1).count ∧ (held 2 1 1).tcb.nonstrict = false) ∧
    ((sOrd [] [] []).disp.wds[0]? = none ∧ (sOrd [] [] [wdr 64]).disp.wds[0]? = some (wdr 64) ∧
      (sOrd [(3, held 0 2 1)] [] []).heldTask 5 0x1000000040 = some (3, held 0 2 1) ∧ 1 < (held 0 2 1).demand ∧
      (held 0 1 1).demand = 1 ∧ (held 0 1 1).state = 1) := by decide +kernel

/-! A task that has been sent to hart 0, new or saved; a gang. -/

def sDsp (saved : Bool) : State :=
  { st5 { h5 [] with status := .dispatched } [] with
    disp := { disp5 with tasks := [(3, { task5 0x1000000040 3 with members := [{ hart := 0, ctx := 1, slot := 0, rank := 0, saved := saved }] })] } }
def gangT : Task := { task5 0x1000000040 3 with tcb := { tcb0 with gangLevel := 1, flags := 2 } }
def sGang : State := { st5 { h5 [] with status := .taken } [] with disp := { disp5 with tasks := [(3, gangT)] } }

theorem witness_TaskStarts :
    ((sDsp true).dispatched 0 false = none ∧ (sDsp false).dispatched 0 true = none ∧ (sDsp false).dispatched 0 false = some 3 ∧
      (sDsp true).dispatched 0 true = some 3) ∧
    (((sDsp false).task 3).isSome = true ∧ ((sDsp false).hart 0).ctx = some 1 ∧
      ((sDsp false).task 3).any (fun t => t.members.any (fun m => m.hart == 0 && m.saved)) = false ∧
      (sDsp false).eagerPoisoned 1 ((sDsp false).hart 0).slot = false) ∧
    (sGang.task 3 = some gangT ∧ gangT.tcb.gang = true ∧ gangT.state = 3 ∧ sGang.dispatching = true ∧
      gangT.members.all (fun m => (sGang.hart m.hart).status == .taken) = true ∧
      ({ sGang with halted := true } : State).dispatching = false) ∧
    ((sDsp false).task 3).any (fun t => t.wdHeld.isNone) = true := by decide +kernel

/-! An interrupt, a spent budget, a parked hart, a message. -/

def hInt : Hart := { h5 [] with priv := { ({} : PrivCsrs) with mie := 0x20, mip := 0x20 } }
def sPark (m : List Host.Cell) (cyc : Nat) : State :=
  { sStage m with harts := [(0, { h5 [] with status := .parked, parkedCycles := cyc })],
                  disp := { (sStage m).disp with assigned := [(0, (5, 1)), (1, (5, 1))] } }
def sMailed : State := { st5 (h5 []) [] with disp := { disp5 with mails := [{ ctx := 1, slot := 0, mail := { hdr := 0, p0 := 1, p1 := 2, time := 3 } }] } }

theorem witness_Boundaries :
    (hInt.interruptible = true ∧ hInt.stopDue = false ∧ ({ h5 [] with stopReq := true } : Hart).stopDue = true ∧ hInt.interrupt = some 5 ∧ (h5 []).interrupt = none) ∧
    ((h5 []).budgetDue = true ∧ (h5 []).status = .running ∧ (h5 []).interruptible = true ∧ (h5 []).stopDue = false ∧
      ({ h5 [] with dev := { ({} : DevCsrs) with remain := 1 } } : Hart).budgetDue = false) ∧
    ((h5 []).ld = none) ∧
    (((sPark [] 0).hart 0).status = .parked ∧ ((sPark [] 0).hart 0).task = some 3 ∧ ((sPark [] 0).task 3).isSome = true ∧
      (sPark (ring1 0 0) 0).ringReady taskSt = false ∧ (sPark (ring1 0 1) 0).ringReady taskSt = true ∧
      ((sPark [] 8191).hart 0).parkedCycles < 8192) ∧
    (Store.find? (sPark (ring1 0 0) 8192).disp.assigned 0 = some (5, 1) ∧ ((sPark (ring1 0 0) 8192).hart 0).stopReq = false ∧
      ((sPark (ring1 0 0) 8192).tenant 5).any (fun u => (Store.find? u.stages 1).any (fun x => decide (x.min < (sPark (ring1 0 0) 8192).stageHeld 5 1))) = true) ∧
    (sMailed.disp.mails[1]? = none ∧ (sMailed.disp.mails[0]?).isSome = true ∧ sMailed.mailHart 1 0 = some 0 ∧ sMailed.mailHart 1 1 = none ∧
      (sMailed.disp.mails.take 0).any (fun o => o.ctx == 1 && o.slot == 0) = false ∧
      (sMailed.disp.mails.take 1).any (fun o => o.ctx == 1 && o.slot == 0) = true) := by decide +kernel

/-! A hart asked to stop; one that is stopping; a fill on its way; a walk; a release. -/

def sStop : State := st5 { h5 [] with stopReq := true } []
def sSaving (t : Option Nat) (c : Option Nat) : State := st5 { h5 [] with status := .stopping, task := t, ctx := c } []
def rel (x : Release) : State :=
  { st5 (h5 []) [] with harts := [], disp := { disp5 with tasks := [], contexts := [(1, { asid := 5, image := 0x50000000, quad := 0, release := some x })] } }
def rel0 : Release := { last := true }

theorem witness_Contexts_saves :
    (sStop.me.stopReady = true ∧ sStop.me.ld = none ∧ sStop.me.task = some 3 ∧ sStop.me.ctx = some 1 ∧ (sStop.task 3).isSome = true ∧
      (h5 []).stopReady = false) ∧
    ((sSaving none none).me.status = .stopping ∧ (sSaving none none).me.settled = true ∧ (sSaving none none).me.task = none ∧
      sStop.me.status ≠ .stopping) ∧
    ((sSaving (some 3) (some 1)).me.settled = true ∧ (sSaving (some 3) (some 1)).me.task = some 3 ∧
      ((sSaving (some 3) (some 1)).task 3).isSome = true ∧ (sSaving (some 3) (some 1)).me.ctx = some 1 ∧
      (((sSaving (some 3) (some 1)).imagePut 1 0 0x128 8 0 0).2.imagePut 1 0 0x178 8 0 0).2.eagerPoisoned 1 0 = false ∧
      ((({ sSaving (some 3) (some 1) with poison := [lineNo 0x50000000] } : State).imagePut 1 0 0x128 8 0 0).2.imagePut 1 0 0x178 8 0 0).2.eagerPoisoned
        1 0 = true) := by decide +kernel

/-- A walk of hart 0. -/
def wk : Walk := { id := 4, hart := 0, transfer := none, asid := 5, va := 0x1000000000, acc := 13 }

theorem witness_Contexts_rest :
    ([0, 1, 2, 3].any (sStop.slotLive 1) = true ∧ sStop.context 2 = none ∧ (rel rel0).matrixHolds 1 = false ∧
      [0, 1, 2, 3].any ((rel rel0).slotLive 1) = false ∧ ((rel rel0).context 1).isSome = true) ∧
    (sStop.fills.contains (1, (0, 33)) = false ∧ ({ sStop with fills := [(1, (0, 33))] } : State).fills.contains (1, (0, 33)) = true ∧
      sStop.imageOf 1 = some 0x50000000 ∧ sStop.rangePoisoned (0x50000000 + 0 * 0x3000 + (codePlace 33).1) (codePlace 33).2 = false) ∧
    (({ sStop with poison := [lineNo (0x50000000 + (codePlace 33).1)] } : State).rangePoisoned (0x50000000 + 0 * 0x3000 + (codePlace 33).1)
      (codePlace 33).2 = true) ∧
    (({ sStop with fills := [(1, (4, 16))] } : State).fills.contains (1, (4, 16)) = true ∧
      sStop.rangePoisoned (0x50000000 + tileOffset 16) (tileBytes 16) = false ∧
      ({ sStop with poison := [lineNo (0x50000000 + tileOffset 16)] } : State).rangePoisoned (0x50000000 + tileOffset 16) (tileBytes 16) = true) ∧
    (sStop.walks.find? (fun x => x.id == 4) = none ∧ ({ sStop with walks := [wk] } : State).walks.find? (fun x => x.id == 4) = some wk ∧
      ({ sStop with walks := [wk] } : State).walkRuns wk = true ∧
      ({ sStop with walks := List.replicate 128 { wk with id := 3 } ++ [wk] } : State).walkRuns wk = false) ∧
    (sStop.context 1 = some { asid := 5, image := 0x50000000, quad := 0 } ∧ ({ rel0 with started := true } : Release).started = true ∧
      (rel rel0).scrubReady 1 = true ∧ rel0.started = false ∧ rel0.last = true) ∧
    (({ rel0 with started := true, pendingQuads := [0, 1] } : Release).pendingQuads.contains 1 = true ∧ 1 ≠ 0 ∧
      [0, 1].filter (· != 1) ≠ [] ∧ [1].filter (· != 1) = []) := by decide +kernel

/-- Whether a scrub fails is a free value: either way a premise of its clause holds. -/
theorem witness_Contexts_scrub : Config.scrubFails (rel rel0).free 0 = none ∨ ∃ bank, Config.scrubFails (rel rel0).free 0 = some bank := by
  cases Config.scrubFails (rel rel0).free 0 with
  | none => exact .inl rfl
  | some b => exact .inr ⟨b, rfl⟩

/-! ## The machine as a whole -/

theorem witness_EncodingLengths :
    fld (0x2 : Word) 0 2 ≠ 3 ∧ fld (0x1f : Word) 0 5 = 31 ∧ fld (0x1f : Word) 5 2 ≠ 1 ∧ fld (0x3f : Word) 0 7 = 0x3f ∧
    decode 4 0x010002B7 = .ok (.integerAlu (.lui 5 0x1000)) 4 ∧ decode 8 0x000041180001253F = .ok (.rggetI 10 2 65) 8 := by decide +kernel

/-- The ill-formed term that the check refuses is in `wf_…`; a well-formed one meets the premise. -/
theorem witness_RoundTrip : WellFormed (.rggetI 10 2 65) ∧ WellFormed (.integerAlu (.lui 5 0x1000)) := ⟨by unfold WellFormed; decide +kernel, by unfold WellFormed; decide +kernel⟩

/-- Hart 0's turn, in M-mode, at an instruction, at bytes that are none, at the first half of a long instruction with no second half,
at a misaligned address. -/
def sTurn (md : Mode) (pc : Word) (m : List Host.Cell) : State :=
  { st { hx md [] with pc := pc } with agenda := [.run 0], mem := m }
/-- The same state once its turn has come. -/
def sGoes (md : Mode) (pc : Word) (m : List Host.Cell) : State := { sTurn md pc m with agenda := [], cur := 0 }

theorem witness_StepRuns_ready :
    (sTurn .m 0x1000 []).agenda = [.run 0] ∧ (sTurn .m 0x1000 []).hartPresent 0 = true ∧ (sTurn .m 0x1000 []).halted = false ∧
    (sTurn .m 0x1000 []).rtu.boot = .released ∧ (sGoes .m 0x1000 []).me.status = .running ∧ (sGoes .m 0x1000 []).me.stopDue = false ∧
    ((sGoes .m 0x1000 []).me.interruptible && (sGoes .m 0x1000 []).me.interrupt.isSome) = false ∧
    ((sGoes .m 0x1000 []).me.interruptible && (sGoes .m 0x1000 []).me.budgetDue) = false ∧ (sGoes .m 0x1000 []).me.mode ≠ .u := by
  decide +kernel

/-- What the bytes at the pc decode to, and whether the fetch traps or waits. -/
def fetched (s : State) : Option Decoded := match s.oneCycle.fetch with
  | .ok bs _ => some (decodeBytes bs)
  | _ => none
def fetchTraps (s : State) : Option (Nat × Word) := match s.oneCycle.fetch with
  | .trap c v _ => some (c, v)
  | _ => none
def fetchWaits (s : State) : Bool := match s.oneCycle.fetch with
  | .stall _ => true
  | _ => false
/-- S-mode with page tables and nothing in the TLB. -/
def sPaged : State := st { hx .s [] with priv := { ({} : PrivCsrs) with satp := 0x8000000000000001 } }

theorem witness_StepRuns_fetch :
    fetched (sGoes .m 0x1000 [(0x1000, 0xb7), (0x1001, 0x02), (0x1003, 0x01)]) = some (.ok (.integerAlu (.lui 5 0x1000)) 4) ∧
    fetched (sGoes .m 0x1000 []) = some (.reject .length) ∧
    fetchTraps (sGoes .m 0x1002 []) = some (0, 0x1002) ∧ fetchWaits sPaged = true ∧
    decodeBytes [0x3f, 0, 0, 0] = .reject .short := by decide +kernel

/-- The turn of a hart that is asked to stop, has an interrupt, has a trap before its first instruction, or whose lane may issue first. -/
def sBoundary (h : Hart) : State := { st5 h [] with agenda := [], cur := 0 }
def hInt5 (md : Mode) : Hart := { hx md [] with priv := { ({} : PrivCsrs) with mie := 0x20, mip := 0x20 } }

theorem witness_StepRuns_boundary :
    ((sBoundary { h5 [] with stopReq := true }).me.stopReady = true) ∧
    ((sBoundary (hInt5 .u)).me.stopDue = false ∧ (sBoundary (hInt5 .u)).me.interruptible = true ∧ (sBoundary (hInt5 .u)).me.interrupt = some 5) ∧
    ((sBoundary (h5 [])).me.interrupt = none ∧ (sBoundary (h5 [])).me.status = .running ∧ (sBoundary (h5 [])).me.budgetDue = true) ∧
    ((sBoundary { hx .u [] with startTraps := [(5, 0)] }).me.mode = .u ∧ (sBoundary { hx .u [] with startTraps := [(5, 0)] }).me.atBoundary = true ∧
      (sBoundary { hx .u [] with startTraps := [(5, 0)] }).me.startTraps = (5, 0) :: [] ∧
      ((sBoundary { hx .u [] with startTraps := [(5, 0)] }).me.interruptible && (sBoundary { hx .u [] with startTraps := [(5, 0)] }).me.budgetDue) = false) ∧
    (sLane.laneFirst (.vadd .f32 3 1 2) = true ∧ sLane.laneFirst (.integerAlu (.lui 5 0x1000)) = false) ∧ mcHart = 0x1000 := by decide +kernel

theorem witness_StepRuns_event :
    ({ agenda := [.event (.patrolPass 3)] } : State).agenda = [.event (.patrolPass 3)] ∧ roles (.patrolPass 3) = none ∧ isCall (.patrolPass 3) = false := by
  decide +kernel

theorem witness_NothingStops :
    (sTurn .m 0x1000 []).halted = false ∧ ({ sTurn .m 0x1000 [] with halted := true } : State).halted = true ∧
    (sTurn .m 0x1000 []).agenda = [.run 0] ∧ (sTurn .m 0x1000 []).hartPresent 0 = true ∧ 0 ≠ mcHart ∧
    (∀ h : Nat, Move.tick 3 = .run h → h = mcHart) ∧ outsideCore (.hostLinkDown 0) = true :=
  ⟨by decide +kernel, by decide +kernel, by decide +kernel, by decide +kernel, by decide, (fun _ h => by cases h), by decide⟩

/-- R333, by hand: 0x1234_5FFF takes 32 bits, its low 12 bits are −1, so hi is 0x12346. -/
theorem test_li32 : Pseudo.expand (.li 5 0x12345FFF) =
    [.integerAlu (.lui 5 0x12346), .integerAlu (.ri .addiw 5 5 0xFFF)] := by decide

/-- R333, by hand: the alias base of R210 takes two rounds of shifts. -/
theorem test_li64 : Pseudo.expand (.li 5 0x00007F0000000001) =
    [.integerAlu (.lui 5 0x7F0), .integerAlu (.sh .slli 5 5 12), .integerAlu (.sh .slli 5 5 12),
      .integerAlu (.ri .addi 5 5 1)] := by decide

/-- R332: addi x5, x6, 1 becomes a native record with b and c absent. -/
theorem test_otbasRecord : (otbasRecord (.integerAlu (.ri .addi 5 6 1)) none).map (fun r => (r.w, r.kind, r.ops)) =
    some (0x00130293, 0, [0x80000000, 0x80000000, 0xFFFFFFFF, 0xFFFFFFFF]) := by decide

/-- R200: iteration 2 of a block with a ring of 4 advances the register numbers by 2 and leaves K. -/
theorem test_iterMma : iterInstr 4 2 (.mma false 0 0 1 4 15 15) = .mma false 2 2 3 4 15 15 := by decide

/-! ## Single instructions

The expected values are the chapters' worked examples, named in each comment, or computed by hand from the rule named. -/

/-- The general register `n` after instruction `i` in M-mode with the registers `x`. -/
def runX (i : Instr) (x : List (Nat × Word)) (n : Reg) : Option Word := xOf (exec i (st (hx .m x))) n

/-- RV64: LUI sign-extends, ADDW wraps to a negative 32-bit value, SRAIW shifts the low word (R308). -/
theorem test_words_and_signs :
    runX (.integerAlu (.lui 5 0x80000)) [] 5 = some 0xFFFFFFFF80000000 ∧
    runX (.integerAlu (.rr .addw 5 1 2)) [(1, 0x7FFFFFFF), (2, 1)] 5 = some 0xFFFFFFFF80000000 ∧
    runX (.integerAlu (.sh .sraiw 5 1 31)) [(1, 0x80000000)] 5 = some 0xFFFFFFFFFFFFFFFF := by decide +kernel

/-- Division by zero and the quotient that overflows (R308: the ratified M extension). -/
theorem test_division_corners :
    runX (.integerAlu (.rr .div 5 1 2)) [(1, 7)] 5 = some 0xFFFFFFFFFFFFFFFF ∧
    runX (.integerAlu (.rr .remu 5 1 2)) [(1, 7)] 5 = some 7 ∧
    runX (.integerAlu (.rr .div 5 1 2)) [(1, 0x8000000000000000), (2, 0xFFFFFFFFFFFFFFFF)] 5 = some 0x8000000000000000 ∧
    runX (.integerAlu (.rr .rem 5 1 2)) [(1, 0x8000000000000000), (2, 0xFFFFFFFFFFFFFFFF)] 5 = some 0 := by decide +kernel

/-- x0 stays zero, and a source that is also the destination is read first. -/
theorem test_x0_and_same_register :
    runX (.integerAlu (.ri .addi 0 1 5)) [(1, 7)] 0 = some 0 ∧
    runX (.controlTransfer (.jalr 1 1 0)) [(1, 0x2001)] 1 = some 0x1004 ∧
    pcOf (exec (.controlTransfer (.jalr 1 1 0)) (st (hx .m [(1, 0x2001)]))) = some 0x2000 := by decide +kernel

/-- The region example of 16: [1,4) × [2,6), then [3,5) × [0,3), their union, its boxes and elements, and every other row of it. -/
def sRg : State := stR (hx .m [(1, 0x200000001), (2, 0), (3, 3), (5, 1)]) [(1, { d := 2, boxes := [[(1, 4), (2, 6)]], lat := [(0, 0), (0, 0)] }), (2, { d := 2, boxes := [[(3, 5), (0, 3)]], lat := [(0, 0), (0, 0)] }),
      (3, { d := 2, boxes := [[(1, 3), (2, 6)], [(3, 4), (0, 6)], [(4, 5), (0, 3)]], lat := [(0, 0), (0, 0)] })] []
def gOf (r : Result) (n : Reg) : Option Region := match r with
  | .next t => some (t.gget n)
  | _ => none
theorem test_rgpt_example :
    gOf (exec (.rgptI 1 1 2 1 0xC2) sRg) 1 = some (sRg.gget 1) ∧ gOf (exec (.rgptI 2 3 2 1 0x81) sRg) 2 = some (sRg.gget 2) := by
  decide +kernel
theorem test_rguni_example : gOf (exec (.rguni 4 1 2) sRg) 4 = some (sRg.gget 3) := by decide +kernel
theorem test_rgnbx_rgcnt_example :
    xOf (exec (.rgnbx 13 3) sRg) 13 = some 3 ∧ xOf (exec (.rgcnt 14 3) sRg) 14 = some 17 := by decide +kernel
theorem test_rglat_example :
    gOf (exec (.rglat 4 3 5) sRg) 4 = some { d := 2, lat := [(1, 0), (0, 0)], boxes := [[(2, 3), (2, 6)], [(4, 5), (0, 3)]] } := by decide +kernel

/-- The vector example of 18: the tree sum of 2^24 and fifteen ones, over every lane and without lane 0. -/
def sVec (act : Word) : State :=
  { stR { hx .m [] with k := [(1, 0xFFFE)], dev := { ({} : DevCsrs) with vactm := act } } [] [] with
    slotRegs := [(1, { v := [(1, ofLanes 32 (0x4B800000 :: List.replicate 15 0x3F800000))] })] }
def vOf (r : Result) (n : Reg) : Option Line := match r with
  | .next t => some (t.vget n)
  | _ => none
def rflagsOf (r : Result) : Option Word := match r with
  | .next t => some t.me.dev.rflags
  | _ => none
theorem test_vrsum_example : vOf (exec (.vrsum .f32 2 1) (sVec 0)) 2 = some 0x4B800007 ∧ rflagsOf (exec (.vrsum .f32 2 1) (sVec 0)) = some 1 := by
  decide +kernel
theorem test_vrsum_masked_example : vOf (exec (.vrsum .f32 3 1) (sVec 1)) 3 = some 0x41700000 := by decide +kernel

/-- The union of regions with different lattices (16, the example's last remark): cause 30 with stval 0x0204. -/
theorem test_rguni_mismatch :
    (match exec (.rguni 5 4 2) { sRg with slotRegs := [(1, { g := [(2, sRg.gget 2),
        (4, { d := 2, lat := [(1, 0), (0, 0)], boxes := [[(2, 3), (2, 6)]] })] })] } with
     | .next t => some (t.me.priv.mcause, t.me.priv.mtval)
     | _ => none) = some (30, 0x0204) := by decide +kernel

/-- The example of 13: blocks of maximum 300 and 500 to E4M3. -/
def sQnt (e0 e1 : Word) : State :=
  { stR { hx .m [] with k := [(0, 0xFFFFFFFFFFFFFFFF)] } [] [] with slotRegs := [(1, { v := [(1, ofLanes 32 [e0.toNat, e1.toNat])] })] }
theorem test_vqnt_example :
    vOf (exec (.vqnt 0 false 0 3 1 2 10) (sQnt 0x43960000 0x40466666)) 3 = some 0x4479 ∧
    xOf (exec (.vqnt 0 false 0 3 1 2 10) (sQnt 0x43960000 0x40466666)) 10 = some 0x7F ∧
    rflagsOf (exec (.vqnt 0 false 0 3 1 2 10) (sQnt 0x43960000 0x40466666)) = some 1 := by decide +kernel
theorem test_vqnt_saturates :
    vOf (exec (.vqnt 0 false 0 3 1 2 10) (sQnt 0x43FA0000 0)) 3 = some 0x7E ∧
    rflagsOf (exec (.vqnt 0 false 0 3 1 2 10) (sQnt 0x43FA0000 0)) = some 5 := by decide +kernel

/-- The example of R217: a page homed by hash on quads 3 and 9 of die 1. -/
theorem test_home_example :
    ({} : State).entryHome (2 + 1 * 2 ^ 8 + (2 ^ 3 + 2 ^ 9) * 2 ^ 64) true 0x2000000140 = some 0x425 ∧
    ({} : State).entryHome (2 + 4 * 2 ^ 8 + (2 ^ 3 + 2 ^ 9) * 2 ^ 64) true 0x2000000140 = none := by decide +kernel

/-- Loads take bytes little-endian and extend (R308, R256): the line holds 0x1122334455667788. -/
def runL (w : LoadWidth) (off : BitVec 12) : Option Word := xOf (exec (.load w 3 1 off) sL1) 3
theorem test_load_extends : runL .lb 0 = some 0xFFFFFFFFFFFFFF88 ∧ runL .lbu 1 = some 0x77 ∧ runL .lh 6 = some 0x1122 := by decide +kernel

/-- ECALL from U-mode: cause 8, the pc saved, M-mode with the earlier mode in MPP, interrupts off (R93, R160). -/
theorem test_ecall_enters :
    (match exec (.ecallEnvironment false) (st { hx .u [] with priv := { ({} : PrivCsrs) with mtvec := 0x800, mstatus := 8 } }) with
     | .next t => some (t.me.priv.mcause, t.me.priv.mepc, t.me.pc, fld t.me.priv.mstatus 11 2, fld t.me.priv.mstatus 7 1)
     | _ => none) = some (8, 0x1000, 0x800, 0, 1) ∧
    (match exec (.ecallEnvironment false) (st { hx .u [] with priv := { ({} : PrivCsrs) with mtvec := 0x800, mstatus := 8 } }) with
     | .next t => some (t.me.mode, fld t.me.priv.mstatus 3 1)
     | _ => none) = some (.m, 0) := by decide +kernel

/-- An SC without a reservation fails, and writes nothing (R238). -/
theorem test_sc_fails : xOf (exec (.sc true false false 5 1 2) sL1) 5 = some 1 := by decide +kernel

/-- Encodings that are no instruction: 16 bits, 48 bits, an unused field that is not zero, an unassigned funct, a 64-bit instruction
with a nonzero reserved field (R313, R316, R317). -/
theorem test_rejected_words :
    decode 8 0 = .reject .length ∧ decode 8 0x1f = .reject .length ∧ decode 8 0x0010010B = .reject .unassigned ∧
    decode 4 0x3f = .reject .short ∧ decode 8 0xFFFFFFFF0000003F = .reject .unassigned := by decide +kernel

end Sys2Proof.Tests
end

section
/-! PROOF of the resets (R9, R46 to R48), with what it needs: what an entry of the audit log and a measurement change, the checks of a
firmware slot, and the state from which the boot ROM tries the slots. -/

namespace Sys2Proof.Machine

/-! ## An entry of the audit log -/

section
variable (s : State) (kind source asid payload : Nat)

/-- Away from the end of a segment, one entry is appended and no CHECKPOINT follows (R59). -/
theorem State.audit_of_ne (h : s.rtu.seq % 4096 ≠ 4094) :
    s.audit kind source asid payload = { s with rtu := s.rtu.push s.ns kind source asid (BitVec.ofNat 192 payload) } := by
  have hseq : ¬(s.rtu.push s.ns kind source asid (BitVec.ofNat 192 payload)).seq % 4096 = 4095 := by
    show ¬(s.rtu.seq + 1) % 4096 = 4095
    omega
  exact if_neg hseq

/-- Of the state, an entry changes the RTU, and it may halt the core clock (R61). -/
theorem State.audit_frame : s.audit kind source asid payload =
    { s with rtu := (s.audit kind source asid payload).rtu, halted := (s.audit kind source asid payload).halted } := by
  unfold State.audit
  dsimp only
  split <;> rfl

@[simp] theorem State.audit_grade : (s.audit kind source asid payload).grade = s.grade := by
  rw [s.audit_frame]
@[simp] theorem State.audit_harts : (s.audit kind source asid payload).harts = s.harts := by
  rw [s.audit_frame]
@[simp] theorem State.audit_quads : (s.audit kind source asid payload).quads = s.quads := by
  rw [s.audit_frame]
@[simp] theorem State.audit_homes : (s.audit kind source asid payload).homes = s.homes := by
  rw [s.audit_frame]
@[simp] theorem State.audit_msgs : (s.audit kind source asid payload).msgs = s.msgs := by
  rw [s.audit_frame]
@[simp] theorem State.audit_disp : (s.audit kind source asid payload).disp = s.disp := by
  rw [s.audit_frame]
@[simp] theorem State.audit_mem : (s.audit kind source asid payload).mem = s.mem := by
  rw [s.audit_frame]

/-- Of the RTU, an entry changes the log, its segments and the signing queue. -/
theorem State.audit_rtu_frame : (s.audit kind source asid payload).rtu =
    { s.rtu with
      entries := (s.audit kind source asid payload).rtu.entries
      head := (s.audit kind source asid payload).rtu.head
      seq := (s.audit kind source asid payload).rtu.seq
      segments := (s.audit kind source asid payload).rtu.segments
      lastFinal := (s.audit kind source asid payload).rtu.lastFinal
      signing := (s.audit kind source asid payload).rtu.signing } := by
  unfold State.audit
  dsimp only
  split <;> rfl

@[simp] theorem State.audit_boot : (s.audit kind source asid payload).rtu.boot = s.rtu.boot := by
  rw [s.audit_rtu_frame]
@[simp] theorem State.audit_flashA : (s.audit kind source asid payload).rtu.flashA = s.rtu.flashA := by
  rw [s.audit_rtu_frame]
@[simp] theorem State.audit_flashB : (s.audit kind source asid payload).rtu.flashB = s.rtu.flashB := by
  rw [s.audit_rtu_frame]
@[simp] theorem State.audit_nonce : (s.audit kind source asid payload).rtu.nonce = s.rtu.nonce := by
  rw [s.audit_rtu_frame]
@[simp] theorem State.audit_fuses : (s.audit kind source asid payload).rtu.fuses = s.rtu.fuses := by
  rw [s.audit_rtu_frame]
@[simp] theorem State.audit_meas : (s.audit kind source asid payload).rtu.meas = s.rtu.meas := by
  rw [s.audit_rtu_frame]
@[simp] theorem State.audit_keys : (s.audit kind source asid payload).rtu.keys = s.rtu.keys := by
  rw [s.audit_rtu_frame]

theorem State.audit_seq_of_ne (h : s.rtu.seq % 4096 ≠ 4094) :
    (s.audit kind source asid payload).rtu.seq = s.rtu.seq + 1 := by
  rw [s.audit_of_ne kind source asid payload h]
  rfl

theorem State.audit_kinds_of_ne (h : s.rtu.seq % 4096 ≠ 4094) :
    (s.audit kind source asid payload).rtu.entries.map (·.kind) = s.rtu.entries.map (·.kind) ++ [kind] := by
  rw [s.audit_of_ne kind source asid payload h]
  simp [Rtu.push]

end

/-! ## A measurement (R50) -/

/-- What extend(i, d) puts into register i. -/
def Rtu.extended (r : Rtu) (i : Nat) (d : BitVec 256) : BitVec 256 :=
  Sha.sha256 (bytesOf 32 (Store.get 0 r.meas i).toNat ++ bytesOf 32 d.toNat)

/-- The register is written before the entry that records it. -/
def State.setMeas (s : State) (i : Nat) (v : BitVec 256) : State := s.modRtu (fun r => { r with meas := Store.set 0 r.meas i v })

section
variable (s : State) (i : Nat) (v : BitVec 256)

@[simp] theorem State.setMeas_grade : (s.setMeas i v).grade = s.grade := rfl
@[simp] theorem State.setMeas_harts : (s.setMeas i v).harts = s.harts := rfl
@[simp] theorem State.setMeas_quads : (s.setMeas i v).quads = s.quads := rfl
@[simp] theorem State.setMeas_homes : (s.setMeas i v).homes = s.homes := rfl
@[simp] theorem State.setMeas_msgs : (s.setMeas i v).msgs = s.msgs := rfl
@[simp] theorem State.setMeas_disp : (s.setMeas i v).disp = s.disp := rfl
@[simp] theorem State.setMeas_mem : (s.setMeas i v).mem = s.mem := rfl
@[simp] theorem State.setMeas_boot : (s.setMeas i v).rtu.boot = s.rtu.boot := rfl
@[simp] theorem State.setMeas_flashA : (s.setMeas i v).rtu.flashA = s.rtu.flashA := rfl
@[simp] theorem State.setMeas_flashB : (s.setMeas i v).rtu.flashB = s.rtu.flashB := rfl
@[simp] theorem State.setMeas_nonce : (s.setMeas i v).rtu.nonce = s.rtu.nonce := rfl
@[simp] theorem State.setMeas_fuses : (s.setMeas i v).rtu.fuses = s.rtu.fuses := rfl
@[simp] theorem State.setMeas_keys : (s.setMeas i v).rtu.keys = s.rtu.keys := rfl
@[simp] theorem State.setMeas_seq : (s.setMeas i v).rtu.seq = s.rtu.seq := rfl
@[simp] theorem State.setMeas_entries : (s.setMeas i v).rtu.entries = s.rtu.entries := rfl
@[simp] theorem State.setMeas_meas : (s.setMeas i v).rtu.meas = Store.set 0 s.rtu.meas i v := rfl

end

theorem State.extend_eq_audit (s : State) (i : Nat) (d : BitVec 256) :
    s.extend i d = (s.setMeas i (s.rtu.extended i d)).audit 0x0006 0xF000 0 (i + d.toNat % 2 ^ 128 * 2 ^ 64) := rfl

theorem State.extend_meas_ne (s : State) {i j : Nat} (d : BitVec 256) (h : j ≠ i) :
    Store.get 0 (s.extend i d).rtu.meas j = Store.get 0 s.rtu.meas j := by
  rw [State.extend_eq_audit, State.audit_meas, State.setMeas_meas]
  exact Store.get_set_ne 0 s.rtu.meas _ h

/-! ## The slots of firmware (R47, R48) -/

/-- A slot passes when each check of R47 step 4 holds. -/
theorem Rtu.slotCheck_eq_zero_iff (r : Rtu) (f : List Byte) :
    r.slotCheck f = 0 ↔
      (slotNat f 0 4 = 0x57464255 ∧ slotNat f 4 2 = 1) ∧
      (slotNat f 6 2 = 0 ∧ slotNat f 9 7 = 0 ∧ slotNat f 0x70 0x90 = 0) ∧
      slotNat f 0x10 8 ≤ 16777216 ∧
      Sha.sha256 ((f.drop 0x40).take 48) = r.vendorKeyHash ∧
      Sha.slhVerify ((f.drop 0x40).take 48) (f.take 0x100) ((f.drop 0x100).take 16224) = true ∧
      r.fuses ≤ slotNat f 8 1 ∧
      (Sha.sha256 (slotPayload f)).toNat = slotNat f 0x20 32 := by
  have first_fail : ∀ {p : Prop} [Decidable p] {k n : Nat}, k ≠ 0 → ((if p then k else n) = 0 ↔ ¬p ∧ n = 0) := by
    intro p _ k n hk
    by_cases hp : p <;> simp [hp, hk]
  unfold Rtu.slotCheck
  rw [first_fail (by decide), first_fail (by decide), first_fail (by decide), first_fail (by decide), first_fail (by decide),
    first_fail (by decide), first_fail (by decide)]
  simp only [Bool.or_eq_true, decide_eq_true_eq, Bool.not_eq_true', not_or, not_not, Nat.not_lt, Bool.not_eq_false, ne_eq,
    and_true, and_assoc]

theorem State.trySlots_nil_boot (s : State) : (s.trySlots []).rtu.boot = .recovery := rfl

theorem State.trySlots_accept (s : State) (n : Nat) {f : List Byte} (rest : List (Nat × List Byte)) (h : s.rtu.slotCheck f = 0) :
    s.trySlots ((n, f) :: rest) = s.acceptSlot n f := if_pos h

theorem State.trySlots_reject (s : State) (n : Nat) {f : List Byte} (rest : List (Nat × List Byte)) (h : s.rtu.slotCheck f ≠ 0) :
    s.trySlots ((n, f) :: rest) = (s.audit 0x0003 0xF000 0 (payload3 n (s.rtu.slotCheck f) 0)).trySlots rest := if_neg h

/-- The image measured into MEAS1 and its acceptance recorded (R47 step 6). -/
def State.acceptRecorded (s : State) (n : Nat) (f : List Byte) : State :=
  (s.extend 1 (Sha.sha256 (f.take 0x100 ++ slotPayload f))).audit 0x0002 0xF000 0 (payload3 n (slotNat f 8 1) 0)

theorem State.acceptSlot_rtu (s : State) (n : Nat) (f : List Byte) : (s.acceptSlot n f).rtu =
    { (s.acceptRecorded n f).rtu with
      boot := .released, svn := slotNat f 8 1, mcMem := slotPayload f, mcEntry := slotNat f 0x18 8, window := [] } := rfl

theorem State.acceptSlot_mc (s : State) (n : Nat) (f : List Byte) :
    (s.acceptSlot n f).hart 0x1000 = { status := .running, pc := BitVec.ofNat 64 (slotNat f 0x18 8) } :=
  State.hart_modHart _ _ _

/-! ## Cold reset (R47) -/

/-- What a cold reset leaves, with the nonce of the boot and the genesis head of the chain (R47 step 1, R57). -/
def State.booting (s : State) (nonce : BitVec 128) : State :=
  let genesis := Sha.sha256 (bytesOf 32 Config.deviceIdentity.toNat ++ bytesOf 16 nonce.toNat)
  s.cold.modRtu (fun r => { r with nonce := nonce, head := genesis, lastFinal := genesis })

/-- BOOT recorded (R47 step 2). -/
def State.bootRecorded (s : State) (nonce : BitVec 128) : State :=
  (s.booting nonce).audit 0x0001 0xF000 0 (nonce.toNat + Config.romVersion.toNat * 2 ^ 128 + (s.booting nonce).rtu.fuses * 2 ^ 160)

/-- The digest of the device that step 3 of R47 measures. -/
def State.deviceDigest (s : State) : BitVec 256 :=
  Sha.sha256 (bytesOf 4 Config.romVersion.toNat ++ bytesOf 1 s.grade.code ++ bytesOf 10 s.rtu.disabled.toNat ++ bytesOf 1 s.rtu.fuses)

/-- The device measured into MEAS0: the slots are tried from here. -/
def State.bootMeasured (s : State) (nonce : BitVec 128) : State :=
  (s.bootRecorded nonce).extend 0 (s.bootRecorded nonce).deviceDigest

section
variable (s : State) (nonce : BitVec 128)

theorem exec_coldReset_tries_own_slots : exec (.coldReset nonce) s =
    .next ((s.bootMeasured nonce).trySlots [(0, (s.bootMeasured nonce).rtu.flashA), (1, (s.bootMeasured nonce).rtu.flashB)]) := rfl

/-- The first two entries of the log lie far from the end of segment 0. -/
theorem State.bootRecorded_seq : (s.bootRecorded nonce).rtu.seq = 1 :=
  State.audit_seq_of_ne _ _ _ _ _ (show 0 % 4096 ≠ 4094 by decide)

theorem State.bootRecorded_kinds : (s.bootRecorded nonce).rtu.entries.map (·.kind) = [0x0001] :=
  State.audit_kinds_of_ne _ _ _ _ _ (show 0 % 4096 ≠ 4094 by decide)

theorem State.bootMeasured_eq : ∃ v payload, s.bootMeasured nonce = ((s.bootRecorded nonce).setMeas 0 v).audit 0x0006 0xF000 0 payload :=
  ⟨_, _, State.extend_eq_audit _ _ _⟩

theorem State.bootMeasured_log :
    (s.bootMeasured nonce).rtu.seq = 2 ∧ (s.bootMeasured nonce).rtu.entries.map (·.kind) = [0x0001, 0x0006] := by
  obtain ⟨v, payload, h⟩ := s.bootMeasured_eq nonce
  have hne : ((s.bootRecorded nonce).setMeas 0 v).rtu.seq % 4096 ≠ 4094 := by
    rw [State.setMeas_seq, s.bootRecorded_seq nonce]
    decide
  rw [h, State.audit_seq_of_ne _ _ _ _ _ hne, State.audit_kinds_of_ne _ _ _ _ _ hne, State.setMeas_seq, State.setMeas_entries,
    s.bootRecorded_seq nonce, s.bootRecorded_kinds nonce]
  exact ⟨rfl, rfl⟩

/-- Registers other than MEAS0 are zero. -/
theorem State.bootMeasured_meas_ne {i : Nat} (hi : 0 < i) : Store.get 0 (s.bootMeasured nonce).rtu.meas i = 0 := by
  unfold State.bootMeasured
  rw [State.extend_meas_ne _ _ (Nat.ne_of_gt hi)]
  unfold State.bootRecorded
  rw [State.audit_meas]
  rfl

/-- The device is at its reset state; its grade and the host's memory stay. -/
theorem State.bootMeasured_device :
    (s.bootMeasured nonce).harts = [] ∧ (s.bootMeasured nonce).quads = [] ∧ (s.bootMeasured nonce).homes = [] ∧
    (s.bootMeasured nonce).disp = {} ∧ (s.bootMeasured nonce).msgs = [] ∧ (s.bootMeasured nonce).grade = s.grade ∧
    (s.bootMeasured nonce).mem = s.mem.filter (fun c => decide (Config.hostBase ≤ c.1) && decide (c.1 < Config.vaultBase)) := by
  obtain ⟨v, payload, h⟩ := s.bootMeasured_eq nonce
  simp [h, State.bootRecorded, State.booting, State.cold]

/-- The RTU is in reset, with the nonce of the boot; the fuses and the flash stay. -/
theorem State.bootMeasured_rtu :
    (s.bootMeasured nonce).rtu.boot = .inReset ∧ (s.bootMeasured nonce).rtu.nonce = nonce ∧
    (s.bootMeasured nonce).rtu.fuses = s.rtu.fuses ∧ (s.bootMeasured nonce).rtu.keys = [(0, 1)] ∧
    (s.bootMeasured nonce).rtu.flashA = s.rtu.flashA ∧ (s.bootMeasured nonce).rtu.flashB = s.rtu.flashB := by
  obtain ⟨v, payload, h⟩ := s.bootMeasured_eq nonce
  simp [h, State.bootRecorded, State.booting, State.cold, State.modRtu]

end

theorem exec_coldReset_trySlots (nonce : BitVec 128) (s : State) :
    exec (.coldReset nonce) s = .next ((s.bootMeasured nonce).trySlots [(0, s.rtu.flashA), (1, s.rtu.flashB)]) := by
  obtain ⟨-, -, -, -, hA, hB⟩ := s.bootMeasured_rtu nonce
  rw [exec_coldReset_tries_own_slots, hA, hB]

/-! ## Recovery (R48) -/

theorem exec_recoveryGo_of_recovery {s : State} (h : s.rtu.boot = .recovery) :
    exec .recoveryGo s = .next (s.trySlots [(2, s.rtu.windowImage)]) := by
  rw [exec_recoveryGo, execRecoveryGo, if_pos h]

theorem exec_recoveryGo_of_ne {s : State} (h : s.rtu.boot ≠ .recovery) : exec .recoveryGo s = .next s := by
  rw [exec_recoveryGo, execRecoveryGo, if_neg h]

/-! ## Warm reset (R9) -/

theorem exec_warmReset_ends_launches (s : State) :
    ∃ t : State, exec .warmReset s = .next t ∧ t.disp.launches = [] ∧ t.launchPorts = [] :=
  ⟨_, exec_warmReset s, rfl, rfl⟩

/-- A hart after a warm reset: its register map is reset, REMAIN holds a free value (log 7). -/
theorem State.warmHart_hart (s : State) (h : Nat) : ∃ v : W32, (s.warmHart h).hart h =
    { s.hart h with dev := { remain := v }, fstat := 0, tfq := [], fmt := 0, trace := {} } :=
  ⟨_, State.hart_modHart _ _ _⟩

theorem State.warmHart_hart_ne (s : State) {g h : Nat} (hn : g ≠ h) : (s.warmHart h).hart g = s.hart g :=
  State.hart_modHart_ne _ _ hn

/-! ## The statement -/

/-- Settles O39: the reset state with its two entries, the two outcomes of a slot, and the harts of a warm reset, lemma by lemma. -/
theorem resets : Obligations.Resets := by
  unfold Obligations.Resets
  refine ⟨fun nonce s => ?cold, fun s n f rest => ?slots, fun s n f => ?accepted, fun r f hpass => ?checks,
    fun s => ⟨exec_recoveryGo_of_ne, exec_recoveryGo_of_recovery⟩, exec_warmReset_ends_launches, fun s h => ?warmHart⟩
  case cold =>
    obtain ⟨hharts, hquads, hhomes, hdisp, hmsgs, hgrade, hmem⟩ := s.bootMeasured_device nonce
    obtain ⟨hboot, hnonce, hfuses, hkeys, -, -⟩ := s.bootMeasured_rtu nonce
    obtain ⟨hseq, hkinds⟩ := s.bootMeasured_log nonce
    exact ⟨s.bootMeasured nonce, exec_coldReset_trySlots nonce s, hharts, hquads, hhomes, hdisp, hmsgs, hboot, hnonce, hfuses, hkeys,
      hseq, hkinds, fun _ => s.bootMeasured_meas_ne nonce, hgrade, hmem⟩
  case slots => exact ⟨s.trySlots_nil_boot, s.trySlots_accept n rest, s.trySlots_reject n rest⟩
  case accepted =>
    rw [s.acceptSlot_rtu n f]
    exact ⟨rfl, rfl, rfl, rfl, fun _ => s.acceptSlot_mc n f⟩
  case checks =>
    obtain ⟨⟨hmagic, hformat⟩, -, hlen, hkey, -, hsvn, hhash⟩ := (r.slotCheck_eq_zero_iff f).mp hpass
    exact ⟨hmagic, hformat, hlen, hkey, hsvn, hhash⟩
  case warmHart =>
    obtain ⟨v, hv⟩ := s.warmHart_hart h
    rw [hv]
    exact ⟨⟨v, rfl⟩, rfl, rfl, rfl, fun _ hn => s.warmHart_hart_ne hn⟩

end Sys2Proof.Machine
end

section
/-! PROOF that nothing but a halted core clock stops the machine (R24, R61): the shapes an instruction and an event have, the events of
several cases, then every constructor, the turn of a hart, the moves of the agenda and the step. -/

namespace Sys2Proof.Machine

open Sys2Proof.Safety

/-! ## The shapes of a meaning -/

theorem runs_next (t : State) : Runs (.next t) := ⟨t, rfl⟩

theorem runs_ite {c : Prop} [Decidable c] {a b : Result} (ha : Runs a) (hb : Runs b) : Runs (if c then a else b) := by
  split
  · exact ha
  · exact hb

/-- An instruction completes, waits or traps: each is a next state. -/
theorem ins_runs (xs vs : List Reg) (body : State → Act Unit) (s : State) : Runs (ins xs vs body s) := by
  unfold ins
  refine runs_ite (runs_next _) ?_
  split
  · dsimp only
    split <;> exact runs_next _
  · split <;> exact runs_next _

/-- So does one whose lazily filled registers are filled first. -/
theorem insL_runs (xs vs : List Reg) (codes : List Nat) (body : State → Act Unit) (s : State) :
    Runs (insL xs vs codes body s) := by
  unfold insL
  refine runs_ite (runs_next _) ?_
  split
  · exact ins_runs _ _ _ _
  · exact runs_next _
  · exact runs_next _

theorem Issue.run_runs (i : Issue) (s : State) : Runs (i.run s) :=
  runs_ite (runs_next _) (insL_runs _ _ _ _ _)

theorem XSpec.exec_runs (p : XSpec) (s : State) : Runs (p.exec s) := (p.issue s).run_runs s

theorem MSpec.exec_runs (p : MSpec) (s : State) : Runs (p.exec s) := (p.issue s).run_runs s

theorem csrInstr_runs (op : CsrOp) (n : Nat) (src : CsrSrc) (rd : Reg) (s : State) : Runs (csrInstr op n src rd s) :=
  ins_runs _ _ _ _

theorem taskValue_runs (d : Reg) (f : Hart → Word) (s : State) : Runs (taskValue d f s) := ins_runs _ _ _ _

theorem execAmocasQ_runs (aq rl : Bool) (rd rs1 rs2 : Reg) (s : State) : Runs (execAmocasQ aq rl rd rs1 rs2 s) := by
  unfold execAmocasQ
  exact ins_runs _ _ _ _

/-- TRETIRE ends the member, waits for its agents or traps. -/
theorem retire_runs (a : Reg) (abs : Bool) (s : State) : Runs (retire a abs s) := by
  unfold retire
  dsimp only
  split
  · exact ins_runs _ _ _ _
  · refine runs_ite (ins_runs _ _ _ _) ?_
    split <;> exact runs_next _

theorem execTcancel_runs (d a : Reg) (s : State) : Runs (execTcancel d a s) := by
  unfold execTcancel
  dsimp only
  split
  · exact ins_runs _ _ _ _
  · refine runs_ite (runs_next _) ?_
    split <;> exact runs_next _

/-! ## Supervisor calls -/

theorem superCall_runs (f : Nat) (serve : State → State) (s : State) : Runs (superCall f serve s) :=
  runs_ite (runs_next _) (runs_next _)

theorem taskFault_runs (s : State) : Runs (taskFault s) := by
  unfold taskFault
  refine runs_ite (runs_next _) (runs_ite (superCall_runs _ _ _) ?_)
  split
  · exact superCall_runs _ _ _
  · exact runs_next _

theorem supervisorCall_runs (s : State) : Runs (supervisorCall s) := by
  unfold supervisorCall
  split
  case h_14 => exact taskFault_runs s
  all_goals exact superCall_runs _ _ s

theorem execEcallEnvironment_runs (brk : Bool) (s : State) : Runs (execEcallEnvironment brk s) :=
  runs_ite (supervisorCall_runs s) (runs_next _)
/-! ## Events of the host and its links -/

theorem execLaunch_runs (port page : Nat) (rec : BitVec 512) (s : State) : Runs (execLaunch port page rec s) := by
  unfold execLaunch
  refine runs_ite (runs_next _) (runs_ite (runs_next _) (runs_ite (runs_next _) ?_))
  split
  · exact runs_next _
  · exact runs_ite (runs_next _) (runs_next _)

theorem execArgsReadComplete_runs (id : Nat) (s : State) : Runs (execArgsReadComplete id s) := by
  unfold execArgsReadComplete
  split
  · refine runs_ite (runs_next _) ?_
    split <;> exact runs_next _
  · exact runs_next _

theorem execLaunchSubmit_runs (id : Nat) (s : State) : Runs (execLaunchSubmit id s) := by
  unfold execLaunchSubmit
  split
  · exact runs_next _
  · split
    · exact runs_next _
    · refine runs_ite (runs_next _) ?_
      split
      · exact runs_next _
      · exact runs_ite (runs_next _) (runs_ite (runs_next _) (runs_next _))

theorem execLaunchDone_runs (id : Nat) (s : State) : Runs (execLaunchDone id s) := by
  unfold execLaunchDone
  split
  · exact runs_next _
  · exact runs_ite (runs_next _) (runs_ite (runs_next _) (runs_ite (runs_next _) (runs_next _)))

theorem execApertureWrite_runs (port page off : Nat) (data : List Byte) (s : State) : Runs (execApertureWrite port page off data s) :=
  runs_ite (runs_next _) (runs_ite (runs_ite (runs_next _) (runs_next _)) (runs_next _))

theorem execApertureRead_runs (port page off len : Nat) (s : State) : Runs (execApertureRead port page off len s) := by
  unfold execApertureRead
  refine runs_ite (runs_next _) (runs_ite (runs_next _) ?_)
  split <;> exact runs_next _

theorem execHostCompletionTimeout_runs (req : Nat) (s : State) : Runs (execHostCompletionTimeout req s) := by
  unfold execHostCompletionTimeout
  split
  · exact runs_next _
  · split <;> exact runs_next _

theorem execHostErrorCompletion_runs (req : Nat) (k : HostErr) (s : State) : Runs (execHostErrorCompletion req k s) := by
  unfold execHostErrorCompletion
  split
  · exact runs_next _
  · split <;> exact runs_next _

theorem execAtomicopCompletion_runs (req : Nat) (s : State) : Runs (execAtomicopCompletion req s) := by
  unfold execAtomicopCompletion
  split
  · exact runs_ite (runs_next _) (runs_next _)
  · exact runs_next _

theorem execZeroLengthReadComplete_runs (req : Nat) (s : State) : Runs (execZeroLengthReadComplete req s) := by
  unfold execZeroLengthReadComplete
  split <;> exact runs_next _

theorem execHostReadCompletion_runs (req : Nat) (s : State) : Runs (execHostReadCompletion req s) := by
  unfold execHostReadCompletion
  split <;> exact runs_next _

theorem execHostAmoCompletion_runs (req : Nat) (s : State) : Runs (execHostAmoCompletion req s) := by
  unfold execHostAmoCompletion
  split
  · exact runs_ite (runs_next _) (runs_ite (runs_next _) (runs_next _))
  · exact runs_next _

theorem execHostSnoop_runs (port line : Nat) (take : Bool) (s : State) : Runs (execHostSnoop port line take s) :=
  runs_ite (runs_ite (runs_next _) (runs_next _)) (runs_next _)

theorem execDieLinkReplay_runs (edge : Nat) (good : Bool) (s : State) : Runs (execDieLinkReplay edge good s) :=
  runs_ite (runs_next _) (runs_ite (runs_next _) (runs_ite (runs_next _) (runs_next _)))

/-! ## Events of the network -/

theorem execRetransmissionLimit_runs (id : Nat) (s : State) : Runs (execRetransmissionLimit id s) := by
  unfold execRetransmissionLimit
  split
  · exact runs_next _
  · exact runs_ite (runs_next _) (runs_next _)

theorem execPutArrive_runs (port sq off : Nat) (data : List Byte) (s : State) : Runs (execPutArrive port sq off data s) := by
  unfold execPutArrive
  refine runs_ite (runs_next _) ?_
  dsimp only
  split <;> exact runs_next _

theorem execGetRequest_runs (port sq off len : Nat) (s : State) : Runs (execGetRequest port sq off len s) := by
  unfold execGetRequest
  refine runs_ite (runs_next _) ?_
  dsimp only
  split <;> exact runs_next _

theorem execPutAck_runs (id : Nat) (refused : Bool) (s : State) : Runs (execPutAck id refused s) := by
  unfold execPutAck
  split
  · exact runs_next _
  · exact runs_ite (runs_next _) (runs_ite (runs_next _) (runs_next _))

theorem execGetData_runs (id : Nat) (refused : Bool) (data : List Byte) (s : State) : Runs (execGetData id refused data s) := by
  unfold execGetData
  split
  · exact runs_next _
  · exact runs_ite (runs_next _) (runs_ite (runs_next _) (runs_next _))

/-! ## Events of transfers and of the matrix engines -/

theorem execTransferSegment_runs (q : Nat) (s : State) : Runs (execTransferSegment q s) := by
  unfold execTransferSegment
  split
  · exact runs_next _
  · exact runs_ite (runs_next _) (runs_next _)

theorem execPortRequest_runs (q : Nat) (s : State) : Runs (execPortRequest q s) := by
  unfold execPortRequest
  split <;> exact runs_next _

theorem execStreamTransferStart_runs (id : Nat) (s : State) : Runs (execStreamTransferStart id s) := by
  unfold execStreamTransferStart
  split
  · exact runs_next _
  · exact runs_ite (runs_next _) (runs_next _)

theorem execStreamSlotFill_runs (id : Nat) (s : State) : Runs (execStreamSlotFill id s) := by
  unfold execStreamSlotFill
  split
  · exact runs_next _
  · refine runs_ite (runs_next _) ?_
    split <;> exact runs_next _

theorem execStreamSlotDrain_runs (id : Nat) (s : State) : Runs (execStreamSlotDrain id s) := by
  unfold execStreamSlotDrain
  split
  · exact runs_next _
  · refine runs_ite (runs_next _) ?_
    split <;> exact runs_next _

theorem execMatrixAccept_runs (q : Nat) (s : State) : Runs (execMatrixAccept q s) := by
  unfold execMatrixAccept
  split <;> exact runs_next _

theorem execMatrixComplete_runs (q : Nat) (s : State) : Runs (execMatrixComplete q s) := by
  unfold execMatrixComplete
  split
  · exact runs_next _
  · exact runs_ite (runs_next _) (runs_ite (runs_next _) (runs_ite (runs_next _) (runs_next _)))

/-! ## Events of the dispatcher and of a hart's slot -/

theorem execGangStart_runs (k : Nat) (s : State) : Runs (execGangStart k s) := by
  unfold execGangStart
  split
  · exact runs_next _
  · exact runs_ite (runs_next _) (runs_next _)

theorem execTaskStart_runs (h : Nat) (s : State) : Runs (execTaskStart h s) := by
  unfold execTaskStart
  split <;> exact runs_next _

theorem execResume_runs (h : Nat) (s : State) : Runs (execResume h s) := by
  unfold execResume
  split <;> exact runs_next _

theorem execPackageArbiterMove_runs (die : Nat) (s : State) : Runs (execPackageArbiterMove die s) := by
  unfold execPackageArbiterMove
  refine runs_ite (runs_next _) ?_
  split <;> exact runs_next _

theorem execReservePreemption_runs (die : Nat) (s : State) : Runs (execReservePreemption die s) := by
  unfold execReservePreemption
  refine runs_ite (runs_next _) ?_
  split
  · exact runs_next _
  · split <;> exact runs_next _

theorem execDecrement_runs (k : Nat) (s : State) : Runs (execDecrement k s) := by
  unfold execDecrement
  split <;> exact runs_next _

theorem execWithdraw_runs (k : Nat) (s : State) : Runs (execWithdraw k s) := by
  unfold execWithdraw
  split <;> exact runs_next _

theorem execMessageDeliver_runs (k : Nat) (s : State) : Runs (execMessageDeliver k s) := by
  unfold execMessageDeliver
  split
  · exact runs_next _
  · exact runs_ite (runs_next _) (runs_next _)

theorem execParkWake_runs (h : Nat) (s : State) : Runs (execParkWake h s) := by
  unfold execParkWake
  dsimp only
  split
  · exact runs_next _
  · exact runs_ite (runs_next _) (runs_next _)

theorem execParkReclaim_runs (h : Nat) (s : State) : Runs (execParkReclaim h s) := by
  unfold execParkReclaim
  dsimp only
  split
  · exact runs_ite (runs_next _) (runs_next _)
  · exact runs_next _

theorem execStopRequest_runs (h : Nat) (s : State) : Runs (execStopRequest h s) := runs_ite (runs_next _) (runs_next _)

theorem execInterruptTaken_runs (h : Nat) (s : State) : Runs (execInterruptTaken h s) := by
  unfold execInterruptTaken
  split <;> exact runs_next _

theorem execBudgetExhausted_runs (h : Nat) (s : State) : Runs (execBudgetExhausted h s) := runs_ite (runs_next _) (runs_next _)

theorem execSaveComplete_runs (h : Nat) (s : State) : Runs (execSaveComplete h s) := by
  unfold execSaveComplete
  refine runs_ite (runs_next _) ?_
  split <;> exact runs_next _

theorem execPageWalkComplete_runs (w : Nat) (s : State) : Runs (execPageWalkComplete w s) := by
  unfold execPageWalkComplete
  split
  · exact runs_ite (runs_next _) (runs_next _)
  · exact runs_next _

/-! ## Events of contexts -/

theorem execImageLineFill_runs (c slot reg : Nat) (s : State) : Runs (execImageLineFill c slot reg s) := by
  unfold execImageLineFill
  refine runs_ite (runs_next _) ?_
  dsimp only
  split
  · exact runs_next _
  · exact runs_ite (runs_ite (runs_next _) (runs_next _)) (runs_ite (runs_next _) (runs_next _))

theorem execScrubStart_runs (c : Nat) (s : State) : Runs (execScrubStart c s) := by
  unfold execScrubStart
  split
  · exact runs_next _
  · split
    · exact runs_next _
    · exact runs_ite (runs_next _) (runs_next _)

theorem execScrubQuadComplete_runs (c q : Nat) (s : State) : Runs (execScrubQuadComplete c q s) := by
  unfold execScrubQuadComplete
  split
  · exact runs_next _
  · split
    · exact runs_next _
    · exact runs_ite (runs_next _) (runs_ite (runs_next _) (runs_next _))

/-! ## Events of the RTU, of agents and of power -/

theorem execQuoteSigned_runs (s : State) : Runs (execQuoteSigned s) := by
  unfold execQuoteSigned
  split <;> exact runs_next _

theorem execSegmentSeal_runs (s : State) : Runs (execSegmentSeal s) := by
  unfold execSegmentSeal
  split <;> exact runs_next _

theorem execSpillWriteComplete_runs (s : State) : Runs (execSpillWriteComplete s) := by
  unfold execSpillWriteComplete
  split
  · exact runs_ite (runs_next _) (runs_next _)
  · exact runs_next _

theorem execFuseBlow_runs (s : State) : Runs (execFuseBlow s) := by
  unfold execFuseBlow
  split
  · exact runs_next _
  · exact runs_ite (runs_next _) (runs_next _)

theorem execRetranslationComplete_runs (s : State) : Runs (execRetranslationComplete s) := by
  unfold execRetranslationComplete
  split
  · exact runs_next _
  · exact runs_ite (runs_next _) (runs_next _)

theorem execDeadAgentDeclaration_runs (agent : Nat) (s : State) : Runs (execDeadAgentDeclaration agent s) :=
  runs_ite (runs_next _) (runs_ite (runs_next _) (runs_next _))

theorem execDutyStep_runs (s : State) : Runs (execDutyStep s) :=
  runs_ite (runs_next _) (runs_ite (runs_next _) (runs_ite (runs_next _) (runs_next _)))

theorem execSensorSample_runs (die sensor celsius : Nat) (s : State) : Runs (execSensorSample die sensor celsius s) :=
  runs_ite (runs_next _) (runs_ite (runs_next _) (runs_next _))
/-! ## Every instruction and event -/

/-- Every constructor has one of the shapes above, so none answers a fault or a refusal. -/
theorem exec_runs (i : Instr) (s : State) : Runs (exec i s) := by
  unfold exec
  cases i with
  -- Instructions: of a hart alone, of its regions and handles, of its vector unit, to the copy engine, to the matrix engine.
  | load | store | amo | lr | sc | sfenceVma | fence | fenceTso | fenceI | tspawn | tspawnN | tspawnOff | tspawnNOff | tstat | tself
  | dsize | bbind | bbindI | barrive | bwait | bsync | bexpect | bexpectI | btest | bunbind | msend | msendI | mrecv | mpoll | mwait
  | mhdr | clkrd | clkadv | clkadvOff | lwait | lwaitOff | fencesFull | fencesAcquire | fencesRelease | repb | trmark | trmarkI
  | ctxpre | ctxrel | mcset | audapp | pref | tktest | qbind | qacq | qpub | qtake | qfree | qeos | qstat | ldcan | integerAlu
  | controlTransfer | wfi | sret | mret | tyield | trtrig | msync =>
    exact ins_runs _ _ _ _
  | rgnil | rgfull | rgpt | rgptI | rgclip | rguni | rgint | rgsub | rgdil | rgdilI | rgshf | rgshfI | rgprj | rgprjI | rgxpd
  | rgxpdI | rglat | rglatI | rgcut | rgcutI | rgspl | rgsplI | rgbbox | rgmv | rgcan | rgld | rgldImm | rgldW64 | rgst | rgstImm
  | rgstW64 | rgcnt | rgnbx | rgtst | rgeq | rgsubs | rgget | rggetI | hld | hldImm | hldW64 | hst | hstImm | hstW64 | hget | hgetI
  | hsetx | hsetxI | waitg =>
    exact insL_runs _ _ _ _ _
  | vld | vldOff | vst | vstOff | vlds | vsts | vgath | vgathOff | vscat | vscatOff | vbcast | vmvx | vmvxLane | vmvv | vadd
  | vaddVx | vsub | vsubVx | vmul | vmulVx | vfma | vfmaVx | vfms | vfmsVx | vmin | vminVx | vmax | vmaxVx | vabs | vneg | vand
  | vandVx | vor | vorVx | vxor | vxorVx | vsll | vsllVx | vsrl | vsrlVx | vsra | vsraVx | vcmp | vsel | vselVx | vcvt | vcvtW64
  | vrsum | vrmax | vrmin | vexp2 | vlog2 | vrcp | vrsqrt | vsqrt | vdot | vperm | vslideVx | vslideI | vcompr | vexpnd | viota
  | vztst | vscl | vsclVx | vqnt | vmask | kand | kor | knot | kmvToMask | kmvFromMask =>
    exact Issue.run_runs _ s
  | copy | copyClip | copyW64 | copyb | copybClip | copybW64 | copyn | copynClip | copynW64 | getx | getxClip | getxW64 | putx
  | putxClip | putxW64 | getr | getrClip | getrW64 | putr | putrClip | putrW64 | flushr | ldsub | lddrn =>
    exact XSpec.exec_runs _ s
  | mfmt | mupld | mma | mmag | mrec | mzero | mtzero | mtmov | mztst | mtrn | mrel | mext | mins | mlda | msta | mqnt | mscl
  | mbias | mapplyRelu | mapplyMicro | mred =>
    exact MSpec.exec_runs _ s
  | csrWrite | budgetWrite | driftWrite | leaseWrite | rmodeWrite | trcfgWrite | xfctlResume | xfctlFail =>
    exact csrInstr_runs _ _ _ _ s
  | twdchk | tbudget | drank => exact taskValue_runs _ _ s
  | tretire | tretireA => exact retire_runs _ _ s
  | tcancel => exact execTcancel_runs _ _ s
  | amocasQ => exact execAmocasQ_runs _ _ _ _ _ s
  -- Supervisor calls.
  | ownerCreate | ownerDestroy | frameSet | tenantCreate | tenantSet | tenantDestroy | ctxCreate | portOpen | portClose
  | apertureMap | objTranslate | objUnload | stageSet | vaultSet =>
    exact superCall_runs _ _ s
  | taskFault => exact taskFault_runs s
  | ecallEnvironment => exact execEcallEnvironment_runs _ s
  -- Events without a condition, and those with one condition.
  | powerSample | launchPortDmwrOther | launchPortPostedWrite | homeRead | l2MissFill | homeOwn | homeWrite | homeEngineRead
  | recallArrive | recallReply | ownedEviction | readReply | ownershipReply | postedStoreAck | vaultAccess | driftTick
  | renewalHoldExpiry | vaultWatchExpiry | hostLineFetch | rebalanceEvaluation | transferComplete | atomicopAsCompleter | otherDmwr
  | coldReset | warmReset | declarationReceive =>
    exact runs_next _
  | recoveryGo | quoteRequest | auditAppend | spillAck | overflowAreaSet | hostLinkDown | hostLinkUp | dieLinkIdleTimeout
  | netPortDown | rebaseStep | replyTimeout | dispatchPairing | contextDrain | netPortUp | patrolPass | repbLaneIssue
  | snoopHoldExpiry | rebaseComplete | rebaseFloorReceive | measExtend | fuseCounterAdvance =>
    exact runs_ite (runs_next _) (runs_next _)
  -- Events of several cases.
  | dutyStep => exact execDutyStep_runs s
  | sensorSample => exact execSensorSample_runs _ _ _ s
  | quoteSigned => exact execQuoteSigned_runs s
  | fuseBlow => exact execFuseBlow_runs s
  | retranslationComplete => exact execRetranslationComplete_runs s
  | segmentSeal => exact execSegmentSeal_runs s
  | spillWriteComplete => exact execSpillWriteComplete_runs s
  | launch => exact execLaunch_runs _ _ _ s
  | argsReadComplete => exact execArgsReadComplete_runs _ s
  | launchSubmit => exact execLaunchSubmit_runs _ s
  | launchDone => exact execLaunchDone_runs _ s
  | apertureWrite => exact execApertureWrite_runs _ _ _ _ s
  | apertureRead => exact execApertureRead_runs _ _ _ _ s
  | hostCompletionTimeout => exact execHostCompletionTimeout_runs _ s
  | hostErrorCompletion => exact execHostErrorCompletion_runs _ _ s
  | atomicopCompletion => exact execAtomicopCompletion_runs _ s
  | zeroLengthReadComplete => exact execZeroLengthReadComplete_runs _ s
  | dieLinkReplay => exact execDieLinkReplay_runs _ _ s
  | retransmissionLimit => exact execRetransmissionLimit_runs _ s
  | putArrive => exact execPutArrive_runs _ _ _ _ s
  | putAck => exact execPutAck_runs _ _ s
  | getRequest => exact execGetRequest_runs _ _ _ _ s
  | getData => exact execGetData_runs _ _ _ s
  | hostSnoop => exact execHostSnoop_runs _ _ _ s
  | hostAmoCompletion => exact execHostAmoCompletion_runs _ s
  | deadAgentDeclaration => exact execDeadAgentDeclaration_runs _ s
  | gangStart => exact execGangStart_runs _ s
  | taskStart => exact execTaskStart_runs _ s
  | packageArbiterMove => exact execPackageArbiterMove_runs _ s
  | reservePreemption => exact execReservePreemption_runs _ s
  | decrement => exact execDecrement_runs _ s
  | withdraw => exact execWithdraw_runs _ s
  | parkWake => exact execParkWake_runs _ s
  | parkReclaim => exact execParkReclaim_runs _ s
  | stopRequest => exact execStopRequest_runs _ s
  | budgetExhausted => exact execBudgetExhausted_runs _ s
  | interruptTaken => exact execInterruptTaken_runs _ s
  | saveComplete => exact execSaveComplete_runs _ s
  | resume => exact execResume_runs _ s
  | imageLineFill => exact execImageLineFill_runs _ _ _ s
  | pageWalkComplete => exact execPageWalkComplete_runs _ s
  | transferSegment => exact execTransferSegment_runs _ s
  | portRequest => exact execPortRequest_runs _ s
  | streamTransferStart => exact execStreamTransferStart_runs _ s
  | streamSlotFill => exact execStreamSlotFill_runs _ s
  | streamSlotDrain => exact execStreamSlotDrain_runs _ s
  | matrixAccept => exact execMatrixAccept_runs _ s
  | matrixComplete => exact execMatrixComplete_runs _ s
  | scrubStart => exact execScrubStart_runs _ s
  | scrubQuadComplete => exact execScrubQuadComplete_runs _ _ s
  | messageDeliver => exact execMessageDeliver_runs _ s
  | hostReadCompletion => exact execHostReadCompletion_runs _ s
/-! ## The turn of a hart -/

theorem State.execBytes_runs (s : State) (bs : List Byte) : Runs (s.execBytes bs) := by
  unfold State.execBytes
  split
  · exact runs_ite (runs_next _) (exec_runs _ _)
  · exact runs_next _
  · exact runs_next _

theorem State.fetchExec_runs (s : State) : Runs s.fetchExec := by
  unfold State.fetchExec
  split
  · exact State.execBytes_runs _ _
  · exact runs_next _
  · exact runs_next _

/-- The management core is not of the core clock's domain (R17). -/
theorem State.hartStep_runs {s : State} (h : s.halted = false ∨ s.cur = mcHart) : Runs s.hartStep := by
  have hclock : ¬(s.halted && s.cur != mcHart) = true := by
    rcases h with h | h <;> simp [h]
  unfold State.hartStep
  dsimp only
  rw [if_neg hclock]
  refine runs_ite (runs_next _) (runs_ite (runs_ite (execStopRequest_runs _ _) (runs_next _))
    (runs_ite (execInterruptTaken_runs _ _) ?_))
  split
  · refine runs_ite (execBudgetExhausted_runs _ _) ?_
    split
    · exact runs_next _
    · exact State.fetchExec_runs _
  · exact runs_ite (runs_next _) (runs_next _)
  · exact runs_next _

theorem State.hartStep_halted {s : State} (hh : s.halted = true) (hc : s.cur ≠ mcHart) : s.hartStep = .fault .coreClockHalted :=
  if_pos (by simp [hh, hc])

/-! ## The moves of the agenda, and the step -/

/-- The halted core clock stops the turn of a hart of a compute die, and no other move. -/
theorem State.move_runs {s : State} {m : Move} (h : s.halted = false ∨ ∀ g : Nat, m = .run g → g = mcHart) : Runs (s.move m) := by
  cases m with
  | event i => exact runs_ite (exec_runs i s) (runs_next _)
  | run g =>
    have hg : s.halted = false ∨ g = mcHart := h.imp_right (fun hm => hm g rfl)
    exact runs_ite (State.hartStep_runs hg) (runs_next _)
  | drain => exact runs_ite (runs_next _) (runs_next _)
  | tick | hostWrite | hostPortRead | fwWrite | fwTag | fwStart | fwFlash | fwReport | flip | fixed | fwClassifier =>
    exact runs_next _

theorem State.byItself_runs {s : State} (h : s.halted = false) : Runs s.byItself := by
  unfold State.byItself
  refine runs_ite (exec_runs (.coldReset _) _) ?_
  rw [if_neg (by simp [h])]
  split
  · exact runs_next _
  · exact runs_ite (runs_next _) (State.hartStep_runs (.inl h))

theorem step_agenda {s : State} {m : Move} {rest : List Move} (h : s.agenda = m :: rest) :
    step s = { s with agenda := rest }.move m := by
  unfold step State.oneStep
  rw [h]

theorem step_empty {s : State} (h : s.agenda = []) : step s = s.byItself := by
  unfold step State.oneStep
  rw [h]

theorem step_runs {s : State} (h : s.halted = false) : Runs (step s) := by
  cases ha : s.agenda with
  | nil =>
    rw [step_empty ha]
    exact State.byItself_runs h
  | cons m rest =>
    rw [step_agenda ha]
    exact State.move_runs (.inl h)

theorem step_run_halted {s : State} {h : Nat} {rest : List Move} (hh : s.halted = true) (ha : s.agenda = .run h :: rest)
    (hp : s.hartPresent h = true) (hc : h ≠ mcHart) : step s = .fault .coreClockHalted := by
  have hturn : ({ s with agenda := rest }.hartPresent h || h == mcHart) = true := Bool.or_eq_true_iff.mpr (.inl hp)
  rw [step_agenda ha]
  exact (if_pos hturn).trans (State.hartStep_halted hh hc)

/-- Settles O60: the dispatch by the shape of each constructor, then the turn of a hart, the moves and the step. -/
theorem nothingStops : Obligations.NothingStops := by
  unfold Obligations.NothingStops
  refine ⟨exec_runs, fun _ => step_runs, fun _ _ _ => step_run_halted, fun s m rest ha hm => ?_⟩
  rw [step_agenda ha]
  exact State.move_runs (.inr hm)

end Sys2Proof.Machine
end

section
/-! PROOF of dead agents, memory errors, and power (R23, R24, R230, R251 to R255): the stages of a declaration, class of agent by class,
the line of a dead owner at its home, the lines a patrol poisons, and the duty step. -/

namespace Sys2Proof.Machine

/-! ## Reports (R251) -/

section
variable {agent : Nat} {s : State}

theorem exec_replyTimeout_awaited (hp : s.isAgent agent = true) (hd : s.deathsOf agent < 2) (ha : s.awaitedAgent agent = true) :
    exec (.replyTimeout agent) s = .next (s.modRtu (fun r => { r with reported := insertNat r.reported agent })) := by
  rw [exec_replyTimeout, execReplyTimeout, if_pos (by simp [hp, hd, ha])]

theorem exec_replyTimeout_of_not (h : s.isAgent agent = false ∨ 2 ≤ s.deathsOf agent ∨ s.awaitedAgent agent = false) :
    exec (.replyTimeout agent) s = .next s := by
  have hcond : ¬(s.isAgent agent && decide (s.deathsOf agent < 2) && s.awaitedAgent agent) = true := by
    rcases h with h | h | h
    · simp [h]
    · simp [Nat.not_lt.mpr h]
    · simp [h]
  rw [exec_replyTimeout, execReplyTimeout, if_neg hcond]

end

/-! ## The stages of a declaration (R252 to R255) -/

/-- The agent is reported no more, and has its next incarnation. -/
def State.deathTaken (s : State) (agent : Nat) : State :=
  (s.modRtu (fun r => { r with reported := r.reported.filter (· != agent) })).raiseInc agent

/-- The declaration recorded. -/
def State.deathRecorded (s : State) (agent : Nat) : State := s.audit 0x0030 0xF000 0 (payload3 agent (s.incOf agent) 0)

/-- What the agent held ends. -/
def State.deathEnds (s : State) (agent : Nat) : State :=
  if agent < 0x1000 then s.hartDead agent
  else if agent < 0x2000 then
    ((s.quad (agent - 0x1000)).transfers.filter (fun t => !t.kind.stream)).foldl (fun s t => s.endDead t.id) s
  else if agent < 0x3000 then
    (s.allTransfers.filter (fun t => t.kind.stream && t.ladles.contains (agent - 0x2000))).foldl (fun s t =>
      if t.phase = .queued then s.moveLadle t (agent - 0x2000) else s.endDead t.id) s
  else s.proxyDead (agent - 0x3000)

/-- A quad whose hart or copy engine has died twice leaves service. -/
def State.deathRetires (s : State) (agent : Nat) : State :=
  if 2 ≤ s.deathsOf agent && agent < 0x2000 then
    s.modQuad (if agent < 0x1000 then quadOf agent else agent - 0x1000) (fun q => { q with outOfService := true })
  else s

theorem exec_deadAgentDeclaration_unreported {agent : Nat} {s : State} (h : s.rtu.reported.contains agent = false) :
    exec (.deadAgentDeclaration agent) s = .next s := by
  rw [exec_deadAgentDeclaration, execDeadAgentDeclaration, if_pos (by rw [h]; rfl)]

theorem exec_deadAgentDeclaration_reported {agent : Nat} {s : State} (h : s.rtu.reported.contains agent = true) :
    exec (.deadAgentDeclaration agent) s =
      .next ((((s.deathTaken agent).deathRecorded agent).deathEnds agent).deathRetires agent) := by
  rw [exec_deadAgentDeclaration, execDeadAgentDeclaration, if_neg (by rw [h]; decide), ← apply_ite]
  rfl

/-! ### A hart -/

section
variable {agent : Nat} (s : State) (h : agent < 0x1000)
include h

theorem State.raiseInc_hart : s.raiseInc agent = s.modHart agent (fun x => { x with inc := (x.inc + 1) % 65536, deaths := x.deaths + 1 }) :=
  if_pos h

theorem State.incOf_hart : s.incOf agent = (s.hart agent).inc := if_pos h

theorem State.deathsOf_hart : s.deathsOf agent = (s.hart agent).deaths := if_pos h

theorem State.deathEnds_hart : s.deathEnds agent = s.hartDead agent := if_pos h

theorem State.deathRetires_hart : s.deathRetires agent =
    if 2 ≤ (s.hart agent).deaths then s.modQuad (quadOf agent) (fun q => { q with outOfService := true }) else s := by
  have hlt : agent < 0x2000 := by omega
  simp [State.deathRetires, s.deathsOf_hart h, h, hlt]

end

/-! ### A copy engine -/

section
variable {agent : Nat} (s : State) (hlo : 0x1000 ≤ agent) (hhi : agent < 0x2000)
include hlo hhi

theorem State.raiseInc_copy : s.raiseInc agent =
    s.modQuad (agent - 0x1000) (fun q => { q with copyInc := (q.copyInc + 1) % 65536, copyDeaths := q.copyDeaths + 1 }) :=
  (if_neg (Nat.not_lt.mpr hlo)).trans (if_pos hhi)

theorem State.incOf_copy : s.incOf agent = (s.quad (agent - 0x1000)).copyInc :=
  (if_neg (Nat.not_lt.mpr hlo)).trans (if_pos hhi)

theorem State.deathsOf_copy : s.deathsOf agent = (s.quad (agent - 0x1000)).copyDeaths :=
  (if_neg (Nat.not_lt.mpr hlo)).trans (if_pos hhi)

theorem State.deathEnds_copy : s.deathEnds agent =
    ((s.quad (agent - 0x1000)).transfers.filter (fun t => !t.kind.stream)).foldl (fun s t => s.endDead t.id) s :=
  (if_neg (Nat.not_lt.mpr hlo)).trans (if_pos hhi)

theorem State.deathRetires_copy : s.deathRetires agent =
    if 2 ≤ (s.quad (agent - 0x1000)).copyDeaths then s.modQuad (agent - 0x1000) (fun q => { q with outOfService := true }) else s := by
  have hnot : ¬agent < 0x1000 := by omega
  simp [State.deathRetires, s.deathsOf_copy hlo hhi, hhi, hnot]

end

/-- No other agent takes a quad out of service. -/
theorem State.deathRetires_ge {agent : Nat} (s : State) (h : 0x2000 ≤ agent) : s.deathRetires agent = s := by
  have hnot : ¬agent < 0x2000 := by omega
  simp [State.deathRetires, hnot]

/-! ### A stream controller -/

section
variable {k : Nat} (s : State) (h : k < 0x1000)
include h

theorem ladle_agent_class : ¬0x2000 + k < 0x1000 ∧ ¬0x2000 + k < 0x2000 ∧ 0x2000 + k < 0x3000 ∧ 0x2000 + k - 0x2000 = k := by
  omega

theorem State.raiseInc_ladle : s.raiseInc (0x2000 + k) =
    { s with
      ladleInc := Store.put s.ladleInc k ((Store.get 0 s.ladleInc k + 1) % 65536),
      ladleDeaths := Store.put s.ladleDeaths k (Store.get 0 s.ladleDeaths k + 1) } := by
  obtain ⟨h1, h2, h3, h4⟩ := ladle_agent_class h
  rw [State.raiseInc, if_neg h1, if_neg h2, if_pos h3, h4]

theorem State.incOf_ladle : s.incOf (0x2000 + k) = Store.get 0 s.ladleInc k := by
  obtain ⟨h1, h2, h3, h4⟩ := ladle_agent_class h
  rw [State.incOf, if_neg h1, if_neg h2, if_pos h3, h4]

theorem State.deathEnds_ladle : s.deathEnds (0x2000 + k) =
    (s.allTransfers.filter (fun t => t.kind.stream && t.ladles.contains k)).foldl (fun s t =>
      if t.phase = .queued then s.moveLadle t k else s.endDead t.id) s := by
  obtain ⟨h1, h2, h3, h4⟩ := ladle_agent_class h
  rw [State.deathEnds, if_neg h1, if_neg h2, if_pos h3, h4]

end

/-! ### A proxy -/

section
variable {agent : Nat} (s : State) (h : 0x3000 ≤ agent)
include h

theorem proxy_agent_class : ¬agent < 0x1000 ∧ ¬agent < 0x2000 ∧ ¬agent < 0x3000 := by omega

theorem State.raiseInc_proxy : s.raiseInc agent =
    s.modPort (agent - 0x3000) (fun p => { p with inc := (p.inc + 1) % 65536, deaths := p.deaths + 1 }) := by
  obtain ⟨h1, h2, h3⟩ := proxy_agent_class h
  rw [State.raiseInc, if_neg h1, if_neg h2, if_neg h3]

theorem State.incOf_proxy : s.incOf agent = (s.port (agent - 0x3000)).inc := by
  obtain ⟨h1, h2, h3⟩ := proxy_agent_class h
  rw [State.incOf, if_neg h1, if_neg h2, if_neg h3]

theorem State.deathEnds_proxy : s.deathEnds agent = s.proxyDead (agent - 0x3000) := by
  obtain ⟨h1, h2, h3⟩ := proxy_agent_class h
  rw [State.deathEnds, if_neg h1, if_neg h2, if_neg h3]

end

/-! ### The declaration of each class -/

section
variable {agent : Nat} {s : State} (hr : s.rtu.reported.contains agent = true)
include hr

theorem exec_deadAgentDeclaration_hart (h : agent < 0x1000) {u w : State}
    (hu : u = (s.modRtu (fun r => { r with reported := r.reported.filter (· != agent) })).modHart agent
      (fun x => { x with inc := (x.inc + 1) % 65536, deaths := x.deaths + 1 }))
    (hw : w = (u.audit 0x0030 0xF000 0 (payload3 agent (u.hart agent).inc 0)).hartDead agent) :
    exec (.deadAgentDeclaration agent) s
      = .next (if 2 ≤ (w.hart agent).deaths then w.modQuad (quadOf agent) (fun q => { q with outOfService := true }) else w) := by
  rw [exec_deadAgentDeclaration_reported hr, State.deathRetires_hart _ h, State.deathEnds_hart _ h, State.deathRecorded,
    State.incOf_hart _ h, State.deathTaken, State.raiseInc_hart _ h, hw, hu]

theorem exec_deadAgentDeclaration_copy (hlo : 0x1000 ≤ agent) (hhi : agent < 0x2000) {u w v : State}
    (hu : u = (s.modRtu (fun r => { r with reported := r.reported.filter (· != agent) })).modQuad (agent - 0x1000)
      (fun q => { q with copyInc := (q.copyInc + 1) % 65536, copyDeaths := q.copyDeaths + 1 }))
    (hw : w = u.audit 0x0030 0xF000 0 (payload3 agent (u.quad (agent - 0x1000)).copyInc 0))
    (hv : v = ((w.quad (agent - 0x1000)).transfers.filter (fun t => !t.kind.stream)).foldl (fun s t => s.endDead t.id) w) :
    exec (.deadAgentDeclaration agent) s
      = .next (if 2 ≤ (v.quad (agent - 0x1000)).copyDeaths then v.modQuad (agent - 0x1000) (fun q => { q with outOfService := true })
        else v) := by
  rw [exec_deadAgentDeclaration_reported hr, State.deathRetires_copy _ hlo hhi, State.deathEnds_copy _ hlo hhi, State.deathRecorded,
    State.incOf_copy _ hlo hhi, State.deathTaken, State.raiseInc_copy _ hlo hhi, hv, hw, hu]

theorem exec_deadAgentDeclaration_ladle {k : Nat} (h : k < 0x1000) (ha : agent = 0x2000 + k) {u w : State}
    (hu : u = { s.modRtu (fun r => { r with reported := r.reported.filter (· != agent) }) with
      ladleInc := Store.put s.ladleInc k ((Store.get 0 s.ladleInc k + 1) % 65536),
      ladleDeaths := Store.put s.ladleDeaths k (Store.get 0 s.ladleDeaths k + 1) })
    (hw : w = u.audit 0x0030 0xF000 0 (payload3 agent (Store.get 0 u.ladleInc k) 0)) :
    exec (.deadAgentDeclaration agent) s = .next ((w.allTransfers.filter (fun t => t.kind.stream && t.ladles.contains k)).foldl
      (fun s t => if t.phase = .queued then s.moveLadle t k else s.endDead t.id) w) := by
  subst ha
  rw [exec_deadAgentDeclaration_reported hr, State.deathRetires_ge _ (Nat.le_add_right _ k), State.deathEnds_ladle _ h,
    State.deathRecorded, State.incOf_ladle _ h, State.deathTaken, State.raiseInc_ladle _ h, hw, hu]
  rfl

theorem exec_deadAgentDeclaration_proxy (h : 0x3000 ≤ agent) {u : State}
    (hu : u = (s.modRtu (fun r => { r with reported := r.reported.filter (· != agent) })).modPort (agent - 0x3000)
      (fun p => { p with inc := (p.inc + 1) % 65536, deaths := p.deaths + 1 })) :
    exec (.deadAgentDeclaration agent) s = .next ((u.audit 0x0030 0xF000 0 (payload3 agent (u.port (agent - 0x3000)).inc 0)).proxyDead
      (agent - 0x3000)) := by
  rw [exec_deadAgentDeclaration_reported hr, State.deathRetires_ge _ (by omega), State.deathEnds_proxy _ h, State.deathRecorded,
    State.incOf_proxy _ h, State.deathTaken, State.raiseInc_proxy _ h, hu]

end

/-! ## A home that receives the declaration (R253) -/

@[simp] theorem State.home_setHome (s : State) (home : Nat) (m : Home) : (s.setHome home m).home home = m :=
  Store.get_put_self _ _ _ _

theorem State.poisoned_setPoison (s : State) (a b : Nat) :
    (s.setPoison a).poisoned b = true ↔ lineNo b = lineNo a ∨ s.poisoned b = true := by
  simp [State.poisoned, State.setPoison, insertNat_mem]

theorem State.declareLine_poisoned (s : State) (home n : Nat) : (s.declareLine home n).poisoned (64 * n) = true :=
  (State.poisoned_setPoison _ _ _).mpr (.inl rfl)

theorem Home.owner_putGranule (m : Home) (g : Granule) (n : Nat) : (m.putGranule g).owner n = m.owner n := rfl

theorem State.declareLine_owner (s : State) (home n : Nat) : ((s.declareLine home n).home home).owner n = none := by
  show (((s.setHome home _).home home).owner n) = none
  rw [State.home_setHome, Home.owner_putGranule]
  simp [Home.owner, Home.line]

section
variable (s : State) (home agent : Nat)

/-- The lines of the home that a past incarnation of the agent owns. -/
def State.deadLines : List (Nat × HomeLine) :=
  (s.home home).lines.filter (fun l => l.2.owner.any (fun o => o.1 == agent && o.2 != s.incOf agent))

theorem exec_declarationReceive_deadLines : exec (.declarationReceive home agent) s =
    .next (((s.deadLines home agent).foldl (fun s l => s.declareLine home l.1) s).wakeHeld home) := rfl

end

/-! ## A patrol (R230) -/

/-- The patrol of a stack poisons an uncorrectable line that lies in it. -/
def State.patrolLine (stack : Nat) (s : State) (a : Nat) : State :=
  if a < Config.hbmBytes && stackOf a = stack then s.setPoison a else s

/-- A patrol changes the poison alone. -/
theorem State.patrolLines_frame (stack : Nat) (bad : List Nat) (s : State) :
    bad.foldl (State.patrolLine stack) s = { s with poison := (bad.foldl (State.patrolLine stack) s).poison } := by
  induction bad generalizing s with
  | nil => rfl
  | cons a bad ih =>
    rw [List.foldl_cons, ih]
    unfold State.patrolLine
    split <;> rfl

theorem State.patrolLine_poisoned {stack a b : Nat} {s : State} :
    (State.patrolLine stack s a).poisoned b = true ↔
      (a < Config.hbmBytes ∧ stackOf a = stack ∧ lineNo b = lineNo a) ∨ s.poisoned b = true := by
  unfold State.patrolLine
  simp only [Bool.and_eq_true, decide_eq_true_eq]
  split
  case isTrue hin => simp [State.poisoned_setPoison, hin]
  case isFalse hout =>
    rw [← and_assoc]
    simp [hout]

/-- What was poisoned stays poisoned, and every bad line of the stack becomes so. -/
theorem State.patrolLines_poisoned (stack : Nat) (bad : List Nat) (s : State) (b : Nat) :
    (bad.foldl (State.patrolLine stack) s).poisoned b = true ↔
      (∃ a ∈ bad, a < Config.hbmBytes ∧ stackOf a = stack ∧ lineNo b = lineNo a) ∨ s.poisoned b = true := by
  induction bad generalizing s with
  | nil => simp
  | cons a bad ih =>
    rw [List.foldl_cons, ih, State.patrolLine_poisoned, List.exists_mem_cons_iff, or_left_comm, or_assoc]

/-- The state that a patrol leaves. -/
def State.patrolled (s : State) (stack : Nat) (bad : List Nat) (n : Nat) : State :=
  { bad.foldl (State.patrolLine stack) { s with free := s.free + 1 } with
    corrected := Store.set 0 s.corrected (stack / 2) (Store.get 0 s.corrected (stack / 2) + n) }

theorem exec_patrolPass_patrolled {stack n : Nat} {bad : List Nat} {s : State} (h : stack < 8)
    (hp : Config.patrolErrors s.free stack = (bad, n)) : exec (.patrolPass stack) s = .next (s.patrolled stack bad n) := by
  rw [exec_patrolPass, execPatrolPass, if_neg (Nat.not_le.mpr h), hp]
  show Host.Outcome.next (let t := bad.foldl (State.patrolLine stack) { s with free := s.free + 1 }
    { t with corrected := Store.set 0 t.corrected (stack / 2) (Store.get 0 t.corrected (stack / 2) + n) }) = _
  rw [State.patrolled, State.patrolLines_frame]

theorem State.patrolled_free (s : State) (stack : Nat) (bad : List Nat) (n : Nat) : (s.patrolled stack bad n).free = s.free + 1 := by
  rw [State.patrolled, State.patrolLines_frame]

theorem State.patrolled_mem (s : State) (stack : Nat) (bad : List Nat) (n : Nat) : (s.patrolled stack bad n).mem = s.mem := by
  rw [State.patrolled, State.patrolLines_frame]

theorem State.patrolled_poisoned (s : State) {stack : Nat} {bad : List Nat} (n : Nat) {a : Nat} (ha : a ∈ bad)
    (hin : a < Config.hbmBytes) (hst : stackOf a = stack) : (s.patrolled stack bad n).poisoned a = true :=
  (State.patrolLines_poisoned stack bad _ a).mpr (.inl ⟨a, ha, hin, hst, rfl⟩)

/-! ## Power and temperature (R23, R24) -/

theorem Power.above_iff (p : Power) (mw : Nat) : p.above mw = true ↔ mw * p.samples.length < p.samples.sum := by
  simp [Power.above]

/-- Once a sample is taken, the bound is that of the average. -/
theorem Power.below_iff {p : Power} (mw : Nat) (h : 0 < p.samples.length) :
    p.below mw = true ↔ p.samples.sum < mw * p.samples.length := by
  simp [Power.below, Nat.max_eq_right (Nat.succ_le_of_lt h)]

theorem exec_dutyStep_hot {s : State} (h : s.power.hot = true) : exec .dutyStep s = .next s := by
  rw [exec_dutyStep, execDutyStep, if_pos h]

section
variable {s : State} (hc : s.power.hot = false)
include hc

theorem exec_dutyStep_above (h : 2800000 * s.power.samples.length < s.power.samples.sum) :
    exec .dutyStep s = .next { s with power := s.power.toStep (min 12 (s.power.step + 1)) } := by
  rw [exec_dutyStep, execDutyStep, if_neg (by simp [hc]), if_pos ((s.power.above_iff _).mpr h)]

theorem exec_dutyStep_below (h : s.power.samples.sum < 2660000 * s.power.samples.length) :
    exec .dutyStep s = .next { s with power := s.power.toStep (s.power.step - 1) } := by
  have hnot : ¬2800000 * s.power.samples.length < s.power.samples.sum := by omega
  rw [exec_dutyStep, execDutyStep, if_neg (by simp [hc]), if_neg (by rwa [s.power.above_iff]),
    if_pos ((Power.below_iff _ (by omega)).mpr h)]

theorem exec_dutyStep_between (hn : 0 < s.power.samples.length) (hlo : 2660000 * s.power.samples.length ≤ s.power.samples.sum)
    (hhi : s.power.samples.sum ≤ 2800000 * s.power.samples.length) : exec .dutyStep s = .next s := by
  rw [exec_dutyStep, execDutyStep, if_neg (by simp [hc]), if_neg (by rw [s.power.above_iff]; omega),
    if_neg (by rw [Power.below_iff _ hn]; omega)]

end

theorem Power.toStep_step (p : Power) (n : Nat) : (p.toStep n).step = n := by
  unfold Power.toStep
  split
  case isTrue h => exact h.symm
  case isFalse => rfl

theorem Power.toStep_hot (p : Power) (n : Nat) : (p.toStep n).hot = p.hot := by
  unfold Power.toStep
  split <;> rfl

/-- The power part of the state after a sensor has read a temperature. -/
def Power.sensed (p : Power) (sensor celsius : Nat) : Power :=
  let sensors := Store.set 0 p.sensors sensor celsius
  let hot := sensors.any (fun x => decide (100 ≤ x.2))
  let q := { p with sensors := sensors, hot := hot }
  if hot then q.toStep 12 else q

theorem Power.sensed_hot (p : Power) (sensor c : Nat) :
    (p.sensed sensor c).hot = true ↔ ∃ x ∈ Store.set 0 p.sensors sensor c, 100 ≤ x.2 := by
  have h : (p.sensed sensor c).hot = (Store.set 0 p.sensors sensor c).any (fun x => decide (100 ≤ x.2)) := by
    unfold Power.sensed
    dsimp only
    split
    · exact Power.toStep_hot _ _
    · rfl
  rw [h, List.any_eq_true]
  simp only [decide_eq_true_eq]

theorem Power.sensed_step (p : Power) (sensor c : Nat) :
    (p.sensed sensor c).step = if (p.sensed sensor c).hot then 12 else p.step := by
  by_cases hh : (Store.set 0 p.sensors sensor c).any (fun x => decide (100 ≤ x.2)) = true
  · simp [Power.sensed, hh, Power.toStep_hot, Power.toStep_step]
  · simp [Power.sensed, hh]

theorem exec_sensorSample_of_no_sensor {die sensor c : Nat} {s : State} (h : 4 ≤ die ∨ 16 ≤ sensor) :
    exec (.sensorSample die sensor c) s = .next s := by
  rw [exec_sensorSample, execSensorSample, if_pos (by simpa using h)]

/-- A thermal trip is recorded and halts the core clock. -/
def State.sensed (s : State) (die sensor c : Nat) : State :=
  let t := { s with power := s.power.sensed (16 * die + sensor) c }
  if 110 ≤ c then { t.audit 0x0020 0xF000 0 (payload3 die sensor c) with halted := true } else t

theorem exec_sensorSample_sensed {die sensor : Nat} (c : Nat) (s : State) (hd : die < 4) (hs : sensor < 16) :
    exec (.sensorSample die sensor c) s = .next (s.sensed die sensor c) := by
  rw [exec_sensorSample, execSensorSample, if_neg (by simp; omega), ← apply_ite]
  rfl

theorem State.sensed_halted_of_trip {c : Nat} (s : State) (die sensor : Nat) (h : 110 ≤ c) : (s.sensed die sensor c).halted = true := by
  rw [State.sensed, if_pos h]

theorem State.sensed_halted_of_no_trip {c : Nat} (s : State) (die sensor : Nat) (h : c < 110) :
    (s.sensed die sensor c).halted = s.halted := by
  rw [State.sensed, if_neg (Nat.not_le.mpr h)]

@[simp] theorem State.audit_power (s : State) (kind source asid payload : Nat) : (s.audit kind source asid payload).power = s.power := by
  rw [s.audit_frame]

theorem State.sensed_frame (s : State) (die sensor c : Nat) :
    (s.sensed die sensor c).power = s.power.sensed (16 * die + sensor) c ∧
    (s.sensed die sensor c).harts = s.harts ∧ (s.sensed die sensor c).mem = s.mem := by
  unfold State.sensed
  dsimp only
  split
  · simp
  · exact ⟨rfl, rfl, rfl⟩

/-! ## The statement -/

/-- Settles O48: the declaration by the class of its agent, then the home, the patrol, the duty step and the sensors. -/
theorem agentsAndPower : Obligations.AgentsAndPower := by
  unfold Obligations.AgentsAndPower
  refine ⟨fun agent s => ⟨exec_replyTimeout_awaited, exec_replyTimeout_of_not, exec_deadAgentDeclaration_unreported,
    fun _ _ hr h => exec_deadAgentDeclaration_hart hr h, fun _ hr h => exec_deadAgentDeclaration_proxy hr (by omega),
    fun home hnone => ?noneDead, fun _ _ hr hlo hhi hu hw _ => exec_deadAgentDeclaration_copy hr hlo hhi hu hw,
    fun _ _ _ hr h ha hu hw => exec_deadAgentDeclaration_ladle hr h ha hu hw, fun home => exec_declarationReceive_deadLines s home agent,
    fun home l hone => ?oneDead⟩,
    fun s home n => ⟨s.declareLine_poisoned home n, s.declareLine_owner home n⟩, fun stack n bad s h hp => ?patrol,
    exec_powerSample, fun s => ⟨exec_dutyStep_hot, fun hc n total hn htotal => ?duty⟩,
    fun die sensor c s => ⟨exec_sensorSample_of_no_sensor, fun hd hs => ?sensors⟩⟩
  case noneDead =>
    rw [exec_declarationReceive_deadLines, State.deadLines, hnone]
    rfl
  case oneDead =>
    rw [exec_declarationReceive_deadLines, State.deadLines, hone]
    rfl
  case patrol =>
    exact ⟨s.patrolled stack bad n, exec_patrolPass_patrolled h hp, s.patrolled_free stack bad n, s.patrolled_mem stack bad n,
      fun _ => s.patrolled_poisoned n, fun hrise => Store.get_set_self 0 hrise _ _⟩
  case duty =>
    subst hn htotal
    exact ⟨exec_dutyStep_above hc, exec_dutyStep_below hc, exec_dutyStep_between hc⟩
  case sensors =>
    obtain ⟨hpower, hharts, hmem⟩ := s.sensed_frame die sensor c
    refine ⟨s.sensed die sensor c, exec_sensorSample_sensed c s hd hs, ?_, ?_, ?_, hharts, hmem,
      s.sensed_halted_of_trip die sensor, s.sensed_halted_of_no_trip die sensor⟩
    · rw [hpower]
      exact Power.sensed_hot _ _ _
    · intro hh
      rw [hpower] at hh ⊢
      rw [Power.sensed_step, if_pos hh]
    · intro hh
      rw [hpower] at hh ⊢
      rw [Power.sensed_step, if_neg (by simp [hh])]

end Sys2Proof.Machine
end

section
/-! PROOF of host ports and die links (R35, R43, R45, R255): a port's link, a request to the host that fails, by the kind of the request,
the fetch of a proxy that fails, and the replays and the time-out of a die link. -/

namespace Sys2Proof.Machine

/-! ## The link of a host port (R45, R255) -/

section
variable {port : Nat} {s : State}

theorem exec_hostLinkDown_of_not_up (h : 2 ≤ port ∨ (s.port port).up = false) : exec (.hostLinkDown port) s = .next s := by
  rw [exec_hostLinkDown, execHostLinkDown, if_pos (by simpa using h)]

theorem exec_hostLinkDown_of_up (hp : port < 2) (hu : (s.port port).up = true) :
    exec (.hostLinkDown port) s = .next (s.hostDown port 0) := by
  rw [exec_hostLinkDown, execHostLinkDown, if_neg (by simp [hp, hu])]

theorem exec_hostLinkUp_of_up (cxl : Bool) (h : 2 ≤ port ∨ (s.port port).up = true) : exec (.hostLinkUp port cxl) s = .next s := by
  rw [exec_hostLinkUp, execHostLinkUp, if_pos (by simpa using h)]

theorem exec_hostLinkUp_of_not_up (cxl : Bool) (hp : port < 2) (hu : (s.port port).up = false) : exec (.hostLinkUp port cxl) s =
    .next ((s.modPort port (fun x => { x with up := true, cxl := cxl && decide (x.deaths < 2) })).audit 0x0022 0xF000 0
      (payload3 port 1 0)) := by
  rw [exec_hostLinkUp, execHostLinkUp, if_neg (by simp [hp, hu])]

end

/-! ## What answers a request that fails (R43) -/

section
variable {req : Nat} {s : State}

theorem exec_hostCompletionTimeout_request {r : HostReq} (h : s.hostReq req = some r) :
    exec (.hostCompletionTimeout req) s = .next (s.failReq req r failTimeout false xsTimeout) := by
  simp only [exec_hostCompletionTimeout, execHostCompletionTimeout, h]

theorem exec_hostErrorCompletion_refused {r : HostReq} (h : s.hostReq req = some r) {k : HostErr} (hk : k ≠ .poison) :
    exec (.hostErrorCompletion req k) s = .next (s.failReq req r failRefused false xsHostErr) := by
  simp only [exec_hostErrorCompletion, execHostErrorCompletion, h]

theorem exec_hostErrorCompletion_poison {r : HostReq} (h : s.hostReq req = some r) :
    exec (.hostErrorCompletion req .poison) s = .next (s.failReq req r failPoison true xsPoison) := by
  simp only [exec_hostErrorCompletion, execHostErrorCompletion, h]

theorem exec_hostCompletionTimeout_fetch {home line : Nat} {o : Bool} (hr : s.hostReq req = none)
    (hm : s.msg req = some (.hostFetch home line o)) :
    exec (.hostCompletionTimeout req) s = .next (s.failFetch req home line failTimeout false) := by
  simp only [exec_hostCompletionTimeout, execHostCompletionTimeout, hr, hm]

theorem exec_hostErrorCompletion_fetch {home line : Nat} {o : Bool} (hr : s.hostReq req = none)
    (hm : s.msg req = some (.hostFetch home line o)) (k : HostErr) :
    exec (.hostErrorCompletion req k) s =
      .next (s.failFetch req home line (if k = .poison then failPoison else failRefused) (k == .poison)) := by
  simp only [exec_hostErrorCompletion, execHostErrorCompletion, hr, hm]

/-- An answer to what is no longer awaited changes nothing. -/
theorem exec_hostCompletionTimeout_unawaited (hr : s.hostReq req = none)
    (hm : ∀ home line o, s.msg req ≠ some (.hostFetch home line o)) : exec (.hostCompletionTimeout req) s = .next s := by
  simp only [exec_hostCompletionTimeout, execHostCompletionTimeout, hr]

theorem exec_hostErrorCompletion_unawaited (hr : s.hostReq req = none)
    (hm : ∀ home line o, s.msg req ≠ some (.hostFetch home line o)) (k : HostErr) : exec (.hostErrorCompletion req k) s = .next s := by
  simp only [exec_hostErrorCompletion, execHostErrorCompletion, hr]

end

/-- A fetch of a proxy fails the first request that waits for its line. -/
theorem State.failFetch_of_first {s : State} {id home line k : Nat} {m : Msg} (bit : Nat) (bad : Bool)
    (h : (s.dropMsg id).msgs.find? (fun m => m.2.request.any (fun r => r.2 == (home, line))) = some (k, m)) :
    s.failFetch id home line bit bad = (s.dropMsg id).failRequest k m bit (home - 0x1000) bad := by
  simp only [State.failFetch, h]

/-! ## What a failed request ends, by its kind (R43, R76) -/

/-- A load or an AMO that fails: the bit of the fence status, and the trap. -/
def Hart.remoteFailed (x : Hart) (bit port cause : Nat) : Hart := (x.addFail bit (0x2000 + port) false).remoteDone 0 none (some cause)

section
variable (s : State) (id bit : Nat) (poison : Bool) (status : Nat)

theorem State.failReq_load (h p a n : Nat) : s.failReq id (.load h p a n) bit poison status =
    (s.dropReq id).modHart h (·.remoteFailed bit p (if poison then 29 else 5)) := rfl

theorem State.failReq_amo {r : HostReq} {h inc p a n val cmp t0 : Nat} {op : AmoOp}
    (hr : r = .amo h p a n op val cmp ∨ r = .amoC h inc p a n op val cmp t0) : s.failReq id r bit poison status =
    (s.dropReq id).modHart h (·.remoteFailed bit p (if poison then 29 else 7)) := by
  rcases hr with rfl | rfl <;> rfl

theorem State.failReq_copy {t : Nat} {x : Transfer} (p : Nat) (hx : (s.dropReq id).transfer t = some x) :
    s.failReq id (.copy t p) bit poison status =
      ((s.dropReq id).endTransfer t status).modHart x.hart (·.addFail bit (0x2000 + p) false) := by
  simp only [State.failReq, hx]

theorem State.failReq_zlr (h p n : Nat) : s.failReq id (.zlr h p n) bit poison status =
    (s.dropReq id).modHart h (·.addFail bit (0x2000 + p) false) := rfl

theorem State.failReq_args (l p : Nat) : s.failReq id (.args l p) bit poison status = (s.dropReq id).rejectLaunch l 6 := rfl

end

/-! ## The completions of a load, an AMO and a copy -/

section
variable {req p : Nat} {s u : State} (hu : u = s.dropReq req)
include hu

theorem exec_host_load_fails {h a n : Nat} (hr : s.hostReq req = some (.load h p a n)) :
    exec (.hostCompletionTimeout req) s = .next (u.modHart h (·.remoteFailed failTimeout p 5)) ∧
    exec (.hostErrorCompletion req .unsupported) s = .next (u.modHart h (·.remoteFailed failRefused p 5)) ∧
    exec (.hostErrorCompletion req .poison) s = .next (u.modHart h (·.remoteFailed failPoison p 29)) := by
  subst hu
  simp [exec_hostCompletionTimeout_request hr, exec_hostErrorCompletion_refused hr, exec_hostErrorCompletion_poison hr, State.failReq_load]

theorem exec_host_amo_fails {r : HostReq} {h inc a n val cmp t0 : Nat} {op : AmoOp} (hr : s.hostReq req = some r)
    (hamo : r = .amo h p a n op val cmp ∨ r = .amoC h inc p a n op val cmp t0) :
    exec (.hostCompletionTimeout req) s = .next (u.modHart h (·.remoteFailed failTimeout p 7)) ∧
    exec (.hostErrorCompletion req .unsupported) s = .next (u.modHart h (·.remoteFailed failRefused p 7)) ∧
    exec (.hostErrorCompletion req .abort) s = .next (u.modHart h (·.remoteFailed failRefused p 7)) ∧
    exec (.hostErrorCompletion req .poison) s = .next (u.modHart h (·.remoteFailed failPoison p 29)) := by
  subst hu
  simp [exec_hostCompletionTimeout_request hr, exec_hostErrorCompletion_refused hr, exec_hostErrorCompletion_poison hr,
    State.failReq_amo s req _ _ _ hamo]

theorem exec_host_copy_fails {t : Nat} {x : Transfer} (hr : s.hostReq req = some (.copy t p)) (hx : u.transfer t = some x) :
    exec (.hostCompletionTimeout req) s = .next ((u.endTransfer t xsTimeout).modHart x.hart (·.addFail failTimeout (0x2000 + p) false)) ∧
    exec (.hostErrorCompletion req .abort) s = .next ((u.endTransfer t xsHostErr).modHart x.hart (·.addFail failRefused (0x2000 + p) false)) ∧
    exec (.hostErrorCompletion req .poison) s = .next ((u.endTransfer t xsPoison).modHart x.hart (·.addFail failPoison (0x2000 + p) false)) := by
  subst hu
  simp [exec_hostCompletionTimeout_request hr, exec_hostErrorCompletion_refused hr, exec_hostErrorCompletion_poison hr,
    State.failReq_copy s req _ _ _ p hx]

end

/-! ## Die links (R35) -/

section
variable {edge : Nat} {s : State}

/-- What happens at a number that is no link's, or at a link that is down, changes nothing. -/
theorem exec_dieLink_of_not_up (h : 4 ≤ edge ∨ s.linkDown edge = true) :
    exec (.dieLinkIdleTimeout edge) s = .next s ∧ ∀ good, exec (.dieLinkReplay edge good) s = .next s := by
  have hcond : (decide (4 ≤ edge) || s.linkDown edge) = true := by simpa using h
  exact ⟨if_pos hcond, fun _ => if_pos hcond⟩

section
variable (he : edge < 4) (hu : s.linkDown edge = false)
include he hu

theorem dieLink_up_cond : ¬(decide (4 ≤ edge) || s.linkDown edge) = true := by simp [he, hu]

theorem exec_dieLinkIdleTimeout_of_up : exec (.dieLinkIdleTimeout edge) s = .next (s.dieLinkDown edge 1) := by
  rw [exec_dieLinkIdleTimeout, execDieLinkIdleTimeout, if_neg (dieLink_up_cond he hu)]

theorem exec_dieLinkReplay_good :
    exec (.dieLinkReplay edge true) s = .next { s with dieLinks := Store.put s.dieLinks edge { fails := 0 } } := by
  rw [exec_dieLinkReplay, execDieLinkReplay, if_neg (dieLink_up_cond he hu), if_pos rfl]

theorem exec_dieLinkReplay_failed : exec (.dieLinkReplay edge false) s =
    if 15 ≤ (Store.get {} s.dieLinks edge).fails then .next (s.dieLinkDown edge 0)
    else .next { s with dieLinks := Store.put s.dieLinks edge { fails := (Store.get {} s.dieLinks edge).fails + 1 } } := by
  rw [exec_dieLinkReplay, execDieLinkReplay, if_neg (dieLink_up_cond he hu), if_neg Bool.false_ne_true]

end

end

/-! ## The statement -/

/-- Settles O47: the port's link, the answers by what they answer, the failed request by its kind, and the die link by its count. -/
theorem links : Obligations.Links := by
  unfold Obligations.Links
  refine ⟨fun port s => ⟨exec_hostLinkDown_of_not_up, exec_hostLinkDown_of_up,
      fun cxl => ⟨exec_hostLinkUp_of_not_up cxl, exec_hostLinkUp_of_up cxl⟩⟩,
    fun req s hr hm => ⟨exec_hostCompletionTimeout_unawaited hr hm, exec_hostErrorCompletion_unawaited hr hm⟩,
    fun req home line o s hr hm => ⟨exec_hostCompletionTimeout_fetch hr hm, exec_hostErrorCompletion_fetch hr hm .unsupported,
      exec_hostErrorCompletion_fetch hr hm .abort, exec_hostErrorCompletion_fetch hr hm .poison⟩,
    fun s id home line bit bad k m => State.failFetch_of_first bit bad,
    fun req h p a n val cmp t0 inc op s u hu => ⟨exec_host_load_fails hu, fun hr => ?amo, fun x => exec_host_copy_fails hu,
      fun hr => ?zlr, fun hr => ?args⟩,
    fun edge s => ⟨exec_dieLink_of_not_up, fun he hu => ⟨exec_dieLinkIdleTimeout_of_up he hu, exec_dieLinkReplay_good he hu,
      fun hn => ?sixteenth, fun hn => ?counted⟩⟩⟩
  case amo =>
    rcases hr with hr | hr
    · exact exec_host_amo_fails (inc := inc) (t0 := t0) hu hr (.inl rfl)
    · exact exec_host_amo_fails hu hr (.inr rfl)
  case zlr => rw [exec_hostCompletionTimeout_request hr, State.failReq_zlr, hu]
  case args => rw [exec_hostCompletionTimeout_request hr, State.failReq_args, hu]
  case sixteenth => rw [exec_dieLinkReplay_failed he hu, if_pos hn]
  case counted => rw [exec_dieLinkReplay_failed he hu, if_neg (Nat.not_le.mpr hn)]

end Sys2Proof.Machine
end

section
/-! PROOF of puts and gets between devices (R36 to R45): this device as the target of a put and of a get, the places of a window, what
the answers do at the initiator, and the ports that go down and come up. -/

namespace Sys2Proof.Machine

/-! ## The places of a window (R14, R40) -/

theorem exists_of_mem_mapM {α β : Type} {f : α → Option β} {l : List α} {ys : List β} (h : l.mapM f = some ys) {y : β} (hy : y ∈ ys) :
    ∃ x ∈ l, f x = some y := by
  induction l generalizing ys with
  | nil =>
    obtain rfl : [] = ys := by simpa using h
    exact absurd hy List.not_mem_nil
  | cons a l ih =>
    simp only [List.mapM_cons, Option.bind_eq_bind, Option.pure_def, Option.bind_eq_some_iff, Option.some.injEq] at h
    obtain ⟨b, hb, bs, hbs, rfl⟩ := h
    rcases List.mem_cons.mp hy with rfl | hy
    · exact ⟨a, List.mem_cons_self, hb⟩
    · obtain ⟨x, hx, hfx⟩ := ih hbs hy
      exact ⟨x, List.mem_cons_of_mem a hx, hfx⟩

section
variable {s : State} {port off n : Nat} {w : NetWindow} {acc : Access}

theorem State.netPlaces_outside (h : w.len < off + n) : s.netPlaces port w acc off n = none := if_pos h

theorem State.netPlaces_inside {ps : List (Nat × Place)} (h : s.netPlaces port w acc off n = some ps) : off + n ≤ w.len := by
  by_contra hlen
  rw [State.netPlaces_outside (Nat.not_le.mp hlen)] at h
  exact absurd h (Option.some_ne_none ps).symm

theorem State.netPlaces_reached {ps : List (Nat × Place)} (h : s.netPlaces port w acc off n = some ps) {p : Nat × Place} (hp : p ∈ ps) :
    s.placeDead (netDie port) p.2 = false := by
  rw [State.netPlaces, if_neg (Nat.not_lt.mpr (State.netPlaces_inside h))] at h
  obtain ⟨x, -, hx⟩ := exists_of_mem_mapM h hp
  split at hx
  · split at hx
    · cases hx
    · next hdead =>
      cases hx
      simpa using hdead
  · cases hx

end

/-! ## This device as the target (R40) -/

/-- One piece of a put is written at its home: the bytes that are left, and the latest clock of the pieces so far. -/
def NetWindow.storePiece (w : NetWindow) (a : List Byte × Nat × State) (p : Nat × Place) : List Byte × Nat × State :=
  let r := a.2.2.writeRun 4096 w.asid 0
    (p.2, byteMask (p.2.addr % 64) p.1, BitVec.ofNat 512 (ofBytes (a.1.take p.1) * 2 ^ (8 * (p.2.addr % 64))))
  (a.1.drop p.1, max a.2.1 r.1, r.2)

/-- One piece of a get is read at its home: the bytes so far, and whether one of them is in error. -/
def NetWindow.loadPiece (w : NetWindow) (a : List Byte × Bool × State) (p : Nat × Place) : List Byte × Bool × State :=
  let r := a.2.2.readPiece w.asid 0 p.1 p.2
  (a.1 ++ bytesOf p.1 r.1, a.2.1 || r.2.2.1, r.2.2.2)

section
variable {port sq off : Nat} {s : State}

theorem netPort_down_cond (h : s.netDown.contains port = true ∨ 12 ≤ port) :
    (s.netDown.contains port || !decide (port < 12)) = true := by simpa using h

theorem netPort_up_cond (hu : s.netDown.contains port = false) (hp : port < 12) :
    ¬(s.netDown.contains port || !decide (port < 12)) = true := by simpa [hp] using hu

theorem exec_putArrive_of_down {data : List Byte} (h : s.netDown.contains port = true ∨ 12 ≤ port) :
    exec (.putArrive port sq off data) s = .next s := if_pos (netPort_down_cond h)

theorem exec_getRequest_of_down {len : Nat} (h : s.netDown.contains port = true ∨ 12 ≤ port) :
    exec (.getRequest port sq off len) s = .next s := if_pos (netPort_down_cond h)

section
variable (hu : s.netDown.contains port = false) (hp : port < 12) {v : State}
include hu hp

theorem exec_putArrive_refused {data : List Byte} (hv : v = s.netTouch port sq .store off data.length)
    (h : v.netPlaces port (s.netWindow port sq) .store off data.length = none) :
    exec (.putArrive port sq off data) s = .next (v.toHost .netRefuse) := by
  subst hv
  simp only [exec_putArrive, execPutArrive, if_neg (netPort_up_cond hu hp), h]

theorem exec_getRequest_refused {len : Nat} (hv : v = s.netTouch port sq .load off len)
    (h : v.netPlaces port (s.netWindow port sq) .load off len = none) :
    exec (.getRequest port sq off len) s = .next (v.toHost .netRefuse) := by
  subst hv
  simp only [exec_getRequest, execGetRequest, if_neg (netPort_up_cond hu hp), h]

/-- A put inside its window: the bytes first, then the counter, at a later time. -/
theorem exec_putArrive_stored {data rest : List Byte} {ps : List (Nat × Place)} {clk c : Nat} {u t : State}
    (hv : v = s.netTouch port sq .store off data.length)
    (h : v.netPlaces port (s.netWindow port sq) .store off data.length = some ps)
    (hstore : ps.foldl (s.netWindow port sq).storePiece (data, 0, v) = (rest, clk, u))
    (hcount : u.counterAdd (netDie port) (s.netWindow port sq).asid (s.netWindow port sq).counter data.length (clk + 1) = (c, t)) :
    exec (.putArrive port sq off data) s = .next (t.toHost .netAck) := by
  have hexec : exec (.putArrive port sq off data) s =
      .next (let a := ps.foldl (s.netWindow port sq).storePiece (data, 0, v)
        (a.2.2.counterAdd (netDie port) (s.netWindow port sq).asid (s.netWindow port sq).counter data.length (a.2.1 + 1)).2.toHost
          .netAck) := by
    subst hv
    simp only [exec_putArrive, execPutArrive, if_neg (netPort_up_cond hu hp), h]
    rfl
  rw [hexec, hstore]
  simp only [hcount]

theorem exec_getRequest_served {len : Nat} {bs : List Byte} {bad : Bool} {ps : List (Nat × Place)} {u : State}
    (hv : v = s.netTouch port sq .load off len)
    (h : v.netPlaces port (s.netWindow port sq) .load off len = some ps)
    (hload : ps.foldl (s.netWindow port sq).loadPiece ([], false, v) = (bs, bad, u)) :
    exec (.getRequest port sq off len) s = .next (if bad then u.toHost .netRefuse else u.toHost (.netData bs)) := by
  have hexec : exec (.getRequest port sq off len) s =
      .next (let a := ps.foldl (s.netWindow port sq).loadPiece ([], false, v)
        if a.2.1 then a.2.2.toHost .netRefuse else a.2.2.toHost (.netData a.1)) := by
    subst hv
    simp only [exec_getRequest, execGetRequest, if_neg (netPort_up_cond hu hp), h]
    rfl
  rw [hexec, hload]

end

end

/-! ## This device as the initiator (R40, R42, R43) -/

section
variable {id : Nat} {s : State}

/-- An answer to a transfer that is not under way on the network changes nothing. -/
theorem exec_netAnswer_unawaited (h : s.transfer id = none ∨ ∃ t, s.transfer id = some t ∧ (t.sent = false ∨ t.phase ≠ .moving))
    (r : Bool) (data : List Byte) :
    exec (.putAck id r) s = .next s ∧ exec (.getData id r data) s = .next s ∧ exec (.retransmissionLimit id) s = .next s := by
  rw [exec_putAck, exec_getData, exec_retransmissionLimit, execPutAck, execGetData, execRetransmissionLimit]
  rcases h with h | ⟨t, h, hidle⟩
  · simp only [h, and_self]
  · rcases hidle with hsent | hphase
    · simp [h, hsent]
    · simp [h, hphase]

section
variable {t : Transfer} (h : s.transfer id = some t) (hs : t.sent = true) (hm : t.phase = .moving)
include h hs hm

theorem exec_putAck_refused (hk : t.kind ≠ .getr) :
    exec (.putAck id true) s = .next ((s.failNet t xsRefused failRefused t.netTarget).completeTransfer id) := by
  simp [exec_putAck, execPutAck, h, hs, hm, hk]

theorem exec_putAck_acknowledged (hk : t.kind ≠ .getr) {m : Moving}
    (hmov : m = (Moving.countLocal { s := s, t := t } t.n).finish xsOk) :
    exec (.putAck id false) s = .next ((m.s.modTransfer id (fun _ => m.t)).completeTransfer id) := by
  simp [exec_putAck, execPutAck, h, hs, hm, hk, hmov]

theorem exec_getData_refused (data : List Byte) (hk : t.kind = .getr) :
    exec (.getData id true data) s = .next ((s.failNet t xsRefused failRefused t.netTarget).completeTransfer id) := by
  simp [exec_getData, execGetData, h, hs, hm, hk]

theorem exec_getData_answered (data : List Byte) (hk : t.kind = .getr) {m : Moving}
    (hmov : m = Moving.place (t.region.count + 1) { s := s.ensureTiles t, t := { t with sent := false, net := some data } }) :
    exec (.getData id false data) s = .next ((m.s.modTransfer id (fun _ => m.t)).completeTransfer id) := by
  simp [exec_getData, execGetData, h, hs, hm, hk, hmov]

theorem exec_retransmissionLimit_sent (hn : t.onNet = true) :
    exec (.retransmissionLimit id) s = .next (s.failNet t xsTimeout failTimeout t.netTarget) := by
  simp [exec_retransmissionLimit, execRetransmissionLimit, h, hs, hm, hn]

end

end

/-! ## Ports that go down and come up (R42, R43, R45) -/

section
variable {port : Nat} {s : State}

theorem exec_netPortDown_of_down (h : 12 ≤ port ∨ s.netDown.contains port = true) : exec (.netPortDown port) s = .next s := by
  rw [exec_netPortDown, execNetPortDown, if_pos (by simpa using h)]

/-- The queues of a port that goes down enter ERROR before the transfers on it end. -/
theorem exec_netPortDown_of_up {u : State} (hp : port < 12) (hu : s.netDown.contains port = false)
    (herr : u = ({ s with netDown := insertNat s.netDown port } : State).queuesToError port) :
    exec (.netPortDown port) s =
      .next (((u.allTransfers.filter (fun t => t.onNet && descPort t.desc == port && t.phase == .moving)).foldl
        (fun s t => s.failNet t xsDeadlink failDeadlink (0x3000 + port)) u).audit 0x0023 0xF000 0 (payload3 port 0 0)) := by
  rw [exec_netPortDown, execNetPortDown, if_neg (by rw [hu]; simp [hp]), herr]

theorem exec_netPortUp_of_down (h : s.netDown.contains port = true) : exec (.netPortUp port) s =
    .next (({ s with netDown := s.netDown.filter (· != port) } : State).audit 0x0023 0xF000 0 (payload3 port 1 0)) := if_pos h

theorem exec_netPortUp_of_up (h : s.netDown.contains port = false) : exec (.netPortUp port) s = .next s := by
  rw [exec_netPortUp, execNetPortUp, if_neg (by rw [h]; exact Bool.false_ne_true)]

end

/-! ## The statement -/

/-- Settles O50: a put and a get at their target, the places they reach, the answers at the initiator, and the port itself. -/
theorem network : Obligations.Network := by
  unfold Obligations.Network
  refine ⟨fun port sq off data s => ⟨exec_putArrive_of_down, fun hu hp v hv => ⟨exec_putArrive_refused hu hp hv,
      State.netPlaces_outside, fun ps rest clk c u w => exec_putArrive_stored hu hp hv⟩⟩,
    fun port sq off len s => ⟨exec_getRequest_of_down, fun hu hp v hv => ⟨exec_getRequest_refused hu hp hv,
      fun hps => exec_getRequest_served hu hp hv hps rfl, fun ps bs bad u => exec_getRequest_served hu hp hv⟩⟩,
    fun s port w acc off n ps h => ⟨State.netPlaces_inside h, fun p => State.netPlaces_reached h⟩,
    fun id s => exec_netAnswer_unawaited,
    fun id t s h hs hm => ⟨fun hk => ⟨exec_putAck_refused h hs hm hk, fun m => exec_putAck_acknowledged h hs hm hk⟩,
      fun data hk => ⟨exec_getData_refused h hs hm data hk, fun m => exec_getData_answered h hs hm data hk⟩,
      exec_retransmissionLimit_sent h hs hm⟩,
    fun s t status bit target => rfl,
    fun port s => ⟨exec_netPortDown_of_down, fun u => exec_netPortDown_of_up, exec_netPortUp_of_down, exec_netPortUp_of_up⟩⟩

end Sys2Proof.Machine
end

section
/-! PROOF of the state right after cold reset (R47): the sparse parts of the state list nothing, so what is looked up in them is at its
own reset values. -/

namespace Sys2Proof.Machine

theorem State.reset_hart (h : Nat) : State.reset.hart h = {} := rfl

theorem State.reset_memOk : Safety.MemOk State.reset := by
  unfold Safety.MemOk Memory.wf
  exact (Store.wf_iff 0 State.reset.mem).mpr ⟨List.Pairwise.nil, fun e he => absurd he List.not_mem_nil⟩

/-- Settles O55: every part of the state that is named is at its own reset value. -/
theorem resetState : Obligations.ResetState := by
  unfold Obligations.ResetState
  refine ⟨State.reset_memOk, rfl, rfl, rfl, rfl, rfl, rfl, rfl, rfl, rfl, rfl, fun h => ?_, fun _ => rfl, fun _ => rfl, fun _ => rfl⟩
  rw [State.reset_hart h]
  exact ⟨rfl, rfl, rfl, rfl, rfl, rfl, rfl, rfl⟩

end Sys2Proof.Machine
end

section
/-! PROOF of the measurements, the quotes and the fuse counter (R49 to R52). -/

namespace Sys2Proof.Machine

/-! ## Measurements (R50, R51) -/

theorem State.extend_meas_self (s : State) (i : Nat) (d : BitVec 256) (h : Store.Rising s.rtu.meas) :
    Store.get 0 (s.extend i d).rtu.meas i = s.rtu.extended i d := by
  rw [State.extend_eq_audit, State.audit_meas, State.setMeas_meas]
  exact Store.get_set_self 0 h i _

section
variable {i : Nat} {s : State} (d : BitVec 256)

theorem exec_measExtend_of_refused (h : s.rtu.boot ≠ .released ∨ i < 2 ∨ 7 < i) : exec (.measExtend i d) s = .next s := by
  rw [exec_measExtend, execMeasExtend, if_pos (by simpa [or_assoc] using h)]

theorem exec_measExtend_of_taken (hb : s.rtu.boot = .released) (hlo : 2 ≤ i) (hhi : i ≤ 7) : exec (.measExtend i d) s =
    .next ((s.extend i d).modRtu (fun r => { r with supervisor := if i = 3 then r.supervisor.or (some d) else r.supervisor })) := by
  rw [exec_measExtend, execMeasExtend, if_neg (by simp [hb]; omega)]

end

/-! ## Quotes (R52) -/

section
variable {s : State} (nonce : BitVec 256)

theorem exec_quoteRequest_of_ne (h : s.rtu.boot ≠ .released) : exec (.quoteRequest nonce) s = .next s := by
  rw [exec_quoteRequest, execQuoteRequest, if_neg h]

theorem exec_quoteRequest_of_released (h : s.rtu.boot = .released) :
    exec (.quoteRequest nonce) s = .next (s.modRtu (fun r => { r with signing := r.signing ++ [some nonce] })) := by
  rw [exec_quoteRequest, execQuoteRequest, if_pos h]

variable {nonce}

theorem exec_quoteSigned_of_quote {rest : List (Option (BitVec 256))} (h : s.rtu.signing = some nonce :: rest) :
    exec .quoteSigned s = .next (((s.modRtu (fun r => { r with signing := rest })).toHost
      (.quote (s.quoteBytes nonce ++ bytesOf 16224 (Config.slhSign (s.quoteBytes nonce)).toNat) s.rtu.unsealed)).audit 0x0050 0xF000 0
        (nonce.toNat % 2 ^ 128)) := by
  rw [exec_quoteSigned, execQuoteSigned, h]

theorem exec_quoteSigned_of_no_quote {rest : List (Option (BitVec 256))} (h : s.rtu.signing = none :: rest ∨ s.rtu.signing = []) :
    exec .quoteSigned s = .next s := by
  rcases h with h | h <;> rw [exec_quoteSigned, execQuoteSigned, h]

end

/-- The number at the start of a byte string. -/
theorem bytesAt_zero (n v : Nat) (rest : List Byte) : bytesAt (bytesOf n v ++ rest) 0 n = v % 2 ^ (8 * n) := by
  rw [bytesAt, List.drop_zero, List.take_left' (bytesOf_length n v), ofBytes_bytesOf]

/-- A number behind the first field of a byte string. -/
theorem bytesAt_skip {k off : Nat} (v n : Nat) (rest : List Byte) (h : k ≤ off) :
    bytesAt (bytesOf k v ++ rest) off n = bytesAt rest (off - k) n := by
  have hdrop : (bytesOf k v).drop off = [] := List.drop_eq_nil_of_le (by rw [bytesOf_length]; exact h)
  rw [bytesAt, List.drop_append, hdrop, List.nil_append, bytesOf_length, bytesAt]

section
variable (s : State) (nonce : BitVec 256)

theorem State.quoteBytes_length : (s.quoteBytes nonce).length = 512 := by
  simp [State.quoteBytes, List.length_flatMap]

theorem State.quoteBytes_fuses : bytesAt (s.quoteBytes nonce) 4 1 = s.rtu.fuses % 256 := by
  simp [State.quoteBytes, bytesAt_skip, bytesAt_zero]

theorem State.quoteBytes_nonce : bytesAt (s.quoteBytes nonce) 0x38 32 = nonce.toNat := by
  simp [State.quoteBytes, bytesAt_skip, bytesAt_zero, Nat.mod_eq_of_lt nonce.isLt]

theorem State.quoteBytes_head : bytesAt (s.quoteBytes nonce) 0x60 32 = s.rtu.head.toNat := by
  simp [State.quoteBytes, bytesAt_skip, bytesAt_zero, Nat.mod_eq_of_lt s.rtu.head.isLt]

theorem State.signedQuote_length :
    (s.quoteBytes nonce ++ bytesOf 16224 (Config.slhSign (s.quoteBytes nonce)).toNat).length = 16736 := by
  rw [List.length_append, s.quoteBytes_length nonce, bytesOf_length]

end

/-! ## The fuse counter (R49) -/

section
variable {v : Nat} {s : State}

theorem exec_fuseCounterAdvance_of_refused (h : s.rtu.boot ≠ .released ∨ s.rtu.advance.isSome = true ∨ v ≤ s.rtu.fuses ∨
    s.rtu.svn < v ∨ 64 < v) : exec (.fuseCounterAdvance v) s = .next s := by
  rw [exec_fuseCounterAdvance, execFuseCounterAdvance, if_pos (by simpa [or_assoc] using h)]

theorem exec_fuseCounterAdvance_of_taken {u : State} (hb : s.rtu.boot = .released) (ha : s.rtu.advance = none) (hlo : s.rtu.fuses < v)
    (hsvn : v ≤ s.rtu.svn) (hhi : v ≤ 64)
    (hu : u = (s.modRtu (fun r => { r with advance := some v })).modDisp (fun d => { d with stopped := true })) :
    exec (.fuseCounterAdvance v) s = .next (u.disp.tasks.foldl (fun s t => s.stopTask t.1) u) := by
  rw [exec_fuseCounterAdvance, execFuseCounterAdvance, if_neg (by simp [hb, ha, hlo, hsvn, hhi]), hu]

theorem exec_fuseBlow_of_no_advance (h : s.rtu.advance = none) : exec .fuseBlow s = .next s := by
  rw [exec_fuseBlow, execFuseBlow, h]

theorem exec_retranslationComplete_of_no_advance (h : s.rtu.advance = none) : exec .retranslationComplete s = .next s := by
  rw [exec_retranslationComplete, execRetranslationComplete, h]

@[simp] theorem State.audit_heap (s : State) (kind source asid payload : Nat) : (s.audit kind source asid payload).heap = s.heap := by
  rw [s.audit_frame]

section
variable (ha : s.rtu.advance = some v)
include ha

theorem exec_fuseBlow_of_not_due (h : s.rtu.fuses = v ∨ s.allSaved = false) : exec .fuseBlow s = .next s := by
  simp only [exec_fuseBlow, execFuseBlow, ha]
  exact if_pos (by simpa using h)

theorem exec_fuseBlow_of_due {old : List Nat} {u : State} (hf : s.rtu.fuses ≠ v) (hs : s.allSaved = true)
    (hold : old = (s.heap.filter (fun t => t.2.svn < v && !t.2.purged)).map (·.1))
    (hu : u = s.audit 0x0004 0xF000 0 (payload3 s.rtu.fuses v 0)) :
    exec .fuseBlow s = .next ((({ u with
      heap := s.heap.map (fun t : Nat × Translation => if old.contains t.1 then (t.1, { t.2 with purged := true, starts := [] }) else t)
      harts := s.harts.map (fun h : Nat × Hart => (h.1, { h.2 with icache := [] })) } : State).modRtu (fun r =>
        { r with fuses := v, purged := old })).audit 0x0005 0xF001 0 (payload3 old.length 0 0)) := by
  have hgo : ¬(s.rtu.fuses == v || !s.allSaved) = true := by simp [hf, hs]
  simp only [exec_fuseBlow, execFuseBlow, ha, if_neg hgo, State.audit_heap, State.audit_harts, hu, hold]

theorem exec_retranslationComplete_of_not_blown (h : s.rtu.fuses ≠ v) : exec .retranslationComplete s = .next s := by
  simp only [exec_retranslationComplete, execRetranslationComplete, ha, if_pos h]

theorem exec_retranslationComplete_of_blown {w : State} (h : s.rtu.fuses = v)
    (hw : w = s.rtu.purged.foldl State.forget (s.rtu.purged.foldl State.retranslate s)) :
    exec .retranslationComplete s =
      .next ((w.modRtu (fun r => { r with advance := none, purged := [] })).modDisp (fun d => { d with stopped := false })) := by
  simp only [exec_retranslationComplete, execRetranslationComplete, ha, if_neg (not_not.mpr h), hw]

end

end

/-! ## The statement -/

/-- Settles O40: one register extended, the quote and its fields, and each event of the fuse counter, lemma by lemma. -/
theorem measurementsAndFuses : Obligations.MeasurementsAndFuses := by
  unfold Obligations.MeasurementsAndFuses
  refine ⟨⟨fun s i d hm => ⟨s.extend_meas_self i d hm, fun j => s.extend_meas_ne d⟩,
      fun i d s => ⟨exec_measExtend_of_refused d, exec_measExtend_of_taken d⟩,
      fun nonce s => ⟨exec_quoteRequest_of_ne nonce, exec_quoteRequest_of_released nonce⟩,
      fun nonce rest s => ⟨exec_quoteSigned_of_quote, s.signedQuote_length nonce, exec_quoteSigned_of_no_quote, s.quoteBytes_length nonce,
        s.quoteBytes_fuses nonce, s.quoteBytes_nonce nonce, s.quoteBytes_head nonce⟩⟩,
    fun v s => ⟨exec_fuseCounterAdvance_of_refused, fun u => exec_fuseCounterAdvance_of_taken⟩,
    fun v s ha => ⟨exec_fuseBlow_of_not_due ha, fun old u => exec_fuseBlow_of_due ha, exec_retranslationComplete_of_not_blown ha,
      fun w => exec_retranslationComplete_of_blown ha⟩,
    fun s ha => ⟨exec_fuseBlow_of_no_advance ha, exec_retranslationComplete_of_no_advance ha⟩⟩

end Sys2Proof.Machine
end

section
/-! PROOF of the audit log (R56 to R61): an entry and its place in the chain, the CHECKPOINT that closes a segment, then sealing and
spilling. -/

namespace Sys2Proof.Machine

/-! ## An entry (R56, R57) -/

/-- The entry that the log takes next. -/
def Rtu.nextEntry (r : Rtu) (ns kind source asid : Nat) (payload : BitVec 192) : AuditEntry :=
  { seq := r.seq, ns := ns, kind := kind, source := source, asid := asid, payload := payload, link := r.head.setWidth 128 }

/-! ## The end of a segment (R59, R61) -/

/-- CHECKPOINT is recorded and the segment that it ends joins the segments and the signing queue. -/
def Rtu.closeSegment (r : Rtu) (ns : Nat) : Rtu :=
  let c := r.push ns 0x0010 0xF000 0 (BitVec.ofNat 192 (r.seq / 4096 + r.lastFinal.toNat % 2 ^ 128 * 2 ^ 64))
  { c with
    segments := c.segments ++ [{ idx := r.seq / 4096, final := c.head }], lastFinal := c.head, signing := c.signing ++ [none] }

theorem Rtu.closeSegment_checkpoint (r : Rtu) (ns : Nat) : ∃ e : AuditEntry,
    (r.closeSegment ns).entries.getLast? = some e ∧ e.kind = 0x0010 ∧ e.source = 0xF000 ∧ e.seq = r.seq :=
  ⟨_, List.getLast?_concat, rfl, rfl, rfl⟩

section
variable (s : State) (kind source asid payload : Nat)

theorem State.audit_of_eq (h : s.rtu.seq % 4096 = 4094) {r : Rtu}
    (hr : r = (s.rtu.push s.ns kind source asid (BitVec.ofNat 192 payload)).closeSegment s.ns) :
    s.audit kind source asid payload = { s with rtu := r, halted := s.halted || !r.segmentFree (s.rtu.seq / 4096 + 1) } := by
  have hseq : (s.rtu.push s.ns kind source asid (BitVec.ofNat 192 payload)).seq = s.rtu.seq + 1 := rfl
  have hidx : (s.rtu.seq + 1) / 4096 = s.rtu.seq / 4096 := by omega
  have hlast : (s.rtu.seq + 1) % 4096 = 4095 := by omega
  rw [hr, State.audit, Rtu.closeSegment]
  simp only [hseq, hidx, if_pos hlast]

theorem State.audit_closes (h : s.rtu.seq % 4096 = 4094) {t : State} (ht : t = s.audit kind source asid payload) :
    t.rtu.seq = s.rtu.seq + 2 ∧
    (∃ e : AuditEntry, t.rtu.entries.getLast? = some e ∧ e.kind = 0x0010 ∧ e.source = 0xF000 ∧ e.seq = s.rtu.seq + 1) ∧
    t.rtu.segments = s.rtu.segments ++ [{ idx := s.rtu.seq / 4096, final := t.rtu.head }] ∧
    t.rtu.signing = s.rtu.signing ++ [none] ∧
    (t.halted = true ↔ s.halted = true ∨ t.rtu.segmentFree (s.rtu.seq / 4096 + 1) = false) := by
  have hidx : (s.rtu.seq + 1) / 4096 = s.rtu.seq / 4096 := by omega
  rw [State.audit_of_eq s kind source asid payload h rfl] at ht
  subst ht
  refine ⟨rfl, Rtu.closeSegment_checkpoint _ _, ?_, rfl, by simp⟩
  rw [← hidx]
  rfl

end

/-! ## The RTU's own entries (R58) -/

theorem hardwareKinds_lt : ∀ k ∈ hardwareKinds, k < 0x8000 := by decide

section
variable {kind source asid : Nat} (payload : BitVec 192) (s : State)

theorem exec_auditAppend_of_hardware (hk : hardwareKinds.contains kind = true) (hs : source < 65536) (ha : asid < 65536) :
    exec (.auditAppend kind source asid payload) s = .next (s.audit kind source asid payload.toNat) := by
  rw [exec_auditAppend, execAuditAppend, if_pos (by simp [hs, ha, List.contains_iff_mem.mp hk])]

theorem exec_auditAppend_of_refused (h : hardwareKinds.contains kind = false ∨ 65536 ≤ source ∨ 65536 ≤ asid) :
    exec (.auditAppend kind source asid payload) s = .next s := by
  have hno : ¬(hardwareKinds.contains kind && decide (source < 65536) && decide (asid < 65536)) = true := by
    rcases h with h | h | h
    · rw [h]
      exact Bool.false_ne_true
    · simp [Nat.not_lt.mpr h]
    · simp [Nat.not_lt.mpr h]
  rw [exec_auditAppend, execAuditAppend, if_neg hno]

theorem exec_auditAppend_of_firmware_kind (h : 0x8000 ≤ kind) : exec (.auditAppend kind source asid payload) s = .next s := by
  refine exec_auditAppend_of_refused payload s (.inl (Bool.eq_false_iff.mpr fun hc => ?_))
  exact absurd (hardwareKinds_lt kind (List.contains_iff_mem.mp hc)) (Nat.not_lt.mpr h)

end

/-! ## Sealing (R52, R59) -/

section
variable {s : State} {rest : List (Option (BitVec 256))}

theorem exec_segmentSeal_of_no_segment (h : s.rtu.signing = [] ∨ ∃ n, s.rtu.signing = some n :: rest) :
    exec .segmentSeal s = .next s := by
  rcases h with h | ⟨n, h⟩ <;> rw [exec_segmentSeal, execSegmentSeal, h]

theorem exec_segmentSeal_of_segment (h : s.rtu.signing = none :: rest) : exec .segmentSeal s = .next (s.modRtu (fun r =>
    { r with
      signing := rest,
      segments := modifyFirst (fun g => !g.sealed)
        (fun g => { g with sealed := true, signature := bytesOf 16224 (Config.slhSign g.message).toNat }) r.segments })) := by
  rw [exec_segmentSeal, execSegmentSeal, h]

end

/-! ## Spilling (R60) -/

section
variable {s : State} {base port k : Nat}

section
variable {g : Segment} (ho : s.rtu.overflow = some (base, port, k))
  (hg : s.rtu.segments.find? (fun g => g.sealed && !g.spilled) = some g)
include ho hg

theorem exec_spillWriteComplete_of_taken (h : s.rtu.segments.any (fun o => o.spilled && o.idx + k == g.idx) = true) :
    exec .spillWriteComplete s = .next s := by
  simp only [exec_spillWriteComplete, execSpillWriteComplete, ho, hg, h, Bool.true_or, if_true]

theorem exec_spillWriteComplete_of_free {u : State} (hu : (s.port port).up = true)
    (h : s.rtu.segments.any (fun o => o.spilled && o.idx + k == g.idx) = false)
    (hw : u = s.hostStore (Config.hostBase + base + g.idx % k * 278528) (s.rtu.spillBytes g)) :
    exec .spillWriteComplete s = .next ((u.modRtu (fun r =>
      { r with segments := r.segments.map (fun o => if o.idx = g.idx then { o with spilled := true } else o) })).audit 0x0051 0xF000 0
        (payload3 g.idx (g.idx % k) 0)) := by
  have hgo : ¬(false || !(s.port port).up) = true := by simp [hu]
  simp only [exec_spillWriteComplete, execSpillWriteComplete, ho, hg, h, if_neg hgo, hw]

end

theorem exec_spillWriteComplete_of_nothing (h : s.rtu.overflow = none ∨ s.rtu.segments.find? (fun g => g.sealed && !g.spilled) = none ∨
    (∃ base port k, s.rtu.overflow = some (base, port, k) ∧ (s.port port).up = false)) : exec .spillWriteComplete s = .next s := by
  rw [exec_spillWriteComplete, execSpillWriteComplete]
  rcases h with h | h | ⟨base, port, k, ho, hd⟩
  · rw [h]
  · rw [h]
    split
    next hg => cases hg
    next => rfl
  · rw [ho]
    split
    next heq _ =>
      cases heq
      exact if_pos (by simp [hd])
    next => rfl

theorem exec_spillAck_of_unspilled {seg : Nat} (h : s.rtu.segments.any (fun g => g.idx == seg && g.spilled) = false) :
    exec (.spillAck seg) s = .next s := by
  rw [exec_spillAck, execSpillAck, if_neg (by rw [h]; exact Bool.false_ne_true)]

theorem exec_spillAck_of_spilled {seg : Nat} (h : s.rtu.segments.any (fun g => g.idx == seg && g.spilled) = true) :
    exec (.spillAck seg) s = .next (s.modRtu (fun r =>
      { r with
        segments := r.segments.filter (fun g => g.idx != seg),
        entries := r.entries.filter (fun e => e.seq / 4096 != seg) })) := by
  rw [exec_spillAck, execSpillAck, if_pos h]

theorem overflowArea_cond :
    (decide (s.rtu.boot = .released) && decide (port < 2) && decide (2 ≤ k) && decide (base + k * 278528 ≤ 2 ^ 55)) = true ↔
    s.rtu.boot = .released ∧ port < 2 ∧ 2 ≤ k ∧ base + k * 278528 ≤ 2 ^ 55 := by
  simp only [Bool.and_eq_true, decide_eq_true_eq, and_assoc]

theorem exec_overflowAreaSet_of_taken (hb : s.rtu.boot = .released) (hp : port < 2) (hk : 2 ≤ k) (ha : base + k * 278528 ≤ 2 ^ 55) :
    exec (.overflowAreaSet base port k) s = .next (s.modRtu (fun r => { r with overflow := some (base, port, k) })) := by
  rw [exec_overflowAreaSet, execOverflowAreaSet, if_pos (overflowArea_cond.mpr ⟨hb, hp, hk, ha⟩)]

theorem exec_overflowAreaSet_of_refused (h : s.rtu.boot ≠ .released ∨ 2 ≤ port ∨ k < 2 ∨ 2 ^ 55 < base + k * 278528) :
    exec (.overflowAreaSet base port k) s = .next s := by
  rw [exec_overflowAreaSet, execOverflowAreaSet, if_neg]
  intro hc
  obtain ⟨hb, hp, hk, ha⟩ := overflowArea_cond.mp hc
  rcases h with h | h | h | h
  · exact h hb
  all_goals omega

end

/-! ## The statement -/

/-- Settles O41: an entry, the end of a segment, and each event of the log, lemma by lemma. -/
theorem auditLog : Obligations.AuditLog := by
  unfold Obligations.AuditLog
  refine ⟨fun r ns kind source asid payload => ⟨r.nextEntry ns kind source asid payload, rfl, rfl, rfl, rfl, rfl, rfl, rfl, rfl, rfl, rfl⟩,
    fun s kind source asid payload => ⟨s.audit_of_ne kind source asid payload, fun h => s.audit_closes kind source asid payload h rfl⟩,
    fun kind source asid payload s => ⟨exec_auditAppend_of_hardware payload s, exec_auditAppend_of_refused payload s,
      exec_auditAppend_of_firmware_kind payload s⟩,
    fun s rest => exec_segmentSeal_of_no_segment,
    fun s rest => exec_segmentSeal_of_segment,
    fun s base port k g ho hg hu => ⟨exec_spillWriteComplete_of_taken ho hg, fun u => exec_spillWriteComplete_of_free ho hg hu⟩,
    fun s => exec_spillWriteComplete_of_nothing,
    fun seg s => ⟨exec_spillAck_of_unspilled, exec_spillAck_of_spilled⟩,
    fun base port k s => exec_overflowAreaSet_of_taken,
    fun base port k s => exec_overflowAreaSet_of_refused⟩

end Sys2Proof.Machine
end

section
/-! PROOF of the supervisor calls on owners, frames, tenants, contexts, ports, apertures, stages and vault blocks (R53 to R55, R69, R70,
R85 to R87, R91, R94, R213): for each call, one lemma per answer. -/

namespace Sys2Proof.Machine

/-! ## Owners (R53, R94) -/

section
variable {s : State}

theorem ownerCreate_busy (h : s.rtu.auditFull = true) : ownerCreate s = s.answer (-2) := if_pos h

section
variable (hf : s.rtu.auditFull = false)
include hf

theorem ownerCreate_no_slot (h : ∀ i, i < 4096 → s.slotUsed i = true) : ownerCreate s = s.answer (-4) := by
  have hnone : (List.range 4096).find? (fun i => !s.slotUsed i) = none := by
    simpa only [List.find?_eq_none, List.mem_range, Bool.not_eq_true', Bool.not_eq_false] using h
  rw [ownerCreate, if_neg (ne_true_of_eq_false hf), hnone]
  rfl

theorem ownerCreate_lowest {i : Nat} (hi : i < 4096) (hfree : s.slotUsed i = false) (hlow : ∀ j, j < i → s.slotUsed j = true) :
    ownerCreate s = ((s.modRtu (fun r => { r with keys := Store.put r.keys i r.nextKey, nextKey := r.nextKey + 1 })).audit
      0x0040 0xF000 0 (payload3 i 0 0)).answer 0 (some i) := by
  have hsome : (List.range 4096).find? (fun i => !s.slotUsed i) = some i := by
    rw [List.find?_range_eq_some]
    exact ⟨by simp [hfree], List.mem_range.mpr hi, fun j hj => by simp [hlow j hj]⟩
  rw [ownerCreate, if_neg (ne_true_of_eq_false hf), hsome]
  rfl

end

theorem ownerDestroy_invalid (h : s.arg 0 = 0 ∨ 4095 < s.arg 0 ∨ s.slotUsed (s.arg 0) = false) : ownerDestroy s = s.answer (-1) :=
  if_pos (by simpa [or_assoc] using h)

/-- Does a context belong to a tenant of the owner? -/
theorem ownerUsed_iff (i : Nat) : s.disp.contexts.any (fun c => (s.tenant c.2.asid).any (fun t => t.owner == i)) = true ↔
    ∃ c ∈ s.disp.contexts, ∃ t, s.tenant c.2.asid = some t ∧ t.owner = i := by
  simp only [List.any_eq_true, Option.any_eq_true, beq_iff_eq]

section
variable (hlo : 0 < s.arg 0) (hhi : s.arg 0 ≤ 4095) (hu : s.slotUsed (s.arg 0) = true)
include hlo hhi hu

theorem ownerDestroy_used (h : ∃ c ∈ s.disp.contexts, ∃ t, s.tenant c.2.asid = some t ∧ t.owner = s.arg 0) :
    ownerDestroy s = s.answer (-5) := by
  rw [ownerDestroy, if_neg (by simp [hu]; omega), if_pos ((ownerUsed_iff _).mpr h)]
  rfl

theorem ownerDestroy_unused (h : ∀ c ∈ s.disp.contexts, ∀ t, s.tenant c.2.asid = some t → t.owner ≠ s.arg 0) {u : State}
    (hw : u = ((s.frames.filter (fun f => f.2.slot == s.arg 0)).map (·.1)).foldl (fun s f => (s.dropFrame f).loseFrame f) s) :
    ownerDestroy s = ((u.modRtu (fun r => { r with keys := Store.del r.keys (s.arg 0) })).audit 0x0041 0xF000 0
      (payload3 (s.arg 0) 0 0)).answer 0 := by
  have hno : ¬s.disp.contexts.any (fun c => (s.tenant c.2.asid).any (fun t => t.owner == s.arg 0)) = true := fun hc => by
    obtain ⟨c, hmem, t, ht, ho⟩ := (ownerUsed_iff _).mp hc
    exact h c hmem t ht ho
  rw [ownerDestroy, if_neg (by simp [hu]; omega), if_neg hno, hw]
  rfl

end

/-! ## Frames (R54, R55, R94) -/

theorem frameSet_invalid (h : s.arg 0 % 0x200000 ≠ 0 ∨ s.arg 1 = 0 ∨ Config.hbmBytes < s.arg 0 + s.arg 1 * 0x200000 ∨ 4095 < s.arg 2 ∨
    s.slotUsed (s.arg 2) = false ∨ 1 < s.arg 3 ∨ (s.arg 3 = 1 ∧ s.arg 2 ≠ 0) ∨ (s.arg 3 = 0 ∧ s.arg 2 = 0)) :
    frameSet s = s.answer (-1) := by
  refine if_pos ?_
  rcases h with h | h | h | h | h | h | ⟨h, hslot⟩ | ⟨h, hslot⟩
  iterate 6 · simp [h]
  · simp [h, hslot, natBit]
  · simp [h, hslot, natBit]

section
variable (ha : s.arg 0 % 0x200000 = 0) (hn : 0 < s.arg 1) (hend : s.arg 0 + s.arg 1 * 0x200000 ≤ Config.hbmBytes) (hs : s.arg 2 ≤ 4095)
  (hu : s.slotUsed (s.arg 2) = true) (htag : s.arg 3 = 1 ∧ s.arg 2 = 0 ∨ s.arg 3 = 0 ∧ s.arg 2 ≠ 0)
include ha hn hend hs hu htag

theorem frameSet_of_valid : frameSet s =
    if (List.range (s.arg 1)).any (fun i => ((s.frame (s.arg 0 / 0x200000 + i)).slot == 0 && !(s.frame (s.arg 0 / 0x200000 + i)).supw) ||
        (s.frame (s.arg 0 / 0x200000 + i)).image) then s.answer (-5)
    else (s.tagFrames (s.arg 0 / 0x200000) (s.arg 1) (s.arg 2) (s.arg 3 == 1)).answer 0 := by
  have hbit : natBit (s.arg 3) 0 = (s.arg 3 == 1) := by
    rcases htag with ⟨h, -⟩ | ⟨h, -⟩ <;> rw [h] <;> rfl
  have hvalid : ¬(decide (s.arg 0 % 0x200000 ≠ 0) || decide (s.arg 1 = 0) || decide (Config.hbmBytes < s.arg 0 + s.arg 1 * 0x200000) ||
      decide (4095 < s.arg 2) || !s.slotUsed (s.arg 2) || (s.arg 3 == 1 && s.arg 2 != 0) || (s.arg 2 == 0 && !(s.arg 3 == 1)) ||
      decide (1 < s.arg 3)) = true := by
    simp [hu]
    omega
  simp only [frameSet, hbit]
  rw [if_neg hvalid]
  rfl

theorem frameSet_held {f : Nat} (hf : f = s.arg 0 / 0x200000)
    (h : ∃ i, i < s.arg 1 ∧ ((s.frame (f + i)).slot = 0 ∧ (s.frame (f + i)).supw = false ∨ (s.frame (f + i)).image = true)) :
    frameSet s = s.answer (-5) := by
  rw [frameSet_of_valid ha hn hend hs hu htag, ← hf]
  exact if_pos (by simpa using h)

theorem frameSet_tags {f : Nat} (hf : f = s.arg 0 / 0x200000)
    (h : ∀ i, i < s.arg 1 → ((s.frame (f + i)).slot ≠ 0 ∨ (s.frame (f + i)).supw = true) ∧ (s.frame (f + i)).image = false) :
    frameSet s = (s.tagFrames f (s.arg 1) (s.arg 2) (s.arg 3 == 1)).answer 0 := by
  rw [frameSet_of_valid ha hn hend hs hu htag, ← hf]
  refine if_neg ?_
  simpa [or_iff_not_imp_left] using h

end

/-! ## Tenants (R85 to R87, R94) -/

theorem tenant_descriptor_invalid (h : s.descriptor.filter s.descOk = none) : tenantCreate s = s.answer (-1) ∧ tenantSet s = s.answer (-1) := by
  rw [tenantCreate, tenantSet, h]
  exact ⟨rfl, rfl⟩

section
variable {b : List Byte} {asid : Nat} (hb : s.descriptor.filter s.descOk = some b) (hasid : asid = bytesAt b 0 2)
include hb hasid

section
variable (ht : (s.tenant asid).isSome = true)
include ht

theorem tenantCreate_exists : tenantCreate s = s.answer (-3) := by
  subst hasid
  simp only [tenantCreate, hb]
  exact if_pos ht

theorem tenantSet_no_room (h : s.hartCount < s.reserves asid + (descTenant b).reserve) : tenantSet s = s.answer (-4) := by
  subst hasid
  obtain ⟨t, ht⟩ := Option.isSome_iff_exists.mp ht
  simp only [tenantSet, hb, ht]
  exact if_pos h

theorem tenantSet_sets (h : s.reserves asid + (descTenant b).reserve ≤ s.hartCount) : tenantSet s = (s.modTenant asid (fun t =>
    { t with reserve := (descTenant b).reserve, cap := (descTenant b).cap, floor := (descTenant b).floor,
             slack := (descTenant b).slack })).answer 0 := by
  subst hasid
  obtain ⟨t, ht⟩ := Option.isSome_iff_exists.mp ht
  simp only [tenantSet, hb, ht]
  exact if_neg (Nat.not_lt.mpr h)

end

section
variable (ht : s.tenant asid = none)
include ht

theorem tenantSet_unknown : tenantSet s = s.answer (-5) := by
  subst hasid
  simp only [tenantSet, hb, ht]
  rfl

theorem tenantCreate_burnt (h : s.disp.burnt.contains asid = true) : tenantCreate s = s.answer (-5) := by
  subst hasid
  simp only [tenantCreate, hb, ht, h]
  rfl

theorem tenantCreate_unburnt (h : s.disp.burnt.contains asid = false) : tenantCreate s =
    if s.hartCount < s.reserves asid + (descTenant b).reserve then s.answer (-4)
    else (s.modDisp (fun d => { d with tenants := Store.put d.tenants asid (descTenant b) })).answer 0 := by
  subst hasid
  simp only [tenantCreate, hb, ht, h]
  rfl

theorem tenantCreate_no_room (h : s.disp.burnt.contains asid = false) (hr : s.hartCount < s.reserves asid + (descTenant b).reserve) :
    tenantCreate s = s.answer (-4) := by
  rw [tenantCreate_unburnt hb hasid ht h, if_pos hr]

theorem tenantCreate_creates (h : s.disp.burnt.contains asid = false) (hr : s.reserves asid + (descTenant b).reserve ≤ s.hartCount) :
    tenantCreate s = (s.modDisp (fun d => { d with tenants := Store.put d.tenants asid (descTenant b) })).answer 0 := by
  rw [tenantCreate_unburnt hb hasid ht h, if_neg (Nat.not_lt.mpr hr)]

end

end

theorem tenantDestroy_invalid (h : s.arg 0 = 0 ∨ 65535 < s.arg 0) : tenantDestroy s = s.answer (-1) := if_pos (by simpa using h)

section
variable (hlo : 0 < s.arg 0) (hhi : s.arg 0 ≤ 65535)
include hlo hhi

theorem tenantDestroy_refused (h : s.tenant (s.arg 0) = none ∨ s.disp.contexts.any (fun c => c.2.asid == s.arg 0) = true) :
    tenantDestroy s = s.answer (-5) := by
  rw [tenantDestroy, if_neg (by simp; omega), if_pos (by simpa only [Bool.or_eq_true, Option.isNone_iff_eq_none] using h)]
  rfl

theorem tenantDestroy_destroys (ht : (s.tenant (s.arg 0)).isSome = true)
    (hc : s.disp.contexts.any (fun c => c.2.asid == s.arg 0) = false) : ∃ u : State,
    tenantDestroy s = u.answer 0 ∧ u.disp.tenants = Store.del (s.endLaunches (s.arg 0)).disp.tenants (s.arg 0) ∧
      u.launchPorts = Store.del (s.endLaunches (s.arg 0)).launchPorts (s.arg 0) ∧ u.mem = (s.endLaunches (s.arg 0)).mem := by
  have hgo : ¬((s.tenant (s.arg 0)).isNone || s.disp.contexts.any (fun c => c.2.asid == s.arg 0)) = true := by
    rw [hc, Bool.or_false, Option.isNone_iff_eq_none]
    exact Option.isSome_iff_ne_none.mp ht
  rw [tenantDestroy, if_neg (by simp; omega), if_neg hgo]
  exact ⟨_, rfl, rfl, rfl, rfl⟩

end

/-! ## Contexts (R91) -/

theorem unknown_asid_invalid (h : s.tenant (s.arg 0) = none) : ctxCreate s = s.answer (-1) ∧ stageSet s = s.answer (-1) := by
  simp only [ctxCreate, stageSet, h]
  exact ⟨rfl, rfl⟩

section
variable {t : Tenant} (ht : s.tenant (s.arg 0) = some t)
include ht

theorem ctxCreate_invalid (h : s.quadPresent (s.arg 2) = false ∨ (s.quad (s.arg 2)).outOfService = true ∨ s.imageOk t (s.arg 1) = false) :
    ctxCreate s = s.answer (-1) := by
  simp only [ctxCreate, ht]
  exact if_pos (by simpa [or_assoc] using h)

section
variable (hq : s.quadPresent (s.arg 2) = true) (ho : (s.quad (s.arg 2)).outOfService = false) (hi : s.imageOk t (s.arg 1) = true)
include hq ho hi

theorem ctxCreate_busy (hf : s.rtu.auditFull = true) : ctxCreate s = s.answer (-2) := by
  simp only [ctxCreate, ht]
  rw [if_neg (by simp [hq, ho, hi]), if_pos hf]
  rfl

theorem ctxCreate_creates (hf : s.rtu.auditFull = false) {w u : State}
    (hw : w = ((s.devWrite (s.arg 1) (List.replicate 0xC000 0) 0).2.devWrite (s.arg 1 + 0x10C000) freshEngine 0).2)
    (hu : u = (imageFrames (s.arg 1)).foldl (fun s f => { s with frames := Store.set {} s.frames f { s.frame f with image := true } }) w) :
    ctxCreate s = (u.modDisp (fun d => { d with
      nextCtx := s.disp.nextCtx + 1,
      contexts := Store.put d.contexts s.disp.nextCtx { asid := s.arg 0, image := s.arg 1, quad := s.arg 2 } })).answer 0 (some s.disp.nextCtx) := by
  simp only [ctxCreate, ht]
  rw [if_neg (by simp [hq, ho, hi]), if_neg (ne_true_of_eq_false hf), hu, hw]
  rfl

end

end

/-! ## Ports and apertures (R69, R70, R94) -/

theorem ports_invalid (h : 65535 < s.arg 0) : portOpen s = s.answer (-1) ∧ portClose s = s.answer (-1) := ⟨if_pos h, if_pos h⟩

section
variable (ha : s.arg 0 ≤ 65535)
include ha

theorem portClose_closes : portClose s = (s.modLaunchPort (s.arg 0) (fun p => { p with opened := false })).answer 0 :=
  if_neg (Nat.not_lt.mpr ha)

theorem portOpen_refused (h : s.rtu.meas3Done = false ∨ s.disp.contexts.any (fun c => c.2.asid == s.arg 0) = false) :
    portOpen s = s.answer (-5) := by
  rw [portOpen, if_neg (Nat.not_lt.mpr ha), if_pos (by simpa only [Bool.or_eq_true, Bool.not_eq_true'] using h)]
  rfl

theorem portOpen_opens (hm : s.rtu.meas3Done = true) (hc : s.disp.contexts.any (fun c => c.2.asid == s.arg 0) = true) :
    portOpen s = (s.modLaunchPort (s.arg 0) (fun _ => { opened := true })).answer 0 := by
  rw [portOpen, if_neg (Nat.not_lt.mpr ha), if_neg (by simp only [hm, hc]; decide)]
  rfl

end

/-- May the aperture show the frame: for the supervisor an own frame, for a tenant one of its owner's (R70)? -/
def State.apertureOk (s : State) (f : Frame) : Bool :=
  if s.arg 3 = 0 then f.slot == 0 && f.supw && s.arg 4 == 0
  else (s.tenant (s.arg 3)).any (fun t => f.slot == t.owner) && decide (s.arg 4 ≤ 63)

theorem apertureMap_invalid_page (h : 1 < s.arg 0 ∨ 32767 < s.arg 1) : apertureMap s = s.answer (-1) := if_pos (by simpa using h)

section
variable (hp : s.arg 0 ≤ 1) (hg : s.arg 1 ≤ 32767)
include hp hg

theorem apertureMap_of_page : apertureMap s =
    if s.arg 2 = 0 then (s.modPort (s.arg 0) (fun p => { p with bar4 := Store.del p.bar4 (s.arg 1) })).answer 0
    else if s.arg 2 % 0x200000 ≠ 0 || Config.hbmBytes ≤ s.arg 2 || !s.apertureOk (s.frame (s.arg 2 / 0x200000)) then s.answer (-1)
    else if (s.frame (s.arg 2 / 0x200000)).image then s.answer (-5)
    else (s.modPort (s.arg 0) (fun p => { p with bar4 := Store.put p.bar4 (s.arg 1) (s.arg 2, s.arg 3, s.arg 4) })).answer 0 :=
  if_neg (by simp; omega)

theorem apertureMap_unmaps (h : s.arg 2 = 0) :
    apertureMap s = (s.modPort (s.arg 0) (fun p => { p with bar4 := Store.del p.bar4 (s.arg 1) })).answer 0 := by
  rw [apertureMap_of_page hp hg, if_pos h]

theorem apertureMap_invalid_frame (h : s.arg 2 % 0x200000 ≠ 0 ∨ Config.hbmBytes ≤ s.arg 2) (h0 : s.arg 2 ≠ 0) :
    apertureMap s = s.answer (-1) := by
  rw [apertureMap_of_page hp hg, if_neg h0, if_pos]
  rcases h with h | h <;> simp [h]

section
variable {f : Frame} (hf : f = s.frame (s.arg 2 / 0x200000)) (hm : s.arg 2 % 0x200000 = 0) (h0 : 0 < s.arg 2) (he : s.arg 2 < Config.hbmBytes)
  (hok : s.arg 3 = 0 ∧ f.slot = 0 ∧ f.supw = true ∧ s.arg 4 = 0 ∨
    s.arg 3 ≠ 0 ∧ s.arg 4 ≤ 63 ∧ (∃ t, s.tenant (s.arg 3) = some t ∧ f.slot = t.owner))
include hf hm h0 he hok

theorem apertureMap_of_frame : apertureMap s = if f.image then s.answer (-5)
    else (s.modPort (s.arg 0) (fun p => { p with bar4 := Store.put p.bar4 (s.arg 1) (s.arg 2, s.arg 3, s.arg 4) })).answer 0 := by
  have hown : s.apertureOk f = true := by
    rcases hok with ⟨h3, hs, hw, h4⟩ | ⟨h3, h4, t, ht, hs⟩
    · simp [State.apertureOk, h3, hs, hw, h4]
    · simp [State.apertureOk, h3, h4, ht, hs]
  rw [apertureMap_of_page hp hg, if_neg (Nat.ne_of_gt h0), ← hf, if_neg (by simp [hm, he, hown])]

theorem apertureMap_pinned (h : f.image = true) : apertureMap s = s.answer (-5) := by
  rw [apertureMap_of_frame hp hg hf hm h0 he hok, if_pos h]

theorem apertureMap_maps (h : f.image = false) : apertureMap s =
    (s.modPort (s.arg 0) (fun p => { p with bar4 := Store.put p.bar4 (s.arg 1) (s.arg 2, s.arg 3, s.arg 4) })).answer 0 := by
  rw [apertureMap_of_frame hp hg hf hm h0 he hok, if_neg (ne_true_of_eq_false h)]

end

end

/-! ## Stages (R87) -/

section
variable {t : Tenant} {mins : Nat} (ht : s.tenant (s.arg 0) = some t)
  (hmins : mins = t.stages.foldl (fun n e => if e.1 = s.arg 1 then n else n + e.2.min) (s.arg 2))
include ht hmins

theorem stageSet_invalid (h : s.arg 1 = 0 ∨ 63 < s.arg 1 ∨ s.arg 2 = 0 ∨ s.arg 3 < s.arg 2 ∨ t.cap < s.arg 3 ∨ t.reserve < mins) :
    stageSet s = s.answer (-1) := by
  simp only [stageSet, ht, ← hmins]
  exact if_pos (by simpa [or_assoc] using h)

section
variable (hlo : 0 < s.arg 1) (hhi : s.arg 1 ≤ 63) (hmin : 0 < s.arg 2) (hmax : s.arg 2 ≤ s.arg 3) (hcap : s.arg 3 ≤ t.cap)
  (hres : mins ≤ t.reserve)
include hlo hhi hmin hmax hcap hres

theorem stageSet_of_valid : stageSet s = if s.stageBusy (s.arg 0) (s.arg 1) then s.answer (-5)
    else (s.modTenant (s.arg 0) (fun t =>
      { t with stages := Store.put t.stages (s.arg 1) { min := s.arg 2, max := s.arg 3, ring := s.arg 4 } })).answer 0 := by
  simp only [stageSet, ht, ← hmins]
  exact if_neg (by simp; omega)

theorem stageSet_busy (h : s.stageBusy (s.arg 0) (s.arg 1) = true) : stageSet s = s.answer (-5) := by
  rw [stageSet_of_valid ht hmins hlo hhi hmin hmax hcap hres, if_pos h]

theorem stageSet_sets (h : s.stageBusy (s.arg 0) (s.arg 1) = false) : stageSet s = (s.modTenant (s.arg 0) (fun t =>
    { t with stages := Store.put t.stages (s.arg 1) { min := s.arg 2, max := s.arg 3, ring := s.arg 4 } })).answer 0 := by
  rw [stageSet_of_valid ht hmins hlo hhi hmin hmax hcap hres, if_neg (ne_true_of_eq_false h)]

end

end

/-! ## Vault blocks (R213) -/

section
variable {q first n kind : Nat} (hq : q = s.arg 1) (hfirst : first = s.arg 2) (hn : n = s.arg 3) (hkind : kind = s.arg 4)
include hq hfirst hn hkind

theorem vaultSet_invalid (h : s.quadPresent q = false ∨ n = 0 ∨ 96 < first + n ∨ 5 < kind ∨ (2 ≤ kind ∧ n ≠ 1) ∨ 65535 < s.arg 0) :
    vaultSet s = s.answer (-1) := by
  subst hq hfirst hn hkind
  exact if_pos (by simpa [or_assoc] using h)

section
variable (ha : s.arg 0 ≤ 65535) (hp : s.quadPresent q = true) (h0 : 0 < n) (hend : first + n ≤ 96)
include ha hp h0 hend

theorem vaultSet_of_free_kind (hk : kind = 0) : vaultSet s =
    if (List.range n).any (fun i => ((s.quad q).block (65536 * (first + i))).kind == .free ||
        ((s.quad q).block (65536 * (first + i))).asid != s.arg 0) then s.answer (-5)
    else (s.freeBlocks q first n).answer 0 := by
  subst hq hfirst hn hkind
  rw [vaultSet, if_neg (by simp [hp]; omega), if_pos hk]
  rfl

theorem vaultSet_of_grant_kind (hk : 0 < kind) (hk5 : kind ≤ 5) (hone : 2 ≤ kind → n = 1) : vaultSet s =
    if (List.range n).any (fun i => ((s.quad q).block (65536 * (first + i))).kind != .free) then s.answer (-5)
    else if 2 ≤ kind && (!s.disp.contexts.any (fun c => c.2.asid == s.arg 0 && c.2.quad == q && c.2.live) ||
        ((s.quad q).stackBlock (s.arg 0) (kind - 2)).isSome) then s.answer (-5)
    else (s.grantBlocks q first n (s.arg 0) kind).answer 0 := by
  subst hq hfirst hn hkind
  rw [vaultSet, if_neg (by simp [hp]; omega), if_neg (Nat.ne_of_gt hk)]
  rfl

theorem vaultSet_free_foreign (hk : kind = 0) (h : ∃ i, i < n ∧ (((s.quad q).block (65536 * (first + i))).kind = .free ∨
    ((s.quad q).block (65536 * (first + i))).asid ≠ s.arg 0)) : vaultSet s = s.answer (-5) := by
  rw [vaultSet_of_free_kind hq hfirst hn hkind ha hp h0 hend hk]
  exact if_pos (by simpa using h)

theorem vaultSet_frees (hk : kind = 0) (h : ∀ i, i < n → ((s.quad q).block (65536 * (first + i))).kind ≠ .free ∧
    ((s.quad q).block (65536 * (first + i))).asid = s.arg 0) : vaultSet s = (s.freeBlocks q first n).answer 0 := by
  rw [vaultSet_of_free_kind hq hfirst hn hkind ha hp h0 hend hk]
  exact if_neg (by simpa using h)

theorem vaultSet_grant_taken (hk : kind = 1) (h : ∃ i, i < n ∧ ((s.quad q).block (65536 * (first + i))).kind ≠ .free) :
    vaultSet s = s.answer (-5) := by
  rw [vaultSet_of_grant_kind hq hfirst hn hkind ha hp h0 hend (by omega) (by omega) (by omega)]
  exact if_pos (by simpa using h)

theorem vaultSet_grants (hk : kind = 1) (h : ∀ i, i < n → ((s.quad q).block (65536 * (first + i))).kind = .free) :
    vaultSet s = (s.grantBlocks q first n (s.arg 0) 1).answer 0 := by
  rw [vaultSet_of_grant_kind hq hfirst hn hkind ha hp h0 hend (by omega) (by omega) (by omega), if_neg (by simpa using h), hk]
  rfl

end

section
variable (ha : s.arg 0 ≤ 65535) (hp : s.quadPresent q = true) (h1 : n = 1) (hend : first < 96) (hk2 : 2 ≤ kind) (hk5 : kind ≤ 5)
include ha hp h1 hend hk2 hk5

theorem vaultSet_of_stack_kind : vaultSet s =
    if ((s.quad q).block (65536 * first)).kind ≠ .free then s.answer (-5)
    else if s.disp.contexts.any (fun c => c.2.asid == s.arg 0 && c.2.quad == q && c.2.live) = false ∨
        ((s.quad q).stackBlock (s.arg 0) (kind - 2)).isSome = true then s.answer (-5)
    else (s.grantBlocks q first 1 (s.arg 0) kind).answer 0 := by
  rw [vaultSet_of_grant_kind hq hfirst hn hkind ha hp (by omega) (by omega) (by omega) hk5 (fun _ => h1), h1]
  exact if_congr (by simp [List.range_succ]) rfl (if_congr (by simp [hk2]) rfl rfl)

theorem vaultSet_stack_refused (h : ((s.quad q).block (65536 * first)).kind ≠ .free ∨
    s.disp.contexts.any (fun c => c.2.asid == s.arg 0 && c.2.quad == q && c.2.live) = false ∨
    ((s.quad q).stackBlock (s.arg 0) (kind - 2)).isSome = true) : vaultSet s = s.answer (-5) := by
  rw [vaultSet_of_stack_kind hq hfirst hn hkind ha hp h1 hend hk2 hk5]
  rcases h with h | h
  · exact if_pos h
  · rw [if_pos h, ite_self]

theorem vaultSet_stack_grants (hfree : ((s.quad q).block (65536 * first)).kind = .free)
    (hc : s.disp.contexts.any (fun c => c.2.asid == s.arg 0 && c.2.quad == q && c.2.live) = true)
    (hs : (s.quad q).stackBlock (s.arg 0) (kind - 2) = none) : vaultSet s = (s.grantBlocks q first 1 (s.arg 0) kind).answer 0 := by
  rw [vaultSet_of_stack_kind hq hfirst hn hkind ha hp h1 hend hk2 hk5, if_neg (not_not.mpr hfree), if_neg]
  rw [hc, hs]
  exact fun h => h.elim Bool.noConfusion Bool.noConfusion

end

end

end

/-! ## The statement -/

/-- Settles O37: call by call, the answers in the order of the checks. -/
theorem supervisorCalls : Obligations.SupervisorCalls := by
  unfold Obligations.SupervisorCalls
  refine ⟨fun s => ⟨ownerCreate_busy, fun hf => ⟨ownerCreate_no_slot hf, fun i => ownerCreate_lowest hf⟩, ownerDestroy_invalid,
      fun hlo hhi hu => ⟨ownerDestroy_used hlo hhi hu, fun h u => ownerDestroy_unused hlo hhi hu h⟩, frameSet_invalid,
      fun ha hn hend hs hu htag f hf => ⟨frameSet_held ha hn hend hs hu htag hf, frameSet_tags ha hn hend hs hu htag hf⟩,
      tenant_descriptor_invalid,
      fun b asid hb ha => ⟨fun ht => ⟨tenantCreate_exists hb ha ht, tenantSet_no_room hb ha ht, tenantSet_sets hb ha ht⟩,
        fun ht => ⟨tenantSet_unknown hb ha ht, tenantCreate_burnt hb ha ht,
          fun hn => ⟨tenantCreate_no_room hb ha ht hn, tenantCreate_creates hb ha ht hn⟩⟩⟩,
      tenantDestroy_invalid, fun hlo hhi => ⟨tenantDestroy_refused hlo hhi, tenantDestroy_destroys hlo hhi⟩⟩,
    fun s => ⟨unknown_asid_invalid,
      fun t ht => ⟨ctxCreate_invalid ht, fun hq ho hi => ⟨ctxCreate_busy ht hq ho hi, fun hf w u => ctxCreate_creates ht hq ho hi hf⟩⟩,
      ports_invalid, fun ha => ⟨portClose_closes ha, portOpen_refused ha, portOpen_opens ha⟩,
      apertureMap_invalid_page,
      fun hp hg => ⟨apertureMap_unmaps hp hg, apertureMap_invalid_frame hp hg,
        fun f hf hm h0 he hok => ⟨apertureMap_pinned hp hg hf hm h0 he hok, apertureMap_maps hp hg hf hm h0 he hok⟩⟩,
      fun t ht mins hmins => ⟨stageSet_invalid ht hmins, fun hlo hhi hmin hmax hcap hres =>
        ⟨stageSet_busy ht hmins hlo hhi hmin hmax hcap hres, stageSet_sets ht hmins hlo hhi hmin hmax hcap hres⟩⟩,
      fun q first n kind hq hf hn hk => ⟨vaultSet_invalid hq hf hn hk,
        fun ha hp h0 hend _ => ⟨fun h => ⟨vaultSet_free_foreign hq hf hn hk ha hp h0 hend h, vaultSet_frees hq hf hn hk ha hp h0 hend h⟩,
          fun h => ⟨vaultSet_grant_taken hq hf hn hk ha hp h0 hend h, vaultSet_grants hq hf hn hk ha hp h0 hend h⟩⟩,
        fun ha hp h1 hend hk2 hk5 => ⟨vaultSet_stack_refused hq hf hn hk ha hp h1 hend hk2 hk5,
          vaultSet_stack_grants hq hf hn hk ha hp h1 hend hk2 hk5⟩⟩⟩⟩

end Sys2Proof.Machine
end

section
/-! PROOF of the stops, the saves, the lines of an image and the release of a context (R62 to R66, R175 to R178, R182). -/

namespace Sys2Proof.Machine

/-! ## Stops (R165, R177) -/

theorem Hart.stopDue_iff (h : Hart) :
    h.stopDue = true ↔ h.stopReq = true ∧ h.mode = .u ∧ h.status.executes = true ∧ h.atBoundary = true := by
  simp only [Hart.stopDue, Bool.and_eq_true, beq_iff_eq, and_assoc]

theorem Hart.stopReady_iff (h : Hart) : h.stopReady = true ↔ h.stopReq = true ∧ h.mode = .u ∧ h.status.executes = true ∧
    h.atBoundary = true ∧ (h.lane.active = false ∨ h.lane.idx = 0) := by
  simp only [Hart.stopReady, Bool.and_eq_true, Bool.or_eq_true, Bool.not_eq_true', beq_iff_eq, h.stopDue_iff, and_assoc]

section
variable {h : Nat} {s : State}

theorem exec_stopRequest_of_not_ready (hr : (s.hart h).stopReady = false) : exec (.stopRequest h) s = .next s := by
  rw [exec_stopRequest, execStopRequest, if_neg (ne_true_of_eq_false hr)]

theorem exec_stopRequest_of_ready (hr : (s.hart h).stopReady = true) : exec (.stopRequest h) s = .next (s.stopNow h) := by
  rw [exec_stopRequest, execStopRequest, if_pos hr]

theorem State.cancelWait_of_no_load (hl : (s.hart h).ld = none) : s.cancelWait h = s := by
  rw [State.cancelWait, hl]

/-- A stop with no LWAIT under way, on a hart that runs a task (R177): its eager part is written and its task notes where it stands. -/
theorem State.stopNow_of_task {k c : Nat} {t : Task} {u : State} (hl : (s.hart h).ld = none) (hk : (s.hart h).task = some k)
    (hc : (s.hart h).ctx = some c) (ht : s.task k = some t) (hu : u = s.saveEager (s.hart h) c (s.hart h).slot t.asid t.addr) :
    s.stopNow h = (u.setTask k { t with members := t.members.map (fun m => if m.hart = h then
        { m with
          xlat := (u.savedPc t.asid (s.hart h).pc.toNat).2.2, traps := (s.hart h).startTraps,
          codeSlot := if windowOf (s.hart h).pc.toNat = .code then some (codeSlotOf (s.hart h).pc.toNat) else none } else m) }).modHart h
      (fun y => { y with status := .stopping, stopReq := false, resv := none, lane := {}, parkedCycles := 0 }) := by
  simp only [State.stopNow, State.cancelWait_of_no_load hl, hk, hc, ht, hu]

/-! ## Saves (R177, R182) -/

theorem exec_saveComplete_of_not_due (hn : (s.hart h).status ≠ .stopping ∨ (s.hart h).settled = false) :
    exec (.saveComplete h) s = .next s := by
  rw [exec_saveComplete, execSaveComplete]
  exact if_pos (by simpa using hn)

section
variable (hs : (s.hart h).status = .stopping) (hd : (s.hart h).settled = true)
include hs hd

theorem saveComplete_due_cond : ¬((s.hart h).status != .stopping || !(s.hart h).settled) = true := by simp [hs, hd]

theorem exec_saveComplete_of_no_task (ht : (s.hart h).task = none) :
    exec (.saveComplete h) s = .next (s.releaseHart h (s.asidOf h) true) := by
  simp only [exec_saveComplete, execSaveComplete, if_neg (saveComplete_due_cond hs hd), ht, Option.filter_none]

section
variable {k c m : Nat} {u v w : State} (ht : (s.hart h).task = some k) (hk : (s.task k).isSome = true) (hc : (s.hart h).ctx = some c)
  (hm : m = max (s.hart h).pts (s.hart h).ackTime) (hu : u = (s.imagePut c (s.hart h).slot 0x128 8 m m).2)
  (hv : v = (u.imagePut c (s.hart h).slot 0x178 8 (s.hart h).fstat.toNat m).2)
  (hw : w = (v.imagePut c (s.hart h).slot 0x124 4 1 (m + 1)).2)
include ht hk hc hm hu hv hw

/-- The clock, the fence status and SAVED are written in this order. -/
theorem exec_saveComplete_of_task : exec (.saveComplete h) s =
    .next (if v.eagerPoisoned c (s.hart h).slot then
      ((w.freeHart h (s.asidOf h) false).memberSaved k h).imagePoison c h [(s.hart h).slot]
        ((((w.freeHart h (s.asidOf h) false).memberSaved k h).imageOf c).getD 0 + (s.hart h).slot * 0x3000)
    else (w.freeHart h (s.asidOf h) false).memberSaved k h) := by
  have hlive : (s.hart h).task.filter (fun k => (s.task k).isSome) = some k := by
    rw [ht]
    exact Option.filter_some_pos (p := fun k => (s.task k).isSome) hk
  subst hm hu hv hw
  simp only [exec_saveComplete, execSaveComplete, if_neg (saveComplete_due_cond hs hd), hlive, hc]

theorem exec_saveComplete_of_clean (hp : v.eagerPoisoned c (s.hart h).slot = false) :
    exec (.saveComplete h) s = .next ((w.freeHart h (s.asidOf h) false).memberSaved k h) := by
  rw [exec_saveComplete_of_task hs hd ht hk hc hm hu hv hw, if_neg (ne_true_of_eq_false hp)]

theorem exec_saveComplete_of_poisoned (hp : v.eagerPoisoned c (s.hart h).slot = true) : exec (.saveComplete h) s =
    .next (((w.freeHart h (s.asidOf h) false).memberSaved k h).imagePoison c h [(s.hart h).slot]
      ((((w.freeHart h (s.asidOf h) false).memberSaved k h).imageOf c).getD 0 + (s.hart h).slot * 0x3000)) := by
  rw [exec_saveComplete_of_task hs hd ht hk hc hm hu hv hw, if_pos hp]

end

end

end

/-! ## The engine state (R174, R178) -/

section
variable {c : Nat} {s : State}

theorem exec_contextDrain_of_held (h : s.matrixHolds c = true ∨ [0, 1, 2, 3].any (s.slotLive c) = true ∨ s.context c = none) :
    exec (.contextDrain c) s = .next s := by
  rw [exec_contextDrain, execContextDrain, if_pos]
  simpa only [Bool.or_eq_true, Option.isNone_iff_eq_none, or_assoc] using h

theorem exec_contextDrain_of_free {u : State} (hm : s.matrixHolds c = false) (hl : [0, 1, 2, 3].any (s.slotLive c) = false)
    (hc : (s.context c).isSome = true) (hu : u = s.saveEngine c) :
    exec (.contextDrain c) s = .next (u.setTiles c { u.tiles c with evictable := true }) := by
  have hgo : ¬(s.matrixHolds c || [0, 1, 2, 3].any (s.slotLive c) || (s.context c).isNone) = true := by
    rw [hm, hl, Bool.false_or, Bool.false_or, Option.isNone_iff_eq_none]
    exact Option.isSome_iff_ne_none.mp hc
  rw [exec_contextDrain, execContextDrain, if_neg hgo, hu]

end

/-! ## Fills (R175, R182) -/

section
variable {c slot reg : Nat} {s : State}

theorem exec_imageLineFill_unasked (h : s.fills.contains (c, (slot, reg)) = false) : exec (.imageLineFill c slot reg) s = .next s := by
  rw [exec_imageLineFill, execImageLineFill, if_pos (by rw [h]; rfl)]

theorem imageLineFill_asked_cond (hf : s.fills.contains (c, (slot, reg)) = true) : ¬(!s.fills.contains (c, (slot, reg))) = true := by
  rw [hf]
  exact Bool.false_ne_true

section
variable {a : Nat} {u : State} (hf : s.fills.contains (c, (slot, reg)) = true) (ha : s.imageOf c = some a)
  (hu : u = { s with fills := s.fills.filter (· != (c, (slot, reg))) })
include hf ha hu

/-- The fill of a register of slot 0 to 3. -/
theorem exec_imageLineFill_of_slot (hs : slot ≠ 4) : exec (.imageLineFill c slot reg) s =
    if u.rangePoisoned (a + slot * 0x3000 + (codePlace reg).1) (codePlace reg).2 then
      .next (u.imagePoison c ((u.slotHart c slot).getD 0xFFF) [slot] (a + slot * 0x3000 + (codePlace reg).1))
    else .next { u.evictRivals c slot reg with
      slotRegs := Store.put (u.evictRivals c slot reg).slotRegs (2 * (c * 4 + slot))
        ((Store.get ({} : SlotRegs) (u.evictRivals c slot reg).slotRegs (2 * (c * 4 + slot))).fill reg
          ((u.evictRivals c slot reg).imageRead c slot (codePlace reg).1 (codePlace reg).2)) } := by
  have ha' : u.imageOf c = some a := by rw [hu]; exact ha
  simp only [exec_imageLineFill, execImageLineFill, if_neg (imageLineFill_asked_cond hf), ← hu, ha', if_neg hs]

/-- The fill of a tile or accumulator register leaves its bytes where they are. -/
theorem exec_imageLineFill_of_tile (hs : slot = 4) : exec (.imageLineFill c slot reg) s =
    if u.rangePoisoned (a + tileOffset reg) (tileBytes reg) then
      .next (u.imagePoison c (((s.harts.find? (fun x => x.2.ctx == some c)).map (·.1)).getD 0xFFF) [0, 1, 2, 3] (a + tileOffset reg))
    else .next u := by
  have ha' : u.imageOf c = some a := by rw [hu]; exact ha
  simp only [exec_imageLineFill, execImageLineFill, if_neg (imageLineFill_asked_cond hf), ← hu, ha', if_pos hs]

end

end

/-! ## Page walks -/

section
variable {w : Nat} {s : State}

theorem exec_pageWalkComplete_unknown (h : s.walks.find? (fun x => x.id == w) = none) : exec (.pageWalkComplete w) s = .next s := by
  rw [exec_pageWalkComplete, execPageWalkComplete, h]

theorem exec_pageWalkComplete_known {x : Walk} (h : s.walks.find? (fun x => x.id == w) = some x) :
    (s.walkRuns x = true → exec (.pageWalkComplete w) s = .next (s.walkDone x)) ∧
    (s.walkRuns x = false → exec (.pageWalkComplete w) s = .next s) := by
  simp only [exec_pageWalkComplete, execPageWalkComplete, h]
  exact ⟨fun hr => if_pos hr, fun hr => if_neg (ne_true_of_eq_false hr)⟩

end

/-! ## The release of a context (R62 to R66) -/

section
variable {c : Nat} {s : State}

theorem exec_scrub_of_no_context (h : s.context c = none) :
    exec (.scrubStart c) s = .next s ∧ ∀ q, exec (.scrubQuadComplete c q) s = .next s := by
  refine ⟨?_, fun q => ?_⟩
  · rw [exec_scrubStart, execScrubStart, h]
  · rw [exec_scrubQuadComplete, execScrubQuadComplete, h]

section
variable {x : Context} (hx : s.context c = some x)
include hx

theorem exec_scrub_of_no_release (h : x.release = none) :
    exec (.scrubStart c) s = .next s ∧ ∀ q, exec (.scrubQuadComplete c q) s = .next s := by
  refine ⟨?_, fun q => ?_⟩
  · simp only [exec_scrubStart, execScrubStart, hx, h]
  · simp only [exec_scrubQuadComplete, execScrubQuadComplete, hx, h]

section
variable {r : Release} (hr : x.release = some r)
include hr

theorem exec_scrubStart_of_not_ready (h : r.started = true ∨ s.scrubReady c = false) : exec (.scrubStart c) s = .next s := by
  simp only [exec_scrubStart, execScrubStart, hx, hr]
  exact if_pos (by simpa using h)

theorem exec_scrubStart_of_ready {qs bl : List Nat} {u v : State} (h0 : r.started = false) (h1 : s.scrubReady c = true)
    (hq : qs = (if r.last then (List.range 640).filter s.quadPresent else [x.quad]))
    (hu : u = s.modContext c (fun x => { x with release := some { r with started := true, startNs := s.ns, quads := qs, pendingQuads := qs } }))
    (hb : bl = u.scrubBlocks c x)
    (hv : v = u.modQuad x.quad (fun q => { q with blocks := q.blocks.map (fun b =>
      if bl.contains b.1 then (b.1, { b.2 with asid := scrubAsid x.asid }) else b) })) :
    exec (.scrubStart c) s = .next (qs.foldl (fun s q => s.scrubCheck x.asid q) v) := by
  have hgo : ¬(r.started || !s.scrubReady c) = true := by simp [h0, h1]
  subst hq hu hb hv
  simp only [exec_scrubStart, execScrubStart, hx, hr, if_neg hgo]

theorem exec_scrubQuadComplete_of_refused {q : Nat} (h : r.started = false ∨ r.pendingQuads.contains q = false ∨
    (q = x.quad ∧ ((List.range 4).map (hartOf q)).any (fun h => (s.hart h).l1.any (fun l => l.2.asid == x.asid && l.2.st == .pending)) = true)) :
    exec (.scrubQuadComplete c q) s = .next s := by
  simp only [exec_scrubQuadComplete, execScrubQuadComplete, hx, hr]
  refine if_pos ?_
  rcases h with h | h | ⟨rfl, h⟩
  · rw [h]; rfl
  · rw [h]; simp
  · rw [h]; simp

section
variable {q : Nat} {a u : State} (h0 : r.started = true) (h1 : r.pendingQuads.contains q = true)
  (h2 : q = x.quad → ((List.range 4).map (hartOf q)).any (fun h => (s.hart h).l1.any (fun l => l.2.asid == x.asid && l.2.st == .pending)) = false)
  (ha : a = (if q = x.quad then (s.scrubHarts c x).scrubVault x else s)) (hu : u = (if r.last then a.scrubSlices x.asid q else a))
include h0 h1 h2 ha hu

theorem exec_scrubQuadComplete_of_due : exec (.scrubQuadComplete c q) s =
    if !(r.pendingQuads.filter (· != q)).isEmpty then
      .next (u.modContext c (fun x => { x with release := some { r with pendingQuads := r.pendingQuads.filter (· != q) } }))
    else .next ((((u.audit 0x0042 0xF000 x.asid (payload3 x.asid r.quads.length (u.ns - r.startNs))).unpinImage c x).freeScrubbed x).modDisp
      (fun d => { d with contexts := Store.del d.contexts c })) := by
  have hgo : ¬(!r.started || !r.pendingQuads.contains q || (decide (q = x.quad) && ((List.range 4).map (hartOf q)).any (fun h =>
      (s.hart h).l1.any (fun l => l.2.asid == x.asid && l.2.st == .pending)))) = true := by
    rw [h0, h1]
    simpa using h2
  subst ha hu
  simp only [exec_scrubQuadComplete, execScrubQuadComplete, hx, hr]
  exact if_neg hgo

theorem exec_scrubQuadComplete_of_more (h : r.pendingQuads.filter (· != q) ≠ []) : exec (.scrubQuadComplete c q) s =
    .next (u.modContext c (fun x => { x with release := some { r with pendingQuads := r.pendingQuads.filter (· != q) } })) := by
  rw [exec_scrubQuadComplete_of_due hx hr h0 h1 h2 ha hu, if_pos (by simpa using h)]

theorem exec_scrubQuadComplete_of_last {v : State} (h : r.pendingQuads.filter (· != q) = [])
    (hv : v = ((u.audit 0x0042 0xF000 x.asid (payload3 x.asid r.quads.length (u.ns - r.startNs))).unpinImage c x).freeScrubbed x) :
    exec (.scrubQuadComplete c q) s = .next (v.modDisp (fun d => { d with contexts := Store.del d.contexts c })) := by
  rw [exec_scrubQuadComplete_of_due hx hr h0 h1 h2 ha hu, if_neg (by simp [h]), hv]

end

end

end

end

section
variable {s : State} (asid : Nat) {q : Nat}

theorem State.scrubCheck_of_clean (h : Config.scrubFails s.free q = none) : s.scrubCheck asid q = { s with free := s.free + 1 } := by
  simp only [State.scrubCheck, h]

theorem State.scrubCheck_of_failed {bank : Nat} (h : Config.scrubFails s.free q = some bank) : s.scrubCheck asid q =
    ((({ s with free := s.free + 1 } : State).audit 0x0043 0xF000 asid (payload3 asid q bank)).modDisp
      (fun d => { d with burnt := insertNat d.burnt asid })).modQuad q (fun q => { q with outOfService := true }) := by
  simp only [State.scrubCheck, h]

end

/-! ## The statement -/

/-- Settles O54: a stop, a save, a fill, a walk and the two events of a release, lemma by lemma. -/
theorem contexts : Obligations.Contexts := by
  unfold Obligations.Contexts
  refine ⟨fun h s => ⟨exec_stopRequest_of_not_ready, exec_stopRequest_of_ready, fun k c t u => State.stopNow_of_task⟩,
    Hart.stopReady_iff,
    fun h s => ⟨exec_saveComplete_of_not_due, exec_saveComplete_of_no_task,
      fun k c m u v w hs hd ht hk hc hm hu hv hp hw => exec_saveComplete_of_clean hs hd ht hk hc hm hu hv hw hp,
      fun k c m u v w hs hd ht hk hc hm hu hv hp hw => exec_saveComplete_of_poisoned hs hd ht hk hc hm hu hv hw hp⟩,
    fun c s => ⟨exec_contextDrain_of_held, fun u => exec_contextDrain_of_free⟩,
    fun c slot reg s => ⟨exec_imageLineFill_unasked, fun a u v hf ha hu hs hp hv => ?fill, fun a u hf ha hu => ⟨fun hs hp => ?poisoned,
      fun hs hp => ?tile, fun hs hp => ?tilePoisoned⟩⟩,
    fun w s => ⟨exec_pageWalkComplete_unknown, fun x => exec_pageWalkComplete_known⟩,
    fun c s => ⟨exec_scrub_of_no_context, fun x hx => ⟨exec_scrub_of_no_release hx, fun r hr => ⟨exec_scrubStart_of_not_ready hx hr,
      fun qs bl u v => exec_scrubStart_of_ready hx hr,
      fun q a u v h0 h1 h2 ha hu => ⟨exec_scrubQuadComplete_of_more hx hr h0 h1 h2 ha hu,
        exec_scrubQuadComplete_of_last hx hr h0 h1 h2 ha hu⟩,
      fun q => exec_scrubQuadComplete_of_refused hx hr⟩⟩⟩,
    fun s asid q => ⟨State.scrubCheck_of_clean asid, fun bank => State.scrubCheck_of_failed asid⟩,
    Hart.stopDue_iff⟩
  case fill => rw [exec_imageLineFill_of_slot hf ha hu hs, if_neg (ne_true_of_eq_false hp), hv]
  case poisoned => rw [exec_imageLineFill_of_slot hf ha hu hs, if_pos hp]
  case tile => rw [exec_imageLineFill_of_tile hf ha hu hs, if_neg (ne_true_of_eq_false hp)]
  case tilePoisoned => rw [exec_imageLineFill_of_tile hf ha hu hs, if_pos hp]

end Sys2Proof.Machine
end

section
/-! PROOF of the launches from record to DONE, and of the apertures (R48, R68 to R84, R270): for each event, one lemma per outcome. -/

namespace Sys2Proof.Machine

/-! ## The launch port (R68, R69, R72) -/

section
variable {port page : Nat} {rec : BitVec 512} {s : State}

theorem exec_launch_of_down (h : 2 ≤ port ∨ 65536 ≤ page ∨ (s.port port).up = false) : exec (.launch port page rec) s = .next s := by
  rw [exec_launch, execLaunch, if_pos (by simpa [or_assoc] using h)]

theorem launch_open_cond (hb : s.rtu.boot = .released) (ho : (s.launchPort page).opened = true) :
    ¬(s.rtu.boot != .released || !(s.launchPort page).opened) = true := by simp [hb, ho]

section
variable (hp : port < 2) (hg : page < 65536) (hu : (s.port port).up = true)
include hp hg hu

theorem launch_up_cond : ¬(decide (2 ≤ port) || decide (65536 ≤ page) || !(s.port port).up) = true := by simp [hp, hg, hu]

theorem exec_launch_of_closed (h : s.rtu.boot ≠ .released ∨ (s.launchPort page).opened = false) :
    exec (.launch port page rec) s = .next (s.toHost .unsupported) := by
  rw [exec_launch, execLaunch, if_neg (launch_up_cond hp hg hu), if_pos (by simpa using h)]

section
variable (hb : s.rtu.boot = .released) (ho : (s.launchPort page).opened = true)
include hb ho

theorem exec_launch_misaligned (h : recDone rec % 32 ≠ 0) : exec (.launch port page rec) s = .next (s.toHost .abort) := by
  rw [exec_launch, execLaunch, if_neg (launch_up_cond hp hg hu), if_neg (launch_open_cond hb ho), if_pos h]

variable (hd : recDone rec % 32 = 0)
include hd

theorem exec_launch_no_tenant (h : s.tenant page = none) : exec (.launch port page rec) s = .next (s.toHost .unsupported) := by
  rw [exec_launch, execLaunch, if_neg (launch_up_cond hp hg hu), if_neg (launch_open_cond hb ho), if_neg (not_not.mpr hd), h]

theorem exec_launch_tenant {t : Tenant} (ht : s.tenant page = some t) : exec (.launch port page rec) s =
    if t.pendingCap ≤ s.pendingOf page ∨ 1024 ≤ (s.disp.launches.filter (fun l => l.2.port == port && l.2.waiting)).length ∨
        t.argSlots ≠ 0 ∧ t.freeArg = none ∧ recLen rec ≠ 0 then .next (s.toHost .retry)
    else .next ((s.toHost .success).acceptLaunch port page t rec) := by
  rw [exec_launch, execLaunch, if_neg (launch_up_cond hp hg hu), if_neg (launch_open_cond hb ho), if_neg (not_not.mpr hd), ht]
  exact if_congr (by simp [or_assoc, and_assoc]) rfl rfl

theorem exec_launch_full {t : Tenant} (ht : s.tenant page = some t)
    (h : t.pendingCap ≤ s.pendingOf page ∨ 1024 ≤ (s.disp.launches.filter (fun l => l.2.port == port && l.2.waiting)).length ∨
      t.argSlots ≠ 0 ∧ t.freeArg = none ∧ recLen rec ≠ 0) : exec (.launch port page rec) s = .next (s.toHost .retry) := by
  rw [exec_launch_tenant hp hg hu hb ho hd ht, if_pos h]

theorem exec_launch_accepted {t : Tenant} (ht : s.tenant page = some t) (hpend : s.pendingOf page < t.pendingCap)
    (hport : (s.disp.launches.filter (fun l => l.2.port == port && l.2.waiting)).length < 1024)
    (harg : t.argSlots = 0 ∨ t.freeArg.isSome = true ∨ recLen rec = 0) :
    exec (.launch port page rec) s = .next ((s.toHost .success).acceptLaunch port page t rec) := by
  rw [exec_launch_tenant hp hg hu hb ho hd ht, if_neg]
  rintro (h | h | ⟨hslots, hfree, hlen⟩)
  · exact absurd h (Nat.not_le.mpr hpend)
  · exact absurd h (Nat.not_le.mpr hport)
  · rcases harg with h | h | h
    · exact hslots h
    · rw [hfree] at h
      exact absurd h Bool.false_ne_true
    · exact hlen h

end

end

end

/-! ## An accepted record (R73, R75, R76) -/

section
variable {s : State} {port asid : Nat} {t : Tenant} {rec : BitVec 512} {l : Launch}
  (hl : l = { asid := asid, port := port, record := rec, phase := .reading,
              deadline := if recDeadline rec = 0 then s.ns + t.slack else recDeadline rec })
include hl

theorem State.acceptLaunch_bad (hb : badRecord rec asid t.argSlots = true) : s.acceptLaunch port asid t rec = s.completeOnly l 3 := by
  rw [State.acceptLaunch, if_pos hb, hl]
  rfl

variable (hb : badRecord rec asid t.argSlots = false)
include hb

theorem State.acceptLaunch_auditFull (hf : s.rtu.auditFull = true) : s.acceptLaunch port asid t rec = s.completeOnly l 5 := by
  rw [State.acceptLaunch, if_neg (ne_true_of_eq_false hb), if_pos hf, hl]
  rfl

variable (hf : s.rtu.auditFull = false)
include hf

theorem State.acceptLaunch_no_args (hn : recLen rec = 0) : s.acceptLaunch port asid t rec =
    ((s.modDisp (fun d => { d with nextLaunch := s.disp.nextLaunch + 1 })).setLaunch s.disp.nextLaunch l.ready).argsConsumed l := by
  rw [State.acceptLaunch, if_neg (ne_true_of_eq_false hb), if_neg (ne_true_of_eq_false hf), if_pos hn, hl]

theorem State.acceptLaunch_args {slot : Nat} {u : State} (hn : recLen rec ≠ 0) (hs : t.freeArg = some slot)
    (hu : u = ((s.modDisp (fun d => { d with nextLaunch := s.disp.nextLaunch + 1 })).modTenant asid (fun t =>
      { t with argUsed := insertNat t.argUsed slot })).setLaunch s.disp.nextLaunch { l with slotIdx := some slot }) :
    s.acceptLaunch port asid t rec =
      if 2 ^ 55 < recArgs rec + recLen rec then u.rejectLaunch s.disp.nextLaunch 6 else u.askHost (.args s.disp.nextLaunch port) := by
  rw [State.acceptLaunch, if_neg (ne_true_of_eq_false hb), if_neg (ne_true_of_eq_false hf), if_neg hn, hu, hl, hs]
  rfl

end

/-! ## The other accesses to a launch port (R68, R69) -/

section
variable {s : State} {port : Nat} (page : Nat) (hp : port < 2) (hu : (s.port port).up = true)
include hp hu

theorem State.portRead_of_up (off len : Nat) : s.portRead port page off len =
    s.toHost (.data (if off = 0x40 && len = 8 then bytesOf 8 (s.portStatus page).toNat else List.replicate len 0)) :=
  if_neg (by simp [hp, hu])

theorem State.portRead_other {off len : Nat} (h : off ≠ 0x40 ∨ len ≠ 8) :
    s.portRead port page off len = s.toHost (.data (List.replicate len 0)) := by
  rw [s.portRead_of_up page hp hu, if_neg (by simpa [imp_iff_not_or] using h)]

end

/-! ## The arguments (R75, R76) -/

section
variable {id : Nat} {s : State}

theorem exec_argsReadComplete_unawaited (h : s.launchAt id = none ∨ s.argsReq id = none) : exec (.argsReadComplete id) s = .next s := by
  rw [exec_argsReadComplete, execArgsReadComplete]
  rcases h with h | h
  · rw [h]
  · rw [h]
    split
    next hreq => cases hreq
    next => rfl

section
variable {req : Nat} {l : Launch} {u : State} (hl : s.launchAt id = some l) (hr : s.argsReq id = some req) (hu : u = s.dropReq req)
include hl hr hu

theorem exec_argsReadComplete_poisoned (hp : u.rangePoisoned (Config.hostBase + recArgs l.record) (recLen l.record) = true) :
    exec (.argsReadComplete id) s = .next (u.rejectLaunch id 6) := by
  subst hu
  simp only [exec_argsReadComplete, execArgsReadComplete, hl, hr, if_pos hp]
  rfl

variable (hp : u.rangePoisoned (Config.hostBase + recArgs l.record) (recLen l.record) = false) {t : Tenant} (ht : u.tenant l.asid = some t)
include hp ht

theorem exec_argsReadComplete_unwritable
    (hw : u.tenantWrite l.asid (t.argPool + 4096 * l.slotIdx.getD 0) (u.peekBytes (Config.hostBase + recArgs l.record) (recLen l.record)) 0 =
      none) : exec (.argsReadComplete id) s = .next (u.rejectLaunch id 6) := by
  subst hu
  simp only [exec_argsReadComplete, execArgsReadComplete, hl, hr, if_neg (ne_true_of_eq_false hp), ht, Option.map_some, Option.bind_some, hw]
  rfl

theorem exec_argsReadComplete_written {k m : Nat} {w : State} (hk : l.slotIdx = some k)
    (hw : u.tenantWrite l.asid (t.argPool + 4096 * k) (u.peekBytes (Config.hostBase + recArgs l.record) (recLen l.record)) 0 =
      some (m, w)) : exec (.argsReadComplete id) s =
    .next ((w.argsConsumed { l with argTime := m }).setLaunch id ({ l with argTime := m } : Launch).ready) := by
  subst hu
  simp only [exec_argsReadComplete, execArgsReadComplete, hl, hr, if_neg (ne_true_of_eq_false hp), ht, Option.map_some, Option.bind_some, hk,
    Option.getD_some, hw]

end

end

/-! ## The submission (R77, R119) -/

section
variable {id : Nat} {s : State}

theorem exec_launch_events_unknown (h : s.launchAt id = none) : exec (.launchSubmit id) s = .next s ∧ exec (.launchDone id) s = .next s := by
  simp only [exec_launchSubmit, execLaunchSubmit, exec_launchDone, execLaunchDone, h, and_self]

theorem launchSubmit_turn_cond {l : Launch} (hp : l.phase = .ready) (hturn : s.launchTurn id l = true) :
    ¬(l.phase != .ready || !s.launchTurn id l) = true := by simp [hp, hturn]

section
variable {l : Launch} {t : Tenant} (hl : s.launchAt id = some l) (ht : s.tenant l.asid = some t)
include hl ht

theorem exec_launchSubmit_waits (h : l.phase ≠ .ready ∨ s.launchTurn id l = false) : exec (.launchSubmit id) s = .next s := by
  simp only [exec_launchSubmit, execLaunchSubmit, hl, ht]
  exact if_pos (by simpa using h)

section
variable (hp : l.phase = .ready) (hturn : s.launchTurn id l = true)
include hp hturn

theorem exec_launchSubmit_bad_root (h : s.prepareRoot l t = none) : exec (.launchSubmit id) s = .next (s.rejectLaunch id 4) := by
  simp only [exec_launchSubmit, execLaunchSubmit, hl, ht, if_neg (launchSubmit_turn_cond hp hturn), h]
  rfl

variable {tm r : Nat} {u w : State} (hroot : s.prepareRoot l t = some (tm, u))
  (hsub : u.submit l.asid (recRoot l.record) (portDie l.port) (some id) none (max (max tm l.argTime) (max (u.port 0).apTime (u.port 1).apTime)) =
    (r, w))
include hroot hsub

theorem exec_launchSubmit_of_answer : exec (.launchSubmit id) s =
    if r = 11 then .next w
    else if r ≠ 0 then .next (w.rejectLaunch id 4)
    else .next (w.modDisp (fun d => { d with launches := d.launches.map (fun x : Nat × Launch =>
      if x.1 = id then (id, { x.2 with phase := .submitted }) else x) })) := by
  simp only [exec_launchSubmit, execLaunchSubmit, hl, ht, if_neg (launchSubmit_turn_cond hp hturn), hroot, hsub]
  rfl

theorem exec_launchSubmit_full (h : r = 11) : exec (.launchSubmit id) s = .next w := by
  rw [exec_launchSubmit_of_answer hl ht hp hturn hroot hsub, if_pos h]

theorem exec_launchSubmit_refused (h0 : r ≠ 0) (h : r ≠ 11) : exec (.launchSubmit id) s = .next (w.rejectLaunch id 4) := by
  rw [exec_launchSubmit_of_answer hl ht hp hturn hroot hsub, if_neg h, if_pos h0]

theorem exec_launchSubmit_taken (h : r = 0) : exec (.launchSubmit id) s =
    .next (w.modDisp (fun d => { d with launches := d.launches.map (fun x : Nat × Launch =>
      if x.1 = id then (id, { x.2 with phase := .submitted }) else x) })) := by
  rw [exec_launchSubmit_of_answer hl ht hp hturn hroot hsub, if_neg (by omega), if_neg (not_not.mpr h)]

end

end

end

/-! ## The end of a launch (R82) -/

/-- A zero-length read of the launch. -/
def HostReq.zlrOf (id : Nat) : HostReq → Bool
  | .zlrLaunch x _ => x == id
  | _ => false

theorem launchDone_due_cond {s : State} {l : Launch} {earlier : Bool} (hp : l.phase = .submitted) (h0 : l.live = 0)
    (hst : s.storesLeft l.asid = false) (hno : earlier = false) :
    ¬(l.phase ≠ .submitted ∨ l.live ≠ 0 ∨ earlier = true ∨ s.storesLeft l.asid = true) := by
  simp [hp, h0, hst, hno]

theorem launchDone_reads_sent_cond {s : State} {l : Launch} (hz : l.zlrSent = true ∨ l.ports.filter (fun p => (s.port p).up) = []) :
    ¬(l.zlrSent = false ∧ l.ports.filter (fun p => (s.port p).up) ≠ []) := by
  rintro ⟨hsent, hports⟩
  rcases hz with hz | hz
  · exact absurd (hz.symm.trans hsent) Bool.true_eq_false.mp
  · exact hports hz

section
variable {id : Nat} {s : State} {l : Launch} (hl : s.launchAt id = some l) {earlier : Bool}
  (he : earlier = true ↔ recKind l.record = 1 ∧ l.ended = false ∧ ∃ e ∈ s.disp.launches, e.1 < id ∧ e.2.asid = l.asid)
include he

theorem launchDone_earlier : (recKind l.record = 1 && !l.ended && s.disp.launches.any (fun e => decide (e.1 < id) && e.2.asid == l.asid)) =
    earlier := by
  rw [Bool.eq_iff_iff, he]
  simp [and_assoc]

include hl

theorem exec_launchDone_of_launch : exec (.launchDone id) s =
    if l.phase ≠ .submitted ∨ l.live ≠ 0 ∨ earlier = true ∨ s.storesLeft l.asid = true then .next s
    else if l.zlrSent = false ∧ l.ports.filter (fun p => (s.port p).up) ≠ [] then
      .next ((l.ports.filter (fun p => (s.port p).up)).foldl (fun s p => s.askHost (.zlrLaunch id p))
        ((s.freeArgs id).modDisp (fun d => { d with launches := d.launches.map (fun x : Nat × Launch =>
          if x.1 = id then (id, { x.2 with zlrSent := true }) else x) })))
    else if s.hostReqs.any (fun r => r.2.zlrOf id) = true then .next s
    else .next (((s.freeArgs id).complete l l.status 3 (natBit (recFlags l.record) 0)).dropLaunch id) := by
  simp only [exec_launchDone, execLaunchDone, hl, launchDone_earlier he]
  exact if_congr (by simp [or_assoc]) rfl (if_congr (by simp) rfl rfl)

theorem exec_launchDone_waits (h : l.phase ≠ .submitted ∨ l.live ≠ 0 ∨ earlier = true ∨ s.storesLeft l.asid = true) :
    exec (.launchDone id) s = .next s := by
  rw [exec_launchDone_of_launch hl he, if_pos h]

section
variable (hp : l.phase = .submitted) (h0 : l.live = 0) (hst : s.storesLeft l.asid = false) (hno : earlier = false)
include hp h0 hst hno

theorem exec_launchDone_reads {ports : List Nat} (hports : ports = l.ports.filter (fun p => (s.port p).up)) (hz : l.zlrSent = false)
    (hne : ports ≠ []) : exec (.launchDone id) s = .next (ports.foldl (fun s p => s.askHost (.zlrLaunch id p))
      ((s.freeArgs id).modDisp (fun d => { d with launches := d.launches.map (fun x : Nat × Launch =>
        if x.1 = id then (id, { x.2 with zlrSent := true }) else x) }))) := by
  subst hports
  rw [exec_launchDone_of_launch hl he, if_neg (launchDone_due_cond hp h0 hst hno), if_pos ⟨hz, hne⟩]

variable (hz : l.zlrSent = true ∨ l.ports.filter (fun p => (s.port p).up) = [])
include hz

theorem exec_launchDone_awaits_reads (h : s.hostReqs.any (fun r => r.2.zlrOf id) = true) : exec (.launchDone id) s = .next s := by
  rw [exec_launchDone_of_launch hl he, if_neg (launchDone_due_cond hp h0 hst hno),
    if_neg (launchDone_reads_sent_cond hz), if_pos h]

theorem exec_launchDone_done (h : s.hostReqs.any (fun r => r.2.zlrOf id) = false) : exec (.launchDone id) s =
    .next (((s.freeArgs id).complete l l.status 3 (natBit (recFlags l.record) 0)).dropLaunch id) := by
  rw [exec_launchDone_of_launch hl he, if_neg (launchDone_due_cond hp h0 hst hno),
    if_neg (launchDone_reads_sent_cond hz), if_neg (ne_true_of_eq_false h)]

end

end

/-! ## Completion writes (R79, R81, R84) -/

section
variable {s : State} {l : Launch} (status flags : Nat)

theorem State.complete_of_down (h : (s.port l.port).up = false) : s.complete l status flags false =
    s.modLaunchPort l.asid (fun p => { p with dropped := min 0xFFFF (p.dropped + 1) }) := if_neg (ne_true_of_eq_false h)

theorem State.complete_of_up {w u : State} (h : (s.port l.port).up = true)
    (hw : w = s.modDisp (fun d => { d with eventSeq := d.eventSeq + 1 }))
    (hu : u = (if recDone l.record + 32 ≤ 2 ^ 55 then w.hostStore (Config.hostBase + recDone l.record)
      (completionBytes s.disp.eventSeq status flags l.retired l.faults s.ns) else w)) :
    s.complete l status flags true = u.toHost (.msix l.port (recVector l.record)) ∧ s.complete l status flags false = u := by
  subst hw hu
  exact ⟨if_pos h, if_pos h⟩

end

/-! ## Apertures (R48, R70, R270) -/

/-- A range within one line is one part. -/
theorem linePieces_within {off n : Nat} (h0 : 0 < n) (h : n ≤ 64 - off % 64) : linePieces off n (n + 1) = [(off, n)] := by
  obtain ⟨m, rfl⟩ := Nat.exists_eq_succ_of_ne_zero (Nat.ne_of_gt h0)
  simp [linePieces, Nat.min_eq_left h]

section
variable {port page off : Nat} {data : List Byte} {s : State}

theorem exec_apertureWrite_of_down (h : 2 ≤ port ∨ (s.port port).up = false ∨ 0x200000 < off + data.length) :
    exec (.apertureWrite port page off data) s = .next s := by
  rw [exec_apertureWrite, execApertureWrite, if_pos (by simpa [or_assoc] using h)]

section
variable (hp : port < 2) (hu : (s.port port).up = true) (hn : off + data.length ≤ 0x200000)
include hp hu hn

theorem apertureWrite_up_cond : ¬(decide (2 ≤ port) || !(s.port port).up || decide (0x200000 < off + data.length)) = true := by
  simp [hp, hu, hn]

theorem exec_apertureWrite_of_released (hb : s.rtu.boot = .released) : exec (.apertureWrite port page off data) s =
    .next ((linePieces off data.length (data.length + 1)).foldl (fun (a : State × List Byte) p =>
      (a.1.aperturePiece port page p.1 (a.2.take p.2), a.2.drop p.2)) (s, data)).1 := by
  rw [exec_apertureWrite, execApertureWrite, if_neg (apertureWrite_up_cond hp hu hn), if_neg (by simp [hb])]

/-- A write within one line is performed in one part. -/
theorem exec_apertureWrite_one_part (hb : s.rtu.boot = .released) (h0 : 0 < data.length) (hl : data.length ≤ 64 - off % 64) :
    exec (.apertureWrite port page off data) s = .next (s.aperturePiece port page off data) := by
  rw [exec_apertureWrite_of_released hp hu hn hb, linePieces_within h0 hl, List.foldl_cons, List.foldl_nil, List.take_length]

theorem exec_apertureWrite_unmapped (hb : s.rtu.boot = .released) (hm : Store.find? (s.port port).bar4 page = none)
    (hl : data.length ≤ 64 - off % 64) : exec (.apertureWrite port page off data) s = .next s := by
  rcases Nat.eq_zero_or_pos data.length with h0 | h0
  · rw [exec_apertureWrite_of_released hp hu hn hb, h0]
    rfl
  · rw [exec_apertureWrite_one_part hp hu hn hb h0 hl, State.aperturePiece, State.apertureAt, hm]

theorem exec_apertureWrite_mapped {a home t : Nat} {u : State} (hb : s.rtu.boot = .released)
    (hat : s.apertureAt port page off = some (a, home)) (h0 : 0 < data.length) (hl : data.length ≤ 64 - off % 64)
    (hw : s.engineWrite home (a / 64 * 64) (byteMask (a % 64) data.length) (BitVec.ofNat 512 (ofBytes data * 2 ^ (8 * (a % 64)))) 0 0 =
      (t, u)) : exec (.apertureWrite port page off data) s = .next (u.modPort port (fun p => { p with apTime := max p.apTime t })) := by
  rw [exec_apertureWrite_one_part hp hu hn hb h0 hl, State.aperturePiece]
  simp only [hat, hw]

theorem exec_apertureWrite_in_reset (hb : s.rtu.boot ≠ .released) (hr : s.rtu.boot ≠ .recovery) :
    exec (.apertureWrite port page off data) s = .next s := by
  rw [exec_apertureWrite, execApertureWrite, if_neg (apertureWrite_up_cond hp hu hn), if_pos (by simpa using hb), if_neg (by simp [hr])]

section
variable (hr : s.rtu.boot = .recovery)
include hr

theorem exec_apertureWrite_window (hport : port = 0) (hpage : page < 16) : exec (.apertureWrite port page off data) s =
    .next (s.modRtu (fun r => { r with window := cellWrite r.window (page * 0x200000 + off) data })) := by
  rw [exec_apertureWrite, execApertureWrite, if_neg (apertureWrite_up_cond hp hu hn), if_pos (by simp [hr]),
    if_pos (by simp [hr, hport, hpage])]

theorem exec_apertureWrite_beside_window (h : port = 1 ∨ 16 ≤ page) : exec (.apertureWrite port page off data) s = .next s := by
  rw [exec_apertureWrite, execApertureWrite, if_neg (apertureWrite_up_cond hp hu hn), if_pos (by simp [hr]), if_neg]
  simp only [hr, Bool.and_eq_true, decide_eq_true_eq]
  omega

end

end

section
variable {len : Nat}

theorem apertureRead_within_cond (hb : s.rtu.boot = .released) (hn : off + len ≤ 0x200000) :
    ¬(s.rtu.boot != .released || decide (0x200000 < off + len)) = true := by simp [hb, hn]

theorem exec_apertureRead_of_down (h : 2 ≤ port ∨ (s.port port).up = false) : exec (.apertureRead port page off len) s = .next s := by
  rw [exec_apertureRead, execApertureRead, if_pos (by simpa using h)]

section
variable (hp : port < 2) (hu : (s.port port).up = true)
include hp hu

theorem apertureRead_up_cond : ¬(decide (2 ≤ port) || !(s.port port).up) = true := by simp [hp, hu]

theorem exec_apertureRead_unsupported (h : s.rtu.boot ≠ .released ∨ 0x200000 < off + len) :
    exec (.apertureRead port page off len) s = .next (s.toHost .unsupported) := by
  rw [exec_apertureRead, execApertureRead, if_neg (apertureRead_up_cond hp hu), if_pos (by simpa using h)]

section
variable (hb : s.rtu.boot = .released) (hn : off + len ≤ 0x200000)
include hb hn

theorem exec_apertureRead_unmapped (h : s.apertureRead port page (linePieces off len (len + 1)) = none) :
    exec (.apertureRead port page off len) s = .next (s.toHost .unsupported) := by
  rw [exec_apertureRead, execApertureRead, if_neg (apertureRead_up_cond hp hu), if_neg (apertureRead_within_cond hb hn), h]

theorem exec_apertureRead_answered {bs : List Byte} {bad : Bool} {u : State}
    (h : s.apertureRead port page (linePieces off len (len + 1)) = some (bs, bad, u)) :
    exec (.apertureRead port page off len) s = .next (u.toHost (if bad then .abort else .data bs)) := by
  rw [exec_apertureRead, execApertureRead, if_neg (apertureRead_up_cond hp hu), if_neg (apertureRead_within_cond hb hn), h]

end

end

end

end

/-! ## The statement -/

/-- Settles O46: each event of a launch, its completion writes, and the two accesses of an aperture, lemma by lemma. -/
theorem launches : Obligations.Launches := by
  unfold Obligations.Launches
  refine ⟨⟨fun port page rec s => ⟨exec_launch_of_down, fun hp hg hu => ⟨exec_launch_of_closed hp hg hu, fun hb ho =>
        ⟨exec_launch_misaligned hp hg hu hb ho, exec_launch_no_tenant hp hg hu hb ho,
          fun t hd ht => ⟨exec_launch_full hp hg hu hb ho hd ht, exec_launch_accepted hp hg hu hb ho hd ht⟩⟩⟩⟩,
      fun s port asid t rec l hl => ⟨State.acceptLaunch_bad hl, State.acceptLaunch_auditFull hl, State.acceptLaunch_no_args hl,
        fun slot u hb hf => State.acceptLaunch_args hl hb hf⟩,
      fun s port page hp hu => ⟨s.portRead_of_up page hp hu 0x40 8, fun off len => s.portRead_other page hp hu⟩,
      fun port page off len data s => ⟨exec_launchPortDmwrOther port page off len s, exec_launchPortPostedWrite port page off data s⟩,
      fun id req l s u hl hr hu => ⟨exec_argsReadComplete_poisoned hl hr hu,
        fun t hp ht => exec_argsReadComplete_unwritable hl hr hu hp ht,
        fun t k m w hp ht => exec_argsReadComplete_written hl hr hu hp ht⟩,
      fun id s => ⟨exec_argsReadComplete_unawaited, exec_launch_events_unknown⟩,
      fun id l t s hl ht => ⟨exec_launchSubmit_waits hl ht, fun hp hturn => ⟨exec_launchSubmit_bad_root hl ht hp hturn,
        fun tm r u w hroot hsub => ⟨exec_launchSubmit_full hl ht hp hturn hroot hsub, exec_launchSubmit_refused hl ht hp hturn hroot hsub,
          exec_launchSubmit_taken hl ht hp hturn hroot hsub⟩⟩⟩,
      fun id l s hl earlier he => ⟨exec_launchDone_waits hl he, fun hp h0 hst hno => ⟨fun ports => exec_launchDone_reads hl he hp h0 hst hno,
        fun h hz => exec_launchDone_awaits_reads hl he hp h0 hst hno hz h, fun h hz => exec_launchDone_done hl he hp h0 hst hno hz h⟩⟩,
      fun s l status flags => ⟨State.complete_of_down status flags, fun w u => State.complete_of_up status flags⟩⟩,
    fun port page off data s => ⟨exec_apertureWrite_of_down, fun hp hu hn => ⟨exec_apertureWrite_of_released hp hu hn,
      exec_apertureWrite_in_reset hp hu hn, exec_apertureWrite_unmapped hp hu hn, fun a home t u => exec_apertureWrite_mapped hp hu hn,
      exec_apertureWrite_window hp hu hn, exec_apertureWrite_beside_window hp hu hn⟩⟩,
    fun port page off len s => ⟨exec_apertureRead_of_down, fun hp hu => ⟨exec_apertureRead_unsupported hp hu,
      fun hb hn => ⟨exec_apertureRead_unmapped hp hu hb hn, fun bs bad u => exec_apertureRead_answered hp hu hb hn⟩⟩⟩⟩

end Sys2Proof.Machine
end

section
/-! PROOF of the environment call (R93, R160, R309): what ECALL and EBREAK do, how a call is made and served, and what an answer writes. -/

namespace Sys2Proof.Store

theorem rising_set {α : Type} [DecidableEq α] (d : α) {m : List (Nat × α)} (h : Rising m) (k : Nat) (v : α) : Rising (set d m k v) := by
  unfold set
  split
  · exact rising_sublist h (del_sublist m k)
  · exact rising_put h k v

end Sys2Proof.Store

namespace Sys2Proof.Machine

/-! ## Registers of the current hart -/

theorem Hart.rising_wx {h : Hart} (hs : Store.Rising h.x) (d : Reg) (v : Word) : Store.Rising (h.wx d v).x := by
  unfold Hart.wx
  split
  · exact hs
  · exact Store.rising_set 0 hs _ _

theorem State.rx_wx_ne (s : State) {r d : Reg} (v : Word) (hn : r ≠ d) : (s.wx d v).rx r = s.rx r := by
  rw [State.wx_eq, State.rx_modMe]
  exact Hart.rx_wx_ne s.me v hn

theorem State.rx_wx_self {s : State} (hs : Store.Rising s.me.x) {d : Reg} (v : Word) (hd : d ≠ 0) : (s.wx d v).rx d = v := by
  rw [State.wx_eq, State.rx_modMe]
  exact Hart.rx_wx_self hs v hd

theorem State.rising_wx {s : State} (hs : Store.Rising s.me.x) (d : Reg) (v : Word) : Store.Rising (s.wx d v).me.x := by
  rw [State.wx_eq, State.me_modMe]
  exact Hart.rising_wx hs d v

/-! ## The answer of a call (R93) -/

/-- An answer is a write of a0 and then of a1. The state it writes in, where a value may have been drawn (log 7), has the hart and the
memory of the call. -/
theorem State.answer_writes (s : State) (code : Int) (v : Option Nat) : ∃ (u : State) (w : Word),
    s.answer code v = (u.wx 10 (BitVec.ofInt 64 code)).wx 11 w ∧ u.me = s.me ∧ u.mem = s.mem ∧ ∀ n, v = some n → w = BitVec.ofNat 64 n := by
  cases v with
  | none => exact ⟨s.fresh64.2, s.fresh64.1, rfl, rfl, rfl, fun _ h => nomatch h⟩
  | some n => exact ⟨s, BitVec.ofNat 64 n, rfl, rfl, rfl, fun _ h => by rw [Option.some.inj h]⟩

section
variable {s : State} (code : Int) (v : Option Nat)

theorem State.rx_answer_code (hs : Store.Rising s.me.x) : (s.answer code v).rx 10 = BitVec.ofInt 64 code := by
  obtain ⟨u, w, hw, hme, -, -⟩ := s.answer_writes code v
  rw [hw, State.rx_wx_ne _ _ (by decide), State.rx_wx_self (hme ▸ hs) _ (by decide)]

theorem State.rx_answer_value (hs : Store.Rising s.me.x) {n : Nat} (hv : v = some n) : (s.answer code v).rx 11 = BitVec.ofNat 64 n := by
  obtain ⟨u, w, hw, hme, -, hn⟩ := s.answer_writes code v
  rw [hw, State.rx_wx_self (State.rising_wx (hme ▸ hs) _ _) _ (by decide), hn n hv]

theorem State.rx_answer_ne {r : Reg} (h10 : r ≠ 10) (h11 : r ≠ 11) : (s.answer code v).rx r = s.rx r := by
  obtain ⟨u, w, hw, hme, -, -⟩ := s.answer_writes code v
  rw [hw, State.rx_wx_ne _ _ h11, State.rx_wx_ne _ _ h10, State.rx, hme, State.rx]

theorem State.answer_mem : (s.answer code v).mem = s.mem := by
  obtain ⟨u, w, hw, -, hmem, -⟩ := s.answer_writes code v
  rw [hw, State.wx_mem, State.wx_mem, hmem]

end

/-! ## Making and serving a call (R93) -/

section
variable {s : State} {f : Nat} {i : Instr} {serve : State → State}

theorem State.calling_iff : s.calling = true ↔ s.me.mode = .s ∧ s.rx 17 = 0x45564F49 := by
  rw [State.calling, Bool.and_eq_true, beq_iff_eq, beq_iff_eq]

theorem superCall_serves (hx : s.me.status.executes = true) (hc : s.calling = true) (hf : (s.rx 16).toNat = f) :
    superCall f serve s = .next (serve s).returned :=
  if_pos (by rw [hc, hf, hx, beq_self_eq_true]; rfl)

theorem superCall_unmade (h : s.calling = false ∨ (s.rx 16).toNat ≠ f) : superCall f serve s = .next s :=
  if_neg (by
    rcases h with hc | hf
    · simp [hc]
    · rw [beq_eq_false_iff_ne.mpr hf, Bool.and_false, Bool.false_and]
      exact Bool.false_ne_true)

theorem SupervisorCall.exec_eq (h : SupervisorCall f i serve) : exec i s = superCall f serve s := by
  cases h <;> rfl

theorem supervisorCall_of_code (h : SupervisorCall f i serve) (hf : (s.rx 16).toNat = f) : supervisorCall s = superCall f serve s := by
  cases h <;> (rw [supervisorCall, hf]; rfl)

theorem supervisorCall_taskFault (hf : (s.rx 16).toNat = 13) : supervisorCall s = taskFault s := by
  rw [supervisorCall, hf]
  rfl

theorem supervisorCall_unknown (hf : 14 < (s.rx 16).toNat) :
    supervisorCall s = superCall (s.rx 16).toNat (·.answer (-6)) s := by
  unfold supervisorCall
  split
  case h_16 => rfl
  all_goals omega

end

/-! ## ECALL and EBREAK (R309, R160) -/

theorem exec_ebreak (s : State) : exec (.ecallEnvironment true) s = .next (s.trap 3 0) := by
  rw [exec_ecallEnvironment, execEcallEnvironment, if_neg (by simp), if_pos rfl]

section
variable {s : State} {f : Nat} {i : Instr} {serve : State → State}

theorem exec_ecall_traps (hc : s.calling = false) :
    exec (.ecallEnvironment false) s = .next (s.trap (match s.me.mode with | .u => 8 | .s => 9 | .m => 11) 0) := by
  rw [exec_ecallEnvironment, execEcallEnvironment, if_neg (by simp [hc])]
  rfl

theorem exec_call_unmade (h : SupervisorCall f i serve) (hn : s.calling = false ∨ (s.rx 16).toNat ≠ f) : exec i s = .next s := by
  rw [h.exec_eq, superCall_unmade hn]

section
variable (hc : s.calling = true)
include hc

theorem exec_ecall_calls : exec (.ecallEnvironment false) s = supervisorCall s := by
  rw [exec_ecallEnvironment, execEcallEnvironment, if_pos (by simp [hc])]

theorem exec_ecall_taskFault (hf : (s.rx 16).toNat = 13) : exec (.ecallEnvironment false) s = exec .taskFault s := by
  rw [exec_ecall_calls hc, supervisorCall_taskFault hf, exec_taskFault, execTaskFault]

end

/-! ## Calls that a hart which executes makes -/

section
variable (hx : s.me.status.executes = true) (hc : s.calling = true)
include hx hc

theorem exec_call_serves (h : SupervisorCall f i serve) (hf : (s.rx 16).toNat = f) : exec i s = .next (serve s).returned := by
  rw [h.exec_eq, superCall_serves hx hc hf]

theorem exec_ecall_serves (h : SupervisorCall f i serve) (hf : (s.rx 16).toNat = f) :
    exec (.ecallEnvironment false) s = .next (serve s).returned := by
  rw [exec_ecall_calls hc, supervisorCall_of_code h hf, superCall_serves hx hc hf]

theorem exec_ecall_unknown (hf : 14 < (s.rx 16).toNat) : exec (.ecallEnvironment false) s = .next (s.answer (-6)).returned := by
  rw [exec_ecall_calls hc, supervisorCall_unknown hf, superCall_serves hx hc rfl]

/-! ### TASK_FAULT -/

section
variable (hf : (s.rx 16).toNat = 13)
include hf

theorem taskFault_made_cond : ¬(!s.calling || (s.rx 16).toNat != 13 || !s.me.status.executes) = true := by
  rw [hc, hf, hx]
  decide

theorem exec_taskFault_invalid (ha : 255 < s.arg 0) : exec .taskFault s = .next (s.answer (-1)).returned := by
  rw [exec_taskFault, execTaskFault, taskFault, if_neg (taskFault_made_cond hx hc hf), if_pos ha]
  exact superCall_serves hx hc hf

theorem exec_taskFault_no_task (ha : s.arg 0 ≤ 255) (ht : s.me.task = none) :
    exec .taskFault s = .next (s.answer (-5)).returned := by
  rw [exec_taskFault, execTaskFault, taskFault, if_neg (taskFault_made_cond hx hc hf), if_neg (Nat.not_lt.mpr ha), ht]
  exact superCall_serves hx hc hf

theorem exec_taskFault_ends {k : Nat} (ha : s.arg 0 ≤ 255) (ht : s.me.task = some k) :
    exec .taskFault s = .next ((s.endTask k 11 (s.arg 0) s.cur false).stopHart s.cur) := by
  rw [exec_taskFault, execTaskFault, taskFault, if_neg (taskFault_made_cond hx hc hf), if_neg (Nat.not_lt.mpr ha), ht]

end

end

end

/-! ## The statement -/

/-- Settles O36: the traps, the calls that are served, the ones that are not made, TASK_FAULT, and the registers of an answer. -/
theorem environmentCalls : Obligations.EnvironmentCalls := by
  unfold Obligations.EnvironmentCalls
  exact ⟨fun s => ⟨exec_ebreak s, exec_ecall_traps⟩,
    fun _ => State.calling_iff,
    fun _ _ _ _ h hx hc hf => ⟨exec_ecall_serves hx hc h hf, exec_call_serves hx hc h hf⟩,
    fun _ _ _ _ h hn => exec_call_unmade h hn,
    fun _ hx hc hf => exec_ecall_unknown hx hc hf,
    fun _ hx hc hf => ⟨exec_ecall_taskFault hc hf, exec_taskFault_invalid hx hc hf, exec_taskFault_no_task hx hc hf,
      fun _ => exec_taskFault_ends hx hc hf⟩,
    fun _ code v hs => ⟨State.rx_answer_code code v hs, fun _ => State.rx_answer_value code v hs,
      fun _ => State.rx_answer_ne code v, State.answer_mem code v⟩⟩

end Sys2Proof.Machine
end

section
/-! PROOF of OBJ_TRANSLATE and OBJ_UNLOAD (R99, R106): what the heap and the slots do, then one lemma per answer, in the order of the
checks. -/

namespace Sys2Proof.Machine

/-! ## The heap (R104, log 110) -/

section
variable {s : State} {x : Translation × List Byte}

theorem State.heapAdd_no_room (hr : s.heapRoom x.1.len = none) : s.heapAdd x = none := by
  rw [State.heapAdd, hr, Option.map_none]

/-- The translation takes the next number, and its code is written before it joins the heap. -/
theorem State.heapAdd_room {a : Nat} {u : State} (hr : s.heapRoom x.1.len = some a)
    (hu : u = (({ s with nextId := s.nextId + 1 } : State).devWrite (Config.heapBase + a) x.2 0).2) :
    s.heapAdd x = some (s.nextId, { u with heap := Store.put u.heap s.nextId { x.1 with base := a } }) := by
  rw [State.heapAdd, hr, Option.map_some, hu]
  rfl

variable {go : Nat → State → State}

theorem State.addTranslation_no_room (hr : s.heapRoom x.1.len = none) : s.addTranslation (some x) go = s.answer (-4) := by
  rw [State.addTranslation, Option.bind_some, State.heapAdd_no_room hr]
  rfl

theorem State.addTranslation_room {a : Nat} {u : State} (hr : s.heapRoom x.1.len = some a)
    (hu : u = (({ s with nextId := s.nextId + 1 } : State).devWrite (Config.heapBase + a) x.2 0).2) :
    s.addTranslation (some x) go = go s.nextId { u with heap := Store.put u.heap s.nextId { x.1 with base := a } } := by
  rw [State.addTranslation, Option.bind_some, State.heapAdd_room hr hu]

end

/-! ## Mapping a translation into a slot (R99, R106) -/

theorem State.mapSlot_maps {s w : State} {asid j area id : Nat} {b : List Byte} {ps : List Place}
    (hp : s.windowPlaces asid area (4608 * (objTasks b).length) = some ps) (hw : w = s.writeWindows asid ps (windowBytes b)) :
    s.mapSlot asid j area id b
      = ({ w with slotMap := Store.put w.slotMap (asid * 256 + j) id } : State).answer 0 (some (slotBase j)) := by
  rw [State.mapSlot, hp, hw]
  rfl

/-! ## The bytes of an object (R99, R108) -/

section
variable {s : State} {asid owner j area : Nat} {b : List Byte}

theorem State.translateBytes_hash_mismatch (hh : (objHash b).toNat ≠ bytesAt b 0x10 32) :
    s.translateBytes asid owner j area b = s.invalid (some 2) := if_pos hh

section
variable (hh : (objHash b).toNat = bytesAt b 0x10 32)
include hh

theorem State.translateBytes_held {id : Nat} (hl : s.lookup owner b = some id) :
    s.translateBytes asid owner j area b = s.mapSlot asid j area id b := by
  rw [State.translateBytes, if_neg (not_not.mpr hh), hl]

section
variable (hl : s.lookup owner b = none)
include hl

theorem State.translateBytes_check_fails {c : Nat} (hc : checkObject b s.grade s.rtu.fuses = .error c) :
    s.translateBytes asid owner j area b = s.invalid (some c) := by
  rw [State.translateBytes, if_neg (not_not.mpr hh), hl, hc]

section
variable {plans : List Planned} (hc : checkObject b s.grade s.rtu.fuses = .ok plans)
include hc

theorem State.translateBytes_no_window (hw : s.windowPlaces asid area (4608 * plans.length) = none) :
    s.translateBytes asid owner j area b = s.invalid none := by
  rw [State.translateBytes, if_neg (not_not.mpr hh), hl, hc]
  exact if_pos (Option.isNone_iff_eq_none.mpr hw)

section
variable (hw : (s.windowPlaces asid area (4608 * plans.length)).isSome = true) {x : Translation} {code : List Byte}
  (hx : buildTranslation owner s.rtu.fuses b plans = some (x, code))
include hw hx

/-- An object that passes every check goes to the heap, and from there into its slot. -/
theorem State.translateBytes_built : s.translateBytes asid owner j area b
    = s.addTranslation (some (x, code)) (fun id s => s.mapSlot asid j area id b) := by
  have hwin : ¬(s.windowPlaces asid area (4608 * plans.length)).isNone = true :=
    ne_true_of_eq_false (Option.isNone_eq_false_iff.mpr hw)
  rw [State.translateBytes, if_neg (not_not.mpr hh), hl, hc, ← hx]
  exact if_neg hwin

theorem State.translateBytes_no_room (hr : s.heapRoom x.len = none) : s.translateBytes asid owner j area b = s.answer (-4) := by
  rw [State.translateBytes_built hh hl hc hw hx]
  exact State.addTranslation_no_room hr

theorem State.translateBytes_joins {a : Nat} {u : State} (hr : s.heapRoom x.len = some a)
    (hu : u = (({ s with nextId := s.nextId + 1 } : State).devWrite (Config.heapBase + a) code 0).2) :
    s.translateBytes asid owner j area b
      = ({ u with heap := Store.put u.heap s.nextId { x with base := a } } : State).mapSlot asid j area s.nextId b := by
  rw [State.translateBytes_built hh hl hc hw hx]
  exact State.addTranslation_room hr hu

end

end

end

end

end

/-! ## OBJ_TRANSLATE (R99) -/

section
variable {s : State}

theorem objTranslate_invalid_arguments (h : s.tenant (s.arg 0) = none ∨ 255 < s.arg 2 ∨ s.arg 3 % 64 ≠ 0) :
    objTranslate s = s.invalid none := by
  rw [objTranslate]
  cases ht : s.tenant (s.arg 0) with
  | none => rfl
  | some t =>
    have hbad : (decide (255 < s.arg 2) || decide (s.arg 3 % 64 ≠ 0)) = true := by simpa [ht] using h
    exact if_pos hbad

section
variable {t : Tenant} (ht : s.tenant (s.arg 0) = some t) (hj : s.arg 2 ≤ 255) (ha : s.arg 3 % 64 = 0)
include ht hj ha

/-- Past the arguments, the slot comes first (log 97); then the frames, the header and the poison. -/
theorem objTranslate_of_valid : objTranslate s =
    if (Store.find? s.slotMap (s.arg 0 * 256 + s.arg 2)).isSome then s.answer (-3)
    else if !s.framesOf t.owner (s.arg 1) 128 then s.invalid none
    else if !headerOk (s.peekBytes (s.arg 1) 128) (s.arg 1) then s.invalid (some 1)
    else if !s.framesOf t.owner (s.arg 1) (bytesAt (s.peekBytes (s.arg 1) 128) 8 8) then s.invalid none
    else if s.rangePoisoned (s.arg 1) (bytesAt (s.peekBytes (s.arg 1) 128) 8 8) then s.invalid (some 2)
    else s.translateBytes (s.arg 0) t.owner (s.arg 2) (s.arg 3)
      (s.peekBytes (s.arg 1) (bytesAt (s.peekBytes (s.arg 1) 128) 8 8)) := by
  have hok : ¬(decide (255 < s.arg 2) || decide (s.arg 3 % 64 ≠ 0)) = true := by simp [hj, ha]
  rw [objTranslate, ht]
  exact if_neg hok

theorem objTranslate_exists (hs : (Store.find? s.slotMap (s.arg 0 * 256 + s.arg 2)).isSome = true) : objTranslate s = s.answer (-3) := by
  rw [objTranslate_of_valid ht hj ha, if_pos hs]

section
variable (hs : Store.find? s.slotMap (s.arg 0 * 256 + s.arg 2) = none)
include hs

theorem objTranslate_foreign_header (hf : s.framesOf t.owner (s.arg 1) 128 = false) : objTranslate s = s.invalid none := by
  rw [objTranslate_of_valid ht hj ha, hs, hf]
  rfl

variable (hf : s.framesOf t.owner (s.arg 1) 128 = true) {h : List Byte} (hh : h = s.peekBytes (s.arg 1) 128)
include hf hh

theorem objTranslate_bad_header (hok : headerOk h (s.arg 1) = false) : objTranslate s = s.invalid (some 1) := by
  subst hh
  rw [objTranslate_of_valid ht hj ha, hs, hf, hok]
  rfl

theorem objTranslate_translates {n : Nat} (hn : n = bytesAt h 8 8) (hok : headerOk h (s.arg 1) = true)
    (hfn : s.framesOf t.owner (s.arg 1) n = true) (hp : s.rangePoisoned (s.arg 1) n = false) :
    objTranslate s = s.translateBytes (s.arg 0) t.owner (s.arg 2) (s.arg 3) (s.peekBytes (s.arg 1) n) := by
  subst hn hh
  rw [objTranslate_of_valid ht hj ha, hs, hf, hok, hfn, hp]
  rfl

end

end

/-! ## OBJ_UNLOAD (R99, R132) -/

/-- A slot is emptied, and the classes of the kernels in it go with it. -/
def State.unloadSlot (s : State) (asid j : Nat) : State :=
  { s.modDisp (fun d => { d with kernels := d.kernels.filter (fun k => !(k.asid == asid && inSlot j k.entry)) }) with
    slotMap := Store.del s.slotMap (asid * 256 + j) }

theorem State.unloadSlot_heap (s : State) (asid j : Nat) : (s.unloadSlot asid j).heap = s.heap := rfl

theorem objUnload_invalid (h : s.tenant (s.arg 0) = none ∨ 255 < s.arg 1) : objUnload s = s.answer (-1) :=
  if_pos (by simpa using h)

section
variable (ht : (s.tenant (s.arg 0)).isSome = true) (hj : s.arg 1 ≤ 255)
include ht hj

theorem objUnload_valid_cond : ¬((s.tenant (s.arg 0)).isNone || decide (255 < s.arg 1)) = true := by
  rw [Option.isNone_eq_false_iff.mpr ht, Bool.false_or, decide_eq_true_eq]
  exact Nat.not_lt.mpr hj

theorem objUnload_empty_slot (hs : Store.find? s.slotMap (s.arg 0 * 256 + s.arg 1) = none) : objUnload s = s.answer (-5) := by
  rw [objUnload, if_neg (objUnload_valid_cond ht hj), hs]
  rfl

variable {id : Nat} (hs : Store.find? s.slotMap (s.arg 0 * 256 + s.arg 1) = some id)
include hs

theorem objUnload_in_use (hu : s.slotInUse (s.arg 0) (s.arg 1) = true) : objUnload s = s.answer (-5) := by
  rw [objUnload, if_neg (objUnload_valid_cond ht hj), hs]
  exact if_pos hu

/-- The slot is emptied; the translation stays in the heap, where a later call finds it. -/
theorem objUnload_unloads (hu : s.slotInUse (s.arg 0) (s.arg 1) = false) : ∃ u : State, objUnload s = u.answer 0 ∧
    u.slotMap = Store.del s.slotMap (s.arg 0 * 256 + s.arg 1) ∧ u.heap = s.heap := by
  refine ⟨s.unloadSlot (s.arg 0) (s.arg 1), ?_, rfl, s.unloadSlot_heap _ _⟩
  rw [objUnload, if_neg (objUnload_valid_cond ht hj), hs]
  exact if_neg (ne_true_of_eq_false hu)

end

end

/-! ## The statement -/

/-- Settles O38: the answers of OBJ_TRANSLATE, of the bytes it translates, of the slot it maps, and of OBJ_UNLOAD. -/
theorem codeCalls : Obligations.CodeCalls := by
  unfold Obligations.CodeCalls
  exact fun s => ⟨objTranslate_invalid_arguments,
    fun t h n ht hj ha hh hn => ⟨objTranslate_exists ht hj ha, fun hs => ⟨objTranslate_foreign_header ht hj ha hs,
      fun hf => objTranslate_bad_header ht hj ha hs hf hh, fun hf => objTranslate_translates ht hj ha hs hf hh hn⟩⟩,
    fun asid owner j area b => ⟨State.translateBytes_hash_mismatch,
      fun hh => ⟨fun id => State.translateBytes_held hh, fun hl => ⟨fun c => State.translateBytes_check_fails hh hl,
        fun plans hc => ⟨State.translateBytes_no_window hh hl hc, fun hw x code hx => ⟨State.translateBytes_no_room hh hl hc hw hx,
          fun a u => State.translateBytes_joins hh hl hc hw hx⟩⟩⟩⟩,
      fun id ps w => State.mapSlot_maps⟩,
    objUnload_invalid,
    fun ht hj => ⟨objUnload_empty_slot ht hj, fun id hs => ⟨objUnload_in_use ht hj hs, objUnload_unloads ht hj hs⟩⟩⟩

end Sys2Proof.Machine
end

section
/-! PROOF of the CSRs of the device (R129, R170, R187, R232, R233, R288): what a CSR instruction does that reads, that writes and that may
not, then what each of the six registers makes of the value written. -/

namespace Sys2Proof.Machine

/-! ## A CSR instruction -/

theorem Mode.one_le_code {mode : Mode} (h : mode ≠ .u) : 1 ≤ mode.code := by
  cases mode
  · exact absurd rfl h
  · decide
  · decide

section
variable {op : CsrOp} {src : CsrSrc} {rd : Reg} {n : Nat} {s : State}

theorem csrBody_unreadable (h : s.me.csrReadable n = false) : csrBody op n src rd s = illegal s :=
  if_pos (by rw [h]; rfl)

section
variable (hr : s.me.csrReadable n = true)
include hr

theorem csrBody_reads (hw : csrWrites op src = false) : csrBody op n src rd s = .ok () (s.wx rd (s.csrRead n)) := by
  rw [csrBody, hr, hw]
  rfl

theorem csrBody_writes (hw : csrWrites op src = true) (ho : csrReadOnly n = false) :
    csrBody op n src rd s = .ok () ((s.csrPut n (s.csrNew op n src)).wx rd (s.csrRead n)) := by
  rw [csrBody, hr, hw, ho]
  rfl

end

/-- The mode alone decides of a CSR that is no counter and not satp. -/
theorem Hart.csrReadable_of_exists {h : Hart} (he : csrExists n = true) (hn : n < 0xC00) (hs : n ≠ 0x180) :
    h.csrReadable n = decide (n / 256 % 4 ≤ h.mode.code) := by
  rw [Hart.csrReadable, he, if_neg (fun hc => absurd hc.1 (Nat.not_le.mpr hn)), decide_eq_false hs]
  simp

variable (hf : s.Free (rd :: src.regs) [])
include hf

theorem csrInstr_unreadable (h : s.me.csrReadable n = false) : csrInstr op n src rd s = .next (s.trap 2 s.me.ir) :=
  ins_trap hf (csrBody_unreadable h)

theorem csrInstr_reads (hr : s.me.csrReadable n = true) (hw : csrWrites op src = false) :
    csrInstr op n src rd s = .next (s.modMe (fun h => (h.wx rd (s.csrRead n)).retire)) :=
  ins_writes hf (csrBody_reads hr hw)

theorem csrInstr_writes (hr : s.me.csrReadable n = true) (hw : csrWrites op src = true) (ho : csrReadOnly n = false) :
    csrInstr op n src rd s = .next (((s.csrPut n (s.csrNew op n src)).wx rd (s.csrRead n)).modMe Hart.retire) :=
  ins_ok hf (csrBody_writes hr hw ho)

/-- A write that changes the hart only. -/
theorem csrInstr_writes_hart (hr : s.me.csrReadable n = true) (hw : csrWrites op src = true) (ho : csrReadOnly n = false)
    {f : Hart → Hart} (hp : s.csrPut n (s.csrNew op n src) = s.modMe f) :
    csrInstr op n src rd s = .next (s.modMe (fun h => ((f h).wx rd (s.csrRead n)).retire)) := by
  rw [csrInstr_writes hf hr hw ho, hp, State.wx_eq, State.modMe_modMe, State.modMe_modMe]

end

/-! ## The values written -/

theorem writeDrift_bounds (v : Word) : 256 ≤ (writeDrift v).toNat ∧ (writeDrift v).toNat ≤ 4096 := by
  unfold writeDrift
  simp only
  split
  · decide
  · split
    · decide
    · bv_omega

/-- The low 13 bits of a value that has no other. -/
theorem and_driftMask {v : Word} (h : v.toNat < 8192) : v &&& 0x1fff = v := by
  apply BitVec.eq_of_toNat_eq
  rw [BitVec.toNat_and]
  exact (Nat.and_two_pow_sub_one_eq_mod v.toNat 13).trans (Nat.mod_eq_of_lt h)

theorem writeDrift_of_bounds {v : Word} (h1 : 256 ≤ v.toNat) (h2 : v.toNat ≤ 4096) : writeDrift v = v := by
  unfold writeDrift
  rw [and_driftMask (by omega)]
  rw [if_neg (by bv_omega), if_neg (by bv_omega)]

theorem writeDrift_low {v : Word} (h : v.toNat < 256) : writeDrift v = 256 := by
  unfold writeDrift
  rw [and_driftMask (by omega)]
  exact if_pos (by bv_omega)

theorem writeDrift_high {v : Word} (h1 : 4096 < v.toNat) (h2 : v.toNat < 8192) : writeDrift v = 4096 := by
  unfold writeDrift
  rw [and_driftMask h2]
  rw [if_neg (by bv_omega), if_pos (by bv_omega)]

theorem writeLease_eq (v : Word) : writeLease v = if v.toNat % 256 = 0 then 1 else v &&& 0xff := by
  have h : v &&& 0xff = 0 ↔ v.toNat % 256 = 0 := by
    rw [← BitVec.toNat_inj, BitVec.toNat_and]
    exact Eq.congr_left (Nat.and_two_pow_sub_one_eq_mod v.toNat 8)
  simp only [writeLease, h]

theorem writeRmode_sr (old v : Word) : (writeRmode old v).getLsbD 3 = v.getLsbD 3 := by
  unfold writeRmode
  simp only
  split <;> simp

theorem fld_low_congr {a b : Word} {len : Nat} (h : ∀ i < len, a.getLsbD i = b.getLsbD i) : fld a 0 len = fld b 0 len := by
  apply BitVec.eq_of_getLsbD_eq
  intro i hi
  simpa [hi] using h i hi

/-- RM is a mode of rounding or stays as it was. -/
theorem writeRmode_rm (old v : Word) :
    fld (writeRmode old v) 0 3 = if 6 ≤ (fld v 0 3).toNat then fld old 0 3 else fld v 0 3 := by
  have h67 : (fld v 0 3 = 6 || fld v 0 3 = 7) = decide (6 ≤ (fld v 0 3).toNat) := by
    generalize fld v 0 3 = m
    revert m
    decide
  have h012 : ∀ i < 3, i = 0 ∨ i = 1 ∨ i = 2 := by omega
  unfold writeRmode
  rw [h67]
  by_cases h : 6 ≤ (fld v 0 3).toNat
  · rw [if_pos h]
    refine fld_low_congr fun i hi => ?_
    rw [if_pos (decide_eq_true h)]
    obtain rfl | rfl | rfl := h012 i hi <;> simp
  · rw [if_neg h]
    refine fld_low_congr fun i hi => ?_
    rw [if_neg (by simpa using h)]
    obtain rfl | rfl | rfl := h012 i hi <;> simp

theorem mergeBits_getLsbD (m old new : Word) (i : Nat) :
    (mergeBits m old new).getLsbD i = if m.getLsbD i then new.getLsbD i else old.getLsbD i := by
  unfold mergeBits
  rw [BitVec.getLsbD_or, BitVec.getLsbD_and, BitVec.getLsbD_and, BitVec.getLsbD_not]
  by_cases hi : i < 64
  · cases h : m.getLsbD i <;> simp [hi]
  · simp [BitVec.getLsbD_of_ge _ _ (Nat.le_of_not_lt hi)]

/-- A field other than FROZEN takes the bit written. -/
theorem writeTrcfg_field {old v : Word} {i : Nat} (hf : trcfgFields.getLsbD i = true) (h8 : i ≠ 8) :
    (writeTrcfg old v).getLsbD i = v.getLsbD i := by
  have hm : (mergeBits trcfgFields old v).getLsbD i = v.getLsbD i := by rw [mergeBits_getLsbD, if_pos hf]
  unfold writeTrcfg
  simp only
  split
  · have hz : (0x100 : Word).getLsbD i = false := by
      rw [show (0x100 : Word) = BitVec.twoPow 64 8 from rfl, BitVec.getLsbD_twoPow, decide_eq_false (Ne.symm h8), Bool.and_false]
    have hi : i < 64 := BitVec.lt_of_getLsbD hf
    rw [BitVec.getLsbD_and, BitVec.getLsbD_not, hz, hm, decide_eq_true hi, Bool.not_false, Bool.and_true, Bool.and_true]
  · exact hm

/-- FROZEN is cleared by a 1, and only by it. -/
theorem writeTrcfg_frozen (old v : Word) : (writeTrcfg old v).getLsbD 8 = (old.getLsbD 8 && !v.getLsbD 8) := by
  have hm : (mergeBits trcfgFields old v).getLsbD 8 = old.getLsbD 8 := by
    rw [mergeBits_getLsbD]
    exact if_neg (by decide)
  unfold writeTrcfg
  cases h : v.getLsbD 8
  · simpa using hm
  · simp

/-- Bits 23 to 63 of trcfg are fields. -/
theorem trcfgFields_high : ∀ i < 64, 23 ≤ i → trcfgFields.getLsbD i = true := by decide

/-! ## Who may read them -/

section
variable {s : State} {n : Nat} (he : csrExists n = true) (hn : n < 0xC00) (hs : n ≠ 0x180)
include he hn hs

theorem State.csrReadable_user (hl : n / 256 % 4 = 0) : s.me.csrReadable n = true := by
  rw [Hart.csrReadable_of_exists he hn hs, hl]
  exact decide_eq_true (Nat.zero_le _)

theorem State.csrReadable_super (hl : n / 256 % 4 = 1) (hm : s.me.mode ≠ .u) : s.me.csrReadable n = true := by
  rw [Hart.csrReadable_of_exists he hn hs, hl]
  exact decide_eq_true (Mode.one_le_code hm)

theorem State.csrReadable_super_low (hl : n / 256 % 4 = 1) (hm : s.me.mode = .u) : s.me.csrReadable n = false := by
  rw [Hart.csrReadable_of_exists he hn hs, hl, hm]
  rfl

end

/-! ## xfctl (R170) -/

section
variable {s : State} {fail : Bool}

theorem State.xfctl_empty (hq : s.me.tfq = []) : s.xfctl fail = s := by
  rw [State.xfctl, hq]

variable {r : TfRec} {rest : List TfRec} (hq : s.me.tfq = r :: rest)
include hq

theorem State.xfctl_resumes : s.xfctl false
    = (s.modMe (fun h => { h with tfq := rest })).modTransfer r.transfer (fun t => { t with paused := false }) := by
  rw [State.xfctl, hq]
  rfl

theorem State.xfctl_fails : s.xfctl true = (s.modMe (fun h => { h with tfq := rest })).modTransfer r.transfer
    (fun t => { t with paused := false, status := (if r.cause = 13 then 1 else 2), phase := .finished }) := by
  rw [State.xfctl, hq]
  rfl

end

section
variable {i : Instr} {op : CsrOp} {src : CsrSrc} {rd : Reg} {s : State} (hi : i = .xfctlResume op src rd ∨ i = .xfctlFail op src rd)

include hi in
/-- The two instructions that name xfctl are one CSR instruction: what is written decides, not the row of the table. -/
theorem exec_xfctl : exec i s = csrInstr op 0x5C5 src rd s := by
  obtain rfl | rfl := hi
  · rw [exec_xfctlResume, execXfctlResume]
  · rw [exec_xfctlFail, execXfctlFail]

variable (hf : s.Free (rd :: src.regs) [])
include hi hf

theorem exec_xfctl_user (hm : s.me.mode = .u) : exec i s = .next (s.trap 2 s.me.ir) := by
  rw [exec_xfctl hi]
  exact csrInstr_unreadable hf (State.csrReadable_super_low rfl (by decide) (by decide) rfl hm)

variable (hm : s.me.mode ≠ .u)
include hm

theorem exec_xfctl_writes (hw : csrWrites op src = true) :
    exec i s = .next (((s.xfctl ((s.csrNew op 0x5C5 src).getLsbD 0)).wx rd 0).modMe Hart.retire) := by
  rw [exec_xfctl hi]
  exact csrInstr_writes hf (State.csrReadable_super rfl (by decide) (by decide) rfl hm) hw rfl

theorem exec_xfctl_nothing (h : csrWrites op src = false ∨ s.me.tfq = []) : exec i s = .next ((s.wx rd 0).modMe Hart.retire) := by
  cases hw : csrWrites op src
  · rw [exec_xfctl hi, State.wx_eq, State.modMe_modMe]
    exact csrInstr_reads hf (State.csrReadable_super rfl (by decide) (by decide) rfl hm) hw
  · have hq : s.me.tfq = [] := h.resolve_left (by simp [hw])
    rw [exec_xfctl_writes hi hf hm hw, State.xfctl_empty hq]

end

/-! ## The other registers -/

section
variable {op : CsrOp} {src : CsrSrc} {rd : Reg} {s : State} (hf : s.Free (rd :: src.regs) [])
include hf

/-! ### budget and drift, of S-mode -/

theorem exec_budgetWrite_user (hm : s.me.mode = .u) : exec (.budgetWrite op src rd) s = .next (s.trap 2 s.me.ir) :=
  csrInstr_unreadable hf (State.csrReadable_super_low rfl (by decide) (by decide) rfl hm)

theorem exec_driftWrite_user (hm : s.me.mode = .u) : exec (.driftWrite op src rd) s = .next (s.trap 2 s.me.ir) :=
  csrInstr_unreadable hf (State.csrReadable_super_low rfl (by decide) (by decide) rfl hm)

section
variable (hm : s.me.mode ≠ .u)
include hm

theorem exec_budgetWrite_reads (hw : csrWrites op src = false) :
    exec (.budgetWrite op src rd) s = .next (s.modMe (fun h => (h.wx rd s.me.budget).retire)) :=
  csrInstr_reads hf (State.csrReadable_super rfl (by decide) (by decide) rfl hm) hw

theorem exec_driftWrite_reads (hw : csrWrites op src = false) :
    exec (.driftWrite op src rd) s = .next (s.modMe (fun h => (h.wx rd s.me.dev.drift).retire)) :=
  csrInstr_reads hf (State.csrReadable_super rfl (by decide) (by decide) rfl hm) hw

theorem exec_budgetWrite_writes (hw : csrWrites op src = true) :
    exec (.budgetWrite op src rd) s = .next (s.modMe (fun h => (({ h with
      dev := { h.dev with remain := (s.csrNew op 0x5C1 src).setWidth 32, zero := false } } : Hart).wx rd s.me.budget).retire)) :=
  csrInstr_writes_hart hf (State.csrReadable_super rfl (by decide) (by decide) rfl hm) hw rfl rfl

theorem exec_driftWrite_writes (hw : csrWrites op src = true) :
    exec (.driftWrite op src rd) s = .next (s.modMe (fun h => (({ h with
      dev := { h.dev with drift := writeDrift (s.csrNew op 0x5C0 src) } } : Hart).wx rd s.me.dev.drift).retire)) :=
  csrInstr_writes_hart hf (State.csrReadable_super rfl (by decide) (by decide) rfl hm) hw rfl rfl

end

/-! ### lease, rmode and trcfg, of every mode -/

section
variable (hw : csrWrites op src = false)
include hw

theorem exec_leaseWrite_reads : exec (.leaseWrite op src rd) s = .next (s.modMe (fun h => (h.wx rd s.me.dev.lease).retire)) :=
  csrInstr_reads hf (State.csrReadable_user rfl (by decide) (by decide) rfl) hw

theorem exec_rmodeWrite_reads : exec (.rmodeWrite op src rd) s = .next (s.modMe (fun h => (h.wx rd s.me.dev.rmode).retire)) :=
  csrInstr_reads hf (State.csrReadable_user rfl (by decide) (by decide) rfl) hw

theorem exec_trcfgWrite_reads : exec (.trcfgWrite op src rd) s = .next (s.modMe (fun h => (h.wx rd s.me.dev.trcfg).retire)) :=
  csrInstr_reads hf (State.csrReadable_user rfl (by decide) (by decide) rfl) hw

end

section
variable (hw : csrWrites op src = true)
include hw

theorem exec_leaseWrite_writes : exec (.leaseWrite op src rd) s = .next (s.modMe (fun h => (({ h with
    dev := { h.dev with lease := if (s.csrNew op 0x803 src).toNat % 256 = 0 then 1 else s.csrNew op 0x803 src &&& 0xff } } : Hart).wx rd
      s.me.dev.lease).retire)) := by
  rw [← writeLease_eq]
  exact csrInstr_writes_hart hf (State.csrReadable_user rfl (by decide) (by decide) rfl) hw rfl rfl

theorem exec_rmodeWrite_writes : exec (.rmodeWrite op src rd) s = .next (s.modMe (fun h => (({ h with
    dev := { h.dev with rmode := writeRmode s.me.dev.rmode (s.csrNew op 0x800 src) } } : Hart).wx rd s.me.dev.rmode).retire)) := by
  rw [exec_rmodeWrite, execRmodeWrite, csrInstr_writes_hart hf (State.csrReadable_user rfl (by decide) (by decide) rfl) hw rfl rfl]
  exact congrArg _ (State.modMe_congr _ rfl)

theorem exec_trcfgWrite_writes : exec (.trcfgWrite op src rd) s = .next (s.modMe (fun h => (({ h with
    dev := { h.dev with trcfg := writeTrcfg s.me.dev.trcfg (s.csrNew op 0x809 src) } } : Hart).wx rd s.me.dev.trcfg).retire)) := by
  rw [exec_trcfgWrite, execTrcfgWrite, csrInstr_writes_hart hf (State.csrReadable_user rfl (by decide) (by decide) rfl) hw rfl rfl]
  exact congrArg _ (State.modMe_congr _ rfl)

end

end

/-! ## The statement -/

/-- Settles O8: the writes of the five registers, the instructions that only read them, the traps of U-mode, and xfctl. -/
theorem deviceCsrWrites : Obligations.DeviceCsrWrites := by
  unfold Obligations.DeviceCsrWrites
  exact ⟨⟨fun _ _ _ _ hf hm hw => exec_budgetWrite_writes hf hm hw,
      fun _ _ _ _ hf hm hw => ⟨_, exec_driftWrite_writes hf hm hw, (writeDrift_bounds _).1, (writeDrift_bounds _).2,
        writeDrift_of_bounds, writeDrift_low, writeDrift_high⟩,
      fun _ _ _ _ hf hw => exec_leaseWrite_writes hf hw,
      fun _ _ _ _ hf hw => ⟨_, exec_rmodeWrite_writes hf hw, writeRmode_sr _ _, writeRmode_rm _ _⟩,
      fun _ _ _ _ hf hw => ⟨_, exec_trcfgWrite_writes hf hw, writeTrcfg_frozen _ _, writeTrcfg_field (by decide) (by decide),
        fun i h23 h63 => writeTrcfg_field (trcfgFields_high i (by omega) h23) (by omega)⟩,
      fun _ _ _ _ hf hw => ⟨fun hm => ⟨exec_budgetWrite_reads hf hm hw, exec_driftWrite_reads hf hm hw⟩,
        exec_leaseWrite_reads hf hw, exec_rmodeWrite_reads hf hw, exec_trcfgWrite_reads hf hw⟩,
      fun _ _ _ _ hf hm => ⟨exec_budgetWrite_user hf hm, exec_driftWrite_user hf hm⟩⟩,
    fun _ _ _ _ _ hi hf => ⟨fun hm _ _ hw hq => ⟨
        fun hb => by rw [exec_xfctl_writes hi hf hm hw, hb, State.xfctl_resumes hq],
        fun hb => by rw [exec_xfctl_writes hi hf hm hw, hb, State.xfctl_fails hq]⟩,
      exec_xfctl_nothing hi hf, exec_xfctl_user hi hf⟩⟩

end Sys2Proof.Machine
end

section
/-! PROOF of TSPAWN and of the submission (R117 to R119, R340): the instruction around the submission, then the submission refused and
taken. -/

namespace Sys2Proof.Machine

/-! ## The instruction (R340) -/

theorem State.ea_zero {n : Nat} (s : State) (a : Reg) : s.ea a (0 : BitVec n) = s.rx a := by
  have h0 : (sx (0 : BitVec n) : Word) = 0 := BitVec.eq_of_getLsbD_eq fun i hi => by simp [sx, BitVec.getLsbD_signExtend]
  rw [State.ea, h0]
  exact BitVec.add_zero _

section
variable {s : State} (hrel : s.releasePackage = .ok () s)
include hrel

theorem spawn_no_task (d : Reg) (addr : Word) (note : Bool) (hn : s.me.task = none) : spawn d addr note s = .ok () (s.wx d 1) := by
  simp only [spawn, hrel, Act.andThen, hn]

theorem spawn_submits (d : Reg) (addr : Word) (note : Bool) {k c : Nat} {t : Task} (hk : s.me.task = some k) (hc : s.me.ctx = some c)
    (ht : s.task k = some t) {p : Nat × State}
    (hp : p = s.submit (s.asidOf s.cur) addr.toNat (dieOf s.cur) t.launch (if note then some (c, s.me.slot) else none) s.me.pts) :
    spawn d addr note s = .ok () (p.2.wx d (BitVec.ofNat 64 p.1)) := by
  subst hp
  simp only [spawn, hrel, Act.andThen, hk, hc, ht, Option.bind_some]

end

theorem exec_tspawn_zero (d a : Reg) (s : State) : exec (.tspawn d a) s = exec (.tspawnOff d a 0) s := by
  simp only [exec_tspawn, exec_tspawnOff, execTspawn, execTspawnOff, State.ea_zero]

theorem exec_tspawnN_zero (d a : Reg) (s : State) : exec (.tspawnN d a) s = exec (.tspawnNOff d a 0) s := by
  simp only [exec_tspawnN, exec_tspawnNOff, execTspawnN, execTspawnNOff, State.ea_zero]

section
variable {d a : Reg} {off : BitVec 24} {s : State} (hf : s.Free [d, a] []) (hrel : s.releasePackage = .ok () s)
include hf hrel

/-- In each of the four forms, a hart without a task writes 1. -/
theorem exec_spawns_no_task (hn : s.me.task = none) :
    exec (.tspawn d a) s = .next (s.modMe (fun h => (h.wx d 1).retire)) ∧
    exec (.tspawnN d a) s = .next (s.modMe (fun h => (h.wx d 1).retire)) ∧
    exec (.tspawnOff d a off) s = .next (s.modMe (fun h => (h.wx d 1).retire)) ∧
    exec (.tspawnNOff d a off) s = .next (s.modMe (fun h => (h.wx d 1).retire)) := by
  rw [exec_tspawn, execTspawn, exec_tspawnN, execTspawnN, exec_tspawnOff, execTspawnOff, exec_tspawnNOff, execTspawnNOff]
  exact ⟨ins_writes hf (spawn_no_task hrel d _ _ hn), ins_writes hf (spawn_no_task hrel d _ _ hn),
    ins_writes hf (spawn_no_task hrel d _ _ hn), ins_writes hf (spawn_no_task hrel d _ _ hn)⟩

variable {k c : Nat} {t : Task} (hk : s.me.task = some k) (hc : s.me.ctx = some c) (ht : s.task k = some t) {p : Nat × State}
include hk hc ht

theorem exec_tspawnOff_submits (hp : p = s.submit (s.asidOf s.cur) (s.ea a off).toNat (dieOf s.cur) t.launch none s.me.pts) :
    exec (.tspawnOff d a off) s = .next ((p.2.wx d (BitVec.ofNat 64 p.1)).modMe Hart.retire) := by
  rw [exec_tspawnOff, execTspawnOff]
  exact ins_ok hf (spawn_submits hrel d _ false hk hc ht hp)

theorem exec_tspawnNOff_submits
    (hp : p = s.submit (s.asidOf s.cur) (s.ea a off).toNat (dieOf s.cur) t.launch (some (c, s.me.slot)) s.me.pts) :
    exec (.tspawnNOff d a off) s = .next ((p.2.wx d (BitVec.ofNat 64 p.1)).modMe Hart.retire) := by
  rw [exec_tspawnNOff, execTspawnNOff]
  exact ins_ok hf (spawn_submits hrel d _ true hk hc ht hp)

end

/-! ## The submission (R117 to R119) -/

/-- The task that the dispatcher makes of a TCB that it has read and checked (R116 to R119). -/
def State.newTask (s : State) (asid addr die : Nat) (launch : Option Nat) (notify : Option (Nat × Nat)) (t0 tm : Nat) (bs : List Byte) :
    Task :=
  let u := s.tenant asid
  let dl := bytesAt bs 0x20 8
  let n := bytesAt bs 0x18 2
  { addr := addr, asid := asid, die := die, tcb := Tcb.ofBytes bs, state := (if n = 0 then 2 else 1), count := n,
    demand := bytesAt bs 0x1A 2, deadline := (if dl = 0 then s.ns + (u.map (·.slack)).getD 0 else dl),
    cls := max (bytesAt bs 0x2D 1) ((u.map (·.floor)).getD 0), relTime := max t0 tm, launch := launch, notify := notify,
    xdec := s.disp.excess.contains (asid, addr) }

/-- The dispatcher holds a new task under the next submission number. -/
def State.hold (s : State) (t : Task) : State := s.modDisp (fun d =>
  { d with nextSub := d.nextSub + 1, tasks := Store.put d.tasks d.nextSub t, excess := d.excess.filter (· != (t.asid, t.addr)) })

/-- Its launch has one more live task. -/
def State.countLive (s : State) (launch : Option Nat) : State :=
  match launch with
  | some l => s.modDisp (fun d =>
      { d with launches := d.launches.map (fun x => if x.1 = l then (l, { x.2 with live := x.2.live + 1 }) else x) })
  | none => s

theorem State.task_hold (s : State) (t : Task) : (s.hold t).task s.disp.nextSub = some t := Store.find?_put_self _ _ _

theorem State.nextSub_hold (s : State) (t : Task) : (s.hold t).disp.nextSub = s.disp.nextSub + 1 := rfl

theorem State.tasks_countLive (s : State) (l : Option Nat) : (s.countLive l).disp.tasks = s.disp.tasks := by
  cases l <;> rfl

theorem State.task_countLive (s : State) (l : Option Nat) (k : Nat) : (s.countLive l).task k = s.task k := by
  rw [State.task, State.tasks_countLive, State.task]

theorem State.nextSub_countLive (s : State) (l : Option Nat) : (s.countLive l).disp.nextSub = s.disp.nextSub := by
  cases l <;> rfl

section
variable {s : State} {asid addr die : Nat} {l : Option Nat} {n : Option (Nat × Nat)} {t0 : Nat}

theorem State.submit_no_tcb (h : addr % 64 ≠ 0 ∨ s.tcbPlace asid .store addr = none) : s.submit asid addr die l n t0 = (1, s) := by
  refine if_pos ?_
  rcases h with h | h
  · simp [h]
  · simp [h]

section
variable {bs : List Byte} {tm : Nat} {u : State} (ha : addr % 64 = 0) (hp : s.tcbPlace asid .store addr ≠ none)
  (hq : s.tcbPlace asid .store (addr + 64) ≠ none) (hr : s.readTcb asid addr t0 = some (bs, tm, u))
include ha hp hq hr

/-- The submission of a TCB that can be read and written. -/
theorem State.submit_of_read : s.submit asid addr die l n t0 =
    if u.tcbCheck asid addr bs ≠ 0 then (u.tcbCheck asid addr bs, u)
    else if dieTaskLimit ≤ (u.disp.tasks.filter (fun t => t.2.die == die)).length then (11, u)
    else
      let w := (u.putTcb asid (addr + 0x58) 1 (natSetBits (bytesAt bs 0x58 1) 0 4 1) tm).2
      let v := (w.hold (w.newTask asid addr die l n t0 tm bs)).countLive l
      (0, if (Tcb.ofBytes bs).nonstrict && bytesAt bs 0x18 2 ≠ 0 then v.examine w.disp.nextSub else v) := by
  have hok : ¬(addr % 64 ≠ 0 || (s.tcbPlace asid .store addr).isNone || (s.tcbPlace asid .store (addr + 64)).isNone) = true := by
    simp [ha, hp, hq]
  rw [State.submit, if_neg hok, hr]
  rfl

theorem State.submit_fails_check (hc : u.tcbCheck asid addr bs ≠ 0) : s.submit asid addr die l n t0 = (u.tcbCheck asid addr bs, u) := by
  rw [State.submit_of_read ha hp hq hr, if_pos hc]

variable (hc : u.tcbCheck asid addr bs = 0)
include hc

theorem State.submit_die_full (hd : 65536 ≤ (u.disp.tasks.filter (fun t => t.2.die == die)).length) :
    s.submit asid addr die l n t0 = (11, u) := by
  rw [State.submit_of_read ha hp hq hr, if_neg (not_not.mpr hc), dieTaskLimit, if_pos hd]

/-- A task without predecessors is held at once, READY; `w` is the state in which its STATE has been written. -/
theorem State.submit_taken (hd : (u.disp.tasks.filter (fun t => t.2.die == die)).length < 65536) (h0 : bytesAt bs 0x18 2 = 0)
    {w : State} (hw : w = (u.putTcb asid (addr + 0x58) 1 (natSetBits (bytesAt bs 0x58 1) 0 4 1) tm).2) :
    s.submit asid addr die l n t0 = (0, (w.hold (w.newTask asid addr die l n t0 tm bs)).countLive l) := by
  subst hw
  rw [State.submit_of_read ha hp hq hr, if_neg (not_not.mpr hc), dieTaskLimit, if_neg (Nat.not_le.mpr hd)]
  simp [h0]

end

theorem State.newTask_ready {tm : Nat} {bs : List Byte} (h0 : bytesAt bs 0x18 2 = 0) :
    (s.newTask asid addr die l n t0 tm bs).state = 2 := if_pos h0

theorem State.newTask_deadline {tm : Nat} {bs : List Byte} (hd : bytesAt bs 0x20 8 ≠ 0) :
    (s.newTask asid addr die l n t0 tm bs).deadline = bytesAt bs 0x20 8 := if_neg hd

end

/-! ## The statement -/

/-- Settles O14: the four forms, then the submission that is refused and the one that is taken. -/
theorem spawning : Obligations.Spawning := by
  unfold Obligations.Spawning
  refine ⟨⟨fun _ _ _ _ hf hrel hn => exec_spawns_no_task hf hrel hn, fun d a off s k c t p q hf hrel hk hc ht =>
    ⟨fun hp => ⟨exec_tspawnOff_submits hf hrel hk hc ht hp, ?_⟩, fun hq => ⟨exec_tspawnNOff_submits hf hrel hk hc ht hq, ?_⟩⟩⟩,
    fun s asid addr die l n t0 => ⟨State.submit_no_tcb, fun bs tm u ha hp hq hr => ⟨State.submit_fails_check ha hp hq hr,
      State.submit_die_full ha hp hq hr, fun hc hd h0 => ?_⟩⟩⟩
  · rintro rfl
    exact exec_tspawn_zero d a s
  · rintro rfl
    exact exec_tspawnN_zero d a s
  · generalize hw : (u.putTcb asid (addr + 0x58) 1 (natSetBits (bytesAt bs 0x58 1) 0 4 1) tm).2 = w
    refine ⟨_, w.disp.nextSub, w.newTask asid addr die l n t0 tm bs, State.submit_taken ha hp hq hr hc hd h0 hw.symm, ?_, ?_,
      State.newTask_ready h0, rfl, rfl, rfl, h0, rfl, rfl, rfl, Nat.le_max_left _ _, Nat.le_max_right _ _, Nat.le_max_left _ _,
      State.newTask_deadline⟩
    · rw [State.task_countLive, State.task_hold]
    · rw [State.nextSub_countLive, State.nextSub_hold]

end Sys2Proof.Machine
end

section
/-! PROOF of the ready order, of pairing and pre-emption, of decrements and of withdrawals (R121, R122, R124, R139, R140, R147, R151). -/

namespace Sys2Proof.Machine

/-! ## The tasks that the dispatcher holds -/

theorem State.task_setTask_self (s : State) (k : Nat) (t : Task) : (s.setTask k t).task k = some t := Store.find?_put_self _ _ _

/-! ## The ready order (R122) -/

theorem taskBefore_iff (a b : Nat × Task) : taskBefore a b = true ↔ a.2.cls < b.2.cls ∨ a.2.cls = b.2.cls ∧
    (a.2.deadline < b.2.deadline ∨ a.2.deadline = b.2.deadline ∧ a.1 < b.1) := by
  unfold taskBefore
  split
  · rw [decide_eq_true_eq]
    omega
  · split
    · rw [decide_eq_true_eq]
      omega
    · rw [decide_eq_true_eq]
      omega

theorem taskBefore_irrefl (a : Nat × Task) : taskBefore a a = false := by
  rw [← Bool.not_eq_true, taskBefore_iff]
  omega

/-- What is not before another is not before what follows that one. -/
theorem taskBefore_false_trans {a b c : Nat × Task} (h1 : taskBefore a b = false) (h2 : taskBefore b c = false) :
    taskBefore a c = false := by
  rw [← Bool.not_eq_true, taskBefore_iff] at *
  omega

theorem taskBefore_asymm {a b : Nat × Task} (h : taskBefore a b = true) : taskBefore b a = false := by
  rw [← Bool.not_eq_true]
  rw [taskBefore_iff] at *
  omega

/-- The better of what has been found and the next task. -/
def betterTask (before : Nat × Task → Nat × Task → Bool) (b : Option (Nat × Task)) (t : Nat × Task) : Option (Nat × Task) :=
  match b with
  | none => some t
  | some x => if before t x then some t else b

theorem firstTask_cons (before : Nat × Task → Nat × Task → Bool) (x : Nat × Task) (l : List (Nat × Task)) :
    firstTask before (x :: l) = l.foldl (betterTask before) (some x) := rfl

theorem foldl_betterTask (x : Nat × Task) (l : List (Nat × Task)) :
    ∃ y, l.foldl (betterTask taskBefore) (some x) = some y ∧ y ∈ x :: l ∧ ∀ z ∈ x :: l, taskBefore z y = false := by
  induction l generalizing x with
  | nil => exact ⟨x, rfl, List.mem_singleton_self x, fun z hz => by rw [List.mem_singleton.mp hz, taskBefore_irrefl]⟩
  | cons t l ih =>
    cases h : taskBefore t x with
    | true =>
      obtain ⟨y, hy, hm, hle⟩ := ih t
      refine ⟨y, by simpa [betterTask, h] using hy, List.mem_cons_of_mem _ hm, fun z hz => ?_⟩
      rcases List.mem_cons.mp hz with rfl | hz
      · exact taskBefore_false_trans (taskBefore_asymm h) (hle t List.mem_cons_self)
      · exact hle z hz
    | false =>
      obtain ⟨y, hy, hm, hle⟩ := ih x
      refine ⟨y, by simpa [betterTask, h] using hy, ?_, fun z hz => ?_⟩
      · rcases List.mem_cons.mp hm with rfl | hm
        · exact List.mem_cons_self
        · exact List.mem_cons_of_mem _ (List.mem_cons_of_mem _ hm)
      · rcases List.mem_cons.mp hz with rfl | hz
        · exact hle z List.mem_cons_self
        · rcases List.mem_cons.mp hz with rfl | hz
          · exact taskBefore_false_trans h (hle x List.mem_cons_self)
          · exact hle z (List.mem_cons_of_mem _ hz)

/-- A list with a task in it has a first one: none of the list is before it. -/
theorem firstTask_of_ne_nil {l : List (Nat × Task)} (hl : l ≠ []) :
    ∃ y, firstTask taskBefore l = some y ∧ y ∈ l ∧ ∀ z ∈ l, taskBefore z y = false := by
  obtain ⟨x, r, rfl⟩ := List.exists_cons_of_ne_nil hl
  exact foldl_betterTask x r

theorem firstTask_least {l : List (Nat × Task)} {x : Nat × Task} (h : firstTask taskBefore l = some x) :
    x ∈ l ∧ ∀ y ∈ l, taskBefore y x = false := by
  have hl : l ≠ [] := by
    rintro rfl
    exact nomatch h
  obtain ⟨y, hy, hm, hle⟩ := firstTask_of_ne_nil hl
  obtain rfl : y = x := Option.some.inj (hy.symm.trans h)
  exact ⟨hm, hle⟩

/-- A tenant below its reserve goes before the others (R121). -/
theorem State.nextTask_first (s : State) {l : List (Nat × Task)} (hl : l ≠ []) : ∃ x, s.nextTask l = some x ∧ x ∈ l ∧
    ((∃ y ∈ l, s.belowReserve y.2.asid = true) → s.belowReserve x.2.asid = true) := by
  rw [State.nextTask]
  by_cases hp : l.filter (fun t => s.belowReserve t.2.asid) = []
  · obtain ⟨x, hx, hm, -⟩ := firstTask_of_ne_nil hl
    refine ⟨x, by rw [hp]; exact hx, hm, fun ⟨y, hy, hb⟩ => ?_⟩
    exact absurd hb (List.filter_eq_nil_iff.mp hp y hy)
  · obtain ⟨x, hx, hm, -⟩ := firstTask_of_ne_nil hp
    obtain ⟨hml, hb⟩ := List.mem_filter.mp hm
    exact ⟨x, by rw [if_neg (by rwa [List.isEmpty_iff])]; exact hx, hml, fun _ => hb⟩

theorem State.readyOn_ready {s : State} {die k : Nat} {t : Task} (h : (k, t) ∈ s.readyOn die) :
    t.die = die ∧ (t.state = 2 ∨ t.state = 5) ∧ t.ending = none := by
  obtain ⟨-, hp⟩ := List.mem_filter.mp h
  simp only [State.inOrder, Bool.and_eq_true, Bool.or_eq_true, beq_iff_eq, decide_eq_true_eq, Option.isNone_iff_eq_none] at hp
  tauto

/-! ## Pairing, the arbiter and pre-emption (R139, R140) -/

section
variable {s : State} {die : Nat}

theorem exec_dispatch_stopped (hd : s.dispatching = false) : exec (.dispatchPairing die) s = .next s ∧
    exec (.packageArbiterMove die) s = .next s ∧ exec (.reservePreemption die) s = .next s := by
  refine ⟨?_, ?_, ?_⟩
  · rw [exec_dispatchPairing, execDispatchPairing, hd]
    rfl
  · rw [exec_packageArbiterMove, execPackageArbiterMove, hd]
    rfl
  · rw [exec_reservePreemption, execReservePreemption, hd]
    rfl

variable (hd : s.dispatching = true)
include hd

theorem exec_dispatchPairing_pairs :
    exec (.dispatchPairing die) s = .next ((s.dropPreempts.wakeReclaimed die).pairAll die 1024) := by
  rw [exec_dispatchPairing, execDispatchPairing, if_pos hd]

omit hd in
theorem exec_packageArbiterMove_none (hp : s.arbiterPick die = none) : exec (.packageArbiterMove die) s = .next s := by
  rw [exec_packageArbiterMove, execPackageArbiterMove, hp]
  exact ite_self _

theorem exec_packageArbiterMove_moves {k : Nat} (h4 : die < 4) (hp : s.arbiterPick die = some k) :
    exec (.packageArbiterMove die) s = .next (s.modTask k (fun t => { t with die := die })) := by
  rw [exec_packageArbiterMove, execPackageArbiterMove, if_neg (by simp [hd, h4]), hp]

omit hd in
theorem exec_reservePreemption_none (h : s.starved die = []) : exec (.reservePreemption die) s = .next s := by
  rw [exec_reservePreemption, execReservePreemption, h]
  exact ite_self _

theorem exec_reservePreemption_stops {k v : Nat} {t vt : Task} (hk : firstTask taskBefore (s.starved die) = some (k, t))
    (hv : firstTask (fun a b => taskBefore b a) (s.disp.tasks.filter (s.victimOk t.asid t)) = some (v, vt)) :
    exec (.reservePreemption die) s
      = .next ((s.stopTask v).modDisp (fun d => { d with preempt := Store.put d.preempt vt.hartNo k })) := by
  rw [exec_reservePreemption, execReservePreemption, if_neg (by simp [hd]), hk]
  simp only [hv]

end

/-! ## Decrements (R124, R147) -/

section
variable {s u : State} {k : Nat}

theorem exec_decrement_none (h : s.disp.decs[k]? = none) : exec (.decrement k) s = .next s := by
  rw [exec_decrement, execDecrement, h]

section
variable {d : Dec} (hk : s.disp.decs[k]? = some d) (hu : u = s.modDisp (fun x => { x with decs := x.decs.eraseIdx k }))
include hk hu

theorem exec_decrement_lost (hp : u.tcbPlace d.asid .store d.target = none) :
    exec (.decrement k) s = .next ((u.modTask d.sub (fun t => { t with slost := true })).closeEnd d.sub) := by
  subst hu
  simp only [exec_decrement, execDecrement, hk, hp]

variable (hp : (u.tcbPlace d.asid .store d.target).isSome = true)
include hp

theorem exec_decrement_held {q : Nat} {t : Task} (hh : u.heldTask d.asid d.target = some (q, t)) :
    exec (.decrement k) s = .next ((u.decTask q d).closeEnd d.sub) := by
  obtain ⟨p, hp⟩ := Option.isSome_iff_exists.mp hp
  subst hu
  simp only [exec_decrement, execDecrement, hk, hp, hh]

theorem exec_decrement_unheld (hh : u.heldTask d.asid d.target = none) :
    exec (.decrement k) s = .next ((u.decMemory d).closeEnd d.sub) := by
  obtain ⟨p, hp⟩ := Option.isSome_iff_exists.mp hp
  subst hu
  simp only [exec_decrement, execDecrement, hk, hp, hh]

end

/-- The entries of a task's producer list that name a producer. -/
def State.entriesOf (s : State) (t : Task) (producer : Nat) : List Nat :=
  (List.range t.tcb.prodCount).filter (fun i => (s.producers t).getD i 0 == producer)

/-- A task whose count a decrement has lowered. -/
def Task.counted (t : Task) (d : Dec) (mine : List Nat) : Task :=
  { t with count := t.count - 1, relTime := max t.relTime d.time, finished := mine.foldl insertNat t.finished }

variable {q : Nat} {t : Task} (d : Dec) (ht : s.task q = some t) (he : t.ending = none)
include ht he

/-- A decrement too many is noted. -/
theorem State.decTask_excess (h0 : t.count = 0) : s.decTask q d = s.setTask q { t with xdec := true } := by
  have hlive : ¬t.ending.isSome = true := by simp [he]
  rw [State.decTask, ht]
  exact (if_neg hlive).trans (if_pos h0)

/-- A decrement of a task whose count is not 0. -/
theorem State.decTask_of_count (h0 : t.count ≠ 0) : s.decTask q d =
    let mine := s.entriesOf t d.producer
    let u := t.counted d mine
    if t.state ≠ 1 then s.setTask q u
    else if u.count = 0 then s.setTask q { u with state := 2, gate := some d.sub }
    else if t.tcb.nonstrict && d.abs && !mine.isEmpty then
      let v := { u with absorbed := mine.foldl insertNat t.absorbed }
      if v.condition then (s.setTask q { v with gate := some d.sub }).fireEarly q (if t.tcb.any || t.tcb.all then mine.headD 0 else 0)
      else s.setTask q v
    else s.setTask q u := by
  have hlive : ¬t.ending.isSome = true := by simp [he]
  rw [State.decTask, ht]
  exact (if_neg hlive).trans (if_neg h0)

/-- The last decrement makes the task ready, once the end of the predecessor is written. -/
theorem State.decTask_last (h1 : t.count = 1) (hs : t.state = 1) :
    s.decTask q d = s.setTask q { t.counted d (s.entriesOf t d.producer) with state := 2, gate := some d.sub } := by
  have hz : (t.counted d (s.entriesOf t d.producer)).count = 0 := by rw [Task.counted, h1]
  rw [State.decTask_of_count d ht he (by omega)]
  exact (if_neg (not_not.mpr hs)).trans (if_pos hz)

theorem State.decTask_counts (h1 : 1 < t.count) (hn : t.tcb.nonstrict = false) :
    s.decTask q d = s.setTask q (t.counted d (s.entriesOf t d.producer)) := by
  have hz : (t.counted d (s.entriesOf t d.producer)).count ≠ 0 := Nat.sub_ne_zero_of_lt h1
  rw [State.decTask_of_count d ht he (by omega)]
  by_cases hs : t.state = 1
  · refine (if_neg (not_not.mpr hs)).trans ((if_neg hz).trans (if_neg ?_))
    simp [hn]
  · exact if_pos hs

end

/-! ## Withdrawals (R151) -/

section
variable {s u : State} {k : Nat}

theorem exec_withdraw_none (h : s.disp.wds[k]? = none) : exec (.withdraw k) s = .next s := by
  rw [exec_withdraw, execWithdraw, h]

theorem State.applyWithdrawal_unheld {w : Wd} (hh : u.heldTask w.asid w.target = none) : u.applyWithdrawal w = u := by
  rw [State.applyWithdrawal, hh]

section
variable {w : Wd} {q : Nat} {t : Task} (hh : u.heldTask w.asid w.target = some (q, t)) (he : t.ending = none)
include hh he

theorem State.applyWithdrawal_lowers (h1 : 1 < t.demand) : u.applyWithdrawal w = u.setTask q { t with demand := t.demand - 1 } := by
  have h0 : t.demand ≠ 0 := by omega
  have h2 : t.demand - 1 ≠ 0 := by omega
  simp [State.applyWithdrawal, hh, he, h0, h2]

/-- The last withdrawal cancels a task that waits, and with it its own demand on its producers. -/
theorem State.applyWithdrawal_cancels (h1 : t.demand = 1) (hs : t.state = 1) {v : State} (hv : v = u.setTask q { t with demand := 0 }) :
    u.applyWithdrawal w = (v.withdrawFrom { t with demand := 0 } (List.range t.tcb.prodCount)).endTask q 10 0 0xFFF false := by
  subst hv
  simp [State.applyWithdrawal, hh, he, h1, hs]

end

theorem exec_withdraw_applies {w : Wd} (hk : s.disp.wds[k]? = some w) (hu : u = s.modDisp (fun d => { d with wds := d.wds.eraseIdx k })) :
    exec (.withdraw k) s = .next (u.applyWithdrawal w) := by
  rw [exec_withdraw, execWithdraw, hk, hu]

end

/-! ## The statement -/

/-- Settles O51: the order and its first task, the stopped and the running dispatcher, decrements, and withdrawals. -/
theorem readyOrder : Obligations.ReadyOrder := by
  unfold Obligations.ReadyOrder
  refine ⟨taskBefore_iff, fun _ _ => firstTask_least, fun s _ => s.nextTask_first,
    fun die s => ⟨exec_dispatch_stopped, fun hd => ⟨exec_dispatchPairing_pairs hd, exec_packageArbiterMove_none,
      fun _ => exec_packageArbiterMove_moves hd, exec_reservePreemption_none, fun _ _ _ _ => exec_reservePreemption_stops hd⟩,
      by rw [exec_rebalanceEvaluation, execRebalanceEvaluation]⟩,
    fun _ _ _ _ => State.readyOn_ready,
    fun k s => ⟨exec_decrement_none, fun d u hk hu => ⟨exec_decrement_lost hk hu, fun hp => ⟨fun _ _ => exec_decrement_held hk hu hp,
      exec_decrement_unheld hk hu hp⟩⟩⟩,
    fun s q t d ht he => ⟨fun h0 => ?_, fun h1 hs => ?_, fun h1 hn => ?_⟩,
    fun k s => ⟨exec_withdraw_none, fun w u hk hu => ⟨exec_withdraw_applies hk hu, fun hh => ?_, fun q t hh he => ⟨fun h1 => ?_,
      fun h1 hs v hv => ?_⟩⟩⟩⟩
  · rw [State.decTask_excess d ht he h0, State.task_setTask_self]
  · rw [State.decTask_last d ht he h1 hs, State.task_setTask_self]
    exact ⟨_, rfl, rfl, by simp [Task.counted, h1], rfl⟩
  · rw [State.decTask_counts d ht he h1 hn, State.task_setTask_self]
    exact ⟨_, rfl, rfl, rfl, rfl⟩
  · rw [exec_withdraw_applies hk hu, State.applyWithdrawal_unheld hh]
  · rw [exec_withdraw_applies hk hu, State.applyWithdrawal_lowers hh he h1]
  · rw [exec_withdraw_applies hk hu, State.applyWithdrawal_cancels hh he h1 hs hv]

end Sys2Proof.Machine
end

section
/-! PROOF of the start of a task (R120, R127, R133, R172, R312): which events start which hart, and the hart at the first instruction. -/

namespace Sys2Proof.Machine

/-! ## The events -/

section
variable {s : State} {h k : Nat} {saved : Bool}

/-- A task on its way to a hart: the dispatcher runs, and both say so. -/
theorem State.dispatched_inv (hd : s.dispatched h saved = some k) : (s.hart h).status = .dispatched ∧ (s.hart h).task = some k ∧
    ∃ t, s.task k = some t ∧ t.state = 3 ∧ t.saved = saved := by
  unfold State.dispatched at hd
  split at hd
  next hc =>
    obtain ⟨htask, hany⟩ := Option.filter_eq_some_iff.mp hd
    obtain ⟨t, ht, hp⟩ := (Option.any_eq_true _ _).mp hany
    rw [Bool.and_eq_true, decide_eq_true_eq] at hc
    rw [Bool.and_eq_true, beq_iff_eq, beq_iff_eq] at hp
    exact ⟨hc.1, htask, t, ht, hp⟩
  next => exact nomatch hd

theorem exec_taskStart_none (hd : s.dispatched h false = none) : exec (.taskStart h) s = .next s := by
  rw [exec_taskStart, execTaskStart, hd]

theorem exec_taskStart_begins (hd : s.dispatched h false = some k) : exec (.taskStart h) s = .next ((s.beginHart k h).nowRunning k) := by
  rw [exec_taskStart, execTaskStart, hd]

theorem exec_resume_none (hd : s.dispatched h true = none) : exec (.resume h) s = .next s := by
  rw [exec_resume, execResume, hd]

theorem exec_resume_begins (hd : s.dispatched h true = some k) : exec (.resume h) s = .next ((s.beginHart k h).nowRunning k) := by
  rw [exec_resume, execResume, hd]

end

section
variable {s : State} {k : Nat} {t : Task} (ht : s.task k = some t)
include ht

theorem exec_gangStart_waits (h : t.tcb.gang = false ∨ t.state ≠ 3 ∨ s.dispatching = false ∨
    t.members.all (fun m => (s.hart m.hart).status == .taken) = false) : exec (.gangStart k) s = .next s := by
  rw [exec_gangStart, execGangStart, ht]
  refine if_neg fun hc => ?_
  simp only [Bool.and_eq_true, decide_eq_true_eq] at hc
  obtain ⟨⟨⟨hg, hs⟩, hd⟩, hm⟩ := hc
  rcases h with h | h | h | h
  · exact absurd (hg.symm.trans h) Bool.noConfusion
  · exact h hs
  · exact absurd (hd.symm.trans h) Bool.noConfusion
  · exact absurd (hm.symm.trans h) Bool.noConfusion

/-- Every member of a gang starts in one step (R133). -/
theorem exec_gangStart_begins (hg : t.tcb.gang = true) (hs : t.state = 3) (hd : s.dispatching = true)
    (hm : t.members.all (fun m => (s.hart m.hart).status == .taken) = true) :
    exec (.gangStart k) s = .next ((t.members.foldl (fun s m => s.beginHart k m.hart) s).nowRunning k) := by
  rw [exec_gangStart, execGangStart, ht]
  exact if_pos (by simp only [hg, hs, hd, hm, decide_true, Bool.and_self])

/-- The task runs; with no withdrawal held for it nothing else changes. -/
theorem State.nowRunning_eq (hw : t.wdHeld = none) : s.nowRunning k = s.setTask k { t with state := 4, gangTaken := none } := by
  simp only [State.nowRunning, State.modTask, ht, State.releaseWithdrawal, State.task_setTask_self, hw]

end

/-! ## The registers at the first instruction (R312) -/

/-- The general registers that are not 0: the top of the slot's stack, the argument, and a free value. -/
def startRegs (t : Task) (slot : Nat) (f : Word) : List (Nat × Word) :=
  Store.set 0 (Store.set 0 [(2, BitVec.ofNat 64 (0x7F00005C0000 + (slot + 1) * 0x10000))] 10 (BitVec.ofNat 64 t.tcb.arg)) 31 f

section
variable (t : Task) (slot : Nat) (f : Word)

theorem startRegs_sp : Store.get 0 (startRegs t slot f) 2 = BitVec.ofNat 64 (0x7F00005C0000 + (slot + 1) * 0x10000) := by
  rw [startRegs, Store.get_set_ne _ _ _ (by decide), Store.get_set_ne _ _ _ (by decide)]
  rfl

theorem startRegs_arg : Store.get 0 (startRegs t slot f) 10 = BitVec.ofNat 64 t.tcb.arg := by
  rw [startRegs, Store.get_set_ne _ _ _ (by decide), Store.get_set_self _ (List.pairwise_singleton _ _)]

theorem startRegs_other {n : Nat} (h2 : n ≠ 2) (h10 : n ≠ 10) (h31 : n ≠ 31) : Store.get 0 (startRegs t slot f) n = 0 := by
  rw [startRegs, Store.get_set_ne _ _ _ h31, Store.get_set_ne _ _ _ h10]
  exact if_neg h2

end

/-! ## The hart at the first instruction (R120, R127) -/

/-- What the start of a task gives its hart, whose clock was `clk` before. -/
structure Hart.Starts (x : Hart) (t : Task) (slot clk : Nat) : Prop where
  status : x.status = .running
  mode : x.mode = .u
  pc : x.pc = BitVec.ofNat 64 (if t.early then t.tcb.absorb else t.tcb.entry)
  regs : ∃ f, x.x = startRegs t slot f
  tokens : x.tokens = []
  fstat : x.fstat = 0
  rmode : x.dev.rmode = 0
  rflags : x.dev.rflags = 0
  srseed : x.dev.srseed = 0
  vactm : x.dev.vactm = 0
  remain : x.dev.remain = BitVec.ofNat 32 t.tcb.budget
  pts : x.pts = max clk t.relTime
  lane : x.lane.active = false
  ld : x.ld = none
  resv : x.resv = none

section
variable {x : Hart} {t : Task} {slot clk : Nat} (hx : x.Starts t slot clk)
include hx

/-- The trace buffer that a hart clears for another address space is none of it (R184). -/
theorem Hart.Starts.claimTrace (asid : Nat) : (x.claimTrace asid).Starts t slot clk := by
  unfold Hart.claimTrace
  split
  · exact hx
  · obtain ⟨hstatus, hmode, hpc, hregs, htokens, hfstat, hrmode, hrflags, hsrseed, hvactm, hremain, hpts, hlane, hld, hresv⟩ := hx
    exact ⟨hstatus, hmode, hpc, hregs, htokens, hfstat, hrmode, hrflags, hsrseed, hvactm, hremain, hpts, hlane, hld, hresv⟩

theorem Hart.Starts.rx_sp : x.rx 2 = BitVec.ofNat 64 (0x7F00005C0000 + (slot + 1) * 0x10000) := by
  obtain ⟨f, hf⟩ := hx.regs
  rw [← startRegs_sp t slot f, ← hf]
  rfl

theorem Hart.Starts.rx_arg : x.rx 10 = BitVec.ofNat 64 t.tcb.arg := by
  obtain ⟨f, hf⟩ := hx.regs
  rw [← startRegs_arg t slot f, ← hf]
  rfl

theorem Hart.Starts.rx_other {r : Reg} (h2 : r ≠ 2) (h10 : r ≠ 10) (h31 : r ≠ 31) : x.rx r = 0 := by
  obtain ⟨f, hf⟩ := hx.regs
  rw [Hart.rx, hf, startRegs_other t slot f (fun e => h2 (BitVec.eq_of_toNat_eq e)) (fun e => h10 (BitVec.eq_of_toNat_eq e))
    (fun e => h31 (BitVec.eq_of_toNat_eq e))]
  exact ite_self _

end

section
variable {s : State} {k h c : Nat} {t : Task} (ht : s.task k = some t) (hc : (s.hart h).ctx = some c)
include ht

theorem State.beginHart_new (hm : t.members.any (fun m => m.hart == h && m.saved) = false) : s.beginHart k h = s.startHart k h := by
  rw [State.beginHart, ht]
  exact if_neg (ne_true_of_eq_false hm)

include hc in
theorem State.startHart_starts (hp : s.eagerPoisoned c (s.hart h).slot = false) :
    ((s.startHart k h).hart h).Starts t (s.hart h).slot (s.hart h).pts := by
  simp only [State.startHart, ht, hc, hp, Bool.false_eq_true, if_false, State.hart_setHart]
  refine Hart.Starts.claimTrace ?_ _
  exact ⟨rfl, rfl, rfl, ⟨_, rfl⟩, rfl, rfl, rfl, rfl, rfl, rfl, rfl, rfl, rfl, rfl, rfl⟩

end

/-! ## The statement -/

/-- Settles O52: the events of one hart, the hart at the first instruction, the start of a gang, and the task that runs. -/
theorem taskStarts : Obligations.TaskStarts := by
  unfold Obligations.TaskStarts
  refine ⟨fun h s => ⟨exec_taskStart_none, exec_resume_none, fun _ => exec_taskStart_begins, fun _ => exec_resume_begins,
      fun _ _ => State.dispatched_inv⟩,
    fun k h c t s ht hc hm hp x hx => ?_,
    fun k t s ht => ⟨exec_gangStart_waits ht, exec_gangStart_begins ht⟩,
    fun k t s ht hw => ⟨_, by rw [State.nowRunning_eq ht hw, State.task_setTask_self], rfl, rfl, by rw [State.nowRunning_eq ht hw]; rfl⟩⟩
  have hs : x.Starts t (s.hart h).slot (s.hart h).pts := by
    rw [hx, State.beginHart_new ht hm]
    exact State.startHart_starts ht hc hp
  exact ⟨hs.status, hs.mode, hs.pc, hs.rx_sp, hs.rx_arg, fun _ => hs.rx_other, hs.tokens, hs.fstat, hs.rmode, hs.rflags, hs.srseed,
    hs.vactm, hs.remain, hs.pts ▸ Nat.le_max_right _ _, hs.pts ▸ Nat.le_max_left _ _, hs.lane, hs.ld, hs.resv⟩

end Sys2Proof.Machine
end

section
/-! PROOF of what comes to a hart at an instruction boundary (R128, R129, R138, R162, R165, R355): interrupts and the budget trap, the end of
a hart's parking, and messages of the device. -/

namespace Sys2Proof.Machine

/-! ## Interrupts (R162) -/

/-- Is the interrupt pending and enabled in the mode of the hart? -/
def Hart.interruptReady (h : Hart) (n : Nat) : Bool :=
  (h.pending &&& h.priv.mie).getLsbD n &&
    (if h.priv.mideleg.getLsbD n then h.mode == .u || (h.mode == .s && h.priv.mstatus.getLsbD 1)
     else h.mode != .m || h.priv.mstatus.getLsbD 3)

/-- The first of those that are ready, in the order of RISC-V, among the delegated ones or the others. -/
def Hart.firstInterrupt (h : Hart) (delegated : Bool) : Option Nat :=
  [11, 3, 7, 9, 1, 5, 18, 17, 16].find? (fun n => h.interruptReady n && h.priv.mideleg.getLsbD n == delegated)

theorem Hart.interrupt_eq (h : Hart) : h.interrupt = (h.firstInterrupt false).orElse (fun _ => h.firstInterrupt true) := rfl

section
variable {h : Hart} {n : Nat}

theorem Hart.firstInterrupt_ready {delegated : Bool} (hn : h.firstInterrupt delegated = some n) : h.interruptReady n = true := by
  have hp := List.find?_some hn
  exact (Bool.and_eq_true_iff.mp hp).1

theorem Hart.interrupt_ready (hn : h.interrupt = some n) : h.interruptReady n = true := by
  rw [Hart.interrupt_eq] at hn
  cases hf : h.firstInterrupt false with
  | none =>
    rw [hf] at hn
    exact Hart.firstInterrupt_ready hn
  | some m =>
    rw [hf] at hn
    obtain rfl : m = n := Option.some.inj hn
    exact Hart.firstInterrupt_ready hf

/-- An interrupt that is taken is pending, and enabled. -/
theorem Hart.interrupt_pending (hn : h.interrupt = some n) : h.pending.getLsbD n = true ∧ h.priv.mie.getLsbD n = true := by
  have hp := (Bool.and_eq_true_iff.mp (Hart.interrupt_ready hn)).1
  rwa [BitVec.getLsbD_and, Bool.and_eq_true] at hp

end

theorem Hart.budgetDue_iff (h : Hart) : h.budgetDue = true ↔
    h.mode = .u ∧ h.task.isSome = true ∧ h.dev.remain = 0 ∧ h.dev.zero = false := by
  simp only [Hart.budgetDue, Bool.and_eq_true, beq_iff_eq, Bool.not_eq_true', and_assoc]

section
variable {s : State} {h : Nat}

theorem exec_interruptTaken_none (hn : (s.hart h).interruptible = false ∨ (s.hart h).stopDue = true ∨ (s.hart h).interrupt = none) :
    exec (.interruptTaken h) s = .next s := by
  have h0 : (if (s.hart h).interruptible && !(s.hart h).stopDue then (s.hart h).interrupt else none) = none := by
    rcases hn with hn | hn | hn
    · exact if_neg (by simp [hn])
    · exact if_neg (by simp [hn])
    · rw [hn]
      exact ite_self _
  rw [exec_interruptTaken, execInterruptTaken, h0]

theorem exec_interruptTaken_traps {n : Nat} (hi : (s.hart h).interruptible = true) (hs : (s.hart h).stopDue = false)
    (hn : (s.hart h).interrupt = some n) : exec (.interruptTaken h) s
      = .next ((s.cancelWait h).modHart h (fun x => { x.takeTrap s.cycle true n 0 x.pc with status := .running })) := by
  have h0 : (if (s.hart h).interruptible && !(s.hart h).stopDue then (s.hart h).interrupt else none) = some n := by
    rw [if_pos (by simp [hi, hs]), hn]
  rw [exec_interruptTaken, execInterruptTaken, h0]

/-! ## The budget trap (R128, R129) -/

/-- The budget trap is taken on a hart that runs, with no stop and no interrupt before it (R165). -/
theorem budgetTrap_cond : ((s.hart h).interruptible && (s.hart h).status = .running && (s.hart h).budgetDue && !(s.hart h).stopDue
    && (s.hart h).interrupt.isNone) = true ↔ (s.hart h).budgetDue = true ∧ (s.hart h).status = .running ∧
      (s.hart h).interruptible = true ∧ (s.hart h).stopDue = false ∧ (s.hart h).interrupt = none := by
  simp only [Bool.and_eq_true, decide_eq_true_eq, Bool.not_eq_true', Option.isNone_iff_eq_none]
  tauto

theorem exec_budgetExhausted_traps (hb : (s.hart h).budgetDue = true) (hr : (s.hart h).status = .running)
    (hi : (s.hart h).interruptible = true) (hs : (s.hart h).stopDue = false) (hn : (s.hart h).interrupt = none) :
    exec (.budgetExhausted h) s = .next ((s.cancelWait h).modHart h (fun x =>
      ({ x with dev := { x.dev with zero := true } } : Hart).takeTrap s.cycle false 27 0 x.pc)) := by
  rw [exec_budgetExhausted, execBudgetExhausted, if_pos (budgetTrap_cond.mpr ⟨hb, hr, hi, hs, hn⟩)]

theorem exec_budgetExhausted_none (hn : (s.hart h).budgetDue = false ∨ (s.hart h).stopDue = true ∨ (s.hart h).status ≠ .running ∨
    (s.hart h).interruptible = false ∨ (s.hart h).interrupt.isSome = true) : exec (.budgetExhausted h) s = .next s := by
  rw [exec_budgetExhausted, execBudgetExhausted]
  refine if_neg fun hc => ?_
  obtain ⟨hb, hr, hi, hs, hint⟩ := budgetTrap_cond.mp hc
  simp [hb, hr, hi, hs, hint] at hn

/-! ## Parking (R138) -/

theorem exec_park_not_parked (hp : (s.hart h).status ≠ .parked) : exec (.parkWake h) s = .next s ∧ exec (.parkReclaim h) s = .next s := by
  constructor
  · rw [exec_parkWake, execParkWake, if_neg hp]
  · rw [exec_parkReclaim, execParkReclaim]
    split
    · exact if_neg (by simp [hp])
    · rfl

theorem exec_parkReclaim_early (hc : (s.hart h).parkedCycles < 8192) : exec (.parkReclaim h) s = .next s := by
  rw [exec_parkReclaim, execParkReclaim]
  split
  · exact if_neg (by simp [Nat.not_le.mpr hc])
  · rfl

section
variable {k : Nat} {t : Task} (hp : (s.hart h).status = .parked) (hk : (s.hart h).task = some k)
include hp hk

section
variable (ht : s.task k = some t)
include ht

/-- A parked hart wakes if its task's ring has been published to, or ended. -/
theorem exec_parkWake_parked : exec (.parkWake h) s =
    if s.ringReady t then .next (s.modHart h (fun x => { x.retire with status := .running, parkedCycles := 0 })) else .next s := by
  rw [exec_parkWake, execParkWake, if_pos hp, hk, Option.bind_some, ht]

theorem exec_parkWake_waits (hr : s.ringReady t = false) : exec (.parkWake h) s = .next s := by
  rw [exec_parkWake_parked hp hk ht, if_neg (ne_true_of_eq_false hr)]

theorem exec_parkWake_wakes (hr : s.ringReady t = true) :
    exec (.parkWake h) s = .next (s.modHart h (fun x => { x.retire with status := .running, parkedCycles := 0 })) := by
  rw [exec_parkWake_parked hp hk ht, if_pos hr]

end

theorem exec_parkReclaim_reclaims {a g : Nat} {u : State} (hg : Store.find? s.disp.assigned h = some (a, g))
    (hc : 8192 ≤ (s.hart h).parkedCycles) (hq : (s.hart h).stopReq = false)
    (hm : (s.tenant a).any (fun u => (Store.find? u.stages g).any (fun x => decide (x.min < s.stageHeld a g))) = true)
    (hu : u = (if (s.pendingMove h).isSome then s.moveStage h else s.unassign h)) :
    exec (.parkReclaim h) s = .next ((u.modTask k (fun t => { t with parkWait := true })).stopTask k) := by
  subst hu
  rw [exec_parkReclaim, execParkReclaim, hk, hg]
  exact if_pos (by simp only [hp, hc, hq, hm, decide_true, Bool.and_self, Bool.not_false])

end

end

/-! ## Messages of the device (R355) -/

section
variable {s u : State} {c slot : Nat}

theorem State.mailPut_hart {h : Nat} (m : Mail) (hh : u.mailHart c slot = some h) : u.mailPut c slot m = u.modHart h (fun x =>
    if x.mail.length < 15 then { x with mail := x.mail ++ [m] } else { x with mailLost := true }) := by
  rw [State.mailPut, hh]

/-- A mailbox in an image: the message behind its count, and the count raised; or the message is lost. -/
theorem State.mailPut_image {m : Mail} {n : Nat} {v : State} (hh : u.mailHart c slot = none) (hn : n = u.imageNat c slot 0x500 8)
    (hv : v = (u.imagePut c slot (0x520 + 32 * natBits n 0 4) 32 m.number m.time.toNat).2) :
    u.mailPut c slot m = if natBits n 0 4 < 15 then (v.imagePut c slot 0x500 8 (n + 1) m.time.toNat).2
      else (u.imagePut c slot 0x500 8 (natSetBits n 8 1 1) m.time.toNat).2 := by
  subst hv hn
  rw [State.mailPut, hh]

variable {k : Nat}

theorem exec_messageDeliver_none (hk : s.disp.mails[k]? = none) : exec (.messageDeliver k) s = .next s := by
  rw [exec_messageDeliver, execMessageDeliver, hk]

variable {m : Delivery} (hk : s.disp.mails[k]? = some m)
include hk

theorem exec_messageDeliver_behind (ho : (s.disp.mails.take k).any (fun o => o.ctx == m.ctx && o.slot == m.slot) = true) :
    exec (.messageDeliver k) s = .next s := by
  rw [exec_messageDeliver, execMessageDeliver, hk]
  exact if_pos ho

theorem exec_messageDeliver_first (ho : (s.disp.mails.take k).any (fun o => o.ctx == m.ctx && o.slot == m.slot) = false)
    (hu : u = s.modDisp (fun d => { d with mails := d.mails.eraseIdx k })) :
    exec (.messageDeliver k) s = .next (u.mailPut m.ctx m.slot m.mail) := by
  rw [exec_messageDeliver, execMessageDeliver, hk, hu]
  exact if_neg (ne_true_of_eq_false ho)

end

/-! ## The statement -/

/-- Settles O53: interrupts and the budget trap, what they need, a wait that ends without effect, parked harts, and messages. -/
theorem boundaries : Obligations.Boundaries := by
  unfold Obligations.Boundaries
  refine ⟨fun h s => ⟨exec_interruptTaken_none, fun n => exec_interruptTaken_traps, exec_budgetExhausted_traps, exec_budgetExhausted_none⟩,
    fun h => ⟨h.budgetDue_iff, fun n => Hart.interrupt_pending⟩,
    fun s h => State.cancelWait_of_no_load,
    fun h s => ⟨exec_park_not_parked, fun k t hp hk ht => ⟨exec_parkWake_waits hp hk ht, exec_parkWake_wakes hp hk ht,
      exec_parkReclaim_early, fun a g u hg hc hq => exec_parkReclaim_reclaims hp hk hg hc hq⟩⟩,
    fun k s => ⟨exec_messageDeliver_none, fun m hk => ⟨exec_messageDeliver_behind hk, fun u ho hu => ⟨fun h hh => ?_,
      fun n v hh hn hv => ?_⟩⟩⟩⟩
  · rw [exec_messageDeliver_first hk ho hu, State.mailPut_hart m.mail hh]
  · rw [exec_messageDeliver_first hk ho hu, State.mailPut_image hh hn hv]

end Sys2Proof.Machine
end

section
/-! PROOF of loads and stores (R149, R165, R192, R236, R244, R260, R262): the instruction around the access, in the order in which it is
checked, then what a load answers at its place, and what a store puts into the buffer. -/

namespace Sys2Proof.Machine

/-! ## The instruction around a load (R149, R165, R260) -/

theorem State.load_excluded {s : State} {va : Word} {n : Nat} (he : s.excluded va.toNat n = true) : s.load va n = .trap 25 va s :=
  if_pos he

theorem State.load_misaligned {s : State} {va : Word} {n : Nat} (he : s.excluded va.toNat n = false) (ha : va.toNat % n ≠ 0) :
    s.load va n = .trap 4 va s := by
  rw [State.load, if_neg (ne_true_of_eq_false he), if_pos ha]

section
variable {w : LoadWidth} {rd rs1 : Reg} {imm : BitVec 12} {s : State} (hf : s.Free [rd, rs1] [])
include hf

theorem exec_load_ok {v : Nat} {u : State} (hl : s.load (s.ea rs1 imm) w.bytes = .ok v u) :
    exec (.load w rd rs1 imm) s = .next (((u.wx rd (w.extend v)).record 3 3 (s.ea rs1 imm)).modMe Hart.retire) := by
  rw [exec_load, execLoad]
  exact ins_ok hf (by simp only [hl, Act.andThen])

theorem exec_load_trap {c : Nat} {v : Word} (hl : s.load (s.ea rs1 imm) w.bytes = .trap c v s) :
    exec (.load w rd rs1 imm) s = .next (s.trap c v) := by
  rw [exec_load, execLoad]
  exact ins_trap hf (by simp only [hl, Act.andThen])

end

/-! ## What a load answers at its place -/

theorem State.loaded_clean (s : State) (va : Word) (v : Nat) : s.loaded va false v = .ok v s := rfl

theorem State.copied_clean (s : State) (p : Place) (va : Word) {l : L1Line} (off n : Nat) (hp : l.poison = false) :
    s.copied p va l off n = .ok (lineGet l.data off n) s := by
  rw [State.copied, hp, Bool.false_and]
  exact s.loaded_clean va _

theorem State.linkTarget_none {s : State} {a b : Nat} (h : s.deadRoute a b = none) : s.linkTarget a b = none := by
  rw [State.linkTarget, h, Option.map_none]

theorem State.linkTarget_some {s : State} {a b far : Nat} (h : s.deadRoute a b = some far) : s.linkTarget a b = some (0x1000 + far) := by
  rw [State.linkTarget, h, Option.map_some]

/-- The state after the hart has read an owned line of its L1 (R236): its clock is at least the line's write timestamp, and the line's
read timestamp at least its clock. -/
def State.readOwned (s : State) (key : Nat) (l : L1Line) : State :=
  s.modMe (fun h => (h.raise l.wts).putL1 key { l with rts := max l.rts (max h.pts l.wts) })

@[simp] theorem State.me_readOwned (s : State) (key : Nat) (l : L1Line) :
    (s.readOwned key l).me = (s.me.raise l.wts).putL1 key { l with rts := max l.rts (max s.me.pts l.wts) } := s.me_modMe _

@[simp] theorem Hart.l1At_putL1 (h : Hart) (key : Nat) (l : L1Line) : (h.putL1 key l).l1At key = some l := Store.find?_put_self _ _ _

section
variable {s : State} {p : Place}

theorem State.loadCached_owned {l : L1Line} (va : Word) (n asid : Nat) (hl : s.me.l1At (l1Key (lineNo p.addr) p.home) = some l)
    (ho : l.st = .owned) (hp : l.poison = false) (hfit : s.fits (dieOf s.cur) (max l.rts (max s.me.pts l.wts)) = true) :
    s.loadCached p va n asid = .ok (lineGet l.data (p.addr % 64) n) (s.readOwned (l1Key (lineNo p.addr) p.home) l) := by
  simp only [State.loadCached, State.readOwned, hl, ho, Hart.raise_pts, hfit, if_true]
  exact State.copied_clean _ p va _ n hp

theorem State.loadVault_read (va : Word) (n : Nat) (hr : s.deadRoute (dieOf s.cur) (dieOfQuad p.home) = none)
    (hq : s.poisoned p.addr = false) (hv : s.vaultPosted s.cur p.addr n = false) :
    s.loadVault p va n = .ok (s.readNat p.addr n) (s.modMe (·.raise (s.quad p.home).vclk)) := by
  simp only [State.loadVault, State.linkTarget_none hr, hv, hq, Bool.false_eq_true, if_false]
  exact State.loaded_clean _ va _

theorem State.loadVault_link_down {far : Nat} (va : Word) (n : Nat)
    (hr : s.deadRoute (dieOf s.cur) (dieOfQuad p.home) = some far) :
    s.loadVault p va n = .trap 5 va (s.modMe (·.addFail failDeadlink (0x1000 + far) false)) := by
  simp only [State.loadVault, State.linkTarget_some hr]
  rfl

variable (va : Word) {n : Nat}

theorem State.loadPlace_forwarded {v : Nat} (hs : s.me.forward p.addr n = some (some v)) : s.loadPlace p va n = .ok v s := by
  rw [State.loadPlace, hs]

variable (hs : s.me.forward p.addr n = none)
include hs

theorem State.loadPlace_cached (hk : p.kind = .hbm ∨ p.kind = .hostC) :
    s.loadPlace p va n = s.loadCached p va n (s.view s.cur false).asid := by
  rcases hk with hk | hk <;> rw [State.loadPlace, hs, hk]

theorem State.loadPlace_vault (hk : p.kind = .vault) : s.loadPlace p va n = s.loadVault p va n := by
  rw [State.loadPlace, hs, hk]

theorem State.loadPlace_owned {l : L1Line} (hk : p.kind = .hbm ∨ p.kind = .hostC)
    (hl : s.me.l1At (l1Key (lineNo p.addr) p.home) = some l) (ho : l.st = .owned) (hp : l.poison = false)
    (hfit : s.fits (dieOf s.cur) (max l.rts (max s.me.pts l.wts)) = true) :
    s.loadPlace p va n = .ok (lineGet l.data (p.addr % 64) n) (s.readOwned (l1Key (lineNo p.addr) p.home) l) := by
  rw [State.loadPlace_cached va hs hk]
  exact State.loadCached_owned va n _ hl ho hp hfit

end

/-! ## Stores (R192, R260, R262) -/

section
variable {s : State} {va : Word} {n : Nat} (v : Nat)

theorem State.store_misaligned (ha : va.toNat % n ≠ 0) : s.store va n v = .trap 6 va s := if_pos ha

variable {p : Place} (ha : va.toNat % n = 0) (hr : s.resolve .store va.toNat = .ok p s)
include ha hr

theorem State.store_resolved :
    s.store va n v = s.storePlace p (byteMask (p.addr % 64) n) (BitVec.ofNat 512 (v % 2 ^ (8 * n) * 2 ^ (8 * (p.addr % 64)))) := by
  rw [State.store, if_neg (not_not_intro ha), hr]
  rfl

end

section
variable {s : State} {p : Place} (mask : BitVec 64) (d : Line)

/-- Away from non-coherent host pages, of which the launch takes note (R82), a store that enters the buffer changes nothing else. -/
theorem State.storePlace_room (hb : s.me.sb.length < 16) (hk : p.kind ≠ .hostNC) :
    s.storePlace p mask d = .ok () (s.modMe (·.pushStore p mask d (s.view s.cur false).asid)) := by
  rw [State.storePlace, if_neg (Nat.not_le.mpr hb), State.buffer, if_neg hk]

theorem State.storePlace_full (hb : 16 ≤ s.me.sb.length) : s.storePlace p mask d = .stall s := if_pos hb

end

section
variable {w : StoreWidth} {rs2 rs1 : Reg} {imm : BitVec 12} {s : State} (hf : s.Free [rs2, rs1] [])
include hf

theorem exec_store_misaligned (ha : (s.ea rs1 imm).toNat % w.bytes ≠ 0) :
    exec (.store w rs2 rs1 imm) s = .next (s.trap 6 (s.ea rs1 imm)) := by
  rw [exec_store, execStore]
  exact ins_trap hf (by simp only [State.store_misaligned _ ha, Act.andThen])

variable {p : Place} (ha : (s.ea rs1 imm).toNat % w.bytes = 0) (hr : s.resolve .store (s.ea rs1 imm).toNat = .ok p s)
include ha hr

theorem exec_store_room (hb : s.me.sb.length < 16) (hk : p.kind ≠ .hostNC) :
    exec (.store w rs2 rs1 imm) s = .next (((s.modMe (·.pushStore p (byteMask (p.addr % 64) w.bytes)
      (BitVec.ofNat 512 ((s.rx rs2).toNat % 2 ^ (8 * w.bytes) * 2 ^ (8 * (p.addr % 64)))) (s.view s.cur false).asid)).record 3 4
        (s.ea rs1 imm)).modMe Hart.retire) := by
  rw [exec_store, execStore]
  exact ins_ok hf (by simp only [State.store_resolved _ ha hr, State.storePlace_room _ _ hb hk, Act.andThen])

theorem exec_store_full (hb : 16 ≤ s.me.sb.length) : exec (.store w rs2 rs1 imm) s = .next s := by
  rw [exec_store, execStore]
  exact ins_stall hf (by simp only [State.store_resolved _ ha hr, State.storePlace_full _ _ hb, Act.andThen])

end

/-! ## The statement -/

/-- Settles O3: the instruction around a load, a load at its place (forwarded, from an owned line, from a vault), and stores. -/
theorem loadsAndStores : Obligations.LoadsAndStores := by
  unfold Obligations.LoadsAndStores
  refine ⟨fun w rd rs1 imm s hf => ⟨fun v u => exec_load_ok hf, fun he => exec_load_trap hf (State.load_excluded he),
      fun he ha => exec_load_trap hf (State.load_misaligned he ha)⟩,
    ⟨fun s p va n v => State.loadPlace_forwarded va, fun s p va n l hs hk hl ho hp hfit =>
        ⟨_, State.loadPlace_owned va hs hk hl ho hp hfit, ?_⟩,
      fun s p va n hs hk hr hq hv => ?_, fun s p va n far hs hk hr => ?_⟩,
    fun w rs2 rs1 imm s hf => ⟨exec_store_misaligned hf, fun p ha hr hk =>
      ⟨fun hb => exec_store_room hf ha hr hb hk, exec_store_full hf ha hr⟩⟩⟩
  · simp only [State.me_readOwned, Hart.l1At_putL1]
    exact ⟨rfl, rfl, rfl, rfl, rfl, rfl, rfl⟩
  · rw [State.loadPlace_vault va hs hk, State.loadVault_read va n hr hq hv]
  · rw [State.loadPlace_vault va hs hk, State.loadVault_link_down va n hr]

end Sys2Proof.Machine
end

section
/-! PROOF of the control transfers (R166, R185, R308): going to a target, then each instruction by its target. -/

namespace Sys2Proof.Machine

theorem State.goto_aligned {s : State} {target : Word} (ha : target.toNat % 4 = 0) :
    s.goto target = .ok () ((s.modMe (fun h => { h with npc := target })).record 1 1 target) :=
  if_neg (not_not_intro ha)

theorem State.goto_misaligned {s : State} {target : Word} (ha : target.toNat % 4 ≠ 0) : s.goto target = .trap 0 target s := if_pos ha

theorem State.jump_aligned {s : State} {target : Word} (rd : Reg) (link : Word) (ha : target.toNat % 4 = 0) :
    s.jump target rd link
      = s.modMe (fun h => ((({ h with npc := target } : Hart).record s.cycle 1 1 target).wx rd link).retire) :=
  if_neg (not_not_intro ha)

theorem State.jump_misaligned {s : State} {target : Word} (rd : Reg) (link : Word) (ha : target.toNat % 4 ≠ 0) :
    s.jump target rd link = s.trap 0 target := if_pos ha

/-- An instruction that goes to a target and then links. In the misaligned case it traps before the link is written (R166). -/
theorem ins_goto {s : State} {xs : List Reg} (hf : s.Free xs []) {body : State → Act Unit} {target link : Word} {rd : Reg}
    (hb : body s = (s.goto target).andThen fun _ t => .ok () (t.wx rd link)) :
    ins xs [] body s = .next (s.jump target rd link) := by
  by_cases ha : target.toNat % 4 = 0
  · rw [State.goto_aligned ha] at hb
    rw [State.jump_aligned rd link ha, ins_ok hf hb]
    simp only [State.record, State.wx_eq, State.modMe_modMe, State.modMe_cycle]
  · rw [State.goto_misaligned ha] at hb
    rw [State.jump_misaligned rd link ha, ins_trap hf hb]

/-- A write to x0 before the instruction completes is no write. -/
theorem State.wx_zero_retire (s : State) (v : Word) : (s.wx 0 v).modMe Hart.retire = s.modMe Hart.retire := by
  rw [State.wx_eq, State.modMe_modMe]
  rfl

/-- An instruction that goes to a target and writes no register. -/
theorem ins_goto_unlinked {s : State} {xs : List Reg} (hf : s.Free xs []) {body : State → Act Unit} {target : Word}
    (hb : body s = s.goto target) : ins xs [] body s = .next (s.jump target 0 0) := by
  rw [← ins_goto hf (body := fun t => (t.goto target).andThen fun _ t => .ok () (t.wx 0 0)) rfl, ins_free hf, ins_free hf, hb]
  cases s.goto target with
  | ok _ t => exact congrArg _ (t.wx_zero_retire 0).symm
  | stall _ => rfl
  | trap _ _ _ => rfl

section
variable {c : Cond} {a b : Reg} (off : BitVec 12) {s : State} (hf : s.Free [a, b] [])
include hf

theorem exec_branch_not_taken (hc : c.holds (s.rx a) (s.rx b) = false) :
    exec (.controlTransfer (.branch c a b off)) s = .next (s.modMe Hart.retire) :=
  ins_ok hf (if_neg (ne_true_of_eq_false hc))

theorem exec_branch_taken (hc : c.holds (s.rx a) (s.rx b) = true) :
    exec (.controlTransfer (.branch c a b off)) s = .next (s.jump (s.me.pc + offset off) 0 0) :=
  ins_goto_unlinked hf (if_pos hc)

end

theorem exec_jal {rd : Reg} (off : BitVec 20) {s : State} (hf : s.Free [rd] []) :
    exec (.controlTransfer (.jal rd off)) s = .next (s.jump (s.me.pc + offset off) rd s.me.npc) :=
  ins_goto hf rfl

theorem exec_jalr {rd a : Reg} (imm : BitVec 12) {s : State} (hf : s.Free [rd, a] []) :
    exec (.controlTransfer (.jalr rd a imm)) s = .next (s.jump ((s.rx a + sx imm) &&& ~~~(1 : Word)) rd s.me.npc) :=
  ins_goto hf rfl

/-- Settles O2: a branch by its condition, JAL and JALR, each by the one lemma for going to a target. -/
theorem controlTransfers : Obligations.ControlTransfers := by
  unfold Obligations.ControlTransfers
  exact ⟨fun _ _ _ off _ hf => exec_branch_not_taken off hf, fun _ _ _ off _ hf => exec_branch_taken off hf,
    fun _ off _ hf => exec_jal off hf, fun _ _ imm _ hf => exec_jalr imm hf⟩

end Sys2Proof.Machine
end

section
/-! PROOF of taking an exception (R159, R160, R163, R165): the status that an entry leaves, bit by bit; the entry into each mode; and that
the trace alone changes besides (R185, R187). -/

namespace Sys2Proof.Machine

/-! ## The trace changes nothing else -/

theorem Hart.traceCount_frame (h : Hart) : ∃ tr dv, h.traceCount = { h with trace := tr, dev := dv } := by
  unfold Hart.traceCount
  split
  · exact ⟨_, _, rfl⟩
  · split <;> exact ⟨_, _, rfl⟩

theorem Hart.record_frame (h : Hart) (cycle cls kind : Nat) (payload : Word) :
    ∃ tr dv, h.record cycle cls kind payload = { h with trace := tr, dev := dv } := by
  unfold Hart.record
  split
  · split
    · exact ⟨_, _, rfl⟩
    · obtain ⟨tr, dv, hc⟩ := (h.tracePush cycle kind payload).traceCount_frame
      exact ⟨tr, dv, hc⟩
  · exact ⟨_, _, rfl⟩

theorem Hart.trigger_frame (h : Hart) (cycle : Nat) : ∃ tr dv, h.trigger cycle = { h with trace := tr, dev := dv } := by
  unfold Hart.trigger
  split
  · dsimp only
    split <;> exact ⟨_, _, rfl⟩
  · exact ⟨_, _, rfl⟩

/-- The entry of a trap in the trace and the trigger that it may be. -/
theorem Hart.traceTrap_frame (h : Hart) (cycle : Nat) (payload : Word) :
    ∃ tr dv, (if fld (h.record cycle 0 8 payload).dev.trcfg 10 2 = 2 then (h.record cycle 0 8 payload).trigger cycle
      else h.record cycle 0 8 payload) = { h with trace := tr, dev := dv } := by
  obtain ⟨tr, dv, hr⟩ := h.record_frame cycle 0 8 payload
  rw [hr]
  split
  · obtain ⟨tr', dv', ht⟩ := Hart.trigger_frame { h with trace := tr, dev := dv } cycle
    exact ⟨tr', dv', ht⟩
  · exact ⟨_, _, rfl⟩

/-- Beside the entry, a trap gives up the instruction's own pending work and may record in the trace. -/
theorem Hart.takeTrap_frame (h : Hart) (cycle : Nat) (intr : Bool) (code : Nat) (tval epc : Word) :
    ∃ st tr dv, h.takeTrap cycle intr code tval epc
      = { h.enterTrap intr code tval epc with partials := [], entering := [], st := st, trace := tr, dev := dv } := by
  unfold Hart.takeTrap
  dsimp only
  refine ⟨h.st.filter (fun p => p.amo.isNone), ?_⟩
  split
  · exact Hart.traceTrap_frame _ cycle _
  · exact ⟨_, _, rfl⟩

/-! ## The status of an entry (R159) -/

/-- mstatus after an entry into S-mode out of `mode`: SPP, SPIE, SIE. -/
def supervisorStatus (st : Word) (mode : Mode) : Word :=
  setFld (setFld (setFld st 8 1 (if mode = .s then 1 else 0)) 5 1 (if st.getLsbD 1 then 1 else 0)) 1 1 0

/-- mstatus after an entry into M-mode out of `mode`: MPP, MPIE, MIE. -/
def machineStatus (st : Word) (mode : Mode) : Word :=
  setFld (setFld (setFld st 11 2 mode.code) 7 1 (if st.getLsbD 3 then 1 else 0)) 3 1 0

theorem setFld_bit_self (w : Word) {i : Nat} (v : Nat) (hi : i < 64) : (setFld w i 1 v).getLsbD i = v.testBit 0 := by
  rw [setFld_getLsbD, if_pos ⟨Nat.le_refl i, Nat.lt_succ_self i⟩, decide_eq_true hi, Nat.sub_self, Bool.true_and]

theorem setFld_outside (w : Word) {lo len i : Nat} (v : Nat) (hi : i < lo ∨ lo + len ≤ i) :
    (setFld w lo len v).getLsbD i = w.getLsbD i := by
  rw [setFld_getLsbD, if_neg (by omega)]
  by_cases h64 : i < 64
  · rw [decide_eq_true h64, Bool.true_and]
  · rw [decide_eq_false h64, Bool.false_and, BitVec.getLsbD_of_ge w i (Nat.not_lt.mp h64)]

theorem fld_setFld_self (w : Word) {lo len : Nat} (v : Nat) (h : lo + len ≤ 64) :
    fld (setFld w lo len v) lo len = BitVec.ofNat len v := by
  apply BitVec.eq_of_getLsbD_eq
  intro i hi
  rw [BitVec.getLsbD_extractLsb', setFld_getLsbD, if_pos (by omega), decide_eq_true (by omega : lo + i < 64), Nat.add_sub_cancel_left,
    BitVec.getLsbD_ofNat, Bool.true_and]

theorem fld_setFld_outside (w : Word) {lo len lo' len' : Nat} (v : Nat) (h : lo + len ≤ lo' ∨ lo' + len' ≤ lo) :
    fld (setFld w lo' len' v) lo len = fld w lo len := by
  apply BitVec.eq_of_getLsbD_eq
  intro i hi
  rw [BitVec.getLsbD_extractLsb', BitVec.getLsbD_extractLsb', setFld_outside w v (by omega)]

theorem testBit_zero_ite (b : Prop) [Decidable b] : (if b then 1 else 0 : Nat).testBit 0 = decide b := by
  split <;> simp_all

section
variable (st : Word) (mode : Mode)

theorem supervisorStatus_spp : (supervisorStatus st mode).getLsbD 8 = decide (mode = .s) := by
  rw [supervisorStatus, setFld_outside _ _ (by decide), setFld_outside _ _ (by decide), setFld_bit_self _ _ (by decide), testBit_zero_ite]

theorem supervisorStatus_spie : (supervisorStatus st mode).getLsbD 5 = st.getLsbD 1 := by
  rw [supervisorStatus, setFld_outside _ _ (by decide), setFld_bit_self _ _ (by decide), testBit_zero_ite, Bool.decide_eq_true]

theorem supervisorStatus_sie : (supervisorStatus st mode).getLsbD 1 = false := setFld_bit_self _ 0 (by decide)

theorem supervisorStatus_other {i : Nat} (h1 : i ≠ 1) (h5 : i ≠ 5) (h8 : i ≠ 8) :
    (supervisorStatus st mode).getLsbD i = st.getLsbD i := by
  rw [supervisorStatus, setFld_outside _ _ (by omega), setFld_outside _ _ (by omega), setFld_outside _ _ (by omega)]

theorem machineStatus_mpp : fld (machineStatus st mode) 11 2 = BitVec.ofNat 2 mode.code := by
  rw [machineStatus, fld_setFld_outside _ _ (by decide), fld_setFld_outside _ _ (by decide), fld_setFld_self _ _ (by decide)]

theorem machineStatus_mpie : (machineStatus st mode).getLsbD 7 = st.getLsbD 3 := by
  rw [machineStatus, setFld_outside _ _ (by decide), setFld_bit_self _ _ (by decide), testBit_zero_ite, Bool.decide_eq_true]

theorem machineStatus_mie : (machineStatus st mode).getLsbD 3 = false := setFld_bit_self _ 0 (by decide)

theorem machineStatus_other {i : Nat} (h3 : i ≠ 3) (h7 : i ≠ 7) (h11 : i ≠ 11) (h12 : i ≠ 12) :
    (machineStatus st mode).getLsbD i = st.getLsbD i := by
  rw [machineStatus, setFld_outside _ _ (by omega), setFld_outside _ _ (by omega), setFld_outside _ _ (by omega)]

end

/-! ## The entry (R159, R163) -/

section
variable {h : Hart} {code : Nat}

theorem Hart.delegated_exception (hm : h.mode ≠ .m) (hd : h.priv.medeleg.getLsbD code = true) : h.delegated false code = true := by
  simp [Hart.delegated, hm, hd]

theorem Hart.undelegated_exception (hd : h.mode = .m ∨ h.priv.medeleg.getLsbD code = false) : h.delegated false code = false := by
  rcases hd with hm | hd
  · simp [Hart.delegated, hm]
  · simp [Hart.delegated, hd]

variable (tval epc : Word)

theorem Hart.enterTrap_supervisor (hd : h.delegated false code = true) :
    h.enterTrap false code tval epc = { h with
      mode := .s, pc := h.priv.stvec &&& ~~~(3 : Word),
      priv := { h.priv with mstatus := supervisorStatus h.priv.mstatus h.mode, sepc := epc, scause := BitVec.ofNat 64 code,
                            stval := tval } } := by
  have hcause : (BitVec.ofNat 64 code ||| 0 : Word) = BitVec.ofNat 64 code := BitVec.or_zero
  simp only [Hart.enterTrap, hd, if_true, trapTarget, Bool.false_and, Bool.false_eq_true, if_false, hcause, supervisorStatus]

theorem Hart.enterTrap_machine (hd : h.delegated false code = false) :
    h.enterTrap false code tval epc = { h with
      mode := .m, pc := h.priv.mtvec &&& ~~~(3 : Word),
      priv := { h.priv with mstatus := machineStatus h.priv.mstatus h.mode, mepc := epc, mcause := BitVec.ofNat 64 code,
                            mtval := tval } } := by
  have hcause : (BitVec.ofNat 64 code ||| 0 : Word) = BitVec.ofNat 64 code := BitVec.or_zero
  simp only [Hart.enterTrap, hd, trapTarget, Bool.false_and, Bool.false_eq_true, if_false, hcause, machineStatus]

end

/-- The current hart after an exception. -/
theorem State.me_trap (s : State) (c : Nat) (v : Word) : ∃ st tr dv, (s.trap c v).me
    = { s.me.enterTrap false c v s.me.pc with partials := [], entering := [], st := st, trace := tr, dev := dv } := by
  rw [State.trap, State.me_modMe]
  exact Hart.takeTrap_frame _ _ _ _ _ _

/-! ## The statement -/

/-- Settles O9: the entry into S-mode and the entry into M-mode, the fields of mstatus lemma by lemma. -/
theorem takingAnException : Obligations.TakingAnException := by
  unfold Obligations.TakingAnException
  constructor
  · intro s c v hm hd _
    obtain ⟨st, tr, dv, hme⟩ := s.me_trap c v
    rw [Hart.enterTrap_supervisor _ _ (Hart.delegated_exception hm hd)] at hme
    refine ⟨s.trap c v, rfl, ?_⟩
    rw [hme]
    exact ⟨rfl, rfl, rfl, rfl, rfl, supervisorStatus_spp _ _, supervisorStatus_spie _ _, supervisorStatus_sie _ _,
      fun _ => supervisorStatus_other _ _, rfl, rfl, rfl, rfl, rfl, rfl⟩
  · intro s c v hd _
    obtain ⟨st, tr, dv, hme⟩ := s.me_trap c v
    rw [Hart.enterTrap_machine _ _ (Hart.undelegated_exception hd)] at hme
    refine ⟨s.trap c v, rfl, ?_⟩
    rw [hme]
    exact ⟨rfl, rfl, rfl, rfl, rfl, machineStatus_mpp _ _, machineStatus_mpie _ _, machineStatus_mie _ _,
      fun _ => machineStatus_other _ _, rfl, rfl, rfl, rfl, rfl, rfl⟩

end Sys2Proof.Machine
end

section
/-! PROOF of the handle words and of the loads and stores of regions and handles (R165, R370, R371, R392, R393, R401): the word access,
the three address forms as one, then each access in the order in which it is checked. -/

namespace Sys2Proof.Machine

/-! ## Handles word by word (R401) -/

theorem handleWord_lineSet_self (l : Line) {sel : Nat} (v : Nat) (hs : sel < 8) :
    handleWord (lineSet l (8 * sel) 8 v) sel = BitVec.ofNat 64 v := by
  rw [handleWord, lineGet_lineSet l (8 * sel) 8 v (by omega)]
  exact BitVec.eq_of_toNat_eq (by simp)

theorem handleWord_lineSet_ne (l : Line) {sel k : Nat} (v : Nat) (hk : k < 8) (hn : k ≠ sel) :
    handleWord (lineSet l (8 * sel) 8 v) k = handleWord l k := by
  rw [handleWord, lineGet_lineSet_ne l (8 * sel) 8 v (8 * k) 8 (by omega) (by omega), handleWord]

section
variable {d a b : Reg} {s : State}

theorem exec_hget_words (hf : s.Free [d, b] []) (hr : s.Resident [codeH a]) : exec (.hget d a b) s
    = .next (s.modMe (fun h => (h.wx d (handleWord (s.hget a) (natBits (s.rx b).toNat 0 3))).retire)) :=
  insL_writes hf hr rfl

theorem exec_hgetI_words (hf : s.Free [d] []) (hr : s.Resident [codeH a]) (sel : BitVec 3) : exec (.hgetI d a sel) s
    = .next (s.modMe (fun h => (h.wx d (handleWord (s.hget a) sel.toNat)).retire)) :=
  insL_writes hf hr rfl

theorem exec_hsetx_words (hf : s.Free [a, b] []) (hr : s.Resident [codeH d]) : exec (.hsetx d a b) s
    = .next ((s.hset d (lineSet (s.hget d) (8 * natBits (s.rx b).toNat 0 3) 8 (s.rx a).toNat)).modMe Hart.retire) :=
  insL_ok hf hr rfl

theorem exec_hsetxI_words (hf : s.Free [a] []) (hr : s.Resident [codeH d]) (sel : BitVec 3) : exec (.hsetxI d a sel) s
    = .next ((s.hset d (lineSet (s.hget d) (8 * sel.toNat) 8 (s.rx a).toNat)).modMe Hart.retire) :=
  insL_ok hf hr rfl

end

/-! ## The address forms -/

/-- The instruction is one of three forms of an access, and its form addresses `va`: X[a], or X[a] plus an offset of 12 or 24 bits. -/
def Addresses (s : State) (a : Reg) (va : Word) (i reg : Instr) (imm : BitVec 12 → Instr) (w64 : BitVec 24 → Instr) : Prop :=
  i = reg ∧ va = s.rx a ∨ (∃ m, i = imm m ∧ va = s.ea a m) ∨ (∃ m, i = w64 m ∧ va = s.ea a m)

/-- Whichever the form, the instruction is its access at the address. -/
theorem Addresses.exec_eq {s : State} {a : Reg} {va : Word} {i reg : Instr} {imm : BitVec 12 → Instr} {w64 : BitVec 24 → Instr}
    (h : Addresses s a va i reg imm w64) (hf : s.Free [a] []) {codes : List Nat} (hr : s.Resident codes)
    {body : Word → State → Act Unit} (hreg : exec reg s = insL [a] [] codes (fun t => body (t.rx a) t) s)
    (himm : ∀ m, exec (imm m) s = insL [a] [] codes (fun t => body (t.ea a m) t) s)
    (hw64 : ∀ m, exec (w64 m) s = insL [a] [] codes (fun t => body (t.ea a m) t) s) : exec i s = ins [a] [] (body va) s := by
  rcases h with ⟨rfl, rfl⟩ | ⟨m, rfl, rfl⟩ | ⟨m, rfl, rfl⟩
  · rw [hreg, insL_free hf hr, ins_free hf, ins_free hf]
  · rw [himm, insL_free hf hr, ins_free hf, ins_free hf]
  · rw [hw64, insL_free hf hr, ins_free hf, ins_free hf]

section
variable {s : State} {d a : Reg} {va : Word} {i : Instr} (hf : s.Free [a] [])
include hf

theorem exec_rgld_forms (hr : s.Resident []) (h : Addresses s a va i (.rgld d a) (.rgldImm d a) (.rgldW64 d a)) :
    exec i s = ins [a] [] (loadRegion d va) s :=
  h.exec_eq hf hr (exec_rgld _ _ _) (fun _ => exec_rgldImm _ _ _ _) (fun _ => exec_rgldW64 _ _ _ _)

theorem exec_hld_forms (hr : s.Resident []) (h : Addresses s a va i (.hld d a) (.hldImm d a) (.hldW64 d a)) :
    exec i s = ins [a] [] (loadHandle d va) s :=
  h.exec_eq hf hr (exec_hld _ _ _) (fun _ => exec_hldImm _ _ _ _) (fun _ => exec_hldW64 _ _ _ _)

theorem exec_rgst_forms (hr : s.Resident [codeG d]) (h : Addresses s a va i (.rgst d a) (.rgstImm d a) (.rgstW64 d a)) :
    exec i s = ins [a] [] (storeRegion d va) s :=
  h.exec_eq hf hr (exec_rgst _ _ _) (fun _ => exec_rgstImm _ _ _ _) (fun _ => exec_rgstW64 _ _ _ _)

theorem exec_hst_forms (hr : s.Resident [codeH d]) (h : Addresses s a va i (.hst d a) (.hstImm d a) (.hstW64 d a)) :
    exec i s = ins [a] [] (storeHandle d va) s :=
  h.exec_eq hf hr (exec_hst _ _ _) (fun _ => exec_hstImm _ _ _ _) (fun _ => exec_hstW64 _ _ _ _)

end

/-! ## The loads (R165, R371, R392) -/

section
variable {s : State} (d : Reg) {va : Word}

theorem loadRegion_excluded (he : s.excluded va.toNat 288 = true) : loadRegion d va s = .trap 25 va s := if_pos he

theorem loadHandle_excluded (he : s.excluded va.toNat 64 = true) : loadHandle d va s = .trap 25 va s := if_pos he

theorem loadRegion_misaligned (he : s.excluded va.toNat 288 = false) (ha : va.toNat % 32 ≠ 0) : loadRegion d va s = .trap 4 va s := by
  rw [loadRegion, if_neg (ne_true_of_eq_false he), if_pos ha]

theorem loadHandle_misaligned (he : s.excluded va.toNat 64 = false) (ha : va.toNat % 64 ≠ 0) : loadHandle d va s = .trap 4 va s := by
  rw [loadHandle, if_neg (ne_true_of_eq_false he), if_pos ha]

section
variable {vs : List Nat} {u : State} (he : s.excluded va.toNat 288 = false) (ha : va.toNat % 32 = 0)
  (hl : s.loadList (wordPieces va.toNat 288) = .ok vs u)
include he ha hl

theorem loadRegion_wellFormed {g : Region} (hg : Region.ofImage (partBytes (wordPieces va.toNat 288) vs) = some g) :
    loadRegion d va s = .ok () ((u.record 3 3 va).putRegion d (Region.result g.d g.boxes g.lat g.inexact)) := by
  simp only [loadRegion, he, ha, hl, hg, Act.andThen, Bool.false_eq_true, if_false, ne_eq, not_true_eq_false, State.result]

theorem loadRegion_illFormed (hg : Region.ofImage (partBytes (wordPieces va.toNat 288) vs) = none) :
    loadRegion d va s = .trap 5 va u := by
  simp only [loadRegion, he, ha, hl, hg, Act.andThen, Bool.false_eq_true, if_false, ne_eq, not_true_eq_false]

end

theorem loadHandle_answered {vs : List Nat} {u : State} (he : s.excluded va.toNat 64 = false) (ha : va.toNat % 64 = 0)
    (hl : s.loadList (wordPieces va.toNat 64) = .ok vs u) : loadHandle d va s
      = .ok () ((u.hset d (BitVec.ofNat 512 (ofBytes (partBytes (wordPieces va.toNat 64) vs)))).record 3 3 va) := by
  simp only [loadHandle, he, ha, hl, Act.andThen, Bool.false_eq_true, if_false, ne_eq, not_true_eq_false]

/-! ## The stores (R370, R393) -/

theorem storeRegion_misaligned (ha : va.toNat % 32 ≠ 0) : storeRegion d va s = .trap 6 va s := if_pos ha

theorem storeHandle_misaligned (ha : va.toNat % 64 ≠ 0) : storeHandle d va s = .trap 6 va s := if_pos ha

section
variable {u : State}

theorem storeRegion_entered (ha : va.toNat % 32 = 0) (hs : s.storeBytes va.toNat (s.gget d).image = .ok () u) :
    storeRegion d va s = .ok () (u.record 3 4 va) := by
  rw [storeRegion, if_neg (not_not_intro ha), hs, Act.andThen]

theorem storeHandle_entered (ha : va.toNat % 64 = 0)
    (hs : s.storeWords va.toNat (bytesOf 64 (s.hget d).toNat) = .ok () u) : storeHandle d va s = .ok () (u.record 3 4 va) := by
  rw [storeHandle, if_neg (not_not_intro ha), hs, Act.andThen]

end

end

/-! ## The statement -/

/-- Settles O21: the words of a handle, then in each of its forms every outcome of the two loads and of the two stores. -/
theorem regionAndHandleMemory : Obligations.RegionAndHandleMemory := by
  unfold Obligations.RegionAndHandleMemory
  refine ⟨⟨fun d a b sel s hf hr => ⟨exec_hget_words hf hr, exec_hgetI_words (hf.mono (by simp) (by simp)) hr sel⟩,
      fun d a b sel s hf hr => ⟨exec_hsetx_words hf hr, exec_hsetxI_words (hf.mono (by simp) (by simp)) hr sel⟩,
      fun l sel k v hs hk => ?_⟩,
    fun d a s va i r _ hf hr hi hh => ?_, fun d a s va i r hf hi hh => ⟨fun hr ha => ?_, fun u hr ha hs => ?_, fun hr ha => ?_,
      fun u hr ha hs => ?_⟩⟩
  · split
    next he => rw [he, handleWord_lineSet_self l v hs]
    next hn => exact handleWord_lineSet_ne l v hk hn
  · rw [exec_rgld_forms hf hr hi, exec_hld_forms hf hr hh]
    exact ⟨fun he => ins_trap hf (loadRegion_excluded d he), fun he ha => ins_trap hf (loadRegion_misaligned d he ha),
      fun vs u he ha hl => ⟨fun g hg => ins_ok hf (loadRegion_wellFormed d he ha hl hg),
        fun hg => ins_trapFrom hf (loadRegion_illFormed d he ha hl hg)⟩,
      fun he => ins_trap hf (loadHandle_excluded d he), fun he ha => ins_trap hf (loadHandle_misaligned d he ha),
      fun vs u he ha hl => ins_ok hf (loadHandle_answered d he ha hl)⟩
  · rw [exec_rgst_forms hf hr hi, ins_trap hf (storeRegion_misaligned d ha)]
  · rw [exec_rgst_forms hf hr hi, ins_ok hf (storeRegion_entered d ha hs)]
  · rw [exec_hst_forms hf hr hh, ins_trap hf (storeHandle_misaligned d ha)]
  · rw [exec_hst_forms hf hr hh, ins_ok hf (storeHandle_entered d ha hs)]

end Sys2Proof.Machine
end

section
/-! PROOF of the issue of matrix instructions and of MSYNC (R194, R452, R457, R475): a matrix instruction is its issue, whatever its form;
what its body answers, check by check; and the state after a request has entered the queue. -/

namespace Sys2Proof.Store

/-- A value that is not the default is read back from any map, whether or not its keys rise. -/
theorem get_set_of_ne {α : Type} [DecidableEq α] (d : α) (m : List (Nat × α)) (k : Nat) {v : α} (hv : v ≠ d) :
    get d (set d m k v) k = v := by
  rw [set, if_neg hv, get_put_self]

end Sys2Proof.Store

namespace Sys2Proof.Machine

/-! ## The instruction around its request -/

/-- Whatever its form, a matrix instruction is the issue of its request. -/
theorem MatrixForm.exec_eq {i : Instr} {p : MSpec} (h : MatrixForm i p) (s : State) : exec i s = (p.issue s).run s := by
  cases h <;> rfl

/-- With its registers free and resident, it does what its body does (R190, R202). -/
theorem MatrixForm.exec_ins {i : Instr} {p : MSpec} (h : MatrixForm i p) {s : State} (hf : s.Free (p.xs ++ p.wx) (p.vs ++ p.wv))
    (hr : s.Resident ((p.vs ++ p.wv).map codeV)) (hl : s.me.laneHolds [] (p.req s).names = false) :
    exec i s = ins (p.xs ++ p.wx) (p.vs ++ p.wv) p.body s := by
  have hrun : (p.issue s).run s = insL (p.xs ++ p.wx) (p.vs ++ p.wv) [] p.body s := if_neg (ne_true_of_eq_false hl)
  rw [h.exec_eq, hrun, insL_free hf (by simpa using hr)]

/-! ## The body (R452) -/

section
variable {p : MSpec} {s : State}

theorem MSpec.body_no_task (hn : s.me.task = none) : p.body s = .trap 2 s.me.ir s := by
  rw [MSpec.body, hn]
  rfl

section
variable (ht : s.me.task ≠ none)
include ht

theorem MSpec.body_bad_format (hk : p.ok s = false) : p.body s = .trap 31 s.me.ir s := by
  rw [MSpec.body, if_neg (by simpa using ht), if_pos (by simp [hk])]

theorem MSpec.body_enters (hk : p.ok s = true) : p.body s = p.enter s := by
  rw [MSpec.body, if_neg (by simpa using ht), if_neg (by simp [hk])]

end

theorem MSpec.enter_full (hq : 4 ≤ s.myQueue.length) : p.enter s = .stall s := if_pos hq

theorem MSpec.enter_requested (hq : s.myQueue.length < 4) (hl : s.localQuiet = .ok () s) :
    p.enter s = .ok () (p.after (if p.rounds then (s.requested p).advanceSeed else s.requested p)) := by
  rw [MSpec.enter, if_neg (Nat.not_le.mpr hq), hl]
  rfl

end

/-! ## A request in the dispatch queue (R194) -/

@[simp] theorem State.quad_setQuad (s : State) (q : Nat) (v : Quad) : (s.setQuad q v).quad q = v := Store.get_put_self _ _ _ _

@[simp] theorem State.quad_modQuad (s : State) (q : Nat) (f : Quad → Quad) : (s.modQuad q f).quad q = f (s.quad q) :=
  State.quad_setQuad _ _ _

@[simp] theorem State.quad_modMe (s : State) (f : Hart → Hart) (q : Nat) : (s.modMe f).quad q = s.quad q := rfl

theorem State.requested_myQueue (s : State) (p : MSpec) :
    (s.requested p).myQueue = s.myQueue ++ [{ p.req s with id := s.nextId }] := by
  rw [State.myQueue, State.requested]
  simp only [State.modMe_cur, State.modQuad_cur, State.quad_modMe, State.quad_modQuad, Quad.queueOf]
  exact Store.get_set_of_ne _ _ _ (by simp)

/-- Of the issuing hart, only the registers that wait for the request change. -/
theorem State.requested_me (s : State) (p : MSpec) : (s.requested p).me = { s.me with
    vwait := s.me.vwait ++ p.wv.map (fun (v : Reg) => (v.toNat, s.nextId)),
    xwait := s.me.xwait ++ (p.wx.filter (· != 0)).map (fun (x : Reg) => (x.toNat, s.nextId)) } := by
  rw [State.requested, State.me_modMe]
  rfl

theorem State.requested_slot (s : State) (p : MSpec) : (s.requested p).slot = s.slot := by
  rw [State.slot, State.requested_me]
  rfl

/-! ## MSYNC (R475) -/

section
variable {s : State} (hf : s.Free [] [])
include hf

theorem exec_msync_no_task (hn : s.me.task = none) : exec .msync s = .next (s.trap 2 s.me.ir) := by
  rw [exec_msync, execMsync]
  exact ins_trap hf (if_pos (by rw [hn]; rfl))

section
variable (ht : s.me.task ≠ none)
include ht

/-- On a hart that runs a task, MSYNC waits, traps or completes as it does in a repetition block. -/
theorem exec_msync_task : exec .msync s = ins [] [] syncIssue.body s := by
  rw [exec_msync, execMsync, ins_free hf, ins_free hf, if_neg (by simpa using ht)]
  rfl

theorem exec_msync_waits (hq : s.quads.any (fun q => q.2.requests.any s.mine) = true) : exec .msync s = .next s := by
  rw [exec_msync_task hf ht]
  exact ins_stall hf (if_pos hq)

section
variable (hq : s.quads.any (fun q => q.2.requests.any s.mine) = false)
include hq

theorem exec_msync_completes (hp : s.me.mpoison = false) : exec .msync s = .next (s.modMe Hart.retire) := by
  rw [exec_msync_task hf ht]
  exact ins_ok hf ((if_neg (ne_true_of_eq_false hq)).trans (if_neg (ne_true_of_eq_false hp)))

theorem exec_msync_poisoned (hp : s.me.mpoison = true) :
    exec .msync s = .next ((s.modMe (fun h => { h with mpoison := false })).trap 29 0) := by
  have hpts : (s.modMe (fun h => { h with mpoison := false })).me.pts = s.me.pts := by rw [State.me_modMe]
  rw [← State.trapFrom_self, hpts, exec_msync_task hf ht]
  exact ins_trapFrom hf ((if_neg (ne_true_of_eq_false hq)).trans (if_pos hp))

end

end

end

/-! ## The statement -/

/-- Settles O31: the issue of a request in the order of its checks, the request in the queue, and MSYNC. -/
theorem matrixIssue : Obligations.MatrixIssue := by
  unfold Obligations.MatrixIssue
  refine ⟨⟨fun i p s h hf hr hl => ?_, fun s p => ⟨s.requested_myQueue p, rfl, ?_, ?_, s.requested_slot p⟩,
      fun _ _ _ _ _ _ => ⟨rfl, rfl, rfl, rfl, rfl, rfl, rfl⟩⟩,
    fun s hf => ⟨exec_msync_no_task hf, exec_msync_waits hf,
      fun ht hq => ⟨exec_msync_completes hf ht hq, exec_msync_poisoned hf ht hq⟩⟩⟩
  · rw [h.exec_ins hf hr hl]
    refine ⟨fun hn => ins_trap hf (MSpec.body_no_task hn), fun ht => ⟨fun hk => ins_trap hf (MSpec.body_bad_format ht hk),
      fun hk => ⟨fun hq => ins_stall hf ?_, fun hq hquiet u hu => ins_ok hf ?_⟩⟩⟩
    · rw [MSpec.body_enters ht hk, MSpec.enter_full hq]
    · rw [MSpec.body_enters ht hk, MSpec.enter_requested hq hquiet, hu]
  · rw [State.requested_me]
  · rw [State.requested_me]

end Sys2Proof.Machine
end

section
/-! PROOF of the matrix engine (R195, R196, R198, R463): the arbiter's search and what it accepts, then the completion of the oldest request,
stage by stage. -/

namespace Sys2Proof

/-- What a search answers, one of the elements searched gave. -/
theorem firstSome_eq_some {α β : Type} {f : α → Option β} {l : List α} {y : β} (h : firstSome f l = some y) : ∃ x ∈ l, f x = some y := by
  induction l with
  | nil => cases h
  | cons x r ih =>
    cases hx : f x with
    | some z =>
      rw [firstSome, hx] at h
      exact ⟨x, List.mem_cons_self, hx.trans h⟩
    | none =>
      rw [firstSome, hx] at h
      obtain ⟨z, hz, hfz⟩ := ih h
      exact ⟨z, List.mem_cons_of_mem _ hz, hfz⟩

end Sys2Proof

namespace Sys2Proof.Machine

/-! ## The arbiter (R195) -/

/-- What the arbiter picks: with fewer than eight requests accepted, the head of one of the four positions, if it may be accepted now. -/
theorem State.nextAccept_inv {s : State} {q h : Nat} {r : MReq} (hn : s.nextAccept q = some (h, r)) :
    (s.quad q).inq.length < 8 ∧ h < 4 ∧ s.eligible q h r = true := by
  simp only [State.nextAccept] at hn
  split at hn
  next => cases hn
  next hc =>
    obtain ⟨i, -, hi⟩ := firstSome_eq_some hn
    obtain ⟨r', hr', he⟩ := Option.map_eq_some_iff.mp hi
    obtain ⟨rfl, rfl⟩ := Prod.mk.inj he
    simp only [Bool.or_eq_true, decide_eq_true_eq, not_or, Nat.not_le] at hc
    exact ⟨hc.1, Nat.mod_lt _ (by decide), (Option.filter_eq_some_iff.mp hr').2⟩

/-- A request that may be accepted was issued before, and no copy holds a register that it names. -/
theorem State.eligible_inv {s : State} {q h : Nat} {r : MReq} (he : s.eligible q h r = true) :
    r.at_ < s.cycle ∧ s.copyHolds r.ctx r.id r.names = false := by
  simp only [State.eligible, Bool.and_eq_true, decide_eq_true_eq, Bool.not_eq_true'] at he
  exact he.1

theorem exec_matrixAccept_none {q : Nat} {s : State} (hn : s.nextAccept q = none) : exec (.matrixAccept q) s = .next s := by
  rw [exec_matrixAccept, execMatrixAccept, hn]

theorem exec_matrixAccept_some {q h : Nat} {s : State} {r : MReq} (hn : s.nextAccept q = some (h, r)) :
    exec (.matrixAccept q) s =
      .next ((if r.gang then [] else s.gangParts q { r with fmt := (s.fmtCtx q r.ctx r.slot).fmt }).foldl
        (fun t p => t.modQuad p.1 (fun x => { x with gangSlots := Store.put x.gangSlots h p.2 }))
        (s.modQuad q (·.accept h (s.fmtCtx q r.ctx r.slot) r s.cycle))) := by
  rw [exec_matrixAccept, execMatrixAccept, hn]

/-! ## The request that is accepted (R196, R198) -/

/-- The request as the engine holds it: with the format context of its slot, or a member's part with that of its issuer. -/
def MReq.accepted (r : MReq) (f : FmtCtx) : MReq := if r.gang then r else { r with fmt := f.fmt, ucode := f.ucode, ust := f.ust }

/-- The format contexts behind a request: MFMT and MUPLD change that of their slot. -/
def Quad.keepFmt (q : Quad) (key : Nat) (f : FmtCtx) (r : MReq) : Quad :=
  match r.op with
  | .mfmt _ => { q with fmts := Store.put q.fmts key { f with fmt := r.xa } }
  | .mupld _ _ => { q with fmts := Store.put q.fmts key { f with ucode := r.xa, ust := r.xb.setWidth 32 } }
  | _ => q

theorem Quad.keepFmt_frame (q : Quad) (key : Nat) (f : FmtCtx) (r : MReq) :
    q.keepFmt key f r = { q with fmts := (q.keepFmt key f r).fmts } := by
  unfold Quad.keepFmt
  split <;> rfl

/-- The place that a request leaves: its gang slot, or the head of its queue. -/
def Quad.dropHead (q : Quad) (h : Nat) (r : MReq) : Quad :=
  if r.gang then { q with gangSlots := Store.del q.gangSlots h } else { q with dq := Store.set [] q.dq h (q.queueOf h).tail }

theorem Quad.dropHead_inq (q : Quad) (h : Nat) (r : MReq) : (q.dropHead h r).inq = q.inq := by
  unfold Quad.dropHead
  split <;> rfl

/-- The request stands last at the engine, and the next search starts behind its position. -/
def Quad.holdLast (q : Quad) (h : Nat) (r : MReq) (cycle : Nat) : Quad :=
  { q with inq := q.inq ++ [r], arb := (h + 1) % 4, accepts := (cycle :: q.accepts).take 16 }

section
variable (q : Quad) (h : Nat) (f : FmtCtx) (r : MReq) (cycle : Nat)

theorem Quad.accept_eq : q.accept h f r cycle =
    ((q.keepFmt (r.ctx * 4 + r.slot) f (r.accepted f)).dropHead h (r.accepted f)).holdLast h (r.accepted f) cycle := rfl

theorem Quad.accept_inq : (q.accept h f r cycle).inq = q.inq ++ [r.accepted f] := by
  rw [Quad.accept_eq, Quad.holdLast, Quad.dropHead_inq, Quad.keepFmt_frame]

theorem Quad.accept_queueOf (hg : r.gang = false) (hr : Store.Rising q.dq) :
    (q.accept h f r cycle).queueOf h = (q.queueOf h).tail := by
  have hdq : (q.accept h f r cycle).dq = Store.set [] q.dq h (q.queueOf h).tail := by
    rw [Quad.accept_eq, Quad.keepFmt_frame, Quad.dropHead, MReq.accepted, hg]
    rfl
  rw [Quad.queueOf, hdq, Store.get_set_self [] hr]

end

/-- Only an MMAG has parts at the other members (R462). -/
theorem State.gangParts_of_ne {s : State} {q : Nat} {r : MReq} (h : ∀ z d a b k8 m n, r.op ≠ .mmag z d a b k8 m n) :
    s.gangParts q r = [] := by
  unfold State.gangParts
  split
  next hop => exact absurd hop (h _ _ _ _ _ _ _)
  next => rfl

/-! ## The oldest accepted request completes (R196, R455) -/

/-- The registers that a request names are in the register file, those that it writes marked as written. -/
def State.readied (s : State) (r : MReq) : State :=
  r.writes.foldl (fun s t => s.touchTile r.ctx t) (r.reads.foldl (fun s t => s.ensureTile r.ctx t) s)

/-- The request poisons all that it writes (log 90). -/
def State.poisonWrites (s : State) (r : MReq) : State :=
  r.writes.foldl (fun s t => (s.poisonRange (tileAddr r.ctx t) (tileBytes t)).settleTile r.ctx t) s

/-- The effect of the request is in the registers: it is counted, what it wrote whole is clean, and registers that were to leave do. -/
def State.settleWrites (s : State) (r : MReq) : State :=
  r.writes.foldl (fun s t => s.settleTile r.ctx t) (r.whole.foldl (fun s t => s.cleanRange (tileAddr r.ctx t) (tileBytes t))
    (s.tally r.task (fun t => { t with flops := t.flops + 2 * r.macs })))

theorem exec_matrixComplete_nil {q : Nat} {s : State} (hq : (s.quad q).inq = []) : exec (.matrixComplete q) s = .next s := by
  rw [exec_matrixComplete, execMatrixComplete, hq]

section
variable {q : Nat} {s : State} {r : MReq} {rest : List MReq} (hq : (s.quad q).inq = r :: rest)
include hq

/-- A request other than MREL waits for its fills, poisons what it writes, or takes effect whole. -/
theorem exec_matrixComplete_cons (hop : ∀ acc d, r.op ≠ .mrel acc d) {v : State}
    (hv : v = (s.readied r).modQuad q (fun x => { x with inq := rest })) : exec (.matrixComplete q) s =
    if !(s.readied r).tilesReady r then .next (s.readied r)
    else if v.readsPoison r then
      .next (((v.poisonWrites r).deliver r 0).ownPoison (v.ownerOf r.hart r.slot (some r.ictx) r.task))
    else .next ((((v.applyReq r).2.2.settleWrites r).deliver r (v.applyReq r).2.1).ownFlags
      (v.ownerOf r.hart r.slot (some r.ictx) r.task) (v.applyReq r).1) := by
  simp only [exec_matrixComplete, execMatrixComplete, hq, Bool.false_eq_true, if_false]
  rw [hv]
  rfl

theorem exec_matrixComplete_release {acc : Bool} {d : Reg} (hop : r.op = .mrel acc d) (hr : s.tilesReady r = true) :
    exec (.matrixComplete q) s = .next ((r.writes.foldl (fun s t => s.releaseTile r.ctx t)
      (s.modQuad q (fun x => { x with inq := rest }))).deliver r 0) := by
  simp [exec_matrixComplete, execMatrixComplete, hq, hop, hr]

end

/-! ## The statement -/

/-- Settles O33: the arbiter, the accepted request, and the completion of the oldest one by whether its registers are at hand, whether it
reads poison, and whether it is MREL. -/
theorem matrixEngine : Obligations.MatrixEngine := by
  unfold Obligations.MatrixEngine
  refine ⟨fun q s => ⟨exec_matrixAccept_none, fun h r f w hn hf hw => ?_, fun r => State.gangParts_of_ne⟩,
    fun q s => exec_matrixComplete_nil, fun q s r rest u hq hop hu => ?_,
    fun q s r rest acc d hq => exec_matrixComplete_release hq⟩
  · obtain ⟨hlen, hlt, he⟩ := State.nextAccept_inv hn
    obtain ⟨hat, hcopy⟩ := State.eligible_inv he
    subst hf hw
    exact ⟨exec_matrixAccept_some hn, hlt, hlen, hat, hcopy, Quad.accept_inq .., fun hg hr => Quad.accept_queueOf _ _ _ _ _ hg hr, rfl⟩
  · have hu' : u = s.readied r := hu
    subst hu'
    refine ⟨fun hr => ?_, fun v o hr hv ho => ⟨fun hp => ?_, fun fl x w hp hw => ?_⟩⟩
    · rw [exec_matrixComplete_cons hq hop rfl, hr]
      rfl
    · subst ho
      rw [exec_matrixComplete_cons hq hop hv, hr, hp]
      rfl
    · subst ho
      rw [exec_matrixComplete_cons hq hop hv, hr, hp, hw]
      rfl

end Sys2Proof.Machine
end

section
/-! PROOF of the repetition blocks (R200 to R202, R363): REPB in the order of its checks, an issue of the lane by what it meets, and the lane's
next step. -/

namespace Sys2Proof.Machine

/-! ## REPB (R200, R363) -/

/-- What REPB does with a block that is at hand. -/
def repbBlock (rs rg : Nat) (blk : List (Instr × Word)) (e : Word) (s : State) : Act Unit :=
  if rs = 0 || 2 ^ 32 ≤ rs then illegal s
  else if (unrolled rg (min rs rg) blk).any (fun x => !blockOk s x.1) then illegal s
  else
    match (blockTrap s (unrolled rg (min rs (rg + 1)) blk)).1 with
    | some (c, v) => if c = 2 then illegal s else .trap c v s
    | none => .ok () (s.modMe (fun h => { h with lane := laneOf s rs rg blk, npc := e, dev := { h.dev with repidx := 0 } }))

section
variable {s : State} {a : Reg} {len : BitVec 3} {ring : BitVec 2} (hf : s.Free [a] [])
include hf

theorem exec_repb_second (ha : s.me.lane.active = true) : exec (.repb a len ring) s = .next s := by
  rw [exec_repb, execRepb]
  exact ins_stall hf (if_pos ha)

section
variable (ha : s.me.lane.active = false)
include ha

/-- With the lane idle, REPB fetches its block first. -/
theorem exec_repb_fetches : exec (.repb a len ring) s = ins [a] [] (fun s =>
    (fetchBlock (len.toNat + 1) (s.me.pc + 4) s).andThen fun blk t =>
      match blk with
      | none => illegal t
      | some (b, e) => repbBlock (s.rx a).toNat (2 ^ (ring.toNat + 1)) b e t) s := by
  rw [exec_repb, execRepb, ins_free hf, ins_free hf, if_neg (ne_true_of_eq_false ha)]
  rfl

theorem exec_repb_undecoded (hb : fetchBlock (len.toNat + 1) (s.me.pc + 4) s = .ok none s) :
    exec (.repb a len ring) s = .next (s.trap 2 s.me.ir) := by
  rw [exec_repb_fetches hf ha]
  refine ins_trap hf ?_
  rw [hb]
  rfl

theorem exec_repb_unfetched {c : Nat} {v : Word} {u : State} (hb : fetchBlock (len.toNat + 1) (s.me.pc + 4) s = .trap c v u) :
    exec (.repb a len ring) s = .next (u.trapFrom s.me.pts c v) := by
  rw [exec_repb_fetches hf ha]
  refine ins_trapFrom hf ?_
  rw [hb]
  rfl

theorem exec_repb_block {blk : List (Instr × Word)} {e : Word} (hb : fetchBlock (len.toNat + 1) (s.me.pc + 4) s = .ok (some (blk, e)) s) :
    exec (.repb a len ring) s = ins [a] [] (repbBlock (s.rx a).toNat (2 ^ (ring.toNat + 1)) blk e) s := by
  rw [exec_repb_fetches hf ha, ins_free hf, ins_free hf, hb]
  rfl

end

end

/-! ### The block's checks, in their order -/

section
variable {s : State} {rs rg : Nat} {blk : List (Instr × Word)} {e : Word}

theorem repbBlock_count (h : rs = 0 ∨ 2 ^ 32 ≤ rs) : repbBlock rs rg blk e s = .trap 2 s.me.ir s := if_pos (by simpa using h)

section
variable (h0 : 0 < rs) (h1 : rs < 2 ^ 32)
include h0 h1

theorem repb_count_in_range : ¬(rs = 0 || 2 ^ 32 ≤ rs) = true := by
  simp only [Bool.or_eq_true, decide_eq_true_eq]
  omega

theorem repbBlock_unfit (hx : ∃ x ∈ unrolled rg (min rs rg) blk, blockOk s x.1 = false) :
    repbBlock rs rg blk e s = .trap 2 s.me.ir s := by
  rw [repbBlock, if_neg (repb_count_in_range h0 h1), if_pos (by simpa using hx)]
  rfl

section
variable (hx : ∀ x ∈ unrolled rg (min rs rg) blk, blockOk s x.1 = true)
include hx

theorem repbBlock_trap {c : Nat} {v : Word} (ht : (blockTrap s (unrolled rg (min rs (rg + 1)) blk)).1 = some (c, v)) (hc : c ≠ 2) :
    repbBlock rs rg blk e s = .trap c v s := by
  rw [repbBlock, if_neg (repb_count_in_range h0 h1), if_neg (by simpa using hx), ht]
  exact if_neg hc

theorem repbBlock_taken (ht : (blockTrap s (unrolled rg (min rs (rg + 1)) blk)).1 = none) : repbBlock rs rg blk e s =
    .ok () (s.modMe (fun h => { h with lane := laneOf s rs rg blk, npc := e, dev := { h.dev with repidx := 0 } })) := by
  rw [repbBlock, if_neg (repb_count_in_range h0 h1), if_neg (by simpa using hx), ht]

end

end

end

/-! ## The lane (R201, R202) -/

section
variable {h : Nat} {s : State}

theorem exec_repbLaneIssue_idle (hn : (s.hart h).lane.active = false ∨ (s.hart h).status.executes = false ∨
    (s.hart h).lane.last = some s.cycle) : exec (.repbLaneIssue h) s = .next s := by
  rw [exec_repbLaneIssue, execRepbLaneIssue, if_neg]
  rcases hn with hn | hn | hn <;> simp [hn]

theorem exec_repbLaneIssue_issues (ha : (s.hart h).lane.active = true) (he : (s.hart h).status.executes = true)
    (hl : (s.hart h).lane.last ≠ some s.cycle) :
    exec (.repbLaneIssue h) s = .next { ({ s with cur := h } : State).laneIssue with cur := s.cur } := by
  rw [exec_repbLaneIssue, execRepbLaneIssue, if_pos (by simp [ha, he, hl])]

end

/-- The hart with the mask and the rounding mode that its lane sampled (R202). -/
def State.laneSampled (s : State) : State :=
  s.modMe (fun x => { x with dev := { x.dev with rmode := s.me.lane.rmode, vactm := s.me.lane.vactm } })

/-- Registers that are resident leave the state as it is. -/
theorem State.filled_inv {s t : State} {codes : List Nat} (h : s.filled codes = .ok () t) : t = s := by
  simp only [State.filled] at h
  split at h
  next => cases h; rfl
  next =>
    split at h
    next => cases h; rfl
    next => cases h

/-- No register among them has a token to join, and none has one that failed. -/
theorem Hart.plain_of_all {h : Hart} {ns : List Nat} (hp : ns.all (fun n => !(h.token n).unjoined && !(h.token n).fpend) = true) :
    (∀ n ∈ ns, (h.token n).unjoined = false) ∧ ns.find? (fun n => (h.token n).fpend) = none := by
  simp only [List.all_eq_true, Bool.and_eq_true, Bool.not_eq_true'] at hp
  exact ⟨fun n hn => (hp n hn).1, List.find?_eq_none.mpr (fun n hn => by simp [(hp n hn).2])⟩

/-- The lane's instruction joins no token when none of its registers has one to join. -/
theorem State.laneSampled_join {w : State} {ns : List Nat} (hp : ∀ n ∈ ns, (w.me.token n).unjoined = false) :
    w.laneSampled.modMe (·.join ns) = w.laneSampled := by
  have hme : w.laneSampled.me.join ns = w.laneSampled.me :=
    Hart.join_plain (fun n hn => by rw [State.laneSampled, State.me_modMe]; exact hp n hn)
  rw [State.modMe_congr _ (g := fun x => x) hme]
  exact State.here_of_modMe _ _

section
variable {w : State} {op : Instr} {i : Issue} {ns : List Nat} (hop : w.me.lane.block[w.me.lane.idx]? = some op)
  (hi : blockIssue w (iterInstr w.me.lane.ring w.me.lane.iter op) = some i) (hns : ns = (i.xs.map (·.toNat)).filter (· != 0))
include hop hi hns

theorem State.laneIssue_busy (hb : w.me.laneBusy ns (i.vs.map (·.toNat)) = true) : w.laneIssue = w := by
  subst hns
  simp only [State.laneIssue, hop, hi, hb, if_true]

section
variable (hb : w.me.laneBusy ns (i.vs.map (·.toNat)) = false)
  (hp : ns.all (fun n => !(w.me.token n).unjoined && !(w.me.token n).fpend) = true)
include hb hp

theorem State.laneIssue_trap {t t' : State} {c : Nat} {v : Word} (hm : w.me.mode = .u)
    (hfill : w.laneSampled.filled (i.vs.map codeV ++ i.codes) = .ok () t) (hbody : i.body t = .trap c v t') :
    w.laneIssue = w.trap c v := by
  obtain ⟨hplain, hfind⟩ := Hart.plain_of_all hp
  have hj := State.laneSampled_join hplain
  obtain rfl := State.filled_inv hfill
  subst hns
  rw [State.laneSampled] at hfill hj hbody
  simp only [State.laneIssue, hop, hi, hb, hfill, hj, hbody, hfind, Bool.false_eq_true, if_false]
  exact if_pos hm

theorem State.laneIssue_ok {t : State} (hk : ∀ a, iterInstr w.me.lane.ring w.me.lane.iter op ≠ .vmask a)
    (hbody : (w.laneSampled.filled (i.vs.map codeV ++ i.codes)).andThen (fun _ t => i.body t) = .ok () t) :
    w.laneIssue = t.modMe (fun x =>
      ({ x with dev := { x.dev with rmode := w.me.dev.rmode, vactm := w.me.dev.vactm } } : Hart).laneNext w.cycle) := by
  obtain ⟨hplain, hfind⟩ := Hart.plain_of_all hp
  have hj := State.laneSampled_join hplain
  have hjoined := Hart.joined_plain hplain
  cases hfill : w.laneSampled.filled (i.vs.map codeV ++ i.codes) with
  | stall _ => rw [hfill] at hbody; cases hbody
  | trap _ _ _ => rw [hfill] at hbody; cases hbody
  | ok _ u =>
    rw [hfill] at hbody
    obtain rfl := State.filled_inv hfill
    subst hns
    rw [State.laneSampled] at hfill hj hbody
    simp only [Act.andThen] at hbody
    simp only [State.laneIssue, hop, hi, hb, hfill, hj, hbody, hfind, hjoined, State.modMe_modMe, Bool.false_eq_true, if_false]

end

end

/-! ### The next step (R201) -/

theorem Hart.laneNext_inside {h : Hart} (c : Nat) (hl : h.lane.idx + 1 < h.lane.block.length) :
    h.laneNext c = { h with instret := h.instret + 1, lane := { h.lane with idx := h.lane.idx + 1, last := some c } } := if_pos hl

theorem Hart.laneNext_last {h : Hart} (c : Nat) (hl : h.lane.block.length ≤ h.lane.idx + 1) :
    h.laneNext c = { h with
      instret := h.instret + 1,
      lane := { h.lane with last := some c, idx := 0, iter := h.lane.iter + 1, active := decide (h.lane.iter + 1 < h.lane.rs) },
      dev := { h.dev with repidx := BitVec.ofNat 64 (h.lane.iter + 1) } } := if_neg (Nat.not_lt.mpr hl)

/-! ## The statement -/

/-- Settles O35: REPB in the order of its checks, the lane's issue by what it meets, the lane's next step, and the renaming of tiles. -/
theorem repetitionBlocks : Obligations.RepetitionBlocks := by
  unfold Obligations.RepetitionBlocks
  refine ⟨fun a len ring s hf => ⟨exec_repb_second hf, fun ha => ⟨exec_repb_undecoded hf ha, fun c v u => exec_repb_unfetched hf ha,
      fun blk e rs rg hb hrs hrg => ?_⟩⟩,
    fun h s => ⟨exec_repbLaneIssue_idle, fun w op i ns ha he hl hw hop hi hns => ?_⟩, fun h c => Hart.laneNext_inside c,
    fun h c hl => ?_, fun _ _ _ _ _ _ _ _ _ => rfl, fun _ _ _ _ _ _ => rfl⟩
  · rw [exec_repb_block hf ha hb]
    subst hrs hrg
    exact ⟨fun h => ins_trap hf (repbBlock_count h), fun h0 h1 => ⟨fun hx => ins_trap hf (repbBlock_unfit h0 h1 hx),
      fun hx => ⟨fun c v ht hc => ins_trap hf (repbBlock_trap h0 h1 hx ht hc),
        fun ht => by rw [ins_ok hf (repbBlock_taken h0 h1 hx ht), State.modMe_modMe]⟩⟩⟩
  · rw [exec_repbLaneIssue_issues ha he hl, ← hw]
    have hback : { w with cur := s.cur } = s := by rw [hw]
    have hcycle : w.cycle = s.cycle := by rw [hw]
    refine ⟨fun hb => ?_, fun t u hb hp hk hu hbody => ?_, fun t c v hm hb hp hfill ⟨t', hbody⟩ => ?_⟩
    · rw [State.laneIssue_busy hop hi hns hb, hback]
    · subst hu
      rw [State.laneIssue_ok hop hi hns hb hp hk hbody, hcycle]
    · rw [State.laneIssue_trap hop hi hns hb hp hm hfill hbody]
  · rw [Hart.laneNext_last c hl]
    exact ⟨rfl, rfl, rfl, rfl, decide_eq_true_iff⟩

end Sys2Proof.Machine
end

section
/-! PROOF of the copy engine and the stream controllers (R203 to R205, R403, R420): the segments of a quad's engine, its port queue, the
completion of a transfer; then the start of a subscription, and the slots that LDSUB fills and LDDRN drains. -/

namespace Sys2Proof.Machine

/-! ## Segments (R203, R204) -/

theorem State.nextOf_active {s : State} {q src : Nat} {t : Transfer} (h : s.nextOf q src = some t) : s.xferActive t = true := by
  unfold State.nextOf at h
  split at h
  next =>
    have ht := List.find?_some h
    simp only [Bool.and_eq_true] at ht
    exact ht.2
  next =>
    obtain ⟨_, -, hid⟩ := firstSome_eq_some h
    exact (Option.filter_eq_some_iff.mp hid).2

theorem State.nextSegment_inv {s : State} {q src : Nat} {t : Transfer} (h : s.nextSegment q = some (src, t)) :
    src < 5 ∧ s.xferActive t = true := by
  obtain ⟨i, -, hi⟩ := firstSome_eq_some h
  obtain ⟨t', ht, he⟩ := Option.map_eq_some_iff.mp hi
  obtain ⟨rfl, rfl⟩ := Prod.mk.inj he
  exact ⟨Nat.mod_lt _ (by decide), State.nextOf_active ht⟩

theorem State.xferActive_idle {s : State} {t : Transfer} (h : t.phase ≠ .moving ∨ t.paused = true ∨ t.host = 1 ∨ t.sent = true ∨
    t.checked = false ∨ t.kind.stream = true) : s.xferActive t = false := by
  rcases h with h | h | h | h | h | h <;> simp [State.xferActive, h]

theorem exec_transferSegment_none {q : Nat} {s : State} (h : s.nextSegment q = none) : exec (.transferSegment q) s = .next s := by
  rw [exec_transferSegment, execTransferSegment, h]

section
variable {q src : Nat} {t : Transfer} {s u : State} (h : s.nextSegment q = some (src, t))
  (hu : u = (s.ensureTiles t).modQuad q (fun x => { x with rot := (src + 1) % 5 }))
include h hu

/-- Making its registers resident can leave a transfer with a fill to wait for: the turn goes on without it. -/
theorem exec_transferSegment_waits (ha : u.xferActive t = false) : exec (.transferSegment q) s = .next u := by
  subst hu
  simp only [exec_transferSegment, execTransferSegment, h, ha, Bool.not_false, if_true]

theorem exec_transferSegment_moves (ha : u.xferActive t = true) {m : Moving} (hm : m = Moving.step { s := u, t := t }) :
    exec (.transferSegment q) s = .next (m.s.modTransfer t.id (fun _ => m.t)) := by
  subst hu hm
  simp only [exec_transferSegment, execTransferSegment, h, ha, Bool.not_true, Bool.false_eq_true, if_false]

end

/-! ## The port queue (R205) -/

section
variable {q : Nat} {s : State}

theorem exec_portRequest_none (h : firstSome (fun id => (s.transfer id).filter (fun t => !t.checked && t.phase == .moving))
    ((s.quad q).portq.take 64) = none) : exec (.portRequest q) s = .next s := by
  rw [exec_portRequest, execPortRequest, h]

theorem exec_portRequest_checks {t : Transfer} (h : firstSome (fun id => (s.transfer id).filter (fun t => !t.checked && t.phase == .moving))
    ((s.quad q).portq.take 64) = some t) :
    exec (.portRequest q) s = .next (s.modTransfer t.id (fun t => if s.portOk t then { t with checked := true }
      else { t with checked := true, phase := .finished, status := xsRefused })) := by
  rw [exec_portRequest, execPortRequest, h]

end

/-! ## Completion (R403) -/

/-- The flags of a finished transfer join those of its hart's slot, and the tiles that it wrote whole are clean (R289, R455). -/
def State.flagged (s : State) (t : Transfer) : State := (s.ownFlags (s.ownerOf t.hart t.slot t.ctx t.task) t.flags).cleanTiles t

/-- A transfer whose token or barrier has been served is done, and registers that were to leave do (R175). -/
def State.retireTransfer (s : State) (id : Nat) (t : Transfer) : State :=
  t.members.foldl (fun s m => t.tiles.foldl (fun s r => s.settleTile m.2 r) s)
    ((s.modQuad t.target (fun q => { q with portq := q.portq.filter (· != id) })).modTransfer id
      (fun t => { t with phase := .done, held := [], net := none, paused := false }))

theorem exec_transferComplete_unknown {id : Nat} {s : State} (h : s.transfer id = none) : exec (.transferComplete id) s = .next s := by
  rw [exec_transferComplete, execTransferComplete, State.completeTransfer, h]

section
variable {id : Nat} {s : State} {t : Transfer} (h : s.transfer id = some t)
include h

theorem exec_transferComplete_unfinished (hp : t.phase ≠ .finished) : exec (.transferComplete id) s = .next s := by
  simp [exec_transferComplete, execTransferComplete, State.completeTransfer, h, hp]

theorem exec_transferComplete_finished (hp : t.phase = .finished) : exec (.transferComplete id) s =
    .next ((if t.kind = .copyb then (s.flagged t).addBarriers t
      else (s.flagged t).ownToken (s.ownerOf t.hart t.slot t.ctx t.task) t.reg t.status t.clk).retireTransfer id t) := by
  have hne : ¬(t.phase != .finished) = true := by simp [hp]
  simp only [exec_transferComplete, execTransferComplete, State.completeTransfer, h, hne, Bool.false_eq_true, if_false]
  rfl

end

/-! ## Subscriptions start (R420) -/

section
variable {id : Nat} {s : State}

theorem exec_stream_unknown (h : s.transfer id = none) : exec (.streamTransferStart id) s = .next s ∧
    exec (.streamSlotFill id) s = .next s ∧ exec (.streamSlotDrain id) s = .next s := by
  rw [exec_streamTransferStart, exec_streamSlotFill, exec_streamSlotDrain, execStreamTransferStart, execStreamSlotFill,
    execStreamSlotDrain, h]
  exact ⟨rfl, rfl, rfl⟩

section
variable {t : Transfer} (h : s.transfer id = some t)
include h

section
variable {ahead : Bool} (ha : ahead = s.allTransfers.any (fun o =>
    decide (o.id < id) && o.phase == .queued && o.ladles.any t.ladles.contains && s.streamRoom o))
include ha

theorem exec_streamTransferStart_starts (hp : t.phase = .queued) (hr : s.streamRoom t = true) (hn : ahead = false) :
    exec (.streamTransferStart id) s = .next (s.modTransfer id (fun t => { t with phase := .moving })) := by
  simp only [exec_streamTransferStart, execStreamTransferStart, h, ← ha]
  rw [if_pos (by simp [hp, hr, hn])]

theorem exec_streamTransferStart_waits (hn : t.phase ≠ .queued ∨ s.streamRoom t = false ∨ ahead = true) :
    exec (.streamTransferStart id) s = .next s := by
  simp only [exec_streamTransferStart, execStreamTransferStart, h, ← ha]
  rw [if_neg (by rcases hn with hn | hn | hn <;> simp [hn])]

end

/-! ## The slot of a subscription or a drain (R420) -/

theorem exec_streamSlotFill_idle (hn : t.kind ≠ .ldsub ∨ t.phase ≠ .moving) : exec (.streamSlotFill id) s = .next s := by
  simp only [exec_streamSlotFill, execStreamSlotFill, h]
  rw [if_pos (by simpa using hn)]

theorem exec_streamSlotDrain_idle (hn : t.kind ≠ .lddrn ∨ t.phase ≠ .moving) : exec (.streamSlotDrain id) s = .next s := by
  simp only [exec_streamSlotDrain, execStreamSlotDrain, h]
  rw [if_pos (by simpa using hn)]

section
variable (hp : t.phase = .moving)
include hp

theorem exec_streamSlotFill_fills (hk : t.kind = .ldsub) (hu : t.use = none) :
    exec (.streamSlotFill id) s = .next (s.fillSlot t) := by
  simp [exec_streamSlotFill, execStreamSlotFill, h, hp, hk, hu]

theorem exec_streamSlotFill_publishes (hk : t.kind = .ldsub) {u : SlotUse} (hu : t.use = some u) :
    exec (.streamSlotFill id) s = .next (s.publishSlot t u) := by
  simp [exec_streamSlotFill, execStreamSlotFill, h, hp, hk, hu]

theorem exec_streamSlotDrain_drains (hk : t.kind = .lddrn) (hu : t.use = none) :
    exec (.streamSlotDrain id) s = .next (s.drainSlot t) := by
  simp [exec_streamSlotDrain, execStreamSlotDrain, h, hp, hk, hu]

theorem exec_streamSlotDrain_frees (hk : t.kind = .lddrn) {u : SlotUse} (hu : t.use = some u) :
    exec (.streamSlotDrain id) s = .next (s.freeSlot t u) := by
  simp [exec_streamSlotDrain, execStreamSlotDrain, h, hp, hk, hu]

end

end

end

/-! ### What filling and draining meet, in their order -/

theorem State.not_held_at_start {s : State} {t : Transfer} (hb : t.pos = 0 → s.heldBack t = false) :
    (t.pos = 0 && s.heldBack t) = false := by
  simpa using hb

section
variable {s : State} {t : Transfer}

theorem State.fillSlot_unreachable {st : Nat} (h : s.ringStatus t [t.ring.unit] = some st) : s.fillSlot t = s.failStream t st := by
  simp only [State.fillSlot, h]

theorem State.drainSlot_unreachable {st : Nat} (h : s.ringStatus t [t.ring.unit] = some st) : s.drainSlot t = s.failStream t st := by
  simp only [State.drainSlot, h]

section
variable (h : s.ringStatus t [t.ring.unit] = none)
include h

theorem State.fillSlot_complete (hp : t.region.count ≤ t.pos) (hd : t.desc.getLsbD 8 = false) : s.fillSlot t = s.endTransfer t.id 0 := by
  rw [State.fillSlot, h]
  exact (if_pos hp).trans (if_neg (ne_true_of_eq_false hd))

theorem State.drainSlot_complete (hp : t.region.count ≤ t.pos) : s.drainSlot t = s.endTransfer t.id 0 := by
  simp only [State.drainSlot, h, hp, if_true, xsOk]

section
variable (hp : t.pos < t.region.count)
include hp

theorem State.fillSlot_after_end (he : (s.ring t.ring.at_).eos = true) : s.fillSlot t = s.endTransfer t.id 8 := by
  rw [State.fillSlot, h]
  exact (if_neg (Nat.not_le.mpr hp)).trans (if_pos he)

theorem State.fillSlot_waits (he : (s.ring t.ring.at_).eos = false) (ha : s.ringAcquire t.ring.at_ t.clk = none) : s.fillSlot t = s := by
  simp only [State.fillSlot, h, Nat.not_le.mpr hp, he, ha, Bool.false_eq_true, if_false]

theorem State.drainSlot_held (h0 : t.pos = 0) (hb : s.heldBack t = true) : s.drainSlot t = s := by
  simp only [State.drainSlot, h, Nat.not_le.mpr hp, if_false, hb]
  exact if_pos (by simp [h0])

section
variable (hb : t.pos = 0 → s.heldBack t = false)
include hb

theorem State.drainSlot_empty (hk : s.ringTake t.ring.at_ t.clk = none) :
    s.drainSlot t = if (s.ring t.ring.at_).ended then s.endTransfer t.id 0 else s := by
  simp only [State.drainSlot, h, Nat.not_le.mpr hp, if_false, State.not_held_at_start hb, Bool.false_eq_true, hk, xsOk]

theorem State.drainSlot_slot_unreachable {x : Nat × Nat × Nat × State} {st : Nat} (hk : s.ringTake t.ring.at_ t.clk = some x)
    (hs : s.ringStatus t (slotUnits t.ring.at_ ((s.ring t.ring.at_).take % t.ring.at_.count)) = some st) :
    s.drainSlot t = s.failStream t st := by
  simp only [State.drainSlot, h, Nat.not_le.mpr hp, if_false, State.not_held_at_start hb, Bool.false_eq_true, hk, hs]

end

end

end

end

/-! ## The statement -/

/-- Settles O49: segments, the port queue and completion; then the start of a subscription, and what its slots, and those of a drain,
meet. -/
theorem copyEngine : Obligations.CopyEngine := by
  unfold Obligations.CopyEngine
  refine ⟨⟨fun q s => exec_transferSegment_none, fun q src t s u m h hu => ⟨exec_transferSegment_waits h hu,
        fun ha => exec_transferSegment_moves h hu ha⟩,
      fun q src t s => State.nextSegment_inv, fun t s => State.xferActive_idle,
      fun q s => ⟨exec_portRequest_none, fun t => exec_portRequest_checks⟩,
      fun id s => ⟨exec_transferComplete_unknown, fun t h => ⟨exec_transferComplete_unfinished h, fun hp hk o u ho hu => ?_,
        fun hp hk o u ho hu => ?_⟩⟩⟩,
    ⟨fun id t s ahead h ha => ⟨exec_streamTransferStart_starts h ha, exec_streamTransferStart_waits h ha⟩, fun id s => exec_stream_unknown,
      fun id t s h => ⟨exec_streamSlotFill_idle h,
        fun hk hp => ⟨exec_streamSlotFill_fills h hp hk, fun u => exec_streamSlotFill_publishes h hp hk⟩,
        exec_streamSlotDrain_idle h,
        fun hk hp => ⟨exec_streamSlotDrain_drains h hp hk, fun u => exec_streamSlotDrain_frees h hp hk⟩⟩,
      fun t s st h => ⟨State.fillSlot_unreachable h, State.drainSlot_unreachable h⟩,
      fun t s h => ⟨State.fillSlot_after_end h, State.fillSlot_waits h, State.fillSlot_complete h, State.drainSlot_complete h,
        State.drainSlot_held h, fun hp hb => ⟨State.drainSlot_empty h hp hb, fun st i pub tm u => State.drainSlot_slot_unreachable h hp hb⟩⟩⟩⟩
  · subst hu ho
    rw [exec_transferComplete_finished h hp, if_neg hk]
    rfl
  · subst hu ho
    rw [exec_transferComplete_finished h hp, if_pos hk]
    rfl

end Sys2Proof.Machine
end

section
/-! PROOF of what a home does with a request (R216, R235 to R241, R251, R254): what every request meets before it is served, in the order
of the checks; then how each kind of request is served. -/

namespace Sys2Proof.Machine

/-! ## A sender that was declared dead (R254) -/

section
variable {s : State} {src inc : Nat} (id line : Nat)

theorem State.staleMsg_current (h : s.incOf src = inc) : s.staleMsg id src inc line = none := if_pos h

theorem State.staleMsg_dead (h : s.incOf src ≠ inc) :
    s.staleMsg id src inc line = some ((s.dropMsg id).audit 0x0031 0xF000 0 (payload3 src inc line)) := if_neg h

end

/-! ## What every request meets (R216, R239, R254) -/

theorem State.fillDead_proxy {home : Nat} (s : State) (line : Nat) (h : isProxy home = true) : s.fillDead home line = none :=
  if_pos (by simp [h])

/-- The home must fetch the line first: it does not hold it, or it is a proxy that must own it to write and does not (R249). -/
def State.mustFetch (s : State) (home line : Nat) (write : Bool) : Bool :=
  !(s.home home).holds (lineNo line) || (isProxy home && write && !((s.home home).line (lineNo line)).hostOwned)

section
variable {s : State} {home line : Nat} {write : Bool}

theorem State.mustFetch_of_missing (h : (s.home home).holds (lineNo line) = false) : s.mustFetch home line write = true := by
  simp [State.mustFetch, h]

theorem State.mustFetch_of_unowned (hp : isProxy home = true) (hw : write = true)
    (ho : ((s.home home).line (lineNo line)).hostOwned = false) : s.mustFetch home line write = true := by
  simp [State.mustFetch, hp, hw, ho]

theorem State.mustFetch_eq_false (h : (s.home home).holds (lineNo line) = true)
    (ho : isProxy home = true → write = true → ((s.home home).line (lineNo line)).hostOwned = true) :
    s.mustFetch home line write = false := by
  simpa [State.mustFetch, h] using ho

end

section
variable {s : State} {id src inc home line asid : Nat} {write : Bool} {except : Option Nat} {serve : State → State}

theorem State.atHome_dead (h : s.incOf src ≠ inc) : s.atHome id src inc home line asid write except serve =
    (s.dropMsg id).audit 0x0031 0xF000 0 (payload3 src inc line) := by
  rw [State.atHome, State.staleMsg_dead id line h]

section
variable (hi : s.incOf src = inc)
include hi

theorem State.atHome_blocked (hb : s.blocked id src home line = true) : s.atHome id src inc home line asid write except serve = s := by
  rw [State.atHome, State.staleMsg_current id line hi]
  exact if_pos hb

section
variable (hb : s.blocked id src home line = false)
include hb

section
variable (hl : s.mustFetch home line write = true)
include hl

theorem State.atHome_linkDown {target : Nat} {m : Msg} (hd : s.fillDead home line = some target) (hm : s.msg id = some m) :
    s.atHome id src inc home line asid write except serve = s.failRequest id m failDeadlink target false := by
  rw [State.mustFetch] at hl
  simp only [State.atHome, State.staleMsg_current id line hi, hb, hl, hd, hm, Bool.false_eq_true, if_false, if_true]

theorem State.atHome_fetches (hd : s.fillDead home line = none) : s.atHome id src inc home line asid write except serve =
    if s.msgs.any (fun m => m.2.isFillOf home line) then s
    else if isProxy home then s.send (.hostFetch home line write) else s.send (.fill src home line asid) := by
  rw [State.mustFetch] at hl
  simp only [State.atHome, State.staleMsg_current id line hi, hb, hl, hd, Bool.false_eq_true, if_false, if_true]

end

section
variable (hl : s.mustFetch home line write = false)
include hl

theorem State.atHome_unowned (ho : (s.home home).owner (lineNo line) = none) :
    s.atHome id src inc home line asid write except serve = serve s := by
  rw [State.mustFetch] at hl
  rw [Home.owner] at ho
  simp only [State.atHome, State.staleMsg_current id line hi, hb, hl, ho, Bool.false_eq_true, if_false]

section
variable {o oi : Nat} (ho : (s.home home).owner (lineNo line) = some (o, oi))
include ho

theorem State.atHome_excepted (he : some o = except) : s.atHome id src inc home line asid write except serve = serve s := by
  rw [State.mustFetch] at hl
  rw [Home.owner] at ho
  simp only [State.atHome, State.staleMsg_current id line hi, hb, hl, ho, he, Bool.false_eq_true, if_false, if_true]

theorem State.atHome_recalls (he : some o ≠ except) : s.atHome id src inc home line asid write except serve =
    if s.msgs.any (fun m => m.2.isRecallOf home line || m.2.returns home line) then s else s.send (.recallMsg home line o oi) := by
  rw [State.mustFetch] at hl
  rw [Home.owner] at ho
  simp only [State.atHome, State.staleMsg_current id line hi, hb, hl, ho, he, Bool.false_eq_true, if_false]

end

end

end

end

end

/-! ## How a request is served -/

theorem exec_homeRequest_unknown {s : State} {m : Nat} (h : s.msg m = none) : exec (.homeRead m) s = .next s ∧
    exec (.homeOwn m) s = .next s ∧ exec (.homeWrite m) s = .next s ∧ exec (.homeEngineRead m) s = .next s := by
  simp only [exec_homeRead, exec_homeOwn, exec_homeWrite, exec_homeEngineRead, execHomeRead, execHomeOwn, execHomeWrite,
    execHomeEngineRead, State.homeRead, State.homeOwn, State.homeWrite, State.homeEngineRead, h, and_self]

section
variable {s : State} {m src inc home line addr size p t0 lease mark asid : Nat} {serve : State → State}

/-! ### Reads (R236, R247) -/

/-- A read that is not a renewal, or not a marked one, is answered at once. -/
theorem exec_homeRead_answers {w : Option Nat} (h : s.msg m = some (.read src inc home line p w lease mark asid))
    (hn : mark ≠ 1 ∨ w = none) : exec (.homeRead m) s = .next (s.atHome m src inc home line asid false none
      (fun u => (u.dropMsg m).answerRead src home line p w lease (mark != 0) asid)) := by
  rw [exec_homeRead, execHomeRead, State.homeRead, h]
  cases w with
  | none => rfl
  | some v =>
    have hmark : mark ≠ 1 := hn.resolve_right (Option.some_ne_none v)
    simp [hmark]

/-- A marked renewal is held at a slice whose granule has the `wts` it names, while there is room; else it is answered. -/
theorem exec_homeRead_marked {v : Nat} (h : s.msg m = some (.read src inc home line p (some v) lease 1 asid))
    (hholds : ∀ u : State, isProxy home = false → (((u.dropMsg m).home home).granule false line).wts = v →
      ((u.dropMsg m).home home).held.length < 32 → serve u = (u.dropMsg m).modHome home (fun x =>
        { x with held := x.held ++ [{ hart := src, inc := inc, line := line, pts := p, w := v, lease := lease, asid := asid }] }))
    (hanswers : ∀ u : State, (isProxy home = true ∨ (((u.dropMsg m).home home).granule false line).wts ≠ v ∨
      32 ≤ ((u.dropMsg m).home home).held.length) → serve u = (u.dropMsg m).answerRead src home line p (some v) lease true asid) :
    exec (.homeRead m) s = .next (s.atHome m src inc home line asid false none serve) := by
  simp only [exec_homeRead, execHomeRead, State.homeRead, h]
  refine congrArg (fun f => Host.Outcome.next (s.atHome m src inc home line asid false none f)) (funext fun u => ?_)
  split
  next hc =>
    simp only [decide_true, Bool.true_and, Bool.and_eq_true, Bool.not_eq_true', decide_eq_true_eq] at hc
    obtain ⟨⟨hslice, hwts⟩, hroom⟩ := hc
    rw [hslice] at hwts
    exact (hholds u hslice hwts hroom).symm
  next hc =>
    refine (hanswers u ?_).symm
    by_contra hn
    push Not at hn
    obtain ⟨hslice, hwts, hroom⟩ := hn
    have hslice : isProxy home = false := Bool.eq_false_iff.mpr hslice
    exact hc (by simp [hslice, hwts, hroom])

theorem State.answerRead_grant {w : Option Nat} {marked : Bool} {hm : Home} {wts grant : Nat}
    (h : (s.home home).read (isProxy home) line p lease = (hm, wts, grant)) :
    s.answerRead src home line p w lease marked asid = (s.setHome home hm).send (.readReply src home line wts grant
      (if w = some wts then none else some (s.readLine line)) ((if w = some wts then none else some (s.readLine line)).isSome && s.poisoned line)
      (if isProxy home then .hostC else .hbm) marked asid) := by
  simp only [State.answerRead, h]
  rfl

/-! ### Ownership, posted stores, and an LR (R238, R240, R241) -/

theorem exec_homeOwn_grants {w : Option Nat} (h : s.msg m = some (.own src inc home line p w asid))
    (hs : ∀ (u : State) (hm : Home) (wts rts : Nat), ((u.dropMsg m).home home).own (isProxy home) line src inc asid = (hm, wts, rts) →
      serve u = (((u.dropMsg m).setHome home hm).send (.ownReply src home line wts rts
        (if w = some wts then none else some (((u.dropMsg m).setHome home hm).readLine line)) (((u.dropMsg m).setHome home hm).poisoned line)
        (if isProxy home then .hostC else .hbm) asid)).answerHeld home (fun x => x.line == line)) :
    exec (.homeOwn m) s = .next (s.atHome m src inc home line asid true (some src) serve) := by
  rw [exec_homeOwn, execHomeOwn, State.homeOwn, h]
  exact congrArg (fun f => Host.Outcome.next (s.atHome m src inc home line asid true (some src) f)) (funext fun u => (hs u _ _ _ rfl).symm)

theorem exec_homeWrite_stores {mask : BitVec 64} {d : Line} (h : s.msg m = some (.write src inc home line mask d t0 asid))
    (hs : ∀ (u v : State) (hm : Home) (t : Nat), ((u.dropMsg m).home home).write (isProxy home) line t0 = (hm, t) →
      v = ((((u.dropMsg m).setHome home hm).putLine line mask d).wakeHeld home) →
      serve u = v.send (.ack src home line t (v.readLine line) (v.poisoned line))) :
    exec (.homeWrite m) s = .next (s.atHome m src inc home line asid true none serve) := by
  rw [exec_homeWrite, execHomeWrite, State.homeWrite, h]
  exact congrArg (fun f => Host.Outcome.next (s.atHome m src inc home line asid true none f)) (funext fun u => (hs u _ _ _ rfl rfl).symm)

theorem exec_homeEngineRead_reads (h : s.msg m = some (.lrRead src inc home addr size t0 asid))
    (hs : ∀ (u : State) (hm : Home) (t : Nat), ((u.dropMsg m).home home).engineRead (isProxy home) (addr / 64 * 64) t0 = (hm, t) →
      serve u = ((u.dropMsg m).setHome home hm).modHart src (·.remoteDone (((u.dropMsg m).setHome home hm).readNat addr size) (some t)
        (if ((u.dropMsg m).setHome home hm).poisoned (addr / 64 * 64) then some 29 else none))) :
    exec (.homeEngineRead m) s = .next (s.atHome m src inc home (addr / 64 * 64) asid false none serve) := by
  rw [exec_homeEngineRead, execHomeEngineRead, State.homeEngineRead, h]
  exact congrArg (fun f => Host.Outcome.next (s.atHome m src inc home (addr / 64 * 64) asid false none f))
    (funext fun u => (hs u _ _ rfl).symm)

/-! ### An AMO at its home (R230, R240, R241) -/

section
variable {v cmp : Nat} {op : AmoOp}

/-- A home performs an AMO: on a poisoned line it is a read that traps, and when it writes nothing it is a read. -/
def State.serveAmo (m src home addr size : Nat) (op : AmoOp) (v cmp t0 : Nat) (u : State) : State :=
  let w := u.dropMsg m
  let line := addr / 64 * 64
  let read := (w.home home).engineRead (isProxy home) line t0
  if w.poisoned line then (w.setHome home read.1).modHart src (·.remoteDone 0 (some read.2) (some 29))
  else
    let old := w.readNat addr size
    let result := amoResult op size old v cmp
    if result.2 then
      let written := (w.home home).write (isProxy home) line t0
      (((w.setHome home written.1).writeNat addr size result.1).wakeHeld home).modHart src (·.remoteDone old (some written.2) none)
    else (w.setHome home read.1).modHart src (·.remoteDone old (some read.2) none)

theorem exec_homeWrite_amo (h : s.msg m = some (.amo src inc home addr size op v cmp t0 asid)) :
    exec (.homeWrite m) s = .next (s.atHome m src inc home (addr / 64 * 64) asid true none
      (State.serveAmo m src home addr size op v cmp t0)) := by
  rw [exec_homeWrite, execHomeWrite, State.homeWrite, h]
  rfl

section
variable {u w : State} {hm : Home} {t new : Nat} (hw : w = u.dropMsg m)
include hw

theorem State.serveAmo_poisoned (hp : w.poisoned (addr / 64 * 64) = true)
    (hr : (w.home home).engineRead (isProxy home) (addr / 64 * 64) t0 = (hm, t)) :
    State.serveAmo m src home addr size op v cmp t0 u = (w.setHome home hm).modHart src (·.remoteDone 0 (some t) (some 29)) := by
  subst hw
  simp only [State.serveAmo, hp, hr, if_true]

section
variable (hp : w.poisoned (addr / 64 * 64) = false)
include hp

theorem State.serveAmo_reads (ha : amoResult op size (w.readNat addr size) v cmp = (new, false))
    (hr : (w.home home).engineRead (isProxy home) (addr / 64 * 64) t0 = (hm, t)) :
    State.serveAmo m src home addr size op v cmp t0 u =
      (w.setHome home hm).modHart src (·.remoteDone (w.readNat addr size) (some t) none) := by
  subst hw
  simp only [State.serveAmo, hp, ha, hr, Bool.false_eq_true, if_false]

theorem State.serveAmo_writes (ha : amoResult op size (w.readNat addr size) v cmp = (new, true))
    (hr : (w.home home).write (isProxy home) (addr / 64 * 64) t0 = (hm, t)) :
    State.serveAmo m src home addr size op v cmp t0 u = (((w.setHome home hm).writeNat addr size new).wakeHeld home).modHart src
      (·.remoteDone (w.readNat addr size) (some t) none) := by
  subst hw
  simp only [State.serveAmo, hp, ha, hr, Bool.false_eq_true, if_false, if_true]

end

end

end

end

/-! ## The statement -/

/-- Settles O43: what every request meets, in the order of the checks, then each request by its kind. -/
theorem homeRequests : Obligations.HomeRequests := by
  unfold Obligations.HomeRequests
  refine ⟨fun s id src inc home line asid write except serve => ⟨State.atHome_dead, fun hi => ⟨State.atHome_blocked hi,
      fun hb => ⟨fun hslice hmiss => ⟨fun hd => ?fill, fun _ _ => State.atHome_linkDown hi hb (State.mustFetch_of_missing hmiss)⟩,
        fun hproxy hlacks => ?hostFetch, fun hh ho => ⟨State.atHome_unowned hi hb (State.mustFetch_eq_false hh ho),
          fun o oi howner => ⟨State.atHome_excepted hi hb (State.mustFetch_eq_false hh ho) howner,
            State.atHome_recalls hi hb (State.mustFetch_eq_false hh ho) howner⟩⟩⟩⟩⟩,
    fun s m => exec_homeRequest_unknown, fun _ _ _ _ _ _ _ _ _ _ _ => exec_homeRead_answers,
    fun _ _ _ _ _ _ _ _ _ _ h serve hs => exec_homeRead_marked h (fun u => (hs u).1) (fun u => (hs u).2),
    fun _ _ _ _ _ _ _ _ _ _ _ _ => State.answerRead_grant, fun _ _ _ _ _ _ _ _ _ h _ => exec_homeOwn_grants h,
    fun _ _ _ _ _ _ _ _ _ _ h _ => exec_homeWrite_stores h,
    fun s m src inc home addr size v cmp t0 asid op h hm t new u hu hi hb hh ho hn hp ha hr => ?amoWrites,
    fun s m src inc home addr size v cmp t0 asid op h serve hs => ?amo, fun _ _ _ _ _ _ _ _ _ h _ => exec_homeEngineRead_reads h⟩
  case fill =>
    rw [State.atHome_fetches hi hb (State.mustFetch_of_missing hmiss) hd, hslice]
    rfl
  case hostFetch =>
    have hfetch : s.mustFetch home line write = true :=
      hlacks.elim State.mustFetch_of_missing fun ⟨hw, ho⟩ => State.mustFetch_of_unowned hproxy hw ho
    rw [State.atHome_fetches hi hb hfetch (s.fillDead_proxy line hproxy), if_pos hproxy]
  case amoWrites =>
    rw [exec_homeWrite_amo h, State.atHome_unowned hi hb (State.mustFetch_eq_false hh fun hproxy _ => ho hproxy) hn,
      State.serveAmo_writes hu hp ha hr]
  case amo =>
    have hserve : serve = State.serveAmo m src home addr size op v cmp t0 := by
      funext u
      cases hp : (u.dropMsg m).poisoned (addr / 64 * 64) with
      | true => rw [State.serveAmo_poisoned rfl hp rfl, (hs u _ _ _ 0 rfl).1 hp rfl]
      | false =>
        rcases ha : amoResult op size ((u.dropMsg m).readNat addr size) v cmp with ⟨new, _ | _⟩
        case false => rw [State.serveAmo_reads rfl hp ha rfl, (hs u _ _ _ new rfl).2.1 hp ha rfl]
        case true => rw [State.serveAmo_writes rfl hp ha rfl, (hs u _ _ _ new rfl).2.2 hp ha rfl]
    rw [exec_homeWrite_amo h, hserve]

end Sys2Proof.Machine
end

section
/-! PROOF of what arrives at a hart or at a home (R216, R237 to R240, R244, R247, R249): fills and the room they need, recalls, returns and
evictions, the answers a hart takes, acknowledgements, then the events whose time is over. -/

namespace Sys2Proof

/-- A choice by a remainder is one of the elements chosen among. -/
theorem getD_mod_mem {α : Type} (c : α) (cs : List α) (n : Nat) : (c :: cs).getD (n % (cs.length + 1)) c ∈ c :: cs := by
  have hlt : n % (cs.length + 1) < (c :: cs).length := Nat.mod_lt _ (Nat.succ_pos _)
  rw [List.getD_eq_getElem _ _ hlt]
  exact List.getElem_mem hlt

end Sys2Proof

namespace Sys2Proof.Machine

/-! ## Room for a line at its home (R206, R216, log 103) -/

section
variable {s : State} {home line : Nat}

theorem State.makeRoom_enough (h : (s.home home).holds (lineNo line) = true ∨ (s.home home).rivals (isProxy home) (lineNo line) = []) :
    s.makeRoom home line = (false, s) := by
  rw [State.makeRoom]
  split
  next => rfl
  next hh => rw [h.resolve_left hh]

theorem State.makeRoom_leaves (hh : (s.home home).holds (lineNo line) = false)
    (hr : (s.home home).rivals (isProxy home) (lineNo line) ≠ []) :
    ∃ v ∈ (s.home home).rivals (isProxy home) (lineNo line), ∃ u : State, u = s.fresh64.2.recallNow home (64 * v) ∧
      s.makeRoom home line = (((u.home home).line v).dirty, u.modHome home (·.dropLine (isProxy home) v)) := by
  obtain ⟨n, ns, hn⟩ := List.exists_cons_of_ne_nil hr
  refine ⟨_, hn ▸ getD_mod_mem n ns s.fresh64.1.toNat, _, rfl, ?_⟩
  simp only [State.makeRoom, hh, hn, Bool.false_eq_true, if_false]

/-! ## Fills and fetches (R35, R216, R249) -/

section
variable {m src asid : Nat} (h : s.msg m = some (.fill src home line asid))
include h

theorem exec_l2MissFill_dead (hd : (s.fillDead home line).isSome = true) : exec (.l2MissFill m) s = .next (s.dropMsg m) := by
  simp only [exec_l2MissFill, execL2MissFill, State.l2Fill, h, hd, if_true]

theorem exec_l2MissFill_fills {back : Bool} {u : State} (hd : s.fillDead home line = none)
    (hr : (s.dropMsg m).makeRoom home line = (back, u)) : exec (.l2MissFill m) s =
      .next (((u.modHome home (·.addLine false line asid false)).wakeHeld home).countFill src back) := by
  simp only [exec_l2MissFill, execL2MissFill, State.l2Fill, h, hd, hr, Option.isSome_none, Bool.false_eq_true, if_false]

end

end

section
variable {s : State} {port line : Nat}

theorem exec_hostLineFetch_enters {id : Nat} {owned : Bool} (h : s.fetchOf (0x3000 + port) line = some (id, owned)) :
    exec (.hostLineFetch port line) s = .next ((((s.dropMsg id).makeRoom (0x3000 + port) line).2).modHome (0x3000 + port)
      (·.addLine true line 0 owned)) := by
  simp only [exec_hostLineFetch, execHostLineFetch, State.hostLineFetch, h]

theorem exec_hostLineFetch_none (h : s.fetchOf (0x3000 + port) line = none) : exec (.hostLineFetch port line) s = .next s := by
  simp only [exec_hostLineFetch, execHostLineFetch, State.hostLineFetch, h]

end

/-! ## A recall at the owner (R239, R245) -/

section
variable {h : Hart} {key : Nat} (hw : h.headWants key = false) (ha : h.amoWants key = none)
include hw ha

/-- An owner with nothing to perform first surrenders its copy as it is. -/
theorem Hart.storeFirst_idle : h.storeFirst key = h := by
  rw [Hart.storeFirst]
  split
  next => rfl
  next => simp only [hw, ha, Bool.false_eq_true, if_false, ite_self]

section
variable {l : L1Line} (hl : h.l1At key = some l)
include hl

theorem Hart.surrender_owned (ho : l.st = .owned) :
    h.surrender key = ((h.unreserve key).putL1 key { l with st := .shared, dirty := false }, some l) := by
  simp only [Hart.surrender, Hart.storeFirst_idle hw ha, hl, ho, if_true]

theorem Hart.surrender_unowned (ho : l.st ≠ .owned) : h.surrender key = (h, none) := by
  simp only [Hart.surrender, Hart.storeFirst_idle hw ha, hl, ho, if_false]

end

end

/-- A recall waits at the owner: a grant of the line is on its way to it, or the time of the store or AMO that it performs first does
not fit the die's base. -/
def State.recallWaits (s : State) (home line o : Nat) : Bool :=
  s.msgs.any (fun m => m.2.grants o home line)
    || ((s.hart o).headWants (l1Key (lineNo line) home) || ((s.hart o).amoWants (l1Key (lineNo line) home)).isSome)
      && !s.fits (dieOf o) ((s.hart o).storeTime (l1Key (lineNo line) home))

section
variable {s : State} {m home line o oi : Nat} (hm : s.msg m = some (.recallMsg home line o oi))
include hm

theorem exec_recallArrive_waits (hg : s.recallWaits home line o = true) : exec (.recallArrive m) s = .next s := by
  simp only [exec_recallArrive, execRecall, State.recallEvent, hm]
  rcases Bool.or_eq_true _ _ ▸ hg with hgrant | htime
  · rw [if_pos hgrant]
  · rw [if_pos htime, ite_self]

section
variable {h : Hart} (hg : s.recallWaits home line o = false)
include hg

theorem exec_recallArrive_none (hs : (s.hart o).surrender (l1Key (lineNo line) home) = (h, none)) :
    exec (.recallArrive m) s = .next (s.dropMsg m) := by
  obtain ⟨hgrant, htime⟩ := (Bool.or_eq_false_iff ..).mp hg
  simp only [exec_recallArrive, execRecall, State.recallEvent, hm, hgrant, htime, hs, Bool.false_eq_true, if_false]

theorem exec_recallArrive_replies {x : L1Line} (hs : (s.hart o).surrender (l1Key (lineNo line) home) = (h, some x)) :
    exec (.recallArrive m) s = .next (((s.dropMsg m).setHart o h).send
      (.recallReply o oi home line x.wts x.rts (if x.dirty then some x.data else none) x.poison)) := by
  obtain ⟨hgrant, htime⟩ := (Bool.or_eq_false_iff ..).mp hg
  simp only [exec_recallArrive, execRecall, State.recallEvent, hm, hgrant, htime, hs, Bool.false_eq_true, if_false]

end

end

/-! ## An owned line returns (R237, R239, R254) -/

section
variable {s : State} {m o oi home line w r : Nat} {d : Option Line} {p : Bool}
  (h : s.msg m = some (.recallReply o oi home line w r d p) ∨ s.msg m = some (.evict o oi home line w r d p))
include h

theorem exec_recallReply_applies (hi : s.incOf o = oi) :
    exec (.recallReply m) s = .next (((s.dropMsg m).applyReturn home line w r d p).wakeHeld home) := by
  rcases h with h | h <;>
    simp only [exec_recallReply, execRecallReply, State.recallReplyEvent, h, State.takeReturn, State.staleMsg_current m line hi]

theorem exec_recallReply_dead (hi : s.incOf o ≠ oi) :
    exec (.recallReply m) s = .next (((s.dropMsg m).audit 0x0031 0xF000 0 (payload3 o oi line)).wakeHeld home) := by
  rcases h with h | h <;>
    simp only [exec_recallReply, execRecallReply, State.recallReplyEvent, h, State.takeReturn, State.staleMsg_dead m line hi]

end

/-! ## Evictions (R237) -/

section
variable {s : State} {h key : Nat}

theorem exec_ownedEviction_absent (hl : (s.hart h).l1At key = none) : exec (.ownedEviction h key) s = .next s := by
  simp only [exec_ownedEviction, execOwnedEviction, State.evictEvent, hl]

section
variable {l : L1Line} (hl : (s.hart h).l1At key = some l)
include hl

theorem exec_ownedEviction_shared (hst : l.st = .shared) :
    exec (.ownedEviction h key) s = .next (s.setHart h ((s.hart h).dropL1 key)) := by
  simp only [exec_ownedEviction, execOwnedEviction, State.evictEvent, hl, hst]

theorem exec_ownedEviction_pending (hst : l.st = .pending) : exec (.ownedEviction h key) s = .next s := by
  simp only [exec_ownedEviction, execOwnedEviction, State.evictEvent, hl, hst]

theorem exec_ownedEviction_owned (hst : l.st = .owned) :
    exec (.ownedEviction h key) s = .next ((s.setHart h (((s.hart h).unreserve key).dropL1 key)).send
      (.evict h (s.hart h).inc (key % 65536) (key / 65536 * 64) l.wts l.rts (if l.dirty then some l.data else none) l.poison)) := by
  simp only [exec_ownedEviction, execOwnedEviction, State.evictEvent, hl, hst]

end

end

/-! ## Room in an L1 (R206, R237, log 103) -/

section
variable {s : State} {h key : Nat}

theorem State.l1Room_enough (hr : ((s.hart h).l1At key).isSome = true ∨ ((s.hart h).l1Set key).length < 8) :
    s.l1Room h key = some s := if_pos (by simpa using hr)

section
variable (hn : (s.hart h).l1At key = none) (hf : 8 ≤ ((s.hart h).l1Set key).length)
include hn hf

theorem State.l1Room_pending (hp : ((s.hart h).l1Set key).all (fun l => l.2.st == .pending) = true) : s.l1Room h key = none := by
  have hnone : ((s.hart h).l1Set key).filter (fun l => l.2.st != .pending) = [] := by
    rw [List.filter_eq_nil_iff]
    intro l hl
    simpa using List.all_eq_true.mp hp l hl
  have hfull : ¬((s.hart h).l1Set key).length < 8 := Nat.not_lt.mpr hf
  simp only [State.l1Room, hn, hfull, hnone, Option.isSome_none, decide_false, Bool.or_self, Bool.false_eq_true, if_false]

theorem State.l1Room_evicts (hp : ((s.hart h).l1Set key).all (fun l => l.2.st == .pending) = false) :
    ∃ v ∈ (s.hart h).l1Set key, v.2.st ≠ .pending ∧ s.l1Room h key = some (s.fresh64.2.evictEvent h v.1) := by
  have hsome : ((s.hart h).l1Set key).filter (fun l => l.2.st != .pending) ≠ [] := by
    rw [Ne, List.filter_eq_nil_iff]
    intro hall
    refine ne_true_of_eq_false hp (List.all_eq_true.mpr fun l hl => ?_)
    simpa using hall l hl
  obtain ⟨c, cs, hc⟩ := List.exists_cons_of_ne_nil hsome
  have hmem := hc ▸ getD_mod_mem c cs s.fresh64.1.toNat
  obtain ⟨hset, hst⟩ := List.mem_filter.mp hmem
  have hfull : ¬((s.hart h).l1Set key).length < 8 := Nat.not_lt.mpr hf
  refine ⟨_, hset, by simpa using hst, ?_⟩
  simp only [State.l1Room, hn, hfull, hc, Option.isSome_none, decide_false, Bool.or_self, Bool.false_eq_true, if_false]

end

end

/-! ## A read's answer at the hart (R236, R240, R245, R247, log 104) -/

section
variable {h : Hart} {key wts rts n asid : Nat} {d : Line} {poison : Bool} {kind : PlaceKind}

theorem Hart.takeRead_kept {l : L1Line} (hl : h.l1At key = some l) (hst : l.st ≠ .shared) :
    h.takeRead key wts rts (some (d, n)) poison kind asid = h := by
  simp [Hart.takeRead, hl, hst]

theorem Hart.takeRead_copy (hl : ∀ l, h.l1At key = some l → l.st = .shared) :
    h.takeRead key wts rts (some (d, n)) poison kind asid = (h.raise wts).putL1 key
      { st := if n = 0 then .shared else .pending, kind := kind, wts := wts, rts := rts, data := d, poison := poison, asid := asid,
        unacked := n } := by
  have hshared : (h.l1At key).any (fun l => l.st != .shared) = false := by
    cases hk : h.l1At key with
    | none => rfl
    | some l => simp [hl l hk]
  rw [Hart.takeRead]
  exact if_neg (ne_true_of_eq_false hshared)

theorem Hart.takeRead_renewed {l : L1Line} (hl : h.l1At key = some l) (hst : l.st = .shared) :
    h.takeRead key wts rts none poison kind asid = (h.raise wts).putL1 key { l with wts := wts, rts := rts } := by
  simp only [Hart.takeRead, hl, hst, if_true]

end

section
variable {s : State} {m dst home line wts rts asid : Nat} {data : Option Line} {poison marked : Bool} {kind : PlaceKind}

/-- The hart waits for a read's answer about this line: for a renewal if it is marked, else for the line. -/
def Hart.awaits (h : Hart) (marked : Bool) (key : Nat) : Bool :=
  h.ld.any (fun p => p.kind == (if marked then .renew else .line) && p.key == key)

/-- What a hart waits for once a read's answer has come: LWAIT notes the answer to its marked renewal (R247). -/
def Hart.answered (h : Hart) (marked : Bool) (data : Option Line) : Option Pend :=
  if marked then h.ld.map (fun p => { p with done := true, answered := data.isSome }) else none

section
variable (h : s.msg m = some (.readReply dst home line wts rts data poison kind marked asid))
include h

theorem exec_readReply_overtakes (ho : s.overtakes m dst home line = true) : exec (.readReply m) s = .next s := by
  simp only [exec_readReply, execReadReply, State.readReplyEvent, h, ho, if_true]

section
variable (ho : s.overtakes m dst home line = false)
include ho

theorem exec_readReply_unawaited (hw : (s.hart dst).awaits marked (l1Key (lineNo line) home) = false) :
    exec (.readReply m) s = .next (s.dropMsg m) := by
  rw [Hart.awaits] at hw
  simp only [exec_readReply, execReadReply, State.readReplyEvent, h, ho, hw, Bool.not_false, Bool.false_eq_true, if_false, if_true]

section
variable (hw : (s.hart dst).awaits marked (l1Key (lineNo line) home) = true)
include hw

theorem exec_readReply_late (hf : s.fits (dieOf dst) (max wts rts) = false) : exec (.readReply m) s = .next s := by
  rw [Hart.awaits] at hw
  simp only [exec_readReply, execReadReply, State.readReplyEvent, h, ho, hw, hf, Bool.not_true, Bool.not_false, Bool.false_eq_true,
    if_false, if_true]

section
variable (hf : s.fits (dieOf dst) (max wts rts) = true)
include hf

theorem exec_readReply_renews (hd : data = none) : exec (.readReply m) s = .next ((s.dropMsg m).modHart dst (fun x =>
    { x with ld := x.answered marked data }.takeRead (l1Key (lineNo line) home) wts rts none poison kind asid)) := by
  subst hd
  rw [Hart.awaits] at hw
  simp only [exec_readReply, execReadReply, State.readReplyEvent, h, ho, hw, hf, Bool.not_true, Bool.false_eq_true, if_false,
    Option.isSome_none]
  rfl

theorem exec_readReply_full {d : Line} (hd : data = some d) (hr : s.l1Room dst (l1Key (lineNo line) home) = none) :
    exec (.readReply m) s = .next s := by
  subst hd
  rw [Hart.awaits] at hw
  simp only [exec_readReply, execReadReply, State.readReplyEvent, h, ho, hw, hf, hr, Bool.not_true, Bool.false_eq_true, if_false,
    if_true, Option.isSome_some]

theorem exec_readReply_takes {d : Line} {u : State} (hd : data = some d) (hr : s.l1Room dst (l1Key (lineNo line) home) = some u) :
    exec (.readReply m) s = .next ((u.dropMsg m).modHart dst (fun x => { x with ld := x.answered marked data }.takeRead
      (l1Key (lineNo line) home) wts rts (some (u.withOwnStores dst home line d)) poison kind asid)) := by
  subst hd
  rw [Hart.awaits] at hw
  simp only [exec_readReply, execReadReply, State.readReplyEvent, h, ho, hw, hf, hr, Bool.not_true, Bool.false_eq_true, if_false,
    if_true, Option.isSome_some]
  rfl

end

end

end

end

/-! ## A grant of ownership (R238, R245, log 104) -/

section
variable (h : s.msg m = some (.ownReply dst home line wts rts data poison kind asid))
include h

theorem exec_ownershipReply_waits (hn : s.overtakes m dst home line = true ∨ s.fits (dieOf dst) (max wts rts) = false) :
    exec (.ownershipReply m) s = .next s := by
  simp only [exec_ownershipReply, execOwnershipReply, State.ownReplyEvent, h]
  rcases hn with ho | hf
  · rw [if_pos ho]
  · simp only [hf, Bool.not_false, if_true, ite_self]

section
variable (ho : s.overtakes m dst home line = false) (hf : s.fits (dieOf dst) (max wts rts) = true)
include ho hf

theorem exec_ownershipReply_keeps (hd : data = none) : exec (.ownershipReply m) s =
    .next ((s.dropMsg m).modHart dst (·.takeOwned (l1Key (lineNo line) home) wts rts none poison kind asid)) := by
  subst hd
  simp only [exec_ownershipReply, execOwnershipReply, State.ownReplyEvent, h, ho, hf, Bool.not_true, Bool.false_eq_true, if_false,
    Option.isSome_none]

theorem exec_ownershipReply_full {d : Line} (hd : data = some d) (hr : s.l1Room dst (l1Key (lineNo line) home) = none) :
    exec (.ownershipReply m) s = .next s := by
  subst hd
  simp only [exec_ownershipReply, execOwnershipReply, State.ownReplyEvent, h, ho, hf, hr, Bool.not_true, Bool.false_eq_true, if_false,
    if_true, Option.isSome_some]

theorem exec_ownershipReply_takes {d : Line} {u : State} (hd : data = some d) (hr : s.l1Room dst (l1Key (lineNo line) home) = some u) :
    exec (.ownershipReply m) s =
      .next ((u.dropMsg m).modHart dst (·.takeOwned (l1Key (lineNo line) home) wts rts (some d) poison kind asid)) := by
  subst hd
  simp only [exec_ownershipReply, execOwnershipReply, State.ownReplyEvent, h, ho, hf, hr, Bool.not_true, Bool.false_eq_true, if_false,
    if_true, Option.isSome_some]

end

end

end

/-! ## Acknowledgements (R240, R245, R256) -/

/-- An acknowledgement is counted and its time kept; the hart's own clock stays (R266). -/
theorem Hart.takeAck_counts (h : Hart) (key t : Nat) (d : Line) (poison : Bool) :
    (h.takeAck key t d poison).unacked = h.unacked - 1 ∧ (h.takeAck key t d poison).ackTime = max h.ackTime t ∧
    (h.takeAck key t d poison).pts = h.pts := by
  unfold Hart.takeAck
  dsimp only
  split
  next =>
    split
    next => split <;> exact ⟨rfl, rfl, rfl⟩
    next => exact ⟨rfl, rfl, rfl⟩
  next => exact ⟨rfl, rfl, rfl⟩

section
variable {s : State} {m dst home line t : Nat} {d : Line} {poison : Bool}

section
variable (h : s.msg m = some (.ack dst home line t d poison))
include h

theorem exec_postedStoreAck_waits (hn : s.overtakes m dst home line = true ∨
    (s.hart dst).cachesAck (l1Key (lineNo line) home) = true ∧ s.fits (dieOf dst) t = false) :
    exec (.postedStoreAck m) s = .next s := by
  simp only [exec_postedStoreAck, execPostedStoreAck, State.ackEvent, h]
  rcases hn with ho | ⟨hc, hf⟩
  · rw [if_pos ho]
  · simp only [hc, hf, Bool.not_false, Bool.and_self, if_true, ite_self]

theorem exec_postedStoreAck_counts (ho : s.overtakes m dst home line = false)
    (hf : (s.hart dst).cachesAck (l1Key (lineNo line) home) = true → s.fits (dieOf dst) t = true) :
    exec (.postedStoreAck m) s = .next ((s.dropMsg m).modHart dst (·.takeAck (l1Key (lineNo line) home) t d poison)) := by
  have hnow : ((s.hart dst).cachesAck (l1Key (lineNo line) home) && !s.fits (dieOf dst) t) = false := by simpa using hf
  simp only [exec_postedStoreAck, execPostedStoreAck, State.ackEvent, h, ho, hnow, Bool.false_eq_true, if_false]

end

theorem exec_postedStoreAck_vault {addr : Nat} (h : s.msg m = some (.vaultAck dst addr t)) : exec (.postedStoreAck m) s =
    .next ((s.dropMsg m).modHart dst (fun x => { x with unacked := x.unacked - 1, ackTime := max x.ackTime t })) := by
  simp only [exec_postedStoreAck, execPostedStoreAck, State.ackEvent, h]

end

/-! ## A posted store at another die's vault (R244, R254, R256) -/

section
variable {s : State} {m src inc addr t0 : Nat} {mask : BitVec 64} {d : Line} (h : s.msg m = some (.vaultWrite src inc addr mask d t0))
include h

theorem exec_vaultAccess_dead (hi : s.incOf src ≠ inc) :
    exec (.vaultAccess m) s = .next ((s.dropMsg m).audit 0x0031 0xF000 0 (payload3 src inc addr)) := by
  simp only [exec_vaultAccess, execVaultAccess, State.vaultAccessEvent, h, State.staleMsg_dead m addr hi]

/-- The oldest message on its way has no earlier store of its sender to wait for. -/
theorem exec_vaultAccess_stores (hi : s.incOf src = inc) (hall : s.msgs.all (fun e => decide (m ≤ e.1)) = true) {t : Nat} {u : State}
    (hv : (s.dropMsg m).vaultStore ((addr - Config.vaultBase) / 0x800000) addr mask d t0 = (t, u)) :
    exec (.vaultAccess m) s = .next (u.send (.vaultAck src addr t)) := by
  have holdest : ∀ p : Nat × Msg → Bool, s.msgs.any (fun e => decide (e.1 < m) && p e) = false := by
    intro p
    rw [List.any_eq_false]
    intro e he
    have hle : m ≤ e.1 := of_decide_eq_true (List.all_eq_true.mp hall e he)
    simp [Nat.not_lt.mpr hle]
  simp only [exec_vaultAccess, execVaultAccess, State.vaultAccessEvent, h, State.staleMsg_current m addr hi, holdest, hv,
    Bool.false_eq_true, if_false]

end

/-! ## Times that are over (R232, R247) -/

section
variable {s : State} {h : Nat}

theorem exec_driftTick_ticks (hp : s.hartPresent h = true) (ht : (s.hart h).driftAt + (s.hart h).dev.drift.toNat ≤ s.cycle) :
    exec (.driftTick h) s = .next (s.modHart h (fun x => { x with pts := x.pts + 1, driftAt := x.driftAt + x.dev.drift.toNat })) := by
  rw [exec_driftTick, execDriftTick, State.driftTick, if_pos (by simp [hp, ht])]

theorem exec_driftTick_early (hn : s.hartPresent h = false ∨ s.cycle < (s.hart h).driftAt + (s.hart h).dev.drift.toNat) :
    exec (.driftTick h) s = .next s := by
  rw [exec_driftTick, execDriftTick, State.driftTick, if_neg]
  rcases hn with hp | ht
  · simp [hp]
  · simp [Nat.not_le.mpr ht]

end

theorem exec_renewalHoldExpiry_answers {s : State} {home k : Nat} {x : Held} (h : (s.home home).held[k]? = some x) :
    exec (.renewalHoldExpiry home k) s = .next (s.answerHeld home (fun y => y == x)) := by
  simp only [exec_renewalHoldExpiry, execRenewalHoldExpiry, State.renewalExpiry, h]

theorem exec_vaultWatchExpiry_answers {s : State} {q k : Nat} {w : Watch} (h : (s.quad q).watches[k]? = some w) :
    exec (.vaultWatchExpiry q k) s = .next ((s.modQuad q (fun x => { x with watches := removeFirst (fun y => y == w) x.watches })).modHart
      w.hart (fun x => { x with ld := x.ld.map (fun p =>
        if p.kind = .watch then { p with done := true, time := some (s.quad q).vclk } else p) })) := by
  simp only [exec_vaultWatchExpiry, execVaultWatchExpiry, State.watchExpiry, h]

/-! ## The statement -/

/-- Settles O44: fills, recalls, returns and evictions, then the answers that a hart takes, and the events whose time is over. -/
theorem coherenceReplies : Obligations.CoherenceReplies := by
  unfold Obligations.CoherenceReplies
  refine ⟨fun s m src home line asid h => ⟨exec_l2MissFill_dead h, fun _ _ => exec_l2MissFill_fills h⟩,
    fun s home line => ⟨State.makeRoom_enough, State.makeRoom_leaves⟩, fun s m home line o oi hm g key hkey hg => ?recalled,
    fun h key l hw ha hl => ⟨fun ho => ?surrendered, Hart.surrender_unowned hw ha hl⟩,
    fun s m o oi home line w r d p h => ⟨exec_recallReply_applies h, exec_recallReply_dead h⟩,
    fun s h key => ⟨exec_ownedEviction_absent, fun l hl => ⟨exec_ownedEviction_shared hl, exec_ownedEviction_pending hl,
      exec_ownedEviction_owned hl⟩⟩,
    fun s m dst home line wts rts asid key data poison marked kind h hkey => ?readReply,
    fun h key wts rts n asid d poison kind => ⟨fun l => Hart.takeRead_kept, Hart.takeRead_copy, fun l => Hart.takeRead_renewed⟩,
    fun s h key => ⟨State.l1Room_enough, fun hn hf => ⟨State.l1Room_pending hn hf, State.l1Room_evicts hn hf⟩⟩,
    fun s m dst home line wts rts asid key data poison kind h hkey => ?ownReply,
    fun s m dst home line t key d poison h hkey => ?ack, fun s m dst addr t => exec_postedStoreAck_vault,
    fun s m src inc addr t0 mask d h => ⟨exec_vaultAccess_dead h, fun hi hall t u => exec_vaultAccess_stores h hi hall⟩,
    fun s h => ⟨exec_driftTick_ticks, exec_driftTick_early⟩, fun s home k x => exec_renewalHoldExpiry_answers,
    fun s q k w => exec_vaultWatchExpiry_answers, fun s port line id owned => exec_hostLineFetch_enters,
    fun s port line => exec_hostLineFetch_none⟩
  case recalled =>
    subst hkey hg
    exact ⟨exec_recallArrive_waits hm, fun hg h l hs => ⟨fun hl => exec_recallArrive_none hm hg (hl ▸ hs),
      fun x hl => exec_recallArrive_replies hm hg (hl ▸ hs)⟩⟩
  case surrendered =>
    rw [Hart.surrender_owned hw ha hl ho]
    exact ⟨rfl, Hart.l1At_putL1 _ _ _⟩
  case readReply =>
    subst hkey
    refine ⟨exec_readReply_overtakes h, fun ho w hw => ?_⟩
    subst hw
    refine ⟨exec_readReply_unawaited h ho, exec_readReply_late h ho, fun ld hw hf hld => ?_⟩
    subst hld
    exact ⟨exec_readReply_renews h ho hw hf, fun d hd => ⟨exec_readReply_full h ho hw hf hd, fun u => exec_readReply_takes h ho hw hf hd⟩⟩
  case ownReply =>
    subst hkey
    exact ⟨exec_ownershipReply_waits h, fun ho hf => ⟨exec_ownershipReply_keeps h ho hf,
      fun d hd => ⟨exec_ownershipReply_full h ho hf hd, fun u => exec_ownershipReply_takes h ho hf hd⟩⟩⟩
  case ack =>
    subst hkey
    obtain ⟨hunacked, htime, hpts⟩ := (s.hart dst).takeAck_counts (l1Key (lineNo line) home) t d poison
    have hhart := (s.dropMsg m).hart_modHart dst (·.takeAck (l1Key (lineNo line) home) t d poison)
    exact ⟨exec_postedStoreAck_waits h, fun ho hf => ⟨_, exec_postedStoreAck_counts h ho hf, (congrArg Hart.unacked hhart).trans hunacked,
      (congrArg Hart.ackTime hhart).trans htime, (congrArg Hart.pts hhart).trans hpts, rfl, fun g => State.hart_modHart_ne _ _⟩⟩

end Sys2Proof.Machine
end

section
/-! PROOF that decoding gives back every well-formed instruction (R314 to R322): the row of each constructor. -/

namespace Sys2Proof.Laws.RoundTrip

theorem statement : ∀ i : Instr, Statement i
  | .ecallEnvironment _ => ecallEnvironment _ | .csrWrite _ _ _ _ => csrWrite _ _ _ _ | .budgetWrite _ _ _ => budgetWrite _ _ _
  | .driftWrite _ _ _ => driftWrite _ _ _ | .leaseWrite _ _ _ => leaseWrite _ _ _ | .rmodeWrite _ _ _ => rmodeWrite _ _ _
  | .trcfgWrite _ _ _ => trcfgWrite _ _ _ | .xfctlResume _ _ _ => xfctlResume _ _ _ | .xfctlFail _ _ _ => xfctlFail _ _ _
  | .load _ _ _ _ => load _ _ _ _ | .store _ _ _ _ => store _ _ _ _ | .amo _ _ _ _ _ _ _ => amo _ _ _ _ _ _ _
  | .lr _ _ _ _ _ => lr _ _ _ _ _ | .sc _ _ _ _ _ _ => sc _ _ _ _ _ _ | .amocasQ _ _ _ _ _ => amocasQ _ _ _ _ _
  | .sfenceVma _ _ => sfenceVma _ _ | .fence _ _ _ _ _ => fence _ _ _ _ _ | .fenceTso _ _ => fenceTso _ _ | .fenceI _ _ _ => fenceI _ _ _
  | .tretire _ => tretire _ | .tretireA _ => tretireA _ | .tspawn _ _ => tspawn _ _ | .tspawnN _ _ => tspawnN _ _
  | .tspawnOff _ _ _ => tspawnOff _ _ _ | .tspawnNOff _ _ _ => tspawnNOff _ _ _ | .tcancel _ _ => tcancel _ _ | .tstat _ _ => tstat _ _
  | .twdchk _ => twdchk _ | .tbudget _ => tbudget _ | .tself _ => tself _ | .drank _ => drank _ | .dsize _ => dsize _
  | .bbind _ _ _ => bbind _ _ _ | .bbindI _ _ _ => bbindI _ _ _ | .barrive _ _ => barrive _ _ | .bwait _ _ => bwait _ _
  | .bsync _ _ _ => bsync _ _ _ | .bexpect _ _ => bexpect _ _ | .bexpectI _ _ => bexpectI _ _ | .btest _ _ => btest _ _
  | .bunbind _ => bunbind _ | .msend _ _ _ => msend _ _ _ | .msendI _ _ _ _ _ => msendI _ _ _ _ _ | .mrecv _ _ => mrecv _ _
  | .mpoll _ => mpoll _ | .mwait _ => mwait _ | .mhdr _ => mhdr _ | .clkrd _ => clkrd _ | .clkadv _ => clkadv _
  | .clkadvOff _ _ => clkadvOff _ _ | .lwait _ _ => lwait _ _ | .lwaitOff _ _ _ => lwaitOff _ _ _ | .fencesFull _ _ => fencesFull _ _
  | .fencesAcquire _ _ => fencesAcquire _ _ | .fencesRelease _ _ => fencesRelease _ _ | .repb _ _ _ => repb _ _ _ | .trmark _ => trmark _
  | .trmarkI _ => trmarkI _ | .ctxpre _ _ _ => ctxpre _ _ _ | .ctxrel _ _ => ctxrel _ _ | .mcset _ _ _ => mcset _ _ _
  | .audapp _ _ _ => audapp _ _ _ | .rgnil _ _ => rgnil _ _ | .rgfull _ _ => rgfull _ _ | .rgpt _ _ _ => rgpt _ _ _
  | .rgptI _ _ _ _ _ => rgptI _ _ _ _ _ | .rgclip _ _ _ => rgclip _ _ _ | .rguni _ _ _ => rguni _ _ _ | .rgint _ _ _ => rgint _ _ _
  | .rgsub _ _ _ => rgsub _ _ _ | .rgdil _ _ _ => rgdil _ _ _ | .rgdilI _ _ _ => rgdilI _ _ _ | .rgshf _ _ _ => rgshf _ _ _
  | .rgshfI _ _ _ => rgshfI _ _ _ | .rgprj _ _ _ => rgprj _ _ _ | .rgprjI _ _ _ => rgprjI _ _ _ | .rgxpd _ _ _ => rgxpd _ _ _
  | .rgxpdI _ _ _ => rgxpdI _ _ _ | .rglat _ _ _ => rglat _ _ _ | .rglatI _ _ _ => rglatI _ _ _ | .rgcut _ _ _ => rgcut _ _ _
  | .rgcutI _ _ _ => rgcutI _ _ _ | .rgspl _ _ _ => rgspl _ _ _ | .rgsplI _ _ _ => rgsplI _ _ _ | .rgbbox _ _ => rgbbox _ _
  | .rgmv _ _ => rgmv _ _ | .rgcan _ _ => rgcan _ _ | .rgld _ _ => rgld _ _ | .rgldImm _ _ _ => rgldImm _ _ _
  | .rgldW64 _ _ _ => rgldW64 _ _ _ | .rgst _ _ => rgst _ _ | .rgstImm _ _ _ => rgstImm _ _ _ | .rgstW64 _ _ _ => rgstW64 _ _ _
  | .rgcnt _ _ => rgcnt _ _ | .rgnbx _ _ => rgnbx _ _ | .rgtst _ _ _ => rgtst _ _ _ | .rgeq _ _ _ => rgeq _ _ _
  | .rgsubs _ _ _ => rgsubs _ _ _ | .rgget _ _ _ => rgget _ _ _ | .rggetI _ _ _ => rggetI _ _ _ | .hld _ _ => hld _ _
  | .hldImm _ _ _ => hldImm _ _ _ | .hldW64 _ _ _ => hldW64 _ _ _ | .hst _ _ => hst _ _ | .hstImm _ _ _ => hstImm _ _ _
  | .hstW64 _ _ _ => hstW64 _ _ _ | .hget _ _ _ => hget _ _ _ | .hgetI _ _ _ => hgetI _ _ _ | .hsetx _ _ _ => hsetx _ _ _
  | .hsetxI _ _ _ => hsetxI _ _ _ | .copy _ _ _ => copy _ _ _ | .copyClip _ _ _ => copyClip _ _ _
  | .copyW64 _ _ _ _ _ _ => copyW64 _ _ _ _ _ _ | .copyb _ _ _ => copyb _ _ _ | .copybClip _ _ _ => copybClip _ _ _
  | .copybW64 _ _ _ _ _ _ => copybW64 _ _ _ _ _ _ | .copyn _ _ _ => copyn _ _ _ | .copynClip _ _ _ => copynClip _ _ _
  | .copynW64 _ _ _ _ _ _ => copynW64 _ _ _ _ _ _ | .getx _ _ _ => getx _ _ _ | .getxClip _ _ _ => getxClip _ _ _
  | .getxW64 _ _ _ _ _ _ => getxW64 _ _ _ _ _ _ | .putx _ _ _ => putx _ _ _ | .putxClip _ _ _ => putxClip _ _ _
  | .putxW64 _ _ _ _ _ _ => putxW64 _ _ _ _ _ _ | .getr _ _ _ => getr _ _ _ | .getrClip _ _ _ => getrClip _ _ _
  | .getrW64 _ _ _ _ _ _ => getrW64 _ _ _ _ _ _ | .putr _ _ _ => putr _ _ _ | .putrClip _ _ _ => putrClip _ _ _
  | .putrW64 _ _ _ _ _ _ => putrW64 _ _ _ _ _ _ | .pref _ _ => pref _ _ | .flushr _ _ _ => flushr _ _ _ | .waitg _ _ _ => waitg _ _ _
  | .tktest _ _ => tktest _ _ | .qbind _ _ _ => qbind _ _ _ | .qacq _ _ => qacq _ _ | .qpub _ _ _ => qpub _ _ _ | .qtake _ _ => qtake _ _
  | .qfree _ _ => qfree _ _ | .qeos _ => qeos _ | .qstat _ _ => qstat _ _ | .ldsub _ _ _ => ldsub _ _ _ | .lddrn _ _ _ => lddrn _ _ _
  | .ldcan _ _ => ldcan _ _ | .vld _ _ _ => vld _ _ _ | .vldOff _ _ _ _ => vldOff _ _ _ _ | .vst _ _ _ => vst _ _ _
  | .vstOff _ _ _ _ => vstOff _ _ _ _ | .vlds _ _ _ _ _ => vlds _ _ _ _ _ | .vsts _ _ _ _ _ => vsts _ _ _ _ _
  | .vgath _ _ _ _ => vgath _ _ _ _ | .vgathOff _ _ _ _ _ => vgathOff _ _ _ _ _ | .vscat _ _ _ _ => vscat _ _ _ _
  | .vscatOff _ _ _ _ _ => vscatOff _ _ _ _ _ | .vbcast _ _ _ => vbcast _ _ _ | .vmvx _ _ _ => vmvx _ _ _
  | .vmvxLane _ _ _ _ => vmvxLane _ _ _ _ | .vmvv _ _ _ => vmvv _ _ _ | .vadd _ _ _ _ => vadd _ _ _ _ | .vaddVx _ _ _ _ => vaddVx _ _ _ _
  | .vsub _ _ _ _ => vsub _ _ _ _ | .vsubVx _ _ _ _ => vsubVx _ _ _ _ | .vmul _ _ _ _ => vmul _ _ _ _ | .vmulVx _ _ _ _ => vmulVx _ _ _ _
  | .vfma _ _ _ _ => vfma _ _ _ _ | .vfmaVx _ _ _ _ => vfmaVx _ _ _ _ | .vfms _ _ _ _ => vfms _ _ _ _ | .vfmsVx _ _ _ _ => vfmsVx _ _ _ _
  | .vmin _ _ _ _ => vmin _ _ _ _ | .vminVx _ _ _ _ => vminVx _ _ _ _ | .vmax _ _ _ _ => vmax _ _ _ _ | .vmaxVx _ _ _ _ => vmaxVx _ _ _ _
  | .vabs _ _ _ => vabs _ _ _ | .vneg _ _ _ => vneg _ _ _ | .vand _ _ _ _ => vand _ _ _ _ | .vandVx _ _ _ _ => vandVx _ _ _ _
  | .vor _ _ _ _ => vor _ _ _ _ | .vorVx _ _ _ _ => vorVx _ _ _ _ | .vxor _ _ _ _ => vxor _ _ _ _ | .vxorVx _ _ _ _ => vxorVx _ _ _ _
  | .vsll _ _ _ _ => vsll _ _ _ _ | .vsllVx _ _ _ _ => vsllVx _ _ _ _ | .vsrl _ _ _ _ => vsrl _ _ _ _ | .vsrlVx _ _ _ _ => vsrlVx _ _ _ _
  | .vsra _ _ _ _ => vsra _ _ _ _ | .vsraVx _ _ _ _ => vsraVx _ _ _ _ | .vcmp _ _ _ _ _ _ => vcmp _ _ _ _ _ _
  | .vsel _ _ _ _ => vsel _ _ _ _ | .vselVx _ _ _ _ => vselVx _ _ _ _ | .vcvt _ _ _ _ => vcvt _ _ _ _
  | .vcvtW64 _ _ _ _ _ _ => vcvtW64 _ _ _ _ _ _ | .vrsum _ _ _ => vrsum _ _ _ | .vrmax _ _ _ => vrmax _ _ _ | .vrmin _ _ _ => vrmin _ _ _
  | .vexp2 _ _ _ => vexp2 _ _ _ | .vlog2 _ _ _ => vlog2 _ _ _ | .vrcp _ _ _ => vrcp _ _ _ | .vrsqrt _ _ _ => vrsqrt _ _ _
  | .vsqrt _ _ _ => vsqrt _ _ _ | .vdot _ _ _ _ => vdot _ _ _ _ | .vperm _ _ _ _ => vperm _ _ _ _ | .vslideVx _ _ _ _ => vslideVx _ _ _ _
  | .vslideI _ _ _ _ => vslideI _ _ _ _ | .vcompr _ _ _ => vcompr _ _ _ | .vexpnd _ _ _ => vexpnd _ _ _ | .viota _ _ => viota _ _
  | .vztst _ _ _ => vztst _ _ _ | .vscl _ _ _ _ _ => vscl _ _ _ _ _ | .vsclVx _ _ _ _ _ => vsclVx _ _ _ _ _
  | .vqnt _ _ _ _ _ _ _ => vqnt _ _ _ _ _ _ _ | .vmask _ => vmask _ | .kand _ _ _ => kand _ _ _ | .kor _ _ _ => kor _ _ _
  | .knot _ _ => knot _ _ | .kmvToMask _ _ => kmvToMask _ _ | .kmvFromMask _ _ => kmvFromMask _ _ | .mfmt _ => mfmt _
  | .mupld _ _ => mupld _ _ | .mma _ _ _ _ _ _ _ => mma _ _ _ _ _ _ _ | .mmag _ _ _ _ _ _ _ => mmag _ _ _ _ _ _ _
  | .mrec _ _ _ _ _ _ _ => mrec _ _ _ _ _ _ _ | .mzero _ _ => mzero _ _ | .mtzero _ _ => mtzero _ _ | .mtmov _ _ _ => mtmov _ _ _
  | .mztst _ _ _ => mztst _ _ _ | .mtrn _ _ _ => mtrn _ _ _ | .mrel _ _ => mrel _ _ | .mext _ _ _ _ => mext _ _ _ _
  | .mins _ _ _ _ => mins _ _ _ _ | .mlda _ _ _ => mlda _ _ _ | .msta _ _ _ => msta _ _ _ | .mqnt _ _ _ _ _ _ _ => mqnt _ _ _ _ _ _ _
  | .mscl _ _ _ => mscl _ _ _ | .mbias _ _ _ => mbias _ _ _ | .mapplyRelu _ => mapplyRelu _ | .mapplyMicro _ => mapplyMicro _
  | .mred _ _ _ _ => mred _ _ _ _ | .integerAlu _ => integerAlu _ | .controlTransfer _ => controlTransfer _ | .wfi => wfi | .sret => sret
  | .mret => mret | .tyield => tyield | .trtrig => trtrig | .msync => msync | .coldReset _ => coldReset _ | .warmReset => warmReset
  | .recoveryGo => recoveryGo | .powerSample _ => powerSample _ | .dutyStep => dutyStep | .sensorSample _ _ _ => sensorSample _ _ _
  | .measExtend _ _ => measExtend _ _ | .quoteRequest _ => quoteRequest _ | .quoteSigned => quoteSigned
  | .fuseCounterAdvance _ => fuseCounterAdvance _ | .fuseBlow => fuseBlow | .retranslationComplete => retranslationComplete
  | .auditAppend _ _ _ _ => auditAppend _ _ _ _ | .segmentSeal => segmentSeal | .spillWriteComplete => spillWriteComplete
  | .spillAck _ => spillAck _ | .overflowAreaSet _ _ _ => overflowAreaSet _ _ _ | .ownerCreate => ownerCreate
  | .ownerDestroy => ownerDestroy | .frameSet => frameSet | .tenantCreate => tenantCreate | .tenantSet => tenantSet
  | .tenantDestroy => tenantDestroy | .ctxCreate => ctxCreate | .portOpen => portOpen | .portClose => portClose
  | .apertureMap => apertureMap | .objTranslate => objTranslate | .objUnload => objUnload | .stageSet => stageSet
  | .taskFault => taskFault | .vaultSet => vaultSet | .launch _ _ _ => launch _ _ _
  | .launchPortDmwrOther _ _ _ _ => launchPortDmwrOther _ _ _ _ | .launchPortPostedWrite _ _ _ _ => launchPortPostedWrite _ _ _ _
  | .argsReadComplete _ => argsReadComplete _ | .launchSubmit _ => launchSubmit _ | .launchDone _ => launchDone _
  | .apertureWrite _ _ _ _ => apertureWrite _ _ _ _ | .apertureRead _ _ _ _ => apertureRead _ _ _ _ | .hostLinkDown _ => hostLinkDown _
  | .hostLinkUp _ _ => hostLinkUp _ _ | .hostCompletionTimeout _ => hostCompletionTimeout _
  | .hostErrorCompletion _ _ => hostErrorCompletion _ _ | .atomicopCompletion _ => atomicopCompletion _
  | .zeroLengthReadComplete _ => zeroLengthReadComplete _ | .dieLinkReplay _ _ => dieLinkReplay _ _
  | .dieLinkIdleTimeout _ => dieLinkIdleTimeout _ | .netPortDown _ => netPortDown _ | .retransmissionLimit _ => retransmissionLimit _
  | .putArrive _ _ _ _ => putArrive _ _ _ _ | .putAck _ _ => putAck _ _ | .getRequest _ _ _ _ => getRequest _ _ _ _
  | .getData _ _ _ => getData _ _ _ | .homeRead _ => homeRead _ | .l2MissFill _ => l2MissFill _ | .homeOwn _ => homeOwn _
  | .homeWrite _ => homeWrite _ | .homeEngineRead _ => homeEngineRead _ | .recallArrive _ => recallArrive _
  | .recallReply _ => recallReply _ | .ownedEviction _ _ => ownedEviction _ _ | .readReply _ => readReply _
  | .ownershipReply _ => ownershipReply _ | .postedStoreAck _ => postedStoreAck _ | .vaultAccess _ => vaultAccess _
  | .driftTick _ => driftTick _ | .rebaseStep _ => rebaseStep _ | .rebaseFloorReceive _ _ => rebaseFloorReceive _ _
  | .rebaseComplete _ => rebaseComplete _ | .renewalHoldExpiry _ _ => renewalHoldExpiry _ _
  | .vaultWatchExpiry _ _ => vaultWatchExpiry _ _ | .hostLineFetch _ _ => hostLineFetch _ _ | .hostSnoop _ _ _ => hostSnoop _ _ _
  | .snoopHoldExpiry _ _ => snoopHoldExpiry _ _ | .hostAmoCompletion _ => hostAmoCompletion _ | .replyTimeout _ => replyTimeout _
  | .deadAgentDeclaration _ => deadAgentDeclaration _ | .declarationReceive _ _ => declarationReceive _ _ | .patrolPass _ => patrolPass _
  | .dispatchPairing _ => dispatchPairing _ | .gangStart _ => gangStart _ | .taskStart _ => taskStart _
  | .packageArbiterMove _ => packageArbiterMove _ | .reservePreemption _ => reservePreemption _ | .decrement _ => decrement _
  | .withdraw _ => withdraw _ | .rebalanceEvaluation _ => rebalanceEvaluation _ | .parkWake _ => parkWake _
  | .parkReclaim _ => parkReclaim _ | .budgetExhausted _ => budgetExhausted _ | .interruptTaken _ => interruptTaken _
  | .stopRequest _ => stopRequest _ | .saveComplete _ => saveComplete _ | .contextDrain _ => contextDrain _ | .resume _ => resume _
  | .imageLineFill _ _ _ => imageLineFill _ _ _ | .pageWalkComplete _ => pageWalkComplete _ | .transferSegment _ => transferSegment _
  | .transferComplete _ => transferComplete _ | .portRequest _ => portRequest _ | .streamTransferStart _ => streamTransferStart _
  | .streamSlotFill _ => streamSlotFill _ | .streamSlotDrain _ => streamSlotDrain _ | .matrixAccept _ => matrixAccept _
  | .matrixComplete _ => matrixComplete _ | .repbLaneIssue _ => repbLaneIssue _ | .scrubStart _ => scrubStart _
  | .scrubQuadComplete _ _ => scrubQuadComplete _ _ | .messageDeliver _ => messageDeliver _ | .netPortUp _ => netPortUp _
  | .hostReadCompletion _ => hostReadCompletion _ | .atomicopAsCompleter _ => atomicopAsCompleter _ | .otherDmwr _ _ => otherDmwr _ _

end Sys2Proof.Laws.RoundTrip

namespace Sys2Proof.Machine

/-- Settles O58: constructor by constructor, each by the lemma of its row. -/
theorem roundTrip : Obligations.RoundTrip := Laws.RoundTrip.statement

end Sys2Proof.Machine
end

section
/-! PROOF of the words that the chapters print (R314 to R322), of the integer computations (R308), and of the values of the running task
(R343). -/

namespace Sys2Proof.Machine

/-- Settles O56: each word decodes by evaluation of the decoder. -/
theorem sampleWords : Obligations.SampleWords :=
  ⟨rfl, rfl, rfl, rfl, rfl, rfl, rfl, rfl, rfl, rfl, rfl, rfl, rfl, rfl, rfl⟩

/-! ## Integer computations (R308, R311) -/

section
variable {op : Alu} {s : State} (hf : s.Free (aluRegs op) [])
include hf

theorem exec_integerAlu_writes :
    exec (.integerAlu op) s = .next (s.modMe (fun h => (h.wx (aluEval s op).1 (aluEval s op).2).retire)) := by
  rw [exec_integerAlu, execIntegerAlu]
  exact ins_writes hf rfl

/-- A result for x0 is discarded. -/
theorem exec_integerAlu_discards (h0 : (aluEval s op).1 = 0) : exec (.integerAlu op) s = .next (s.modMe Hart.retire) := by
  rw [exec_integerAlu_writes hf, h0]
  rfl

end

/-- Settles O1: a computation writes its destination, and x0 discards it. -/
theorem integerComputations : Obligations.IntegerComputations := by
  unfold Obligations.IntegerComputations
  exact fun _ _ hf => ⟨exec_integerAlu_writes hf, exec_integerAlu_discards hf⟩

/-! ## The values of the running task (R343) -/

section
variable {d : Reg} {s : State} (hf : s.Free [d] [])
include hf

theorem taskValue_no_task (f : Hart → Word) (hn : s.me.task = none) : taskValue d f s = .next (s.modMe (fun h => (h.wx d 0).retire)) :=
  ins_writes hf (by rw [hn]; rfl)

theorem taskValue_of_task (f : Hart → Word) {k : Nat} (hk : s.me.task = some k) :
    taskValue d f s = .next (s.modMe (fun h => (h.wx d (f h)).retire)) :=
  (ins_writes hf (v := f s.me) (by rw [hk]; rfl)).trans (congrArg _ (State.modMe_congr s rfl))

theorem exec_tself_no_task (hn : s.me.task = none) : exec (.tself d) s = .next (s.modMe (fun h => (h.wx d 0).retire)) := by
  rw [exec_tself, execTself]
  exact ins_writes hf (by rw [hn])

theorem exec_tself_of_task {k : Nat} {t : Task} (hk : s.me.task = some k) (ht : s.task k = some t) :
    exec (.tself d) s = .next (s.modMe (fun h => (h.wx d (BitVec.ofNat 64 t.addr)).retire)) := by
  rw [exec_tself, execTself]
  exact ins_writes hf (by simp only [hk, ht, Option.map_some, Option.getD_some])

theorem exec_dsize_no_task (hn : s.me.task = none) : exec (.dsize d) s = .next (s.modMe (fun h => (h.wx d 1).retire)) := by
  rw [exec_dsize, execDsize]
  exact ins_writes hf (by rw [hn]; rfl)

theorem exec_dsize_of_task {k : Nat} (hk : s.me.task = some k) :
    exec (.dsize d) s = .next (s.modMe (fun h => (h.wx d (BitVec.ofNat 64 h.dev.dmrSize)).retire)) := by
  rw [exec_dsize, execDsize]
  exact (ins_writes hf (v := BitVec.ofNat 64 s.me.dev.dmrSize) (by rw [hk]; rfl)).trans (congrArg _ (State.modMe_congr s rfl))

end

/-- Settles O13: TWDCHK, TBUDGET and DRANK by the one lemma for a task's value, TSELF and DSIZE by their own. -/
theorem taskValues : Obligations.TaskValues := by
  unfold Obligations.TaskValues
  intro d s hf
  rw [exec_twdchk, execTwdchk, exec_tbudget, execTbudget, exec_drank, execDrank]
  exact ⟨fun hn => ⟨taskValue_no_task hf _ hn, taskValue_no_task hf _ hn, exec_tself_no_task hf hn, taskValue_no_task hf _ hn,
      exec_dsize_no_task hf hn⟩,
    fun k t hk ht => ⟨taskValue_of_task hf _ hk, taskValue_of_task hf _ hk, exec_tself_of_task hf hk ht, taskValue_of_task hf _ hk,
      exec_dsize_of_task hf hk⟩⟩

end Sys2Proof.Machine
end

section
/-! PROOF of WFI and the returns from traps (R309, R318): the mode each needs, and the status that a return leaves, bit by bit. -/

namespace Sys2Proof.Machine

/-! ## The status after a return (R309) -/

/-- mstatus after SRET: SIE from SPIE, then SPIE, SPP and MPRV at their values. -/
def sretStatus (st : Word) : Word :=
  setFld (setFld (setFld (setFld st 1 1 (if st.getLsbD 5 then 1 else 0)) 5 1 1) 8 1 0) 17 1 0

/-- mstatus after MRET into `mode`: MIE from MPIE, then MPIE and MPP at their values, and MPRV cleared outside M-mode. -/
def mretStatus (st : Word) (mode : Mode) : Word :=
  let w := setFld (setFld (setFld st 3 1 (if st.getLsbD 7 then 1 else 0)) 7 1 1) 11 2 0
  if mode = .m then w else setFld w 17 1 0

section
variable (st : Word)

theorem sretStatus_sie : (sretStatus st).getLsbD 1 = st.getLsbD 5 := by
  rw [sretStatus, setFld_outside _ _ (by decide), setFld_outside _ _ (by decide), setFld_outside _ _ (by decide),
    setFld_bit_self _ _ (by decide), testBit_zero_ite, Bool.decide_eq_true]

theorem sretStatus_spie : (sretStatus st).getLsbD 5 = true := by
  rw [sretStatus, setFld_outside _ _ (by decide), setFld_outside _ _ (by decide), setFld_bit_self _ _ (by decide)]
  rfl

theorem sretStatus_spp : (sretStatus st).getLsbD 8 = false := by
  rw [sretStatus, setFld_outside _ _ (by decide), setFld_bit_self _ _ (by decide)]
  rfl

theorem sretStatus_mprv : (sretStatus st).getLsbD 17 = false := setFld_bit_self _ 0 (by decide)

theorem sretStatus_other {i : Nat} (h1 : i ≠ 1) (h5 : i ≠ 5) (h8 : i ≠ 8) (h17 : i ≠ 17) :
    (sretStatus st).getLsbD i = st.getLsbD i := by
  rw [sretStatus, setFld_outside _ _ (by omega), setFld_outside _ _ (by omega), setFld_outside _ _ (by omega),
    setFld_outside _ _ (by omega)]

variable (mode : Mode)

/-- Clearing MPRV touches bit 17 alone. -/
theorem mretStatus_below {i : Nat} (h17 : i ≠ 17) : (mretStatus st mode).getLsbD i =
    (setFld (setFld (setFld st 3 1 (if st.getLsbD 7 then 1 else 0)) 7 1 1) 11 2 0).getLsbD i := by
  rw [mretStatus]
  split
  · rfl
  · exact setFld_outside _ _ (by omega)

theorem mretStatus_mie : (mretStatus st mode).getLsbD 3 = st.getLsbD 7 := by
  rw [mretStatus_below _ _ (by decide), setFld_outside _ _ (by decide), setFld_outside _ _ (by decide), setFld_bit_self _ _ (by decide),
    testBit_zero_ite, Bool.decide_eq_true]

theorem mretStatus_mpie : (mretStatus st mode).getLsbD 7 = true := by
  rw [mretStatus_below _ _ (by decide), setFld_outside _ _ (by decide), setFld_bit_self _ _ (by decide)]
  rfl

theorem mretStatus_mpp {i : Nat} (hi : i = 11 ∨ i = 12) : (mretStatus st mode).getLsbD i = false := by
  rw [mretStatus_below _ _ (by omega), setFld_getLsbD, if_pos (by omega), Nat.zero_testBit, Bool.and_false]

theorem mretStatus_mprv : (mretStatus st mode).getLsbD 17 = (st.getLsbD 17 && decide (mode = .m)) := by
  rw [mretStatus]
  split
  · rename_i hm
    rw [setFld_outside _ _ (by decide), setFld_outside _ _ (by decide), setFld_outside _ _ (by decide), decide_eq_true hm, Bool.and_true]
  · rename_i hm
    rw [setFld_bit_self _ _ (by decide), decide_eq_false hm, Bool.and_false]
    rfl

theorem mretStatus_other {i : Nat} (h3 : i ≠ 3) (h7 : i ≠ 7) (h11 : i ≠ 11) (h12 : i ≠ 12) (h17 : i ≠ 17) :
    (mretStatus st mode).getLsbD i = st.getLsbD i := by
  rw [mretStatus_below _ _ h17, setFld_outside _ _ (by omega), setFld_outside _ _ (by omega), setFld_outside _ _ (by omega)]

end

/-! ## The instructions -/

theorem Mode.not_below_super {mode : Mode} (h : mode ≠ .u) : ¬ mode.code < Mode.s.code := Nat.not_lt.mpr (Mode.one_le_code h)

section
variable {s : State} (hf : s.Free [] [])
include hf

/-- A privileged instruction that completes, from its lowest mode on. -/
theorem ins_atLeast_ok {lowest : Mode} (hm : ¬ s.me.mode.code < lowest.code) {body : State → Act Unit} {t : State}
    (hb : body s = .ok () t) : ins [] [] (fun s => atLeast lowest body s) s = .next (t.modMe Hart.retire) :=
  ins_ok hf ((atLeast_ok hm body).trans hb)

theorem ins_atLeast_low {lowest : Mode} (hm : s.me.mode.code < lowest.code) (body : State → Act Unit) :
    ins [] [] (fun s => atLeast lowest body s) s = .next (s.trap 2 s.me.ir) :=
  ins_trap hf (atLeast_low hm body)

theorem exec_wfi_pending (hm : s.me.mode ≠ .u) (hp : s.me.pending ≠ 0) : exec .wfi s = .next (s.modMe Hart.retire) := by
  rw [exec_wfi, execWfi]
  exact ins_atLeast_ok hf (Mode.not_below_super hm) (if_neg hp)

theorem exec_wfi_waits (hm : s.me.mode ≠ .u) (hp : s.me.pending = 0) :
    exec .wfi s = .next (s.modMe (fun h => { h.retire with status := .waiting })) := by
  rw [exec_wfi, execWfi]
  exact (ins_atLeast_ok hf (Mode.not_below_super hm) (if_pos hp)).trans (congrArg _ (State.modMe_modMe ..))

theorem exec_sret_returns (hm : s.me.mode ≠ .u) : exec .sret s = .next (s.modMe (fun h =>
    { h with pc := h.priv.sepc, npc := h.priv.sepc, mode := if h.priv.mstatus.getLsbD 8 then .s else .u,
             priv := { h.priv with mstatus := sretStatus s.me.priv.mstatus }, instret := h.instret + 1, partials := [],
             entering := [] })) := by
  rw [exec_sret, execSret]
  rw [ins_atLeast_ok hf (Mode.not_below_super hm) (body := fun s => .ok () (s.modMe (·.doSret))) rfl, State.modMe_modMe]
  exact congrArg _ (State.modMe_congr s rfl)

theorem exec_mret_returns (hm : s.me.mode = .m) : exec .mret s = .next (s.modMe (fun h =>
    { h with pc := h.priv.mepc, npc := h.priv.mepc, mode := Mode.ofCode (fld h.priv.mstatus 11 2).toNat,
             priv := { h.priv with mstatus := mretStatus s.me.priv.mstatus (Mode.ofCode (fld s.me.priv.mstatus 11 2).toNat) },
             instret := h.instret + 1, partials := [], entering := [] })) := by
  rw [exec_mret, execMret]
  have hlow : ¬ s.me.mode.code < Mode.m.code := by rw [hm]; decide
  rw [ins_atLeast_ok hf hlow (body := fun s => .ok () (s.modMe (·.doMret))) rfl, State.modMe_modMe]
  exact congrArg _ (State.modMe_congr s rfl)

theorem exec_wfi_user (hm : s.me.mode = .u) : exec .wfi s = .next (s.trap 2 s.me.ir) := by
  rw [exec_wfi, execWfi]
  exact ins_atLeast_low hf (by rw [hm]; decide) _

theorem exec_sret_user (hm : s.me.mode = .u) : exec .sret s = .next (s.trap 2 s.me.ir) := by
  rw [exec_sret, execSret]
  exact ins_atLeast_low hf (by rw [hm]; decide) _

theorem exec_mret_below (hm : s.me.mode ≠ .m) : exec .mret s = .next (s.trap 2 s.me.ir) := by
  have hlow : s.me.mode.code < Mode.m.code := by
    cases hc : s.me.mode
    · decide
    · decide
    · exact absurd hc hm
  rw [exec_mret, execMret]
  exact ins_atLeast_low hf hlow _

end

/-- Settles O6: each instruction by the mode of the hart, and the status of a return field by field. -/
theorem waitAndReturns : Obligations.WaitAndReturns := by
  unfold Obligations.WaitAndReturns
  exact ⟨fun _ hf hm hp => exec_wfi_pending hf hm hp, fun _ hf hm hp => exec_wfi_waits hf hm hp,
    fun s hf hm => ⟨_, exec_sret_returns hf hm, sretStatus_sie _, sretStatus_spie _, sretStatus_spp _, sretStatus_mprv _,
      fun _ => sretStatus_other _⟩,
    fun s hf hm => ⟨_, exec_mret_returns hf hm, mretStatus_mie _ _, mretStatus_mpie _ _, mretStatus_mpp _ _ (.inl rfl),
      mretStatus_mpp _ _ (.inr rfl), mretStatus_mprv _ _, fun _ => mretStatus_other _ _⟩,
    fun _ hf hm => ⟨exec_wfi_user hf hm, exec_sret_user hf hm⟩, fun _ hf hm => exec_mret_below hf hm⟩

end Sys2Proof.Machine
end

section
/-! PROOF of the CSR instructions (R159, R308, R310, R325), over what a CSR instruction does that reads, that writes and that may not. -/

namespace Sys2Proof.Machine

section
variable {op : CsrOp} {csr : BitVec 12} {src : CsrSrc} {rd : Reg} {s : State}

/-- A write of a CSR whose fields are all read-only is illegal, whether it can be read or not. -/
theorem csrBody_read_only {n : Nat} (hw : csrWrites op src = true) (ho : csrReadOnly n = true) : csrBody op n src rd s = illegal s := by
  rw [csrBody, hw, ho]
  exact ite_self _

/-- Only the counters and xfctl are written otherwise than as a register of the hart. -/
theorem State.csrPut_register (h1 : csr ≠ 0x5C5) (h2 : csr ≠ 0xB00) (h3 : csr ≠ 0xB02) (v : Word) :
    s.csrPut csr.toNat v = s.modMe (fun h => { h with priv := h.priv.write csr.toNat v, dev := h.dev.write csr.toNat v }) := by
  unfold State.csrPut
  split
  · exact absurd (BitVec.eq_of_toNat_eq ‹_›) h1
  · exact absurd (BitVec.eq_of_toNat_eq ‹_›) h2
  · exact absurd (BitVec.eq_of_toNat_eq ‹_›) h3
  · rfl

end

theorem PrivCsrs.medeleg_kept (p : PrivCsrs) (v : Word) {c : Nat} (hc : (24 ≤ c ∧ c ≤ 31) ∨ c = 48 ∨ c = 49) :
    (p.write 0x302 v).medeleg.getLsbD c = true := by
  have hones : medelegOnes.getLsbD c = true := by
    have h50 : c < 50 := by omega
    revert hc
    exact (by decide : ∀ c < 50, (24 ≤ c ∧ c ≤ 31) ∨ c = 48 ∨ c = 49 → medelegOnes.getLsbD c = true) c h50
  show ((v &&& medelegMask) ||| medelegOnes).getLsbD c = true
  rw [BitVec.getLsbD_or, hones, Bool.or_true]

theorem PrivCsrs.mideleg_kept (p : PrivCsrs) (v : Word) {c : Nat} (hc : 16 ≤ c ∧ c ≤ 18) :
    (p.write 0x303 v).mideleg.getLsbD c = true := by
  have hones : midelegOnes.getLsbD c = true := by
    have h19 : c < 19 := by omega
    revert hc
    exact (by decide : ∀ c < 19, 16 ≤ c ∧ c ≤ 18 → midelegOnes.getLsbD c = true) c h19
  show ((v &&& 0x222) ||| midelegOnes).getLsbD c = true
  rw [BitVec.getLsbD_or, hones, Bool.or_true]

/-- Settles O7: the CSR that may not be read or written, the read, and the write by what its CSR is; then the delegations. -/
theorem csrAccess : Obligations.CsrAccess := by
  unfold Obligations.CsrAccess
  refine ⟨fun op csr src rd s hf => ⟨csrInstr_unreadable hf, fun hw ho => ins_trap hf (csrBody_read_only hw ho),
    csrInstr_reads hf, fun hr hw ho => ⟨fun h => ?cycles, fun h => ?retired, fun h => ?xfctl⟩, fun hr hw ho h1 h2 h3 => ?register⟩,
    fun p v c => ⟨p.medeleg_kept v, p.mideleg_kept v⟩⟩
  all_goals rw [exec_csrWrite, execCsrWrite]
  case cycles =>
    subst h
    exact csrInstr_writes_hart hf hr hw ho rfl
  case retired =>
    subst h
    exact csrInstr_writes_hart hf hr hw ho rfl
  case xfctl =>
    subst h
    exact csrInstr_writes hf hr hw ho
  case register => exact csrInstr_writes_hart hf hr hw ho (State.csrPut_register h1 h2 h3 _)

end Sys2Proof.Machine
end

section
/-! PROOF of AMOs, LR and SC (R238, R244, R260, R262, R266, R272): the instruction around the access, then what the place answers, for a
line that the hart owns and for a vault. -/

namespace Sys2Proof.Machine

/-! ## Before the access (R262, R272) -/

section
variable (s : State) (rl : Bool)

@[simp] theorem State.rx_releasedBy (r : Reg) : (s.releasedBy rl).rx r = s.rx r := by
  cases rl
  · rfl
  · exact s.rx_modMe (fun h => h.raise h.ackTime) r

theorem pairOf_releasedBy (r : Reg) : pairOf (s.releasedBy rl) r = pairOf s r := by simp only [pairOf, State.rx_releasedBy]

variable {s rl}

theorem State.soleEntry_buffered (hb : s.me.sb ≠ []) : s.soleEntry rl = .stall s := if_pos (by simpa using hb)

theorem State.soleEntry_empty (hb : s.me.sb = []) (hr : rl = true → s.me.unacked = 0) : s.soleEntry rl = .ok () (s.releasedBy rl) := by
  have hempty : ¬(!s.me.sb.isEmpty) = true := by rw [hb]; decide
  rw [State.soleEntry, if_neg hempty]
  cases rl with
  | false => rfl
  | true => exact if_pos (hr rfl)

end

/-! ## The instructions around the access -/

section
variable {dw aq rl : Bool} {rd rs1 rs2 : Reg} {s : State} {p : Place}

section
variable {op : AmoOp} (hf : s.Free [rd, rs1, rs2] []) (ha : s.amoAddr (s.rx rs1) (if dw then 8 else 4) 6 .store = .ok p s)
include hf ha

theorem exec_amo_buffered (hb : s.me.sb ≠ []) : exec (.amo op dw aq rl rd rs1 rs2) s = .next s := by
  rw [exec_amo, execAmo]
  exact ins_stall hf (by simp only [ha, State.soleEntry_buffered hb, Act.andThen])

section
variable (hb : s.me.sb = []) (hr : rl = true → s.me.unacked = 0)
include hb hr

theorem exec_amo_answered {old : Nat} {u : State} (hp : (s.releasedBy rl).amoPlace p (s.rx rs1) (if dw then 8 else 4) op
    (s.rx rs2).toNat (s.rx rd).toNat = .ok old u) : exec (.amo op dw aq rl rd rs1 rs2) s
      = .next (((u.wx rd (amoExtend dw old)).record 3 5 (s.rx rs1)).modMe Hart.retire) := by
  rw [exec_amo, execAmo]
  exact ins_ok hf (by simp only [ha, State.soleEntry_empty hb hr, State.rx_releasedBy, hp, Act.andThen])

theorem exec_sc_answered {r : Nat} {u : State} (hp : (s.releasedBy rl).scPlace p (s.rx rs1) (if dw then 8 else 4) (s.rx rs2).toNat
    = .ok r u) : exec (.sc dw aq rl rd rs1 rs2) s
      = .next (((u.wx rd (BitVec.ofNat 64 r)).record 3 5 (s.rx rs1)).modMe Hart.retire) := by
  rw [exec_sc, execSc]
  exact ins_ok hf (by simp only [ha, State.soleEntry_empty hb hr, State.rx_releasedBy, hp, Act.andThen])

end

end

variable (hb : s.me.sb = []) (hr : rl = true → s.me.unacked = 0)
include hb hr

theorem exec_lr_answered (hf : s.Free [rd, rs1] []) (ha : s.amoAddr (s.rx rs1) (if dw then 8 else 4) 4 .load = .ok p s) {old : Nat}
    {u : State} (hp : (s.releasedBy rl).lrPlace p (s.rx rs1) (if dw then 8 else 4) = .ok old u) :
    exec (.lr dw aq rl rd rs1) s = .next (((u.wx rd (amoExtend dw old)).record 3 5 (s.rx rs1)).modMe Hart.retire) := by
  rw [exec_lr, execLr]
  exact ins_ok hf (by simp only [ha, State.soleEntry_empty hb hr, hp, Act.andThen])

theorem exec_amocasQ_answered (hf : s.Free (rs1 :: pairRegs rd ++ pairRegs rs2) []) (hd : rd.getLsbD 0 = false)
    (h2 : rs2.getLsbD 0 = false) (ha : s.amoAddr (s.rx rs1) 16 6 .store = .ok p s) {old : Nat} {u : State}
    (hp : (s.releasedBy rl).amoPlace p (s.rx rs1) 16 .cas (pairOf s rs2) (pairOf s rd) = .ok old u) :
    exec (.amocasQ aq rl rd rs1 rs2) s
      = .next (((if rd = 0 then u else (u.wx rd (BitVec.ofNat 64 old)).wx (rd + 1) (BitVec.ofNat 64 (old / 2 ^ 64))).record 3 5
          (s.rx rs1)).modMe Hart.retire) := by
  rw [exec_amocasQ, execAmocasQ]
  exact ins_ok hf (by simp only [hd, h2, Bool.or_self, Bool.false_eq_true, if_false, ha, State.soleEntry_empty hb hr,
    pairOf_releasedBy, hp, Act.andThen])

end

/-! ## A line that the hart owns (R238) -/

section
variable (h : Hart) (key : Nat) (l : L1Line) (mask : BitVec 64) (d : Line)

@[simp] theorem Hart.storeOwned_x : (h.storeOwned key l mask d).x = h.x := rfl

@[simp] theorem Hart.storeOwned_pts : (h.storeOwned key l mask d).pts = max h.pts (l.rts + 1) := rfl

theorem Hart.storeOwned_l1At : (h.storeOwned key l mask d).l1At key = some
    { l with data := lineMerge mask l.data d, wts := max h.pts (l.rts + 1), rts := max h.pts (l.rts + 1), dirty := true,
             poison := l.poison && !decide (mask = BitVec.allOnes 64) } := Hart.l1At_putL1 _ _ _

/-- An AMO in a copy that is not poisoned: a store when it writes, and else a load (R238). -/
theorem Hart.amoIn_clean (a : AmoReq) {old new : Nat} {wr : Bool} (hp : l.poison = false) (ho : old = lineGet l.data (a.addr % 64) a.size)
    (ha : amoResult a.op a.size old a.val a.cmp = (new, wr)) : h.amoIn key l a = (some old,
      if wr then h.storeOwned key l (byteMask (a.addr % 64) a.size) (BitVec.ofNat 512 (new * 2 ^ (8 * (a.addr % 64))))
      else (h.raise l.wts).putL1 key { l with rts := max l.rts (h.raise l.wts).pts }) := by
  subst ho
  simp only [Hart.amoIn, hp, Bool.false_eq_true, if_false, ha]
  cases wr <;> rfl

end

/-- With no answer that waits, nothing is taken from the entry of the store buffer. -/
theorem Hart.unanswered_bind {α : Type} {h : Hart} {key : Nat} (hu : h.unanswered key) (c : Pend → Bool) (f : Pend → Option α) :
    h.st.bind (fun q => if q.key = key && q.answered && c q then f q else none) = none := by
  cases hs : h.st with
  | none => rfl
  | some q =>
    refine if_neg ?_
    simp only [Bool.and_eq_true, decide_eq_true_eq]
    rintro ⟨⟨hk, ha⟩, _⟩
    rw [hu q hs hk] at ha
    exact absurd ha (by decide)

section
variable {s : State} {p : Place} {l : L1Line}

theorem Hart.storeTime_of_line {h : Hart} {key : Nat} (hl : h.l1At key = some l) : h.storeTime key = max h.pts (l.rts + 1) := by
  rw [Hart.storeTime, hl]

section
variable (hl : s.me.l1At (l1Key (lineNo p.addr) p.home) = some l) (ho : l.st = .owned)
  (hfit : s.fits (dieOf s.cur) (max s.me.pts (l.rts + 1)) = true)
include hl ho hfit

section
variable (hd : dieOfHome p.home = dieOf s.cur) (hu : s.me.unanswered (l1Key (lineNo p.addr) p.home)) (hp : l.poison = false)
  (va : Word) {n : Nat}
include hu hp

theorem State.getOwned_owned (asid : Nat) (amo : Option AmoReq) :
    s.getOwned p va asid amo = .ok l (s.modMe (fun h => { h with st := none })) := by
  have hnone := Hart.unanswered_bind hu (fun _ => true) (fun q => q.fault)
  simp only [Bool.and_true] at hnone
  simp only [State.getOwned, hnone, hl, ho, if_true, Hart.storeTime_of_line hl, hfit, Bool.not_true, Bool.false_eq_true, if_false, hp]

theorem State.amoOwned_owned (op : AmoOp) (v cmp asid : Nat) {new : Nat} {wr : Bool}
    (ha : amoResult op n (lineGet l.data (p.addr % 64) n) v cmp = (new, wr)) :
    s.amoOwned p va n op v cmp asid = .ok (lineGet l.data (p.addr % 64) n) (s.modMe (fun h =>
      if wr then { h with st := none }.storeOwned (l1Key (lineNo p.addr) p.home) l (byteMask (p.addr % 64) n)
        (BitVec.ofNat 512 (new * 2 ^ (8 * (p.addr % 64))))
      else ({ h with st := none }.raise l.wts).putL1 (l1Key (lineNo p.addr) p.home) { l with rts := max l.rts (h.raise l.wts).pts })) := by
  have hnone := Hart.unanswered_bind hu (fun q => q.fault.isNone) (fun q => some q.val)
  have hin := fun h : Hart => h.amoIn_clean (l1Key (lineNo p.addr) p.home) l
    { addr := p.addr, size := n, op := op, val := v, cmp := cmp } hp rfl ha
  simp only [State.amoOwned, hnone, State.getOwned_owned hl ho hfit hu hp, Act.andThen, hin, State.modMe_modMe]
  rfl

include hd

theorem State.amoPlace_owned (hk : p.kind = .hbm) (op : AmoOp) (v cmp : Nat) {new : Nat} {wr : Bool}
    (ha : amoResult op n (lineGet l.data (p.addr % 64) n) v cmp = (new, wr)) :
    s.amoPlace p va n op v cmp = .ok (lineGet l.data (p.addr % 64) n) (s.modMe (fun h =>
      if wr then { h with st := none }.storeOwned (l1Key (lineNo p.addr) p.home) l (byteMask (p.addr % 64) n)
        (BitVec.ofNat 512 (new * 2 ^ (8 * (p.addr % 64))))
      else ({ h with st := none }.raise l.wts).putL1 (l1Key (lineNo p.addr) p.home) { l with rts := max l.rts (h.raise l.wts).pts })) := by
  simp only [State.amoPlace, hk, hd, if_true]
  exact State.amoOwned_owned hl ho hfit hu hp va op v cmp _ ha

theorem State.lrPlace_owned (hk : p.kind = .hbm) :
    s.lrPlace p va n = .ok (lineGet l.data (p.addr % 64) n) (s.modMe (fun h =>
      { ({ h with st := none }.raise l.wts).putL1 (l1Key (lineNo p.addr) p.home) { l with rts := max l.rts (h.raise l.wts).pts } with
        resv := some { vault := false, key := l1Key (lineNo p.addr) p.home } })) := by
  simp only [State.lrPlace, hk, hd, if_true, State.getOwned_owned hl ho hfit hu hp, Act.andThen, State.modMe_modMe]
  rfl

end

theorem State.scPlace_reserved (hk : p.kind = .hbm) (hres : s.me.resv = some { vault := false, key := l1Key (lineNo p.addr) p.home })
    (va : Word) (n v : Nat) : s.scPlace p va n v = .ok 0 (s.modMe (fun h =>
      { h.storeOwned (l1Key (lineNo p.addr) p.home) l (byteMask (p.addr % 64) n)
          (BitVec.ofNat 512 (v % 2 ^ (8 * n) * 2 ^ (8 * (p.addr % 64)))) with resv := none })) := by
  simp only [State.scPlace, hk, hl, ho, hres, decide_true, Bool.and_self, if_true, Hart.storeTime_of_line hl, hfit, Bool.not_true,
    Bool.false_eq_true, if_false, State.modMe_modMe]

end

theorem State.scPlace_unreserved (hk : p.kind = .hbm) (hl : s.me.l1At (l1Key (lineNo p.addr) p.home) = some l)
    (hres : s.me.resv ≠ some { vault := false, key := l1Key (lineNo p.addr) p.home }) (va : Word) (n v : Nat) :
    s.scPlace p va n v = .ok 1 (s.modMe (fun h => { h with resv := none })) := by
  simp only [State.scPlace, hk, hl, hres, decide_false, Bool.and_false, Bool.false_eq_true, if_false]

end

/-! ## A vault (R244) -/

section
variable {s : State} {p : Place} (hk : p.kind = .vault) (hr : s.deadRoute (dieOf s.cur) (dieOfQuad p.home) = none)
  (hq : s.poisoned p.addr = false) {n : Nat} (hv : s.vaultPosted s.cur p.addr n = false) {op : AmoOp} {v cmp new : Nat}
include hk hr hq hv

theorem State.amoPlace_vault_writes (va : Word) (ha : amoResult op n (s.readNat p.addr n) v cmp = (new, true)) :
    s.amoPlace p va n op v cmp = .ok (s.readNat p.addr n) ((s.vaultPut p.home p.addr n new s.me.pts).2.modMe
      (·.raise (max (s.quad p.home).vclk s.me.pts + 1))) := by
  simp only [State.amoPlace, hk, State.amoVault, State.linkTarget_none hr, hv, hq, Bool.false_eq_true, if_false, ha, if_true,
    State.vaultPut_time]

theorem State.amoPlace_vault_reads (va : Word) (ha : amoResult op n (s.readNat p.addr n) v cmp = (new, false)) :
    s.amoPlace p va n op v cmp = .ok (s.readNat p.addr n) (s.modMe (·.raise (s.quad p.home).vclk)) := by
  simp only [State.amoPlace, hk, State.amoVault, State.linkTarget_none hr, hv, hq, Bool.false_eq_true, if_false, ha]

end

/-- The hart after a write at a vault whose time it takes: its registers stay, and its clock is that time. -/
theorem State.vaultPut_raise_me (s : State) (q addr n v : Nat) : ∃ u : State,
    u = (s.vaultPut q addr n v s.me.pts).2.modMe (·.raise (max (s.quad q).vclk s.me.pts + 1)) ∧ u.me.x = s.me.x ∧
    u.me.pts = max (s.quad q).vclk s.me.pts + 1 := by
  obtain ⟨r, ld, hme⟩ := s.vaultPut_me q addr n v s.me.pts
  refine ⟨_, rfl, ?_⟩
  rw [State.me_modMe, hme]
  refine ⟨rfl, ?_⟩
  show max s.me.pts (max (s.quad q).vclk s.me.pts + 1) = _
  exact Nat.max_eq_right (by omega)

/-! ## The statement -/

/-- Settles O4: the instructions around the access, then an AMO, an LR and an SC at an owned line, and an AMO at a vault, each by whether it
writes. -/
theorem atomics : Obligations.Atomics := by
  unfold Obligations.Atomics
  refine ⟨⟨fun op dw aq rl rd rs1 rs2 s p hf ha => ⟨exec_amo_buffered hf ha, fun hb hr old u => exec_amo_answered hf ha hb hr⟩,
      fun aq rl rd rs1 rs2 s p hf hd h2 ha hb hr old u => exec_amocasQ_answered hb hr hf hd h2 ha,
      fun dw aq rl rd rs1 s p hf ha hb hr old u => exec_lr_answered hb hr hf ha,
      fun dw aq rl rd rs1 rs2 s p hf ha hb hr r u => exec_sc_answered hf ha hb hr⟩,
    fun s p va n v cmp op l hk hd hu hfit hl ho hp => ?owned, fun s p va n v cmp op hk hr hq hv hm hn => ?vault,
    fun s p va n l hk hd hu hfit hl ho hp => ⟨_, State.lrPlace_owned hl ho hfit hd hu hp va hk, ?loadReserved⟩,
    fun s p va n v l hk hl ho => ⟨fun hres hfit => ⟨_, State.scPlace_reserved hl ho hfit hk hres va n v, ?stored⟩,
      fun hres => State.scPlace_unreserved hk hl hres va n v⟩⟩
  case owned =>
    obtain ⟨new, wr, ha⟩ : ∃ new wr, amoResult op n (lineGet l.data (p.addr % 64) n) v cmp = (new, wr) := ⟨_, _, rfl⟩
    refine ⟨_, State.amoPlace_owned hl ho hfit hd hu hp va hk op v cmp ha, ?_⟩
    rw [ha, State.me_modMe]
    cases wr with
    | true => exact ⟨rfl, rfl, ⟨_, Hart.storeOwned_l1At _ _ _ _ _, ho, rfl⟩, rfl⟩
    | false => exact ⟨rfl, rfl, ⟨_, Hart.l1At_putL1 _ _ _, ho, rfl⟩, rfl⟩
  case vault =>
    obtain ⟨new, wr, ha⟩ : ∃ new wr, amoResult op n (s.readNat p.addr n) v cmp = (new, wr) := ⟨_, _, rfl⟩
    rw [ha]
    cases wr with
    | true =>
      obtain ⟨u, hu, hx, hpts⟩ := s.vaultPut_raise_me p.home p.addr n new
      refine ⟨u, hu ▸ State.amoPlace_vault_writes hk hr hq hv va ha, hx, hpts, fun b => ?_⟩
      simp only [true_and]
      rw [hu]
      exact State.vaultPut_byteAt s hm p.home p.addr n new s.me.pts b hn
    | false =>
      refine ⟨_, State.amoPlace_vault_reads hk hr hq hv va ha, ?_⟩
      rw [State.me_modMe]
      exact ⟨rfl, rfl, fun b => (if_neg (fun h => absurd h.1 Bool.false_ne_true)).symm⟩
  case loadReserved =>
    rw [State.me_modMe]
    exact ⟨rfl, rfl, rfl⟩
  case stored =>
    rw [State.me_modMe]
    exact ⟨rfl, rfl, _, Hart.storeOwned_l1At _ _ _ _ _, ho, rfl⟩

end Sys2Proof.Machine
end

section
/-! PROOF of the fences (R228, R266, R267, R268, R273): what each waits for, the fence status that FENCE.S returns, and SFENCE.VMA. -/

namespace Sys2Proof.Machine

/-! ## What a fence waits for (R266, R267) -/

section
variable {s : State}

theorem State.fenceFullDie_done (hb : s.me.sb = []) (hu : s.unperformed = false) : s.fenceFullDie = .ok () s :=
  if_pos (by rw [hb, hu]; rfl)

theorem State.fenceFullDie_buffered (hb : s.me.sb ≠ []) : s.fenceFullDie = .stall s := if_neg (by simp [hb])

theorem State.releasePackage_done (hb : s.me.sb = []) (hu : s.me.unacked = 0) :
    s.releasePackage = .ok () (s.modMe (fun h => h.raise h.ackTime)) :=
  if_pos (by rw [hb, hu]; rfl)

theorem State.releasePackage_waits (hn : s.me.sb ≠ [] ∨ s.me.unacked ≠ 0) : s.releasePackage = .stall s := by
  refine if_neg ?_
  rw [Bool.and_eq_true, List.isEmpty_iff, decide_eq_true_eq]
  exact fun hc => hn.elim (fun h => h hc.1) (fun h => h hc.2)

theorem State.releaseSystem_waits (hn : s.me.sb ≠ [] ∨ s.me.unacked ≠ 0) : s.releaseSystem = .stall s := by
  rw [State.releaseSystem, State.releasePackage_waits hn]
  rfl

theorem Hart.no_postedPorts {h : Hart} (hp : h.postedPorts = []) : { h with postedPorts := [] } = h := by
  cases h
  cases hp
  rfl

/-- When no host port has carried posted writes, no read is sent and none is waited for (R32). -/
theorem State.releaseSystem_unposted (hb : s.me.sb = []) (hu : s.me.unacked = 0) (hp : s.me.postedPorts = []) (hq : s.hostReqs = []) :
    s.releaseSystem = .ok () (s.modMe (fun h => h.raise h.ackTime)) := by
  have hsame : s.modMe (fun h => { h.raise h.ackTime with postedPorts := [] }) = s.modMe (fun h => h.raise h.ackTime) :=
    State.modMe_congr s (Hart.no_postedPorts (h := s.me.raise s.me.ackTime) hp)
  simp only [State.releaseSystem, State.releasePackage_done hb hu, Act.andThen, State.me_modMe, Hart.raise_postedPorts, hp,
    List.filter_nil, List.foldl_nil, State.modMe_modMe, State.modMe_hostReqs, hq, List.any_nil, Bool.false_eq_true, if_false, hsame]

end

/-! ## The standard fences -/

section
variable {s : State} (hf : s.Free [] [])
include hf

theorem exec_fence_done (fm pred succ : BitVec 4) (rd rs1 : Reg) (hb : s.me.sb = []) (hu : s.unperformed = false) :
    exec (.fence fm pred succ rd rs1) s = .next (s.modMe Hart.retire) := by
  rw [exec_fence, execFence]
  exact ins_ok hf (State.fenceFullDie_done hb hu)

theorem exec_fence_waits (fm pred succ : BitVec 4) (rd rs1 : Reg) (hb : s.me.sb ≠ []) : exec (.fence fm pred succ rd rs1) s = .next s := by
  rw [exec_fence, execFence]
  exact ins_stall hf (State.fenceFullDie_buffered hb)

theorem exec_fenceTso_done (rd rs1 : Reg) (hb : s.me.sb = []) (hu : s.unperformed = false) :
    exec (.fenceTso rd rs1) s = .next (s.modMe Hart.retire) := by
  rw [exec_fenceTso, execFenceTso]
  exact ins_ok hf (State.fenceFullDie_done hb hu)

theorem exec_fenceI_done (rd rs1 : Reg) (imm : BitVec 12) : exec (.fenceI rd rs1 imm) s = .next (s.modMe Hart.retire) := by
  rw [exec_fenceI, execFenceI]
  exact ins_ok hf rfl

end

/-! ## FENCE.S (R273) -/

/-- The hart after a FENCE.S that has waited long enough: the status is returned and cleared. -/
def Hart.fenced (h : Hart) (d : Reg) (status : Word) : Hart := ({ h.wx d status with fstat := 0 } : Hart).retire

/-- At package and system scope a full fence waits as a release does (R266). -/
theorem exec_fencesFull_package (d : Reg) (s : State) : exec (.fencesFull d .package) s = exec (.fencesRelease d .package) s := by
  rw [exec_fencesFull, exec_fencesRelease]
  rfl

theorem exec_fencesFull_system (d : Reg) (s : State) : exec (.fencesFull d .system) s = exec (.fencesRelease d .system) s := by
  rw [exec_fencesFull, exec_fencesRelease]
  rfl

section
variable {d : Reg} {s : State} (hf : s.Free [d] [])
include hf

/-- A FENCE.S whose wait is over, with what the wait left of the state. -/
theorem ins_fenceStatus {wait : State → Act Unit} {f : Hart → Hart} (hw : wait s = .ok () (s.modMe f)) :
    ins [d] [] (fun s => (wait s).andThen fun _ s => fenceStatus d s) s = .next (s.modMe (fun h => (f h).fenced d (f s.me).fstat)) := by
  refine (ins_ok hf (t := (s.modMe f).modMe (fun h => { h.wx d (f s.me).fstat with fstat := 0 })) ?_).trans ?_
  · simp only [hw, Act.andThen, fenceStatus, State.wx_eq, State.me_modMe, State.modMe_modMe]
  · simp only [State.modMe_modMe]
    rfl

theorem ins_fenceStatus_same {wait : State → Act Unit} (hw : wait s = .ok () s) :
    ins [d] [] (fun s => (wait s).andThen fun _ s => fenceStatus d s) s = .next (s.modMe (fun h => h.fenced d s.me.fstat)) :=
  ins_fenceStatus hf (f := fun h => h) (hw.trans (congrArg _ hf.1.symm))

theorem ins_fenceStatus_waits {wait : State → Act Unit} (hw : wait s = .stall s) :
    ins [d] [] (fun s => (wait s).andThen fun _ s => fenceStatus d s) s = .next s :=
  ins_stall hf (by rw [hw]; rfl)

theorem exec_fencesAcquire_done (sc : Scope) : exec (.fencesAcquire d sc) s = .next (s.modMe (fun h => h.fenced d s.me.fstat)) := by
  rw [exec_fencesAcquire, execFencesAcquire]
  exact ins_fenceStatus_same hf (wait := fun s => .ok () s) rfl

section
variable {sc : Scope} (hsc : scopeCode sc < 4)
include hsc

theorem exec_fencesRelease_die : exec (.fencesRelease d sc) s = .next (s.modMe (fun h => h.fenced d s.me.fstat)) := by
  have hnow : s.release sc = .ok () s := by
    cases sc
    case package => exact absurd hsc (by decide)
    case system => exact absurd hsc (by decide)
    all_goals rfl
  rw [exec_fencesRelease, execFencesRelease]
  exact ins_fenceStatus_same hf hnow

theorem exec_fencesFull_die (hb : s.me.sb = []) (hu : s.unperformed = false) :
    exec (.fencesFull d sc) s = .next (s.modMe (fun h => h.fenced d s.me.fstat)) := by
  rw [exec_fencesFull, execFencesFull]
  exact ins_fenceStatus_same hf ((if_pos hsc).trans (State.fenceFullDie_done hb hu))

theorem exec_fencesFull_die_waits (hb : s.me.sb ≠ []) : exec (.fencesFull d sc) s = .next s := by
  rw [exec_fencesFull, execFencesFull]
  exact ins_fenceStatus_waits hf ((if_pos hsc).trans (State.fenceFullDie_buffered hb))

end

section
variable (hb : s.me.sb = []) (hu : s.me.unacked = 0)
include hb hu

theorem exec_fencesRelease_package : exec (.fencesRelease d .package) s
    = .next (s.modMe (fun h => (h.raise h.ackTime).fenced d s.me.fstat)) := by
  rw [exec_fencesRelease, execFencesRelease]
  exact ins_fenceStatus hf (wait := fun s => s.release .package) (State.releasePackage_done hb hu)

theorem exec_fencesRelease_system (hp : s.me.postedPorts = []) (hq : s.hostReqs = []) :
    exec (.fencesRelease d .system) s = exec (.fencesRelease d .package) s := by
  rw [exec_fencesRelease_package hf hb hu, exec_fencesRelease, execFencesRelease]
  exact ins_fenceStatus hf (wait := fun s => s.release .system) (State.releaseSystem_unposted hb hu hp hq)

end

theorem exec_fencesRelease_waits (hn : s.me.sb ≠ [] ∨ s.me.unacked ≠ 0) :
    exec (.fencesRelease d .package) s = .next s ∧ exec (.fencesRelease d .system) s = .next s := by
  rw [exec_fencesRelease, execFencesRelease, exec_fencesRelease, execFencesRelease]
  exact ⟨ins_fenceStatus_waits hf (wait := fun s => s.release .package) (State.releasePackage_waits hn),
    ins_fenceStatus_waits hf (wait := fun s => s.release .system) (State.releaseSystem_waits hn)⟩

end

/-! ## SFENCE.VMA (R228) -/

section
variable {rs1 rs2 : Reg} {s : State} (hf : s.Free [rs1, rs2] [])
include hf

section
variable (hu : s.me.mode ≠ .u) (htvm : s.me.priv.mstatus.getLsbD 20 = true → s.me.mode = .m)
  {held : Bool} (hh : (s.dropTlbs (fenceVa s rs1) (fenceAsid s rs2)).allTransfers.any
    ((s.dropTlbs (fenceVa s rs1) (fenceAsid s rs2)).holdsPage · (fenceVa s rs1) (fenceAsid s rs2)) = held)
include hu htvm hh

theorem exec_sfenceVma_allowed : exec (.sfenceVma rs1 rs2) s = if held
    then .next (s.dropTlbs (fenceVa s rs1) (fenceAsid s rs2))
    else .next (((s.dropTlbs (fenceVa s rs1) (fenceAsid s rs2)).writeBack (fenceAsid s rs2)).modMe Hart.retire) := by
  have hlow : ¬ s.me.mode.code < (if s.me.priv.mstatus.getLsbD 20 then Mode.m else Mode.s).code := by
    cases ht : s.me.priv.mstatus.getLsbD 20 with
    | true => rw [htvm ht]; decide
    | false => exact Mode.not_below_super hu
  rw [exec_sfenceVma, execSfenceVma]
  cases held with
  | true => exact ins_stall hf ((atLeast_ok hlow _).trans (if_pos hh))
  | false => exact ins_ok hf ((atLeast_ok hlow _).trans (if_neg (ne_true_of_eq_false hh)))

end

theorem exec_sfenceVma_illegal (hm : s.me.mode = .u ∨ s.me.mode = .s ∧ s.me.priv.mstatus.getLsbD 20 = true) :
    exec (.sfenceVma rs1 rs2) s = .next (s.trap 2 s.me.ir) := by
  have hlow : s.me.mode.code < (if s.me.priv.mstatus.getLsbD 20 then Mode.m else Mode.s).code := by
    rcases hm with hm | ⟨hm, ht⟩
    · rw [hm]
      cases s.me.priv.mstatus.getLsbD 20 <;> decide
    · rw [hm, ht]
      decide
  rw [exec_sfenceVma, execSfenceVma]
  exact ins_trap hf (atLeast_low hlow _)

end

/-! ## The statement -/

/-- Settles O5: the standard fences, FENCE.S by its kind and scope, and SFENCE.VMA by the mode and by whether a transfer holds a page. -/
theorem fences : Obligations.Fences := by
  unfold Obligations.Fences
  refine ⟨⟨fun fm pred succ rd rs1 s hf hb hu => exec_fence_done hf fm pred succ rd rs1 hb hu,
      fun fm pred succ rd rs1 s hf hb => exec_fence_waits hf fm pred succ rd rs1 hb,
      fun rd rs1 s hf hb hu => exec_fenceTso_done hf rd rs1 hb hu, fun rd rs1 imm s hf => exec_fenceI_done hf rd rs1 imm⟩,
    fun d s hf => ⟨exec_fencesAcquire_done hf, fun sc hsc => ⟨exec_fencesRelease_die hf hsc, exec_fencesFull_die hf hsc,
        exec_fencesFull_die_waits hf hsc⟩,
      fun hb hu => ⟨exec_fencesRelease_package hf hb hu, exec_fencesFull_package d s⟩,
      fun hb hu hp hq => ⟨exec_fencesRelease_system hf hb hu hp hq,
        (exec_fencesFull_system d s).trans (exec_fencesRelease_system hf hb hu hp hq)⟩,
      exec_fencesRelease_waits hf⟩,
    fun rs1 rs2 s hf hu htvm => ⟨exec_sfenceVma_allowed hf hu htvm, exec_sfenceVma_allowed hf hu htvm⟩,
    fun rs1 rs2 s hf => exec_sfenceVma_illegal hf⟩

end Sys2Proof.Machine
end

section
/-! PROOF of the timestamps of a home (R235, R236, R238, R241, R242): a granule covers the address it is looked up for, so that the one a
request puts back is the one found next; and that granules alone change in a merge and in a split. -/

namespace Sys2Proof.Machine

/-- The granule's range holds the address. -/
def Granule.covers (g : Granule) (a : Nat) : Prop := g.base ≤ a ∧ a < g.base + 2 ^ g.lg

theorem aligned_covers (a lg : Nat) : a / 2 ^ lg * 2 ^ lg ≤ a ∧ a < a / 2 ^ lg * 2 ^ lg + 2 ^ lg :=
  ⟨Nat.div_mul_le_self a _, Nat.lt_div_mul_add (Nat.two_pow_pos lg)⟩

section
variable (hm : Home) (proxy : Bool) (a : Nat)

theorem Home.granule_covers : (hm.granule proxy a).covers a := by
  unfold Home.granule
  split
  next g hg =>
    have hin := List.find?_some hg
    rw [Bool.and_eq_true, decide_eq_true_eq, decide_eq_true_eq] at hin
    exact hin
  next =>
    split
    · exact aligned_covers a 6
    · exact aligned_covers a (hm.freshLg a)

/-- The granule that is put is the one found for every address it covers. -/
theorem Home.findGranule_putGranule {a : Nat} {g : Granule} (hg : g.covers a) : (hm.putGranule g).findGranule a = some g :=
  List.find?_cons_of_pos (by rw [Bool.and_eq_true, decide_eq_true_eq, decide_eq_true_eq]; exact hg)

/-! ## What a merge, a split and a write leave as it was -/

/-- Homes that differ in their granules alone. -/
def Home.SameButGranules (m n : Home) : Prop := m.lines = n.lines ∧ m.hclk = n.hclk

theorem Home.sameButGranules_ite {c : Prop} [Decidable c] {m n o : Home} (h1 : m.SameButGranules o) (h2 : n.SameButGranules o) :
    (if c then m else n).SameButGranules o := by
  split
  · exact h1
  · exact h2

theorem Home.merge_same : (hm.merge proxy a).SameButGranules hm := by
  unfold Home.merge
  split
  · exact ⟨rfl, rfl⟩
  · split
    · exact ⟨rfl, rfl⟩
    · refine Home.sameButGranules_ite ⟨rfl, rfl⟩ ?_
      dsimp only
      split
      · exact ⟨rfl, rfl⟩
      · exact Home.sameButGranules_ite ⟨rfl, rfl⟩ ⟨rfl, rfl⟩

theorem Home.split_same : (hm.split proxy a).SameButGranules hm := by
  unfold Home.split
  exact Home.sameButGranules_ite (Home.sameButGranules_ite ⟨rfl, rfl⟩ ⟨rfl, rfl⟩) ⟨rfl, rfl⟩

/-- The home in which a write or a grant of ownership takes effect. -/
theorem Home.merge_split_same : ((hm.merge proxy a).split proxy a).SameButGranules hm := by
  obtain ⟨hl, hc⟩ := (hm.merge proxy a).split_same proxy a
  obtain ⟨hl', hc'⟩ := hm.merge_same proxy a
  exact ⟨hl.trans hl', hc.trans hc'⟩

theorem Home.findGranule_markDirty (n : Nat) : (hm.markDirty n).findGranule a = hm.findGranule a := by
  unfold Home.markDirty
  split <;> rfl

theorem Home.hclk_markDirty (n : Nat) : (hm.markDirty n).hclk = hm.hclk := by
  unfold Home.markDirty
  split <;> rfl

theorem Home.lines_markDirty (n : Nat) : (hm.markDirty n).lines = (match Store.find? hm.lines n with
    | some l => Store.put hm.lines n { l with dirty := true }
    | none => hm.lines) := by
  unfold Home.markDirty
  cases Store.find? hm.lines n <;> rfl

end

/-! ## The statement -/

/-- Settles O42: the four requests at the granule that each looks up. -/
theorem homeClocks : Obligations.HomeClocks := by
  unfold Obligations.HomeClocks
  refine fun hm proxy a => ⟨fun p lease g hg => ?read, fun t0 g hg => ?write, fun clk g hg => ?engine, fun h inc asid g hg => ?own⟩
  all_goals subst hg
  case read =>
    exact ⟨rfl, Home.findGranule_putGranule _ ((hm.merge proxy a).granule_covers proxy a), (hm.merge_same proxy a).1⟩
  case write =>
    obtain ⟨hlines, hclk⟩ := hm.merge_split_same proxy a
    refine ⟨rfl, ?_, ?_, ?_⟩
    · rw [Home.write, Home.findGranule_markDirty]
      exact Home.findGranule_putGranule _ (((hm.merge proxy a).split proxy a).granule_covers proxy a)
    · rw [Home.write, Home.hclk_markDirty]
      exact congrArg (max · _) hclk
    · rw [Home.write, Home.lines_markDirty, ← hlines]
      rfl
  case engine =>
    exact ⟨rfl, Home.findGranule_putGranule _ ((hm.merge proxy a).granule_covers proxy a)⟩
  case own =>
    refine ⟨rfl, ?_⟩
    rw [Home.owner, Home.line, Home.own, Store.get_put_self]

end Sys2Proof.Machine
end

section
/-! PROOF of rebasing, snoops and requests to the host (R245, R250, R27, R31, R32). -/

namespace Sys2Proof.Machine

/-! ## A die's harts take up the new base -/

/-- What setBase makes of one hart. -/
def Hart.rebase (b : Nat) (x : Hart) : Hart := { x.raise b with l1 := x.l1.map (fun l => (l.1, l.2.rebase b)) }

theorem Hart.rebase_pts (b : Nat) (x : Hart) : (x.rebase b).pts = max x.pts b := rfl
theorem Hart.rebase_x (b : Nat) (x : Hart) : (x.rebase b).x = x.x := rfl

/-- The harts of the list take up the base. -/
def State.rebaseHarts (s : State) (b : Nat) (hs : List Nat) : State := hs.foldl (fun s h => s.modHart h (·.rebase b)) s

theorem State.setBase_eq (s : State) (d b : Nat) :
    s.setBase d b = (s.rebaseHarts b (s.hartsOfDie d)).modDie d (fun x => { x with base := b, rebasing := false, acked := [] }) := rfl

theorem State.rebaseHarts_mem (b : Nat) (hs : List Nat) (s : State) : (s.rebaseHarts b hs).mem = s.mem := by
  induction hs generalizing s with
  | nil => rfl
  | cons g gs ih => exact ih (s.modHart g (·.rebase b))

/-- A hart of the list or not: its registers stay and its clock does not fall. -/
theorem State.rebaseHarts_hart (b h : Nat) (hs : List Nat) (s : State) :
    ((s.rebaseHarts b hs).hart h).x = (s.hart h).x ∧ (s.hart h).pts ≤ ((s.rebaseHarts b hs).hart h).pts := by
  induction hs generalizing s with
  | nil => exact ⟨rfl, le_rfl⟩
  | cons g gs ih =>
    obtain ⟨hx, hp⟩ := ih (s.modHart g (·.rebase b))
    by_cases hg : h = g
    · subst hg
      rw [State.hart_modHart] at hx hp
      exact ⟨hx, (le_max_left _ _).trans hp⟩
    · rw [State.hart_modHart_ne s _ hg] at hx hp
      exact ⟨hx, hp⟩

theorem State.rebaseHarts_reached (b h : Nat) (hs : List Nat) (s : State) (hh : h ∈ hs) : b ≤ ((s.rebaseHarts b hs).hart h).pts := by
  induction hs generalizing s with
  | nil => exact absurd hh List.not_mem_nil
  | cons g gs ih =>
    by_cases hg : h = g
    · subst hg
      have hp := (State.rebaseHarts_hart b h gs (s.modHart h (·.rebase b))).2
      rw [State.hart_modHart] at hp
      exact (le_max_right _ _).trans hp
    · exact ih _ ((List.mem_cons.mp hh).resolve_left hg)

section
variable (s : State) (die : Nat)

theorem exec_rebaseStep_due (hd : die < 4) (hr : (s.die die).rebasing = false) (hdue : s.rebaseDue die = true) :
    exec (.rebaseStep die) s = .next (s.modDie die (fun d => { d with rebasing := true, acked := [] })) := by
  rw [exec_rebaseStep, execRebaseStep, hr, hdue, decide_eq_true hd]
  rfl

theorem exec_rebaseStep_not_due (h : 4 ≤ die ∨ (s.die die).rebasing = true ∨ s.rebaseDue die = false) :
    exec (.rebaseStep die) s = .next s := by
  rw [exec_rebaseStep, execRebaseStep, if_neg]
  rw [Bool.and_eq_true, Bool.and_eq_true, decide_eq_true_eq, Bool.not_eq_true']
  rintro ⟨⟨hd, hr⟩, hdue⟩
  rw [hr, hdue] at h
  exact h.elim (fun hge => hge.not_gt hd) (fun hb => hb.elim nofun nofun)

theorem exec_rebaseFloorReceive_new (home : Nat) (hr : (s.die die).rebasing = true) (hh : s.isHome home = true)
    (ha : (s.die die).acked.contains home = false) :
    exec (.rebaseFloorReceive die home) s
      = .next ((s.modHome home (fun m => { m with floor := max m.floor ((s.die die).base + 0x400000) })).modDie die
        (fun d => { d with acked := insertNat d.acked home })) := by
  rw [exec_rebaseFloorReceive, execRebaseFloorReceive]
  rw [hr, hh, ha]
  rfl

theorem exec_rebaseFloorReceive_none (home : Nat)
    (h : (s.die die).rebasing = false ∨ s.isHome home = false ∨ (s.die die).acked.contains home = true) :
    exec (.rebaseFloorReceive die home) s = .next s := by
  rw [exec_rebaseFloorReceive, execRebaseFloorReceive]
  rw [if_neg]
  rw [Bool.and_eq_true, Bool.and_eq_true, Bool.not_eq_true']
  rintro ⟨⟨hr, hh⟩, ha⟩
  rw [hr, hh, ha] at h
  exact h.elim nofun (fun hb => hb.elim nofun nofun)

theorem exec_rebaseComplete_waits (h : (s.die die).rebasing = false ∨ (s.die die).acked.length ≠ s.homeCount) :
    exec (.rebaseComplete die) s = .next s := by
  rw [exec_rebaseComplete, execRebaseComplete]
  rw [if_neg]
  rw [Bool.and_eq_true, beq_iff_eq]
  rintro ⟨hr, ha⟩
  rw [hr] at h
  exact h.elim nofun (fun hn => hn ha)

theorem exec_rebaseComplete_all (hr : (s.die die).rebasing = true) (ha : (s.die die).acked.length = s.homeCount) :
    exec (.rebaseComplete die) s = .next (s.setBase die ((s.die die).base + 0x400000)) := by
  rw [exec_rebaseComplete, execRebaseComplete]
  rw [hr, ha, beq_self_eq_true]
  rfl

end

/-! ## Snoops -/

section
variable (s : State) (port line : Nat)

theorem exec_hostSnoop_ignored (take : Bool)
    (h : 2 ≤ port ∨ (s.home (0x3000 + port)).holds (lineNo (line / 64 * 64)) = false ∨ (s.port port).up = false) :
    exec (.hostSnoop port line take) s = .next s := by
  rw [exec_hostSnoop, execHostSnoop]
  rw [if_neg]
  rw [Bool.and_eq_true, Bool.and_eq_true, decide_eq_true_eq]
  rintro ⟨⟨hp, hh⟩, hu⟩
  rw [hh, hu] at h
  exact h.elim (fun hge => hge.not_gt hp) (fun hb => hb.elim nofun nofun)

theorem exec_hostSnoop_held (take : Bool) (hp : port < 2) (hh : (s.home (0x3000 + port)).holds (lineNo (line / 64 * 64)) = true)
    (hu : (s.port port).up = true) (u : State) (hs : u = (s.recallNow (0x3000 + port) (line / 64 * 64)).wakeHeld (0x3000 + port)) :
    exec (.hostSnoop port line take) s
      = if take then .next (u.modHome (0x3000 + port) (fun m => m.setSnoop (lineNo (line / 64 * 64)) (some true)
            (m.line (lineNo (line / 64 * 64))).hostOwned))
        else .next ((u.modHome (0x3000 + port) (fun m => m.setSnoop (lineNo (line / 64 * 64))
            (m.line (lineNo (line / 64 * 64))).snoop false)).toHost
            (.snoopReply port (line / 64 * 64) (u.readLine (line / 64 * 64)))) := by
  subst hs
  rw [exec_hostSnoop, execHostSnoop]
  rw [hh, hu, decide_eq_true hp]
  rfl

theorem exec_snoopHoldExpiry_over (hh : (s.home (0x3000 + port)).holds (lineNo (line / 64 * 64)) = true)
    (hn : ((s.home (0x3000 + port)).line (lineNo (line / 64 * 64))).snoop = some true)
    (ho : s.leasesOver (0x3000 + port) (line / 64 * 64) = true) (u : State)
    (hs : u = (s.recallNow (0x3000 + port) (line / 64 * 64)).wakeHeld (0x3000 + port)) :
    exec (.snoopHoldExpiry port line) s
      = .next ((u.toHost (.snoopReply port (line / 64 * 64) (u.readLine (line / 64 * 64)))).modHome (0x3000 + port)
          (·.dropLine true (lineNo (line / 64 * 64)))) := by
  subst hs
  rw [exec_snoopHoldExpiry, execSnoopHoldExpiry]
  rw [hh, hn, ho]
  rfl

theorem exec_snoopHoldExpiry_leased (ho : s.leasesOver (0x3000 + port) (line / 64 * 64) = false) :
    exec (.snoopHoldExpiry port line) s = .next s := by
  rw [exec_snoopHoldExpiry, execSnoopHoldExpiry]
  rw [ho, Bool.and_false, if_neg Bool.false_ne_true]

end

/-! ## Requests to the host -/

theorem State.answerHart_poisoned (s : State) (h port v : Nat) (t : Option Nat) :
    s.answerHart h port true v t
      = s.modHart h (fun x => (x.addFail failPoison (0x2000 + port) false).remoteDone 0 t (some 29)) := rfl

theorem State.answerHart_good (s : State) (h port v : Nat) (t : Option Nat) :
    s.answerHart h port false v t = s.modHart h (·.remoteDone v t none) := rfl

theorem State.recallNow_unowned {s : State} {home line : Nat} (h : (s.home home).owner (lineNo line) = none) :
    s.recallNow home line = s := by
  rw [State.recallNow, h]

theorem State.wakeHeld_none {s : State} {home : Nat} (h : (s.home home).held = []) : s.wakeHeld home = s := by
  rw [State.wakeHeld, h]
  rfl

section
variable (s : State) (req h p addr size val cmp : Nat) (op : AmoOp)

theorem exec_atomicopCompletion_poisoned (hr : s.hostReq req = some (.amo h p addr size op val cmp))
    (hp : (s.dropReq req).poisoned addr = true) :
    exec (.atomicopCompletion req) s
      = .next ((s.dropReq req).modHart h (fun x => (x.addFail failPoison (0x2000 + p) false).remoteDone 0 none (some 29))) := by
  rw [exec_atomicopCompletion, execAtomicopCompletion, hr]
  dsimp only
  rw [hp, if_pos rfl, State.answerHart_poisoned]

theorem exec_atomicopCompletion_good (hr : s.hostReq req = some (.amo h p addr size op val cmp)) (old : Nat) (u : State)
    (hp : (s.dropReq req).poisoned addr = false) (hu : (s.dropReq req).hostAmo addr size op val cmp = (old, u)) :
    exec (.atomicopCompletion req) s = .next (u.modHart h (·.remoteDone old none none)) := by
  rw [exec_atomicopCompletion, execAtomicopCompletion, hr]
  dsimp only
  rw [hp, if_neg Bool.false_ne_true, hu, State.answerHart_good]

theorem exec_hostAmoCompletion_dead (inc t0 : Nat) (hr : s.hostReq req = some (.amoC h inc p addr size op val cmp t0))
    (hi : s.incOf h ≠ inc) :
    exec (.hostAmoCompletion req) s = .next ((s.dropReq req).audit 0x0031 0xF000 0 (payload3 h inc (addr / 64 * 64))) := by
  rw [exec_hostAmoCompletion, execHostAmoCompletion, hr]
  exact if_pos hi

/-- A line that the proxy neither holds nor has granted: the host is asked at once. -/
theorem exec_hostAmoCompletion_unheld (inc t0 : Nat) (hr : s.hostReq req = some (.amoC h inc p addr size op val cmp t0))
    (hi : s.incOf h = inc) (hh : (s.home (0x3000 + p)).holds (lineNo (addr / 64 * 64)) = false)
    (ho : (s.home (0x3000 + p)).owner (lineNo (addr / 64 * 64)) = none) (hw : (s.home (0x3000 + p)).held = [])
    (t : Nat) (ht : t = max t0 ((s.home (0x3000 + p)).hclk + 1)) (u : State)
    (hu : u = (s.dropReq req).modHome (0x3000 + p) (fun m => { m with hclk := max m.hclk t })) :
    exec (.hostAmoCompletion req) s
      = if u.poisoned (addr / 64 * 64) then .next (u.answerHart h p true 0 (some t))
        else .next ((u.hostAmo addr size op val cmp).2.answerHart h p false (u.hostAmo addr size op val cmp).1 (some t)) := by
  have hdrop : (s.dropReq req).home (0x3000 + p) = s.home (0x3000 + p) := rfl
  have hrecall : (s.dropReq req).recallNow (0x3000 + p) (addr / 64 * 64) = s.dropReq req :=
    State.recallNow_unowned (by rw [hdrop, ho])
  have hwake : (s.dropReq req).wakeHeld (0x3000 + p) = s.dropReq req := State.wakeHeld_none (by rw [hdrop, hw])
  subst hu ht
  rw [exec_hostAmoCompletion, execHostAmoCompletion, hr]
  dsimp only
  rw [if_neg (not_not_intro hi), hrecall, hwake, hdrop, hh, if_neg Bool.false_ne_true, hdrop]

theorem exec_hostReadCompletion_load (hr : s.hostReq req = some (.load h p addr size)) :
    exec (.hostReadCompletion req) s
      = .next ((s.dropReq req).answerHart h p (s.poisoned addr) (s.readNat addr size) none) := by
  rw [exec_hostReadCompletion, execHostReadCompletion, hr]
  rfl

end

/-- Settles O45: each event's case by case reading, with the rebase of a die's harts by induction over them. -/
theorem hostLines : Obligations.HostLines := by
  refine ⟨fun s die => ⟨exec_rebaseStep_due s die, exec_rebaseStep_not_due s die, exec_rebaseFloorReceive_new s die,
      exec_rebaseFloorReceive_none s die, exec_rebaseComplete_waits s die, fun hr ha => ?complete⟩, ?snoop,
    fun s req h p addr size val cmp op hr => ⟨exec_atomicopCompletion_poisoned s req h p addr size val cmp op hr,
      exec_atomicopCompletion_good s req h p addr size val cmp op hr⟩, ?amo, ?load, ?copy, ?zlr,
    fun s port addr => ⟨by rw [exec_atomicopAsCompleter, execAtomicopAsCompleter], by rw [exec_otherDmwr, execOtherDmwr]⟩⟩
  case complete =>
    refine ⟨s.rebaseHarts ((s.die die).base + 0x400000) (s.hartsOfDie die), ?_, State.rebaseHarts_mem .., fun h => ?_⟩
    · rw [exec_rebaseComplete_all s die hr ha, State.setBase_eq]
    · obtain ⟨hx, hp⟩ := State.rebaseHarts_hart ((s.die die).base + 0x400000) h (s.hartsOfDie die) s
      exact ⟨hx, State.rebaseHarts_reached _ h _ s, hp⟩
  case snoop =>
    rintro s port line take _ _ _ rfl rfl rfl
    refine ⟨exec_hostSnoop_ignored s port line take, fun u hp hh hu hs => ?_, exec_snoopHoldExpiry_over s port line,
      exec_snoopHoldExpiry_leased s port line⟩
    rw [exec_hostSnoop_held s port line take hp hh hu u hs]
    exact ⟨fun h => if_pos h, fun h => if_neg (ne_true_of_eq_false h)⟩
  case amo =>
    intro s req h inc p addr size val cmp t0 op hr
    refine ⟨exec_hostAmoCompletion_dead s req h p addr size val cmp op inc t0 hr, fun hi hh ho hw t ht u hu => ?_⟩
    rw [exec_hostAmoCompletion_unheld s req h p addr size val cmp op inc t0 hr hi hh ho hw t ht u hu]
    exact ⟨fun hp => if_pos hp, fun hp => if_neg (ne_true_of_eq_false hp)⟩
  case load =>
    intro s req h p addr size hr
    rw [exec_hostReadCompletion_load s req h p addr size hr]
    exact ⟨fun hp => by rw [hp, State.answerHart_poisoned], fun hp => by rw [hp, State.answerHart_good]⟩
  case copy =>
    intro s req t p hr
    rw [exec_hostReadCompletion, execHostReadCompletion, hr]
  case zlr =>
    rintro s req h p n l (hr | hr)
    · rw [exec_zeroLengthReadComplete, execZeroLengthReadComplete, hr]
    · rw [exec_zeroLengthReadComplete, execZeroLengthReadComplete, hr]

end Sys2Proof.Machine

end

section
/-! PROOF of the lengths of encodings (R313, R316, R317) and of what one step of the machine does (R160, R165, R313, R324). -/

namespace Sys2Proof.Machine

/-! ## Lengths -/

section
variable (e : Word)

/-- The fields of the low half are those of the whole. -/
theorem fld_low32 (lo len : Nat) (h : lo + len ≤ 32) : fld (fld e 0 32) lo len = fld e lo len := by
  rw [fld_fld e 0 32 lo len h, Nat.zero_add]

theorem lengthOf_not_three (h : fld e 0 2 ≠ 3) : lengthOf (fld e 0 32) = none := by
  rw [lengthOf, fld_low32 e 0 2 (by decide), if_pos h]

theorem lengthOf_four (h0 : fld e 0 2 = 3) (h1 : fld e 2 3 ≠ 7) : lengthOf (fld e 0 32) = some 4 := by
  rw [lengthOf, fld_low32 e 0 2 (by decide), fld_low32 e 2 3 (by decide), if_neg (not_not_intro h0), if_pos h1]

theorem lengthOf_long (h0 : fld e 0 2 = 3) (h1 : fld e 2 3 = 7) :
    lengthOf (fld e 0 32) = if fld e 5 2 = 1 then some 8 else none := by
  rw [lengthOf, fld_low32 e 0 2 (by decide), fld_low32 e 2 3 (by decide), fld_low32 e 5 2 (by decide),
    if_neg (not_not_intro h0), if_neg (not_not_intro h1)]

/-- Bits 4:0 are all ones when bits 1:0 and bits 4:2 are. -/
theorem fld_five_eq (h : fld e 0 5 = 31) : fld e 0 2 = 3 ∧ fld e 2 3 = 7 := by
  rw [← fld_fld e 0 5 0 2 (by decide), ← fld_fld e 0 5 2 3 (by decide), h]
  decide

theorem fld_seven_eq_iff : fld e 0 7 = 0x3f ↔ fld e 0 2 = 3 ∧ fld e 2 3 = 7 ∧ fld e 5 2 = 1 := by
  rw [← fld_fld e 0 7 0 2 (by decide), ← fld_fld e 0 7 2 3 (by decide), ← fld_fld e 0 7 5 2 (by decide)]
  generalize fld e 0 7 = j
  revert j
  decide

end

theorem checked_eq_ok {len n : Nat} {o : Option Instr} {i : Instr} (h : checked len o = .ok i n) : WellFormed i ∧ n = len := by
  cases o with
  | none => exact absurd h nofun
  | some j =>
    rw [checked] at h
    split at h
    next hf =>
      obtain ⟨rfl, rfl⟩ := Decoded.ok.inj h
      exact ⟨hf, rfl⟩
    next => exact absurd h nofun

section
variable {avail : Nat} {e : Word}

theorem decode_no_length (ha : 4 ≤ avail) (hl : lengthOf (fld e 0 32) = none) : decode avail e = .reject .length := by
  rw [decode, if_neg ha.not_gt, hl]

theorem decode_long_short (ha : 4 ≤ avail) (h8 : avail < 8) (hj : fld e 0 7 = 0x3f) : decode avail e = .reject .short := by
  obtain ⟨h0, h1, h2⟩ := (fld_seven_eq_iff e).mp hj
  rw [decode, if_neg ha.not_gt, lengthOf_long e h0 h1, if_pos h2]
  exact if_pos h8

/-- What decodes is well-formed, and its length is what its first seven bits say. -/
theorem decode_eq_ok {i : Instr} {n : Nat} (h : decode avail e = .ok i n) :
    WellFormed i ∧ n ≤ avail ∧ fld e 0 2 = 3 ∧ n = (if fld e 0 7 = 0x3f then 8 else 4) := by
  by_cases ha : avail < 4
  · rw [decode, if_pos ha] at h
    exact absurd h nofun
  by_cases h0 : fld e 0 2 = 3
  · by_cases h1 : fld e 2 3 = 7
    · by_cases h2 : fld e 5 2 = 1
      · rw [decode, if_neg ha, lengthOf_long e h0 h1, if_pos h2] at h
        by_cases h8 : avail < 8
        · exact absurd ((if_pos h8).symm.trans h) nofun
        · obtain ⟨hw, rfl⟩ := checked_eq_ok ((if_neg h8).symm.trans h)
          exact ⟨hw, not_lt.mp h8, h0, (if_pos ((fld_seven_eq_iff e).mpr ⟨h0, h1, h2⟩)).symm⟩
      · rw [decode, if_neg ha, lengthOf_long e h0 h1, if_neg h2] at h
        exact absurd h nofun
    · rw [decode, if_neg ha, lengthOf_four e h0 h1] at h
      obtain ⟨hw, rfl⟩ := checked_eq_ok h
      exact ⟨hw, not_lt.mp ha, h0, (if_neg fun hj => h1 ((fld_seven_eq_iff e).mp hj).2.1).symm⟩
  · rw [decode_no_length (not_lt.mp ha) (lengthOf_not_three e h0)] at h
    exact absurd h nofun

end

/-- Settles O57: the four cases of lengthOf, read off the first seven bits. -/
theorem encodingLengths : Obligations.EncodingLengths := by
  refine fun avail e => ⟨fun ha h => decode_no_length ha (lengthOf_not_three e h), fun ha h5 h2 => ?_, decode_long_short,
    fun i n => decode_eq_ok⟩
  obtain ⟨h0, h1⟩ := fld_five_eq e h5
  exact decode_no_length ha (by rw [lengthOf_long e h0 h1, if_neg h2])

/-! ## One step -/

section
variable {s u : State} {h : Nat} {rest : List Move}

/-- The turn of a hart, or of the management core. -/
theorem step_run (ha : s.agenda = .run h :: rest) (hp : s.hartPresent h = true ∨ h = mcHart)
    (hu : u = { s with agenda := rest, cur := h }) : step s = u.hartStep := by
  have hturn : ({ s with agenda := rest }.hartPresent h || h == mcHart) = true := by
    rw [Bool.or_eq_true, beq_iff_eq]
    exact hp
  subst hu
  rw [step_agenda ha]
  exact if_pos hturn

theorem turn_clocked (hu : u = { s with agenda := rest, cur := h }) (hc : s.halted = false ∨ h = mcHart) :
    u.halted = false ∨ u.cur = mcHart := by
  rw [hu]
  exact hc

theorem turn_released (hu : u = { s with agenda := rest, cur := h }) (hb : s.rtu.boot = .released) : u.rtu.boot = .released := by
  rw [hu]
  exact hb

theorem turn_cur (hu : u = { s with agenda := rest, cur := h }) : u.cur = h := by rw [hu]
theorem turn_cycle (hu : u = { s with agenda := rest, cur := h }) : u.cycle = s.cycle := by rw [hu]

/-- The turn of an event whose unit is clocked. -/
theorem step_event {i : Instr} (ha : s.agenda = .event i :: rest) (hr : roles i = none) (hc : isCall i = false)
    (hh : s.halted = false ∨ outsideCore i = true) : step s = exec i { s with agenda := rest } := by
  have hhap : State.happens { s with agenda := rest } i = true := by
    rw [State.happens, hr, hc]
    exact hh.elim (fun h0 => by rw [h0]; rfl) (fun h1 => by rw [h1, Bool.or_true]; rfl)
  rw [step_agenda ha]
  exact if_pos hhap

end

section
variable {u : State} (hc : u.halted = false ∨ u.cur = mcHart) (hb : u.rtu.boot = .released)
include hc hb

/-- A hart that is clocked, out of reset: a stop comes first, then an interrupt, then what its status says. -/
theorem State.hartStep_boundary : u.hartStep =
    if u.me.stopDue then (if u.me.stopReady then execStopRequest u.cur u else .next u.oneCycle)
    else if u.me.interruptible && u.me.interrupt.isSome then execInterruptTaken u.cur u
    else
      match u.me.status with
      | .running =>
        if u.me.interruptible && u.me.budgetDue then execBudgetExhausted u.cur u
        else
          match (if u.me.mode = .u && u.me.atBoundary then u.me.startTraps else []) with
          | e :: rest => .next (u.startTrap e rest)
          | [] => u.oneCycle.fetchExec
      | .waiting => if u.me.pending = 0 then .next u.oneCycle else .next (u.modMe (fun h => { h with status := .running }))
      | _ => .next u.oneCycle := by
  have hclock : ¬(u.halted && u.cur != mcHart) = true := by
    rw [Bool.and_eq_true, bne_iff_ne]
    rintro ⟨hh, hne⟩
    exact hc.elim (fun h0 => Bool.false_ne_true (h0.symm.trans hh)) hne
  have hboot : ¬(u.rtu.boot != .released) = true := by rw [hb]; decide
  unfold State.hartStep
  dsimp only
  exact (if_neg hclock).trans (if_neg hboot)

theorem State.hartStep_stop (hr : u.me.stopReady = true) : u.hartStep = .next (u.stopNow u.cur) := by
  have hd : u.me.stopDue = true := (Bool.and_eq_true_iff.mp hr).1
  rw [State.hartStep_boundary hc hb, if_pos hd, if_pos hr, ← exec_stopRequest]
  exact exec_stopRequest_of_ready hr

variable (hd : u.me.stopDue = false)
include hd

theorem State.hartStep_interrupt {n : Nat} (hi : u.me.interruptible = true) (hn : u.me.interrupt = some n) :
    u.hartStep = .next ((u.cancelWait u.cur).modHart u.cur (fun x =>
      { x.takeTrap u.cycle true n 0 x.pc with status := .running })) := by
  rw [State.hartStep_boundary hc hb, if_neg (ne_true_of_eq_false hd), if_pos (by rw [hi, hn]; rfl), ← exec_interruptTaken]
  exact exec_interruptTaken_traps hi hd hn

theorem State.hartStep_budget (hi : u.me.interruptible = true) (hn : u.me.interrupt = none) (hs : u.me.status = .running)
    (hbd : u.me.budgetDue = true) :
    u.hartStep = .next ((u.cancelWait u.cur).modHart u.cur (fun x =>
      ({ x with dev := { x.dev with zero := true } } : Hart).takeTrap u.cycle false 27 0 x.pc)) := by
  rw [State.hartStep_boundary hc hb, if_neg (ne_true_of_eq_false hd), if_neg (by rw [hi, hn]; decide), hs]
  dsimp only
  rw [if_pos (by rw [hi, hbd]; rfl), ← exec_budgetExhausted]
  exact exec_budgetExhausted_traps hbd hs hi hd hn

/-- No interrupt and no budget trap: the traps that a task's start left come before its next instruction. -/
theorem State.hartStep_running (hn : (u.me.interruptible && u.me.interrupt.isSome) = false)
    (hbd : (u.me.interruptible && u.me.budgetDue) = false) (hs : u.me.status = .running) :
    u.hartStep = match (if u.me.mode = .u && u.me.atBoundary then u.me.startTraps else []) with
      | e :: rest => .next (u.startTrap e rest)
      | [] => u.oneCycle.fetchExec := by
  rw [State.hartStep_boundary hc hb, if_neg (ne_true_of_eq_false hd), if_neg (ne_true_of_eq_false hn), hs]
  exact if_neg (ne_true_of_eq_false hbd)

end

section
variable {s v : State} {bs : List Byte} (hf : s.fetch = .ok bs v)
include hf

theorem State.fetchExec_ok {i : Instr} {len : Nat} (hd : decodeBytes bs = .ok i len) :
    s.fetchExec = if v.laneFirst i then .next v else exec i (v.ready len (encodingOf bs)) := by
  rw [State.fetchExec, hf]
  dsimp only
  rw [State.execBytes, hd]

theorem State.fetchExec_short (hd : decodeBytes bs = .reject .short) : s.fetchExec = .next (v.trap 1 v.me.pc) := by
  rw [State.fetchExec, hf]
  dsimp only
  rw [State.execBytes, hd]

theorem State.fetchExec_reject {w : Reject} (hw : w ≠ .short) (hd : decodeBytes bs = .reject w) :
    s.fetchExec = .next (v.trap 2 (encodingOf bs)) := by
  rw [State.fetchExec, hf]
  dsimp only
  rw [State.execBytes, hd]
  cases w with
  | short => exact absurd rfl hw
  | length | unassigned | field => rfl

end

/-- Settles O59: the turn of a hart is hartStep, whose branches stand in the order of R165. -/
theorem stepRuns : Obligations.StepRuns := by
  refine ⟨fun s u h rest ha hp hu hc hb hs hd hn hbd ht => ?runs,
    fun s u h rest ha hp hu hc hb => ⟨fun hr => ?stop, fun hd hi => ⟨fun n hn => ?interrupt, fun hn hs hbd => ?budget⟩,
      fun e more hd hn hbd hs hm hat ht => ?start⟩,
    fun s i rest ha hr hk hh => step_event ha hr hk hh⟩
  case runs =>
    have hstep : step s = u.oneCycle.fetchExec := by
      have htraps : (if u.me.mode = .u && u.me.atBoundary then u.me.startTraps else []) = [] := by
        split
        next hg =>
          obtain ⟨hm, hat⟩ := Bool.and_eq_true_iff.mp hg
          exact ht (of_decide_eq_true hm) hat
        next => rfl
      rw [step_run ha hp hu, State.hartStep_running (turn_clocked hu hc) (turn_released hu hb) hd hn hbd hs, htraps]
    refine ⟨fun bs v hf => ⟨fun i len hdec => ?_, fun hdec => ?_, fun w hw hdec => ?_⟩, fun c x v hf => ?_, fun v hf => ?_⟩
    · rw [hstep, State.fetchExec_ok hf hdec]
      exact ⟨fun hl => if_neg (ne_true_of_eq_false hl), fun hl => if_pos hl⟩
    · rw [hstep, State.fetchExec_short hf hdec]
    · rw [hstep, State.fetchExec_reject hf hw hdec]
    · rw [hstep, State.fetchExec, hf]
    · rw [hstep, State.fetchExec, hf]
  case stop =>
    rw [step_run ha hp hu, State.hartStep_stop (turn_clocked hu hc) (turn_released hu hb) hr, turn_cur hu]
  case interrupt =>
    rw [step_run ha hp hu, State.hartStep_interrupt (turn_clocked hu hc) (turn_released hu hb) hd hi hn, turn_cur hu, turn_cycle hu]
  case budget =>
    rw [step_run ha hp hu, State.hartStep_budget (turn_clocked hu hc) (turn_released hu hb) hd hi hn hs hbd, turn_cur hu, turn_cycle hu]
  case start =>
    rw [step_run ha hp hu, State.hartStep_running (turn_clocked hu hc) (turn_released hu hb) hd hn hbd hs,
      if_pos (by rw [hm, hat]; rfl), ht]
    rfl

end Sys2Proof.Machine

end

section
/-! PROOF that a region result is the exact set or contains it (R369, R372 to R374): what snap keeps in one dimension, what a list of
slabs keeps as it is built, and that a merge of fit only adds. -/

namespace Sys2Proof.Machine

/-! ## One dimension -/

/-- The coordinate lies in the interval. -/
def inDim (iv : Int × Int) (v : Int) : Prop := iv.1 ≤ v ∧ v < iv.2

/-- The coordinate is congruent to the phase modulo the step. -/
def onDim (e : Nat × Nat) (v : Int) : Prop := (2 : Int) ^ e.1 ∣ v - e.2

theorem emod_le_of_nonneg {q x : Int} (hq : 0 < q) (hx : 0 ≤ x) : x % q ≤ x := by
  rw [Int.emod_def]
  exact sub_le_self x (mul_nonneg hq.le (Int.ediv_nonneg hx hq.le))

section
variable {q p v : Int} (hq : 0 < q) (hv : q ∣ v - p)
include hq hv

/-- The first lattice point from lo on is no later than a lattice point from lo on. -/
theorem snapLow_le_iff (lo : Int) : lo + (p - lo) % q ≤ v ↔ lo ≤ v := by
  have h0 := Int.emod_nonneg (p - lo) hq.ne'
  refine ⟨fun h => by omega, fun h => ?_⟩
  have he : (p - lo) % q = (v - lo) % q := (Int.modEq_iff_dvd.mpr hv).sub_right lo
  have hle : (v - lo) % q ≤ v - lo := emod_le_of_nonneg hq (by omega)
  omega

/-- The last lattice point below hi is no earlier than a lattice point below hi. -/
theorem lt_snapHigh_iff (hi : Int) : v < hi - 1 - (hi - 1 - p) % q + 1 ↔ v < hi := by
  have h0 := Int.emod_nonneg (hi - 1 - p) hq.ne'
  refine ⟨fun h => by omega, fun h => ?_⟩
  have he : (hi - 1 - p) % q = (hi - 1 - v) % q := (Int.modEq_iff_dvd.mpr hv).sub_left (hi - 1)
  have hle : (hi - 1 - v) % q ≤ hi - 1 - v := emod_le_of_nonneg hq (by omega)
  omega

end

/-- An interval that snap gives: not empty, and its last point on the lattice. -/
def Snapped (e : Nat × Nat) (iv : Int × Int) : Prop := iv.1 < iv.2 ∧ onDim e iv.1 ∧ onDim e (iv.2 - 1)

theorem snap_snapped {lo hi : Int} {e : Nat × Nat} {iv : Int × Int} (h : snap lo hi e = some iv) : Snapped e iv := by
  unfold snap at h
  dsimp only at h
  split at h
  · exact absurd h nofun
  · next hza =>
    obtain rfl := Option.some.inj h
    refine ⟨by dsimp only; omega, ?_, ?_⟩
    · have hd := Int.dvd_self_sub_emod (x := (e.2 : Int) - lo) (m := 2 ^ e.1)
      unfold onDim
      rw [← dvd_neg]
      exact (by ring : (e.2 : Int) - lo - (e.2 - lo) % 2 ^ e.1 = -(lo + (e.2 - lo) % 2 ^ e.1 - e.2)) ▸ hd
    · have hd := Int.dvd_self_sub_emod (x := hi - 1 - (e.2 : Int)) (m := 2 ^ e.1)
      unfold onDim
      exact (by ring : hi - 1 - (e.2 : Int) - (hi - 1 - e.2) % 2 ^ e.1
        = hi - 1 - (hi - 1 - e.2) % 2 ^ e.1 + 1 - 1 - e.2) ▸ hd

/-- snap keeps the lattice points of an interval. -/
theorem snap_covers (lo hi : Int) {e : Nat × Nat} {v : Int} (hv : onDim e v) :
    (∃ iv, snap lo hi e = some iv ∧ inDim iv v) ↔ inDim (lo, hi) v := by
  have hq : (0 : Int) < 2 ^ e.1 := by positivity
  have hl := snapLow_le_iff hq hv lo
  have hh := lt_snapHigh_iff hq hv hi
  unfold snap inDim
  dsimp only
  split
  next hza => exact ⟨fun ⟨iv, h, _⟩ => absurd h nofun, fun ⟨h1, h2⟩ => absurd (hl.mpr h1) (by have := hh.mpr h2; omega)⟩
  next => exact ⟨fun ⟨iv, h, h1, h2⟩ => by obtain rfl := Option.some.inj h; exact ⟨hl.mp h1, hh.mp h2⟩,
      fun ⟨h1, h2⟩ => ⟨_, rfl, hl.mpr h1, hh.mpr h2⟩⟩

theorem inBox_cons (iv : Int × Int) (b : Box) (v : Int) (x : List Int) : inBox (iv :: b) (v :: x) = true ↔ inDim iv v ∧ inBox b x = true := by
  rw [inBox, List.zip_cons_cons, List.all_cons, Bool.and_eq_true, Bool.and_eq_true, decide_eq_true_eq, decide_eq_true_eq]
  rfl

theorem inBox_nil (x : List Int) : inBox [] x = true := by rw [inBox, List.zip_nil_left, List.all_nil]

theorem onLattice_cons (e : Nat × Nat) (l : Lattice) (v : Int) (x : List Int) :
    onLattice (e :: l) (v :: x) = true ↔ onDim e v ∧ onLattice l x = true := by
  rw [onLattice, List.zip_cons_cons, List.all_cons, Bool.and_eq_true, beq_iff_eq, ← Int.dvd_iff_emod_eq_zero]
  rfl

/-! ## Snapped boxes -/

theorem snapBox_length {l : Lattice} {b c : Box} (h : snapBox l b = some c) : c.length = l.length := by
  induction l generalizing b c with
  | nil =>
    obtain rfl := Option.some.inj h
    rfl
  | cons e l ih =>
    match b with
    | [] => exact absurd h nofun
    | (lo, hi) :: b =>
      rw [snapBox] at h
      split at h
      next y r _ hr =>
        obtain rfl := Option.some.inj h
        rw [List.length_cons, List.length_cons, ih hr]
      next => exact absurd h nofun

/-- Clamping and snapping keep the lattice points of the clamped box. -/
theorem snapBox_covers {l : Lattice} {b : Box} {x : List Int} (hb : b.length = l.length) (hx : x.length = l.length)
    (hl : onLattice l x = true) : (∃ c, snapBox l b = some c ∧ inBox c x = true) ↔ inBox (clampBox b) x = true := by
  induction l generalizing b x with
  | nil =>
    obtain rfl := List.length_eq_zero_iff.mp hb
    exact ⟨fun _ => inBox_nil x, fun _ => ⟨[], rfl, inBox_nil x⟩⟩
  | cons e l ih =>
    match b, x with
    | (lo, hi) :: b, v :: x =>
      obtain ⟨hv, hl⟩ := (onLattice_cons e l v x).mp hl
      have hdim := snap_covers (clampBound lo) (clampBound hi) hv
      have hrest := ih (Nat.succ.inj hb) (Nat.succ.inj hx) hl
      rw [clampBox, List.map_cons, inBox_cons, ← hdim, ← clampBox, ← hrest, snapBox]
      constructor
      · rintro ⟨c, hc, hin⟩
        split at hc
        next y r hy hr =>
          obtain rfl := Option.some.inj hc
          obtain ⟨h1, h2⟩ := (inBox_cons y r v x).mp hin
          exact ⟨⟨y, hy, h1⟩, r, hr, h2⟩
        next => exact absurd hc nofun
      · rintro ⟨⟨y, hy, h1⟩, r, hr, h2⟩
        rw [hy, hr]
        exact ⟨y :: r, rfl, (inBox_cons y r v x).mpr ⟨h1, h2⟩⟩

/-! ## The cuts of a dimension -/

theorem mem_insertInt {c : List Int} {k y : Int} : y ∈ insertInt c k ↔ y = k ∨ y ∈ c := by
  induction c with
  | nil => exact List.mem_cons
  | cons a r ih =>
    rw [insertInt]
    split
    · exact List.mem_cons
    · split
      next hk => rw [hk, List.mem_cons, or_self_left]
      next => rw [List.mem_cons, ih, List.mem_cons, or_left_comm]

theorem pairwise_insertInt {c : List Int} {k : Int} (hc : c.Pairwise (· < ·)) : (insertInt c k).Pairwise (· < ·) := by
  induction c with
  | nil => exact List.pairwise_singleton _ _
  | cons a r ih =>
    obtain ⟨ha, hr⟩ := List.pairwise_cons.mp hc
    rw [insertInt]
    split
    next hk => exact List.pairwise_cons.mpr ⟨fun y hy => (List.mem_cons.mp hy).elim (fun h => h ▸ hk) (fun h => hk.trans (ha y h)), hc⟩
    next hk =>
      split
      · exact hc
      next hne =>
        refine List.pairwise_cons.mpr ⟨fun y hy => (mem_insertInt.mp hy).elim (fun h => ?_) (ha y), ih hr⟩
        omega

/-- The bounds of the first dimension, sorted. -/
def cutsOf (bs : List Box) (c : List Int) : List Int := bs.foldl (fun c b => insertInt (insertInt c (headBound b).1) (headBound b).2) c

theorem pairwise_cutsOf (bs : List Box) {c : List Int} (hc : c.Pairwise (· < ·)) : (cutsOf bs c).Pairwise (· < ·) := by
  induction bs generalizing c with
  | nil => exact hc
  | cons b r ih => exact ih (pairwise_insertInt (pairwise_insertInt hc))

theorem mem_cutsOf {bs : List Box} {c : List Int} {y : Int} :
    y ∈ cutsOf bs c ↔ y ∈ c ∨ ∃ b ∈ bs, y = (headBound b).1 ∨ y = (headBound b).2 := by
  induction bs generalizing c with
  | nil => exact ⟨Or.inl, fun h => h.elim id fun ⟨b, hb, _⟩ => absurd hb List.not_mem_nil⟩
  | cons b r ih =>
    rw [cutsOf, List.foldl_cons, ← cutsOf, ih, mem_insertInt, mem_insertInt]
    simp only [List.mem_cons, exists_eq_or_imp]
    simp only [or_assoc, or_comm, or_left_comm]

/-- Between two cuts lies a coordinate's own pair of neighbouring cuts. -/
theorem exists_pair {c : List Int} (hc : c.Pairwise (· < ·)) {lo hi v : Int} (hlo : lo ∈ c) (hhi : hi ∈ c) (h1 : lo ≤ v) (h2 : v < hi) :
    ∃ p ∈ pairs c, lo ≤ p.1 ∧ p.2 ≤ hi ∧ inDim p v := by
  induction c generalizing lo with
  | nil => exact absurd hlo List.not_mem_nil
  | cons a r ih =>
    obtain ⟨ha, hr⟩ := List.pairwise_cons.mp hc
    match r with
    | [] =>
      rw [List.mem_singleton] at hlo hhi
      omega
    | b :: r =>
      have hab : a < b := ha b List.mem_cons_self
      have hhi' : hi ∈ b :: r := by
        refine (List.mem_cons.mp hhi).resolve_left fun h => ?_
        have hlo' : a ≤ lo := (List.mem_cons.mp hlo).elim (fun h => h.ge) (fun h => (ha lo h).le)
        omega
      have hb : ∀ y ∈ b :: r, b ≤ y := fun y hy =>
        (List.mem_cons.mp hy).elim (fun h => h.ge) (fun h => ((List.pairwise_cons.mp hr).1 y h).le)
      by_cases hv : v < b
      · refine ⟨(a, b), List.mem_cons_self, ?_, hb hi hhi', ?_, hv⟩
        all_goals
          have hlo' : lo = a := (List.mem_cons.mp hlo).resolve_right fun h => absurd (hb lo h) (by omega)
          dsimp only
          omega
      · have hstart : max lo b ∈ b :: r := by
          rcases le_total lo b with h | h
          · rw [max_eq_right h]
            exact List.mem_cons_self
          · rw [max_eq_left h]
            exact (List.mem_cons.mp hlo).resolve_left (by omega)
        obtain ⟨p, hp, hp1, hp2⟩ := ih hr hstart hhi' (by omega)
        exact ⟨p, List.mem_cons_of_mem _ hp, (le_max_left _ _).trans hp1, hp2⟩

/-! ## Slabs -/

/-- A slab holds the point with the coordinate v in its dimension and x in the others. -/
def Slab.holds (v : Int) (x : List Int) (s : Slab) : Prop := inDim s.1 v ∧ ∃ b ∈ s.2, inBox b x = true

/-- A slab as `slabs` builds it: its interval snapped, its boxes of the dimensions that are left. -/
def Slab.Ok (e : Nat × Nat) (n : Nat) (s : Slab) : Prop := Snapped e s.1 ∧ ∀ b ∈ s.2, b.length = n

/-- On the lattice nothing lies between an interval's last point and the next one. -/
theorem inDim_merge {e : Nat × Nat} {v lo hi : Int} {iv : Int × Int} (hv : onDim e v) (hs : Snapped e (lo, hi)) (hi' : Snapped e iv)
    (hm : iv.1 = hi + 2 ^ e.1 - 1) : inDim (lo, iv.2) v ↔ inDim (lo, hi) v ∨ inDim iv v := by
  obtain ⟨hlt, -, hlast⟩ := hs
  have hlt' : iv.1 < iv.2 := hi'.1
  have hq : (0 : Int) < 2 ^ e.1 := by positivity
  have hgap : hi ≤ v → iv.1 ≤ v := by
    intro h
    obtain ⟨k, hk⟩ : (2 : Int) ^ e.1 ∣ v - (hi - 1) := by
      have hd : (2 : Int) ^ e.1 ∣ (v - e.2) - (hi - 1 - e.2) := dvd_sub hv hlast
      exact (by ring : v - (e.2 : Int) - (hi - 1 - e.2) = v - (hi - 1)) ▸ hd
    have hpos : 0 < k := by
      by_contra hneg
      have : (2 : Int) ^ e.1 * k ≤ 0 := mul_nonpos_of_nonneg_of_nonpos hq.le (not_lt.mp hneg)
      omega
    have : (2 : Int) ^ e.1 * 1 ≤ 2 ^ e.1 * k := mul_le_mul_of_nonneg_left hpos hq.le
    omega
  simp only [inDim] at hlt ⊢
  omega

section
variable {e : Nat × Nat} {n : Nat} {out : List Slab} {iv : Int × Int} {bs : List Box}
  (ho : ∀ s ∈ out, Slab.Ok e n s) (hiv : Snapped e iv)
include ho hiv

theorem addSlab_ok (hb : ∀ b ∈ bs, b.length = n) : ∀ s ∈ addSlab e.1 out iv bs, Slab.Ok e n s := by
  have hnew : ∀ s ∈ (iv, bs) :: out, Slab.Ok e n s := fun s hs => (List.mem_cons.mp hs).elim (fun h => h ▸ ⟨hiv, hb⟩) (ho s)
  match out with
  | [] => exact hnew
  | ((lo, hi), y) :: r =>
    rw [addSlab]
    split
    next hm =>
      obtain ⟨⟨hlt, hlo, hlast⟩, hy⟩ := ho _ List.mem_cons_self
      have hlt' : iv.1 < iv.2 := hiv.1
      have hq : (0 : Int) < 2 ^ e.1 := by positivity
      refine fun s hs => (List.mem_cons.mp hs).elim (fun h => h ▸ ⟨⟨?_, hlo, hiv.2.2⟩, hy⟩) fun h => ho s (List.mem_cons_of_mem _ h)
      dsimp only at hlt ⊢
      omega
    next => exact hnew

theorem addSlab_holds {v : Int} (x : List Int) (hv : onDim e v) :
    (∃ s ∈ addSlab e.1 out iv bs, Slab.holds v x s) ↔ (∃ s ∈ out, Slab.holds v x s) ∨ Slab.holds v x (iv, bs) := by
  have hnew : (∃ s ∈ (iv, bs) :: out, Slab.holds v x s) ↔ (∃ s ∈ out, Slab.holds v x s) ∨ Slab.holds v x (iv, bs) := by
    simp only [List.mem_cons, exists_eq_or_imp]
    exact or_comm
  match out with
  | [] => exact hnew
  | ((lo, hi), y) :: r =>
    rw [addSlab]
    split
    next hm =>
      obtain ⟨rfl, hm⟩ := hm
      have hmerge := inDim_merge hv (ho _ List.mem_cons_self).1 hiv hm
      simp only [List.mem_cons, exists_eq_or_imp, Slab.holds, hmerge]
      rw [or_and_right]
      exact or_right_comm
    next => exact hnew

end

/-- The boxes that cross an interval between cuts, in the dimensions that are left. -/
def crossing (bs : List Box) (c : Int × Int) : List Box :=
  (bs.filter (fun b => decide ((headBound b).1 ≤ c.1) && decide (c.2 ≤ (headBound b).2))).map List.tail

/-- One interval between cuts joins the slabs. -/
def slabStep (e : Nat × Nat) (l : Lattice) (bs : List Box) (out : List Slab) (c : Int × Int) : List Slab :=
  match snap c.1 c.2 e with
  | none => out
  | some iv => if (slabs l (crossing bs c)).isEmpty then out else addSlab e.1 out iv (slabs l (crossing bs c))

theorem slabs_cons (e : Nat × Nat) (l : Lattice) (bs : List Box) : slabs (e :: l) bs =
    ((pairs (cutsOf bs [])).foldl (slabStep e l bs) []).reverse.flatMap (fun s => s.2.map (fun x => s.1 :: x)) := rfl

theorem mem_crossing {bs : List Box} {c : Int × Int} {t : Box} :
    t ∈ crossing bs c ↔ ∃ b ∈ bs, (headBound b).1 ≤ c.1 ∧ c.2 ≤ (headBound b).2 ∧ b.tail = t := by
  simp only [crossing, List.mem_map, List.mem_filter, Bool.and_eq_true, decide_eq_true_eq, and_assoc]

theorem crossing_length {bs : List Box} {n : Nat} (hb : ∀ b ∈ bs, b.length = n + 1) (c : Int × Int) :
    ∀ t ∈ crossing bs c, t.length = n := by
  intro t ht
  obtain ⟨b, hbm, -, -, rfl⟩ := mem_crossing.mp ht
  rw [List.length_tail, hb b hbm, Nat.add_sub_cancel]

/-- The intervals of a list join the slabs, when `slabs` is right in the dimensions that are left. -/
theorem foldl_slabStep {e : Nat × Nat} {l : Lattice} {bs : List Box} {v : Int} {x : List Int} (hv : onDim e v)
    (hlen : ∀ c, ∀ t ∈ slabs l (crossing bs c), t.length = l.length)
    (hsub : ∀ c, (∃ t ∈ slabs l (crossing bs c), inBox t x = true) ↔ ∃ t ∈ crossing bs c, inBox t x = true)
    (cs : List (Int × Int)) (out : List Slab) (ho : ∀ s ∈ out, Slab.Ok e l.length s) :
    (∀ s ∈ cs.foldl (slabStep e l bs) out, Slab.Ok e l.length s) ∧
    ((∃ s ∈ cs.foldl (slabStep e l bs) out, Slab.holds v x s) ↔
      (∃ s ∈ out, Slab.holds v x s) ∨ ∃ c ∈ cs, inDim c v ∧ ∃ t ∈ crossing bs c, inBox t x = true) := by
  induction cs generalizing out with
  | nil => exact ⟨ho, ⟨Or.inl, fun h => h.elim id fun ⟨c, hc, _⟩ => absurd hc List.not_mem_nil⟩⟩
  | cons c cs ih =>
    have hdim := snap_covers c.1 c.2 hv
    have hstep : (∀ s ∈ slabStep e l bs out c, Slab.Ok e l.length s) ∧
        ((∃ s ∈ slabStep e l bs out c, Slab.holds v x s) ↔
          (∃ s ∈ out, Slab.holds v x s) ∨ (inDim c v ∧ ∃ t ∈ crossing bs c, inBox t x = true)) := by
      rw [← hsub c, ← hdim, slabStep]
      cases hs : snap c.1 c.2 e with
      | none => exact ⟨ho, ⟨Or.inl, fun h => h.elim id fun ⟨⟨iv, hn, _⟩, _⟩ => absurd hn nofun⟩⟩
      | some iv =>
        have hin : (∃ jv, some iv = some jv ∧ inDim jv v) ↔ inDim iv v :=
          ⟨fun ⟨jv, hj, h⟩ => (Option.some.inj hj) ▸ h, fun h => ⟨iv, rfl, h⟩⟩
        dsimp only
        rw [hin]
        split
        next hempty =>
          rw [List.isEmpty_iff.mp hempty]
          exact ⟨ho, ⟨Or.inl, fun h => h.elim id fun ⟨_, t, ht, _⟩ => absurd ht List.not_mem_nil⟩⟩
        next => exact ⟨addSlab_ok ho (snap_snapped hs) (hlen c), addSlab_holds ho (snap_snapped hs) x hv⟩
    obtain ⟨hok, hiff⟩ := ih _ hstep.1
    refine ⟨hok, hiff.trans ?_⟩
    rw [hstep.2]
    simp only [List.mem_cons, exists_eq_or_imp, or_assoc]

/-- `slabs` has no other lattice point than its boxes have, and boxes of the lattice's dimensions. -/
theorem slabs_covers {l : Lattice} {bs : List Box} {x : List Int} (hb : ∀ b ∈ bs, b.length = l.length) (hx : x.length = l.length)
    (hl : onLattice l x = true) :
    (∀ b ∈ slabs l bs, b.length = l.length) ∧ ((∃ b ∈ slabs l bs, inBox b x = true) ↔ ∃ b ∈ bs, inBox b x = true) := by
  induction l generalizing bs x with
  | nil =>
    match bs with
    | [] => exact ⟨fun b hb => absurd hb List.not_mem_nil, Iff.rfl⟩
    | c :: bs =>
      have hc : c = [] := List.length_eq_zero_iff.mp (hb c List.mem_cons_self)
      exact ⟨fun b hb => congrArg _ (List.mem_singleton.mp hb),
        fun _ => ⟨c, List.mem_cons_self, hc ▸ inBox_nil x⟩, fun _ => ⟨[], List.mem_cons_self, inBox_nil x⟩⟩
  | cons e l ih =>
    match x with
    | v :: x =>
      obtain ⟨hv, hl⟩ := (onLattice_cons e l v x).mp hl
      have hrec (c) := ih (crossing_length hb c) (Nat.succ.inj hx) hl
      obtain ⟨hok, hiff⟩ := foldl_slabStep hv (fun c => (hrec c).1) (fun c => (hrec c).2) (pairs (cutsOf bs [])) []
        (fun s hs => absurd hs List.not_mem_nil)
      rw [slabs_cons]
      simp only [List.mem_flatMap, List.mem_reverse, List.mem_map]
      refine ⟨?_, ?_⟩
      · rintro b ⟨s, hs, t, ht, rfl⟩
        rw [List.length_cons, List.length_cons, (hok s hs).2 t ht]
      have hslab : (∃ b, (∃ s ∈ (pairs (cutsOf bs [])).foldl (slabStep e l bs) [], ∃ t ∈ s.2, s.1 :: t = b) ∧ inBox b (v :: x) = true)
          ↔ ∃ s ∈ (pairs (cutsOf bs [])).foldl (slabStep e l bs) [], Slab.holds v x s := by
        constructor
        · rintro ⟨_, ⟨s, hs, t, ht, rfl⟩, hin⟩
          obtain ⟨h1, h2⟩ := (inBox_cons s.1 t v x).mp hin
          exact ⟨s, hs, h1, t, ht, h2⟩
        · rintro ⟨s, hs, h1, t, ht, h2⟩
          exact ⟨_, ⟨s, hs, t, ht, rfl⟩, (inBox_cons s.1 t v x).mpr ⟨h1, h2⟩⟩
      rw [hslab, hiff]
      constructor
      · rintro (⟨s, hs, -⟩ | ⟨c, -, ⟨hc1, hc2⟩, t, ht, hin⟩)
        · exact absurd hs List.not_mem_nil
        · obtain ⟨b, hbm, hb1, hb2, rfl⟩ := mem_crossing.mp ht
          match b, hb b hbm with
          | iv :: t, _ => exact ⟨_, hbm, (inBox_cons iv t v x).mpr ⟨⟨hb1.trans hc1, hc2.trans_le hb2⟩, hin⟩⟩
      · rintro ⟨b, hbm, hin⟩
        match b, hb b hbm with
        | iv :: t, _ =>
          obtain ⟨⟨h1, h2⟩, hin⟩ := (inBox_cons iv t v x).mp hin
          obtain ⟨c, hc, hc1, hc2, hcv⟩ := exists_pair (pairwise_cutsOf bs List.Pairwise.nil)
            (mem_cutsOf.mpr (.inr ⟨_, hbm, .inl rfl⟩)) (mem_cutsOf.mpr (.inr ⟨_, hbm, .inr rfl⟩)) h1 h2
          exact .inr ⟨c, hc, hcv, t, mem_crossing.mpr ⟨_, hbm, hc1, hc2, rfl⟩, hin⟩

/-! ## canon and fit -/

section
variable {l : Lattice} {bs : List Box} {x : List Int} (hb : ∀ b ∈ bs, b.length = l.length) (hx : x.length = l.length)
  (hl : onLattice l x = true)
include hx hl

theorem canon_length : ∀ b ∈ canon bs l, b.length = l.length := by
  refine (slabs_covers (fun b hb => ?_) hx hl).1
  obtain ⟨c, -, hc⟩ := List.mem_filterMap.mp hb
  exact snapBox_length hc

include hb

/-- The canonical form has exactly the lattice points of the clamped boxes. -/
theorem canon_covers : (∃ b ∈ canon bs l, inBox b x = true) ↔ ∃ b ∈ bs, inBox (clampBox b) x = true := by
  have hsnap : ∀ b ∈ bs.filterMap (snapBox l), b.length = l.length := by
    intro b hb
    obtain ⟨c, -, hc⟩ := List.mem_filterMap.mp hb
    exact snapBox_length hc
  rw [canon, (slabs_covers hsnap hx hl).2]
  constructor
  · rintro ⟨c, hc, hin⟩
    obtain ⟨b, hbm, hs⟩ := List.mem_filterMap.mp hc
    exact ⟨b, hbm, (snapBox_covers (hb b hbm) hx hl).mp ⟨c, hs, hin⟩⟩
  · rintro ⟨b, hbm, hin⟩
    obtain ⟨c, hs, hin⟩ := (snapBox_covers (hb b hbm) hx hl).mpr hin
    exact ⟨c, List.mem_filterMap.mpr ⟨b, hbm, hs⟩, hin⟩

end

/-- The coordinates that clamping leaves. -/
def inRange (x : List Int) : Prop := ∀ v ∈ x, -(2 ^ 31) ≤ v ∧ v < 2 ^ 31 - 1

theorem inRange_of_inBox {b : Box} {x : List Int} (hb : b.length = x.length) (h : inBox (clampBox b) x = true) : inRange x := by
  induction b generalizing x with
  | nil =>
    rw [List.length_eq_zero_iff.mp hb.symm]
    exact fun v hv => absurd hv List.not_mem_nil
  | cons iv b ih =>
    match x with
    | v :: x =>
      rw [clampBox, List.map_cons, inBox_cons, ← clampBox] at h
      obtain ⟨⟨h1, h2⟩, hrest⟩ := h
      simp only [clampBound] at h1 h2
      refine fun w hw => (List.mem_cons.mp hw).elim (fun he => ?_) (ih (Nat.succ.inj hb) hrest w)
      omega

theorem inBox_clampBox {b : Box} {x : List Int} (hr : inRange x) (h : inBox b x = true) : inBox (clampBox b) x = true := by
  induction b generalizing x with
  | nil => exact inBox_nil x
  | cons iv b ih =>
    match x with
    | [] => rw [inBox, List.zip_nil_right, List.all_nil]
    | v :: x =>
      obtain ⟨⟨h1, h2⟩, hrest⟩ := (inBox_cons iv b v x).mp h
      obtain ⟨hlo, hhi⟩ := hr v List.mem_cons_self
      rw [clampBox, List.map_cons, inBox_cons, ← clampBox]
      refine ⟨⟨?_, ?_⟩, ih (fun w hw => hr w (List.mem_cons_of_mem v hw)) hrest⟩
      all_goals
        simp only [clampBound]
        omega

theorem bbox2_comm (a b : Box) : bbox2 a b = bbox2 b a := by
  rw [bbox2, List.zipWith_comm]
  simp only [min_comm, max_comm, bbox2]

theorem inBox_bbox2_left {a : Box} (b : Box) {x : List Int} (h : inBox a x = true) : inBox (bbox2 a b) x = true := by
  induction a generalizing b x with
  | nil => exact inBox_nil x
  | cons p a ih =>
    match b, x with
    | [], x => exact inBox_nil x
    | q :: b, [] => rw [inBox, List.zip_nil_right, List.all_nil]
    | q :: b, v :: x =>
      obtain ⟨⟨h1, h2⟩, hrest⟩ := (inBox_cons p a v x).mp h
      exact (inBox_cons _ _ v x).mpr ⟨⟨(min_le_left _ _).trans h1, h2.trans_le (le_max_left _ _)⟩, ih b hrest⟩

theorem inBox_bbox2_right (a : Box) {b : Box} {x : List Int} (h : inBox b x = true) : inBox (bbox2 a b) x = true := by
  rw [bbox2_comm]
  exact inBox_bbox2_left a h

theorem bbox2_length {a b : Box} {n : Nat} (ha : a.length = n) (hb : b.length = n) : (bbox2 a b).length = n := by
  rw [bbox2, List.length_zipWith, ha, hb, min_self]

theorem inBox_foldl_bbox2 {bs : List Box} {a : Box} {x : List Int} (h : inBox a x = true ∨ ∃ b ∈ bs, inBox b x = true) :
    inBox (bs.foldl bbox2 a) x = true := by
  induction bs generalizing a with
  | nil => exact h.elim id fun ⟨b, hb, _⟩ => absurd hb List.not_mem_nil
  | cons c bs ih =>
    refine ih ?_
    rcases h with h | ⟨b, hb, h⟩
    · exact .inl (inBox_bbox2_left c h)
    · rcases List.mem_cons.mp hb with rfl | hb
      · exact .inl (inBox_bbox2_right a h)
      · exact .inr ⟨b, hb, h⟩

theorem inBox_bboxAll {bs : List Box} {x : List Int} (h : ∃ b ∈ bs, inBox b x = true) : inBox (bboxAll bs) x = true := by
  obtain ⟨b, hb, h⟩ := h
  match bs with
  | [] => exact absurd hb List.not_mem_nil
  | c :: bs =>
    refine inBox_foldl_bbox2 ?_
    rcases List.mem_cons.mp hb with rfl | hb
    · exact .inl h
    · exact .inr ⟨b, hb, h⟩

section
variable {l : Lattice} {x : List Int} (hx : x.length = l.length) (hl : onLattice l x = true)
include hx hl

/-- A merge keeps every lattice point. -/
theorem fitStep_covers {bs : List Box} (hr : inRange x) (hb : ∀ b ∈ bs, b.length = l.length) (h : ∃ b ∈ bs, inBox b x = true) :
    (∀ b ∈ fitStep l bs, b.length = l.length) ∧ ∃ b ∈ fitStep l bs, inBox b x = true := by
  unfold fitStep
  split
  · exact ⟨hb, h⟩
  next i m _ =>
    split
    next a b r hd =>
      have hsplit : bs = bs.take i ++ a :: b :: r := by rw [← hd, List.take_append_drop]
      have hlen : ∀ c ∈ bs.take i ++ bbox2 a b :: r, c.length = l.length := by
        intro c hc
        rcases List.mem_append.mp hc with hc | hc
        · exact hb c (List.mem_of_mem_take hc)
        have hrest : ∀ c ∈ a :: b :: r, c.length = l.length := fun c hc => hb c (List.mem_of_mem_drop (hd ▸ hc))
        rcases List.mem_cons.mp hc with rfl | hc
        · exact bbox2_length (hrest a List.mem_cons_self) (hrest b (List.mem_cons_of_mem a List.mem_cons_self))
        · exact hrest c (List.mem_cons_of_mem a (List.mem_cons_of_mem b hc))
      refine ⟨canon_length hx hl, (canon_covers hlen hx hl).mpr ?_⟩
      suffices ∃ c ∈ bs.take i ++ bbox2 a b :: r, inBox c x = true by
        obtain ⟨c, hc, hin⟩ := this
        exact ⟨c, hc, inBox_clampBox hr hin⟩
      rw [hsplit] at h
      obtain ⟨c, hc, hin⟩ := h
      rcases List.mem_append.mp hc with hc | hc
      · exact ⟨c, List.mem_append_left _ hc, hin⟩
      rcases List.mem_cons.mp hc with rfl | hc
      · exact ⟨_, List.mem_append_right _ List.mem_cons_self, inBox_bbox2_left b hin⟩
      rcases List.mem_cons.mp hc with rfl | hc
      · exact ⟨_, List.mem_append_right _ List.mem_cons_self, inBox_bbox2_right a hin⟩
      · exact ⟨c, List.mem_append_right _ (List.mem_cons_of_mem _ hc), hin⟩
    next => exact ⟨hb, h⟩

theorem fitLoop_covers (n : Nat) {bs : List Box} (hr : inRange x) (hb : ∀ b ∈ bs, b.length = l.length)
    (h : ∃ b ∈ bs, inBox b x = true) : ∃ b ∈ fitLoop l n bs, inBox b x = true := by
  induction n generalizing bs with
  | zero => exact ⟨_, List.mem_cons_self, inBox_bboxAll h⟩
  | succ n ih =>
    rw [fitLoop]
    split
    · exact h
    · obtain ⟨hlen, hin⟩ := fitStep_covers hx hl hr hb h
      exact ih hlen hin

end

theorem fitLoop_length (l : Lattice) (n : Nat) (bs : List Box) : (fitLoop l n bs).length ≤ 8 := by
  induction n generalizing bs with
  | zero => exact Nat.le_of_ble_eq_true rfl
  | succ n ih =>
    rw [fitLoop]
    split
    · assumption
    · exact ih _

theorem fit_length (bs : List Box) (l : Lattice) : (fit bs l).1.length ≤ 8 := by
  unfold fit
  split
  · assumption
  · exact fitLoop_length l _ bs

theorem fit_merged (bs : List Box) (l : Lattice) : (fit bs l).2 = decide (8 < bs.length) := by
  unfold fit
  split
  next h => exact (decide_eq_false (not_lt.mpr h)).symm
  next h => exact (decide_eq_true (not_le.mp h)).symm

theorem fit_unmerged {bs : List Box} {l : Lattice} (h : bs.length ≤ 8) : (fit bs l).1 = bs := by
  rw [fit, if_pos h]

theorem fit_covers {l : Lattice} {x : List Int} (hx : x.length = l.length) (hl : onLattice l x = true) {bs : List Box} (hr : inRange x)
    (hb : ∀ b ∈ bs, b.length = l.length) (h : ∃ b ∈ bs, inBox b x = true) : ∃ b ∈ (fit bs l).1, inBox b x = true := by
  unfold fit
  split
  · exact h
  · exact fitLoop_covers hx hl _ hr hb h

/-- Settles O18: the canonical form has exactly the lattice points of the clamped boxes, and a merge of fit only adds. -/
theorem regionResult : Obligations.RegionResult := by
  intro n bs l inx x hb hx hl
  have hcanon : (canon bs l).any (inBox · x) = bs.any (fun b => inBox (clampBox b) x) := by
    rw [Bool.eq_iff_iff, List.any_eq_true, List.any_eq_true]
    exact canon_covers hb hx hl
  have hovf : (Region.result n bs l inx).ovf = decide (8 < (canon bs l).length) := fit_merged _ l
  refine ⟨hcanon, fit_length _ l, fun h => ?_, hovf, fun h => ?_, rfl, rfl, rfl⟩
  · obtain ⟨b, hbm, hin⟩ := List.any_eq_true.mp h
    have hr : inRange x := inRange_of_inBox ((hb b hbm).trans hx.symm) hin
    exact List.any_eq_true.mpr (fit_covers hx hl hr (canon_length hx hl) ((canon_covers hb hx hl).mpr ⟨b, hbm, hin⟩))
  · have h8 : (canon bs l).length ≤ 8 := not_lt.mp (of_decide_eq_false (hovf.symm.trans h))
    rw [← hcanon]
    exact congrArg (List.any · (inBox · x)) (fit_unmerged h8)

end Sys2Proof.Machine

end

section
/-! PROOF of the writes of a region register and of the region instructions (R328, R374, R375, R380 to R391, R394 to R396): what a write of
a region register leaves as it was, and each instruction's body where its checks pass and where one fails. -/

namespace Sys2Proof.Machine

/-! ## A region register is written -/

section
variable (s : State)

/-- Bytes in the coherent order depend on the harts' L1 copies alone, beside memory, the homes and the messages. -/
theorem State.peekBytes_modMe {f : Hart → Hart} (hf : (f s.me).l1 = s.me.l1) (a n : Nat) : (s.modMe f).peekBytes a n = s.peekBytes a n := by
  have hhart : ∀ o key, ((s.modMe f).hart o).l1At key = (s.hart o).l1At key := by
    intro o key
    by_cases ho : o = s.cur
    · subst ho
      exact congrArg (Store.find? · key) ((congrArg Hart.l1 (s.me_modMe f)).trans hf)
    · rw [State.hart_modMe_ne s f ho]
  have hline : ∀ line, (s.modMe f).peekLine line = s.peekLine line := by
    intro line
    simp only [State.peekLine, hhart, State.modMe_homes, State.modMe_msgs]
    rfl
  simp only [State.peekBytes, hline]
  rfl

/-- The slot's registers depend on the hart's context and slot alone. -/
theorem State.slot_modMe {f : Hart → Hart} (hc : (f s.me).ctx = s.me.ctx) (hs : (f s.me).slot = s.me.slot) :
    (s.modMe f).slot = s.slot := by
  have hkey : slotKey (s.modMe f).cur (s.modMe f).me = slotKey s.cur s.me := by
    rw [State.me_modMe, State.modMe_cur, slotKey, slotKey, hc, hs]
  rw [State.slot, hkey]
  rfl

theorem State.imageBytesOf_modMe {f : Hart → Hart} (hl : (f s.me).l1 = s.me.l1) (hc : (f s.me).ctx = s.me.ctx)
    (hs : (f s.me).slot = s.me.slot) (c : Nat) : (s.modMe f).imageBytesOf c = s.imageBytesOf c := by
  have himage : ∀ x, (s.modMe f).imageOf x = s.imageOf x := fun _ => rfl
  rw [State.imageBytesOf, State.me_modMe, hc, hs]
  simp only [himage, s.peekBytes_modMe hl]
  rfl

/-- What a region write makes of the hart. -/
def Hart.noteRegion (r : Region) (h : Hart) : Hart := { h with dev := { h.dev with gstat := gstatAfter h.dev.gstat r } }

theorem State.putRegion_eq (d : Reg) (r : Region) : s.putRegion d r = (s.gset d r).modMe (·.noteRegion r) := rfl

theorem State.putRegion_me (d : Reg) (r : Region) : (s.putRegion d r).me = s.me.noteRegion r := by
  rw [State.putRegion_eq, State.me_modMe]
  rfl

/-- The register goes into the hart's slot, where it is dirty. -/
theorem State.putRegion_slot (d : Reg) (r : Region) :
    (s.putRegion d r).slot = { s.slot with g := Store.put s.slot.g d.toNat r, dirty := insertNat s.slot.dirty (codeG d) } := by
  rw [State.putRegion_eq, State.slot_modMe]
  · exact Store.get_put_self _ _ _ _
  · rfl
  · rfl

theorem State.putRegion_imageBytesOf (d : Reg) (r : Region) (c : Nat) : (s.putRegion d r).imageBytesOf c = s.imageBytesOf c := by
  rw [State.putRegion_eq, State.imageBytesOf_modMe]
  · rfl
  · rfl
  · rfl
  · rfl

variable {d e : Reg} (r : Region)

theorem State.putRegion_gget_self : (s.putRegion d r).gget d = r := by
  rw [State.gget, State.ggetN, State.putRegion_slot, Store.find?_put_self]

theorem State.putRegion_gget_ne (h : e ≠ d) : (s.putRegion d r).gget e = s.gget e := by
  have hne : e.toNat ≠ d.toNat := fun he => h (BitVec.eq_of_toNat_eq he)
  rw [State.gget, State.ggetN, State.putRegion_slot, Store.find?_put_ne _ _ hne, State.putRegion_me, State.putRegion_imageBytesOf]
  rfl

/-- Which registers are resident stays, but for the one that is written. -/
theorem State.putRegion_has (h : e ≠ d) : (s.putRegion d r).slot.has (codeG e) = s.slot.has (codeG e) := by
  have hne : 32 + e.toNat - 32 ≠ d.toNat := fun he => h (BitVec.eq_of_toNat_eq (by omega))
  rw [State.putRegion_slot, SlotRegs.has, codeG, Store.find?_put_ne _ _ hne]
  rfl

theorem State.putRegion_hart {g : Nat} (h : g ≠ s.cur) : (s.putRegion d r).hart g = s.hart g := by
  rw [State.putRegion_eq, State.hart_modMe_ne _ _ (by exact h)]
  rfl

end

section
variable (old : Word) (r : Region)

theorem gstatAfter_ovf : (gstatAfter old r).getLsbD 1 = r.ovf := by
  rw [gstatAfter]
  cases r.ovf <;> cases r.inexact <;> simp

theorem gstatAfter_inexact : (gstatAfter old r).getLsbD 0 = (old.getLsbD 0 || r.inexact) := by
  rw [gstatAfter]
  cases r.ovf <;> cases r.inexact <;> simp

end

/-! ## The set algebra -/

section
variable (s : State) (d a b : Reg)

theorem exec_rgnil_result (n : BitVec 5) (hf : s.Free [] []) :
    exec (.rgnil d n) s = .next (s.withRegion d (Region.result n.toNat [] (denseLat n.toNat) false)) :=
  insL_ok hf (fun _ hc => absurd hc List.not_mem_nil) rfl

section
variable (hf : s.Free [] []) (hr : s.Resident [codeH a])
include hf hr

theorem exec_rgfull_mismatch (hc : (Handle.ofLine (s.hget a)).count = none) : exec (.rgfull d a) s = .next (s.trap 30 (mismatch d a)) := by
  rw [exec_rgfull, execRgfull]
  exact insL_trap hf hr (by dsimp only; rw [hc])

theorem exec_rgfull_result {n : Nat} (hc : (Handle.ofLine (s.hget a)).count = some n) :
    exec (.rgfull d a) s = .next (s.withRegion d
      (Region.result n [extentBox (Handle.ofLine (s.hget a)) n] (denseLat n) false)) := by
  rw [exec_rgfull, execRgfull]
  exact insL_ok hf hr (by dsimp only; rw [hc]; rfl)

end

section
variable (hf : s.Free [] []) (hr : s.Resident [codeG a, codeH b])
include hf hr

theorem exec_rgclip_result (hc : (Handle.ofLine (s.hget b)).count = some (s.gget a).d) :
    exec (.rgclip d a b) s = .next (s.withRegion d (Region.result (s.gget a).d
      (boxesInter (s.gget a).boxes [extentBox (Handle.ofLine (s.hget b)) (s.gget a).d]) (s.gget a).lat (s.gget a).inexact)) := by
  rw [exec_rgclip, execRgclip]
  exact insL_ok hf hr (by dsimp only; rw [if_pos hc, State.result])

theorem exec_rgclip_mismatch (hc : (Handle.ofLine (s.hget b)).count ≠ some (s.gget a).d) :
    exec (.rgclip d a b) s = .next (s.trap 30 (mismatch a b)) := by
  rw [exec_rgclip, execRgclip]
  exact insL_trap hf hr (by dsimp only; rw [if_neg hc])

end

section
variable (hf : s.Free [] []) (hr : s.Resident [codeG a, codeG b])
include hf hr

section
variable (hl : sameLattice (s.gget a) (s.gget b) = true)
include hl

theorem exec_rguni_result : exec (.rguni d a b) s = .next (s.withRegion d (Region.result (s.gget a).d
    ((s.gget a).boxes ++ (s.gget b).boxes) (s.gget a).lat ((s.gget a).inexact || (s.gget b).inexact))) := by
  rw [exec_rguni, execRguni]
  exact insL_ok hf hr (by dsimp only; rw [if_pos hl, State.result])

theorem exec_rgsub_inexact (hi : (s.gget b).inexact = true) :
    exec (.rgsub d a b) s = .next (s.trap 24 (BitVec.ofNat 64 b.toNat)) := by
  rw [exec_rgsub, execRgsub]
  exact insL_trap hf hr (by dsimp only; rw [hl, hi]; rfl)

theorem exec_rgsub_result (hi : (s.gget b).inexact = false) : exec (.rgsub d a b) s = .next (s.withRegion d
    (Region.result (s.gget a).d (boxesMinus (s.gget a).boxes (s.gget b).boxes) (s.gget a).lat (s.gget a).inexact)) := by
  rw [exec_rgsub, execRgsub]
  exact insL_ok hf hr (t := s.putRegion d _) (by dsimp only; rw [hl, hi]; rfl)

end

section
variable (hl : sameLattice (s.gget a) (s.gget b) = false)
include hl

theorem exec_rguni_mismatch : exec (.rguni d a b) s = .next (s.trap 30 (mismatch a b)) := by
  rw [exec_rguni, execRguni]
  exact insL_trap hf hr (by dsimp only; rw [hl]; rfl)

theorem exec_rgsub_mismatch : exec (.rgsub d a b) s = .next (s.trap 30 (mismatch a b)) := by
  rw [exec_rgsub, execRgsub]
  exact insL_trap hf hr (by dsimp only; rw [hl]; rfl)

end

theorem exec_rgint_mismatch (hd : (s.gget a).d ≠ (s.gget b).d) : exec (.rgint d a b) s = .next (s.trap 30 (mismatch a b)) := by
  rw [exec_rgint, execRgint]
  exact insL_trap hf hr (if_pos hd)

section
variable (hd : (s.gget a).d = (s.gget b).d)
include hd

theorem exec_rgint_result {l : Lattice} (hl : combineAll (s.gget a).lat (s.gget b).lat = some l) :
    exec (.rgint d a b) s = .next (s.withRegion d (Region.result (s.gget a).d
      (boxesInter (s.gget a).boxes (s.gget b).boxes) l ((s.gget a).inexact || (s.gget b).inexact))) := by
  rw [exec_rgint, execRgint]
  exact insL_ok hf hr (by dsimp only; rw [if_neg (not_not_intro hd), hl]; rfl)

theorem exec_rgint_apart (hl : combineAll (s.gget a).lat (s.gget b).lat = none) :
    exec (.rgint d a b) s = .next (s.withRegion d (Region.result (s.gget a).d [] (s.gget a).lat
      ((s.gget a).inexact || (s.gget b).inexact))) := by
  rw [exec_rgint, execRgint]
  exact insL_ok hf hr (by dsimp only; rw [if_neg (not_not_intro hd), hl]; rfl)

end

end

end

theorem sameLattice_iff {g k : Region} : sameLattice g k = true ↔ g.d = k.d ∧ g.lat = k.lat := by
  rw [sameLattice, Bool.and_eq_true, beq_iff_eq, beq_iff_eq]

theorem sameLattice_false {g k : Region} (h : g.d ≠ k.d ∨ g.lat ≠ k.lat) : sameLattice g k = false := by
  rw [Bool.eq_false_iff, Ne, sameLattice_iff]
  exact not_and_or.mpr h

/-- Settles O19: what writing a region register leaves as it was, then each instruction of the set algebra. -/
theorem regionAlgebra : Obligations.RegionAlgebra := by
  refine ⟨fun s d r => ⟨s.putRegion_gget_self r, fun e he => s.putRegion_has r he, fun e he _ => s.putRegion_gget_ne r he, ?v, ?h, ?ovf,
      ?inexact, ?me, rfl, rfl, rfl, fun g hg => s.putRegion_hart r hg⟩,
    fun d n s hf => exec_rgnil_result s d n hf,
    fun d a s hf hr => ⟨exec_rgfull_mismatch s d a hf hr, fun n => exec_rgfull_result s d a hf hr⟩,
    fun d a b n e s hf hr => ⟨insL_ok hf hr rfl, insL_ok hf (hr.mono fun _ hc => absurd hc List.not_mem_nil) rfl⟩,
    fun d a b s hf hr => ⟨exec_rgclip_result s d a b hf hr, exec_rgclip_mismatch s d a b hf hr⟩,
    fun d a b s hf hr => ⟨fun hd hl => ?same, fun h => ?differ, exec_rgint_mismatch s d a b hf hr,
      fun hd => ⟨fun l => exec_rgint_result s d a b hf hr hd, exec_rgint_apart s d a b hf hr hd⟩⟩⟩
  case v => rw [State.putRegion_slot]
  case h => rw [State.putRegion_slot]
  case ovf =>
    rw [State.putRegion_me]
    exact gstatAfter_ovf _ r
  case inexact =>
    rw [State.putRegion_me]
    exact gstatAfter_inexact _ r
  case me => exact ⟨_, s.putRegion_me d r⟩
  case same =>
    have hs := sameLattice_iff.mpr ⟨hd, hl⟩
    exact ⟨exec_rguni_result s d a b hf hr hs, exec_rgsub_inexact s d a b hf hr hs, exec_rgsub_result s d a b hf hr hs⟩
  case differ =>
    have hs := sameLattice_false h
    exact ⟨exec_rguni_mismatch s d a b hf hr hs, exec_rgsub_mismatch s d a b hf hr hs⟩

/-! ## Reshaping -/

section
variable {s : State} {g : Region} {a : Reg} (hg : g = s.gget a) (d y : Reg)
include hg

theorem dilate_dense (r : Nat → Nat) (hd : g.dense = true) : dilate d a y r s = .ok () (s.putRegion d
    (Region.result g.d (moveBoxes g.boxes (fun i => -(r i : Int)) (fun i => (r i : Int))) g.lat g.inexact)) := by
  subst hg
  rw [dilate, hd]
  rfl

theorem dilate_sparse (r : Nat → Nat) (hd : g.dense = false) : dilate d a y r s = .trap 30 (mismatch a y) s := by
  subst hg
  rw [dilate, hd]
  rfl

theorem project_bad (mask : Nat) (h : mask = 0 ∨ 2 ^ g.d ≤ mask) : project d a y mask s = .trap 30 (mismatch a y) s := by
  subst hg
  rw [project]
  exact if_pos (by rw [Bool.or_eq_true, decide_eq_true_eq, decide_eq_true_eq]; exact h)

theorem project_good (mask : Nat) (h0 : mask ≠ 0) (h : mask < 2 ^ g.d) : project d a y mask s = .ok () (s.putRegion d
    (Region.result (popCountTo mask 4) (g.boxes.map (keepBits mask)) (keepBits mask g.lat) g.inexact)) := by
  subst hg
  rw [project]
  refine if_neg ?_
  rw [Bool.or_eq_true, decide_eq_true_eq, decide_eq_true_eq, not_or]
  exact ⟨h0, not_le.mpr h⟩

theorem expand_bad (pos : Nat) (lo hi : Int) (h : 3 < g.d) : expand d a y pos lo hi s = .trap 30 (mismatch a y) s := by
  subst hg
  rw [expand]
  exact if_pos (by rw [decide_eq_true h]; rfl)

theorem expand_good (pos : Nat) (lo hi : Int) (h : g.d ≤ 3) (hp : pos ≤ g.d) : expand d a y pos lo hi s = .ok () (s.putRegion d
    (Region.result (g.d + 1) (if hi ≤ lo then [] else g.boxes.map (fun b => insertAt b pos (lo, hi)))
      (insertAt g.lat pos (0, 0)) g.inexact)) := by
  subst hg
  rw [expand]
  refine if_neg ?_
  rw [Bool.or_eq_true, decide_eq_true_eq, decide_eq_true_eq, not_or]
  exact ⟨not_lt.mpr h, not_lt.mpr hp⟩

theorem relattice_meets (l : Lattice) {m : Lattice} (h : combineAll g.lat l = some m) :
    relattice d a l s = .ok () (s.putRegion d (Region.result g.d g.boxes m g.inexact)) := by
  subst hg
  rw [relattice]
  rw [h]
  rfl

theorem relattice_apart (l : Lattice) (h : combineAll g.lat l = none) :
    relattice d a l s = .ok () (s.putRegion d (Region.result g.d [] g.lat g.inexact)) := by
  subst hg
  rw [relattice]
  rw [h]
  rfl

theorem cut_bad (k : Nat) (high : Bool) (c : Int) (h : g.d ≤ k) : cut d a y k high c s = .trap 30 (mismatch a y) s := by
  subst hg
  rw [cut]
  exact if_pos h

theorem cut_good (k : Nat) (high : Bool) (c : Int) (h : k < g.d) : cut d a y k high c s = .ok () (s.putRegion d
    (Region.result g.d (g.boxes.filterMap (cutBox k high c)) g.lat g.inexact)) := by
  subst hg
  rw [cut]
  exact if_neg (not_le.mpr h)

end

section
variable {s : State} {g : Region} {a : Reg} (d b : Reg) (hf : s.Free [b] []) (hr : s.Resident [codeG a]) (hg : g = s.gget a)
include hf hr hg

section
variable (hv : (List.range g.d).all (fun i => natBits (field16 (s.rx b) i) 3 5 == 0 && !natBit (field16 (s.rx b) i) 15 &&
  decide (natBits (field16 (s.rx b) i) 8 7 < 2 ^ natBits (field16 (s.rx b) i) 0 3)) = true)
include hv

/-- RGLAT with every field in its range is the change of lattice. -/
theorem exec_rglat_valid (t : State) (ht : relattice d a ((List.range g.d).map (fun i => (natBits (field16 (s.rx b) i) 0 3,
    natBits (field16 (s.rx b) i) 8 7))) s = .ok () t) : exec (.rglat d a b) s = .next (t.modMe Hart.retire) := by
  subst hg
  rw [exec_rglat, execRglat]
  refine insL_ok hf hr ?_
  dsimp only
  rw [List.map_map, List.all_map]
  exact (if_pos hv).trans ht

end

theorem exec_rgcut_bad (h : natBits (s.rx b).toNat 3 29 ≠ 0 ∨ g.d ≤ natBits (s.rx b).toNat 0 2) :
    exec (.rgcut d a b) s = .next (s.trap 30 (mismatch a b)) := by
  rw [exec_rgcut, execRgcut]
  refine insL_trap hf hr ?_
  dsimp only
  by_cases h0 : natBits (s.rx b).toNat 3 29 = 0
  · rw [if_neg (not_not_intro h0)]
    exact cut_bad hg d b _ _ _ (h.resolve_left (not_not_intro h0))
  · exact if_pos h0

theorem exec_rgcut_good (h0 : natBits (s.rx b).toNat 3 29 = 0) (h : natBits (s.rx b).toNat 0 2 < g.d) :
    exec (.rgcut d a b) s = .next (s.withRegion d (Region.result g.d
      (g.boxes.filterMap (cutBox (natBits (s.rx b).toNat 0 2) (natBit (s.rx b).toNat 2) (hi32 (s.rx b)))) g.lat g.inexact)) := by
  rw [exec_rgcut, execRgcut]
  refine insL_ok hf hr ?_
  dsimp only
  rw [if_neg (not_not_intro h0)]
  exact cut_good hg d b _ _ _ h

end

section
variable {s : State} {g : Region} {a : Reg} (d : Reg) (hf : s.Free [] []) (hr : s.Resident [codeG a]) (hg : g = s.gget a)
include hf hr hg

theorem exec_rgxpdI_good (imm : BitVec 24) (h : g.d ≤ 3) (hp : natBits imm.toNat 0 2 ≤ g.d) :
    exec (.rgxpdI d a imm) s = .next (s.withRegion d (Region.result (g.d + 1)
        (g.boxes.map (fun x => insertAt x (natBits imm.toNat 0 2) (natToInt 11 (natBits imm.toNat 2 11),
          natToInt 11 (natBits imm.toNat 2 11) + (natBits imm.toNat 13 11 + 1 : Nat))))
        (insertAt g.lat (natBits imm.toNat 0 2) (0, 0)) g.inexact)) := by
  rw [exec_rgxpdI, execRgxpdI]
  refine insL_ok hf hr ((expand_good hg d 0 _ _ _ h hp).trans ?_)
  rw [if_neg (by omega)]

theorem exec_rglatI_valid (imm : BitVec 24) {m : Lattice}
    (hm : combineAll g.lat ((List.range g.d).map (fun i => (natBits (field6 imm i) 0 3, natBits (field6 imm i) 3 3))) = some m)
    (hv : (List.range g.d).all (fun i => decide (natBits (field6 imm i) 3 3 < 2 ^ natBits (field6 imm i) 0 3)) = true) :
    exec (.rglatI d a imm) s = .next (s.withRegion d (Region.result g.d g.boxes m g.inexact)) := by
  have hbody := relattice_meets hg d _ hm
  subst hg
  rw [exec_rglatI, execRglatI]
  refine insL_ok hf hr ?_
  dsimp only
  rw [List.map_map, List.all_map]
  exact (if_pos hv).trans hbody

theorem exec_rgbbox_empty (h : g.boxes = []) :
    exec (.rgbbox d a) s = .next (s.withRegion d (Region.result g.d [] g.lat g.inexact)) := by
  subst hg
  rw [exec_rgbbox, execRgbbox]
  refine insL_ok hf hr ?_
  dsimp only
  rw [h]
  rfl

theorem exec_rgbbox_boxes (h : g.boxes ≠ []) : exec (.rgbbox d a) s = .next (s.withRegion d
    (Region.result g.d [bboxAll g.boxes] g.lat (g.inexact || decide (g.count < boxPts g.lat (bboxAll g.boxes))))) := by
  subst hg
  rw [exec_rgbbox, execRgbbox]
  refine insL_ok hf hr ?_
  dsimp only
  split
  next hn => exact absurd hn h
  next => rfl

end

/-! ## Queries -/

section
variable {s : State} (d : Reg) {a b : Reg} (test : Region → Region → Bool)

theorem compareRegions_differ (h : (s.gget a).d ≠ (s.gget b).d) : compareRegions d a b test s = .trap 30 (mismatch a b) s := if_pos h

theorem compareRegions_same (h : (s.gget a).d = (s.gget b).d) (c : Prop) [Decidable c] (hc : test (s.gget a) (s.gget b) = decide c) :
    compareRegions d a b test s = .ok () (s.wx d (if c then 1 else 0)) := by
  rw [compareRegions]
  rw [if_neg (not_not_intro h), hc]
  simp only [decide_eq_true_eq]

end

/-- Settles O20: each instruction's body where its operand is in range and where it is not, then the queries. -/
theorem regionReshaping : Obligations.RegionReshaping := by
  refine ⟨fun d a b imm s g hf hr hg => ?reshape, fun d a b sel s hf hr => ?query⟩
  case reshape =>
    have hf0 : s.Free [] [] := hf.mono (fun _ h => absurd h List.not_mem_nil) (fun _ h => h)
    have hreg {t : State} {body : State → Act Unit} (ht : body s = .ok () t) :
        insL [b] [] [codeG a] body s = .next (t.modMe Hart.retire) := insL_ok hf hr ht
    have himm {t : State} {body : State → Act Unit} (ht : body s = .ok () t) :
        insL [] [] [codeG a] body s = .next (t.modMe Hart.retire) := insL_ok hf0 hr ht
    refine ⟨fun hd => ⟨hreg (dilate_dense hg d b _ hd), himm (dilate_dense hg d 0 _ hd)⟩,
      fun hd => ⟨insL_trap hf hr (dilate_sparse hg d b _ hd), insL_trap hf0 hr (dilate_sparse hg d 0 _ hd)⟩,
      hreg (by rw [hg]; rfl), himm (by rw [hg]; rfl),
      fun h => insL_trap hf hr (project_bad hg d b _ h), fun h0 h => hreg (project_good hg d b _ h0 h),
      fun h0 h => himm (project_good hg d 0 _ h0 h),
      fun h => insL_trap hf hr (expand_bad hg d b _ _ _ h), fun h => hreg (expand_good hg d b _ _ _ h (Nat.zero_le _)),
      exec_rgxpdI_good d hf0 hr hg imm, fun m hm hv => exec_rglatI_valid d hf0 hr hg imm hm hv,
      fun hv => ⟨fun m hm => exec_rglat_valid d b hf hr hg hv _ (relattice_meets hg d _ hm),
        fun hm => exec_rglat_valid d b hf hr hg hv _ (relattice_apart hg d _ hm)⟩,
      exec_rgcut_bad d b hf hr hg, exec_rgcut_good d b hf hr hg, fun h => himm (cut_good hg d 0 _ _ _ h),
      hreg (by rw [hg]; rfl), himm (by rw [hg]; rfl),
      exec_rgbbox_empty d hf0 hr hg, exec_rgbbox_boxes d hf0 hr hg, himm (by rw [hg]), himm (by rw [hg])⟩
  case query =>
    have hfd : s.Free [d] [] := hf.mono (fun _ h => List.mem_cons.mpr (.inl (List.mem_singleton.mp h))) (fun _ h => h)
    have hra : s.Resident [codeG a] := hr.mono (fun _ h => List.mem_cons.mpr (.inl (List.mem_singleton.mp h)))
    refine ⟨insL_writes hfd hra rfl, insL_writes hfd hra rfl, insL_writes hf hra rfl, insL_writes hfd hra rfl,
      fun hd => ⟨insL_trap hfd hr (compareRegions_differ d _ hd), insL_trap hfd hr (compareRegions_differ d _ hd),
        insL_trap hfd hr (compareRegions_differ d _ hd)⟩,
      fun hd => ⟨insL_writes hfd hr (compareRegions_same d _ hd _ rfl), ?_, ?_⟩⟩
    · exact insL_writes hfd hr (compareRegions_same d _ hd _ (by rw [Bool.decide_and]; rfl))
    · exact insL_writes hfd hr (compareRegions_same d _ hd _ rfl)

end Sys2Proof.Machine

end

section
/-! PROOF of the lanes of a vector register, of its writes, and of the lane-wise instructions (R423, R424, R435): the elements of packed
lanes, what the active lanes take, and each lane-wise instruction as one issue. -/

namespace Sys2Proof.Machine

/-! ## Elements of a line -/

/-- Elements of `w` bits side by side. -/
def packed (w : Nat) (xs : List Nat) : Nat := xs.foldr (fun x a => x % 2 ^ w + 2 ^ w * a) 0

theorem ofLanes_eq (w : Nat) (xs : List Nat) : ofLanes w xs = BitVec.ofNat 512 (packed w xs) := rfl

theorem packed_cons (w x : Nat) (xs : List Nat) : packed w (x :: xs) = x % 2 ^ w + 2 ^ w * packed w xs := rfl

theorem packed_div (w i : Nat) (xs : List Nat) : packed w xs / 2 ^ (w * i) = packed w (xs.drop i) := by
  induction i generalizing xs with
  | zero => rw [Nat.mul_zero, Nat.pow_zero, Nat.div_one, List.drop_zero]
  | succ i ih =>
    match xs with
    | [] => rw [List.drop_nil, packed, List.foldr_nil, Nat.zero_div]
    | x :: xs =>
      rw [Nat.mul_succ, Nat.add_comm, Nat.pow_add, ← Nat.div_div_eq_div_mul, packed_cons, Nat.add_mul_div_left _ _ (Nat.two_pow_pos w),
        Nat.div_eq_of_lt (Nat.mod_lt _ (Nat.two_pow_pos w)), Nat.zero_add, ih, List.drop_succ_cons]

/-- An element of packed lanes is the lane's value modulo its width. -/
theorem elemAt_packed {w i x : Nat} {xs : List Nat} (h : xs[i]? = some x) : elemAt (packed w xs) w i = x % 2 ^ w := by
  obtain ⟨hi, rfl⟩ := List.getElem?_eq_some_iff.mp h
  rw [elemAt, natBits, packed_div, List.drop_eq_getElem_cons hi, packed_cons, Nat.add_mul_mod_self_left, Nat.mod_mod]

theorem natBits_mod {v lo len n : Nat} (h : lo + len ≤ n) : natBits (v % 2 ^ n) lo len = natBits v lo len := by
  apply Nat.eq_of_testBit_eq
  intro i
  rw [natBits_testBit, natBits_testBit, Nat.testBit_mod_two_pow]
  by_cases hi : i < len
  · rw [decide_eq_true (by omega : lo + i < n), Bool.true_and]
  · rw [decide_eq_false hi, Bool.false_and, Bool.false_and]

theorem elemAt_ofLanes {w i x : Nat} {xs : List Nat} (hi : w * i + w ≤ 512) (h : xs[i]? = some x) :
    elemAt (ofLanes w xs).toNat w i = x % 2 ^ w := by
  rw [ofLanes_eq, BitVec.toNat_ofNat, elemAt, natBits_mod (n := 512) hi]
  exact elemAt_packed h

theorem elemAt_lt (v w i : Nat) : elemAt v w i < 2 ^ w := natBits_lt _ _ _

/-- The elements of a number, packed again. -/
theorem packed_elements (v w n k : Nat) :
    packed w ((List.range' k n).map (elemAt v w)) = v / 2 ^ (w * k) % 2 ^ (w * n) := by
  induction n generalizing k with
  | zero => rw [Nat.mul_zero, Nat.pow_zero, Nat.mod_one]; rfl
  | succ n ih =>
    have hdiv : v / 2 ^ (w * (k + 1)) = v / 2 ^ (w * k) / 2 ^ w := by
      rw [Nat.div_div_eq_div_mul, ← Nat.pow_add, Nat.mul_succ]
    have hmul : w * (n + 1) = w + w * n := by rw [Nat.mul_succ, Nat.add_comm]
    rw [List.range'_succ, List.map_cons, packed_cons, ih, elemAt, natBits, Nat.mod_mod, hdiv, hmul, Nat.pow_add, Nat.mod_mul]

theorem bits_mul_lanes (t : VTy) : t.bits * t.lanes = 512 := by cases t <;> rfl

theorem lane_fits {t : VTy} {i : Nat} (h : i < t.lanes) : t.bits * i + t.bits ≤ 512 := by
  rw [← bits_mul_lanes t, ← Nat.mul_succ]
  exact Nat.mul_le_mul_left _ h

/-- A line is its elements side by side. -/
theorem ofLanes_lanesOf (t : VTy) (l : Line) : ofLanes t.bits (lanesOf t.bits t.lanes l) = l := by
  apply BitVec.eq_of_toNat_eq
  rw [ofLanes_eq, lanesOf, List.range_eq_range', packed_elements, bits_mul_lanes t, Nat.mul_zero, Nat.pow_zero, Nat.div_one,
    BitVec.toNat_ofNat, Nat.mod_mod]
  exact Nat.mod_eq_of_lt l.isLt

/-! ## Active lanes -/

section
variable (mask : Word) (f : Nat → Nat × Nat)

theorem mapLanes_length (k : Nat) (xs : List Nat) : (mapLanes mask f k xs).1.length = xs.length := by
  induction xs generalizing k with
  | nil => rfl
  | cons x xs ih =>
    rw [mapLanes]
    dsimp only
    split
    · exact congrArg (· + 1) (ih (k + 1))
    · exact congrArg (· + 1) (ih (k + 1))

theorem mapLanes_getElem? (k i : Nat) (xs : List Nat) :
    (mapLanes mask f k xs).1[i]? = xs[i]?.map (fun x => if mask.getLsbD (k + i) then (f (k + i)).1 else x) := by
  induction xs generalizing k i with
  | nil => rfl
  | cons x xs ih =>
    rw [mapLanes]
    dsimp only
    cases i with
    | zero =>
      split
      next hm => simp [hm]
      next hm => simp [hm]
    | succ i =>
      have hk : k + (i + 1) = k + 1 + i := by omega
      rw [List.getElem?_cons_succ, hk, ← ih (k + 1) i]
      split
      · rfl
      · rfl

theorem mapLanes_flags (k b : Nat) (xs : List Nat) : (mapLanes mask f k xs).2.testBit b
    = (List.range' k xs.length).any (fun i => mask.getLsbD i && (f i).2.testBit b) := by
  induction xs generalizing k with
  | nil => exact Nat.zero_testBit b
  | cons x xs ih =>
    rw [mapLanes, List.length_cons, List.range'_succ, List.any_cons, ← ih]
    dsimp only
    split
    next hm => rw [hm, Bool.true_and, Nat.testBit_or]
    next hm => rw [eq_false_of_ne_true hm, Bool.false_and, Bool.false_or]

theorem mapLanes_inactive {k : Nat} {xs : List Nat} (h : ∀ i, k ≤ i → i < k + xs.length → mask.getLsbD i = false) :
    mapLanes mask f k xs = (xs, 0) := by
  induction xs generalizing k with
  | nil => rfl
  | cons x xs ih =>
    have hk : mask.getLsbD k = false := h k le_rfl (by simp)
    rw [mapLanes, ih fun i h1 h2 => h i (by omega) (by simp only [List.length_cons]; omega)]
    dsimp only
    rw [hk, if_neg Bool.false_ne_true]

end

section
variable (s : State) (t : VTy) (d : Reg) (f : Nat → Nat × Nat)

theorem State.elems_getElem? {i : Nat} (h : i < t.lanes) : (s.elems t d)[i]? = some (s.elem t d i) := by
  rw [State.elems, lanesOf, List.getElem?_map, List.getElem?_range h]
  rfl

theorem State.elems_length : (s.elems t d).length = t.lanes := by
  rw [State.elems, lanesOf, List.length_map, List.length_range]

theorem State.laneLine_elem {i : Nat} (h : i < t.lanes) : elemAt (s.laneLine t d f).toNat t.bits i
    = if s.mask.getLsbD i then (f i).1 % 2 ^ t.bits else s.elem t d i := by
  have hi : (mapLanes s.mask f 0 (s.elems t d)).1[i]? = some (if s.mask.getLsbD i then (f i).1 else s.elem t d i) := by
    rw [mapLanes_getElem?, s.elems_getElem? t d h, Option.map_some, Nat.zero_add]
  rw [State.laneLine, elemAt_ofLanes (lane_fits h) hi]
  split
  · rfl
  · exact Nat.mod_eq_of_lt (elemAt_lt _ _ _)

theorem State.laneFlags_testBit (b : Nat) :
    (s.laneFlags t d f).testBit b = (List.range t.lanes).any (fun i => s.mask.getLsbD i && (f i).2.testBit b) := by
  rw [State.laneFlags, mapLanes_flags, State.elems_length, List.range_eq_range']

theorem State.lanes_inactive (h : s.activeLanes t = []) : s.laneLine t d f = s.vget d ∧ s.laneFlags t d f = 0 := by
  have hoff : ∀ i, 0 ≤ i → i < 0 + (s.elems t d).length → s.mask.getLsbD i = false := by
    intro i _ hi
    rw [Nat.zero_add, State.elems_length] at hi
    exact eq_false_of_ne_true (List.filter_eq_nil_iff.mp h i (List.mem_range.mpr hi))
  rw [State.laneLine, State.laneFlags, mapLanes_inactive _ _ hoff]
  exact ⟨ofLanes_lanesOf t _, rfl⟩

end

/-! ## A vector register is written -/

/-- What a vector write makes of the hart, beside its register. -/
def Hart.noteVector (fl : Nat) (sd : Word) (h : Hart) : Hart :=
  { h with dev := { h.dev with rflags := h.dev.rflags ||| BitVec.ofNat 64 (fl % 32), srseed := sd } }

section
variable (s : State) (d : Reg) (l : Line) (fl : Nat) (rounds : Bool)

theorem State.vdone_eq : ∃ sd : Word, s.vdone d l fl rounds = (s.vset d l).modMe (·.noteVector fl sd) ∧
    (rounds = false → sd = s.me.dev.srseed) := by
  cases rounds with
  | false =>
    refine ⟨s.me.dev.srseed, ?_, fun _ => rfl⟩
    rw [State.vdone, if_neg Bool.false_ne_true, State.orFlags]
    exact State.modMe_congr _ rfl
  | true =>
    refine ⟨((s.vset d l).orFlags fl).sampled.nextSeed, ?_, nofun⟩
    rw [State.vdone, if_pos rfl, State.advanceSeed]
    exact State.modMe_modMe _ _ _

variable {sd : Word}

theorem State.vset_slot : ((s.vset d l).modMe (·.noteVector fl sd)).slot
    = { s.slot with v := Store.put s.slot.v d.toNat l, dirty := insertNat s.slot.dirty (codeV d) } := by
  rw [State.slot_modMe]
  · exact Store.get_put_self _ _ _ _
  · rfl
  · rfl

theorem State.vset_vget_self : ((s.vset d l).modMe (·.noteVector fl sd)).vget d = l := by
  rw [State.vget, State.vset_slot, Store.find?_put_self]

theorem State.vset_vget_ne {e : Reg} (h : e ≠ d) : ((s.vset d l).modMe (·.noteVector fl sd)).vget e = s.vget e := by
  have hne : e.toNat ≠ d.toNat := fun he => h (BitVec.eq_of_toNat_eq he)
  have himage : ((s.vset d l).modMe (·.noteVector fl sd)).imageBytesOf e.toNat = s.imageBytesOf e.toNat :=
    (s.vset d l).imageBytesOf_modMe rfl rfl rfl _
  rw [State.vget, State.vset_slot, Store.find?_put_ne _ _ hne, State.me_modMe, himage]
  rfl

theorem State.vset_hart {g : Nat} (h : g ≠ s.cur) : ((s.vset d l).modMe (·.noteVector fl sd)).hart g = s.hart g :=
  State.hart_modMe_ne (s.vset d l) _ h

end

/-! ## The lane-wise instructions -/

/-- An issue that counts its active lanes when it is arithmetic. -/
def counted (t : VTy) (arith : Bool) (i : Issue) : Issue := if arith then arithmetic t i else i

/-- Whatever its form, a lane-wise instruction of two operands is one issue. -/
theorem LaneForm.exec_eq {i : Instr} {t : VTy} {d a b : Reg} {op : LaneOp} {rounds arith vx : Bool}
    (h : LaneForm i t d a b op rounds arith vx) (s : State) : exec i s = (counted t arith (lanewise op rounds t d a b vx)).run s := by
  cases h <;> rfl

theorem LaneForm1.exec_eq {i : Instr} {t : VTy} {d a : Reg} {op : Rounding → Nat → Nat × Nat} {rounds arith : Bool}
    (h : LaneForm1 i t d a op rounds arith) (s : State) : exec i s = (counted t arith (lanewise1 op rounds t d a)).run s := by
  cases h with
  | vabs | vneg => rfl
  | vexp2 | vlog2 | vrcp | vrsqrt | vsqrt => cases t <;> rfl

/-- An issue whose body writes the active lanes of V[d] completes, with its lanes counted when it is arithmetic. -/
theorem Issue.run_lanes {s : State} {i : Issue} {t : VTy} {d : Reg} {rounds : Bool} {f : Nat → Nat × Nat} (arith : Bool)
    (hv : s.VReady i.xs i.vs [s.me.maskNo]) (hc : i.codes = []) (ht : i.ts = []) (hk : i.ks = []) (hm : i.masked = true)
    (hb : i.body s = s.vmap t d rounds f) : (counted t arith i).run s
      = .next (((s.vdone d (s.laneLine t d f) (s.laneFlags t d f) rounds).countLanes t arith).modMe Hart.retire) := by
  have hks : ∀ k ∈ i.ks.map (·.toNat) ++ (if i.masked then [s.me.maskNo] else []), k ∈ [s.me.maskNo] := by
    rw [hk, hm]
    exact fun k h => h
  cases arith with
  | false => exact Issue.run_ok hv hc ht hks (hb.trans (s.vmap_eq t d rounds f))
  | true =>
    refine Issue.run_ok (i := arithmetic t i) hv hc ht hks ?_
    change (i.body s).andThen _ = _
    rw [hb, State.vmap_eq, Act.andThen, State.countLanes, if_pos rfl]

/-- Settles O26: the active lanes, what a write of a vector register leaves as it was, and every lane-wise form as one issue. -/
theorem laneWise : Obligations.LaneWise := by
  refine ⟨fun s t d f => ⟨fun i => s.laneLine_elem t d f, s.laneFlags_testBit t d f, s.lanes_inactive t d f⟩,
    fun s d l fl rounds => ?write, fun i t d a b op rounds arith vx s hi hv f hf => ?two, fun i t d a op rounds arith s hi hv f hf => ?one⟩
  case write =>
    obtain ⟨sd, hs, hsd⟩ := s.vdone_eq d l fl rounds
    rw [hs]
    refine ⟨s.vset_vget_self d l fl, fun e he _ => s.vset_vget_ne d l fl he, ?_, ?_, ⟨sd, State.me_modMe _ _, hsd⟩, rfl, rfl,
      fun g hg => s.vset_hart d l fl hg⟩
    · rw [State.vset_slot]
    · rw [State.vset_slot]
  case two =>
    subst hf
    rw [hi.exec_eq]
    exact Issue.run_lanes arith hv rfl rfl rfl rfl rfl
  case one =>
    subst hf
    rw [hi.exec_eq]
    exact Issue.run_lanes arith hv rfl rfl rfl rfl rfl

end Sys2Proof.Machine

end

section
/-! PROOF of the moves, permutations, tests, compares and mask instructions, of the conversions and reductions, and of the vector loads
and stores (R429 to R434, R437, R438, R440, R442 to R444, R447 to R450): each is one issue, which completes or traps with its body. -/

namespace Sys2Proof.Machine

/-! ## An issue that can execute -/

section
variable {s : State} {i : Issue} {xs vs : List Reg} {ks : List Nat} (hv : s.VReady xs vs ks) (hx : ∀ r ∈ i.xs, r ∈ xs)
  (hvs : ∀ r ∈ i.vs, r ∈ vs) (hc : i.codes = []) (ht : i.ts = [])
  (hk : ∀ k ∈ i.ks.map (·.toNat) ++ (if i.masked then [s.me.maskNo] else []), k ∈ ks)
include hv hx hvs hc ht hk

/-- With more registers free and resident than it names it completes with its body. -/
theorem Issue.completes {t : State} (hb : i.body s = .ok () t) : i.run s = .next (t.modMe Hart.retire) :=
  Issue.run_ok (hv.mono hx hvs fun _ h => h) hc ht hk hb

/-- A body that writes one x register. -/
theorem Issue.writes {d : Reg} {v : Word} (hb : i.body s = .ok () (s.wx d v)) : i.run s = .next (s.modMe (fun h => (h.wx d v).retire)) := by
  rw [Issue.completes hv hx hvs hc ht hk hb, State.wx_eq, State.modMe_modMe]

/-- A trap of its body is the instruction's. -/
theorem Issue.traps {u : State} {c : Nat} {v : Word} (hb : i.body s = .trap c v u) : i.run s = .next (u.trapFrom s.me.pts c v) := by
  have hv' : s.VReady i.xs i.vs ks := hv.mono hx hvs fun _ h => h
  obtain ⟨hf, hr, -⟩ := id hv'
  have hres : s.Resident (i.vs.map codeV ++ i.codes) := by rw [hc, List.append_nil]; exact hr
  rw [Issue.run, Issue.held_no hv' ht hk, if_neg Bool.false_ne_true, insL_free hf hres, ins_trapFrom hf hb]

end

/-! ## Masks -/

/-- The bits of a mask set one after the other, from the lowest. -/
theorem foldl_setBits_testBit (p : Nat → Bool) (xs : List Nat) (m i : Nat) (hx : xs.Pairwise (· < ·)) (hm : ∀ x ∈ xs, m < 2 ^ x) :
    (xs.foldl (fun m x => if p x then m + 2 ^ x else m) m).testBit i = (m.testBit i || xs.any (fun x => decide (x = i) && p x)) := by
  induction xs generalizing m with
  | nil => rw [List.foldl_nil, List.any_nil, Bool.or_false]
  | cons x xs ih =>
    obtain ⟨hlt, hx⟩ := List.pairwise_cons.mp hx
    have hmx : m < 2 ^ x := hm x List.mem_cons_self
    have hbit : (m + 2 ^ x).testBit i = (m.testBit i || decide (x = i)) := by
      have hor : 2 ^ x * 1 + m = 2 ^ x * 1 ||| m := Nat.two_pow_add_eq_or_of_lt hmx 1
      rw [Nat.mul_one] at hor
      rw [Nat.add_comm, hor, Nat.testBit_or, Nat.testBit_two_pow, Bool.or_comm]
    rw [List.foldl_cons, List.any_cons]
    cases hp : p x with
    | false =>
      rw [if_neg Bool.false_ne_true, ih m hx fun y hy => hm y (List.mem_cons_of_mem x hy), Bool.and_false, Bool.false_or]
    | true =>
      rw [if_pos rfl, ih _ hx fun y hy => ?_, hbit, Bool.and_true, Bool.or_assoc]
      have hy2 : 2 ^ (x + 1) ≤ 2 ^ y := Nat.pow_le_pow_right (by decide) (hlt y hy)
      rw [Nat.pow_succ] at hy2
      omega

theorem foldl_or_testBit (g : Nat → Nat) (xs : List Nat) (m b : Nat) :
    (xs.foldl (fun f x => f ||| g x) m).testBit b = (m.testBit b || xs.any (fun x => (g x).testBit b)) := by
  induction xs generalizing m with
  | nil => rw [List.foldl_nil, List.any_nil, Bool.or_false]
  | cons x xs ih => rw [List.foldl_cons, ih, Nat.testBit_or, List.any_cons, Bool.or_assoc]

section
variable (s : State) (t : VTy)

theorem State.activeLanes_pairwise : (s.activeLanes t).Pairwise (· < ·) := List.pairwise_lt_range.filter _

/-- The active lanes that meet a condition, as bits of a mask. -/
theorem State.activeLanes_testBit (p : Nat → Bool) (i : Nat) :
    ((s.activeLanes t).foldl (fun m x => if p x then m + 2 ^ x else m) 0).testBit i
      = (decide (i < t.lanes) && s.mask.getLsbD i && p i) := by
  rw [foldl_setBits_testBit p _ 0 i (s.activeLanes_pairwise t) fun x _ => Nat.two_pow_pos x, Nat.zero_testBit, Bool.false_or,
    Bool.eq_iff_iff, List.any_eq_true]
  simp only [State.activeLanes, List.mem_filter, List.mem_range, Bool.and_eq_true, decide_eq_true_eq]
  constructor
  · rintro ⟨x, hx, rfl, hp⟩
    exact ⟨hx, hp⟩
  · rintro ⟨hx, hp⟩
    exact ⟨i, hx, rfl, hp⟩

end

theorem Hart.rk_zero (h : Hart) : h.rk 0 = BitVec.allOnes 64 := rfl

theorem Hart.wk_zero (h : Hart) (v : Word) : h.wk 0 v = h := rfl

theorem Hart.rk_wk_self {h : Hart} (hs : Store.Rising h.k) {n : Nat} (v : Word) (hn : n ≠ 0) : (h.wk n v).rk n = v := by
  rw [Hart.wk, if_neg hn, Hart.rk, if_neg hn]
  exact Store.get_set_self 0 hs _ _

theorem Hart.rk_wk_ne (h : Hart) {n m : Nat} (v : Word) (hn : m ≠ n) : (h.wk n v).rk m = h.rk m := by
  rw [Hart.wk]
  split
  · rfl
  · rw [Hart.rk, Hart.rk]
    dsimp only
    rw [Store.get_set_ne 0 _ _ hn]

section
variable (h : Hart) (cycle cls kind : Nat) (payload : Word)

theorem Hart.record_x : (h.record cycle cls kind payload).x = h.x := by
  obtain ⟨tr, dv, hr⟩ := h.record_frame cycle cls kind payload
  rw [hr]

theorem Hart.record_k : (h.record cycle cls kind payload).k = h.k := by
  obtain ⟨tr, dv, hr⟩ := h.record_frame cycle cls kind payload
  rw [hr]

theorem Hart.record_rk (n : Nat) : (h.record cycle cls kind payload).rk n = h.rk n := by
  rw [Hart.rk, Hart.record_k, Hart.rk]

/-- A trace entry may set FROZEN, and no other device register. -/
theorem Hart.record_vactm : (h.record cycle cls kind payload).dev.vactm = h.dev.vactm := by
  unfold Hart.record Hart.traceCount
  split
  · split
    · rfl
    · split
      · rfl
      · split
        · rfl
        · rfl
  · rfl

end

section
variable (s : State)

theorem State.kput_zero (v : Word) : s.kput 0 v = s := if_pos rfl

theorem State.kput_rk {d : Reg} (hd : d ≠ 0) (v : Word) (n : Nat) : (s.kput d v).me.rk n = (s.me.wk d.toNat v).rk n := by
  rw [State.kput, if_neg hd]
  dsimp only
  split
  · rw [State.record, State.me_modMe, Hart.record_rk, State.me_modMe]
  · rw [State.me_modMe]

theorem reg_toNat_ne_zero {d : Reg} (hd : d ≠ 0) : d.toNat ≠ 0 := fun h => hd (BitVec.eq_of_toNat_eq h)

theorem State.kput_rk_self {d : Reg} (hd : d ≠ 0) (hk : Store.Rising s.me.k) (v : Word) : (s.kput d v).me.rk d.toNat = v := by
  rw [s.kput_rk hd, Hart.rk_wk_self hk v (reg_toNat_ne_zero hd)]

theorem State.kput_rk_ne {d e : Reg} (hd : d ≠ 0) (he : e ≠ d) (v : Word) : (s.kput d v).me.rk e.toNat = s.me.rk e.toNat := by
  rw [s.kput_rk hd, Hart.rk_wk_ne _ v fun h => he (BitVec.eq_of_toNat_eq h)]

end

/-! ## Moves, compares and mask instructions -/

section
variable {s : State} {t : VTy}

/-- An issue whose body writes the active lanes of V[d], with more registers free than it names. -/
theorem Issue.maps {i : Issue} {xs vs : List Reg} {d : Reg} {f : Nat → Nat × Nat} (hv : s.VReady xs vs [s.me.maskNo])
    (hx : ∀ r ∈ i.xs, r ∈ xs) (hvs : ∀ r ∈ i.vs, r ∈ vs) (hc : i.codes = []) (ht : i.ts = []) (hk : i.ks = []) (hm : i.masked = true)
    (hb : i.body s = s.vmap t d false f) :
    i.run s = .next ((s.vdone d (s.laneLine t d f) (s.laneFlags t d f) false).modMe Hart.retire) := by
  refine Issue.completes hv hx hvs hc ht ?_ (hb.trans (s.vmap_eq t d false f))
  rw [hk, hm]
  exact fun k h => h

/-- The mask and the flags of a compare. -/
theorem exec_vcmp_bits (vx : Bool) (d a b : Reg) (cond : BitVec 5)
    (hv : s.VReady (if vx then [b] else []) (a :: (if vx then [] else [b])) [d.toNat, s.me.maskNo]) :
    ∃ (m : Word) (fl : Nat), exec (.vcmp t vx d a b cond) s = .next (((s.kput d m).orFlags fl).modMe Hart.retire) ∧
      (∀ i, i < 64 → m.getLsbD i = (decide (i < t.lanes) && s.mask.getLsbD i &&
        (compareElems t cond.toNat (s.elem t a i) (s.operand t vx b i)).1)) ∧
      (∀ k, fl.testBit k = (s.activeLanes t).any (fun i =>
        (compareElems t cond.toNat (s.elem t a i) (s.operand t vx b i)).2.testBit k)) := by
  refine ⟨_, _, Issue.completes (i := vcmpI t vx d a b cond) hv (fun _ h => h) (fun _ h => h) rfl rfl (fun _ h => h) rfl,
    fun i hi => ?_, fun k => ?_⟩
  · rw [BitVec.getLsbD_ofNat, decide_eq_true hi, Bool.true_and, List.foldl_map]
    exact s.activeLanes_testBit t _ i
  · rw [List.foldl_map, foldl_or_testBit, Nat.zero_testBit, Bool.false_or]

/-- VMASK selects the active mask and traces it. -/
theorem exec_vmask_selects (a : Reg) (hv : s.VReady [] [] [a.toNat]) : ∃ t : State, exec (.vmask a) s = .next t ∧
    t.me.dev.vactm = BitVec.ofNat 64 (a.toNat % 8) ∧ t.me.x = s.me.x ∧ t.me.k = s.me.k ∧ t.mem = s.mem ∧ t.slotRegs = s.slotRegs := by
  refine ⟨_, Issue.run_ok (i := vmaskI a) hv rfl rfl (fun _ h => h) rfl, ?_⟩
  rw [State.record, State.modMe_modMe, State.modMe_modMe, State.me_modMe]
  exact ⟨Hart.record_vactm _ _ _ _ _, Hart.record_x _ _ _ _ _, Hart.record_k _ _ _ _ _, rfl, rfl⟩

end

/-- Settles O29: every move, compare and mask instruction is one issue that completes with its body. -/
theorem vectorMoves : Obligations.VectorMoves := by
  refine ⟨⟨fun t d a l s hv => ⟨?_, ?_, fun hl => ?_⟩, fun t d a s hv => ⟨?_, ?_⟩,
      fun t d a b amt s hv => ⟨?_, ?_, ?_, ?_, fun x f hf => ⟨fun hx => ?_, fun hx => ?_⟩⟩, fun t d a b s hv => ⟨?_, ?_⟩⟩,
    fun t vx d a b cond s hv => exec_vcmp_bits vx d a b cond hv, fun d a b s hv => ⟨?_, ?_, ?_⟩,
    fun d a s => ⟨fun hv => ?_, fun hv => ?_⟩, fun a s => exec_vmask_selects a,
    fun s d v => ⟨s.kput_zero v, fun hd hk => ⟨s.kput_rk_self hd hk v, fun e he => s.kput_rk_ne hd he v⟩⟩, Hart.rk_zero⟩
  · exact Issue.writes (i := vmvxI t d a 0) hv (by simp [vmvxI]) (by simp [vmvxI]) rfl rfl (by simp [vmvxI]) rfl
  · exact Issue.writes (i := vmvxI t d a l.toNat) hv (by simp [vmvxI]) (by simp [vmvxI]) rfl rfl (by simp [vmvxI]) rfl
  · exact Issue.writes (i := vztstI t d a) ⟨hv.1, hv.2.1, hl⟩ (by simp [vztstI]) (by simp [vztstI]) rfl rfl (by simp [vztstI]) rfl
  · exact Issue.maps (i := vbcastI t d a) hv (by simp [vbcastI]) (by simp [vbcastI]) rfl rfl rfl rfl rfl
  · exact Issue.maps (i := viotaI t d) hv (by simp [viotaI]) (by simp [viotaI]) rfl rfl rfl rfl rfl
  · exact Issue.maps (i := vmvvI t d a) hv (by simp [vmvvI]) (by simp [vmvvI]) rfl rfl rfl rfl rfl
  · exact Issue.maps (i := vexpndI t d a) hv (by simp [vexpndI]) (by simp [vexpndI]) rfl rfl rfl rfl rfl
  · exact Issue.completes (i := vcomprI t d a) hv (by simp [vcomprI]) (by simp [vcomprI]) rfl rfl (by simp [vcomprI]) rfl
  · exact Issue.completes (i := vselI t d a b true) hv (by simp [vselI]) (by simp [vselI]) rfl rfl (by simp [vselI]) rfl
  · subst hf hx
    exact Issue.maps (i := vslideVxI t d a b) hv (by simp [vslideVxI]) (by simp [vslideVxI]) rfl rfl rfl rfl rfl
  · subst hf hx
    exact Issue.maps (i := vslideImmI t d a amt) hv (by simp [vslideImmI]) (by simp [vslideImmI]) rfl rfl rfl rfl rfl
  · exact Issue.maps (i := vpermI t d a b) hv (by simp [vpermI]) (by simp [vpermI]) rfl rfl rfl rfl rfl
  · exact Issue.completes (i := vselI t d a b false) hv (by simp [vselI]) (by simp [vselI]) rfl rfl (by simp [vselI]) rfl
  · exact Issue.completes (i := kandI d a b) hv (by simp [kandI, maskI]) (by simp [kandI, maskI]) rfl rfl (by simp [kandI, maskI]) rfl
  · exact Issue.completes (i := korI d a b) hv (by simp [korI, maskI]) (by simp [korI, maskI]) rfl rfl (by simp [korI, maskI]) rfl
  · exact Issue.completes (i := knotI d a) hv (by simp [knotI, maskI]) (by simp [knotI, maskI]) rfl rfl (by simp [knotI, maskI]) rfl
  · exact Issue.completes (i := kmvToI d a) hv (by simp [kmvToI, maskI]) (by simp [kmvToI, maskI]) rfl rfl (by simp [kmvToI, maskI]) rfl
  · exact Issue.writes (i := kmvFromI d a) hv (by simp [kmvFromI]) (by simp [kmvFromI]) rfl rfl (by simp [kmvFromI]) rfl

/-! ## Conversions and reductions -/

theorem foldl_add_eq (g : Nat → Int) (xs : List Nat) (a : Int) : xs.foldl (fun acc i => acc + g i) a = a + (xs.map g).sum := by
  induction xs generalizing a with
  | nil => rw [List.foldl_nil, List.map_nil, List.sum_nil, add_zero]
  | cons x xs ih => rw [List.foldl_cons, ih, List.map_cons, List.sum_cons, add_assoc]

theorem foldl_present_eq (t : VTy) (p : Nat → Bool) (g : Nat → Nat) (xs : List Nat) (a : Int) :
    (xs.map (fun i => if p i then some (g i) else none)).foldl (fun a x => a + x.elim 0 (sI t)) a
      = a + ((xs.filter p).map (fun i => sI t (g i))).sum := by
  induction xs generalizing a with
  | nil => rw [List.map_nil, List.foldl_nil, List.filter_nil, List.map_nil, List.sum_nil, add_zero]
  | cons x xs ih =>
    rw [List.map_cons, List.foldl_cons, ih]
    cases hp : p x with
    | false =>
      rw [if_neg Bool.false_ne_true, Option.elim_none, add_zero, List.filter_cons_of_neg (ne_true_of_eq_false hp)]
    | true => rw [if_pos rfl, Option.elim_some, List.filter_cons_of_pos hp, List.map_cons, List.sum_cons, add_assoc]

section
variable {s : State} {t : VTy} {d a b : Reg}

/-- The sum of the present lanes is that of the active ones. -/
theorem intSum_present : intSum t (s.present t a) = ((s.activeLanes t).map (fun i => natToInt t.bits (s.elem t a i))).sum := by
  rw [intSum, State.present, foldl_present_eq, zero_add]
  rfl

theorem dot_int (ht : t.isInt = true) : dot t a b s = (intToNat 64 (((s.activeLanes t).map (fun i =>
    natToInt t.bits (s.elem t a i) * natToInt t.bits (s.elem t b i))).sum), 0) := by
  rw [dot]
  dsimp only
  rw [if_pos ht, foldl_add_eq, zero_add]
  rfl

/-- A reduction writes its result to lane 0. -/
theorem reduceI_completes {rounds : Bool} {f : State → Nat × Nat} (hv : s.VReady [] [d, a] [s.me.maskNo]) :
    (reduceI t d a rounds f).run s = .next ((s.vdone d (ofLanes t.bits [(f s).1]) (f s).2 rounds).modMe Hart.retire) :=
  Issue.completes hv (by simp [reduceI]) (by simp [reduceI]) rfl rfl (by simp [reduceI]) rfl

end

/-- Settles O30: conversions, reductions, the dot product and VQNT are issues that complete with their bodies. -/
theorem vectorConversionsAndReductions : Obligations.VectorConversionsAndReductions := by
  refine ⟨fun t d a s hv => ⟨fun b sz sc p i src dst k hi => ?cvt, fun ht => ?sumInt, fun ht => ?sumFloat, ?max, ?min⟩,
    fun t d a b s hv => ⟨?dot, dot_int⟩, fun fmt p amx d a b c s hv => ?qnt⟩
  case cvt =>
    have hrun : (vcvtI src dst k d a).run s = .next ((s.vdone d (ofLanes dst.bits
        (cvtLanes s.sampled s.mask src dst k (s.vget a) (s.vget d)).1) (cvtLanes s.sampled s.mask src dst k (s.vget a) (s.vget d)).2
        true).modMe Hart.retire) :=
      Issue.completes hv (by simp [vcvtI]) (by simp [vcvtI]) rfl rfl (by simp [vcvtI]) rfl
    rcases hi with ⟨rfl, rfl, rfl, rfl⟩ | ⟨rfl, rfl, rfl, rfl⟩
    · exact hrun
    · exact hrun
  case sumInt =>
    rw [exec_vrsum, execVrsum, vrsumI, reduceI_completes hv, ht, if_pos rfl, intSum_present]
    rfl
  case sumFloat =>
    rw [exec_vrsum, execVrsum, vrsumI, reduceI_completes hv, ht, if_neg Bool.false_ne_true]
    rfl
  case max => exact reduceI_completes hv
  case min => exact reduceI_completes hv
  case dot => exact Issue.completes (i := vdotI t d a b) hv (by simp [vdotI]) (by simp [vdotI]) rfl rfl (by simp [vdotI]) rfl
  case qnt =>
    exact ⟨_, _, _, Issue.completes (i := vqntI fmt amx p d a b c) hv (by simp [vqntI]) (by simp [vqntI]) rfl rfl (by simp [vqntI]) rfl, rfl⟩

/-! ## Vector memory -/

theorem strided_zip (s : State) (t : VTy) (b : Reg) (e : Word) (stride : Int) : (strided e stride (s.activeLanes t)).zip
    ((s.activeLanes t).map (s.elem t b))
      = (s.activeLanes t).map (fun (k : Nat) => (wrapAddr (e.toNat + (k : Int) * stride), s.elem t b k)) := List.zip_map' ..

theorem indexed_zip (s : State) (t : VTy) (b d : Reg) (e : Word) : (s.indexed t e b (s.activeLanes t)).zip
    ((s.activeLanes t).map (s.elem t d)) = (s.activeLanes t).map (fun (k : Nat) =>
      (wrapAddr (e.toNat + natToInt t.bits (s.elem t b k) * t.bytes), s.elem t d k)) := List.zip_map' ..

/-- The values that the active lanes take, in their order. -/
def loadedLane (act vs : List Nat) (k : Nat) : Nat × Nat := (((act.zip vs).find? (fun x => x.1 == k)).elim 0 (·.2), 0)

theorem State.putLoaded_eq (s : State) (t : VTy) (d : Reg) (act vs : List Nat) (e : Word) : s.putLoaded t d act vs e
    = .ok () ((s.record 3 3 e).vdone d ((s.record 3 3 e).laneLine t d (loadedLane act vs))
        ((s.record 3 3 e).laneFlags t d (loadedLane act vs)) false) := rfl

/-- A vector load: the registers that its issue names, and its answer for the active elements. -/
structure VectorLoad (i : Instr) (t : VTy) (d : Reg) (e : Word) (s : State) (answer : Act (List Nat)) : Prop where
  ok : ∀ (vs : List Nat) (u : State), answer = .ok vs u → exec i s = .next (((u.record 3 3 e).vdone d
    ((u.record 3 3 e).laneLine t d (loadedLane (s.activeLanes t) vs)) ((u.record 3 3 e).laneFlags t d (loadedLane (s.activeLanes t) vs))
    false).modMe Hart.retire)
  trap : ∀ (c : Nat) (v : Word) (u : State), answer = .trap c v u → exec i s = .next (u.trapFrom s.me.pts c v)

section
variable {s : State} {t : VTy} {d : Reg} {e : Word} {answer : Act (List Nat)} {i : Issue} {xs vs : List Reg} {j : Instr}

/-- An issue whose body puts the answered elements into the active lanes. -/
theorem Issue.vectorLoad (hv : s.VReady xs vs [s.me.maskNo]) (hj : exec j s = i.run s) (hx : ∀ r ∈ i.xs, r ∈ xs)
    (hvs : ∀ r ∈ i.vs, r ∈ vs) (hc : i.codes = []) (ht : i.ts = []) (hk : i.ks = []) (hm : i.masked = true)
    (hb : i.body s = answer.andThen fun ws u => u.putLoaded t d (s.activeLanes t) ws e) : VectorLoad j t d e s answer := by
  have hks : ∀ k ∈ i.ks.map (·.toNat) ++ (if i.masked then [s.me.maskNo] else []), k ∈ [s.me.maskNo] := by
    rw [hk, hm]
    exact fun k h => h
  constructor
  · intro ws u ha
    rw [hj]
    exact Issue.completes hv hx hvs hc ht hks (by rw [hb, ha, Act.andThen, State.putLoaded_eq])
  · intro c v u ha
    rw [hj]
    exact Issue.traps hv hx hvs hc ht hks (by rw [hb, ha, Act.andThen])

/-- An issue whose body stores. -/
theorem Issue.vectorStore {store : Act Unit} (hv : s.VReady xs vs [s.me.maskNo]) (hj : exec j s = i.run s) (hx : ∀ r ∈ i.xs, r ∈ xs)
    (hvs : ∀ r ∈ i.vs, r ∈ vs) (hc : i.codes = []) (ht : i.ts = []) (hk : i.ks = []) (hm : i.masked = true) (hb : i.body s = store) :
    (∀ u : State, store = .ok () u → exec j s = .next (u.modMe Hart.retire)) ∧
    (∀ (c : Nat) (v : Word) (u : State), store = .trap c v u → exec j s = .next (u.trapFrom s.me.pts c v)) := by
  have hks : ∀ k ∈ i.ks.map (·.toNat) ++ (if i.masked then [s.me.maskNo] else []), k ∈ [s.me.maskNo] := by
    rw [hk, hm]
    exact fun k h => h
  subst hb
  rw [hj]
  exact ⟨fun u => Issue.completes hv hx hvs hc ht hks, fun c v u => Issue.traps hv hx hvs hc ht hks⟩

end

section
variable {s : State} {t : VTy} {d a b c : Reg} {i : Instr} {e : Word} {stride : Int}

theorem exec_stridedLoads (hv : s.VReady [a, c] [d] [s.me.maskNo])
    (hi : i = .vld t d a ∧ e = s.rx a ∧ stride = t.bytes ∨ (∃ off, i = .vldOff t d a off ∧ e = s.ea a off ∧ stride = t.bytes) ∨
      (∃ off, i = .vlds t d a c off ∧ e = s.ea a off ∧ stride = (s.rx c).toInt)) :
    VectorLoad i t d e s (s.loadLines t.bytes (strided e stride (s.activeLanes t))) := by
  rcases hi with ⟨rfl, rfl, rfl⟩ | ⟨off, rfl, rfl, rfl⟩ | ⟨off, rfl, rfl, rfl⟩
  · exact Issue.vectorLoad hv (by rw [exec_vld, execVld]) (by simp) (by simp) rfl rfl rfl rfl rfl
  · exact Issue.vectorLoad hv (by rw [exec_vldOff, execVldOff]) (by simp) (by simp) rfl rfl rfl rfl rfl
  · exact Issue.vectorLoad hv (by rw [exec_vlds, execVlds]) (by simp) (by simp) rfl rfl rfl rfl rfl

theorem exec_stridedStores (hv : s.VReady [a, c] [b] [s.me.maskNo])
    (hi : i = .vst t b a ∧ e = s.rx a ∧ stride = t.bytes ∨ (∃ off, i = .vstOff t b a off ∧ e = s.ea a off ∧ stride = t.bytes) ∨
      (∃ off, i = .vsts t b a c off ∧ e = s.ea a off ∧ stride = (s.rx c).toInt)) {store : Act Unit}
    (hs : store = s.storeElems t.bytes true ((strided e stride (s.activeLanes t)).zip ((s.activeLanes t).map (s.elem t b))) e) :
    (∀ u : State, store = .ok () u → exec i s = .next (u.modMe Hart.retire)) ∧
    (∀ (c : Nat) (v : Word) (u : State), store = .trap c v u → exec i s = .next (u.trapFrom s.me.pts c v)) := by
  subst hs
  rcases hi with ⟨rfl, rfl, rfl⟩ | ⟨off, rfl, rfl, rfl⟩ | ⟨off, rfl, rfl, rfl⟩
  · exact Issue.vectorStore hv (by rw [exec_vst, execVst]) (by simp) (by simp) rfl rfl rfl rfl rfl
  · exact Issue.vectorStore hv (by rw [exec_vstOff, execVstOff]) (by simp) (by simp) rfl rfl rfl rfl rfl
  · exact Issue.vectorStore hv (by rw [exec_vsts, execVsts]) (by simp) (by simp) rfl rfl rfl rfl rfl

theorem exec_gathers (hv : s.VReady [a] [d, b] [s.me.maskNo])
    (hi : i = .vgath t d a b ∧ e = s.rx a ∨ (∃ off, i = .vgathOff t d a b off ∧ e = s.ea a off)) :
    VectorLoad i t d e s (s.gatherElems t.bytes (s.indexed t e b (s.activeLanes t))) := by
  rcases hi with ⟨rfl, rfl⟩ | ⟨off, rfl, rfl⟩
  · exact Issue.vectorLoad hv (by rw [exec_vgath, execVgath]) (by simp) (by simp) rfl rfl rfl rfl rfl
  · exact Issue.vectorLoad hv (by rw [exec_vgathOff, execVgathOff]) (by simp) (by simp) rfl rfl rfl rfl rfl

theorem exec_scatters (hv : s.VReady [a] [d, b] [s.me.maskNo])
    (hi : i = .vscat t d a b ∧ e = s.rx a ∨ (∃ off, i = .vscatOff t d a b off ∧ e = s.ea a off)) {store : Act Unit}
    (hs : store = s.storeElems t.bytes false ((s.indexed t e b (s.activeLanes t)).zip ((s.activeLanes t).map (s.elem t d))) e) :
    (∀ u : State, store = .ok () u → exec i s = .next (u.modMe Hart.retire)) ∧
    (∀ (c : Nat) (v : Word) (u : State), store = .trap c v u → exec i s = .next (u.trapFrom s.me.pts c v)) := by
  subst hs
  rcases hi with ⟨rfl, rfl⟩ | ⟨off, rfl, rfl⟩
  · exact Issue.vectorStore hv (by rw [exec_vscat, execVscat]) (by simp) (by simp) rfl rfl rfl rfl rfl
  · exact Issue.vectorStore hv (by rw [exec_vscatOff, execVscatOff]) (by simp) (by simp) rfl rfl rfl rfl rfl

end

/-- Settles O28: in each form a load puts its answered elements into the active lanes and a store stores them; either traps as its
elements do. -/
theorem vectorMemory : Obligations.VectorMemory := by
  refine ⟨fun t d a c s i e stride hv hi => ?load, fun t b a c s i e stride hv hi => ?store, fun t d a b s i j e hv hi hj => ?indexed⟩
  case load =>
    obtain ⟨hok, htrap⟩ := exec_stridedLoads hv hi
    refine ⟨fun vs u ha f hf => ?_, htrap⟩
    subst hf
    exact hok vs u ha
  case store => exact exec_stridedStores hv hi (by rw [strided_zip])
  case indexed =>
    obtain ⟨hok, htrap⟩ := exec_gathers hv hi
    refine ⟨fun vs u ha f hf => ?_, htrap, exec_scatters hv hj (by rw [indexed_zip])⟩
    subst hf
    exact hok vs u ha

end Sys2Proof.Machine

end

section
/-! PROOF of the lane operations (R426, R435, R436): integers as numbers modulo 2^w, and the special rules of the float types. -/

namespace Sys2Proof.Machine

/-! ## Integers modulo 2^w -/

/-- A number's signed reading differs from it by a multiple of 2^w. -/
theorem natToInt_modEq (w v : Nat) : natToInt w v ≡ v [ZMOD 2 ^ w] := by
  have hmod : ((v % 2 ^ w : Nat) : Int) ≡ v [ZMOD 2 ^ w] := by
    rw [Int.natCast_mod, Nat.cast_pow, Nat.cast_ofNat]
    exact Int.mod_modEq _ _
  rw [natToInt]
  split
  · exact hmod
  · exact (Int.modEq_iff_dvd.mpr ⟨1, by ring⟩ : _ ≡ ((v % 2 ^ w : Nat) : Int) [ZMOD 2 ^ w]).trans hmod

theorem intToNat_of_modEq {w n : Nat} {v : Int} (h : v ≡ n [ZMOD 2 ^ w]) : intToNat w v = n % 2 ^ w := by
  have hv : v % (2 ^ w : Int) = ((n % 2 ^ w : Nat) : Int) := by
    rw [Int.natCast_mod, Nat.cast_pow, Nat.cast_ofNat]
    exact h
  rw [intToNat, hv, Int.toNat_natCast]

section
variable {w y : Nat} (hy : y < 2 ^ w)
include hy

theorem sub_modEq : (-(y : Int)) ≡ ((2 ^ w - y : Nat) : Int) [ZMOD 2 ^ w] := by
  rw [Int.modEq_iff_dvd, Nat.cast_sub hy.le]
  exact ⟨1, by push_cast; ring⟩

theorem natToInt_low (h : y < 2 ^ (w - 1)) : natToInt w y = y := by
  rw [natToInt, Nat.mod_eq_of_lt hy]
  exact if_pos h

theorem natToInt_high (h : ¬y < 2 ^ (w - 1)) : natToInt w y = y - 2 ^ w := by
  rw [natToInt, Nat.mod_eq_of_lt hy]
  exact if_neg h

theorem intToNat_natAbs : intToNat w (natToInt w y).natAbs = if y < 2 ^ (w - 1) then y else (2 ^ w - y) % 2 ^ w := by
  split
  next h =>
    rw [natToInt_low hy h, Int.natAbs_natCast, intToNat_of_modEq rfl, Nat.mod_eq_of_lt hy]
  next h =>
    have habs : (natToInt w y).natAbs = 2 ^ w - y := by
      rw [natToInt_high hy h]
      have hc : ((2 ^ w : Nat) : Int) = 2 ^ w := by push_cast; rfl
      omega
    rw [habs, intToNat_of_modEq rfl]

end

section
variable {t : VTy} (hi : t.isInt = true) (r : Rounding) {x y o : Nat}
include hi

theorem opAdd_int : opAdd t r x y o = ((x + y) % 2 ^ t.bits, 0) := by
  rw [opAdd, if_pos hi, wrapInt, intToNat_of_modEq (n := x + y)]
  rw [Nat.cast_add]
  exact (natToInt_modEq _ _).add (natToInt_modEq _ _)

theorem opMul_int : opMul t r x y o = (x * y % 2 ^ t.bits, 0) := by
  rw [opMul, if_pos hi, wrapInt, intToNat_of_modEq (n := x * y)]
  rw [Nat.cast_mul]
  exact (natToInt_modEq _ _).mul (natToInt_modEq _ _)

theorem opFma_int : opFma t r x y o = ((x * y + o) % 2 ^ t.bits, 0) := by
  rw [opFma, if_pos hi, wrapInt, intToNat_of_modEq (n := x * y + o)]
  rw [Nat.cast_add, Nat.cast_mul]
  exact ((natToInt_modEq _ _).mul (natToInt_modEq _ _)).add (natToInt_modEq _ _)

theorem opSub_int (hy : y < 2 ^ t.bits) : opSub t r x y o = ((x + (2 ^ t.bits - y)) % 2 ^ t.bits, 0) := by
  rw [opSub, if_pos hi, wrapInt, intToNat_of_modEq (n := x + (2 ^ t.bits - y))]
  rw [Nat.cast_add, sub_eq_add_neg]
  exact (natToInt_modEq _ _).add ((natToInt_modEq _ _).neg.trans (sub_modEq hy))

theorem opFms_int (ho : o < 2 ^ t.bits) : opFms t r x y o = ((x * y + (2 ^ t.bits - o)) % 2 ^ t.bits, 0) := by
  rw [opFms, if_pos hi, wrapInt, intToNat_of_modEq (n := x * y + (2 ^ t.bits - o))]
  rw [Nat.cast_add, Nat.cast_mul, sub_eq_add_neg]
  exact ((natToInt_modEq _ _).mul (natToInt_modEq _ _)).add ((natToInt_modEq _ _).neg.trans (sub_modEq ho))

theorem opNeg_int (hx : x < 2 ^ t.bits) : opNeg t r x = ((2 ^ t.bits - x) % 2 ^ t.bits, 0) := by
  rw [opNeg, if_pos hi, wrapInt, intToNat_of_modEq (n := 2 ^ t.bits - x)]
  exact (natToInt_modEq _ _).neg.trans (sub_modEq hx)

theorem opAbs_int (hx : x < 2 ^ t.bits) :
    opAbs t r x = (if x < 2 ^ (t.bits - 1) then x else (2 ^ t.bits - x) % 2 ^ t.bits, 0) := by
  rw [opAbs, if_pos hi, wrapInt, sI, intToNat_natAbs hx]

/-- The most negative number has no absolute value, and stays. -/
theorem opAbs_least : opAbs t r (2 ^ (t.bits - 1)) = (2 ^ (t.bits - 1), 0) := by
  have hb : 2 ^ t.bits = 2 * 2 ^ (t.bits - 1) := by cases t <;> rfl
  have hp : 0 < 2 ^ (t.bits - 1) := Nat.two_pow_pos _
  rw [opAbs_int hi r (by omega), if_neg (lt_irrefl _), hb, Nat.mod_eq_of_lt (by omega)]
  congr 1
  omega

theorem opMin_int : opMin t r x y o = (if natToInt t.bits x < natToInt t.bits y then x else y, 0) := by
  rw [opMin, pickElem, if_pos hi, sI, sI]
  by_cases h : natToInt t.bits x < natToInt t.bits y
  · rw [decide_eq_true h, if_pos h]
    rfl
  · rw [decide_eq_false h, if_neg h]
    rfl

theorem opMax_int : opMax t r x y o = (if natToInt t.bits x < natToInt t.bits y then y else x, 0) := by
  rw [opMax, pickElem, if_pos hi, sI, sI]
  by_cases h : natToInt t.bits x < natToInt t.bits y
  · rw [decide_eq_true h, if_pos h]
    rfl
  · rw [decide_eq_false h, if_neg h]
    rfl

end

/-! ## The float types -/

section
variable {t : VTy} {x : Nat} (f : Nat → Nat)

theorem signElem_nan (h : ((fmtOf t).unpack x).isNaN = true) :
    signElem t x f = ((fmtOf t).canonNaN, if ((fmtOf t).unpack x).signalling then flNV else 0) := if_pos h

theorem signElem_number (h : ((fmtOf t).unpack x).isNaN = false) : signElem t x f = (f x, 0) :=
  if_neg (ne_true_of_eq_false h)

end

section
variable {t : VTy} (hf : t.isFloat = true)
include hf

theorem isInt_of_isFloat : ¬t.isInt = true := by
  cases t with
  | i8 | i16 | i32 | i64 | fp8 => exact absurd hf Bool.false_ne_true
  | bf16 | f16 | f32 => exact Bool.false_ne_true

/-- A NaN input gives the canonical NaN, with NV for a signalling one. -/
theorem pickElem_nan (greater : Bool) {x y : Nat}
    (h : ((fmtOf t).unpack x).isNaN = true ∨ ((fmtOf t).unpack y).isNaN = true) : pickElem t greater x y
      = ((fmtOf t).canonNaN, if ((fmtOf t).unpack x).signalling || ((fmtOf t).unpack y).signalling then flNV else 0) := by
  rw [pickElem, if_neg (isInt_of_isFloat hf), pickFloat]
  exact if_pos (Bool.or_eq_true_iff.mpr h)

/-- −0 is below +0. -/
theorem pickElem_zeros : pickElem t false 0 (2 ^ (t.bits - 1)) = (2 ^ (t.bits - 1), 0) ∧
    pickElem t false (2 ^ (t.bits - 1)) 0 = (2 ^ (t.bits - 1), 0) ∧ pickElem t true 0 (2 ^ (t.bits - 1)) = (0, 0) ∧
    pickElem t true (2 ^ (t.bits - 1)) 0 = (0, 0) := by
  cases t with
  | i8 | i16 | i32 | i64 | fp8 => exact absurd hf Bool.false_ne_true
  | bf16 | f16 | f32 => decide

section
variable (r : Rounding) {x : Nat}

theorem opAbs_float : opAbs t r x = signElem t x (fun x => x % 2 ^ (t.bits - 1)) := if_neg (isInt_of_isFloat hf)
theorem opNeg_float : opNeg t r x = signElem t x (fun x => x ^^^ 2 ^ (t.bits - 1)) := if_neg (isInt_of_isFloat hf)

end

end

/-- 0 × ∞ is invalid. -/
theorem Num.mul_zero_inf {a b : Num} {n : Bool} (h : a.isZero = true ∧ b = .inf n ∨ a = .inf n ∧ b.isZero = true) :
    (a.mul b).2 = flNV := by
  rcases h with ⟨ha, rfl⟩ | ⟨rfl, hb⟩
  · cases a with
    | nan | inf => exact absurd ha Bool.false_ne_true
    | fin s m e =>
      have hm : m = 0 := beq_iff_eq.mp ha
      rw [Num.mul, if_pos hm]
  · cases b with
    | nan | inf => exact absurd hb Bool.false_ne_true
    | fin s m e =>
      have hm : m = 0 := beq_iff_eq.mp hb
      rw [Num.mul, if_pos hm]

/-- Whatever is added to it, NV stays raised. -/
theorem roundElem_fma_invalid (t : VTy) (r : Rounding) {a b : Num} (c : Num) (h : (a.mul b).2 = flNV) :
    (roundElem t r (Num.fma r.rm a b c)).2.testBit 4 = true := by
  have hfma : (Num.fma r.rm a b c).2 = flNV ||| ((a.mul b).1.add r.rm c).2 := by rw [← h]; rfl
  have hround : (roundElem t r (Num.fma r.rm a b c)).2
      = (Num.fma r.rm a b c).2 ||| ((fmtOf t).pack r (Num.fma r.rm a b c).1).2 := rfl
  rw [hround, hfma, Nat.testBit_or, Nat.testBit_or, show flNV.testBit 4 = true from rfl, Bool.true_or, Bool.true_or]

/-- Settles O27: the integer operations modulo 2^w, then the special rules of R436. -/
theorem laneOperations : Obligations.LaneOperations := by
  refine ⟨fun t r x y o hx hy ho => ⟨fun hi => ⟨opAdd_int hi r, opSub_int hi r hy, opMul_int hi r, opFma_int hi r, opFms_int hi r ho,
      opMin_int hi r, opMax_int hi r, opAbs_int hi r hx, opAbs_least hi r, opNeg_int hi r hx, rfl, rfl, rfl⟩, rfl, rfl, rfl⟩,
    fun t r x y o hf => ⟨fun h => ⟨pickElem_nan hf false h, pickElem_nan hf true h⟩, pickElem_zeros hf, fun h => ?nan, fun h => ?number,
      fun n h => ?invalid⟩⟩
  case nan => rw [opAbs_float hf, opNeg_float hf, signElem_nan _ h, signElem_nan _ h]; exact ⟨rfl, rfl⟩
  case number => rw [opAbs_float hf, opNeg_float hf, signElem_number _ h, signElem_number _ h]; exact ⟨rfl, rfl⟩
  case invalid =>
    rw [opFma, opFms, if_neg (isInt_of_isFloat hf), if_neg (isInt_of_isFloat hf)]
    exact ⟨roundElem_fma_invalid t r _ (Num.mul_zero_inf h), roundElem_fma_invalid t r _ (Num.mul_zero_inf h)⟩

end Sys2Proof.Machine

end

section
/-! PROOF of the format checks of the matrix instructions (R457, R458, R459, R461, R462, R464), check by check. -/

namespace Sys2Proof.Machine

/-! ## The format word -/

theorem mztstFmt_iff (c : BitVec 4) : mztstFmt c = true ↔ c.toNat ∈ [0, 4, 5, 6, 7, 8, 9, 10] := by
  revert c
  decide

/-- Of the assigned formats i8 and int4 alone may be asymmetric. -/
theorem isAsymInt_iff (c : BitVec 4) (h : c.toNat ∈ [0, 4, 5, 6, 7, 8, 9, 10]) :
    isAsymInt ((Fmt.ofCode c.toNat).getD .i8) = true ↔ c.toNat = 0 ∨ c.toNat = 10 := by
  revert c
  decide

theorem fmtWordOk_iff (w : Word) : fmtWordOk w = true ↔
    fld w 16 48 = 0 ∧ fld w 10 2 ≠ 3 ∧ (fld w 0 4).toNat ∈ [0, 4, 5, 6, 7, 8, 9, 10] ∧ (fld w 4 4).toNat ∈ [0, 4, 5, 6, 7, 8, 9, 10] ∧
      (w.getLsbD 8 = true → (fld w 0 4).toNat = 0 ∨ (fld w 0 4).toNat = 10) ∧
      (w.getLsbD 9 = true → (fld w 4 4).toNat = 0 ∨ (fld w 4 4).toNat = 10) ∧ ¬(w.getLsbD 8 = true ∧ w.getLsbD 9 = true) := by
  have ha : opAsym w false = w.getLsbD 8 := rfl
  have hb : opAsym w true = w.getLsbD 9 := rfl
  have hfa : opFmt w false = (Fmt.ofCode (fld w 0 4).toNat).getD .i8 := rfl
  have hfb : opFmt w true = (Fmt.ofCode (fld w 4 4).toNat).getD .i8 := rfl
  rw [fmtWordOk]
  simp only [Bool.and_eq_true, decide_eq_true_eq, bne_iff_ne, ne_eq, ha, hb, hfa, hfb, matFmtOk, mztstFmt_iff,
    Bool.not_eq_true', Bool.and_eq_false_iff, and_assoc]
  refine and_congr_right fun _ => and_congr_right fun _ => and_congr_right fun h1 => and_congr_right fun h2 => ?_
  rw [← isAsymInt_iff _ h1, ← isAsymInt_iff _ h2]
  generalize w.getLsbD 8 = asymA, w.getLsbD 9 = asymB, isAsymInt ((Fmt.ofCode (fld w 0 4).toNat).getD .i8) = intA,
    isAsymInt ((Fmt.ofCode (fld w 4 4).toNat).getD .i8) = intB
  revert asymA asymB intA intB
  decide

/-! ## The other checks -/

theorem fld_high_zero_iff (w : Word) : fld w 32 32 = 0 ↔ w.toNat < 2 ^ 32 := by
  rw [← BitVec.toNat_inj]
  have hw : w.toNat < 2 ^ 64 := w.isLt
  simp only [BitVec.extractLsb'_toNat, Nat.shiftRight_eq_div_pow]
  show w.toNat / 2 ^ 32 % 2 ^ 32 = 0 ↔ _
  omega

theorem stileIn_false_iff (w : Word) (r m : Nat) : (!stileIn w r (blocksOf m)) = true ↔
    ¬(r ≤ (fld w 12 4).toNat ∧ (fld w 12 4).toNat ≤ r + m / 128) := by
  rw [Bool.not_eq_true', stileIn, blocksOf, Bool.and_eq_false_iff, decide_eq_false_iff_not, decide_eq_false_iff_not]
  omega

theorem mulOk_iff (w : Word) (a b k8 : Reg) (m n : Nat) : mulOk w a b k8 m n = true ↔ pairOk w = true ∧ (scaledWord w = true →
    elemsOf w k8 % chunkOf w = 0 ∧ (∀ t, t = (fld w 12 4).toNat →
      ¬(a.toNat ≤ t ∧ t ≤ a.toNat + m / 128) ∧ ¬(b.toNat ≤ t ∧ t ≤ b.toNat + n / 128))) := by
  rw [mulOk, Bool.and_eq_true, Bool.or_eq_true, Bool.and_eq_true, Bool.and_eq_true, stileIn_false_iff, stileIn_false_iff, beq_iff_eq,
    forall_eq, and_assoc]
  cases scaledWord w <;> simp

theorem mem_gangOthers {q k : Nat} : k ∈ gangOthers q ↔ k / 4 = q / 4 ∧ k ≠ q := by
  simp only [gangOthers, spanOf, List.mem_filter, List.mem_map, List.mem_range, bne_iff_ne]
  refine and_congr_left fun _ => ⟨?_, fun h => ⟨k % 4, by omega, by omega⟩⟩
  rintro ⟨i, hi, rfl⟩
  omega

theorem gangOk_iff (s : State) : s.gangOk = true ↔ ∀ q, q / 4 = quadOf s.cur / 4 → q ≠ quadOf s.cur →
    s.quadPresent q = true ∧ (s.contextOn (s.asidOf s.cur) q).isSome = true := by
  simp only [State.gangOk, List.all_eq_true, mem_gangOthers, Bool.and_eq_true, and_imp]

theorem recOk_iff (w : Word) : recOk w = true ↔ opAsym w false = false ∧ opAsym w true = false ∧
    opFmt w false ∈ [.f32, .bf16, .f16] ∧ opFmt w true ∈ [.f32, .bf16, .f16] := by
  rw [recOk]
  simp only [Bool.and_eq_true, Bool.or_eq_true, beq_iff_eq, Bool.not_eq_true', List.mem_cons, List.not_mem_nil, or_false]
  tauto

/-- Settles O32: the checks one by one; the requests without a check by their forms. -/
theorem matrixChecks : Obligations.MatrixChecks := by
  refine fun s => ⟨fun a => fmtWordOk_iff _, fun a b => ?_, fun z d a b k8 m n => ⟨mulOk_iff _ _ _ _ _ _, ?_, recOk_iff _⟩,
    fun i p h hm hu => ?_⟩
  · change (ucodeOk (uOps (s.rx a)) && decide (fld (s.rx b) 32 32 = 0)) = true ↔ _
    rw [Bool.and_eq_true, decide_eq_true_eq, fld_high_zero_iff, and_comm]
  · change (mulOk s.me.fmt a b k8 m.toNat n.toNat && s.gangOk) = true ↔ _
    rw [Bool.and_eq_true, gangOk_iff]
    rfl
  · cases h with
    | mfmt a => exact absurd rfl (hu a 0).1
    | mupld a b => exact absurd rfl (hu a b).2
    | mma z d a b k8 m n => exact absurd rfl (hm z d a b k8 m n).1
    | mmag z d a b k8 m n => exact absurd rfl (hm z d a b k8 m n).2.1
    | mrec z d a b k8 m n => exact absurd rfl (hm z d a b k8 m n).2.2
    | _ => rfl

end Sys2Proof.Machine

end

section
/-! PROOF of what matrix requests write (R460, R465, R470 to R472): a row of an accumulator as a number, the rows one after the other,
and the requests that are such a write. -/

namespace Sys2Proof.Machine

/-! ## Writes of numbers -/

theorem State.settleNoise_units (s : State) (l n : Nat) :
    (s.settleNoise l n).harts = s.harts ∧ (s.settleNoise l n).quads = s.quads := by
  induction n generalizing s l with
  | zero => exact ⟨rfl, rfl⟩
  | succ n ih =>
    unfold State.settleNoise
    split
    · exact ih s (l + 1)
    · exact ih _ (l + 1)

theorem State.writeBytes_units (s : State) (a : Nat) (bs : List Byte) :
    (s.writeBytes a bs).harts = s.harts ∧ (s.writeBytes a bs).quads = s.quads := by
  unfold State.writeBytes
  split
  · exact ⟨rfl, rfl⟩
  · exact s.settleNoise_units _ _

section
variable {s : State} (h : Memory.wf s.mem = true)
include h

theorem State.readNat_lt (a n : Nat) : s.readNat a n < 2 ^ (8 * n) := by
  have hlt := ofBytes_lt (s.readBytes a n)
  rwa [s.readBytes_length h] at hlt

theorem State.writeNat_wf (a n v : Nat) : Memory.wf (s.writeNat a n v).mem = true := s.writeBytes_wf _ _ h

/-- A number elsewhere is untouched by a write. -/
theorem State.readNat_writeNat_apart {a n b k : Nat} (v : Nat) (hd : a + n ≤ b ∨ b + k ≤ a) :
    (s.writeNat b k v).readNat a n = s.readNat a n := by
  rw [State.readNat, State.readNat, State.readBytes_eq _ (State.writeNat_wf h b k v), s.readBytes_eq h]
  refine congrArg ofBytes (List.map_congr_left fun i hi => ?_)
  have hi : i < n := List.mem_range.mp hi
  rw [State.writeNat, State.byteAt_writeBytes, bytesOf_length, if_neg (by omega)]

end

theorem State.byteAt_writeNat_outside (s : State) {a n b : Nat} (v : Nat) (hb : b < a ∨ a + n ≤ b) :
    (s.writeNat a n v).byteAt b = s.byteAt b := by
  rw [State.writeNat, State.byteAt_writeBytes, bytesOf_length, if_neg (by omega)]

/-! ## A row -/

theorem packed_lt (w : Nat) (xs : List Nat) : packed w xs < 2 ^ (w * xs.length) := by
  induction xs with
  | nil => exact Nat.one_pos
  | cons x xs ih =>
    have hx : x % 2 ^ w < 2 ^ w := Nat.mod_lt _ (Nat.two_pow_pos w)
    have hm : 2 ^ w * (packed w xs + 1) ≤ 2 ^ w * 2 ^ (w * xs.length) := Nat.mul_le_mul_left _ ih
    rw [packed_cons, List.length_cons, Nat.mul_succ, Nat.add_comm (w * _), Nat.pow_add]
    rw [Nat.mul_add] at hm
    omega

theorem packed_concat (w x : Nat) (xs : List Nat) : packed w (xs ++ [x]) = packed w xs + x % 2 ^ w * 2 ^ (w * xs.length) := by
  induction xs with
  | nil => simp [packed]
  | cons y xs ih =>
    rw [List.cons_append, packed_cons, packed_cons, ih, List.length_cons, Nat.mul_succ, Nat.add_comm (w * _), Nat.pow_add]
    ring

/-- The row of codes `g` in the first `n` columns of a row. -/
def newRow (n : Nat) (g : Nat → Nat) (old : Nat) : Nat := old / 2 ^ (32 * n) * 2 ^ (32 * n) + packed 32 ((List.range n).map g)

section
variable (n : Nat) (g : Nat → Nat) (old : Nat)

theorem packed_range_lt : packed 32 ((List.range n).map g) < 2 ^ (32 * n) := by
  have h := packed_lt 32 ((List.range n).map g)
  rwa [List.length_map, List.length_range] at h

theorem newRow_div : newRow n g old / 2 ^ (32 * n) = old / 2 ^ (32 * n) := by
  rw [newRow, Nat.add_comm, Nat.add_mul_div_right _ _ (Nat.two_pow_pos _), Nat.div_eq_of_lt (packed_range_lt n g), Nat.zero_add]

theorem newRow_lt (hn : n ≤ 128) (ho : old < 2 ^ (8 * 512)) : newRow n g old < 2 ^ (8 * 512) := by
  have hsplit : 2 ^ (8 * 512) = 2 ^ (8 * 512 - 32 * n) * 2 ^ (32 * n) := by rw [← Nat.pow_add]; congr 1; omega
  rw [hsplit] at ho ⊢
  rw [← Nat.div_lt_iff_lt_mul (Nat.two_pow_pos _)] at ho ⊢
  rwa [newRow_div]

theorem newRow_elem_in {j : Nat} (hj : j < n) : elemAt (newRow n g old) 32 j = g j % 2 ^ 32 := by
  have hlow : newRow n g old % 2 ^ (32 * n) = packed 32 ((List.range n).map g) := by
    rw [newRow, Nat.add_comm, Nat.add_mul_mod_self_right, Nat.mod_eq_of_lt (packed_range_lt n g)]
  have hget : ((List.range n).map g)[j]? = some (g j) := by
    rw [List.getElem?_map, List.getElem?_range hj]
    rfl
  rw [← elemAt_packed hget, ← hlow, elemAt, elemAt, natBits_mod (by omega)]

theorem newRow_elem_out {j : Nat} (hj : n ≤ j) : elemAt (newRow n g old) 32 j = elemAt old 32 j := by
  have hshift (v : Nat) : v / 2 ^ (32 * j) = v / 2 ^ (32 * n) / 2 ^ (32 * (j - n)) := by
    rw [Nat.div_div_eq_div_mul, ← Nat.pow_add]
    congr 2
    omega
  rw [elemAt, elemAt, natBits, natBits, hshift, hshift old, newRow_div]

end

/-! ## The rows of an accumulator -/

/-- A row as `mapAcc` builds it: its codes and the flags so far. -/
def rowStep (g : Nat → Nat × Nat) (y : Nat × Nat) (j : Nat) : Nat × Nat :=
  (y.1 + (g j).1 % 2 ^ 32 * 2 ^ (32 * j), y.2 ||| (g j).2)

theorem foldl_rowStep (g : Nat → Nat × Nat) (n keep fl : Nat) :
    ((List.range n).foldl (rowStep g) (keep, fl)).1 = keep + packed 32 ((List.range n).map (fun j => (g j).1)) := by
  induction n with
  | zero => rfl
  | succ n ih =>
    rw [List.range_succ, List.foldl_append, List.map_append, List.map_singleton, packed_concat, List.length_map, List.length_range,
      ← Nat.add_assoc, ← ih]
    rfl

/-- The codes that the function gives for a row. -/
def rowCodes (f : Nat → Nat → Nat → Nat × Nat) (i old j : Nat) : Nat := (f i j (elemAt old 32 j)).1

/-- One row of `mapAcc`. -/
def accStep (c a n : Nat) (f : Nat → Nat → Nat → Nat × Nat) (x : Nat × State) (i : Nat) : Nat × State :=
  let old := x.2.accRow c a i
  let y := (List.range n).foldl (rowStep (fun j => f i j (elemAt old 32 j))) (old / 2 ^ (32 * n) * 2 ^ (32 * n), x.1)
  (y.2, x.2.writeNat (tileAddr c (16 + a) + 512 * i) 512 y.1)

section
variable (c a n : Nat) (f : Nat → Nat → Nat → Nat × Nat)

theorem State.mapAcc_eq (s : State) (m : Nat) : s.mapAcc c a m n f = (List.range m).foldl (accStep c a n f) (0, s) := rfl

theorem accStep_state (x : Nat × State) (i : Nat) : (accStep c a n f x i).2
    = x.2.writeNat (tileAddr c (16 + a) + 512 * i) 512 (newRow n (rowCodes f i (x.2.accRow c a i)) (x.2.accRow c a i)) := by
  rw [accStep]
  dsimp only
  rw [foldl_rowStep]
  rfl

/-- What the first `m` rows of `mapAcc` have made of the state. -/
structure AccWritten (s u : State) (m : Nat) : Prop where
  wf : Memory.wf u.mem = true
  units : u.harts = s.harts ∧ u.quads = s.quads
  outside : ∀ b : Nat, b < tileAddr c (16 + a) ∨ tileAddr c (16 + a) + 65536 ≤ b → u.byteAt b = s.byteAt b
  rows : ∀ i : Nat, u.accRow c a i = if i < m then newRow n (rowCodes f i (s.accRow c a i)) (s.accRow c a i) else s.accRow c a i

theorem State.mapAcc_written {s : State} (h : Memory.wf s.mem = true) (hn : n ≤ 128) {m : Nat} (hm : m ≤ 128) :
    AccWritten c a n f s (s.mapAcc c a m n f).2 m := by
  induction m with
  | zero => exact ⟨h, ⟨rfl, rfl⟩, fun _ _ => rfl, fun i => (if_neg (Nat.not_lt_zero i)).symm⟩
  | succ m ih =>
    obtain ⟨hwf, ⟨hharts, hquads⟩, hout, hrows⟩ := ih (by omega)
    have hstep : (s.mapAcc c a (m + 1) n f).2 = (accStep c a n f (s.mapAcc c a m n f) m).2 := by
      rw [State.mapAcc_eq, List.range_succ, List.foldl_append]
      rfl
    rw [hstep, accStep_state]
    generalize (s.mapAcc c a m n f).2 = u at hwf hharts hquads hout hrows
    have hold : u.accRow c a m = s.accRow c a m := by rw [hrows, if_neg (lt_irrefl m)]
    obtain ⟨hwh, hwq⟩ := u.writeBytes_units (tileAddr c (16 + a) + 512 * m)
      (bytesOf 512 (newRow n (rowCodes f m (u.accRow c a m)) (u.accRow c a m)))
    refine ⟨State.writeNat_wf hwf _ _ _, ⟨hwh.trans hharts, hwq.trans hquads⟩, fun b hb => ?_, fun i => ?_⟩
    · rw [State.byteAt_writeNat_outside _ _ (by omega), hout b hb]
    · by_cases hi : i = m
      · subst hi
        rw [State.accRow, State.readNat_writeNat _ hwf, if_pos (Nat.lt_succ_self i), hold]
        exact Nat.mod_eq_of_lt (newRow_lt n _ _ hn (State.readNat_lt h _ _))
      · rw [State.accRow, State.readNat_writeNat_apart hwf _ (by omega), ← State.accRow, hrows]
        exact if_congr (by omega) rfl rfl

end

/-- The elements of an accumulator after a write to its first `m` rows and `n` columns. -/
theorem AccWritten.elem {c a n : Nat} {f : Nat → Nat → Nat → Nat × Nat} {s u : State} {m : Nat} (h : AccWritten c a n f s u m) (i j : Nat) :
    elemAt (u.accRow c a i) 32 j
      = if i < m ∧ j < n then (f i j (elemAt (s.accRow c a i) 32 j)).1 % 2 ^ 32 else elemAt (s.accRow c a i) 32 j := by
  rw [h.rows]
  by_cases hi : i < m
  · rw [if_pos hi]
    by_cases hj : j < n
    · rw [if_pos ⟨hi, hj⟩, newRow_elem_in n _ _ hj]
      rfl
    · rw [if_neg (fun hc => hj hc.2), newRow_elem_out n _ _ (not_lt.mp hj)]
  · rw [if_neg hi, if_neg (fun hc => hi hc.1)]

/-! ## Zeros -/

theorem getD_replicate_zero (n i : Nat) : (List.replicate n (0 : Byte)).getD i 0 = 0 := by
  rw [List.getD_eq_getElem?_getD, List.getElem?_replicate]
  split
  · rfl
  · rfl

/-- A zero of memory stays one while registers are overwritten with zeros. -/
theorem State.zeroReg_keeps_zero {s : State} {b : Nat} (h : s.byteAt b = 0) (c t : Nat) : (s.zeroReg c t).byteAt b = 0 := by
  rw [State.zeroReg, State.byteAt_writeBytes]
  split
  · exact getD_replicate_zero _ _
  · exact h

theorem State.zeroReg_zero (s : State) (c t : Nat) {k : Nat} (hk : k < tileBytes t) : (s.zeroReg c t).byteAt (tileAddr c t + k) = 0 := by
  rw [State.zeroReg, State.byteAt_writeBytes, List.length_replicate, if_pos ⟨Nat.le_add_right _ _, Nat.add_lt_add_left hk _⟩]
  exact getD_replicate_zero _ _

theorem foldl_zeroReg_keeps_zero (c b : Nat) (ts : List Nat) (s : State) (h : s.byteAt b = 0) :
    (ts.foldl (fun s t => s.zeroReg c t) s).byteAt b = 0 := by
  induction ts generalizing s with
  | nil => exact h
  | cons t ts ih => exact ih _ (State.zeroReg_keeps_zero h c t)

theorem foldl_zeroReg_zero (c : Nat) {ts : List Nat} {t k : Nat} (s : State) (ht : t ∈ ts) (hk : k < tileBytes t) :
    (ts.foldl (fun s t => s.zeroReg c t) s).byteAt (tileAddr c t + k) = 0 := by
  induction ts generalizing s with
  | nil => exact absurd ht List.not_mem_nil
  | cons x ts ih =>
    rcases List.mem_cons.mp ht with rfl | ht
    · exact foldl_zeroReg_keeps_zero c _ ts _ (s.zeroReg_zero c t hk)
    · exact ih _ ht

/-! ## The requests -/

section
variable {s : State} {r : MReq}

theorem applyReq_zeros (h : (∃ d cnt, r.op = .mzero d cnt) ∨ ∃ d cnt, r.op = .mtzero d cnt) :
    (s.applyReq r).2.2 = r.writes.foldl (fun s t => s.zeroReg r.ctx t) s := by
  rcases h with ⟨d, cnt, h⟩ | ⟨d, cnt, h⟩
  · rw [State.applyReq, h]
  · rw [State.applyReq, h]

/-- The element function of an MMA of one block. -/
def mmaCode (s : State) (r : MReq) (z : Bool) (a b k8 : Reg) (i j old : Nat) : Nat × Nat :=
  mmaElement r.sampled (chunkOf r.fmt) (i * 2 ^ 24 + j * 2 ^ 12) (s.opRow r.ctx r.fmt false a.toNat (elemsOf r.fmt k8) i i)
    (s.opRow r.ctx r.fmt true b.toNat (elemsOf r.fmt k8) j j) (if z then 0 else old) (ceilDiv (elemsOf r.fmt k8) (chunkOf r.fmt))

theorem ceilDiv_one {k : Nat} (h0 : 0 < k) (h : k ≤ 128) : ceilDiv k 128 = 1 := by
  rw [ceilDiv]
  omega

/-- A part of one block is one write to an accumulator. -/
theorem State.mapPart_block (s : State) (c d : Nat) {m n : Nat} (hm : m < 128) (hn : n < 128) (f : Nat → Nat → Nat → Nat × Nat) :
    (s.mapPart c d (wholePart (m + 1) (n + 1)) f).2 = (s.mapAcc c d (m + 1) (n + 1) f).2 := by
  have hbm : ceilDiv (wholePart (m + 1) (n + 1)).m 128 = 1 := ceilDiv_one (Nat.succ_pos m) hm
  have hbn : ceilDiv (wholePart (m + 1) (n + 1)).n 128 = 1 := ceilDiv_one (Nat.succ_pos n) hn
  have hmm : min 128 ((wholePart (m + 1) (n + 1)).m - 128 * 0) = m + 1 := min_eq_right hm
  have hnn : min 128 ((wholePart (m + 1) (n + 1)).n - 128 * 0) = n + 1 := min_eq_right hn
  rw [State.mapPart, hbm, hbn]
  simp only [List.range_one, List.foldl_cons, List.foldl_nil, hmm, hnn, Nat.mul_zero, Nat.zero_add, Nat.zero_mul, Nat.add_zero]

theorem getD_map_range {α : Type} (g : Nat → α) (e : α) {n i : Nat} (h : i < n) : ((List.range n).map g).getD i e = g i := by
  rw [List.getD_eq_getElem?_getD, List.getElem?_map, List.getElem?_range h]
  rfl

/-- Element (i, j) after an MMA of one block. -/
theorem applyReq_mma (hs : Memory.wf s.mem = true) {z : Bool} {d a b k8 : Reg} {m : BitVec 9} {n : BitVec 10}
    (hr : r.op = .mma z d a b k8 m n) (hm : m.toNat < 128) (hn : n.toNat < 128) {i j : Nat} (hi : i ≤ m.toNat) (hj : j ≤ n.toNat) :
    elemAt ((s.applyReq r).2.2.accRow r.ctx d.toNat i) 32 j
      = (mmaCode s r z a b k8 i j (elemAt (s.accRow r.ctx d.toNat i) 32 j)).1 % 2 ^ 32 := by
  have hpart : r.part = wholePart (m.toNat + 1) (n.toNat + 1) := by rw [MReq.part, hr]
  have hreq : (s.applyReq r).2.2 = (s.runMma r.ctx r z d a b k8 r.part).2 := by rw [State.applyReq, hr]
  rw [hreq, hpart, State.runMma, State.mapPart_block s _ _ hm hn,
    (State.mapAcc_written _ _ _ _ hs (by omega) (by omega)).elem, if_pos ⟨Nat.lt_succ_of_le hi, Nat.lt_succ_of_le hj⟩]
  have hpm : i < (wholePart (m.toNat + 1) (n.toNat + 1)).m := Nat.lt_succ_of_le hi
  have hpn : j < (wholePart (m.toNat + 1) (n.toNat + 1)).n := Nat.lt_succ_of_le hj
  rw [getD_map_range _ _ hpm, getD_map_range _ _ hpn, mmaCode]
  simp only [wholePart, Nat.zero_add]

theorem applyReq_mext {d a : Reg} {row : BitVec 7} {seg : BitVec 3} (hr : r.op = .mext d a row seg) :
    (s.applyReq r).2.1 = natBits (s.accRow r.ctx a.toNat row.toNat) (512 * seg.toNat) 512 ∧ (s.applyReq r).2.2 = s := by
  rw [State.applyReq, hr]
  exact ⟨rfl, rfl⟩

end

/-! ## relu -/

/-- The value of an FP32 code by its exponent and its fraction. -/
theorem unpack_f32 {x : Nat} (hx : x < 2 ^ 32) : Fmt.f32.unpack x =
    if natBits x 23 8 = 255 then
      (if natBits x 0 23 = 0 then .inf (x / 2 ^ 31 == 1) else .nan (natBits x 0 23 / 2 ^ 22 == 0))
    else if natBits x 23 8 = 0 then .fin (x / 2 ^ 31 == 1) (natBits x 0 23) (1 - 127 - 23)
    else .fin (x / 2 ^ 31 == 1) (natBits x 0 23 + 2 ^ 23) (natBits x 23 8 - 127 - 23) := by
  have hc : x % 2 ^ 32 = x := Nat.mod_eq_of_lt hx
  simp only [Fmt.unpack, Fmt.integer, Fmt.bits, Fmt.man, Fmt.exp, Fmt.bias, hc, Bool.false_eq_true, if_false, reduceCtorEq, ne_eq,
    not_false_eq_true, decide_true, decide_false, Bool.false_and, Bool.true_and, decide_eq_true_eq]
  rfl

theorem reluElem_nan {x : Nat} {s : Bool} (h : Fmt.f32.unpack x = .nan s) : (reluElem x).1 = Fmt.f32.canonNaN := by
  rw [reluElem, h]

theorem reluElem_inf {x : Nat} {n : Bool} (h : Fmt.f32.unpack x = .inf n) : (reluElem x).1 = if n then 0 else x := by
  rw [reluElem, h]

theorem reluElem_fin {x m : Nat} {n : Bool} {e : Int} (h : Fmt.f32.unpack x = .fin n m e) :
    (reluElem x).1 = if n || decide (m = 0) then 0 else x := by
  rw [reluElem, h]

theorem isNaN_inf (n : Bool) : (Num.inf n).isNaN = false := rfl
theorem isNaN_fin (n : Bool) (m : Nat) (e : Int) : (Num.fin n m e).isNaN = false := rfl

/-- The sign bit of a code. -/
theorem signBit_eq {x : Nat} (hx : x < 2 ^ 32) : (x / 2 ^ 31 == 1) = decide (¬x < 2 ^ 31) := by
  rw [Bool.eq_iff_iff, beq_iff_eq, decide_eq_true_eq]
  omega

theorem reluElem_eq {x : Nat} (hx : x < 2 ^ 32) :
    (reluElem x).1 = if (Fmt.f32.unpack x).isNaN then Fmt.f32.canonNaN else if x < 2 ^ 31 then x else 0 := by
  have hu := unpack_f32 hx
  rw [signBit_eq hx] at hu
  by_cases h255 : natBits x 23 8 = 255
  · rw [if_pos h255] at hu
    by_cases hm : natBits x 0 23 = 0
    · rw [if_pos hm] at hu
      rw [reluElem_inf hu, hu, isNaN_inf, if_neg Bool.false_ne_true]
      simp only [decide_eq_true_eq, ite_not]
    · rw [if_neg hm] at hu
      rw [reluElem_nan hu, hu, Num.isNaN, if_pos rfl]
  · rw [if_neg h255] at hu
    by_cases h0 : natBits x 23 8 = 0
    · rw [if_pos h0] at hu
      rw [reluElem_fin hu, hu, isNaN_fin, if_neg Bool.false_ne_true]
      by_cases hs : x < 2 ^ 31
      · rw [if_pos hs, decide_eq_false (not_not_intro hs), Bool.false_or]
        have hzero : natBits x 0 23 = 0 → x = 0 := by
          simp only [natBits] at h0 ⊢
          omega
        by_cases hm : natBits x 0 23 = 0
        · rw [decide_eq_true hm, if_pos rfl, hzero hm]
        · rw [decide_eq_false hm, if_neg Bool.false_ne_true]
      · rw [if_neg hs, decide_eq_true hs, Bool.true_or, if_pos rfl]
    · rw [if_neg h0] at hu
      rw [reluElem_fin hu, hu, isNaN_fin, if_neg Bool.false_ne_true, 
        decide_eq_false (by omega : ¬natBits x 0 23 + 2 ^ 23 = 0), Bool.or_false]
      simp only [decide_eq_true_eq, ite_not]

/-- Settles O34: a write to an accumulator row by row, and the requests by it. -/
theorem matrixResults : Obligations.MatrixResults := by
  refine ⟨fun s c a m n f hs _ hm hn u hu => ?write, fun s r _ h t ht k hk => ?zeros, fun s r z d a b k8 m n hs hr _ hm hn i j hi hj K hK => ?mma,
    fun s r d a row seg => applyReq_mext, fun x hx => reluElem_eq hx⟩
  case write =>
    subst hu
    have hw := State.mapAcc_written c a n f hs hn hm
    obtain ⟨hh, hq⟩ := hw.units
    exact ⟨fun i j _ _ => hw.elem i j, hw.outside, hh, hq⟩
  case zeros =>
    rw [applyReq_zeros h]
    exact foldl_zeroReg_zero r.ctx s ht hk
  case mma =>
    subst hK
    exact applyReq_mma hs hr hm hn hi hj

end Sys2Proof.Machine

end

section
/-! PROOF of the issue of a transfer: the order of the checks (R406), and what the instruction does when they are past (R403). -/

namespace Sys2Proof.Machine

open Sys2Proof.Safety

/-! ## The checks in their order (R406) -/

section
variable {p : XSpec} {t : Transfer} {h : Handle}

theorem XSpec.dimsTrap_dst (hd : t.dst.handleOf = some h) (hn : h.dims ≠ t.region.d) :
    p.dimsTrap t = some (30, handleMismatch p.g.toNat p.dst.number) := by
  simp only [XSpec.dimsTrap, hd, if_pos hn, Option.orElse_some]

variable (hd : ∀ k, t.dst.handleOf = some k → k.dims = t.region.d)
include hd

theorem XSpec.dimsTrap_src (hs : t.src.handleOf = some h) (hn : h.dims ≠ t.region.d) :
    p.dimsTrap t = some (30, handleMismatch p.g.toNat p.src.number) := by
  cases e : t.dst.handleOf with
  | none => simp only [XSpec.dimsTrap, e, hs, if_pos hn, Option.orElse_none]
  | some k => simp only [XSpec.dimsTrap, e, hs, if_pos hn, if_neg (not_not_intro (hd k e)), Option.orElse_none]

theorem XSpec.dimsTrap_none (hs : ∀ k, t.src.handleOf = some k → k.dims = t.region.d) : p.dimsTrap t = none := by
  cases e : t.dst.handleOf with
  | none =>
    cases e' : t.src.handleOf with
    | none => simp only [XSpec.dimsTrap, e, e', Option.orElse_none]
    | some j => simp only [XSpec.dimsTrap, e, e', if_neg (not_not_intro (hs j e')), Option.orElse_none]
  | some k =>
    cases e' : t.src.handleOf with
    | none => simp only [XSpec.dimsTrap, e, e', if_neg (not_not_intro (hd k e)), Option.orElse_none]
    | some j =>
      simp only [XSpec.dimsTrap, e, e', if_neg (not_not_intro (hd k e)), if_neg (not_not_intro (hs j e')), Option.orElse_none]

end

section
variable {p : XSpec} {t : Transfer}

theorem XSpec.bindTrap_copyb (hk : p.kind = .copyb) (hb : t.bar.bound = false) :
    p.bindTrap t = some (48, BitVec.ofNat 64 p.d.toNat) := by
  simp only [XSpec.bindTrap, hk, hb, Bool.false_eq_true, if_false]

theorem XSpec.bindTrap_ldsub (hk : p.kind = .ldsub) (hr : t.ring.bound = false ∨ t.ring.role = 1) :
    p.bindTrap t = some (49, zx (fld t.desc 0 3)) := by
  rcases hr with hr | hr <;> simp [XSpec.bindTrap, hk, hr]

theorem XSpec.bindTrap_lddrn (hk : p.kind = .lddrn) (hr : t.ring.bound = false ∨ t.ring.role = 0) :
    p.bindTrap t = some (49, zx (fld t.desc 0 3)) := by
  rcases hr with hr | hr <;> simp [XSpec.bindTrap, hk, hr]

theorem XSpec.bindTrap_none (hb : p.kind = .copyb → t.bar.bound = true)
    (hs : p.kind = .ldsub → t.ring.bound = true ∧ (t.ring.role = 0 ∨ t.ring.role = 2))
    (hd : p.kind = .lddrn → t.ring.bound = true ∧ (t.ring.role = 1 ∨ t.ring.role = 2)) : p.bindTrap t = none := by
  unfold XSpec.bindTrap
  split
  next hk => exact if_pos (hb hk)
  next hk =>
    obtain ⟨h1, h2⟩ := hs hk
    simp [hk, h1, h2]
  next hk =>
    obtain ⟨h1, h2⟩ := hd hk
    simp [hk, h1, h2]
  next => rfl

end

section
variable {p : XSpec} {t : Transfer} {s : State} {x : Nat × Word}

theorem XSpec.trap_of_dims (h : p.dimsTrap t = some x) : p.trap t s = some x := by
  rw [XSpec.trap, h]
  rfl

theorem XSpec.trap_of_bind (hd : p.dimsTrap t = none) (h : p.bindTrap t = some x) : p.trap t s = some x := by
  rw [XSpec.trap, hd, h]
  rfl

/-- Past the dims and the bindings: the region and the bytes. -/
theorem XSpec.trap_placed (hd : p.dimsTrap t = none) (hb : p.bindTrap t = none) : p.trap t s =
    if p.kind = .flushr then none
    else if t.region.inexact then some (24, BitVec.ofNat 64 p.g.toNat)
    else if s.outside t then some (25, BitVec.ofNat 64 p.g.toNat)
    else none := by
  rw [XSpec.trap, hd, hb]
  rfl

theorem XSpec.bindTrap_flushr (hk : p.kind = .flushr) : p.bindTrap t = none := by
  simp only [XSpec.bindTrap, hk]

theorem XSpec.status_badHandle (h : p.badHandle t s = true) : p.status t s = some xsBadHandle := if_pos h

theorem XSpec.badHandle_of (h : t.src.wf = false ∨ t.dst.wf = false ∨ convOk t.srcFmt t.dstFmt = false ∨ t.spacesOk = false) :
    p.badHandle t s = true := by
  unfold XSpec.badHandle
  rcases h with h | h | h | h <;> simp [h]

end

/-- Settles O23: each check is reached when those before it are past. -/
theorem transferChecks : Obligations.TransferChecks := by
  unfold Obligations.TransferChecks
  intro p s t _
  refine ⟨fun h hd hn => XSpec.trap_of_dims (XSpec.dimsTrap_dst hd hn),
    fun h hd hs hn => XSpec.trap_of_dims (XSpec.dimsTrap_src hd hs hn), fun hd hs => ?bound,
    fun h => XSpec.status_badHandle (XSpec.badHandle_of h)⟩
  case bound =>
    have hdims : p.dimsTrap t = none := XSpec.dimsTrap_none hd hs
    refine ⟨fun hk hb => XSpec.trap_of_bind hdims (XSpec.bindTrap_copyb hk hb),
      fun hk hr => XSpec.trap_of_bind hdims (XSpec.bindTrap_ldsub hk hr),
      fun hk hr => XSpec.trap_of_bind hdims (XSpec.bindTrap_lddrn hk hr),
      fun hk => (XSpec.trap_placed hdims (XSpec.bindTrap_flushr hk)).trans (if_pos hk), fun hb hls hld hk => ?_⟩
    rw [XSpec.trap_placed hdims (XSpec.bindTrap_none hb hls hld), if_neg hk]
    refine ⟨fun hi => if_pos hi, fun hi ho => ?_, fun hi ho => ?_⟩
    · rw [hi, if_neg Bool.false_ne_true, if_pos ho]
    · rw [hi, if_neg Bool.false_ne_true, ho, if_neg Bool.false_ne_true]

/-! ## The issue in every form (R403) -/

theorem TransferForm.exec_eq {i : Instr} {p : XSpec} (h : TransferForm i p) (s : State) : exec i s = p.exec s := by
  cases h <;> rfl

/-- What the instruction leaves before it starts or ends its transfer: the seed, the trace and the send queue's entry. -/
def XSpec.prepared (p : XSpec) (s : State) : State :=
  let t := p.build s
  let w := if t.srcFmt ≠ t.dstFmt ∧ p.status t s ≠ some xsBadHandle then s.advanceSeed else s
  if t.onNet then (w.record 5 6 (BitVec.ofNat 64 p.d.toNat)).touchQueue t.desc else w.record 5 6 (BitVec.ofNat 64 p.d.toNat)

section
variable {p : XSpec} {s : State}

theorem XSpec.body_noToken (hk : p.kind ≠ .copyb) (hd : p.d = 0) : p.body s = .trap 2 s.me.ir s := by
  rw [XSpec.body, if_pos (by simp [hk, hd])]
  rfl

variable (hd : p.kind = .copyb ∨ p.d ≠ 0)
include hd

theorem XSpec.named : ¬ (p.kind != .copyb && p.d = 0) = true := by
  rcases hd with h | h
  · simp [h]
  · simpa using fun _ => h

theorem XSpec.body_trap {c : Nat} {v : Word} (ht : p.trap (p.build s) s = some (c, v)) : p.body s = .trap c v s := by
  simp only [XSpec.body, if_neg (XSpec.named hd), ht]

theorem XSpec.body_full (ht : p.trap (p.build s) s = none) (hs : p.status (p.build s) s = none)
    (hn : 32 ≤ (s.inFlight s.cur).length) : p.body s = .stall s := by
  simp only [XSpec.body, if_neg (XSpec.named hd), ht, hs, Option.isNone_none, hn, decide_true, Bool.and_self, if_true]

variable (ht : p.trap (p.build s) s = none) (hq : s.localQuiet = .ok () s)
include ht hq

theorem XSpec.body_ends {st : Nat} (hs : p.status (p.build s) s = some st) :
    p.body s = .ok () ((p.prepared s).endAtIssue (p.build s) st) := by
  simp only [XSpec.body, if_neg (XSpec.named hd), ht, hs, Option.isNone_some, Bool.false_and, Bool.false_eq_true, if_false, hq]
  simp [Act.andThen, XSpec.prepared, hs]

theorem XSpec.body_starts (hs : p.status (p.build s) s = none) (hn : (s.inFlight s.cur).length < 32) :
    p.body s = .ok () ((p.prepared s).startTransfer (p.build s)) := by
  simp only [XSpec.body, if_neg (XSpec.named hd), ht, hs, decide_eq_false (Nat.not_le.mpr hn), Bool.and_false,
    Bool.false_eq_true, if_false, hq]
  simp [Act.andThen, XSpec.prepared, hs]

end

/-- A transfer instruction whose registers are free and resident runs its body. -/
theorem XSpec.exec_ready {p : XSpec} {s : State} (hf : s.Free (if p.kind = .copyb then [] else [p.d]) [])
    (hr : s.Resident (p.issue s).codes) (hl : s.me.laneHolds [] (p.issue s).ts = false) :
    p.exec s = ins (if p.kind = .copyb then [] else [p.d]) [] p.body s := by
  rw [XSpec.exec, Issue.run, if_neg (by exact ne_true_of_eq_false hl)]
  exact insL_free hf hr _

/-- Settles O22, on the body of the instruction, which no form changes. -/
theorem transferIssue : Obligations.TransferIssue := by
  unfold Obligations.TransferIssue
  intro i p s hform hf hr hl
  rw [hform.exec_eq, XSpec.exec_ready hf hr hl]
  refine ⟨fun hk hd => ins_trap hf (XSpec.body_noToken hk hd), fun hd => ⟨fun c v ht => ins_trap hf (XSpec.body_trap hd ht),
    fun ht hs hn => ins_stall hf (XSpec.body_full hd ht hs hn), fun ht hq w u hw hu => ?_⟩⟩
  have hp : u = p.prepared s := by rw [hu, hw]; rfl
  rw [hp]
  exact ⟨fun st hs => ins_ok hf (XSpec.body_ends hd ht hq hs), fun hs hn => ins_ok hf (XSpec.body_starts hd ht hq hs hn)⟩

end Sys2Proof.Machine

end

section
/-! PROOF of what an issued transfer holds and where it stands (R403, R407), and of WAITG, TKTEST, PREF and LDCAN. -/

namespace Sys2Proof.Machine

open Sys2Proof.Safety

/-! ## What a transfer samples (R407) -/

theorem XSpec.build_src {p : XSpec} {n : Nat} (h : p.src = .h n) (s : State) : (p.build s).src = .handle (s.hgetN n) := by
  simp only [XSpec.build, h, State.xend]

theorem XSpec.build_dst {p : XSpec} {n : Nat} (h : p.dst = .h n) (s : State) : (p.build s).dst = .handle (s.hgetN n) := by
  simp only [XSpec.build, h, State.xend]

/-! ## Tokens -/

/-- A token that is not an empty one is read back. -/
theorem Hart.token_setToken {t : Token} (ht : t ≠ {}) (h : Hart) (n : Nat) : (h.setToken n t).token n = t := by
  simp only [Hart.token, Hart.setToken, Store.set, if_neg ht, Store.get_put_self]

theorem State.token_openToken (s : State) (n id : Nat) :
    (s.openToken n id).me.token n = { pending := true, transfer := id } := by
  rw [State.openToken, State.me_modMe]
  exact Hart.token_setToken (fun h => Bool.false_ne_true (congrArg Token.pending h).symm) _ n

theorem State.freeCopyNo_lt (s : State) : s.freeCopyNo < 32 := by
  unfold State.freeCopyNo
  dsimp only
  cases h : (List.range 32).find? (fun n => !((s.inFlight s.cur).map (·.copyNo)).contains n) with
  | none => exact Nat.zero_lt_succ _
  | some n => exact List.mem_range.mp (List.mem_of_find?_eq_some h)

@[simp] theorem State.me_addTransfer (s : State) (t : Transfer) : (s.addTransfer t).me = s.me := rfl

@[simp] theorem State.mem_addTransfer (s : State) (t : Transfer) : (s.addTransfer t).mem = s.mem := rfl

theorem State.transfers_addTransfer (s : State) (t : Transfer) :
    ((s.addTransfer t).quad t.quad).transfers = (s.quad t.quad).transfers ++ [t] := by
  rw [State.addTransfer, State.quad_modQuad]

/-! ## A transfer that starts, and one that ends at issue (R403) -/

/-- One that names a token and needs neither a port nor a stream controller joins its quad's transfers. -/
theorem State.startTransfer_plain {s : State} {t : Transfer} (hk : t.kind ≠ .copyb) (hi : t.kind.indexed = false)
    (hs : t.kind.stream = false) : s.startTransfer t = (State.openToken { s with nextId := s.nextId + 1 } t.reg s.nextId).addTransfer
      { t with id := s.nextId, copyNo := State.freeCopyNo { s with nextId := s.nextId + 1 } } := by
  simp only [State.startTransfer, State.newId, if_neg hk, hi, hs, Bool.false_eq_true, if_false]

theorem State.endAtIssue_token {s : State} {t : Transfer} (hk : t.kind ≠ .copyb) (st : Nat) : s.endAtIssue t st =
    ((State.openToken { s with nextId := s.nextId + 1 } t.reg s.nextId).ownToken (.hart s.cur) t.reg st t.clk).addTransfer
      { t with id := s.nextId, status := st, phase := .done } := by
  simp only [State.endAtIssue, State.newId, if_neg hk]

/-- The hart of a token register to which a transfer's status comes. -/
def Hart.tokenEnds (h : Hart) (r st clk : Nat) : Hart :=
  let y := h.setToken r { h.token r with pending := false, unjoined := true, fpend := st != 0, status := st, time := clk }
  { y with x := Store.set 0 y.x r (BitVec.ofNat 64 st) }

theorem State.me_ownToken (s : State) (r st clk : Nat) : (s.ownToken (.hart s.cur) r st clk).me = s.me.tokenEnds r st clk :=
  State.hart_modHart s s.cur _

theorem Hart.token_tokenEnds (h : Hart) (r st clk : Nat) : (h.tokenEnds r st clk).token r =
    { h.token r with pending := false, unjoined := true, fpend := st != 0, status := st, time := clk } :=
  Hart.token_setToken (t := { h.token r with pending := false, unjoined := true, fpend := st != 0, status := st, time := clk })
    (fun e => Bool.false_ne_true (congrArg Token.unjoined e).symm) h r

theorem Hart.rx_tokenEnds {h : Hart} (hx : Store.Rising h.x) {r : Nat} (h0 : 0 < r) (h32 : r < 32) (st clk : Nat) :
    (h.tokenEnds r st clk).rx (BitVec.ofNat 5 r) = BitVec.ofNat 64 st := by
  have hn : (BitVec.ofNat 5 r).toNat = r := by
    rw [BitVec.toNat_ofNat]
    exact Nat.mod_eq_of_lt h32
  have hne : BitVec.ofNat 5 r ≠ 0 := fun e => by
    have := congrArg BitVec.toNat e
    rw [hn] at this
    simp at this
    omega
  rw [Hart.rx, if_neg hne, hn]
  exact Store.get_set_self 0 hx r _

section
variable {s : State} {t : Transfer} (hk : t.kind ≠ .copyb)
include hk

theorem State.startTransfer_stands (hi : t.kind.indexed = false) (hs : t.kind.stream = false) :
    ∃ c : Nat, ((s.startTransfer t).quad t.quad).transfers = (s.quad t.quad).transfers ++ [{ t with id := s.nextId, copyNo := c }] ∧
      c < 32 ∧ (s.startTransfer t).me.token t.reg = { pending := true, transfer := s.nextId } ∧
      (s.startTransfer t).me.x = s.me.x ∧ (s.startTransfer t).mem = s.mem ∧ (s.startTransfer t).me.pts = s.me.pts := by
  rw [State.startTransfer_plain hk hi hs, State.me_addTransfer]
  refine ⟨_, State.transfers_addTransfer _ _, State.freeCopyNo_lt _, State.token_openToken _ _ _, ?_, rfl, ?_⟩
  · rw [State.openToken, State.me_modMe]
    rfl
  · rw [State.openToken, State.me_modMe]
    rfl

theorem State.endAtIssue_stands (st : Nat) (h0 : 0 < t.reg) (h32 : t.reg < 32) (hx : Store.Rising s.me.x) :
    (s.endAtIssue t st).me.token t.reg
        = { pending := false, unjoined := true, fpend := st != 0, status := st, time := t.clk, transfer := s.nextId } ∧
      (s.endAtIssue t st).me.rx (BitVec.ofNat 5 t.reg) = BitVec.ofNat 64 st ∧ (s.endAtIssue t st).mem = s.mem := by
  rw [State.endAtIssue_token hk, State.me_addTransfer, State.mem_addTransfer]
  have hme := State.me_ownToken (State.openToken { s with nextId := s.nextId + 1 } t.reg s.nextId) t.reg st t.clk
  refine ⟨?_, ?_, rfl⟩
  · exact (congrArg (Hart.token · t.reg) hme).trans ((Hart.token_tokenEnds _ _ _ _).trans (by rw [State.token_openToken]))
  · refine (congrArg (Hart.rx · (BitVec.ofNat 5 t.reg)) hme).trans (Hart.rx_tokenEnds ?_ h0 h32 st t.clk)
    rw [State.openToken, State.me_modMe]
    exact hx

end

/-! ## WAITG (R415) -/

section
variable {d a b : Reg} {s : State} (hf : s.Free [d] []) (hr : s.Resident [codeG a, codeH b])
include hf hr

theorem execWaitg_mismatch (hd : (Handle.ofLine (s.hget b)).dims ≠ (s.gget a).d) :
    exec (.waitg d a b) s = .next (s.trap 30 (handleMismatch a.toNat b.toNat)) := by
  rw [exec_waitg, execWaitg]
  exact insL_trap hf hr (if_pos hd)

variable (hd : (Handle.ofLine (s.hget b)).dims = (s.gget a).d)
include hd

theorem execWaitg_waits (hc : (s.covered (s.gget a) (Handle.ofLine (s.hget b))).any (fun t => t.phase != .done) = true) :
    exec (.waitg d a b) s = .next s := by
  rw [exec_waitg, execWaitg, insL_free hf hr]
  exact ins_stall hf ((if_neg (not_not_intro hd)).trans (if_pos hc))

theorem execWaitg_none (hc : s.covered (s.gget a) (Handle.ofLine (s.hget b)) = []) :
    exec (.waitg d a b) s = .next (s.modMe (fun h => (h.wx d 0).retire)) := by
  rw [exec_waitg, execWaitg]
  refine insL_writes hf hr ?_
  refine (if_neg (not_not_intro hd)).trans ?_
  rw [show s.covered (s.gget a) (Handle.ofLine (s.hgetN b.toNat)) = [] from hc]
  simp only [List.any_nil, Bool.false_eq_true, if_false, List.filter_false, List.find?_nil, List.foldl_nil, Hart.joined,
    Option.map_none, Option.getD_none, State.wx_eq, State.modMe_modMe]
  rfl

end

/-! ## TKTEST (R416) -/

section
variable {d a : Reg} {s : State} (hf : s.Free [] [])
include hf

theorem execTktest_busy (hb : s.me.xBusy a.toNat = true) : exec (.tktest d a) s = .next (s.modMe (fun h => (h.wx d 0).retire)) := by
  rw [exec_tktest, execTktest]
  exact ins_writes hf (if_pos hb)

variable (hb : s.me.xBusy a.toNat = false)
include hb

theorem execTktest_joins (hu : (s.me.token a.toNat).unjoined = true) : exec (.tktest d a) s = .next (s.modMe (fun h =>
    (((h.raise (h.token a.toNat).time).joined s.me s.cycle [a.toNat]).wx d
      (BitVec.ofNat 64 (0x100 + (s.me.token a.toNat).status % 256))).retire)) := by
  rw [exec_tktest, execTktest]
  refine (ins_ok hf ((if_neg (ne_true_of_eq_false hb)).trans (if_pos hu))).trans ?_
  rw [State.wx_eq, State.modMe_modMe, State.modMe_modMe]
  exact congrArg _ (State.modMe_congr s rfl)

theorem execTktest_plain (hu : (s.me.token a.toNat).unjoined = false) :
    exec (.tktest d a) s = .next (s.modMe (fun h => (h.wx d (0x100 ||| (s.rx a &&& 0xff))).retire)) := by
  rw [exec_tktest, execTktest]
  exact ins_writes hf ((if_neg (ne_true_of_eq_false hb)).trans (if_neg (ne_true_of_eq_false hu)))

end

theorem Hart.xBusy_of_pending {h : Hart} {n : Nat} (hp : (h.token n).pending = true) : h.xBusy n = true := by
  simp only [Hart.xBusy, hp, Bool.true_or]

/-! ## PREF and LDCAN (R413, R421) -/

theorem execPref_skips {a b : Reg} {s : State} (hf : s.Free [] []) (ho : overHandle (s.gget a) (Handle.ofLine (s.hget b)) = false) :
    exec (.pref a b) s = .next (s.modMe Hart.retire) := by
  rw [exec_pref, execPref]
  exact ins_ok hf (if_neg (ne_true_of_eq_false ho))

/-- A subscription that LDCAN ends: at once when none of its uses is under way. -/
theorem Transfer.cancelled_eq (t : Transfer) :
    (if t.use.isNone && t.phase != .finished then { t with phase := .finished, cancel := true } else { t with cancel := true }) =
      { t with cancel := true, phase := if t.use = none then .finished else t.phase } := by
  by_cases hu : t.use = none
  · by_cases hp : t.phase = .finished
    · simp [hu, hp]
    · simp [hu, hp]
  · simp [hu]

section
variable {d a : Reg} {s : State} (hf : s.Free (if d = a then [] else [d]) [])
include hf

theorem execLdcan_none (hn : s.transfer (s.me.token a.toNat).transfer = none) :
    exec (.ldcan d a) s = .next (s.modMe (fun h => (h.wx d 2).retire)) := by
  rw [exec_ldcan, execLdcan]
  exact ins_writes hf (by rw [hn])

variable {t : Transfer} (ht : s.transfer (s.me.token a.toNat).transfer = some t)
include ht

theorem execLdcan_other (ho : t.kind.stream = false ∨ s.issuedHere t = false) :
    exec (.ldcan d a) s = .next (s.modMe (fun h => (h.wx d 2).retire)) := by
  rw [exec_ldcan, execLdcan]
  refine ins_writes hf ?_
  rw [ht]
  refine if_pos ?_
  rcases ho with h | h <;> simp [h]

variable (hs : t.kind.stream = true) (hi : s.issuedHere t = true)
include hs hi

theorem execLdcan_done (hp : t.phase = .done) : exec (.ldcan d a) s = .next (s.modMe (fun h => (h.wx d 1).retire)) := by
  rw [exec_ldcan, execLdcan]
  refine ins_writes hf ?_
  rw [ht]
  exact (if_neg (by simp [hs, hi])).trans (if_pos hp)

theorem execLdcan_cancels (hp : t.phase ≠ .done) : exec (.ldcan d a) s = .next (((s.modTransfer t.id (fun t =>
    { t with cancel := true, phase := if t.use = none then .finished else t.phase })).wx d 0).modMe Hart.retire) := by
  rw [exec_ldcan, execLdcan]
  refine ins_ok hf ?_
  rw [ht]
  refine ((if_neg (by simp [hs, hi])).trans (if_neg hp)).trans ?_
  simp only [Transfer.cancelled_eq]

end

/-- Settles O24. -/
theorem transferTokens : Obligations.TransferTokens := by
  unfold Obligations.TransferTokens
  refine ⟨⟨fun p s => ⟨rfl, rfl, rfl, rfl, rfl, rfl, rfl, rfl, fun n h => XSpec.build_src h s, fun n h => XSpec.build_dst h s⟩,
      fun s t hk hi hs _ => State.startTransfer_stands hk hi hs,
      fun s t st hk h0 h32 hx _ => State.endAtIssue_stands hk st h0 h32 hx⟩,
    fun d a b s hf hr => ⟨execWaitg_mismatch hf hr, fun hd => ⟨execWaitg_waits hf hr hd, execWaitg_none hf hr hd⟩⟩,
    fun d a s hf => ⟨execTktest_busy hf, Hart.xBusy_of_pending, fun hb => ⟨execTktest_joins hf hb, execTktest_plain hf hb⟩⟩,
    fun a b s hf ho => execPref_skips hf ho,
    fun d a s hf => ⟨execLdcan_none hf, fun t ht => ⟨execLdcan_other hf ht, fun hs hi => ⟨execLdcan_done hf ht hs hi, fun hp =>
      ⟨_, execLdcan_cancels hf ht hs hi hp, rfl⟩⟩⟩⟩⟩

end Sys2Proof.Machine

end

section
/-! PROOF of the ring instructions and of QBIND (R418, R419). -/

namespace Sys2Proof.Machine

open Sys2Proof.Safety

/-! ## The binding and the slot that an instruction uses -/

section
variable {n : Reg} {role : Nat} {acc : Access} {s : State}

theorem withRing_misuse {f : QBind → Act Unit} (h : (s.me.ringBind n).bound = false ∨
    role ≠ 2 ∧ (s.me.ringBind n).role ≠ role ∧ (s.me.ringBind n).role ≠ 2) :
    withRing n role acc s f = .trap 49 (BitVec.ofNat 64 n.toNat) s := by
  refine if_pos ?_
  rcases h with h | ⟨h1, h2, h3⟩
  · simp [h]
  · simp [h1, h2, h3]

variable {b : QBind}

theorem withRing_ok {f : QBind → Act Unit} (he : b = s.me.ringBind n) (hb : b.bound = true) (hr : role = 2 ∨ b.role = role ∨ b.role = 2)
    (hu : s.unitFault b.quad b.unit acc = none) : withRing n role acc s f = f b := by
  subst he
  refine (if_neg ?_).trans ?_
  · rcases hr with h | h | h <;> simp [hb, h]
  · rw [hu]

/-- Every unit of the ring can be reached: its header and the headers of its slots. -/
def State.RingReached (s : State) (b : QBind) : Prop :=
  ∀ (u : Nat) (acc : Access), u = b.unit ∨ (∃ k, k < b.at_.count ∧ u = slotUnit b.at_ k) → s.unitFault b.quad u acc = none

variable (hu : s.RingReached b)
include hu

theorem State.RingReached.header : s.unitFault b.quad b.unit acc = none := hu b.unit acc (.inl rfl)

theorem withSlot_ok {k : Act Unit} {i : Nat} (hi : i < b.at_.count) : withSlot b i acc s k = k := by
  have h : s.unitFault b.quad (slotUnit b.at_ i) acc = none := hu _ acc (.inr ⟨i, hi, rfl⟩)
  simp only [withSlot, h]

theorem withSlot_next {k : Act Unit} (hc : 0 < b.at_.count) (c : Prop) [Decidable c] (m : Nat) :
    (if c then withSlot b (m % b.at_.count) acc s else id) k = k := by
  split
  · exact withSlot_ok hu (Nat.mod_lt m hc)
  · rfl

end

/-- The slot of a payload address is one of the ring's. -/
theorem State.payloadSlot_lt {s : State} {b : QBind} {va k : Nat} (h : s.payloadSlot b va = some k) : k < b.at_.count := by
  unfold State.payloadSlot at h
  split at h
  next q u own hq =>
    dsimp only at h
    split at h
    next hc =>
      simp only [Bool.and_eq_true, decide_eq_true_eq] at hc
      exact Option.some.inj h ▸ hc.2
    next => exact nomatch h
  next => exact nomatch h

/-! ## QACQ, QTAKE, QSTAT (R419) -/

section
variable {d n : Reg} {s : State} (hf : s.Free [d] [])
include hf

theorem execQacq_unbound (h : (s.me.ringBind n).bound = false ∨ (s.me.ringBind n).role = 1) :
    exec (.qacq d n) s = .next (s.trap 49 (BitVec.ofNat 64 n.toNat)) := by
  rw [exec_qacq, execQacq]
  exact ins_trap hf (withRing_misuse (h.imp_right fun h => by simp [h]))

theorem execQtake_unbound (h : (s.me.ringBind n).bound = false ∨ (s.me.ringBind n).role = 0) :
    exec (.qtake d n) s = .next (s.trap 49 (BitVec.ofNat 64 n.toNat)) := by
  rw [exec_qtake, execQtake]
  exact ins_trap hf (withRing_misuse (h.imp_right fun h => by simp [h]))

theorem execQstat_unbound (h : (s.me.ringBind n).bound = false) :
    exec (.qstat d n) s = .next (s.trap 49 (BitVec.ofNat 64 n.toNat)) := by
  rw [exec_qstat, execQstat]
  exact ins_trap hf (withRing_misuse (.inl h))

/-- A read of the ring's word raises the clock and writes its answer. -/
theorem ins_raise_writes {body : State → Act Unit} {t : Nat} {v : Word} (hb : body s = .ok () ((s.modMe (·.raise t)).wx d v)) :
    ins [d] [] body s = .next (s.modMe (fun h => ((h.raise t).wx d v).retire)) := by
  rw [ins_ok hf hb, State.wx_eq, State.modMe_modMe, State.modMe_modMe]

variable {b : QBind} (he : b = s.me.ringBind n) (hb : b.bound = true) (hu : s.RingReached b)
include he hb hu

theorem execQstat_ok : exec (.qstat d n) s =
    .next (s.modMe (fun h => ((h.raise (s.quad b.quad).vclk).wx d (BitVec.ofNat 64 ((s.ring b.at_).statWord b.at_.count))).retire)) := by
  rw [exec_qstat, execQstat]
  exact ins_raise_writes hf (withRing_ok he hb (.inl rfl) hu.header)

section
variable (hr : b.role = 0 ∨ b.role = 2)
include hr

theorem execQacq_eos (hs : (s.ring b.at_).eos = true) : exec (.qacq d n) s = .next (s.trap 49 (BitVec.ofNat 64 n.toNat)) := by
  rw [exec_qacq, execQacq]
  exact ins_trap hf ((withRing_ok he hb (.inr hr) hu.header).trans (if_pos hs))

variable (hs : (s.ring b.at_).eos = false) (hc : 0 < b.at_.count) (hq : s.localQuiet = .ok () s)
include hs hc hq

theorem execQacq_full (ha : s.ringAcquire b.at_ s.me.pts = none) :
    exec (.qacq d n) s = .next (s.modMe (fun h => ((h.raise (s.quad b.quad).vclk).wx d 0).retire)) := by
  rw [exec_qacq, execQacq]
  refine ins_raise_writes hf ((withRing_ok he hb (.inr hr) hu.header).trans ?_)
  refine (if_neg (ne_true_of_eq_false hs)).trans ((withSlot_next hu hc _ _).trans ?_)
  rw [hq, Act.andThen, ha]

theorem execQacq_acquires {k t : Nat} {u : State} (ha : s.ringAcquire b.at_ s.me.pts = some (k, t, u)) :
    exec (.qacq d n) s = .next (((u.modMe (·.raise t)).wx d (BitVec.ofNat 64 (u.payloadVa b k))).modMe Hart.retire) := by
  rw [exec_qacq, execQacq]
  refine ins_ok hf ((withRing_ok he hb (.inr hr) hu.header).trans ?_)
  refine (if_neg (ne_true_of_eq_false hs)).trans ((withSlot_next hu hc _ _).trans ?_)
  rw [hq, Act.andThen, ha]

end

section
variable (hr : b.role = 1 ∨ b.role = 2) (hc : 0 < b.at_.count) (hq : s.localQuiet = .ok () s)
include hr hc hq

theorem execQtake_none (ha : s.ringTake b.at_ s.me.pts = none) : exec (.qtake d n) s =
    .next (s.modMe (fun h => ((h.raise (s.quad b.quad).vclk).wx d (if (s.ring b.at_).ended then 1 else 0)).retire)) := by
  rw [exec_qtake, execQtake]
  refine ins_raise_writes hf ((withRing_ok he hb (.inr hr) hu.header).trans ((withSlot_next hu hc _ _).trans ?_))
  rw [hq, Act.andThen, ha]

theorem execQtake_takes {k pub t : Nat} {u : State} (ha : s.ringTake b.at_ s.me.pts = some (k, pub, t, u)) :
    exec (.qtake d n) s = .next (((u.modMe (·.raise (max t pub))).wx d (BitVec.ofNat 64 (u.payloadVa b k))).modMe Hart.retire) := by
  rw [exec_qtake, execQtake]
  refine ins_ok hf ((withRing_ok he hb (.inr hr) hu.header).trans ((withSlot_next hu hc _ _).trans ?_))
  rw [hq, Act.andThen, ha]

end

end

/-- With no slot left there is nothing to acquire. -/
theorem State.ringAcquire_full {s : State} {p : RingAt} (h : p.count ≤ seqSub (s.ring p).acq (s.ring p).free) (clk : Nat) :
    s.ringAcquire p clk = none := if_neg (Nat.not_lt.mpr h)

/-! ## QPUB, QFREE, QEOS (R419) -/

section
variable {n a b : Reg} {s : State} {q : QBind} (he : q = s.me.ringBind n) (hb : q.bound = true) (hu : s.RingReached q)
include he hb hu

section
variable (hf : s.Free [a, b] []) (hr : q.role = 0 ∨ q.role = 2)
include hf hr

theorem execQpub_noSlot (hp : s.payloadSlot q (s.rx a).toNat = none) :
    exec (.qpub n a b) s = .next (s.trap 49 (BitVec.ofNat 64 n.toNat)) := by
  rw [exec_qpub, execQpub]
  refine ins_trap hf ((withRing_ok he hb (.inr hr) hu.header).trans ?_)
  rw [hp]
  rfl

theorem execQpub_refused {k : Nat} (hp : s.payloadSlot q (s.rx a).toNat = some k) (hc : s.canPublish q.at_ k (s.rx b).toNat = false) :
    exec (.qpub n a b) s = .next (s.trap 49 (BitVec.ofNat 64 n.toNat)) := by
  rw [exec_qpub, execQpub]
  refine ins_trap hf ((withRing_ok he hb (.inr hr) hu.header).trans ?_)
  rw [hp]
  refine (withSlot_ok hu (State.payloadSlot_lt hp)).trans ?_
  rw [hc]
  rfl

theorem execQpub_publishes {k t : Nat} {w u : State} (hp : s.payloadSlot q (s.rx a).toNat = some k)
    (hc : s.canPublish q.at_ k (s.rx b).toNat = true) (hw : s.releasePackage = .ok () w)
    (hx : w.ringPublish q.at_ k (w.rx b).toNat w.cur w.me.pts = (t, u)) :
    exec (.qpub n a b) s = .next ((u.modMe (·.raise t)).modMe Hart.retire) := by
  rw [exec_qpub, execQpub]
  refine ins_ok hf ((withRing_ok he hb (.inr hr) hu.header).trans ?_)
  rw [hp]
  refine (withSlot_ok hu (State.payloadSlot_lt hp)).trans ?_
  rw [hc, hw]
  exact congrArg (fun p : Nat × State => Act.ok () (p.2.modMe (·.raise p.1))) hx

end

section
variable (hf : s.Free [] []) (hr : q.role = 0 ∨ q.role = 2)
include hf hr

theorem execQeos_again (hs : (s.ring q.at_).eos = true) : exec (.qeos n) s = .next (s.trap 49 (BitVec.ofNat 64 n.toNat)) := by
  rw [exec_qeos, execQeos]
  exact ins_trap hf ((withRing_ok he hb (.inr hr) hu.header).trans (if_pos hs))

theorem execQeos_ends {t : Nat} {w u : State} (hs : (s.ring q.at_).eos = false) (hw : s.releasePackage = .ok () w)
    (hx : w.ringEos q.at_ w.me.pts = (t, u)) : exec (.qeos n) s = .next ((u.modMe (·.raise t)).modMe Hart.retire) := by
  rw [exec_qeos, execQeos]
  refine ins_ok hf ((withRing_ok he hb (.inr hr) hu.header).trans ((if_neg (ne_true_of_eq_false hs)).trans ?_))
  rw [hw]
  exact congrArg (fun p : Nat × State => Act.ok () (p.2.modMe (·.raise p.1))) hx

end

section
variable (hf : s.Free [a] []) (hr : q.role = 1 ∨ q.role = 2)
include hf hr

theorem execQfree_noSlot (hp : s.payloadSlot q (s.rx a).toNat = none) :
    exec (.qfree n a) s = .next (s.trap 49 (BitVec.ofNat 64 n.toNat)) := by
  rw [exec_qfree, execQfree]
  refine ins_trap hf ((withRing_ok he hb (.inr hr) hu.header).trans ?_)
  rw [hp]
  rfl

theorem execQfree_refused {k : Nat} (hp : s.payloadSlot q (s.rx a).toNat = some k) (hc : s.canFree q.at_ k = false) :
    exec (.qfree n a) s = .next (s.trap 49 (BitVec.ofNat 64 n.toNat)) := by
  rw [exec_qfree, execQfree]
  refine ins_trap hf ((withRing_ok he hb (.inr hr) hu.header).trans ?_)
  rw [hp]
  refine (withSlot_ok hu (State.payloadSlot_lt hp)).trans ?_
  rw [hc]
  rfl

theorem execQfree_frees {k t : Nat} {u : State} (hp : s.payloadSlot q (s.rx a).toNat = some k) (hc : s.canFree q.at_ k = true)
    (hq : s.localQuiet = .ok () s) (hx : s.ringFree q.at_ k s.me.pts = (t, u)) :
    exec (.qfree n a) s = .next ((u.modMe (·.raise t)).modMe Hart.retire) := by
  rw [exec_qfree, execQfree]
  refine ins_ok hf ((withRing_ok he hb (.inr hr) hu.header).trans ?_)
  rw [hp]
  refine (withSlot_ok hu (State.payloadSlot_lt hp)).trans ?_
  rw [hc, hq]
  exact congrArg (fun p : Nat × State => Act.ok () (p.2.modMe (·.raise p.1))) hx

end

end

/-! ## QBIND (R418) -/

section
variable {n a b : Reg} {s : State} {w : Nat} (hf : s.Free [a, b] []) (hw : w = (s.rx b).toNat)
include hf hw

theorem execQbind_config (h : natBits w 34 30 ≠ 0 ∨ natBits w 32 2 = 3 ∨ ringConfigOk (w % 2 ^ 32) = false) :
    exec (.qbind n a b) s = .next (s.trap 49 (BitVec.ofNat 64 n.toNat)) := by
  subst hw
  rw [exec_qbind, execQbind]
  refine ins_trap hf (if_pos ?_)
  rcases h with h | h | h
  · rw [decide_eq_true h, Bool.true_or, Bool.true_or]
  · rw [decide_eq_true h, Bool.or_true, Bool.true_or]
  · rw [h, Bool.not_false, Bool.or_true]

variable (h1 : natBits w 34 30 = 0) (h2 : natBits w 32 2 ≠ 3) (h3 : ringConfigOk (w % 2 ^ 32) = true)
include h1 h2 h3

omit hf hw in
theorem qbind_accepts : ¬ (natBits w 34 30 ≠ 0 || natBits w 32 2 = 3 || !ringConfigOk (w % 2 ^ 32)) = true := by
  rw [decide_eq_false (not_not_intro h1), decide_eq_false h2, h3]
  exact Bool.false_ne_true

theorem execQbind_misaligned (ha : (s.rx a).toNat % 64 ≠ 0) : exec (.qbind n a b) s = .next (s.trap 6 (s.rx a)) := by
  subst hw
  rw [exec_qbind, execQbind]
  exact ins_trap hf ((if_neg (qbind_accepts h1 h2 h3)).trans (if_pos ha))

variable (ha : (s.rx a).toNat % 64 = 0)
include ha

theorem execQbind_noUnit (hq : s.unitAt (s.rx a).toNat = none) : exec (.qbind n a b) s = .next (s.trap 7 (s.rx a)) := by
  subst hw
  rw [exec_qbind, execQbind]
  refine ins_trap hf ((if_neg (qbind_accepts h1 h2 h3)).trans ((if_neg (not_not_intro ha)).trans ?_))
  rw [hq]

variable {q u : Nat} {own : Bool} {v : QBind} (hq : s.unitAt (s.rx a).toNat = some (q, u, own)) (hu : s.unitFault q u .store = none)
  (hl : s.localQuiet = .ok () s)
include hq hu hl

theorem execQbind_other (hi : (s.ring { quad := q, unit := u, config := w % 2 ^ 32 }).init = true)
    (hc : natBits (s.ring { quad := q, unit := u, config := w % 2 ^ 32 }).config 0 30 ≠ natBits (w % 2 ^ 32) 0 30) :
    exec (.qbind n a b) s = .next (s.trap 49 (BitVec.ofNat 64 n.toNat)) := by
  subst hw
  rw [exec_qbind, execQbind]
  refine ins_trap hf ((if_neg (qbind_accepts h1 h2 h3)).trans ((if_neg (not_not_intro ha)).trans ?_))
  rw [hq]
  dsimp only
  rw [hu, hl]
  exact (if_pos hi).trans (if_neg hc)

variable (hv : v = { bound := true, role := natBits w 32 2, quad := q, unit := u, config := BitVec.ofNat 32 (w % 2 ^ 32), own := own })
include hv

theorem execQbind_binds (hi : (s.ring { quad := q, unit := u, config := w % 2 ^ 32 }).init = true)
    (hc : natBits (s.ring { quad := q, unit := u, config := w % 2 ^ 32 }).config 0 30 = natBits (w % 2 ^ 32) 0 30) :
    exec (.qbind n a b) s = .next (s.modMe (fun h =>
      ({ h.raise (s.quad q).vclk with q := Store.set {} h.q n.toNat v } : Hart).retire)) := by
  subst hw hv
  rw [exec_qbind, execQbind]
  refine (ins_ok hf (t := s.modMe (fun h => { h.raise (s.quad q).vclk with q := Store.set {} h.q n.toNat _ })) ?_).trans
    (congrArg _ (State.modMe_modMe _ _ _))
  refine (if_neg (qbind_accepts h1 h2 h3)).trans ((if_neg (not_not_intro ha)).trans ?_)
  rw [hq]
  dsimp only
  rw [hu, hl]
  exact (if_pos hi).trans (if_pos hc)

theorem execQbind_fresh {t : Nat} {x : State} (hi : (s.ring { quad := q, unit := u, config := w % 2 ^ 32 }).init = false)
    (hx : s.unitPut q u (lineSet (lineSet 0 0 4 (w % 2 ^ 31 + 2 ^ 31)) 0x28 8 (s.updateTime q s.me.pts)) s.me.pts = (t, x)) :
    exec (.qbind n a b) s = .next ((x.modMe (fun h => { h.raise t with q := Store.set {} h.q n.toNat v })).modMe Hart.retire) := by
  have hm : w % 2 ^ 32 % 2 ^ 31 = w % 2 ^ 31 := Nat.mod_mod_of_dvd w (by decide)
  subst hw hv
  rw [exec_qbind, execQbind]
  refine ins_ok hf ((if_neg (qbind_accepts h1 h2 h3)).trans ((if_neg (not_not_intro ha)).trans ?_))
  rw [hq]
  dsimp only
  rw [hu, hl]
  refine (if_neg (ne_true_of_eq_false hi)).trans ?_
  rw [hm, hx]

end

/-- Settles O25. -/
theorem ringInstructions : Obligations.RingInstructions := by
  unfold Obligations.RingInstructions
  refine ⟨⟨fun d n s hf => ⟨execQacq_unbound hf, execQtake_unbound hf, execQstat_unbound hf⟩, ?reads, ?updates⟩, ?qbind⟩
  case reads =>
    intro d n s b r hf he hb hr hq hc hu
    subst hr
    exact ⟨fun hr => ⟨execQacq_eos hf he hb hu hr, fun hs hn => execQacq_full hf he hb hu hr hs hc hq (State.ringAcquire_full hn _),
        fun k t u hs ha => execQacq_acquires hf he hb hu hr hs hc hq ha⟩,
      fun hr => ⟨fun k pub t u ha => execQtake_takes hf he hb hu hr hc hq ha, execQtake_none hf he hb hu hr hc hq⟩,
      execQstat_ok hf he hb hu⟩
  case updates =>
    intro n a b s q hf he hb hu
    have hf0 : s.Free [] [] := hf.mono nofun nofun
    have hfa : s.Free [a] [] := hf.mono (fun r h => List.mem_cons.mpr (.inl (List.mem_singleton.mp h))) nofun
    exact ⟨fun hr => ⟨execQpub_noSlot he hb hu hf hr, fun k hp => ⟨execQpub_refused he hb hu hf hr hp,
          fun w u t hc hw hx => execQpub_publishes he hb hu hf hr hp hc hw hx⟩,
        execQeos_again he hb hu hf0 hr, fun w u t hs hw hx => execQeos_ends he hb hu hf0 hr hs hw hx⟩,
      fun hr => ⟨execQfree_noSlot he hb hu hfa hr, fun k hp => ⟨execQfree_refused he hb hu hfa hr hp,
        fun u t hc hq hx => execQfree_frees he hb hu hfa hr hp hc hq hx⟩⟩⟩
  case qbind =>
    intro n a b s w hf hw
    refine ⟨execQbind_config hf hw, fun h1 h2 h3 => ⟨execQbind_misaligned hf hw h1 h2 h3, execQbind_noUnit hf hw h1 h2 h3, ?_⟩⟩
    intro q u own r v ha hq hu hl hr hv
    subst hr
    exact ⟨execQbind_binds hf hw h1 h2 h3 ha hq hu hl hv, execQbind_other hf hw h1 h2 h3 ha hq hu hl,
      fun hi => ⟨_, _, execQbind_fresh hf hw h1 h2 h3 ha hq hu hl hv hi rfl, rfl⟩⟩

end Sys2Proof.Machine

end

section
/-! PROOF of the barrier instructions: binding (R348), arriving, expecting, waiting, testing and unbinding (R349 to R353), and the phase
that completes (R347). -/

namespace Sys2Proof.Machine

open Sys2Proof.Safety

theorem State.Free.head {s : State} {a : Reg} {xs vs : List Reg} (hf : s.Free (a :: xs) vs) : s.Free [a] vs :=
  hf.mono (fun _ h => List.mem_cons.mpr (.inl (List.mem_singleton.mp h))) fun _ h => h

/-! ## Binding (R348) -/

section
variable {n : Reg} {addr : Word} {c : Nat} {s : State}

theorem bindBarrier_misuse (h : (s.me.bind n).arrived = true ∨ configOk c = false) :
    bindBarrier n addr c s = .trap 48 (BitVec.ofNat 64 n.toNat) s := by
  refine if_pos ?_
  rcases h with h | h <;> simp [h]

variable (ha : (s.me.bind n).arrived = false) (hc : configOk c = true)
include ha hc

theorem bindBarrier_named : ¬ ((s.me.bind n).arrived || !configOk c) = true := by
  simp [ha, hc]

theorem bindBarrier_misaligned (h : addr.toNat % 64 ≠ 0) : bindBarrier n addr c s = .trap 6 addr s :=
  (if_neg (bindBarrier_named ha hc)).trans (if_pos h)

variable (hl : addr.toNat % 64 = 0)
include hl

theorem bindBarrier_noUnit (hu : s.unitAt addr.toNat = none) : bindBarrier n addr c s = .trap 7 addr s := by
  refine (if_neg (bindBarrier_named ha hc)).trans ((if_neg (not_not_intro hl)).trans ?_)
  rw [hu]

variable {q u : Nat} {own : Bool} {o : Barrier} (hu : s.unitAt addr.toNat = some (q, u, own)) (hr : s.unitFault q u .store = none)
  (hq : s.localQuiet = .ok () s) (ho : o = Barrier.ofLine (s.unitLine q u))
include hu hr hq ho

theorem bindBarrier_same (hi : o.init = true) (he : natBits o.config 0 16 = c) : bindBarrier n addr c s =
    .ok () ((s.modMe (·.raise (s.quad q).vclk)).setBind n { bound := true, quad := q, unit := u, phase := o.phase }) := by
  subst ho
  simp only [bindBarrier, if_neg (bindBarrier_named ha hc), if_neg (not_not_intro hl), hu, hr, hq, Act.andThen, if_pos hi, if_pos he]

theorem bindBarrier_other (hi : o.init = true) (he : natBits o.config 0 16 ≠ c) :
    bindBarrier n addr c s = .trap 48 (BitVec.ofNat 64 n.toNat) s := by
  subst ho
  simp only [bindBarrier, if_neg (bindBarrier_named ha hc), if_neg (not_not_intro hl), hu, hr, hq, Act.andThen, if_pos hi, if_neg he,
    misuse]

/-- The object that BBIND makes of one that is not initialised. -/
def Barrier.fresh (o : Barrier) (c : Nat) : Barrier :=
  { o with config := c + 2 ^ 31, combine := combineIdentity (natBits c 12 3) (natBit c 15) }

theorem bindBarrier_fresh {t : Nat} {v : State} (hi : o.init = false)
    (hv : s.unitPut q u ((o.fresh c).toLine (s.unitLine q u)) s.me.pts = (t, v)) : bindBarrier n addr c s =
    .ok () ((v.modMe (·.raise t)).setBind n { bound := true, quad := q, unit := u, phase := o.phase }) := by
  subst ho
  unfold Barrier.fresh at hv
  simp only [bindBarrier, if_neg (bindBarrier_named ha hc), if_neg (not_not_intro hl), hu, hr, hq, Act.andThen,
    if_neg (ne_true_of_eq_false hi), hv]

end

/-- The two forms do the same with the same config. -/
theorem execBbindI_eq {n a b : Reg} {cfg : BitVec 16} {s : State} (hf : s.Free [a, b] []) (hc : (s.rx b).toNat = cfg.toNat) :
    exec (.bbindI n a cfg) s = exec (.bbind n a b) s := by
  rw [exec_bbindI, exec_bbind, execBbindI, execBbind, ins_free hf,
    ins_free hf.head, hc]

/-- Settles O10: each form runs `bindBarrier` on the address and the config. -/
theorem barrierBinding : Obligations.BarrierBinding := by
  unfold Obligations.BarrierBinding
  intro n a b cfg s hf
  refine ⟨?reached, fun h => ?_, fun ha hc hl => ?_, fun ha hc hl hu => ?_⟩
  case reached =>
    intro q u own o ho ha hc hb hl hu hr hq
    have hcfg : (s.rx b).toNat = cfg.toNat := by
      rw [hb]
      exact BitVec.toNat_setWidth_of_le (by decide)
    have hsame := execBbindI_eq (n := n) hf hcfg
    rw [exec_bbind, execBbind] at hsame ⊢
    rw [← hcfg] at hc ⊢
    exact ⟨fun hi he => ⟨ins_ok hf (bindBarrier_same ha hc hl hu hr hq ho hi he), hsame⟩,
      fun hi he => ⟨ins_trap hf (bindBarrier_other ha hc hl hu hr hq ho hi he), hsame⟩,
      fun hi => ⟨_, rfl, ins_ok hf (bindBarrier_fresh ha hc hl hu hr hq ho hi rfl), hsame⟩⟩
  all_goals rw [exec_bbind, execBbind]
  · exact ins_trap hf (bindBarrier_misuse h)
  · exact ins_trap hf (bindBarrier_misaligned ha hc hl)
  · exact ins_trap hf (bindBarrier_noUnit ha hc hl hu)

/-! ## Arriving and expecting (R349, R352) -/

section
variable {n : Reg} {s : State} {b : BBind} (hn : s.me.bind n = b)
include hn

theorem arrive_misuse {x : Word} (h : b.bound = false ∨ b.arrived = true) : arrive n x s = .trap 48 (BitVec.ofNat 64 n.toNat) s := by
  subst hn
  refine if_pos ?_
  rcases h with h | h <;> simp [h]

section
variable {x : Word} {o : Barrier} (hb : b.bound = true) (ha : b.arrived = false) (hq : s.releasePackage = .ok () s)
  (hr : s.unitFault b.quad b.unit .store = none) (ho : o = Barrier.ofLine (s.unitLine b.quad b.unit))
include hb ha hq hr ho

theorem arrive_refused (h : o.init = false ∨ o.exp ≤ o.arrived) : arrive n x s = .trap 48 (BitVec.ofNat 64 n.toNat) s := by
  subst hn ho
  simp only [arrive, hb, ha, hq, hr, Act.andThen, Bool.not_true, Bool.or_self, Bool.false_eq_true, if_false]
  refine if_pos ?_
  rcases h with h | h <;> simp [h]

/-- The object with one arrival more. -/
def Barrier.joined (o : Barrier) (x : Word) : Barrier := { o with arrived := o.arrived + 1, combine := o.combined x.toNat }

theorem arrive_counts {t : Nat} {v : State} (hi : o.init = true) (hx : o.arrived < o.exp)
    (hv : s.barrierPut b.quad b.unit (o.joined x) s.me.pts = (t, v)) : arrive n x s =
    .ok () ((v.modMe (·.raise t)).setBind n { b with phase := o.phase, arrived := true, fseen := false }) := by
  subst hn ho
  unfold Barrier.joined at hv
  simp only [arrive, hb, ha, hq, hr, Act.andThen, Bool.not_true, Bool.or_self, Bool.false_eq_true, if_false, hi,
    decide_eq_false (Nat.not_le.mpr hx), hv]

end

theorem expectBytes_misuse {bytes : Nat} (h : b.bound = false ∨ 2 ^ 32 ≤ bytes) :
    expectBytes n bytes s = .trap 48 (BitVec.ofNat 64 n.toNat) s := by
  subst hn
  refine if_pos ?_
  rcases h with h | h
  · rw [h, Bool.not_false, Bool.true_or]
  · rw [decide_eq_true h, Bool.or_true]

theorem expectBytes_sets {o : Barrier} {bytes t : Nat} {v : State} (hb : b.bound = true) (hr : s.unitFault b.quad b.unit .store = none)
    (hq : s.localQuiet = .ok () s) (ho : o = Barrier.ofLine (s.unitLine b.quad b.unit)) (hi : o.init = true) (hx : bytes < 2 ^ 32)
    (hv : s.barrierPut b.quad b.unit { o with expected := bytes } s.me.pts = (t, v)) :
    expectBytes n bytes s = .ok () (v.modMe (·.raise t)) := by
  subst hn ho
  simp only [expectBytes, hb, hr, hq, Act.andThen, Bool.not_true, Bool.or_self, Bool.false_eq_true, if_false, hi,
    decide_eq_false (Nat.not_le.mpr hx), hv]

end

/-! ## Waiting, testing, unbinding (R350, R351, R353) -/

section
variable {d n : Reg} {s : State} {b : BBind} (hn : s.me.bind n = b)
include hn

theorem await_unbound (hb : b.bound = false) : await d n s = .trap 48 (BitVec.ofNat 64 n.toNat) s := by
  subst hn
  exact if_pos (by rw [hb, Bool.not_false])

variable (hb : b.bound = true) (hr : s.unitFault b.quad b.unit .load = none)
include hb hr

theorem await_held {u : State} (hq : s.localQuiet = .stall u) : await d n s = .stall u := by
  subst hn
  simp only [await, hb, hr, hq, Act.andThen, Bool.not_true, Bool.false_eq_true, if_false]

variable {o : Barrier} (hq : s.localQuiet = .ok () s) (ho : o = Barrier.ofLine (s.unitLine b.quad b.unit))
include hq ho

theorem await_waits (hp : o.phase ≤ b.phase) : await d n s = .stall s := by
  subst hn ho
  simp only [await, hb, hr, hq, Act.andThen, Bool.not_true, Bool.false_eq_true, if_false, if_pos hp]

theorem await_lapped (hp : b.phase + 1 < o.phase) : await d n s = .trap 48 (BitVec.ofNat 64 n.toNat) s := by
  have h1 : ¬ o.phase ≤ b.phase := by omega
  subst hn ho
  simp only [await, hb, hr, hq, Act.andThen, Bool.not_true, Bool.false_eq_true, if_false, if_neg h1, if_pos hp, misuse]

variable (hp : o.phase = b.phase + 1)
include hp

omit hn hb hr hq ho in
theorem Barrier.passed_once : ¬ o.phase ≤ b.phase ∧ ¬ b.phase + 1 < o.phase := by
  omega

theorem await_failed (hx : o.failed = true) (hs : b.fseen = false) :
    await d n s = .trap 28 (report o.lstatus 1 n.toNat) (s.setBind n { b with fseen := true }) := by
  obtain ⟨h1, h2⟩ := Barrier.passed_once hp
  subst hn ho
  simp only [await, hb, hr, hq, Act.andThen, Bool.not_true, Bool.false_eq_true, if_false, if_neg h1, if_neg h2, hx, hs, Bool.not_false, Bool.and_self, if_true]

theorem await_passed (hx : o.failed = false ∨ b.fseen = true) (he : o.expected = 0) : await d n s =
    .ok () (((s.modMe (·.raise (max (s.quad b.quad).vclk o.done))).wx d
      (BitVec.ofNat 64 (if o.op = 0 then o.phase else o.released))).setBind n
        { b with phase := b.phase + 1, arrived := false, fseen := false }) := by
  obtain ⟨h1, h2⟩ := Barrier.passed_once hp
  subst hn ho
  have hx' : ((Barrier.ofLine (s.unitLine (s.me.bind n).quad (s.me.bind n).unit)).failed && !(s.me.bind n).fseen) = false := by
    rcases hx with hx | hx
    · rw [hx, Bool.false_and]
    · rw [hx, Bool.not_true, Bool.and_false]
  simp only [await, hb, hr, hq, Act.andThen, Bool.not_true, Bool.false_eq_true, if_false, if_neg h1, if_neg h2, hx', if_pos he]

end

/-- Once it has arrived BSYNC is BWAIT. -/
theorem execBsync_arrived {d n a : Reg} {s : State} (hf : s.Free [d, a] []) (hb : (s.me.bind n).bound = true)
    (ha : (s.me.bind n).arrived = true) : exec (.bsync d n a) s = exec (.bwait d n) s := by
  rw [exec_bsync, exec_bwait, execBsync, execBwait, ins_free hf,
    ins_free hf.head]
  simp only [hb, ha, Bool.and_self, if_true, Act.andThen]

section
variable {d n : Reg} {s : State} {b : BBind} (hn : s.me.bind n = b)
include hn

section
variable (hf : s.Free [d] [])
include hf

theorem execBtest_unbound (hb : b.bound = false) : exec (.btest d n) s = .next (s.trap 48 (BitVec.ofNat 64 n.toNat)) := by
  subst hn
  rw [exec_btest, execBtest]
  exact ins_trap hf (if_pos (by rw [hb, Bool.not_false]))

variable (hb : b.bound = true) (hr : s.unitFault b.quad b.unit .load = none)
include hb hr

theorem execBtest_held {u : State} (hq : s.localQuiet = .stall u) : exec (.btest d n) s = .next u := by
  subst hn
  rw [exec_btest, execBtest]
  refine ins_stall hf ?_
  simp only [hb, hr, hq, Act.andThen, Bool.not_true, Bool.false_eq_true, if_false]

theorem execBtest_reads {o : Barrier} (hq : s.localQuiet = .ok () s) (ho : o = Barrier.ofLine (s.unitLine b.quad b.unit)) :
    exec (.btest d n) s = .next (((s.modMe (·.raise (s.quad b.quad).vclk)).wx d
      (if b.phase < o.phase then 1 else 0)).modMe Hart.retire) := by
  subst hn ho
  rw [exec_btest, execBtest]
  refine ins_ok hf ?_
  simp only [hb, hr, hq, Act.andThen, Bool.not_true, Bool.false_eq_true, if_false]

end

section
variable (hf : s.Free [] [])
include hf

theorem execBunbind_misuse (h : b.bound = false ∨ b.arrived = true) :
    exec (.bunbind n) s = .next (s.trap 48 (BitVec.ofNat 64 n.toNat)) := by
  subst hn
  rw [exec_bunbind, execBunbind]
  refine ins_trap hf (if_pos ?_)
  rcases h with h | h <;> simp [h]

theorem execBunbind_clears (hb : b.bound = true) (ha : b.arrived = false) :
    exec (.bunbind n) s = .next ((s.setBind n { b with bound := false }).modMe Hart.retire) := by
  subst hn
  rw [exec_bunbind, execBunbind]
  exact ins_ok hf (if_neg (by simp [hb, ha]))

end

end

/-! ## The phase that completes (R347) -/

theorem State.foldl_modHart_quads {α : Type} (ws : List α) (k : α → Nat) (f : α → Hart → Hart) (s : State) :
    (ws.foldl (fun s w => s.modHart (k w) (f w)) s).quads = s.quads := by
  induction ws generalizing s with
  | nil => rfl
  | cons w ws ih => exact ih _

theorem State.answerWatches_vclk (s : State) (q unit t : Nat) : ((s.answerWatches q unit t).quad q).vclk = (s.quad q).vclk := by
  unfold State.answerWatches
  dsimp only
  split
  · rfl
  · unfold State.quad
    rw [State.foldl_modHart_quads]
    show ((s.modQuad q _).quad q).vclk = _
    rw [State.quad_modQuad]
    rfl

@[simp] theorem State.quad_clearResv (s : State) (unit q : Nat) : (s.clearResv unit).quad q = s.quad q := rfl

/-- A store at a vault sets its clock to the store's time. -/
theorem State.vaultStore_vclk (s : State) (q addr : Nat) (mask : BitVec 64) (d : Line) (clk : Nat) :
    ((s.vaultStore q addr mask d clk).2.quad q).vclk = max (s.quad q).vclk clk + 1 := by
  unfold State.vaultStore
  dsimp only
  rw [State.answerWatches_vclk, State.quad_clearResv, State.quad_modQuad]

theorem unitAddr_aligned (q u : Nat) : unitAddr q u % 64 = 0 := by
  unfold unitAddr vaultAddr Config.vaultBase
  omega

/-- An object reads back as an update left it, evaluated at the update's time. -/
theorem State.barrierPut_read {s : State} (hm : MemOk s) (q u : Nat) (o : Barrier) (clk : Nat) :
    Barrier.ofLine ((s.barrierPut q u o clk).2.unitLine q u) =
      Barrier.ofLine ((o.evaluate (s.updateTime q clk)).toLine (s.unitLine q u)) :=
  congrArg Barrier.ofLine (State.readLine_vaultStore s hm q (unitAddr q u) _ clk (unitAddr_aligned q u))

theorem State.barrierPut_vclk (s : State) (q u : Nat) (o : Barrier) (clk : Nat) :
    ((s.barrierPut q u o clk).2.quad q).vclk = max (s.quad q).vclk clk + 1 :=
  State.vaultStore_vclk s q (unitAddr q u) (BitVec.allOnes 64) _ clk

@[simp] theorem State.unitLine_modMe (s : State) (f : Hart → Hart) (q u : Nat) : (s.modMe f).unitLine q u = s.unitLine q u := rfl

@[simp] theorem State.unitLine_setBind (s : State) (n : Reg) (b : BBind) (q u : Nat) : (s.setBind n b).unitLine q u = s.unitLine q u := rfl

@[simp] theorem State.quad_setBind (s : State) (n : Reg) (b : BBind) (q : Nat) : (s.setBind n b).quad q = s.quad q := rfl

/-- The last arrival of a phase that expects no bytes and has not failed completes it. -/
theorem Barrier.evaluate_completes {o : Barrier} (t : Nat) (he : o.exp ≠ 0) (ha : o.arrived = o.exp) (hx : o.expected = 0)
    (hf : o.failing = false) : o.evaluate t = { o with
      time := max o.time t, released := o.combine, combine := o.identity, done := max o.time t, phase := (o.phase + 1) % 2 ^ 64,
      arrived := 0, pending := o.pending, fail := natBits o.fail 8 8 * 2 ^ 16 } := by
  have hc : ((o.exp != 0 || o.expected != 0) && decide (o.arrived = o.exp) &&
      (decide (o.expected ≤ o.pending) || o.failing)) = true := by
    rw [hx, decide_eq_true ha, decide_eq_true (Nat.zero_le _), bne_iff_ne.mpr he]
    rfl
  refine (if_pos hc).trans ?_
  rw [show ({ o with time := max o.time t } : Barrier).failing = false from hf, hx]
  simp only [Bool.false_eq_true, if_false, Nat.sub_zero, Nat.zero_add]
  rfl

theorem combineIdentity_lt (op : Nat) (fp : Bool) : combineIdentity op fp < 2 ^ 64 := by
  unfold combineIdentity
  split <;> decide

theorem Barrier.time_ofLine_lt (l : Line) : (Barrier.ofLine l).time < 2 ^ 64 := Nat.mod_lt _ (by decide)

section
variable {s : State} {q u clk : Nat} {o : Barrier} {x : Word} (hm : MemOk s) (ho : o = Barrier.ofLine (s.unitLine q u))
  (ha : o.arrived + 1 = o.exp) (he : o.expected = 0) (hf : o.failing = false) (hclk : max (s.quad q).vclk clk + 1 < 2 ^ 64)
  (hph : o.phase + 1 < 2 ^ 64) (hc : o.combined x.toNat < 2 ^ 64)
include hm ho ha he hf hclk hph hc

theorem State.barrierPut_completes {p : Barrier} (hp : p = Barrier.ofLine ((s.barrierPut q u (o.joined x) clk).2.unitLine q u)) :
    p.phase = o.phase + 1 ∧ p.arrived = 0 ∧ p.released = o.combined x.toNat ∧ p.combine = o.identity ∧
      p.done = max o.time (max (s.quad q).vclk clk + 1) := by
  have ht : o.time < 2 ^ 64 := ho ▸ Barrier.time_ofLine_lt _
  have hne : (o.joined x).exp ≠ 0 := by
    show o.exp ≠ 0
    omega
  rw [State.barrierPut_read hm, Barrier.evaluate_completes (o := o.joined x) _ hne ha he hf, Barrier.ofLine_toLine] at hp
  subst hp
  refine ⟨?_, rfl, Nat.mod_eq_of_lt hc, Nat.mod_eq_of_lt (combineIdentity_lt _ _), Nat.mod_eq_of_lt (Nat.max_lt.mpr ⟨ht, hclk⟩)⟩
  exact (Nat.mod_mod _ _).trans (Nat.mod_eq_of_lt hph)

end

/-- Settles O11, on `arrive`, `expectBytes` and `await`, which the instructions run. -/
theorem barrierUpdates : Obligations.BarrierUpdates := by
  unfold Obligations.BarrierUpdates
  refine ⟨?arriving, ?waiting, ?completing⟩
  case arriving =>
    intro n a bytes s b o hf hn ho
    have hf0 : s.Free [] [] := hf.mono nofun nofun
    rw [exec_barrive, execBarrive, exec_bexpect, execBexpect, exec_bexpectI, execBexpectI]
    refine ⟨fun h => ins_trap hf (arrive_misuse hn h), fun hb ha hq hr => ⟨fun h => ins_trap hf (arrive_refused hn hb ha hq hr ho h),
      fun hi hx => ⟨_, rfl, ins_ok hf (arrive_counts hn hb ha hq hr ho hi hx rfl)⟩⟩,
      fun hb hr hq hi => ⟨⟨_, rfl, ?_⟩, fun hx => ⟨_, rfl, ins_ok hf (expectBytes_sets hn hb hr hq ho hi hx rfl)⟩⟩,
      fun h => ins_trap hf (expectBytes_misuse hn h)⟩
    exact ins_ok hf0 (expectBytes_sets hn hb hr hq ho hi (Nat.lt_trans bytes.isLt (by decide)) rfl)
  case waiting =>
    intro d n a s b o hf hn ho
    have hfd : s.Free [d] [] := hf.head
    have hf0 : s.Free [] [] := hf.mono nofun nofun
    have hsync (hb : b.bound = true) (ha : b.arrived = true) : exec (.bsync d n a) s = exec (.bwait d n) s :=
      execBsync_arrived hf (hn ▸ hb) (hn ▸ ha)
    rw [exec_bwait, execBwait] at hsync ⊢
    refine ⟨fun hb => ⟨ins_trap hfd (await_unbound hn hb), execBtest_unbound hn hfd hb, execBunbind_misuse hn hf0 (.inl hb)⟩,
      fun u hb hr hq => ⟨ins_stall hfd (await_held hn hb hr hq), execBtest_held hn hfd hb hr hq⟩, fun hb hr hq => ?_,
      execBunbind_clears hn hf0, fun _ ha => execBunbind_misuse hn hf0 (.inr ha)⟩
    refine ⟨fun hp => ?_, fun hp => ins_trap hfd (await_lapped hn hb hr hq ho hp), fun hp hx hs => ?_,
      fun hp hx he => ⟨ins_ok hfd (await_passed hn hb hr hq ho hp hx he), hsync hb⟩, execBtest_reads hn hfd hb hr hq ho⟩
    · have hw : ins [d] [] (await d n) s = .next s := ins_stall hfd (await_waits hn hb hr hq ho hp)
      exact ⟨hw, fun ha => (hsync hb ha).trans hw⟩
    · exact (ins_trapFrom hfd (await_failed hn hb hr hq ho hp hx hs)).trans (congrArg _ rfl)
  case completing =>
    intro n a s b o hf hn hb ha hm hq hr ho hi hx he hfl hclk hph hc
    rw [exec_barrive, execBarrive]
    refine ⟨_, ins_ok hf (arrive_counts hn hb ha hq hr ho hi (by omega) rfl), ?_⟩
    obtain ⟨h1, h2, h3, h4, h5⟩ := State.barrierPut_completes hm ho hx he hfl hclk hph hc rfl
    rw [State.unitLine_modMe, State.unitLine_setBind, State.unitLine_modMe, State.quad_modMe, State.quad_setBind, State.quad_modMe]
    exact ⟨h1, h2, h3, h4, h5, State.barrierPut_vclk s b.quad b.unit _ s.me.pts⟩

end Sys2Proof.Machine

end

section
/-! PROOF of the mailbox instructions (R356 to R358) and of the logical clock: CLKRD, CLKADV and LWAIT (R359 to R361). -/

namespace Sys2Proof.Machine

open Sys2Proof.Safety

theorem Act.ok_andThen {α β : Type} (v : α) (s : State) (f : α → State → Act β) : (Act.ok v s).andThen f = f v s := rfl

/-! ## Messages (R356 to R358) -/

section
variable {d : Reg} {dest p0 p1 : Word} {len tag : Nat} {s : State} (hrel : s.releasePackage = .ok () s)
include hrel

theorem sendMail_nowhere (h : s.me.task = none ∨ 2 ^ 12 ≤ dest.toNat ∨ s.quadPresent (quadOf dest.toNat) = false) :
    sendMail d dest len tag p0 p1 s = .ok () (s.wx d 2) := by
  have hc : (s.me.task.isNone || decide (2 ^ 12 ≤ dest.toNat) || !s.quadPresent (quadOf dest.toNat) ||
      decide (160 ≤ dest.toNat / 4 % 256)) = true := by
    rcases h with h | h | h
    · rw [h, Option.isNone_none, Bool.true_or, Bool.true_or, Bool.true_or]
    · rw [decide_eq_true h, Bool.or_true, Bool.true_or, Bool.true_or]
    · rw [h, Bool.not_false, Bool.or_true, Bool.true_or]
  simp only [sendMail, hrel, Act.andThen, if_pos hc]

variable {x : Nat} (ht : s.me.task ≠ none) (h12 : dest.toNat < 2 ^ 12) (h160 : dest.toNat / 4 % 256 < 160)
  (hq : s.quadPresent (quadOf dest.toNat) = true) (hx : s.contextOn (s.asidOf s.cur) (quadOf dest.toNat) = some x)
include ht h12 h160 hq hx

omit hrel hx in
theorem sendMail_somewhere : ¬ (s.me.task.isNone || decide (2 ^ 12 ≤ dest.toNat) || !s.quadPresent (quadOf dest.toNat) ||
    decide (160 ≤ dest.toNat / 4 % 256)) = true := by
  rw [Option.isNone_eq_false_iff.mpr (Option.isSome_iff_ne_none.mpr ht), decide_eq_false (Nat.not_le.mpr h12), hq,
    decide_eq_false (Nat.not_le.mpr h160)]
  exact Bool.false_ne_true

theorem sendMail_full (hn : 12 ≤ s.mailCount x (dest.toNat % 4)) : sendMail d dest len tag p0 p1 s = .ok () (s.wx d 1) := by
  simp only [sendMail, hrel, Act.andThen, if_neg (sendMail_somewhere ht h12 h160 hq), hx, if_pos hn]

theorem sendMail_puts (hn : s.mailCount x (dest.toNat % 4) < 12) : sendMail d dest len tag p0 p1 s =
    .ok () ((s.mailPut x (dest.toNat % 4)
      { hdr := mailHeader 3 len tag (slotAddr (quadOf s.cur) s.me.slot), p0 := p0, p1 := p1,
        time := BitVec.ofNat 64 s.me.pts }).wx d 0) := by
  simp only [sendMail, hrel, Act.andThen, if_neg (sendMail_somewhere ht h12 h160 hq), hx, if_neg (Nat.not_le.mpr hn)]

end

section
variable {d a : Reg} {s : State} (hf : s.Free [d, a] [])
include hf

theorem execMrecv_misaligned (ha : (s.rx a).toNat % 32 ≠ 0) : exec (.mrecv d a) s = .next (s.trap 6 (s.rx a)) := by
  rw [exec_mrecv, execMrecv]
  exact ins_trap hf (if_pos ha)

variable (ha : (s.rx a).toNat % 32 = 0)
include ha

theorem execMrecv_empty (hm : s.me.mail = []) : exec (.mrecv d a) s = .next ((s.wx d 0).modMe Hart.retire) := by
  rw [exec_mrecv, execMrecv]
  refine ins_ok hf ((if_neg (not_not_intro ha)).trans ?_)
  rw [hm]

theorem execMrecv_stores {m : Mail} {rest : List Mail} {u : State} (hm : s.me.mail = m :: rest)
    (hu : s.storeWords (s.rx a).toNat (bytesOf 32 m.number) = .ok () u) : exec (.mrecv d a) s =
    .next (((u.modMe (fun h => { h.raise m.time.toNat with mail := rest })).wx d m.hdr).modMe Hart.retire) := by
  rw [exec_mrecv, execMrecv]
  refine ins_ok hf ((if_neg (not_not_intro ha)).trans ?_)
  rw [hm]
  dsimp only
  rw [hu]
  rfl

end

section
variable {d : Reg} {s : State} (hf : s.Free [d] [])
include hf

theorem execMpoll_reads : exec (.mpoll d) s =
    .next (s.modMe (fun h => ({ (h.wx d s.me.mailWord) with mailLost := false } : Hart).retire)) := by
  rw [exec_mpoll, execMpoll, ins_ok hf (t := (s.wx d s.me.mailWord).modMe (fun h => { h with mailLost := false })) rfl, State.wx_eq,
    State.modMe_modMe, State.modMe_modMe]

theorem execMwait_empty (hm : s.me.mail = []) : exec (.mwait d) s = .next s := by
  rw [exec_mwait, execMwait]
  exact ins_stall hf (if_pos (by rw [hm]; rfl))

theorem execMwait_reads {m : Mail} {rest : List Mail} (hm : s.me.mail = m :: rest) :
    exec (.mwait d) s = .next (s.modMe (fun h => (h.wx d s.me.mailWord).retire)) := by
  rw [exec_mwait, execMwait]
  exact ins_writes hf (if_neg (by rw [hm]; exact Bool.false_ne_true))

theorem execMhdr_empty (hm : s.me.mail = []) : exec (.mhdr d) s = .next (s.modMe (fun h => (h.wx d 0).retire)) := by
  rw [exec_mhdr, execMhdr]
  exact ins_writes hf (by rw [hm])

theorem execMhdr_reads {m : Mail} {rest : List Mail} (hm : s.me.mail = m :: rest) :
    exec (.mhdr d) s = .next (s.modMe (fun h => (h.wx d m.hdr).retire)) := by
  rw [exec_mhdr, execMhdr]
  exact ins_writes hf (by rw [hm])

/-! ## CLKRD and CLKADV (R359, R360) -/

theorem execClkrd_reads : exec (.clkrd d) s = .next (s.modMe (fun h => (h.wx d (BitVec.ofNat 64 h.pts)).retire)) := by
  rw [exec_clkrd, execClkrd, ins_writes hf (v := BitVec.ofNat 64 s.me.pts) rfl]
  exact congrArg _ (State.modMe_congr s rfl)

end

section
variable {va : Word} {s : State}

theorem clockAdvance_fault {c : Nat} {v : Word} {u : State} (hr : s.resolve .load va.toNat = .trap c v u) :
    clockAdvance va s = .ok () u := by
  rw [clockAdvance, hr]

variable {p : Place} (hr : s.resolve .load va.toNat = .ok p s)
include hr

theorem clockAdvance_vault (hk : p.kind = .vault) : clockAdvance va s = .ok () s := by
  simp only [clockAdvance, hr, hk]
  rfl

variable (hk : p.kind = .hbm)
include hk

theorem clockAdvance_absent (hl : s.me.l1At (l1Key (lineNo p.addr) p.home) = none) : clockAdvance va s = .ok () s := by
  simp only [clockAdvance, hr, hk, hl]
  rfl

theorem clockAdvance_shared {l : L1Line} (hl : s.me.l1At (l1Key (lineNo p.addr) p.home) = some l) (hs : l.st = .shared) :
    clockAdvance va s = .ok () (s.modMe (·.raise (l.rts + 1))) := by
  simp only [clockAdvance, hr, hk, hl, hs]
  rfl

end

/-! ## LWAIT (R361) -/

section
variable {d : Reg} {va : Word} {s : State} (hx : s.excluded va.toNat 8 = false)
include hx

theorem waitLoad_misaligned (ha : va.toNat % 8 ≠ 0) : waitLoad d va s = .trap 4 va s :=
  (if_neg (ne_true_of_eq_false hx)).trans (if_pos ha)

variable {p : Place} (ha : va.toNat % 8 = 0) (hr : s.resolve .load va.toNat = .ok p s) (hn : s.me.forward p.addr 8 = none)
include ha hr hn

/-- On a line of which the L1 holds no shared copy it is a load. -/
theorem waitLoad_loads {v : Nat} {u : State} (hk : p.kind = .hbm)
    (hl : ∀ l : L1Line, s.me.l1At (l1Key (lineNo p.addr) p.home) = some l → l.st ≠ .shared)
    (hu : s.giveUpRenewal.loadPlace p va 8 = .ok v u) :
    waitLoad d va s = .ok () ((u.wx d (BitVec.ofNat 64 v)).record 3 3 va) := by
  simp only [waitLoad, hx, Bool.false_eq_true, if_false, if_neg (not_not_intro ha), hr, Act.andThen, hn, hk]
  cases e : s.me.l1At (l1Key (lineNo p.addr) p.home) with
  | none => simp only [hu]
  | some l => simp only [if_neg (hl l e), hu]

theorem waitLoad_vault (hk : p.kind = .vault) : waitLoad d va s =
    (s.watchVault p va).andThen (fun v s => .ok () ((s.wx d (BitVec.ofNat 64 v)).record 3 3 va)) := by
  simp only [waitLoad, hx, Bool.false_eq_true, if_false, if_neg (not_not_intro ha), hr, Act.ok_andThen, hn, hk]

end

section
variable {s : State} {p : Place} {va : Word} (hd : s.deadRoute (dieOf s.cur) (dieOfQuad p.home) = none)
include hd

theorem State.watchVault_places (hl : s.me.ld = none) (hw : (s.quad p.home).watches.length < 16) : s.watchVault p va =
    .stall ((s.modQuad p.home (fun q => { q with watches := q.watches ++ [{ unit := p.addr / 64 * 64, hart := s.cur }] })).modMe
      (fun h => { h with ld := some { kind := .watch, key := p.addr / 64 * 64 } })) := by
  simp only [State.watchVault, hl, State.linkTarget_none hd, if_neg (Nat.not_le.mpr hw)]

theorem State.watchVault_answered {x : Pend} {t : Nat} (hv : s.vaultPosted s.cur p.addr 8 = false) (hp : s.poisoned p.addr = false)
    (hl : s.me.ld = some x) (hk : x.kind = .watch) (hxd : x.done = true) (ht : x.time = some t) : s.watchVault p va =
    .ok (s.readNat p.addr 8) (s.modMe (fun h => { (h.raise t).raise (s.quad p.home).vclk with ld := none })) := by
  have hload : (s.modMe (fun h => { h.raise t with ld := none })).loadVault p va 8 =
      .ok (s.readNat p.addr 8) ((s.modMe (fun h => { h.raise t with ld := none })).modMe (·.raise (s.quad p.home).vclk)) :=
    State.loadVault_read (s := s.modMe (fun h => { h.raise t with ld := none })) va 8 hd hp hv
  rw [State.modMe_modMe] at hload
  simp only [State.watchVault, hl, hk, hxd, ht]
  exact hload

end

section
variable {d a : Reg} {off : BitVec 24} {s : State} {p : Place} (hf : s.Free [d, a] []) (hx : s.excluded (s.ea a off).toNat 8 = false)
  (ha : (s.ea a off).toNat % 8 = 0) (hr : s.resolve .load (s.ea a off).toNat = .ok p s) (hn : s.me.forward p.addr 8 = none)
include hf hx ha hr hn

theorem execLwaitOff_loads {v : Nat} {u : State} (hk : p.kind = .hbm)
    (hl : ∀ l : L1Line, s.me.l1At (l1Key (lineNo p.addr) p.home) = some l → l.st ≠ .shared)
    (hu : s.giveUpRenewal.loadPlace p (s.ea a off) 8 = .ok v u) :
    exec (.lwaitOff d a off) s = .next (((u.wx d (BitVec.ofNat 64 v)).record 3 3 (s.ea a off)).modMe Hart.retire) := by
  rw [exec_lwaitOff, execLwaitOff]
  exact ins_ok hf (waitLoad_loads hx ha hr hn hk hl hu)

variable (hk : p.kind = .vault) (hd : s.deadRoute (dieOf s.cur) (dieOfQuad p.home) = none)
include hk hd

theorem execLwaitOff_watches (hl : s.me.ld = none) (hw : (s.quad p.home).watches.length < 16) : exec (.lwaitOff d a off) s =
    .next ((s.modQuad p.home (fun q => { q with watches := q.watches ++ [{ unit := p.addr / 64 * 64, hart := s.cur }] })).modMe
      (fun h => { h with ld := some { kind := .watch, key := p.addr / 64 * 64 } })) := by
  rw [exec_lwaitOff, execLwaitOff]
  refine ins_stall hf ((waitLoad_vault hx ha hr hn hk).trans ?_)
  rw [State.watchVault_places hd hl hw]
  rfl

theorem execLwaitOff_answered {x : Pend} {t : Nat} (hv : s.vaultPosted s.cur p.addr 8 = false) (hp : s.poisoned p.addr = false)
    (hl : s.me.ld = some x) (hw : x.kind = .watch) (hxd : x.done = true) (ht : x.time = some t) : exec (.lwaitOff d a off) s =
    .next ((((s.modMe (fun h => { (h.raise t).raise (s.quad p.home).vclk with ld := none })).wx d
      (BitVec.ofNat 64 (s.readNat p.addr 8))).record 3 3 (s.ea a off)).modMe Hart.retire) := by
  rw [exec_lwaitOff, execLwaitOff]
  refine ins_ok hf ((waitLoad_vault hx ha hr hn hk).trans ?_)
  rw [State.watchVault_answered hd hv hp hl hw hxd ht]
  rfl

end

/-- Settles O12. -/
theorem messagesAndClock : Obligations.MessagesAndClock := by
  unfold Obligations.MessagesAndClock
  refine ⟨⟨?msend, fun d a s hf => ⟨execMrecv_misaligned hf, execMrecv_empty hf, fun m rest u ha hm hu => execMrecv_stores hf ha hm hu⟩,
    fun d s hf => ⟨execMpoll_reads hf, fun hm => ⟨execMwait_empty hf hm, execMhdr_empty hf hm⟩,
      fun m rest hm => ⟨execMwait_reads hf hm, execMhdr_reads hf hm⟩⟩⟩, fun d s hf => execClkrd_reads hf, ?clkadv, ?lwait⟩
  case msend =>
    intro d a b c tag s hf hrel
    have hf3 : s.Free [d, a, b] [] := hf.mono (fun r h => List.mem_append_left [c] h) nofun
    rw [exec_msend, execMsend, exec_msendI, execMsendI]
    refine ⟨fun h => ⟨ins_ok hf3 (sendMail_nowhere hrel h), ins_ok hf (sendMail_nowhere hrel h)⟩, fun x ht h12 h160 hq hx =>
      ⟨fun hn => ⟨ins_ok hf3 ?_, ins_ok hf ?_⟩, fun hn => ⟨ins_ok hf3 ?_, ins_ok hf ?_⟩⟩⟩
    · exact sendMail_full hrel ht h12 h160 hq hx hn
    · exact sendMail_full hrel ht h12 h160 hq hx hn
    · exact sendMail_puts hrel ht h12 h160 hq hx hn
    · exact sendMail_puts hrel ht h12 h160 hq hx hn
  case clkadv =>
    intro a off s p hf
    rw [exec_clkadvOff, execClkadvOff]
    refine ⟨fun hr => ⟨fun l hk hl hs => ?_, fun hk => ins_ok hf (clockAdvance_vault hr hk),
      fun hk hl => ins_ok hf (clockAdvance_absent hr hk hl)⟩, fun c v u hr => ins_ok hf (clockAdvance_fault hr), fun h0 => ?_⟩
    · rw [ins_ok hf (body := fun s => clockAdvance (s.ea a off) s) (clockAdvance_shared hr hk hl hs), State.modMe_modMe]
    · subst h0
      rw [exec_clkadv, execClkadv]
      simp only [State.ea_zero]
  case lwait =>
    intro d a off s p hf hx
    refine ⟨fun ha => ?_, fun h0 => ?_, fun ha hr hn => ⟨fun v u hk hl hu => execLwaitOff_loads hf hx ha hr hn hk hl hu,
      fun hk hd hl hw => execLwaitOff_watches hf hx ha hr hn hk hd hl hw,
      fun x t hk hd hv hp hl hw hxd ht => execLwaitOff_answered hf hx ha hr hn hk hd hv hp hl hw hxd ht⟩⟩
    · rw [exec_lwaitOff, execLwaitOff]
      exact ins_trap hf (waitLoad_misaligned hx ha)
    · subst h0
      rw [exec_lwait, execLwait, exec_lwaitOff, execLwaitOff]
      simp only [State.ea_zero]

end Sys2Proof.Machine

end

section
/-! PROOF of TRETIRE and of the end of a task that runs alone (R338, R157), and of TCANCEL and TSTAT (R341, R342). -/

namespace Sys2Proof.Machine

open Sys2Proof.Safety

/-! ## TRETIRE (R338) -/

section
variable {s : State} {k : Nat}

theorem State.joinAgents_busy (h : s.agentsDone k = false) : s.joinAgents k = .stall s := by
  rw [State.joinAgents, h]
  rfl

theorem State.joinAgents_failed {n : Nat} (h : s.agentsDone k = true)
    (hn : (List.range 32).find? (fun n => (s.me.token n).fpend) = some n) : s.joinAgents k =
    .trap 28 (report (s.me.token n).status 0 n)
      (s.modMe (fun x => (x.raise (s.agentsTime k)).setToken n { s.me.token n with fpend := false, unjoined := false })) := by
  simp only [State.joinAgents, h, Bool.not_true, Bool.false_eq_true, if_false, hn]

end

section
variable {a : Reg} {abs : Bool} {s : State}

theorem retire_illegal (hf : s.Free [] []) (h : s.me.task = none ∨ s.me.mode ≠ .u) : retire a abs s = .next (s.trap 2 s.me.ir) := by
  unfold retire
  dsimp only
  split
  · exact ins_trap hf rfl
  · rename_i k hk
    have hm : s.me.mode ≠ .u := h.resolve_left fun h => nomatch hk.symm.trans h
    rw [if_pos (bne_iff_ne.mpr hm)]
    exact ins_trap hf rfl

variable {k : Nat} (hk : s.me.task = some k) (hm : s.me.mode = .u)
include hk hm

theorem retire_waits {u : State} (hj : s.joinAgents k = .stall u) : retire a abs s = .next u := by
  simp only [retire, hk, hm, bne_self_eq_false, Bool.false_eq_true, if_false, hj, Act.andThen]

theorem retire_traps {u : State} {c : Nat} {v : Word} (hj : s.joinAgents k = .trap c v u) :
    retire a abs s = .next (u.trapFrom s.me.pts c v) := by
  simp only [retire, hk, hm, bne_self_eq_false, Bool.false_eq_true, if_false, hj, Act.andThen]

variable {u v : State} (hj : s.joinAgents k = .ok () u)
include hj

/-- x0, and a member that is not of rank 0, stores nothing. -/
theorem retire_plain (hp : a = 0 ∨ (u.me.dev.dmrLevel ≠ 0 ∧ u.me.dev.dmrRank ≠ 0)) (hr : u.releaseSystem = .ok () v) :
    retire a abs s = .next (v.memberEnds k abs false) := by
  have hput : (a != 0 && (decide (u.me.dev.dmrLevel = 0) || decide (u.me.dev.dmrRank = 0))) = false := by
    rcases hp with rfl | ⟨h1, h2⟩
    · rfl
    · rw [decide_eq_false h1, decide_eq_false h2]
      exact Bool.and_false _
  simp only [retire, hk, hm, bne_self_eq_false, Bool.false_eq_true, if_false, hj, Act.ok_andThen, hput, hr]

theorem retire_stores {t : Task} {w : State} (ht : s.task k = some t) (ha : a ≠ 0)
    (hp : u.me.dev.dmrLevel = 0 ∨ u.me.dev.dmrRank = 0)
    (ho : u.once (2 ^ 81) (fun u => (u.store (BitVec.ofNat 64 (t.addr + 0x60)) 8 (u.rx a).toNat).andThen fun _ x => .ok 0 x) = .ok 0 w)
    (hr : w.releaseSystem = .ok () v) : retire a abs s = .next (v.memberEnds k abs false) := by
  have hput : (a != 0 && (decide (u.me.dev.dmrLevel = 0) || decide (u.me.dev.dmrRank = 0))) = true := by
    rw [bne_iff_ne.mpr ha, Bool.true_and]
    exact Bool.or_eq_true_iff.mpr (hp.imp decide_eq_true decide_eq_true)
  simp only [retire, hk, hm, bne_self_eq_false, Bool.false_eq_true, if_false, hj, Act.ok_andThen, hput, if_true, ht, Option.map_some,
    Option.getD_some, ho, hr]

end

/-! ## The end of a task that runs alone (R157) -/

/-- The task when the member that it runs on has ended. -/
def Task.endedBy (t : Task) (m : Member) (abs cancel : Bool) (pts : Nat) : Task :=
  { t with members := [{ m with ended := true, cancelled := cancel }], endTime := max t.endTime pts, abs := abs }

/-- The state in which the hart's part has ended. -/
def State.hartEnded (s : State) (k : Nat) (t : Task) : State :=
  (s.setTask k t).modMe (fun x => { x with status := .ended, pc := x.npc, instret := x.instret + 1, partials := [], entering := [] })

theorem State.memberEnds_alone {s : State} {k : Nat} {t : Task} {m : Member} (abs cancel : Bool) (ht : s.task k = some t)
    (hm : t.members = [m]) (hh : m.hart = s.cur) (hr : m.rank = 0) : s.memberEnds k abs cancel =
      if cancel then ((s.hartEnded k (t.endedBy m abs cancel s.me.pts)).withdrawFrom (t.endedBy m abs cancel s.me.pts)
        (t.endedBy m abs cancel s.me.pts).pendingEntries).endTask k 10 0 s.cur false
      else ((s.hartEnded k (t.endedBy m abs cancel s.me.pts)).retireTask k).releaseHart s.cur t.asid true := by
  have hno : (t.endedBy m abs cancel s.me.pts).hartNo = s.cur := by
    simp only [Task.hartNo, Task.endedBy, hr, beq_self_eq_true, List.find?_cons_of_pos, hh]
  have h0 : (m.hart == s.cur && m.rank == 0) = true := by
    rw [hh, hr, beq_self_eq_true, beq_self_eq_true, Bool.and_self]
  unfold State.memberEnds
  rw [ht]
  simp only [hm, List.map_cons, List.map_nil, if_pos hh, List.any_cons, List.any_nil, h0, List.all_cons, List.all_nil, Bool.and_self,
    Bool.or_false, if_true, List.foldl_cons, List.foldl_nil]
  cases cancel with
  | false => exact congrArg (fun h => State.releaseHart _ h t.asid true) hh
  | true => exact congrArg (fun n => State.endTask _ k 10 0 n false) (hno ▸ rfl)

/-- Settles O15. -/
theorem taskEnd : Obligations.TaskEnd := by
  unfold Obligations.TaskEnd
  refine ⟨⟨fun a s hf h => ⟨retire_illegal hf h, retire_illegal hf h⟩, fun a s k hk hm hd => ?busy,
    fun a s u v k hk hm hj hp hr => ⟨retire_plain hk hm hj hp hr, retire_plain hk hm hj hp hr⟩,
    fun a s u w v k t hk ht hm hj ha hp ho hr => ⟨retire_stores hk hm hj ht ha hp ho hr, retire_stores hk hm hj ht ha hp ho hr⟩,
    fun a s k n hk hm hd hn => ?failed⟩, fun s k t m abs cancel ht hm hh hr => ?alone⟩
  case busy =>
    exact ⟨retire_waits hk hm (State.joinAgents_busy hd), retire_waits hk hm (State.joinAgents_busy hd)⟩
  case failed =>
    have hj := State.joinAgents_failed hd hn
    exact ⟨_, retire_traps hk hm hj, retire_traps hk hm hj, rfl⟩
  case alone =>
    refine ⟨t.endedBy m abs cancel s.me.pts, s.hartEnded k (t.endedBy m abs cancel s.me.pts), rfl, rfl, rfl, rfl, rfl, rfl, rfl,
      State.task_setTask_self s k _, ?_, State.memberEnds_alone abs cancel ht hm hh hr⟩
    rw [State.hartEnded, State.me_modMe]

/-! ## TCANCEL and TSTAT (R341, R342) -/

theorem execTcancel_own {d a : Reg} {s v : State} {k : Nat} (hk : s.me.task = some k)
    (ht : (s.task k).map (·.addr) = some (s.rx a).toNat) (ha : s.me.xBusy a.toNat = false) (hd : s.me.xBusy d.toNat = false)
    (hl : s.loadFaults (s.rx a) = .ok () s) (hg : s.agentsDone k = true) (hr : s.releaseSystem = .ok () v) :
    exec (.tcancel d a) s = .next (v.memberEnds k false true) := by
  rw [exec_tcancel]
  simp only [execTcancel, hk, if_pos ht, List.any_cons, List.any_nil, ha, hd, Bool.or_self, Bool.false_eq_true, if_false, hl,
    Act.ok_andThen, hg, Bool.not_true, hr]

/-- Of another task than the hart's own: the load's faults, then what becomes of the task. -/
theorem execTcancel_other {d a : Reg} {s : State} (hf : s.Free [d, a] [])
    (hk : ∀ k : Nat, s.me.task = some k → (s.task k).map (·.addr) ≠ some (s.rx a).toNat) (hl : s.loadFaults (s.rx a) = .ok () s) :
    exec (.tcancel d a) s = .next ((cancelOther d (s.rx a).toNat s).modMe Hart.retire) := by
  have hb : (s.loadFaults (s.rx a)).andThen (fun _ s => Act.ok () (cancelOther d (s.rx a).toNat s)) =
      .ok () (cancelOther d (s.rx a).toNat s) := by
    rw [hl, Act.ok_andThen]
  rw [exec_tcancel, execTcancel]
  cases h : s.me.task with
  | none => exact ins_ok hf hb
  | some k =>
    dsimp only
    rw [if_neg (hk k h)]
    exact ins_ok hf hb

section
variable {d : Reg} {addr : Nat} {s : State}

theorem cancelOther_nowhere (hh : s.heldTask (s.asidOf s.cur) addr = none)
    (hp : s.tcbPlace (s.asidOf s.cur) .load (addr + 0x58) = none) : cancelOther d addr s = s.wx d 4 := by
  simp only [cancelOther, hh, hp]
  rw [if_neg (by simp)]

variable {k : Nat} {t : Task} (hh : s.heldTask (s.asidOf s.cur) addr = some (k, t))
include hh

theorem cancelOther_ending (he : t.ending ≠ none) : cancelOther d addr s = s.wx d 3 := by
  simp only [cancelOther, hh, Option.isSome_iff_ne_none.mpr he, if_true]

variable (he : t.ending = none)
include he

theorem cancelOther_waiting (hs : t.state = 1 ∨ t.state = 2) :
    cancelOther d addr s = ((s.withdrawFrom t t.pendingEntries).endTask k 10 0 0xFFF false).wx d 0 := by
  simp only [cancelOther, hh, he, Option.isSome_none, Bool.false_eq_true, if_false]
  exact if_pos (Bool.or_eq_true_iff.mpr (hs.imp decide_eq_true decide_eq_true))

theorem cancelOther_running (hs : t.state = 3 ∨ t.state = 4 ∨ t.state = 5) : cancelOther d addr s = s.wx d 2 := by
  have h1 : t.state ≠ 1 := by omega
  have h2 : t.state ≠ 2 := by omega
  simp only [cancelOther, hh, he, Option.isSome_none, decide_eq_false h1, decide_eq_false h2, Bool.or_self, Bool.false_eq_true, if_false]

end

/-- A write of one register, then the end of the instruction. -/
theorem State.wx_retire (s : State) (d : Reg) (v : Word) : (s.wx d v).modMe Hart.retire = s.modMe (fun h => (h.wx d v).retire) := by
  rw [State.wx_eq, State.modMe_modMe]

theorem execTstat_held {d a : Reg} {s : State} {k : Nat} {t : Task} (hf : s.Free [d, a] [])
    (hh : s.heldTask (s.asidOf s.cur) (s.rx a).toNat = some (k, t)) :
    exec (.tstat d a) s = .next (s.modMe (fun h => (h.wx d (BitVec.ofNat 64 (t.demand * 2 ^ 48 + t.count * 2 ^ 32
      + t.statusLow t.state 0 (if t.members.isEmpty then 0 else t.hartNo)))).retire)) := by
  rw [exec_tstat, execTstat]
  refine ins_writes hf ?_
  dsimp only
  rw [hh]

/-- Settles O16. -/
theorem taskCancel : Obligations.TaskCancel := by
  unfold Obligations.TaskCancel
  refine ⟨⟨fun d a s v k hk ht ha hd hl hg hr => execTcancel_own hk ht ha hd hl hg hr, fun d a s hf hk hl => ?other⟩,
    fun d a s k t hf hh => execTstat_held hf hh⟩
  case other =>
    rw [execTcancel_other hf hk hl]
    refine ⟨fun k t hh => ⟨fun he hs => ?_, fun he hs => ?_, fun he => ?_⟩, fun hh hp => ?_⟩
    · rw [cancelOther_waiting hh he hs]
    · rw [cancelOther_running hh he hs, State.wx_retire]
    · rw [cancelOther_ending hh he, State.wx_retire]
    · rw [cancelOther_nowhere hh hp, State.wx_retire]

end Sys2Proof.Machine

end

section
/-! PROOF of TYIELD (R339), of the supervisor instructions CTXPRE, CTXREL, MCSET and AUDAPP (R365 to R368), and of the trace instructions
TRMARK and TRTRIG (R186, R187). -/

namespace Sys2Proof.Machine

open Sys2Proof.Safety

theorem State.Free.nothing {s : State} {xs vs : List Reg} (hf : s.Free xs vs) : s.Free [] [] := hf.mono nofun nofun

/-! ## TYIELD (R339) -/

section
variable {s : State} (hf : s.Free [] [])
include hf

theorem execTyield_illegal (hm : s.me.mode ≠ .u) : exec .tyield s = .next (s.trap 2 s.me.ir) := by
  rw [exec_tyield, execTyield]
  exact ins_trap hf (if_pos (bne_iff_ne.mpr hm))

variable (hm : s.me.mode = .u)
include hm

theorem execTyield_noTask (hk : s.me.task = none) : exec .tyield s = .next (s.modMe Hart.retire) := by
  rw [exec_tyield, execTyield]
  refine ins_ok hf ?_
  simp only [hm, bne_self_eq_false, Bool.false_eq_true, if_false, hk, Option.bind_none]

variable {k : Nat} {t : Task} (hk : s.me.task = some k) (ht : s.task k = some t) (hp : s.pendingMove s.cur = none)
include hk ht hp

theorem execTyield_noRing (hr : (s.stageOf t).bind (s.stageRing t.asid) = none) : exec .tyield s = .next (s.modMe Hart.retire) := by
  rw [exec_tyield, execTyield]
  refine ins_ok hf ?_
  simp only [hm, bne_self_eq_false, Bool.false_eq_true, if_false, hk, Option.bind_some, ht, hp, Option.isSome_none, hr]

variable {r : Ring} (hr : (s.stageOf t).bind (s.stageRing t.asid) = some r)
include hr

theorem execTyield_goesOn (hg : r.published ≠ 0 ∨ r.eos = true) : exec .tyield s = .next (s.modMe Hart.retire) := by
  have hn : (decide (r.published = 0) && !r.eos) = false := by
    rcases hg with h | h
    · rw [decide_eq_false h, Bool.false_and]
    · rw [h, Bool.not_true, Bool.and_false]
  rw [exec_tyield, execTyield]
  refine ins_ok hf ?_
  simp only [hm, bne_self_eq_false, Bool.false_eq_true, if_false, hk, Option.bind_some, ht, hp, Option.isSome_none, hr, hn]

theorem execTyield_parks (h0 : r.published = 0) (he : r.eos = false) :
    exec .tyield s = .next (s.modMe (fun h => { h with status := .parked, parkedCycles := 0 })) := by
  rw [exec_tyield, execTyield]
  refine ins_stall hf ?_
  simp only [hm, bne_self_eq_false, Bool.false_eq_true, if_false, hk, Option.bind_some, ht, hp, Option.isSome_none, hr, h0, he,
    decide_true, Bool.not_false, Bool.and_self, if_true]

end

/-! ## The modes of the supervisor instructions -/

theorem Mode.code_u_low {mode : Mode} (h : mode = .u) : mode.code < Mode.s.code := by
  subst h
  decide

theorem Mode.code_not_u {mode : Mode} (h : mode ≠ .u) : ¬ mode.code < Mode.s.code := by
  cases mode with
  | u => exact absurd rfl h
  | s => decide
  | m => decide

theorem Mode.code_not_m {mode : Mode} (h : mode ≠ .m) : mode.code < Mode.m.code := by
  cases mode with
  | u => decide
  | s => decide
  | m => exact absurd rfl h

theorem Mode.code_m {mode : Mode} (h : mode = .m) : ¬ mode.code < Mode.m.code := by
  subst h
  decide

/-! ## CTXPRE and CTXREL (R365, R366) -/

section
variable {d a b : Reg} {s : State} (hf : s.Free [d, a, b] [])
include hf

theorem execCtxpre_user (hm : s.me.mode = .u) : exec (.ctxpre d a b) s = .next (s.trap 2 s.me.ir) := by
  rw [exec_ctxpre, execCtxpre]
  exact ins_trap hf (atLeast_low (Mode.code_u_low hm) _)

variable (hm : s.me.mode ≠ .u)
include hm

theorem execCtxpre_noContext (hc : s.context (s.rx a).toNat = none) :
    exec (.ctxpre d a b) s = .next (s.modMe (fun h => (h.wx d (-1)).retire)) := by
  rw [exec_ctxpre, execCtxpre]
  refine ins_writes hf ((atLeast_ok (Mode.code_not_u hm) _).trans ?_)
  rw [preempt, hc]
  rfl

variable {x : Context} (hc : s.context (s.rx a).toNat = some x) (hl : x.live = true)
include hc hl

theorem execCtxpre_action (ha : 2 < (s.rx b).toNat) :
    exec (.ctxpre d a b) s = .next (s.modMe (fun h => (h.wx d (-2)).retire)) := by
  rw [exec_ctxpre, execCtxpre]
  refine ins_writes hf ((atLeast_ok (Mode.code_not_u hm) _).trans ?_)
  rw [preempt, hc, Option.filter_some_pos hl]
  exact if_pos ha

theorem execCtxpre_lifts (ha : (s.rx b).toNat = 2) : exec (.ctxpre d a b) s =
    .next (((s.modContext (s.rx a).toNat (fun x => { x with hold := false })).wx d 0).modMe Hart.retire) := by
  rw [exec_ctxpre, execCtxpre]
  refine ins_ok hf ((atLeast_ok (Mode.code_not_u hm) _).trans ?_)
  rw [preempt, hc, Option.filter_some_pos hl, ha]
  rfl

/-- On a context that runs nothing there is nothing to stop and nothing to wait for. -/
theorem execCtxpre_idle (ha : (s.rx b).toNat = 0) (ht : s.tasksOn (s.rx a).toNat = [])
    (hp : Store.find? s.me.partials (2 ^ 83) = none) : exec (.ctxpre d a b) s =
    .next (((s.modMe (fun h => { h with partials := Store.put h.partials (2 ^ 83) 0 })).wx d 0).modMe Hart.retire) := by
  have hrun : s.runningOn (s.rx a).toNat = [] := by
    rw [State.runningOn, ht, List.filter_nil]
  have hkeep (f : Hart → Hart) : (s.modMe f).tasksOn (s.rx a).toNat = [] := ht
  rw [exec_ctxpre, execCtxpre]
  refine ins_ok hf ((atLeast_ok (Mode.code_not_u hm) _).trans ?_)
  rw [preempt, hc, Option.filter_some_pos hl, ha]
  simp only [State.once, hp, hrun, Nat.not_lt_zero, if_false, (by decide : (0 : Nat) ≠ 2), (by decide : (0 : Nat) ≠ 1), List.foldl_nil,
    List.length_nil, Act.ok_andThen, hkeep, List.any_nil, Bool.false_eq_true]
  rfl

end

section
variable {d a : Reg} {s : State} (hf : s.Free [d, a] [])
include hf

theorem execCtxrel_user (hm : s.me.mode = .u) : exec (.ctxrel d a) s = .next (s.trap 2 s.me.ir) := by
  rw [exec_ctxrel, execCtxrel]
  exact ins_trap hf (atLeast_low (Mode.code_u_low hm) _)

variable (hm : s.me.mode ≠ .u)
include hm

theorem execCtxrel_noContext (hc : s.context (s.rx a).toNat = none) :
    exec (.ctxrel d a) s = .next (s.modMe (fun h => (h.wx d (-1)).retire)) := by
  rw [exec_ctxrel, execCtxrel]
  refine ins_writes hf ((atLeast_ok (Mode.code_not_u hm) _).trans ?_)
  dsimp only
  rw [hc]

variable {x : Context} (hc : s.context (s.rx a).toNat = some x)
include hc

theorem execCtxrel_starts (hl : x.live = true) :
    exec (.ctxrel d a) s = .next (((s.startRelease (s.rx a).toNat).wx d 0).modMe Hart.retire) := by
  rw [exec_ctxrel, execCtxrel]
  refine ins_ok hf ((atLeast_ok (Mode.code_not_u hm) _).trans ?_)
  dsimp only
  rw [hc]
  exact if_pos hl

theorem execCtxrel_again (hl : x.live = false) : exec (.ctxrel d a) s = .next (s.modMe (fun h => (h.wx d 1).retire)) := by
  rw [exec_ctxrel, execCtxrel]
  refine ins_writes hf ((atLeast_ok (Mode.code_not_u hm) _).trans ?_)
  dsimp only
  rw [hc]
  exact if_neg (ne_true_of_eq_false hl)

end

/-! ## MCSET (R367) -/

/-- The multicast groups with one set to a mask, or freed by an empty one. -/
def State.setGroup (s : State) (g asid : Nat) (mask : BitVec 640) : State :=
  s.modDisp (fun x => { x with mcast := if mask = 0 then Store.del x.mcast g else Store.put x.mcast g (asid, mask) })

section
variable {d a b : Reg} {s : State} (hf : s.Free [d, a, b] [])
include hf

theorem execMcset_user (hm : s.me.mode = .u) : exec (.mcset d a b) s = .next (s.trap 2 s.me.ir) := by
  rw [exec_mcset, execMcset]
  exact ins_trap hf (atLeast_low (Mode.code_u_low hm) _)

variable (hm : s.me.mode ≠ .u) (hb : (s.rx b).toNat % 8 = 0)
include hm hb

theorem execMcset_unreadable (hs : s.superBytes (s.rx b).toNat 80 = none) : exec (.mcset d a b) s = .next (s.trap 5 (s.rx b)) := by
  rw [exec_mcset, execMcset]
  refine ins_trap hf ((atLeast_ok (Mode.code_not_u hm) _).trans ((if_neg (not_not_intro hb)).trans ?_))
  rw [hs]

variable {bs : List Byte} (hs : s.superBytes (s.rx b).toNat 80 = some bs)
include hs

theorem execMcset_otherBits (hw : natBits (s.rx a).toNat 12 4 ≠ 0) :
    exec (.mcset d a b) s = .next (s.modMe (fun h => (h.wx d 2).retire)) := by
  rw [exec_mcset, execMcset]
  refine ins_writes hf ((atLeast_ok (Mode.code_not_u hm) _).trans ((if_neg (not_not_intro hb)).trans ?_))
  rw [hs]
  exact if_pos (by rw [decide_eq_true hw, Bool.true_or, Bool.true_or, Bool.true_or])

variable (hw : natBits (s.rx a).toNat 12 4 = 0) (hw' : (s.rx a).toNat / 2 ^ 32 = 0)
  (hg : ∀ e, Store.find? s.disp.mcast (natBits (s.rx a).toNat 0 12) = some e → e.1 = natBits (s.rx a).toNat 16 16)
  (hq : ∀ q : Nat, q < 640 → (BitVec.ofNat 640 (ofBytes bs)).getLsbD q = true →
    s.quadPresent q = true ∧ (s.liveContexts (natBits (s.rx a).toNat 16 16)).any (fun c => c.2.quad == q) = true)
include hw hw' hg hq

omit hf hm hb hs in
/-- Nothing of the word, the group and the mask is refused. -/
theorem mcset_accepts : ¬ ((natBits (s.rx a).toNat 12 4 ≠ 0 || (s.rx a).toNat / 2 ^ 32 ≠ 0) ||
    (Store.find? s.disp.mcast (natBits (s.rx a).toNat 0 12)).any (fun e => e.1 != natBits (s.rx a).toNat 16 16) ||
    (List.range 640).any (fun q => (BitVec.ofNat 640 (ofBytes bs)).getLsbD q && (!s.quadPresent q ||
      !(s.liveContexts (natBits (s.rx a).toNat 16 16)).any (fun c => c.2.quad == q)))) = true := by
  have hforeign : (Store.find? s.disp.mcast (natBits (s.rx a).toNat 0 12)).any (fun e => e.1 != natBits (s.rx a).toNat 16 16)
      = false := by
    cases h : Store.find? s.disp.mcast (natBits (s.rx a).toNat 0 12) with
    | none => rfl
    | some e => exact bne_eq_false_iff_eq.mpr (hg e h)
  have hbad : (List.range 640).any (fun q => (BitVec.ofNat 640 (ofBytes bs)).getLsbD q && (!s.quadPresent q ||
      !(s.liveContexts (natBits (s.rx a).toNat 16 16)).any (fun c => c.2.quad == q))) = false := by
    refine List.any_eq_false.mpr fun q hm => ?_
    cases hbit : (BitVec.ofNat 640 (ofBytes bs)).getLsbD q with
    | false => exact Bool.false_ne_true
    | true =>
      obtain ⟨h1, h2⟩ := hq q (List.mem_range.mp hm) hbit
      rw [h1, h2]
      exact Bool.false_ne_true
  rw [decide_eq_false (not_not_intro hw), decide_eq_false (not_not_intro hw'), hforeign, hbad]
  exact Bool.false_ne_true

theorem execMcset_busy (hg' : s.groupBusy (natBits (s.rx a).toNat 0 12) = true) :
    exec (.mcset d a b) s = .next (s.modMe (fun h => (h.wx d 1).retire)) := by
  rw [exec_mcset, execMcset]
  refine ins_writes hf ((atLeast_ok (Mode.code_not_u hm) _).trans ((if_neg (not_not_intro hb)).trans ?_))
  rw [hs]
  exact (if_neg (mcset_accepts hw hw' hg hq)).trans (if_pos hg')

theorem execMcset_sets (hg' : s.groupBusy (natBits (s.rx a).toNat 0 12) = false) : exec (.mcset d a b) s =
    .next (((s.setGroup (natBits (s.rx a).toNat 0 12) (natBits (s.rx a).toNat 16 16) (BitVec.ofNat 640 (ofBytes bs))).wx d
      0).modMe Hart.retire) := by
  rw [exec_mcset, execMcset]
  refine ins_ok hf ((atLeast_ok (Mode.code_not_u hm) _).trans ((if_neg (not_not_intro hb)).trans ?_))
  rw [hs]
  exact (if_neg (mcset_accepts hw hw' hg hq)).trans (if_neg (ne_true_of_eq_false hg'))

end

/-! ## AUDAPP (R368) -/

section
variable {d a b : Reg} {s : State} (hf : s.Free [d, a, b] [])
include hf

theorem execAudapp_low (hm : s.me.mode ≠ .m) : exec (.audapp d a b) s = .next (s.trap 2 s.me.ir) := by
  rw [exec_audapp, execAudapp]
  exact ins_trap hf (atLeast_low (Mode.code_not_m hm) _)

variable (hm : s.me.mode = .m)
include hm

theorem execAudapp_misaligned (hb : (s.rx b).toNat % 8 ≠ 0) : exec (.audapp d a b) s = .next (s.trap 4 (s.rx b)) := by
  rw [exec_audapp, execAudapp]
  exact ins_trap hf ((atLeast_ok (Mode.code_m hm) _).trans (if_pos hb))

variable {p : Place} (hb : (s.rx b).toNat % 8 = 0)
  (hp : s.physPlace { mode := .m, asid := 0, bare := true, root := 0 } .load (s.rx b).toNat = .ok p) (hk : p.kind = .hbm)
  (hr : s.rangePoisoned (s.rx b).toNat 24 = false)
include hb hp hk hr

theorem execAudapp_full (ha : s.rtu.auditFull = true) :
    exec (.audapp d a b) s = .next (s.modMe (fun h => (h.wx d (BitVec.allOnes 64)).retire)) := by
  rw [exec_audapp, execAudapp]
  refine ins_writes hf ((atLeast_ok (Mode.code_m hm) _).trans ((if_neg (not_not_intro hb)).trans ?_))
  simp only [hp, hk, bne_self_eq_false, hr, Bool.or_self, Bool.false_eq_true, if_false, ha, if_true]

theorem execAudapp_appends (ha : s.rtu.auditFull = false) : exec (.audapp d a b) s =
    .next ((((s.audit (0x8000 + natBits (s.rx a).toNat 0 15) s.cur (s.asidOf s.cur)
      (ofBytes (s.peekBytes (s.rx b).toNat 24))).passCycles 1).wx d (BitVec.ofNat 64 s.rtu.seq)).modMe Hart.retire) := by
  rw [exec_audapp, execAudapp]
  refine ins_ok hf ((atLeast_ok (Mode.code_m hm) _).trans ((if_neg (not_not_intro hb)).trans ?_))
  simp only [hp, hk, bne_self_eq_false, hr, Bool.or_self, Bool.false_eq_true, if_false, ha]

end

/-! ## TRMARK and TRTRIG (R186, R187) -/

theorem Hart.traces_off {h : Hart} (he : h.dev.trcfg.getLsbD 0 = false) (cls : Nat) : h.traces cls = false := by
  rw [Hart.traces, he, Bool.false_and, Bool.false_and]

/-- A hart marks its trace with a value, and triggers when the value is the one that TMODE 3 looks for. -/
def Hart.marked (h : Hart) (cycle : Nat) (v : Word) : Hart :=
  let m := h.record cycle 0 9 v
  if fld m.dev.trcfg 10 2 = 3 ∧ fld v 0 32 = fld m.dev.trcfg 32 32 then m.trigger cycle else m

theorem traceMark_eq (v : Word) (s : State) : traceMark v s = .ok () (s.modMe (·.marked s.cycle v)) := by
  have hme : (s.record 0 9 v).me = s.me.record s.cycle 0 9 v := State.me_modMe s _
  simp only [traceMark, hme, Bool.and_eq_true, decide_eq_true_eq]
  split
  next h =>
    rw [State.record, State.modMe_modMe]
    exact congrArg _ (State.modMe_congr s (if_pos h).symm)
  next h => exact congrArg _ (State.modMe_congr s (if_neg h).symm)

theorem Hart.marked_off {h : Hart} (he : h.dev.trcfg.getLsbD 0 = false) (cycle : Nat) (v : Word) : h.marked cycle v = h := by
  have hr : h.record cycle 0 9 v = h := if_neg (ne_true_of_eq_false (Hart.traces_off he 0))
  have ht : h.trigger cycle = h := if_neg (ne_true_of_eq_false (Hart.traces_off he 0))
  simp only [Hart.marked, hr, ht, ite_self]

section
variable {a : Reg} {s : State} (hf : s.Free [a] [])
include hf

theorem execTrmark_marks : exec (.trmark a) s = .next (s.modMe (fun h => (h.marked s.cycle (s.rx a)).retire)) := by
  rw [exec_trmark, execTrmark, ins_ok hf (body := fun s => traceMark (s.rx a) s) (traceMark_eq _ s), State.modMe_modMe]

theorem execTrmarkI_marks (imm : BitVec 24) : exec (.trmarkI imm) s = .next (s.modMe (fun h => (h.marked s.cycle (sx imm)).retire)) := by
  rw [exec_trmarkI, execTrmarkI, ins_ok hf.nothing (traceMark_eq (sx imm) s), State.modMe_modMe]

theorem execTrtrig_triggers (ht : fld s.me.dev.trcfg 10 2 = 1) :
    exec .trtrig s = .next (s.modMe (fun h => (h.trigger s.cycle).retire)) := by
  rw [exec_trtrig, execTrtrig, ins_ok (t := s.modMe (·.trigger s.cycle)) hf.nothing (if_pos ht), State.modMe_modMe]

theorem execTrtrig_plain (ht : fld s.me.dev.trcfg 10 2 ≠ 1) : exec .trtrig s = .next (s.modMe Hart.retire) := by
  rw [exec_trtrig, execTrtrig, ins_ok (t := s) hf.nothing (if_neg ht)]

theorem execTrtrig_off (he : s.me.dev.trcfg.getLsbD 0 = false) : exec .trtrig s = .next (s.modMe Hart.retire) := by
  by_cases ht : fld s.me.dev.trcfg 10 2 = 1
  · rw [execTrtrig_triggers hf ht]
    exact congrArg _ (State.modMe_congr s (congrArg Hart.retire (if_neg (ne_true_of_eq_false (Hart.traces_off he 0)))))
  · exact execTrtrig_plain hf ht

end

/-- The first word of an entry holds its kind in bits 39:32. -/
theorem traceEntry_kind (seq : W32) (kind : Nat) (lost : Bool) (hk : kind < 2 ^ 8) :
    fld (BitVec.ofNat 64 (seq.toNat + kind * 2 ^ 32 + (if lost then 2 ^ 40 else 0))) 32 8 = BitVec.ofNat 8 kind := by
  apply BitVec.eq_of_toNat_eq
  have hs := seq.isLt
  have hw : seq.toNat + kind * 2 ^ 32 + (if lost then 2 ^ 40 else 0) < 2 ^ 64 := by
    split <;> omega
  rw [fld, BitVec.extractLsb'_toNat, BitVec.toNat_ofNat, BitVec.toNat_ofNat, Nat.mod_eq_of_lt hw, Nat.shiftRight_eq_div_pow]
  split <;> omega

section
variable {h : Hart} {c : Nat} (he : h.dev.trcfg.getLsbD 0 = true) (hz : h.dev.trcfg.getLsbD 8 = false)
  (hp : (fld h.dev.trcfg 23 9).toNat = 0)
include he hz hp

/-- A trigger with POST 0 pushes its entry and freezes the buffer. -/
theorem Hart.trigger_freezes : ∃ tr, h.trigger c = { h.tracePush c 10 (zx (fld h.dev.trcfg 10 2)) with
    trace := tr, dev := { h.dev with trcfg := h.dev.trcfg ||| 0x100 } } ∧
    tr.entries = (h.tracePush c 10 (zx (fld h.dev.trcfg 10 2))).trace.entries := by
  have ht : h.traces 0 = true := by
    rw [Hart.traces, he, hz]
    rfl
  exact ⟨_, (if_pos ht).trans (if_pos hp), rfl⟩

theorem Hart.trigger_frozen : (h.trigger c).dev.trcfg.getLsbD 8 = true := by
  obtain ⟨tr, h1, -⟩ := Hart.trigger_freezes (c := c) he hz hp
  rw [h1, BitVec.getLsbD_or]
  exact Bool.or_true _

theorem Hart.trigger_entry : (h.trigger c).trace.entries.head?.map (fun e => fld e.w0 32 8) = some (10 : BitVec 8) := by
  obtain ⟨tr, h1, h2⟩ := Hart.trigger_freezes (c := c) he hz hp
  rw [h1]
  dsimp only
  rw [h2]
  exact congrArg some (traceEntry_kind h.trace.seq 10 h.trace.lost (by decide))

end

/-- Settles O17. -/
theorem contextInstructions : Obligations.ContextInstructions := by
  unfold Obligations.ContextInstructions
  refine ⟨fun s hf => ⟨execTyield_illegal hf, execTyield_noTask hf, fun k t hm hk ht hp => ⟨execTyield_noRing hf hm hk ht hp,
    fun r hr => ⟨execTyield_goesOn hf hm hk ht hp hr, execTyield_parks hf hm hk ht hp hr⟩⟩⟩, ⟨fun d a b s hf => ?super,
    fun d a s hf => ⟨execCtxrel_user hf, fun hm => ⟨execCtxrel_noContext hf hm, fun x hc =>
      ⟨execCtxrel_starts hf hm hc, fun hl _ => execCtxrel_again hf hm hc hl⟩⟩⟩⟩, fun a imm s hf => ?trace,
    fun h c he hz hp => ⟨Hart.trigger_frozen he hz hp, Hart.trigger_entry he hz hp⟩⟩
  case super =>
    refine ⟨fun hm => ⟨execCtxpre_user hf hm, execMcset_user hf hm⟩, execAudapp_low hf,
      fun hm => ⟨execCtxpre_noContext hf hm, fun x hc hl => ⟨execCtxpre_action hf hm hc hl, execCtxpre_lifts hf hm hc hl,
        fun ha ht hp => ⟨_, execCtxpre_idle hf hm hc hl ha ht hp, ?_, ?_, rfl⟩⟩⟩,
      fun hm hb hs => execMcset_unreadable hf hm hb hs, fun bs hm hb hs => ⟨execMcset_otherBits hf hm hb hs, fun hw hw' hg hq =>
        ⟨execMcset_busy hf hm hb hs hw hw' hg hq, execMcset_sets hf hm hb hs hw hw' hg hq⟩⟩, execAudapp_misaligned hf,
      fun p hm hb hp hk hr => ⟨execAudapp_full hf hm hb hp hk hr, execAudapp_appends hf hm hb hp hk hr⟩⟩
    · rw [State.wx_eq, State.modMe_modMe, State.modMe_modMe, State.me_modMe]
      unfold Hart.wx
      split <;> rfl
    · rw [State.wx_eq, State.modMe_modMe, State.modMe_modMe, State.me_modMe]
      unfold Hart.wx
      split <;> rfl
  case trace =>
    refine ⟨fun he => ⟨?_, ?_, execTrtrig_off hf he⟩, fun v h hh => ⟨fun hv => ?_, fun hv => ?_⟩, execTrtrig_triggers hf,
      execTrtrig_plain hf⟩
    · rw [execTrmark_marks hf]
      exact congrArg _ (State.modMe_congr s (congrArg Hart.retire (Hart.marked_off he _ _)))
    · rw [execTrmarkI_marks hf]
      exact congrArg _ (State.modMe_congr s (congrArg Hart.retire (Hart.marked_off he _ _)))
    · subst hh hv
      rw [execTrmark_marks hf]
      exact congrArg _ (State.modMe_congr s rfl)
    · subst hh hv
      rw [execTrmarkI_marks hf]
      exact congrArg _ (State.modMe_congr s rfl)

end Sys2Proof.Machine

end
